-- ==== Sys2Proof/Word.lean ====
section
/-! DEFINITION. The byte, the unit of time and the plain table every part of the model is built from. -/

namespace Sys2Proof

/-- One byte of a message, of the flash or of package memory. -/
abbrev Byte := BitVec 8

/-- A table: entries by number. An entry that is not listed has the value its reader names. -/
abbrev Tab (α : Type) := List (Nat × α)

end Sys2Proof
end

