-- ==== Sys2Proof/Syntax.lean ====
section
/-! DEFINITION. The commands the block takes: one constructor of `Instr` for each row of spec/opcode_table.json, and the
operand types they carry. Every command begins with `dt`, the time that has passed since the command before it, in the
spec's unit of 2⁻¹⁶ ns (R46, R299). -/

namespace Sys2Proof

/-- The transport session a management request comes from (R450): a UDP source address and port, or a CAN FD node. -/
inductive Src where
  | udp (addr port : Nat)
  | can (node : Nat)
deriving DecidableEq, Repr

/-- A management request's sender and its transaction number SEQ (R442). -/
structure Req where
  src : Src
  seq : Nat
deriving DecidableEq, Repr

/-- The header fields of a received packet that legs and policers look at (R73, R292, R294).
Addresses are 128-bit numbers: IPv6, or IPv4 in its mapped form. -/
structure PktHdr where
  port : Nat
  dst : Nat
  udp : Nat
  src : Nat
  srcUdp : Nat
  vlan : Nat
  dscp : Nat
  bytes : Nat
deriving DecidableEq, Repr

/-- One sample row data segment of an ST 2110-20 packet: its row number, its offset in pixels, its length in octets, and the
samples it carries, pixel by pixel, as (Y, Cb, Cr) or (G, B, R) at the flow's own depth (R79, R80). -/
structure Seg where
  line : Nat
  off : Nat
  len : Nat
  px : List (Nat × Nat × Nat)
deriving DecidableEq, Repr

/-- An ST 2110-20 packet (R69 to R81). -/
structure VideoPkt where
  hdr : PktHdr
  rtpTs : Nat
  seq : Nat
  extSeq : Nat
  segs : List Seg
deriving DecidableEq, Repr

/-- An ST 2110-30 packet: `samples` holds, for each sampling instant, one value for each audio channel (R93, R94). -/
structure AudioPkt where
  hdr : PktHdr
  rtpTs : Nat
  seq : Nat
  samples : List (List Int)
deriving DecidableEq, Repr

/-- One ANC data packet of an ST 2110-40 packet (R95, R247). -/
structure AncData where
  did : Nat
  sdid : Nat
  raw : List Byte
deriving DecidableEq, Repr

/-- An ST 2110-40 packet. -/
structure AncPkt where
  hdr : PktHdr
  rtpTs : Nat
  seq : Nat
  anc : List AncData
deriving DecidableEq, Repr

/-- The kinds of coded picture that matter to a decoder's start and recovery (R181, R185). -/
inductive PicKind where
  | idr
  | cra
  | gdr
  | recoveryPoint
  | rasl
  | other
deriving DecidableEq, Repr

/-- What DP0 reads from the headers of an access unit of a compressed layer source (R172, R179, R181 to R185, R199). `refs` names the pictures of
the active reference lists by PicOrderCntVal, `keep` all that keep a reference mark, `longs` those among them that are long-term; `reorder`
and `latency` are the sequence's limits of the output process, `vui` its matrix_coeffs and full-range flag. `tag` is the capture time of a
freshness tag, in units of 2⁻¹⁶ ns. -/
structure CodedPic where
  codec : Nat
  kind : PicKind
  poc : Int
  refs : List Int
  keep : List Int
  longs : List Int
  output : Bool
  noPrior : Bool
  reorder : Nat
  latency : Nat
  recoveryCnt : Nat
  width : Nat
  height : Nat
  dpbMinus1 : Nat
  chroma : Nat
  depth : Nat
  vui : Option (Nat × Nat)
  level : Nat
  tag : Option Int
  damaged : Bool
deriving DecidableEq, Repr

/-- A packet of a compressed layer source (R178). `begins` marks the first packet of an access unit, `ccGap` a continuity
counter gap inside it, and `complete` carries the access unit whose last packet this is. `form` is 1 for a transport stream and 2 for
ST 2110-22; of a transport stream there follow the program, whether the elementary stream is its first of video, and its stream_type. -/
structure LayerPkt where
  hdr : PktHdr
  rtpTs : Nat
  seq : Nat
  form : Nat
  program : Nat
  firstVideo : Bool
  streamType : Nat
  begins : Bool
  ccGap : Bool
  complete : Option CodedPic
deriving DecidableEq, Repr

/-- A video flow: the one of a channel or the one of a layer (R96). -/
inductive FlowId where
  | ch (n : Nat)
  | layer (n : Nat)
deriving DecidableEq, Repr

/-- A consumer of a time base (R315). -/
inductive Consumer where
  | ch (n : Nat)
  | cx (n : Nat)
  | audio (n : Nat)
  | port (n : Nat)
deriving DecidableEq, Repr

/-- What the lattice cores write in one task run that ends (R116). -/
inductive Job where
  | plain
  | auPrefix (ch : Nat)
  | rowAssembly (ch row : Nat)
  | packetBuild (ch row : Nat)
  | audioPack (ch pid : Nat)
deriving DecidableEq, Repr

/-- A prediction block that the search for a CTU found best: its place in the CTU and its size in luma samples, the reference index, and
the motion vector in sixteenths of a luma sample (R105, R106, R119). -/
structure Block where
  x : Nat
  y : Nat
  w : Nat
  h : Nat
  ref : Nat
  dx : Int
  dy : Int
deriving DecidableEq, Repr

/-- The reconstructed samples of a slice before in-loop filtering, each plane in raster order (R129). -/
structure Planes where
  luma : List Nat
  cb : List Nat
  cr : List Nat
deriving DecidableEq, Repr

/-- DP0's two decodes of a sampled slice; the second matters when the first differs from the pipeline (R130, R132). -/
structure Decodes where
  first : Planes
  second : Planes
deriving DecidableEq, Repr

/-- The fields of a PTP event or general message that the servo reads (R307). Times are in units of 2⁻¹⁶ ns. -/
structure PtpMsg where
  port : Nat
  domain : Nat
  clock : Nat
  portNum : Nat
  seq : Nat
  time : Int
  corr : Int
  srcMac : Nat
  srcIp : Nat
deriving DecidableEq, Repr

/-- The data set of an Announce message (R307). -/
structure AnnounceMsg where
  port : Nat
  domain : Nat
  clock : Nat
  portNum : Nat
  prio1 : Nat
  cls : Nat
  accuracy : Nat
  variance : Nat
  prio2 : Nat
  gm : Nat
  steps : Nat
  utcOffset : Int
  smTlv : Option (List Byte)
deriving DecidableEq, Repr

/-- A received Ethernet frame as the MAC judges it (R351, R353). -/
structure EthFrame where
  bytes : Nat
  tagged : Bool
  fcsOk : Bool
  fecBad : Bool
  dst : Nat
  etherType : Nat
deriving DecidableEq, Repr

/-- One request of a fabric master (R427): at most 256 bytes. `cls` is the running task's class when the master is a core
cluster; `carried` is the tier a bridge inbound port carries; `errs` is the number of bytes in error in each 64-byte burst
of DRAM the request reads, and for on-chip SRAM 1 for a corrected and 2 for an uncorrectable error (R377, R506). -/
structure FabReq where
  master : Nat
  cls : Nat
  carried : Nat
  copyRepair : Bool
  addr : Nat
  len : Nat
  wdata : Option (List Byte)
  fetch : Bool
  errs : List Nat
deriving DecidableEq, Repr

/-- The commands, one for each row of spec/opcode_table.json. -/
inductive Instr where
  -- management requests (17_beryl_management.md)
  | read (dt : Nat) (rq : Req) (idx sub : Nat) (live : Bool)
  | write (dt : Nat) (rq : Req) (idx sub : Nat) (data : List Byte)
  | writeInit (dt : Nat) (rq : Req) (idx sub total : Nat)
  | writeSeg (dt : Nat) (rq : Req) (idx sub offset : Nat) (data : List Byte)
  | readSeg (dt : Nat) (rq : Req) (idx sub offset : Nat)
  | fastRead (dt : Nat) (rq : Req) (first count : Nat)
  | describe (dt : Nat) (rq : Req) (idx sub : Nat)
  | registerWrite (dt : Nat) (rq : Req) (idx sub : Nat) (data : List Byte)
  | shadowWrite (dt : Nat) (rq : Req) (idx sub : Nat) (data : List Byte)
  -- specialised writes
  | chControlStart (dt : Nat) (rq : Req) (ch : Nat)
  | chControlStop (dt : Nat) (rq : Req) (ch : Nat)
  | chCommit (dt : Nat) (rq : Req) (ch : Nat)
  | cxCommit (dt : Nat) (rq : Req) (cx : Nat)
  | auCommit (dt : Nat) (rq : Req) (port : Nat)
  | portCommit (dt : Nat) (rq : Req) (port : Nat)
  | clkCommit (dt : Nat) (rq : Req) (pll : Nat)
  | memCommit (dt : Nat) (rq : Req)
  | encRefreshNow (dt : Nat) (rq : Req) (ch : Nat)
  | tbStep (dt : Nat) (rq : Req) (tb : Nat) (delta : Int)
  | tbStepToMaster (dt : Nat) (rq : Req) (tb : Nat)
  | clkBandCal (dt : Nat) (rq : Req) (pll entry : Nat)
  | clkRetry (dt : Nat) (rq : Req) (pll : Nat)
  | clkBandTableWrite (dt : Nat) (rq : Req) (pll : Nat) (data : List Byte)
  | lnScanStart (dt : Nat) (rq : Req) (lane : Nat)
  | portEnable (dt : Nat) (rq : Req) (port : Nat)
  | portDisable (dt : Nat) (rq : Req) (port : Nat)
  | portModeWrite (dt : Nat) (rq : Req) (port mode : Nat)
  | memMigrateNow (dt : Nat) (rq : Req) (rank : Nat)
  | onyxTraceClear (dt : Nat) (rq : Req)
  | devResetReq (dt : Nat) (rq : Req) (value : Nat)
  | secAttestNonce (dt : Nat) (rq : Req) (nonce : List Byte)
  | repRankClear (dt : Nat) (rq : Req) (rank : Nat)
  | fastTableWrite (dt : Nat) (rq : Req) (data : List Byte)
  | diagWinAddrWrite (dt : Nat) (rq : Req) (addr : Nat)
  | diagWinRead (dt : Nat) (rq : Req)
  | diagWinWrite (dt : Nat) (rq : Req) (value : Nat)
  | dieFabDecAddrRead (dt : Nat) (rq : Req) (die : Nat)
  | polModeWrite (dt : Nat) (rq : Req) (pol mode : Nat)
  | remapWrite (dt die master : Nat) (value : Bool)
  | updBegin (dt : Nat) (rq : Req) (total : Nat)
  | updChunk (dt : Nat) (rq : Req) (data : List Byte)
  | chunkProgramComplete (dt : Nat) (ok : Bool)
  | updVerify (dt : Nat) (rq : Req)
  | updVerifyComplete (dt : Nat)
  | updActivate (dt : Nat) (rq : Req)
  | updConfirm (dt : Nat) (rq : Req)
  | trialTimeout (dt : Nat)
  -- Onyx and the lattice cores (15_onyx_scheduler.md)
  | arm (dt die slot : Nat)
  | cancel (dt die slot : Nat)
  | flagSet (dt die flag setter : Nat)
  | flagClear (dt die flag setter : Nat)
  | onyxCycle (dt die : Nat)
  | taskRunComplete (dt die core cycles : Nat) (job : Job)
  | tokenPush (dt die queue producer token : Nat)
  | tokenPop (dt die queue : Nat)
  | queueHoldLimit (dt die queue : Nat)
  | coreFault (dt die core cause : Nat)
  | coreSelfTestComplete (dt die phys : Nat) (pass : Bool)
  -- ingest (03_ingest.md)
  | videoPacketRx (dt : Nat) (pkt : VideoPkt)
  | audioPacketRx (dt : Nat) (pkt : AudioPkt)
  | ancPacketRx (dt : Nat) (pkt : AncPkt)
  | settleEnd (dt : Nat) (flow : FlowId)
  -- channels, pipelines and Garnet (02, 04, 05)
  | frameBoundary (dt ch : Nat)
  | rowStart (dt die pipe row : Nat)
  | ctuCoded (dt die pipe bytes : Nat) (intra : Bool) (blocks : List Block)
  | guardCheck (dt die pipe : Nat)
  | rowCoded (dt die pipe : Nat) (data : List Byte) (recon : Planes)
  | rowDeadline (dt ch row : Nat) (coreData : List (List Byte))
  | pipelineFailure (dt die phys : Nat)
  | stripMirrorArrival (dt ch half row : Nat)
  | repairCopyRow (dt ch buffer row : Nat)
  | confidenceCheckComplete (dt ch frame row col : Nat) (decodes : Decodes)
  | confidenceHoldRelease (dt ch frame : Nat)
  | rotation (dt : Nat)
  | selfTestComplete (dt die phys : Nat) (pass : Bool)
  -- compressed layers and composition (06, 07)
  | layerPacketRx (dt : Nat) (pkt : LayerPkt)
  | decodePictureComplete (dt layer : Nat) (ok : Bool)
  | decodeOverrun (dt layer : Nat)
  | layerFrameComplete (dt layer : Nat)
  | contextFrameBoundary (dt cx : Nat)
  | rowLockedJudgement (dt layer : Nat)
  | lineDeadline (dt cx line : Nat) (lost : List (Nat × Nat))
  -- output and scheduling (09, 10)
  | packetLaunch (dt port : Nat)
  | packetEnqueue (dt port queue bytes : Nat)
  | txFrameComplete (dt port : Nat)
  | calendarSlot (dt die : Nat)
  | gateOpening (dt port : Nat)
  | portCommitBoundary (dt port : Nat)
  | genericNack (dt : Nat) (hdr : PktHdr) (ssrc srcMac : Nat) (fci : List (Nat × Nat))
  | signatureComplete (dt ch : Nat)
  -- audio ports (08)
  | frameClockEdge (dt port : Nat) (slots : List Int)
  | audioBufferFetch (dt port : Nat)
  -- Jasper (11)
  | sync (dt : Nat) (m : PtpMsg) (twoStep : Bool)
  | followUp (dt : Nat) (m : PtpMsg)
  | delayResp (dt : Nat) (m : PtpMsg) (tb : Nat)
  | announce (dt : Nat) (m : AnnounceMsg)
  | delayReq (dt tb port : Nat)
  | tsqExpiry (dt port : Nat)
  | announceReceiptTimeout (dt tb : Nat)
  | syncTimeout (dt tb : Nat)
  | mapChange (dt tb : Nat)
  | stepInstant (dt tb : Nat)
  | stepSwitchPoint (dt : Nat) (who : Consumer)
  | ppsOutPulse (dt : Nat)
  | ppsInEdge (dt : Nat)
  -- clocks (12)
  | pllLockLost (dt die pll : Nat)
  | pllRefLost (dt die pll ref : Nat)
  | relockSettleEnd (dt die pll : Nat)
  | referenceReturn (dt die pll ref : Nat)
  | lockAchieved (dt die pll : Nat)
  | lockAttemptTimeout (dt die pll : Nat)
  | lockConfirmed (dt die pll : Nat)
  | islandSwitchBack (dt die pll island : Nat)
  | bandCalRunComplete (dt : Nat) (found : Option (Nat × Nat))
  | clkCommitBoundary (dt pll : Nat)
  | memCommitBoundary (dt : Nat)
  | refclkSysLost (dt die : Nat)
  -- lanes and ports (13)
  | signalDetect (dt lane : Nat)
  | autoNegotiationPage (dt port mode : Nat) (fecSame : Bool)
  | anegTimeout (dt port : Nat)
  | trainingDone (dt lane : Nat) (partnerAsks tapHigh partnerGrants : Bool) (fir snr : Nat)
  | trainingTimeout (dt lane : Nat)
  | trainingRetry (dt port : Nat)
  | alignmentLock (dt port : Nat)
  | alignmentHeld (dt port : Nat)
  | signalDetectLoss (dt lane : Nat)
  | alignmentLoss (dt port : Nat)
  | uncorrectableWindow (dt port codewords bad : Nat)
  | frameRx (dt port : Nat) (frame : EthFrame)
  | arpRequest (dt : Nat) (port : Option Nat) (target sender : Nat)
  | neighbourSolicitation (dt : Nat) (port : Option Nat) (target sender : Nat)
  | echoRequest (dt : Nat) (port : Option Nat) (target sender : Nat) (data : List Byte)
  | fecSecond (dt port received corrected uncorrected : Nat) (symbols : List Nat)
  | eyeScanPointDone (dt lane eligible mismatches : Nat)
  -- fabric, bridges and budgets (16)
  | budgetEpoch (dt die : Nat)
  | fabricRequest (dt die : Nat) (rq : FabReq)
  | flitCrcError (dt die bridge dir group wire replays : Nat)
  | wireErrorSecond (dt die bridge dir group wire errors : Nat)
  | masterReset (dt die master : Nat)
  | isolationEnd (dt die master : Nat)
  -- DRAM (14)
  | mr4Poll (dt die ctrl : Nat) (codes : List Nat)
  | wckOscillatorRead (dt die ctrl : Nat)
  | patrolScrub (dt die ctrl errs : Nat)
  | migrationCopyBurst (dt die ctrl errs : Nat)
  | dramTrainingComplete (dt die : Nat) (failed : List (Nat × Nat × Nat))
  -- sensors and power (17, 19)
  | thermalSample (dt die : Nat) (temps : List Int)
  | thermalShutdownEnd (dt : Nat)
  | voltageSample (dt die : Nat) (mv : List Nat) (marginLow : Bool)
  | domainFault (dt die dom : Nat)
  -- log and flash (17, 18, 19)
  | logRecord (dt : Nat)
  | logFlashWrite (dt : Nat)
  | persistentFlashWrite (dt : Nat)
  | repairMapWrite (dt : Nat)
  | fastTableUpdate (dt die : Nat)
  | forwardResponse (dt die : Nat)
  | forwardTimeout (dt die : Nat)
  | sessionExpiry (dt : Nat) (src : Src)
  | segmentTimeout (dt : Nat) (src : Src)
  | snapshotRelease (dt : Nat) (src : Src)
  | mgmtLinkChange (dt : Nat) (up : Bool)
  | canBusOff (dt : Nat)
  | anchorWatchdog (dt : Nat)
  -- resets and boot (19)
  | powerOnReset (dt : Nat)
  | powerOnRelease (dt : Nat)
  | systemReset (dt : Nat) (pin : Bool)
  | systemResetRelease (dt : Nat)
  | sramSelfTestComplete (dt die : Nat) (bad : List Nat)
  | imageVerifyComplete (dt : Nat)
  | bootComplete (dt : Nat) (badPipes badCores : List (Nat × Nat))
  | busOffRecovery (dt : Nat)
  | domainRegulationReached (dt die dom : Nat)
  | fastExitBurstEnd (dt lane : Nat)
deriving DecidableEq, Repr

end Sys2Proof
end

