-- ==== Sys2Proof/Config.lean ====
section
/-! DEFINITION. The free values: what the spec leaves open although the machine goes on. None has a body, so nothing can be
proved of its value (log entry 3 and the entries each names). -/

namespace Sys2Proof

/-- The n-th open number the machine takes (log entry 3). -/
opaque Config.freeValue : Nat → Nat

/-- What die d's free-running clock reads above D0's (R301: clocks of different dies are not aligned). -/
opaque Config.dieSkew : Nat → Nat

/-- The Falcon-1024 signature of a message with the stream-signing key (R256); keys and encoding are outside the spec. -/
opaque Config.streamSign : List Byte → List Byte

/-- The Falcon-1024 signature of a message with the attestation key (R464). -/
opaque Config.attestSign : List Byte → List Byte

/-- Whether a key of that identifier is in D0's boot ROM and the signature verifies over the bytes (R492): key, bytes 0 to 55,
signature. -/
opaque Config.imageSigned : Nat → List Byte → List Byte → Bool

/-- The public keys of the part (R258, R463), 0 for streams and 1 for attestation, and what is open in the device certificate (R464), 2. -/
opaque Config.keyDomain : Nat → List Byte

/-- The servo's output: the frequency estimate and the phase term in ppb (R307: the loop's gains are not given). Arguments: the bandwidth
in mHz, the estimate before, the offset, and the number of the sample. -/
opaque Config.servo : Nat → Int → Int → Nat → Int × Int

/-- A scaler's output: coefficient sets are built in and not given (R202). Arguments: ratio as numerator and denominator,
phase, taps. -/
opaque Config.scaleTaps : Nat → Nat → Nat → List Int → Int

/-- The sample that a decoded or coded source gives at a place: set number, row, column, component. Video content is not
followed through the codec (log entry 8). -/
opaque Config.content : Nat → Nat → Nat → Nat → Nat

/-- The VCO sub-band and capacitor code that the band table of the firmware image finds for a die, PLL and entry at boot
(R327). -/
opaque Config.bootBand : Nat → Nat → Nat → Nat × Nat

/-- The depth the firmware gives a die's token queue, before it is brought into 1 to 64 (R405). -/
opaque Config.queueDepth : Nat → Nat → Nat

/-- Whether a die offset of REG or FLAG outside the layouts of R477 holds a register (R414). -/
opaque Config.regThere : Nat → Bool

/-- The software's minimum pipeline-island clock in sixteenths of nominal (R34): the spec names the bound and gives it no
object. -/
opaque Config.minPipeClock : Nat

/-- The software's bounds of the rails in mV (R33, R34), which have no object either. -/
opaque Config.railBounds : Nat × Nat

/-- The UDP source port of a flow's leg: the spec gives a leg no such object. Arguments: kind of owner, its number, leg. -/
opaque Config.legSource : Nat → Nat → Nat → Nat

/-- The RTP payload type of the flows that have no object for it, contexts (1) and audio ports (2). -/
opaque Config.payloadType : Nat → Nat

/-- The DSCP of control frames and PTP messages: the spec gives them none. -/
opaque Config.controlDscp : Nat

/-- The V, U, C and F bits of an audio sample of an elementary stream, of the sample's number in its flow or port (R246: AES3 leaves them
to the source). -/
opaque Config.aesBits : Int → Nat → Nat

/-- The fields of a firmware descriptor that R392 does not give: die, slot, number of the field. -/
opaque Config.firmware : Nat → Nat → Nat → Nat

/-- The bytes of a NAL unit that the cores write from syntax elements (R116): the codec, the unit's number and the elements' values. The
entropy coding of headers is the standards'. -/
opaque Config.unitBytes : List Int → List Byte

/-- The most bytes such a unit takes in a configuration, emulation prevention included (R138). The argument lists the unit's number and the
configuration's numbers. -/
opaque Config.unitMax : List Nat → Nat

/-- The bytes that a configuration's access-unit prefix allows for ANC data (R138): a channel's ANC load is not stated. -/
opaque Config.ancRoom : List Nat → Nat

/-- The bytes of the longest slice header of a configuration (R144). -/
opaque Config.sliceHeader : List Nat → Nat

/-- What a ratio of figures reads whose denominator is 0 (R148 to R152: a flat picture has no activity). The argument is the
numerator. -/
opaque Config.ratioOfZero : Nat → Rat

/-- The row QP that the model gives a row of predicted complexity 0, before it is clamped (R150: the logarithm of 0). -/
opaque Config.qpOfZero : Nat → Nat

/-- The part of a row's bytes that a tile column gets when no column has predicted complexity (R151). Arguments: column, bytes. -/
opaque Config.shareOfZero : Nat → Nat → Nat

/-- The digest of the repair map (R464): the map's bytes are not laid out. -/
opaque Config.repairDigest : List Nat → List Byte

end Sys2Proof
end

