-- ==== Sys2Proof/Machine/Keys.lean ====
section
/-! DEFINITION. The keys of the objects by their mnemonics: index × 256 + subindex of an instance (R11, R470). -/

namespace Sys2Proof.Machine.Ob

def DevOrderCode : Nat := 0x100001
def DevTempGrade : Nat := 0x100002
def DevFamily : Nat := 0x100003
def DevDictVersion : Nat := 0x100004
def DevSerial : Nat := 0x100101
def DevId : Nat := 0x100102
def DevFwVersion : Nat := 0x100103
def DevBaseMac : Nat := 0x100201
def DevResetReq : Nat := 0x100501
def DevResetCause : Nat := 0x100502
def DevUptime : Nat := 0x100503
def DevBootTime : Nat := 0x100504
def PkgDieCount : Nat := 0x101001
def PkgAnchorDie : Nat := 0x101002
def PkgMeshColumns : Nat := 0x101003
def PkgCommitLead : Nat := 0x101004
def MgmtIpv4 : Nat := 0x102001
def MgmtIpv4Prefix : Nat := 0x102002
def MgmtIpv6 : Nat := 0x102003
def MgmtIpv6Prefix : Nat := 0x102004
def MgmtMacAddr : Nat := 0x102005
def MgmtLinkState : Nat := 0x102006
def MgmtFwdFail : Nat := 0x10200C
def MgmtCanReqId : Nat := 0x102101
def MgmtCanRspId : Nat := 0x102102
def MgmtCanErrors : Nat := 0x102103
def FastTable : Nat := 0x102201
def FastAnswers : Nat := 0x102202
def EvtDest (i : Nat) : Nat := 0x102301 + i
def EvtMask : Nat := 0x102305
def EvtCanNode : Nat := 0x102306
def ChControl (n : Nat) : Nat := 0x200001 + 0x2000 * n
def ChRunState (n : Nat) : Nat := 0x200002 + 0x2000 * n
def ChStartCheck (n : Nat) : Nat := 0x200003 + 0x2000 * n
def ChLabel (n : Nat) : Nat := 0x200004 + 0x2000 * n
def ChCommit (n : Nat) : Nat := 0x200005 + 0x2000 * n
def ChCommitState (n : Nat) : Nat := 0x200006 + 0x2000 * n
def ChCommitReason (n : Nat) : Nat := 0x200007 + 0x2000 * n
def ChDieMask (n : Nat) : Nat := 0x200101 + 0x2000 * n
def ChPlacedDie (n : Nat) : Nat := 0x200102 + 0x2000 * n
def ChPlacedPipes (n : Nat) : Nat := 0x200103 + 0x2000 * n
def ChPlaceState (n : Nat) : Nat := 0x200104 + 0x2000 * n
def ChLatencyRows (n : Nat) : Nat := 0x200301 + 0x2000 * n
def ChIngestOffset (n : Nat) : Nat := 0x200302 + 0x2000 * n
def ChGuard (n : Nat) : Nat := 0x200303 + 0x2000 * n
def ChRowTime (n : Nat) : Nat := 0x200304 + 0x2000 * n
def ChLatency (n : Nat) : Nat := 0x200305 + 0x2000 * n
def ChRowCount (n : Nat) : Nat := 0x200306 + 0x2000 * n
def ChTimeBase (n : Nat) : Nat := 0x200307 + 0x2000 * n
def ChSlotMissCount (n : Nat) : Nat := 0x200308 + 0x2000 * n
def IngVidWidth (n : Nat) : Nat := 0x200401 + 0x2000 * n
def IngVidHeight (n : Nat) : Nat := 0x200402 + 0x2000 * n
def IngRateNum (n : Nat) : Nat := 0x200403 + 0x2000 * n
def IngRateDen (n : Nat) : Nat := 0x200404 + 0x2000 * n
def IngSampling (n : Nat) : Nat := 0x200405 + 0x2000 * n
def IngDepth (n : Nat) : Nat := 0x200406 + 0x2000 * n
def IngColorimetry (n : Nat) : Nat := 0x200407 + 0x2000 * n
def IngTcs (n : Nat) : Nat := 0x200408 + 0x2000 * n
def IngRange (n : Nat) : Nat := 0x200409 + 0x2000 * n
def IngPacking (n : Nat) : Nat := 0x20040A + 0x2000 * n
def IngMaxPayload (n : Nat) : Nat := 0x20040B + 0x2000 * n
def IngMdcv (n : Nat) : Nat := 0x20040C + 0x2000 * n
def IngCll (n : Nat) : Nat := 0x20040D + 0x2000 * n
def IngLegMode (n : Nat) : Nat := 0x200501 + 0x2000 * n
def IngPortA (n : Nat) : Nat := 0x200502 + 0x2000 * n
def IngGroupA (n : Nat) : Nat := 0x200503 + 0x2000 * n
def IngUdpA (n : Nat) : Nat := 0x200504 + 0x2000 * n
def IngSourceA (n : Nat) : Nat := 0x200505 + 0x2000 * n
def IngVlanA (n : Nat) : Nat := 0x200506 + 0x2000 * n
def IngPolicerA (n : Nat) : Nat := 0x200507 + 0x2000 * n
def IngPortB (n : Nat) : Nat := 0x200508 + 0x2000 * n
def IngGroupB (n : Nat) : Nat := 0x200509 + 0x2000 * n
def IngUdpB (n : Nat) : Nat := 0x20050A + 0x2000 * n
def IngSourceB (n : Nat) : Nat := 0x20050B + 0x2000 * n
def IngVlanB (n : Nat) : Nat := 0x20050C + 0x2000 * n
def IngPolicerB (n : Nat) : Nat := 0x20050D + 0x2000 * n
def IngSkewWindow (n : Nat) : Nat := 0x20050E + 0x2000 * n
def IngLossMode (n : Nat) : Nat := 0x20050F + 0x2000 * n
def IngFillColor (n : Nat) : Nat := 0x200510 + 0x2000 * n
def IngRowBufRows (n : Nat) : Nat := 0x200511 + 0x2000 * n
def IngRowBufPlace (n : Nat) : Nat := 0x200512 + 0x2000 * n
def IngPktA (n : Nat) : Nat := 0x200601 + 0x2000 * n
def IngPktB (n : Nat) : Nat := 0x200602 + 0x2000 * n
def IngDupCount (n : Nat) : Nat := 0x200603 + 0x2000 * n
def IngLateCount (n : Nat) : Nat := 0x200604 + 0x2000 * n
def IngEarlyCount (n : Nat) : Nat := 0x200605 + 0x2000 * n
def IngSeqGapCount (n : Nat) : Nat := 0x200606 + 0x2000 * n
def IngMalformedCount (n : Nat) : Nat := 0x200607 + 0x2000 * n
def IngTsMismatchCount (n : Nat) : Nat := 0x200608 + 0x2000 * n
def IngSubstCtuCount (n : Nat) : Nat := 0x200609 + 0x2000 * n
def IngSourceLostFrames (n : Nat) : Nat := 0x20060A + 0x2000 * n
def IngAudMode (n f : Nat) : Nat := 0x200701 + 0x2000 * n + 0x20 * f
def IngAudPortA (n f : Nat) : Nat := 0x200702 + 0x2000 * n + 0x20 * f
def IngAudGroupA (n f : Nat) : Nat := 0x200703 + 0x2000 * n + 0x20 * f
def IngAudUdpA (n f : Nat) : Nat := 0x200704 + 0x2000 * n + 0x20 * f
def IngAudSourceA (n f : Nat) : Nat := 0x200705 + 0x2000 * n + 0x20 * f
def IngAudVlanA (n f : Nat) : Nat := 0x200706 + 0x2000 * n + 0x20 * f
def IngAudPolicerA (n f : Nat) : Nat := 0x200707 + 0x2000 * n + 0x20 * f
def IngAudPortB (n f : Nat) : Nat := 0x200708 + 0x2000 * n + 0x20 * f
def IngAudGroupB (n f : Nat) : Nat := 0x200709 + 0x2000 * n + 0x20 * f
def IngAudUdpB (n f : Nat) : Nat := 0x20070A + 0x2000 * n + 0x20 * f
def IngAudSourceB (n f : Nat) : Nat := 0x20070B + 0x2000 * n + 0x20 * f
def IngAudVlanB (n f : Nat) : Nat := 0x20070C + 0x2000 * n + 0x20 * f
def IngAudPolicerB (n f : Nat) : Nat := 0x20070D + 0x2000 * n + 0x20 * f
def IngAudChannels (n f : Nat) : Nat := 0x20070E + 0x2000 * n + 0x20 * f
def IngAudRate (n f : Nat) : Nat := 0x20070F + 0x2000 * n + 0x20 * f
def IngAudPtime (n f : Nat) : Nat := 0x200710 + 0x2000 * n + 0x20 * f
def IngAudEncoding (n f : Nat) : Nat := 0x200711 + 0x2000 * n + 0x20 * f
def IngAudSubst (n f : Nat) : Nat := 0x200712 + 0x2000 * n + 0x20 * f
def IngAudOffset (n f : Nat) : Nat := 0x200713 + 0x2000 * n + 0x20 * f
def IngAncMode (n : Nat) : Nat := 0x200801 + 0x2000 * n
def IngAncPortA (n : Nat) : Nat := 0x200802 + 0x2000 * n
def IngAncGroupA (n : Nat) : Nat := 0x200803 + 0x2000 * n
def IngAncUdpA (n : Nat) : Nat := 0x200804 + 0x2000 * n
def IngAncSourceA (n : Nat) : Nat := 0x200805 + 0x2000 * n
def IngAncVlanA (n : Nat) : Nat := 0x200806 + 0x2000 * n
def IngAncPolicerA (n : Nat) : Nat := 0x200807 + 0x2000 * n
def IngAncPortB (n : Nat) : Nat := 0x200808 + 0x2000 * n
def IngAncGroupB (n : Nat) : Nat := 0x200809 + 0x2000 * n
def IngAncUdpB (n : Nat) : Nat := 0x20080A + 0x2000 * n
def IngAncSourceB (n : Nat) : Nat := 0x20080B + 0x2000 * n
def IngAncVlanB (n : Nat) : Nat := 0x20080C + 0x2000 * n
def IngAncPolicerB (n : Nat) : Nat := 0x20080D + 0x2000 * n
def IngAncFilter (n i : Nat) : Nat := 0x200820 + 0x2000 * n + i
def EncCodec (n : Nat) : Nat := 0x200901 + 0x2000 * n
def EncProfile (n : Nat) : Nat := 0x200902 + 0x2000 * n
def EncLevel (n : Nat) : Nat := 0x200903 + 0x2000 * n
def EncTier (n : Nat) : Nat := 0x200904 + 0x2000 * n
def EncRefCount (n : Nat) : Nat := 0x200905 + 0x2000 * n
def EncRefreshMode (n : Nat) : Nat := 0x200906 + 0x2000 * n
def EncRefreshBand (n : Nat) : Nat := 0x200907 + 0x2000 * n
def EncRefreshCycleLen (n : Nat) : Nat := 0x200908 + 0x2000 * n
def EncIntraPeriod (n : Nat) : Nat := 0x200909 + 0x2000 * n
def EncSearchRangeH (n : Nat) : Nat := 0x20090A + 0x2000 * n
def EncSearchRangeV (n : Nat) : Nat := 0x20090B + 0x2000 * n
def EncToolMask (n : Nat) : Nat := 0x20090C + 0x2000 * n
def EncDeblockBeta (n : Nat) : Nat := 0x20090D + 0x2000 * n
def EncDeblockTc (n : Nat) : Nat := 0x20090E + 0x2000 * n
def EncChromaQpOffset (n : Nat) : Nat := 0x20090F + 0x2000 * n
def EncParamRepeat (n : Nat) : Nat := 0x200910 + 0x2000 * n
def EncRefreshNow (n : Nat) : Nat := 0x200911 + 0x2000 * n
def EncFloorRowsDeadline (n : Nat) : Nat := 0x200A01 + 0x2000 * n
def EncFloorCtusDeadline (n : Nat) : Nat := 0x200A02 + 0x2000 * n
def EncFloorRowsCore (n : Nat) : Nat := 0x200A03 + 0x2000 * n
def EncConfRowsChecked (n : Nat) : Nat := 0x200A04 + 0x2000 * n
def EncConfMismatch (n : Nat) : Nat := 0x200A05 + 0x2000 * n
def EncRefreshRestarts (n : Nat) : Nat := 0x200A06 + 0x2000 * n
def EncPicturesCoded (n : Nat) : Nat := 0x200A07 + 0x2000 * n
def EncStripLateCtus (n : Nat) : Nat := 0x200A08 + 0x2000 * n
def RcBitrate (n : Nat) : Nat := 0x200B01 + 0x2000 * n
def RcQpMin (n : Nat) : Nat := 0x200B02 + 0x2000 * n
def RcQpMax (n : Nat) : Nat := 0x200B03 + 0x2000 * n
def RcCtuQpSwing (n : Nat) : Nat := 0x200B04 + 0x2000 * n
def RcFirstQp (n : Nat) : Nat := 0x200B05 + 0x2000 * n
def RcHrdSignal (n : Nat) : Nat := 0x200B06 + 0x2000 * n
def RcBitrateActive (n : Nat) : Nat := 0x200B07 + 0x2000 * n
def RcPrefixMax (n : Nat) : Nat := 0x200B08 + 0x2000 * n
def RcSliceHdrBytes (n : Nat) : Nat := 0x200B09 + 0x2000 * n
def RcMinBitrate (n : Nat) : Nat := 0x200B0A + 0x2000 * n
def RcCpbSize (n : Nat) : Nat := 0x200B0B + 0x2000 * n
def RcFloorRows (n : Nat) : Nat := 0x200C01 + 0x2000 * n
def RcFallbackCtus (n : Nat) : Nat := 0x200C02 + 0x2000 * n
def RcFillerBytes (n : Nat) : Nat := 0x200C03 + 0x2000 * n
def RcOverQpCtus (n : Nat) : Nat := 0x200C04 + 0x2000 * n
def RcLastAvgQp (n : Nat) : Nat := 0x200C05 + 0x2000 * n
def RcBitrateChanges (n : Nat) : Nat := 0x200C06 + 0x2000 * n
def RefPoolBuffers (n : Nat) : Nat := 0x200D01 + 0x2000 * n
def RefBufferBytes (n : Nat) : Nat := 0x200D02 + 0x2000 * n
def RefPoolBytes (n : Nat) : Nat := 0x200D03 + 0x2000 * n
def RefConfAbandoned (n : Nat) : Nat := 0x200D04 + 0x2000 * n
def RefLastPoc (n : Nat) : Nat := 0x200D05 + 0x2000 * n
def OutMode (n : Nat) : Nat := 0x200E01 + 0x2000 * n
def OutLegMode (n : Nat) : Nat := 0x200E02 + 0x2000 * n
def OutPortA (n : Nat) : Nat := 0x200E03 + 0x2000 * n
def OutDestA (n : Nat) : Nat := 0x200E04 + 0x2000 * n
def OutUdpA (n : Nat) : Nat := 0x200E05 + 0x2000 * n
def OutVlanA (n : Nat) : Nat := 0x200E06 + 0x2000 * n
def OutDscpA (n : Nat) : Nat := 0x200E07 + 0x2000 * n
def OutPortB (n : Nat) : Nat := 0x200E08 + 0x2000 * n
def OutDestB (n : Nat) : Nat := 0x200E09 + 0x2000 * n
def OutUdpB (n : Nat) : Nat := 0x200E0A + 0x2000 * n
def OutVlanB (n : Nat) : Nat := 0x200E0B + 0x2000 * n
def OutDscpB (n : Nat) : Nat := 0x200E0C + 0x2000 * n
def OutPayload (n : Nat) : Nat := 0x200E0D + 0x2000 * n
def OutClass (n : Nat) : Nat := 0x200E0E + 0x2000 * n
def OutSsrc (n : Nat) : Nat := 0x200E0F + 0x2000 * n
def OutPayloadType (n : Nat) : Nat := 0x200E10 + 0x2000 * n
def OutPmtPid (n : Nat) : Nat := 0x200E11 + 0x2000 * n
def OutVidPid (n : Nat) : Nat := 0x200E12 + 0x2000 * n
def OutAudPidBase (n : Nat) : Nat := 0x200E13 + 0x2000 * n
def OutProgram (n : Nat) : Nat := 0x200E14 + 0x2000 * n
def OutTsId (n : Nat) : Nat := 0x200E15 + 0x2000 * n
def OutRtcpUdp (n : Nat) : Nat := 0x200E16 + 0x2000 * n
def SigInterval (n : Nat) : Nat := 0x200F01 + 0x2000 * n
def FtChainHead (n : Nat) : Nat := 0x200F02 + 0x2000 * n
def FtFrameCounter (n : Nat) : Nat := 0x200F03 + 0x2000 * n
def SigCount (n : Nat) : Nat := 0x200F04 + 0x2000 * n
def SigMissed (n : Nat) : Nat := 0x200F05 + 0x2000 * n
def RtxDepth (n : Nat) : Nat := 0x201001 + 0x2000 * n
def RtxRateMax (n : Nat) : Nat := 0x201002 + 0x2000 * n
def RtxBurst (n : Nat) : Nat := 0x201003 + 0x2000 * n
def RtxClass (n : Nat) : Nat := 0x201004 + 0x2000 * n
def RtxSlots (n : Nat) : Nat := 0x201005 + 0x2000 * n
def RtxStoreBytes (n : Nat) : Nat := 0x201006 + 0x2000 * n
def RtxDepthEff (n : Nat) : Nat := 0x201007 + 0x2000 * n
def RtxNackRx (n : Nat) : Nat := 0x201008 + 0x2000 * n
def RtxSent (n : Nat) : Nat := 0x201009 + 0x2000 * n
def RtxMiss (n : Nat) : Nat := 0x20100A + 0x2000 * n
def RtxRateDropped (n : Nat) : Nat := 0x20100B + 0x2000 * n
def RtxQueueDropped (n : Nat) : Nat := 0x20100C + 0x2000 * n
def CxEnable (n : Nat) : Nat := 0x300001 + 0x800 * n
def CxWidth (n : Nat) : Nat := 0x300002 + 0x800 * n
def CxHeight (n : Nat) : Nat := 0x300003 + 0x800 * n
def CxRateNum (n : Nat) : Nat := 0x300004 + 0x800 * n
def CxRateDen (n : Nat) : Nat := 0x300005 + 0x800 * n
def CxTimeBase (n : Nat) : Nat := 0x300006 + 0x800 * n
def CxIngestOffset (n : Nat) : Nat := 0x300007 + 0x800 * n
def CxColorimetry (n : Nat) : Nat := 0x300008 + 0x800 * n
def CxTcs (n : Nat) : Nat := 0x300009 + 0x800 * n
def CxRange (n : Nat) : Nat := 0x30000A + 0x800 * n
def CxChannel (n : Nat) : Nat := 0x30000B + 0x800 * n
def CxBlendMode (n : Nat) : Nat := 0x30000C + 0x800 * n
def CxOrderList (n : Nat) : Nat := 0x30000D + 0x800 * n
def CxBackground (n : Nat) : Nat := 0x30000E + 0x800 * n
def CxHatchColor (n : Nat) : Nat := 0x30000F + 0x800 * n
def CxPostLut (n : Nat) : Nat := 0x300010 + 0x800 * n
def CxCommit (n : Nat) : Nat := 0x300011 + 0x800 * n
def CxCommitState (n : Nat) : Nat := 0x300012 + 0x800 * n
def CxCommitReason (n : Nat) : Nat := 0x300013 + 0x800 * n
def CxCommitCount (n : Nat) : Nat := 0x300014 + 0x800 * n
def CxFrameCount (n : Nat) : Nat := 0x300015 + 0x800 * n
def CxLateLines (n : Nat) : Nat := 0x300016 + 0x800 * n
def CxOutMode (n : Nat) : Nat := 0x300020 + 0x800 * n
def CxOutPortA (n : Nat) : Nat := 0x300021 + 0x800 * n
def CxOutDestA (n : Nat) : Nat := 0x300022 + 0x800 * n
def CxOutUdpA (n : Nat) : Nat := 0x300023 + 0x800 * n
def CxOutVlanA (n : Nat) : Nat := 0x300024 + 0x800 * n
def CxOutDscpA (n : Nat) : Nat := 0x300025 + 0x800 * n
def CxOutPortB (n : Nat) : Nat := 0x300026 + 0x800 * n
def CxOutDestB (n : Nat) : Nat := 0x300027 + 0x800 * n
def CxOutUdpB (n : Nat) : Nat := 0x300028 + 0x800 * n
def CxOutVlanB (n : Nat) : Nat := 0x300029 + 0x800 * n
def CxOutDscpB (n : Nat) : Nat := 0x30002A + 0x800 * n
def CxOutPayload (n : Nat) : Nat := 0x30002D + 0x800 * n
def CxOutClass (n : Nat) : Nat := 0x30002E + 0x800 * n
def CxOutSsrc (n : Nat) : Nat := 0x30002F + 0x800 * n
def LyContext (n : Nat) : Nat := 0x310001 + 0x200 * n
def LySource (n : Nat) : Nat := 0x310002 + 0x200 * n
def LyTiming (n : Nat) : Nat := 0x310003 + 0x200 * n
def LyCropX (n : Nat) : Nat := 0x310004 + 0x200 * n
def LyCropY (n : Nat) : Nat := 0x310005 + 0x200 * n
def LyCropW (n : Nat) : Nat := 0x310006 + 0x200 * n
def LyCropH (n : Nat) : Nat := 0x310007 + 0x200 * n
def LyDstX (n : Nat) : Nat := 0x310008 + 0x200 * n
def LyDstY (n : Nat) : Nat := 0x310009 + 0x200 * n
def LyDstW (n : Nat) : Nat := 0x31000A + 0x200 * n
def LyDstH (n : Nat) : Nat := 0x31000B + 0x200 * n
def LyAlpha (n : Nat) : Nat := 0x31000C + 0x200 * n
def LyGamut (n : Nat) : Nat := 0x31000D + 0x200 * n
def LyColor (n : Nat) : Nat := 0x31000E + 0x200 * n
def LyPreLut (n : Nat) : Nat := 0x31000F + 0x200 * n
def LyGrace (n : Nat) : Nat := 0x310010 + 0x200 * n
def LyLateTol (n : Nat) : Nat := 0x310011 + 0x200 * n
def LyIngVidWidth (n : Nat) : Nat := 0x310021 + 0x200 * n
def LyIngVidHeight (n : Nat) : Nat := 0x310022 + 0x200 * n
def LyIngRateNum (n : Nat) : Nat := 0x310023 + 0x200 * n
def LyIngRateDen (n : Nat) : Nat := 0x310024 + 0x200 * n
def LyIngSampling (n : Nat) : Nat := 0x310025 + 0x200 * n
def LyIngDepth (n : Nat) : Nat := 0x310026 + 0x200 * n
def LyIngColorimetry (n : Nat) : Nat := 0x310027 + 0x200 * n
def LyIngTcs (n : Nat) : Nat := 0x310028 + 0x200 * n
def LyIngRange (n : Nat) : Nat := 0x310029 + 0x200 * n
def LyIngPacking (n : Nat) : Nat := 0x31002A + 0x200 * n
def LyIngMaxPayload (n : Nat) : Nat := 0x31002B + 0x200 * n
def LyIngLegMode (n : Nat) : Nat := 0x310031 + 0x200 * n
def LyIngPortA (n : Nat) : Nat := 0x310032 + 0x200 * n
def LyIngGroupA (n : Nat) : Nat := 0x310033 + 0x200 * n
def LyIngUdpA (n : Nat) : Nat := 0x310034 + 0x200 * n
def LyIngSourceA (n : Nat) : Nat := 0x310035 + 0x200 * n
def LyIngVlanA (n : Nat) : Nat := 0x310036 + 0x200 * n
def LyIngPolicerA (n : Nat) : Nat := 0x310037 + 0x200 * n
def LyIngPortB (n : Nat) : Nat := 0x310038 + 0x200 * n
def LyIngGroupB (n : Nat) : Nat := 0x310039 + 0x200 * n
def LyIngUdpB (n : Nat) : Nat := 0x31003A + 0x200 * n
def LyIngSourceB (n : Nat) : Nat := 0x31003B + 0x200 * n
def LyIngVlanB (n : Nat) : Nat := 0x31003C + 0x200 * n
def LyIngPolicerB (n : Nat) : Nat := 0x31003D + 0x200 * n
def LyIngSkewWindow (n : Nat) : Nat := 0x31003E + 0x200 * n
def LyFillColor (n : Nat) : Nat := 0x310040 + 0x200 * n
def LyState (n : Nat) : Nat := 0x310101 + 0x200 * n
def LyScalersUsed (n : Nat) : Nat := 0x310102 + 0x200 * n
def LyLineBufNeed (n : Nat) : Nat := 0x310103 + 0x200 * n
def LyNotReadyFrames (n : Nat) : Nat := 0x310104 + 0x200 * n
def LyStaleFrames (n : Nat) : Nat := 0x310105 + 0x200 * n
def LyLastAge (n : Nat) : Nat := 0x310106 + 0x200 * n
def LyStoreBytes (n : Nat) : Nat := 0x310107 + 0x200 * n
def DecSource (n : Nat) : Nat := 0x310140 + 0x200 * n
def DecCodec (n : Nat) : Nat := 0x310141 + 0x200 * n
def DecMaxWidth (n : Nat) : Nat := 0x310142 + 0x200 * n
def DecMaxHeight (n : Nat) : Nat := 0x310143 + 0x200 * n
def DecMaxRateNum (n : Nat) : Nat := 0x310144 + 0x200 * n
def DecMaxRateDen (n : Nat) : Nat := 0x310145 + 0x200 * n
def DecMaxDpb (n : Nat) : Nat := 0x310146 + 0x200 * n
def DecProgram (n : Nat) : Nat := 0x310147 + 0x200 * n
def DecState (n : Nat) : Nat := 0x310148 + 0x200 * n
def DecStopCause (n : Nat) : Nat := 0x310149 + 0x200 * n
def DecMissingPoc (n : Nat) : Nat := 0x31014A + 0x200 * n
def DecPicsDecoded (n : Nat) : Nat := 0x31014B + 0x200 * n
def DecPicsDamaged (n : Nat) : Nat := 0x31014C + 0x200 * n
def DecStops (n : Nat) : Nat := 0x31014D + 0x200 * n
def DecLegMode (n : Nat) : Nat := 0x310150 + 0x200 * n
def DecPortA (n : Nat) : Nat := 0x310151 + 0x200 * n
def DecGroupA (n : Nat) : Nat := 0x310152 + 0x200 * n
def DecUdpA (n : Nat) : Nat := 0x310153 + 0x200 * n
def DecSourceA (n : Nat) : Nat := 0x310154 + 0x200 * n
def DecVlanA (n : Nat) : Nat := 0x310155 + 0x200 * n
def DecPolicerA (n : Nat) : Nat := 0x310156 + 0x200 * n
def DecPortB (n : Nat) : Nat := 0x310157 + 0x200 * n
def DecGroupB (n : Nat) : Nat := 0x310158 + 0x200 * n
def DecUdpB (n : Nat) : Nat := 0x310159 + 0x200 * n
def DecSourceB (n : Nat) : Nat := 0x31015A + 0x200 * n
def DecVlanB (n : Nat) : Nat := 0x31015B + 0x200 * n
def DecPolicerB (n : Nat) : Nat := 0x31015C + 0x200 * n
def AuEnable (n : Nat) : Nat := 0x320001 + 0x200 * n
def AuDirection (n : Nat) : Nat := 0x320002 + 0x200 * n
def AuSlots (n : Nat) : Nat := 0x320003 + 0x200 * n
def AuSlotWidth (n : Nat) : Nat := 0x320004 + 0x200 * n
def AuSampleBits (n : Nat) : Nat := 0x320005 + 0x200 * n
def AuDataOffset (n : Nat) : Nat := 0x320006 + 0x200 * n
def AuFsWidth (n : Nat) : Nat := 0x320007 + 0x200 * n
def AuFsPolarity (n : Nat) : Nat := 0x320008 + 0x200 * n
def AuBclkInvert (n : Nat) : Nat := 0x320009 + 0x200 * n
def AuSlotMask (n : Nat) : Nat := 0x32000A + 0x200 * n
def AuIdleSlot (n : Nat) : Nat := 0x32000B + 0x200 * n
def AuSubst (n : Nat) : Nat := 0x32000C + 0x200 * n
def AuBlock (n : Nat) : Nat := 0x32000D + 0x200 * n
def AuRingBuffers (n : Nat) : Nat := 0x32000E + 0x200 * n
def AuChannel (n : Nat) : Nat := 0x32000F + 0x200 * n
def AuSourceFlow (n : Nat) : Nat := 0x320010 + 0x200 * n
def AuSourceFirst (n : Nat) : Nat := 0x320011 + 0x200 * n
def AuPlayDelay (n : Nat) : Nat := 0x320012 + 0x200 * n
def AuTsCarry (n : Nat) : Nat := 0x320013 + 0x200 * n
def AuCommit (n : Nat) : Nat := 0x320014 + 0x200 * n
def AuCommitState (n : Nat) : Nat := 0x320015 + 0x200 * n
def AuCommitReason (n : Nat) : Nat := 0x320016 + 0x200 * n
def AuOutMode (n : Nat) : Nat := 0x320101 + 0x200 * n
def AuOutPortA (n : Nat) : Nat := 0x320102 + 0x200 * n
def AuOutDestA (n : Nat) : Nat := 0x320103 + 0x200 * n
def AuOutUdpA (n : Nat) : Nat := 0x320104 + 0x200 * n
def AuOutVlanA (n : Nat) : Nat := 0x320105 + 0x200 * n
def AuOutDscpA (n : Nat) : Nat := 0x320106 + 0x200 * n
def AuOutPortB (n : Nat) : Nat := 0x320107 + 0x200 * n
def AuOutDestB (n : Nat) : Nat := 0x320108 + 0x200 * n
def AuOutUdpB (n : Nat) : Nat := 0x320109 + 0x200 * n
def AuOutVlanB (n : Nat) : Nat := 0x32010A + 0x200 * n
def AuOutDscpB (n : Nat) : Nat := 0x32010B + 0x200 * n
def AuOutPtime (n : Nat) : Nat := 0x32010C + 0x200 * n
def AuOutClass (n : Nat) : Nat := 0x32010D + 0x200 * n
def AuOutSsrc (n : Nat) : Nat := 0x32010E + 0x200 * n
def AuUnderrunFrames (n : Nat) : Nat := 0x320120 + 0x200 * n
def AuOverrunFrames (n : Nat) : Nat := 0x320121 + 0x200 * n
def AuLayoutChanges (n : Nat) : Nat := 0x320122 + 0x200 * n
def AuFramesDone (n : Nat) : Nat := 0x320123 + 0x200 * n
def AuDiscontCount (n : Nat) : Nat := 0x320124 + 0x200 * n
def AuBclkHz (n : Nat) : Nat := 0x320125 + 0x200 * n
def AuTimeBase : Nat := 0x328001
def AuFrameRate : Nat := 0x328002
def PortLenOverhead (n : Nat) : Nat := 0x330001 + 0x200 * n
def PortGuard (n : Nat) : Nat := 0x330002 + 0x200 * n
def PortTimeBase (n : Nat) : Nat := 0x330003 + 0x200 * n
def PortPtpClass (n : Nat) : Nat := 0x330004 + 0x200 * n
def PortCtlClass (n : Nat) : Nat := 0x330005 + 0x200 * n
def GclEnable (n : Nat) : Nat := 0x330006 + 0x200 * n
def GclLength (n : Nat) : Nat := 0x330007 + 0x200 * n
def GclBaseTime (n : Nat) : Nat := 0x330008 + 0x200 * n
def GclEntries (n : Nat) : Nat := 0x330009 + 0x200 * n
def PortCommit (n : Nat) : Nat := 0x33000A + 0x200 * n
def PortCommitState (n : Nat) : Nat := 0x33000B + 0x200 * n
def PortCommitReason (n : Nat) : Nat := 0x33000C + 0x200 * n
def PortClassRate (n i : Nat) : Nat := 0x330010 + 0x200 * n + i
def PortClassBurst (n i : Nat) : Nat := 0x330018 + 0x200 * n + i
def PortMode (n : Nat) : Nat := 0x330030 + 0x200 * n
def PortEnable (n : Nat) : Nat := 0x330031 + 0x200 * n
def PortMedium (n : Nat) : Nat := 0x330032 + 0x200 * n
def PortAneg (n : Nat) : Nat := 0x330033 + 0x200 * n
def PortFec25 (n : Nat) : Nat := 0x330034 + 0x200 * n
def PortMaxFrame (n : Nat) : Nat := 0x330035 + 0x200 * n
def PortMacAddr (n : Nat) : Nat := 0x330036 + 0x200 * n
def PortVlan (n : Nat) : Nat := 0x330037 + 0x200 * n
def PortIpv4 (n : Nat) : Nat := 0x330038 + 0x200 * n
def PortIpv4Prefix (n : Nat) : Nat := 0x330039 + 0x200 * n
def PortIpv6 (n : Nat) : Nat := 0x33003A + 0x200 * n
def PortIpv6Prefix (n : Nat) : Nat := 0x33003B + 0x200 * n
def PortFecDegrade (n : Nat) : Nat := 0x33003C + 0x200 * n
def PortModeReason (n : Nat) : Nat := 0x33003D + 0x200 * n
def PortState (n : Nat) : Nat := 0x33003E + 0x200 * n
def PortRateLive (n : Nat) : Nat := 0x33003F + 0x200 * n
def PortTxFrames (n : Nat) : Nat := 0x330101 + 0x200 * n
def PortTimedCollide (n : Nat) : Nat := 0x330102 + 0x200 * n
def PortGateHeld (n : Nat) : Nat := 0x330103 + 0x200 * n
def PortGateDiscard (n : Nat) : Nat := 0x330104 + 0x200 * n
def PortQueueDrop (n : Nat) : Nat := 0x330105 + 0x200 * n
def PortDownDrop (n : Nat) : Nat := 0x330106 + 0x200 * n
def PortTimedReserved (n : Nat) : Nat := 0x330107 + 0x200 * n
def GclCycleLive (n : Nat) : Nat := 0x330108 + 0x200 * n
def GclApplied (n : Nat) : Nat := 0x330109 + 0x200 * n
def PortCommitCount (n : Nat) : Nat := 0x33010A + 0x200 * n
def PortRxFrames (n : Nat) : Nat := 0x330120 + 0x200 * n
def PortRxFcsErr (n : Nat) : Nat := 0x330121 + 0x200 * n
def PortRxLenErr (n : Nat) : Nat := 0x330122 + 0x200 * n
def PortRxCtlDiscard (n : Nat) : Nat := 0x330123 + 0x200 * n
def FecCorrectedCw (n : Nat) : Nat := 0x330124 + 0x200 * n
def FecUncorrectedCw (n : Nat) : Nat := 0x330125 + 0x200 * n
def FecSymbolErrors (n : Nat) : Nat := 0x330126 + 0x200 * n
def PortLinkDowns (n : Nat) : Nat := 0x330127 + 0x200 * n
def FecSer (n : Nat) : Nat := 0x330128 + 0x200 * n
def PolDscpColor (i : Nat) : Nat := 0x33F001 + i
def PolMode (n : Nat) : Nat := 0x340001 + 0x100 * (n / 8) + 0x20 * (n % 8)
def PolColorAware (n : Nat) : Nat := 0x340002 + 0x100 * (n / 8) + 0x20 * (n % 8)
def PolCir (n : Nat) : Nat := 0x340003 + 0x100 * (n / 8) + 0x20 * (n % 8)
def PolCbs (n : Nat) : Nat := 0x340004 + 0x100 * (n / 8) + 0x20 * (n % 8)
def PolPeakRate (n : Nat) : Nat := 0x340005 + 0x100 * (n / 8) + 0x20 * (n % 8)
def PolPeakBurst (n : Nat) : Nat := 0x340006 + 0x100 * (n / 8) + 0x20 * (n % 8)
def PolYellowAct (n : Nat) : Nat := 0x340007 + 0x100 * (n / 8) + 0x20 * (n % 8)
def PolGreenPkts (n : Nat) : Nat := 0x340008 + 0x100 * (n / 8) + 0x20 * (n % 8)
def PolYellowPkts (n : Nat) : Nat := 0x340009 + 0x100 * (n / 8) + 0x20 * (n % 8)
def PolRedPkts (n : Nat) : Nat := 0x34000A + 0x100 * (n / 8) + 0x20 * (n % 8)
def PolGreenBytes (n : Nat) : Nat := 0x34000B + 0x100 * (n / 8) + 0x20 * (n % 8)
def PolYellowBytes (n : Nat) : Nat := 0x34000C + 0x100 * (n / 8) + 0x20 * (n % 8)
def PolRedBytes (n : Nat) : Nat := 0x34000D + 0x100 * (n / 8) + 0x20 * (n % 8)
def TbRefMode (n : Nat) : Nat := 0x350001 + 0x200 * n
def TbDomain (n : Nat) : Nat := 0x350002 + 0x200 * n
def TbPort1 (n : Nat) : Nat := 0x350003 + 0x200 * n
def TbPort2 (n : Nat) : Nat := 0x350004 + 0x200 * n
def TbLogSync (n : Nat) : Nat := 0x350005 + 0x200 * n
def TbLogAnnounce (n : Nat) : Nat := 0x350006 + 0x200 * n
def TbAnnounceTimeout (n : Nat) : Nat := 0x350007 + 0x200 * n
def TbLogDelayReq (n : Nat) : Nat := 0x350008 + 0x200 * n
def TbDelayUnicast (n : Nat) : Nat := 0x350009 + 0x200 * n
def TbJumpThreshold (n : Nat) : Nat := 0x35000A + 0x200 * n
def TbSlewMax (n : Nat) : Nat := 0x35000B + 0x200 * n
def TbServoBw (n : Nat) : Nat := 0x35000C + 0x200 * n
def TbHoldAvg (n : Nat) : Nat := 0x35000D + 0x200 * n
def TbStep (n : Nat) : Nat := 0x350010 + 0x200 * n
def TbStepToMaster (n : Nat) : Nat := 0x350011 + 0x200 * n
def TbState (n : Nat) : Nat := 0x350101 + 0x200 * n
def TbNow (n : Nat) : Nat := 0x350102 + 0x200 * n
def TbOffset (n : Nat) : Nat := 0x350103 + 0x200 * n
def TbMeanPathDelay (n : Nat) : Nat := 0x350104 + 0x200 * n
def TbFreqAdj (n : Nat) : Nat := 0x350105 + 0x200 * n
def TbMasterId (n : Nat) : Nat := 0x350106 + 0x200 * n
def TbMasterPort (n : Nat) : Nat := 0x350107 + 0x200 * n
def TbUtcOffset (n : Nat) : Nat := 0x350108 + 0x200 * n
def TbJumpsRefused (n : Nat) : Nat := 0x350109 + 0x200 * n
def TbStepsApplied (n : Nat) : Nat := 0x35010A + 0x200 * n
def TbStepPending (n : Nat) : Nat := 0x35010B + 0x200 * n
def TbStepInstant (n : Nat) : Nat := 0x35010C + 0x200 * n
def TbSyncRx (n : Nat) : Nat := 0x35010D + 0x200 * n
def TbConsumers (n : Nat) : Nat := 0x35010E + 0x200 * n
def TbSmTlv (n : Nat) : Nat := 0x35010F + 0x200 * n
def PpsOutEnable : Nat := 0x352001
def PpsOutBase : Nat := 0x352002
def PpsOutWidth : Nat := 0x352003
def PpsInBase : Nat := 0x352004
def PpsInStamp : Nat := 0x352005
def PpsInCount : Nat := 0x352006
def DieFreeRun (i : Nat) : Nat := 0x352101 + i
def TsqDepth (n : Nat) : Nat := 0x354001 + 0x100 * n
def TsqOverflow (n : Nat) : Nat := 0x354002 + 0x100 * n
def TsqExpired (n : Nat) : Nat := 0x354003 + 0x100 * n
def TsqHead (n : Nat) : Nat := 0x354004 + 0x100 * n
def MemRateMask : Nat := 0x360001
def MemRate : Nat := 0x360002
def MemPllEntry : Nat := 0x360003
def MemCommit : Nat := 0x360004
def MemCommitState : Nat := 0x360005
def MemCommitReason : Nat := 0x360006
def MemRateLive : Nat := 0x360007
def MemParaProb : Nat := 0x360010
def MemParaDistance : Nat := 0x360011
def MemScrubPeriod : Nat := 0x360012
def MemCeThreshold : Nat := 0x360013
def MemUeThreshold : Nat := 0x360014
def MemMigrateRate : Nat := 0x360015
def MemMigrateNow : Nat := 0x360016
def MemMigrations : Nat := 0x360017
def MemBudgetBytes : Nat := 0x360020
def MemHotCount : Nat := 0x360021
def MemParaCount : Nat := 0x360022
def OnyxPreemptLevel : Nat := 0x370001
def OnyxTraceEnable : Nat := 0x370002
def OnyxTraceMask : Nat := 0x370003
def OnyxTraceMode : Nat := 0x370004
def OnyxTraceClear : Nat := 0x370005
def FabEpoch : Nat := 0x372001
def FabMemShare (i : Nat) : Nat := 0x372101 + i
def OnyxCycleShare (i : Nat) : Nat := 0x372201 + i
def FabParkMaster (i : Nat) : Nat := 0x372301 + i
def FabWireErrMax : Nat := 0x372401
def ClkRefSel (n : Nat) : Nat := 0x380001 + 0x100 * n
def ClkRefAlt (n : Nat) : Nat := 0x380002 + 0x100 * n
def ClkBandSelect (n : Nat) : Nat := 0x380003 + 0x100 * n
def ClkBandSelectAlt (n : Nat) : Nat := 0x380004 + 0x100 * n
def ClkBandTable (n : Nat) : Nat := 0x380005 + 0x100 * n
def ClkBandCal (n : Nat) : Nat := 0x380006 + 0x100 * n
def ClkCommit (n : Nat) : Nat := 0x380007 + 0x100 * n
def ClkCommitState (n : Nat) : Nat := 0x380008 + 0x100 * n
def ClkCommitReason (n : Nat) : Nat := 0x380009 + 0x100 * n
def ClkRetry (n : Nat) : Nat := 0x38000A + 0x100 * n
def ClkNominalHz (n : Nat) : Nat := 0x38000B + 0x100 * n
def ClkLockLossCount (n : Nat) : Nat := 0x38000C + 0x100 * n
def ClkRefLossCount (n : Nat) : Nat := 0x38000D + 0x100 * n
def ClkRelockCount (n : Nat) : Nat := 0x38000E + 0x100 * n
def ClkBypassTime (n : Nat) : Nat := 0x38000F + 0x100 * n
def ClkQuadPll (i : Nat) : Nat := 0x381001 + i
def LnTxInvert (n : Nat) : Nat := 0x390001 + 0x100 * n
def LnRxInvert (n : Nat) : Nat := 0x390002 + 0x100 * n
def LnTxFir (n : Nat) : Nat := 0x390003 + 0x100 * n
def LnPrecodeReq (n : Nat) : Nat := 0x390004 + 0x100 * n
def LnPrecodeTx (n : Nat) : Nat := 0x390005 + 0x100 * n
def LnPrecodeRx (n : Nat) : Nat := 0x390006 + 0x100 * n
def LnBurstLen (n : Nat) : Nat := 0x390007 + 0x100 * n
def LnState (n : Nat) : Nat := 0x390010 + 0x100 * n
def LnPrecodeState (n : Nat) : Nat := 0x390011 + 0x100 * n
def LnSnr (n : Nat) : Nat := 0x390012 + 0x100 * n
def LnTrainCount (n : Nat) : Nat := 0x390013 + 0x100 * n
def LnTrainFails (n : Nat) : Nat := 0x390014 + 0x100 * n
def LnFecSymErr (n : Nat) : Nat := 0x390015 + 0x100 * n
def LnTxFirLive (n : Nat) : Nat := 0x390016 + 0x100 * n
def LnScanEye (n : Nat) : Nat := 0x390020 + 0x100 * n
def LnScanPhaseMin (n : Nat) : Nat := 0x390021 + 0x100 * n
def LnScanPhaseMax (n : Nat) : Nat := 0x390022 + 0x100 * n
def LnScanPhaseStep (n : Nat) : Nat := 0x390023 + 0x100 * n
def LnScanVoltMin (n : Nat) : Nat := 0x390024 + 0x100 * n
def LnScanVoltMax (n : Nat) : Nat := 0x390025 + 0x100 * n
def LnScanVoltStep (n : Nat) : Nat := 0x390026 + 0x100 * n
def LnScanDwell (n : Nat) : Nat := 0x390027 + 0x100 * n
def LnScanStart (n : Nat) : Nat := 0x390028 + 0x100 * n
def LnScanState (n : Nat) : Nat := 0x390029 + 0x100 * n
def LnScanPoints (n : Nat) : Nat := 0x39002A + 0x100 * n
def LnScanResult (n : Nat) : Nat := 0x39002B + 0x100 * n
def DiagWinAddr : Nat := 0x500101
def DiagWinData : Nat := 0x500102
def DiagWinWrites : Nat := 0x500103
def DieFuseId (i : Nat) : Nat := 0x500201 + i
def DieState (i : Nat) : Nat := 0x500301 + i
def OvrRateCount : Nat := 0x501001
def OvrVoltCount : Nat := 0x501002
def OvrThermCount : Nat := 0x501003
def OvrPlaceCount : Nat := 0x501004
def DiePipeMap (i : Nat) : Nat := 0x502001 + i
def DieConfCoverage (i : Nat) : Nat := 0x502101 + i
def DieDecLayerLoad (i : Nat) : Nat := 0x502201 + i
def DiePoolBytes (i : Nat) : Nat := 0x502301 + i
def DieScalersUsed (i : Nat) : Nat := 0x502401 + i
def DieLayerFetch (i : Nat) : Nat := 0x502501 + i
def DieSigLoad (i : Nat) : Nat := 0x502601 + i
def DieQueuesUsed (i : Nat) : Nat := 0x502701 + i
def DieClkState (i : Nat) : Nat := 0x502801 + i
def DieBandCalOk (i : Nat) : Nat := 0x502901 + i
def DieRankState (i : Nat) : Nat := 0x502A01 + i
def DieRankCe (i : Nat) : Nat := 0x502B01 + i
def DieRankUe (i : Nat) : Nat := 0x502C01 + i
def DieMemUtil (i : Nat) : Nat := 0x502D01 + i
def DieMemRate (i : Nat) : Nat := 0x502E01 + i
def DieMemFree (i : Nat) : Nat := 0x502F01 + i
def DieMemLargest (i : Nat) : Nat := 0x503001 + i
def DieCoreMap (i : Nat) : Nat := 0x503101 + i
def DieTasksUsed (i : Nat) : Nat := 0x503201 + i
def DieCoreLoad (i : Nat) : Nat := 0x503301 + i
def DieCoreFaults (i : Nat) : Nat := 0x503401 + i
def DieQueueHolds (i : Nat) : Nat := 0x503501 + i
def DiePreempts (i : Nat) : Nat := 0x503601 + i
def DieTraceLost (i : Nat) : Nat := 0x503701 + i
def DieTraceRing (i : Nat) : Nat := 0x503801 + i
def DieTraceWrIdx (i : Nat) : Nat := 0x503901 + i
def DieCmdIgnored (i : Nat) : Nat := 0x503A01 + i
def DieFabDecErr (i : Nat) : Nat := 0x504001 + i
def DieFabDecAddr (i : Nat) : Nat := 0x504101 + i
def DieFabDefers (i : Nat) : Nat := 0x504201 + i
def DieBridgeState (i : Nat) : Nat := 0x504301 + i
def DieResetDrains (i : Nat) : Nat := 0x504401 + i
def DieRemap (i : Nat) : Nat := 0x504501 + i
def SensTemp (i : Nat) : Nat := 0x505001 + i
def SensVolt (i : Nat) : Nat := 0x505101 + i
def SensWarnTemp : Nat := 0x505201
def SensLimitTemp : Nat := 0x505202
def SensTripTemp : Nat := 0x505203
def SensVoltWarn : Nat := 0x505204
def DieTjMax (i : Nat) : Nat := 0x505301 + i
def LogTimeBase : Nat := 0x506001
def LogCursor : Nat := 0x506002
def LogRead : Nat := 0x506003
def LogOldestSeq : Nat := 0x506004
def LogNewestSeq : Nat := 0x506005
def RepPipeState (i : Nat) : Nat := 0x507001 + i
def RepCoreOut (i : Nat) : Nat := 0x507101 + i
def RepSramSpares (i : Nat) : Nat := 0x507201 + i
def DieSramLost (i : Nat) : Nat := 0x507301 + i
def RepRankRec (i : Nat) : Nat := 0x507401 + i
def RepWireList (i : Nat) : Nat := 0x507501 + i
def RepDigest : Nat := 0x507601
def RepMapSeq : Nat := 0x507701
def RepRankClear : Nat := 0x507801
def RotPeriod : Nat := 0x507901
def RotCount (i : Nat) : Nat := 0x507A01 + i
def DieSelfTestFails (i : Nat) : Nat := 0x507B01 + i
def DiePwrDomains (i : Nat) : Nat := 0x507C01 + i
def SecProvisioned : Nat := 0x600001
def SecAttestKeyId : Nat := 0x600002
def SecJtagScope : Nat := 0x600003
def SecAttestPubKey : Nat := 0x600004
def SecDeviceCert : Nat := 0x600005
def SecAttestNonce : Nat := 0x600006
def SecAttestReport : Nat := 0x600007
def SecStreamPubKey : Nat := 0x601001
def SecStreamKeyId : Nat := 0x601002
def SecStreamCert : Nat := 0x601003
def UpdBegin : Nat := 0x602001
def UpdOffset : Nat := 0x602002
def UpdChunk : Nat := 0x602003
def UpdVerify : Nat := 0x602004
def UpdActivate : Nat := 0x602005
def UpdConfirm : Nat := 0x602006
def UpdState : Nat := 0x602007
def UpdFailCause : Nat := 0x602008
def UpdActiveSlot : Nat := 0x602009
def UpdTrialLeft : Nat := 0x60200A
def UpdMinSvn : Nat := 0x60200C
def UpdSlotFw (i : Nat) : Nat := 0x602101 + i

end Sys2Proof.Machine.Ob
end

