-- ==== Sys2Proof/Machine/Bytes.lean ====
section
/-! DEFINITION. Bytes and numbers: byte orders, two's complement, the spec's CRCs (R129, R459), the exact integer roundings
the spec names (R529), and the SHAKE256 of FIPS 202 (R14). -/

namespace Sys2Proof.Machine

/-- Bytes brought to a fixed length. -/
def fitBytes (n : Nat) (b : List Byte) : List Byte := (b ++ List.replicate n 0).take n

/-- `n` bytes of `v`, lowest first. -/
def leBytes : Nat → Nat → List Byte
  | 0, _ => []
  | n + 1, v => BitVec.ofNat 8 v :: leBytes n (v / 256)

/-- The number whose bytes, lowest first, are `b`. -/
def leNat : List Byte → Nat
  | [] => 0
  | b :: bs => b.toNat + 256 * leNat bs

/-- `n` bytes of `v`, highest first. -/
def beBytes (n v : Nat) : List Byte := (leBytes n v).reverse

/-- The number whose bytes, highest first, are `b`. -/
def beNat (b : List Byte) : Nat := leNat b.reverse

/-- `i` as an unsigned number of `n` bytes, two's complement. -/
def toUnsigned (n : Nat) (i : Int) : Nat := (i % (256 ^ n : Nat)).toNat

/-- The signed number an `n`-byte two's complement number stands for. -/
def toSigned (n v : Nat) : Int := if v < 256 ^ n / 2 then (v : Int) else (v : Int) - (256 ^ n : Nat)

/-- Bits [hi:lo] of `v`. -/
def bits (v hi lo : Nat) : Nat := v / 2 ^ lo % 2 ^ (hi + 1 - lo)

/-- Bit `i` of `v`. -/
def bit (v i : Nat) : Bool := v / 2 ^ i % 2 = 1

/-- `v` with bits [hi:lo] set to `x`. -/
def setBits (v hi lo x : Nat) : Nat := v - bits v hi lo * 2 ^ lo + x % 2 ^ (hi + 1 - lo) * 2 ^ lo

/-- The least number of units of `b` that covers `a`. -/
def ceilDiv (a b : Nat) : Nat := (a + b - 1) / b

/-- The quotient rounded to nearest, halves away from zero (R529). -/
def roundDiv (a : Int) (b : Nat) : Int :=
  if 0 ≤ a then (2 * a + b) / (2 * b) else -((2 * -a + b) / (2 * b))

/-- A rational rounded down. -/
def ratFloor (q : Rat) : Int := q.num / q.den

/-- A rational rounded up. -/
def ratCeil (q : Rat) : Int := -((-q.num) / q.den)

/-- `x` kept within [lo, hi]. -/
def clampInt (x lo hi : Int) : Int := if x < lo then lo else if hi < x then hi else x

/-- One byte of CRC-32C, bits lowest first (R129): the generator 0x1EDC_6F41 with its bits reversed. -/
def crc32cByte (c : Nat) : Nat → Nat
  | 0 => c
  | n + 1 => crc32cByte (if c % 2 = 1 then Nat.xor (c / 2) 0x82F63B78 else c / 2) n

/-- CRC-32C over bytes: generator 0x1EDC_6F41, initial value and final exclusive-or 0xFFFF_FFFF (R129). -/
def crc32c (b : List Byte) : Nat :=
  Nat.xor 0xFFFFFFFF (b.foldl (fun c x => crc32cByte (Nat.xor c x.toNat) 8) 0xFFFFFFFF)

/-- One byte of CRC-16, bits highest first. -/
def crc16Bits (c : Nat) : Nat → Nat
  | 0 => c
  | n + 1 => crc16Bits (if 0x8000 ≤ c then Nat.xor (c * 2 % 65536) 0x1021 else c * 2 % 65536) n

/-- CRC-16 with polynomial 0x1021 and initial value 0xFFFF (R459). -/
def crc16 (b : List Byte) : Nat :=
  b.foldl (fun c x => crc16Bits (Nat.xor c (x.toNat * 256)) 8) 0xFFFF

/-! SHAKE256 (FIPS 202). The lane at the origin stays where it is; the other 24 are kept in the order in which the moving step
of the permutation visits their places, so that this step is one turn of the list. -/

/-- A lane of 64 bits turned left by `n`. -/
def laneTurn (w n : Nat) : Nat :=
  let k := n % 64
  Nat.lor (w <<< k % 2 ^ 64) (w >>> (64 - k))

/-- The places of the 24 lanes in the order visited, from the place next to the origin on. -/
def laneTrail : Nat → Nat × Nat → List (Nat × Nat)
  | 0, _ => []
  | n + 1, p => p :: laneTrail n (p.2, (2 * p.1 + 3 * p.2) % 5)

/-- The 24 places. -/
def laneOrder : List (Nat × Nat) := laneTrail 24 (1, 0)

/-- The lane at a place, of the lane at the origin and the others with their places. -/
def laneAt (o : Nat) (ls : List ((Nat × Nat) × Nat)) (p : Nat × Nat) : Nat := if p = (0, 0) then o else (ls.lookup p).getD 0

/-- Every lane is turned by the triangular number of its turn in the order, and takes the next place; the last takes the first. -/
def laneMove : Nat → Nat → List Nat → List Nat × Nat
  | _, c, [] => ([], c)
  | t, c, w :: ws =>
    let r := laneMove (t + 1) (laneTurn w ((t + 1) * (t + 2) / 2)) ws
    (c :: r.1, r.2)

/-- The exclusive-or of the lanes of column x. -/
def laneParity (o : Nat) (ls : List ((Nat × Nat) × Nat)) (x : Nat) : Nat :=
  ls.foldl (fun a l => if l.1.1 = x then Nat.xor a l.2 else a) (if x = 0 then o else 0)

/-- Seven bits of the shift register (x⁸ + x⁶ + x⁵ + x⁴ + 1), laid at bits 2ʲ - 1 of a round's constant, and the register after
them. -/
def roundBits : Nat → Nat → Nat × Nat
  | 0, r => (0, r)
  | n + 1, r =>
    let x := roundBits n (if r * 2 < 256 then r * 2 else Nat.xor (r * 2) 0x171)
    (r % 2 * 2 ^ (2 ^ (6 - n) - 1) + x.1, x.2)

/-- `n` rounds from a register value. -/
def permute : Nat → Nat → Nat × List Nat → Nat × List Nat
  | 0, _, s => s
  | n + 1, r, (o, ws) =>
    let ls := laneOrder.zip ws
    let ps := (List.range 5).map (laneParity o ls)
    let d := fun x => Nat.xor (ps.getD ((x + 4) % 5) 0) (laneTurn (ps.getD ((x + 1) % 5) 0) 1)
    let mv := laneMove 0 0 (ls.map fun l => Nat.xor l.2 (d l.1.1))
    let o₁ := Nat.xor o (d 0)
    let ks := laneOrder.zip (mv.2 :: mv.1.tail)
    let mix := fun (p : Nat × Nat) (w : Nat) =>
      Nat.xor w (Nat.land (Nat.xor (2 ^ 64 - 1) (laneAt o₁ ks ((p.1 + 1) % 5, p.2))) (laneAt o₁ ks ((p.1 + 2) % 5, p.2)))
    let c := roundBits 7 r
    permute n c.2 (Nat.xor (mix (0, 0) o₁) c.1, ks.map fun l => mix l.1 l.2)

/-- Take one block of 1,088 bits, given as a number, into the state and permute. -/
def takeBlock (s : Nat × List Nat) (b : Nat) : Nat × List Nat :=
  let part := fun i => if i < 17 then b / 2 ^ (64 * i) % 2 ^ 64 else 0
  permute 24 1 (Nat.xor s.1 (part 0), (laneOrder.zip s.2).map fun l => Nat.xor l.2 (part (l.1.1 + 5 * l.1.2)))

/-- The first 32 bytes of SHAKE256, the length the spec uses everywhere (R253, R464, R492). The message is one number, lowest
byte first, to which the padding adds 0x1F after its last byte and the top bit of the last block. -/
def shake256 (m : List Byte) : List Byte :=
  let n := m.length / 136 + 1
  let p := leNat m + 0x1F * 256 ^ m.length + 2 ^ (1088 * n - 1)
  let s := (List.range n).foldl (fun s j => takeBlock s (p / 2 ^ (1088 * j) % 2 ^ 1088)) (0, List.replicate 24 0)
  (List.range 4).flatMap fun x => leBytes 8 (laneAt s.1 (laneOrder.zip s.2) (x, 0))

end Sys2Proof.Machine
end

