-- ==== Sys2Proof/Machine/Dictionary.lean ====
section
/-! DEFINITION. The object dictionary's tables: for every index the spec tables, its subindices with type, access, default
and range. The index is that of the first instance (R470). Transcribed from the object tables of the chapters. -/

namespace Sys2Proof.Machine

/-- The types of R436. -/
inductive Ty where
  | bool | u8 | u16 | u32 | u64 | i8 | i16 | i32 | i64 | real32 | vstr | ostr | domain | time96
deriving DecidableEq, Repr

/-- The access rights of R436. -/
inductive Acc where
  | ro | rw | wo | const | rws
deriving DecidableEq, Repr

/-- The ranges of R525: any value of the type, a list of values, a span with a step, or a span and single values. -/
inductive Rng where
  | any
  | oneOf (l : List Int)
  | span (lo hi step : Int)
  | also (l : List Int) (lo hi : Int)
deriving DecidableEq, Repr

/-- Defaults: a number, repeated bytes, or one that depends on the part or the instance. -/
inductive Dflt where
  | n (v : Int)
  | rep (len byte : Nat)
  | special
deriving DecidableEq, Repr

/-- A row of an object table: first subindex, how many subindices it covers, and its columns. `size` is the size DESCRIBE
returns (R526). -/
structure ObjRow where
  sub : Nat
  cnt : Nat
  ty : Ty
  acc : Acc
  dflt : Dflt
  rng : Rng
  size : Nat
deriving DecidableEq, Repr

/-- The objects of index 0x1000 (18_object_reference.md). -/
def rows1000 : List ObjRow := [
  ⟨0x01, 1, .vstr, .const, .special, .any, 8⟩,
  ⟨0x02, 1, .u8, .const, .special, .any, 1⟩,
  ⟨0x03, 1, .vstr, .const, .special, .any, 13⟩,
  ⟨0x04, 1, .u16, .const, .n 256, .any, 2⟩]

/-- The objects of index 0x1001 (17_beryl_management.md). -/
def rows1001 : List ObjRow := [
  ⟨0x01, 1, .vstr, .const, .special, .any, 16⟩,
  ⟨0x02, 1, .u64, .const, .special, .any, 8⟩,
  ⟨0x03, 1, .u32, .ro, .special, .any, 4⟩]

/-- The objects of index 0x1002 (18_object_reference.md). -/
def rows1002 : List ObjRow := [
  ⟨0x01, 1, .ostr, .const, .special, .any, 6⟩]

/-- The objects of index 0x1005 (18_object_reference.md). -/
def rows1005 : List ObjRow := [
  ⟨0x01, 1, .u8, .wo, .n 0, .oneOf [0, 1], 1⟩,
  ⟨0x02, 1, .u8, .ro, .special, .any, 1⟩,
  ⟨0x03, 1, .u64, .ro, .n 0, .any, 8⟩,
  ⟨0x04, 1, .u32, .ro, .n 0, .any, 4⟩]

/-- The objects of index 0x1010 (01_architecture.md). -/
def rows1010 : List ObjRow := [
  ⟨0x01, 1, .u8, .const, .special, .any, 1⟩,
  ⟨0x02, 1, .u8, .const, .n 0, .any, 1⟩,
  ⟨0x03, 1, .u8, .const, .special, .any, 1⟩,
  ⟨0x04, 1, .u32, .ro, .n 250, .any, 4⟩]

/-- The objects of index 0x1020 (17_beryl_management.md). -/
def rows1020 : List ObjRow := [
  ⟨0x01, 1, .ostr, .rw, .rep 4 0, .any, 4⟩,
  ⟨0x02, 1, .u8, .rw, .n 24, .span 0 32 1, 1⟩,
  ⟨0x03, 1, .ostr, .rw, .rep 16 0, .any, 16⟩,
  ⟨0x04, 1, .u8, .rw, .n 64, .span 0 128 1, 1⟩,
  ⟨0x05, 1, .ostr, .const, .special, .any, 6⟩,
  ⟨0x06, 1, .u8, .ro, .n 0, .any, 1⟩,
  ⟨0x0C, 1, .u32, .ro, .n 0, .any, 4⟩]

/-- The objects of index 0x1021 (17_beryl_management.md). -/
def rows1021 : List ObjRow := [
  ⟨0x01, 1, .u32, .rw, .n 10846208, .span 0 536870784 128, 4⟩,
  ⟨0x02, 1, .u32, .rw, .n 10862592, .span 0 536870784 128, 4⟩,
  ⟨0x03, 1, .u32, .ro, .n 0, .any, 4⟩]

/-- The objects of index 0x1022 (17_beryl_management.md). -/
def rows1022 : List ObjRow := [
  ⟨0x01, 1, .domain, .rw, .special, .any, 1024⟩,
  ⟨0x02, 1, .u64, .ro, .n 0, .any, 8⟩]

/-- The objects of index 0x1023 (17_beryl_management.md). -/
def rows1023 : List ObjRow := [
  ⟨0x01, 4, .ostr, .rw, .rep 18 0, .any, 18⟩,
  ⟨0x05, 1, .u32, .rw, .n 524286, .any, 4⟩,
  ⟨0x06, 1, .u8, .rw, .n 0, .span 0 127 1, 1⟩]

/-- The objects of index 0x2000 (18_object_reference.md). -/
def rows2000 : List ObjRow := [
  ⟨0x01, 1, .u8, .wo, .n 0, .oneOf [1, 2], 1⟩,
  ⟨0x02, 1, .u8, .ro, .n 0, .any, 1⟩,
  ⟨0x03, 1, .u8, .ro, .n 0, .any, 1⟩,
  ⟨0x04, 1, .vstr, .rw, .rep 0 0, .any, 32⟩,
  ⟨0x05, 1, .bool, .wo, .n 0, .any, 1⟩,
  ⟨0x06, 1, .u8, .ro, .n 0, .any, 1⟩,
  ⟨0x07, 1, .u16, .ro, .n 0, .any, 2⟩]

/-- The objects of index 0x2001 (01_architecture.md). -/
def rows2001 : List ObjRow := [
  ⟨0x01, 1, .u8, .rw, .n 255, .any, 1⟩,
  ⟨0x02, 1, .u8, .ro, .n 255, .any, 1⟩,
  ⟨0x03, 1, .u8, .ro, .n 0, .any, 1⟩,
  ⟨0x04, 1, .u8, .ro, .n 0, .any, 1⟩]

/-- The objects of index 0x2003 (02_latency_contract.md). -/
def rows2003 : List ObjRow := [
  ⟨0x01, 1, .u8, .rw, .n 2, .span 2 16 1, 1⟩,
  ⟨0x02, 1, .u32, .rw, .n 0, .span 0 16666666 1, 4⟩,
  ⟨0x03, 1, .u8, .rw, .n 8, .span 8 32 1, 1⟩,
  ⟨0x04, 1, .u64, .ro, .n 0, .any, 8⟩,
  ⟨0x05, 1, .u64, .ro, .n 0, .any, 8⟩,
  ⟨0x06, 1, .u8, .ro, .n 0, .any, 1⟩,
  ⟨0x07, 1, .u8, .rw, .n 0, .span 0 7 1, 1⟩,
  ⟨0x08, 1, .u32, .ro, .n 0, .any, 4⟩]

/-- The objects of index 0x2004 (03_ingest.md). -/
def rows2004 : List ObjRow := [
  ⟨0x01, 1, .u16, .rw, .n 1920, .oneOf [1280, 1920, 3840, 7680], 2⟩,
  ⟨0x02, 1, .u16, .rw, .n 1080, .oneOf [720, 1080, 2160, 4320], 2⟩,
  ⟨0x03, 1, .u32, .rw, .n 120, .span 24 240000 1, 4⟩,
  ⟨0x04, 1, .u32, .rw, .n 1, .oneOf [1, 1001], 4⟩,
  ⟨0x05, 1, .u8, .rw, .n 0, .span 0 2 1, 1⟩,
  ⟨0x06, 1, .u8, .rw, .n 10, .oneOf [8, 10, 12], 1⟩,
  ⟨0x07, 1, .u8, .rw, .n 0, .oneOf [0, 1, 2], 1⟩,
  ⟨0x08, 1, .u8, .rw, .n 0, .oneOf [0, 1, 2], 1⟩,
  ⟨0x09, 1, .u8, .rw, .n 0, .oneOf [0, 1], 1⟩,
  ⟨0x0A, 1, .u8, .rw, .n 0, .oneOf [0, 1], 1⟩,
  ⟨0x0B, 1, .u16, .rw, .n 1460, .span 64 8960 1, 2⟩,
  ⟨0x0C, 1, .ostr, .rw, .rep 24 0, .any, 24⟩,
  ⟨0x0D, 1, .u32, .rw, .n 0, .any, 4⟩]

/-- The objects of index 0x2005 (03_ingest.md). -/
def rows2005 : List ObjRow := [
  ⟨0x01, 1, .u8, .rw, .n 0, .oneOf [0, 1], 1⟩,
  ⟨0x02, 1, .u8, .rw, .n 255, .also [255] 0 95, 1⟩,
  ⟨0x03, 1, .ostr, .rw, .rep 16 0, .any, 16⟩,
  ⟨0x04, 1, .u16, .rw, .n 0, .span 1 65535 1, 2⟩,
  ⟨0x05, 1, .ostr, .rw, .rep 16 0, .any, 16⟩,
  ⟨0x06, 1, .u16, .rw, .n 65535, .also [65535] 0 4094, 2⟩,
  ⟨0x07, 1, .u16, .rw, .n 65535, .also [65535] 0 2047, 2⟩,
  ⟨0x08, 1, .u8, .rw, .n 255, .also [255] 0 95, 1⟩,
  ⟨0x09, 1, .ostr, .rw, .rep 16 0, .any, 16⟩,
  ⟨0x0A, 1, .u16, .rw, .n 0, .span 1 65535 1, 2⟩,
  ⟨0x0B, 1, .ostr, .rw, .rep 16 0, .any, 16⟩,
  ⟨0x0C, 1, .u16, .rw, .n 65535, .also [65535] 0 4094, 2⟩,
  ⟨0x0D, 1, .u16, .rw, .n 65535, .also [65535] 0 2047, 2⟩,
  ⟨0x0E, 1, .u16, .rw, .n 100, .span 0 2000 1, 2⟩,
  ⟨0x0F, 1, .u8, .rw, .n 0, .oneOf [0, 1], 1⟩,
  ⟨0x10, 1, .u32, .rw, .n 67633664, .any, 4⟩,
  ⟨0x11, 1, .u8, .ro, .n 0, .any, 1⟩,
  ⟨0x12, 1, .u8, .ro, .n 0, .any, 1⟩]

/-- The objects of index 0x2006 (03_ingest.md). -/
def rows2006 : List ObjRow := [
  ⟨0x01, 1, .u64, .ro, .n 0, .any, 8⟩,
  ⟨0x02, 1, .u64, .ro, .n 0, .any, 8⟩,
  ⟨0x03, 1, .u32, .ro, .n 0, .any, 4⟩,
  ⟨0x04, 1, .u32, .ro, .n 0, .any, 4⟩,
  ⟨0x05, 1, .u32, .ro, .n 0, .any, 4⟩,
  ⟨0x06, 1, .u32, .ro, .n 0, .any, 4⟩,
  ⟨0x07, 1, .u32, .ro, .n 0, .any, 4⟩,
  ⟨0x08, 1, .u32, .ro, .n 0, .any, 4⟩,
  ⟨0x09, 1, .u32, .ro, .n 0, .any, 4⟩,
  ⟨0x0A, 1, .u32, .ro, .n 0, .any, 4⟩]

/-- The objects of index 0x2007 (03_ingest.md). -/
def rows2007 : List ObjRow := [
  ⟨0x01, 1, .u8, .rw, .n 0, .oneOf [0, 1, 2], 1⟩,
  ⟨0x02, 1, .u8, .rw, .n 255, .also [255] 0 95, 1⟩,
  ⟨0x03, 1, .ostr, .rw, .rep 16 0, .any, 16⟩,
  ⟨0x04, 1, .u16, .rw, .n 0, .span 1 65535 1, 2⟩,
  ⟨0x05, 1, .ostr, .rw, .rep 16 0, .any, 16⟩,
  ⟨0x06, 1, .u16, .rw, .n 65535, .also [65535] 0 4094, 2⟩,
  ⟨0x07, 1, .u16, .rw, .n 65535, .also [65535] 0 2047, 2⟩,
  ⟨0x08, 1, .u8, .rw, .n 255, .also [255] 0 95, 1⟩,
  ⟨0x09, 1, .ostr, .rw, .rep 16 0, .any, 16⟩,
  ⟨0x0A, 1, .u16, .rw, .n 0, .span 1 65535 1, 2⟩,
  ⟨0x0B, 1, .ostr, .rw, .rep 16 0, .any, 16⟩,
  ⟨0x0C, 1, .u16, .rw, .n 65535, .also [65535] 0 4094, 2⟩,
  ⟨0x0D, 1, .u16, .rw, .n 65535, .also [65535] 0 2047, 2⟩,
  ⟨0x0E, 1, .u8, .rw, .n 2, .span 1 64 1, 1⟩,
  ⟨0x0F, 1, .u8, .rw, .n 48, .oneOf [48, 96], 1⟩,
  ⟨0x10, 1, .u16, .rw, .n 1000, .oneOf [125, 1000], 2⟩,
  ⟨0x11, 1, .u8, .rw, .n 1, .oneOf [0, 1], 1⟩,
  ⟨0x12, 1, .u8, .rw, .n 0, .oneOf [0, 1], 1⟩,
  ⟨0x13, 1, .u32, .rw, .n 0, .span 0 16666666 1, 4⟩]

/-- The objects of index 0x2008 (03_ingest.md). -/
def rows2008 : List ObjRow := [
  ⟨0x01, 1, .u8, .rw, .n 0, .oneOf [0, 1, 2], 1⟩,
  ⟨0x02, 1, .u8, .rw, .n 255, .also [255] 0 95, 1⟩,
  ⟨0x03, 1, .ostr, .rw, .rep 16 0, .any, 16⟩,
  ⟨0x04, 1, .u16, .rw, .n 0, .span 1 65535 1, 2⟩,
  ⟨0x05, 1, .ostr, .rw, .rep 16 0, .any, 16⟩,
  ⟨0x06, 1, .u16, .rw, .n 65535, .also [65535] 0 4094, 2⟩,
  ⟨0x07, 1, .u16, .rw, .n 65535, .also [65535] 0 2047, 2⟩,
  ⟨0x08, 1, .u8, .rw, .n 255, .also [255] 0 95, 1⟩,
  ⟨0x09, 1, .ostr, .rw, .rep 16 0, .any, 16⟩,
  ⟨0x0A, 1, .u16, .rw, .n 0, .span 1 65535 1, 2⟩,
  ⟨0x0B, 1, .ostr, .rw, .rep 16 0, .any, 16⟩,
  ⟨0x0C, 1, .u16, .rw, .n 65535, .also [65535] 0 4094, 2⟩,
  ⟨0x0D, 1, .u16, .rw, .n 65535, .also [65535] 0 2047, 2⟩,
  ⟨0x20, 16, .u16, .rw, .n 0, .any, 2⟩]

/-- The objects of index 0x2009 (04_encoder_pipeline.md). -/
def rows2009 : List ObjRow := [
  ⟨0x01, 1, .u8, .rw, .n 0, .oneOf [0, 1], 1⟩,
  ⟨0x02, 1, .u8, .rw, .n 1, .span 0 1 1, 1⟩,
  ⟨0x03, 1, .u8, .ro, .n 0, .any, 1⟩,
  ⟨0x04, 1, .u8, .ro, .n 0, .any, 1⟩,
  ⟨0x05, 1, .u8, .rw, .n 2, .span 1 4 1, 1⟩,
  ⟨0x06, 1, .u8, .rw, .n 1, .oneOf [1, 2, 3], 1⟩,
  ⟨0x07, 1, .u8, .rw, .n 2, .span 1 16 1, 1⟩,
  ⟨0x08, 1, .u16, .ro, .n 0, .any, 2⟩,
  ⟨0x09, 1, .u16, .rw, .n 120, .span 1 65535 1, 2⟩,
  ⟨0x0A, 1, .u16, .rw, .n 256, .span 64 256 1, 2⟩,
  ⟨0x0B, 1, .u16, .rw, .n 128, .span 32 128 1, 2⟩,
  ⟨0x0C, 1, .u32, .rw, .n 4194103, .any, 4⟩,
  ⟨0x0D, 1, .i8, .rw, .n 0, .span (-6) 6 1, 1⟩,
  ⟨0x0E, 1, .i8, .rw, .n 0, .span (-6) 6 1, 1⟩,
  ⟨0x0F, 1, .i8, .rw, .n 0, .span (-12) 12 1, 1⟩,
  ⟨0x10, 1, .u8, .rw, .n 0, .oneOf [0, 1], 1⟩,
  ⟨0x11, 1, .bool, .wo, .n 0, .any, 1⟩]

/-- The objects of index 0x200A (04_encoder_pipeline.md). -/
def rows200A : List ObjRow := [
  ⟨0x01, 1, .u32, .ro, .n 0, .any, 4⟩,
  ⟨0x02, 1, .u32, .ro, .n 0, .any, 4⟩,
  ⟨0x03, 1, .u32, .ro, .n 0, .any, 4⟩,
  ⟨0x04, 1, .u64, .ro, .n 0, .any, 8⟩,
  ⟨0x05, 1, .u32, .ro, .n 0, .any, 4⟩,
  ⟨0x06, 1, .u32, .ro, .n 0, .any, 4⟩,
  ⟨0x07, 1, .u64, .ro, .n 0, .any, 8⟩,
  ⟨0x08, 1, .u32, .ro, .n 0, .any, 4⟩]

/-- The objects of index 0x200B (05_rate_control.md). -/
def rows200B : List ObjRow := [
  ⟨0x01, 1, .u32, .rws, .n 20000000, .span 1000000 2000000000 64, 4⟩,
  ⟨0x02, 1, .u8, .rw, .n 10, .span 0 63 1, 1⟩,
  ⟨0x03, 1, .u8, .rw, .n 51, .span 0 63 1, 1⟩,
  ⟨0x04, 1, .u8, .rw, .n 4, .span 0 12 1, 1⟩,
  ⟨0x05, 1, .u8, .rw, .n 30, .span 0 63 1, 1⟩,
  ⟨0x06, 1, .u8, .rw, .n 1, .oneOf [0, 1], 1⟩,
  ⟨0x07, 1, .u32, .ro, .n 0, .any, 4⟩,
  ⟨0x08, 1, .u32, .ro, .n 0, .any, 4⟩,
  ⟨0x09, 1, .u16, .ro, .n 0, .any, 2⟩,
  ⟨0x0A, 1, .u32, .ro, .n 0, .any, 4⟩,
  ⟨0x0B, 1, .u32, .ro, .n 0, .any, 4⟩]

/-- The objects of index 0x200C (05_rate_control.md). -/
def rows200C : List ObjRow := [
  ⟨0x01, 1, .u32, .ro, .n 0, .any, 4⟩,
  ⟨0x02, 1, .u32, .ro, .n 0, .any, 4⟩,
  ⟨0x03, 1, .u64, .ro, .n 0, .any, 8⟩,
  ⟨0x04, 1, .u32, .ro, .n 0, .any, 4⟩,
  ⟨0x05, 1, .u8, .ro, .n 0, .any, 1⟩,
  ⟨0x06, 1, .u32, .ro, .n 0, .any, 4⟩]

/-- The objects of index 0x200D (06_reference_pool.md). -/
def rows200D : List ObjRow := [
  ⟨0x01, 1, .u8, .ro, .n 0, .any, 1⟩,
  ⟨0x02, 1, .u32, .ro, .n 0, .any, 4⟩,
  ⟨0x03, 1, .u64, .ro, .n 0, .any, 8⟩,
  ⟨0x04, 1, .u32, .ro, .n 0, .any, 4⟩,
  ⟨0x05, 1, .i32, .ro, .n 0, .any, 4⟩]

/-- The objects of index 0x200E (09_output_integrity.md). -/
def rows200E : List ObjRow := [
  ⟨0x01, 1, .u8, .rw, .n 1, .oneOf [1, 2], 1⟩,
  ⟨0x02, 1, .u8, .rw, .n 0, .oneOf [0, 1], 1⟩,
  ⟨0x03, 1, .u8, .rw, .n 255, .also [255] 0 95, 1⟩,
  ⟨0x04, 1, .ostr, .rw, .rep 16 0, .any, 16⟩,
  ⟨0x05, 1, .u16, .rw, .n 0, .span 1 65535 1, 2⟩,
  ⟨0x06, 1, .u16, .rw, .n 65535, .also [65535] 0 4094, 2⟩,
  ⟨0x07, 1, .u8, .rw, .n 34, .span 0 63 1, 1⟩,
  ⟨0x08, 1, .u8, .rw, .n 255, .also [255] 0 95, 1⟩,
  ⟨0x09, 1, .ostr, .rw, .rep 16 0, .any, 16⟩,
  ⟨0x0A, 1, .u16, .rw, .n 0, .span 1 65535 1, 2⟩,
  ⟨0x0B, 1, .u16, .rw, .n 65535, .also [65535] 0 4094, 2⟩,
  ⟨0x0C, 1, .u8, .rw, .n 34, .span 0 63 1, 1⟩,
  ⟨0x0D, 1, .u16, .rw, .n 1460, .span 256 8960 1, 2⟩,
  ⟨0x0E, 1, .u8, .rw, .n 7, .span 0 7 1, 1⟩,
  ⟨0x0F, 1, .u32, .rw, .n 0, .any, 4⟩,
  ⟨0x10, 1, .u8, .rw, .n 33, .span 0 127 1, 1⟩,
  ⟨0x11, 1, .u16, .rw, .n 256, .span 16 8190 1, 2⟩,
  ⟨0x12, 1, .u16, .rw, .n 257, .span 16 8190 1, 2⟩,
  ⟨0x13, 1, .u16, .rw, .n 272, .span 16 8186 1, 2⟩,
  ⟨0x14, 1, .u16, .rw, .n 1, .span 1 65535 1, 2⟩,
  ⟨0x15, 1, .u16, .rw, .n 1, .any, 2⟩,
  ⟨0x16, 1, .u16, .rw, .n 5005, .span 1 65535 1, 2⟩]

/-- The objects of index 0x200F (09_output_integrity.md). -/
def rows200F : List ObjRow := [
  ⟨0x01, 1, .u16, .rw, .n 15, .span 0 1000 1, 2⟩,
  ⟨0x02, 1, .ostr, .ro, .rep 32 0, .any, 32⟩,
  ⟨0x03, 1, .u64, .ro, .n 0, .any, 8⟩,
  ⟨0x04, 1, .u64, .ro, .n 0, .any, 8⟩,
  ⟨0x05, 1, .u32, .ro, .n 0, .any, 4⟩]

/-- The objects of index 0x2010 (09_output_integrity.md). -/
def rows2010 : List ObjRow := [
  ⟨0x01, 1, .u16, .rw, .n 2000, .span 0 2000 1, 2⟩,
  ⟨0x02, 1, .u32, .rw, .n 100000000, .span 1000000 4000000000 1, 4⟩,
  ⟨0x03, 1, .u32, .rw, .n 65536, .span 9216 1048576 1, 4⟩,
  ⟨0x04, 1, .u8, .rw, .n 4, .span 0 7 1, 1⟩,
  ⟨0x05, 1, .u32, .ro, .n 0, .any, 4⟩,
  ⟨0x06, 1, .u64, .ro, .n 0, .any, 8⟩,
  ⟨0x07, 1, .u32, .ro, .n 0, .any, 4⟩,
  ⟨0x08, 1, .u32, .ro, .n 0, .any, 4⟩,
  ⟨0x09, 1, .u64, .ro, .n 0, .any, 8⟩,
  ⟨0x0A, 1, .u32, .ro, .n 0, .any, 4⟩,
  ⟨0x0B, 1, .u32, .ro, .n 0, .any, 4⟩,
  ⟨0x0C, 1, .u32, .ro, .n 0, .any, 4⟩]

/-- The objects of index 0x3000 (07_opal_composition.md). -/
def rows3000 : List ObjRow := [
  ⟨0x01, 1, .bool, .rws, .n 0, .any, 1⟩,
  ⟨0x02, 1, .u16, .rws, .n 1920, .oneOf [1280, 1920, 3840, 7680], 2⟩,
  ⟨0x03, 1, .u16, .rws, .n 1080, .oneOf [720, 1080, 2160, 4320], 2⟩,
  ⟨0x04, 1, .u32, .rws, .n 60, .span 24 240000 1, 4⟩,
  ⟨0x05, 1, .u32, .rws, .n 1, .oneOf [1, 1001], 4⟩,
  ⟨0x06, 1, .u8, .rws, .n 0, .span 0 7 1, 1⟩,
  ⟨0x07, 1, .u32, .rws, .n 0, .span 0 16666666 1, 4⟩,
  ⟨0x08, 1, .u8, .rws, .n 0, .span 0 2 1, 1⟩,
  ⟨0x09, 1, .u8, .rws, .n 0, .span 0 2 1, 1⟩,
  ⟨0x0A, 1, .u8, .rws, .n 0, .oneOf [0, 1], 1⟩,
  ⟨0x0B, 1, .u8, .rws, .n 255, .also [255] 0 127, 1⟩,
  ⟨0x0C, 1, .u8, .rws, .n 0, .oneOf [0, 1], 1⟩,
  ⟨0x0D, 1, .ostr, .rws, .rep 16 255, .any, 16⟩,
  ⟨0x0E, 1, .u64, .rws, .n 0, .any, 8⟩,
  ⟨0x0F, 1, .u64, .rws, .n 4397778092031, .any, 8⟩,
  ⟨0x10, 1, .domain, .rws, .special, .any, 8192⟩,
  ⟨0x11, 1, .bool, .wo, .n 0, .any, 1⟩,
  ⟨0x12, 1, .u8, .ro, .n 0, .any, 1⟩,
  ⟨0x13, 1, .u16, .ro, .n 0, .any, 2⟩,
  ⟨0x14, 1, .u32, .ro, .n 0, .any, 4⟩,
  ⟨0x15, 1, .u64, .ro, .n 0, .any, 8⟩,
  ⟨0x16, 1, .u32, .ro, .n 0, .any, 4⟩,
  ⟨0x20, 1, .u8, .rws, .n 0, .oneOf [0, 1, 2], 1⟩,
  ⟨0x21, 1, .u8, .rws, .n 255, .also [255] 0 95, 1⟩,
  ⟨0x22, 1, .ostr, .rws, .rep 16 0, .any, 16⟩,
  ⟨0x23, 1, .u16, .rws, .n 0, .span 1 65535 1, 2⟩,
  ⟨0x24, 1, .u16, .rws, .n 65535, .also [65535] 0 4094, 2⟩,
  ⟨0x25, 1, .u8, .rws, .n 34, .span 0 63 1, 1⟩,
  ⟨0x26, 1, .u8, .rws, .n 255, .also [255] 0 95, 1⟩,
  ⟨0x27, 1, .ostr, .rws, .rep 16 0, .any, 16⟩,
  ⟨0x28, 1, .u16, .rws, .n 0, .span 1 65535 1, 2⟩,
  ⟨0x29, 1, .u16, .rws, .n 65535, .also [65535] 0 4094, 2⟩,
  ⟨0x2A, 1, .u8, .rws, .n 34, .span 0 63 1, 1⟩,
  ⟨0x2D, 1, .u16, .rws, .n 1460, .span 64 8960 1, 2⟩,
  ⟨0x2E, 1, .u8, .rws, .n 6, .span 0 7 1, 1⟩,
  ⟨0x2F, 1, .u32, .rws, .n 0, .any, 4⟩]

/-- The objects of index 0x3100 (07_opal_composition.md). -/
def rows3100 : List ObjRow := [
  ⟨0x01, 1, .u8, .rws, .n 255, .also [255] 0 31, 1⟩,
  ⟨0x02, 1, .u8, .rws, .n 0, .span 0 3 1, 1⟩,
  ⟨0x03, 1, .u8, .rws, .n 0, .oneOf [0, 1], 1⟩,
  ⟨0x04, 1, .u16, .rws, .n 0, .any, 2⟩,
  ⟨0x05, 1, .u16, .rws, .n 0, .any, 2⟩,
  ⟨0x06, 1, .u16, .rws, .n 0, .any, 2⟩,
  ⟨0x07, 1, .u16, .rws, .n 0, .any, 2⟩,
  ⟨0x08, 1, .i16, .rws, .n 0, .span (-8192) 8191 1, 2⟩,
  ⟨0x09, 1, .i16, .rws, .n 0, .span (-8192) 8191 1, 2⟩,
  ⟨0x0A, 1, .u16, .rws, .n 0, .span 0 16384 1, 2⟩,
  ⟨0x0B, 1, .u16, .rws, .n 0, .span 0 16384 1, 2⟩,
  ⟨0x0C, 1, .u16, .rws, .n 1023, .span 0 1023 1, 2⟩,
  ⟨0x0D, 1, .u8, .rws, .n 0, .oneOf [0, 1, 2], 1⟩,
  ⟨0x0E, 1, .u64, .rws, .n 0, .any, 8⟩,
  ⟨0x0F, 1, .domain, .rws, .special, .any, 2048⟩,
  ⟨0x10, 1, .u8, .rws, .n 1, .span 0 4 1, 1⟩,
  ⟨0x11, 1, .u32, .rws, .n 1000, .span 0 100000 1, 4⟩,
  ⟨0x21, 1, .u16, .rws, .n 1920, .span 64 16384 1, 2⟩,
  ⟨0x22, 1, .u16, .rws, .n 1080, .span 64 4320 1, 2⟩,
  ⟨0x23, 1, .u32, .rws, .n 120, .span 24 240000 1, 4⟩,
  ⟨0x24, 1, .u32, .rws, .n 1, .oneOf [1, 1001], 4⟩,
  ⟨0x25, 1, .u8, .rws, .n 0, .oneOf [0, 1, 2], 1⟩,
  ⟨0x26, 1, .u8, .rws, .n 10, .oneOf [8, 10, 12], 1⟩,
  ⟨0x27, 1, .u8, .rws, .n 0, .oneOf [0, 1, 2], 1⟩,
  ⟨0x28, 1, .u8, .rws, .n 0, .oneOf [0, 1, 2], 1⟩,
  ⟨0x29, 1, .u8, .rws, .n 0, .oneOf [0, 1], 1⟩,
  ⟨0x2A, 1, .u8, .rws, .n 0, .oneOf [0, 1], 1⟩,
  ⟨0x2B, 1, .u16, .rws, .n 1460, .span 64 8960 1, 2⟩,
  ⟨0x31, 1, .u8, .rws, .n 0, .oneOf [0, 1], 1⟩,
  ⟨0x32, 1, .u8, .rws, .n 255, .also [255] 0 95, 1⟩,
  ⟨0x33, 1, .ostr, .rws, .rep 16 0, .any, 16⟩,
  ⟨0x34, 1, .u16, .rws, .n 0, .span 1 65535 1, 2⟩,
  ⟨0x35, 1, .ostr, .rws, .rep 16 0, .any, 16⟩,
  ⟨0x36, 1, .u16, .rws, .n 65535, .also [65535] 0 4094, 2⟩,
  ⟨0x37, 1, .u16, .rws, .n 65535, .also [65535] 0 2047, 2⟩,
  ⟨0x38, 1, .u8, .rws, .n 255, .also [255] 0 95, 1⟩,
  ⟨0x39, 1, .ostr, .rws, .rep 16 0, .any, 16⟩,
  ⟨0x3A, 1, .u16, .rws, .n 0, .span 1 65535 1, 2⟩,
  ⟨0x3B, 1, .ostr, .rws, .rep 16 0, .any, 16⟩,
  ⟨0x3C, 1, .u16, .rws, .n 65535, .also [65535] 0 4094, 2⟩,
  ⟨0x3D, 1, .u16, .rws, .n 65535, .also [65535] 0 2047, 2⟩,
  ⟨0x3E, 1, .u16, .rws, .n 100, .span 0 2000 1, 2⟩,
  ⟨0x40, 1, .u32, .rws, .n 67633664, .any, 4⟩]

/-- The objects of index 0x3101 (07_opal_composition.md). -/
def rows3101 : List ObjRow := [
  ⟨0x01, 1, .u8, .ro, .n 0, .any, 1⟩,
  ⟨0x02, 1, .u8, .ro, .n 0, .any, 1⟩,
  ⟨0x03, 1, .u32, .ro, .n 0, .any, 4⟩,
  ⟨0x04, 1, .u32, .ro, .n 0, .any, 4⟩,
  ⟨0x05, 1, .u32, .ro, .n 0, .any, 4⟩,
  ⟨0x06, 1, .time96, .ro, .n 0, .any, 12⟩,
  ⟨0x07, 1, .u64, .ro, .n 0, .any, 8⟩,
  ⟨0x40, 1, .u8, .rws, .n 0, .oneOf [0, 1, 2], 1⟩,
  ⟨0x41, 1, .u8, .rws, .n 1, .oneOf [0, 1], 1⟩,
  ⟨0x42, 1, .u16, .rws, .n 1920, .span 64 7680 8, 2⟩,
  ⟨0x43, 1, .u16, .rws, .n 1080, .span 64 4320 8, 2⟩,
  ⟨0x44, 1, .u32, .rws, .n 60, .span 24 240000 1, 4⟩,
  ⟨0x45, 1, .u32, .rws, .n 1, .oneOf [1, 1001], 4⟩,
  ⟨0x46, 1, .u8, .rws, .n 6, .span 1 16 1, 1⟩,
  ⟨0x47, 1, .u16, .rws, .n 1, .span 1 65535 1, 2⟩,
  ⟨0x48, 1, .u8, .ro, .n 0, .any, 1⟩,
  ⟨0x49, 1, .u8, .ro, .n 0, .any, 1⟩,
  ⟨0x4A, 1, .i32, .ro, .n 0, .any, 4⟩,
  ⟨0x4B, 1, .u64, .ro, .n 0, .any, 8⟩,
  ⟨0x4C, 1, .u32, .ro, .n 0, .any, 4⟩,
  ⟨0x4D, 1, .u32, .ro, .n 0, .any, 4⟩,
  ⟨0x50, 1, .u8, .rws, .n 0, .oneOf [0, 1], 1⟩,
  ⟨0x51, 1, .u8, .rws, .n 255, .also [255] 0 95, 1⟩,
  ⟨0x52, 1, .ostr, .rws, .rep 16 0, .any, 16⟩,
  ⟨0x53, 1, .u16, .rws, .n 0, .span 1 65535 1, 2⟩,
  ⟨0x54, 1, .ostr, .rws, .rep 16 0, .any, 16⟩,
  ⟨0x55, 1, .u16, .rws, .n 65535, .also [65535] 0 4094, 2⟩,
  ⟨0x56, 1, .u16, .rws, .n 65535, .also [65535] 0 2047, 2⟩,
  ⟨0x57, 1, .u8, .rws, .n 255, .also [255] 0 95, 1⟩,
  ⟨0x58, 1, .ostr, .rws, .rep 16 0, .any, 16⟩,
  ⟨0x59, 1, .u16, .rws, .n 0, .span 1 65535 1, 2⟩,
  ⟨0x5A, 1, .ostr, .rws, .rep 16 0, .any, 16⟩,
  ⟨0x5B, 1, .u16, .rws, .n 65535, .also [65535] 0 4094, 2⟩,
  ⟨0x5C, 1, .u16, .rws, .n 65535, .also [65535] 0 2047, 2⟩]

/-- The objects of index 0x3200 (08_audio_ports.md). -/
def rows3200 : List ObjRow := [
  ⟨0x01, 1, .bool, .rws, .n 0, .any, 1⟩,
  ⟨0x02, 1, .u8, .rws, .n 0, .oneOf [0, 1], 1⟩,
  ⟨0x03, 1, .u8, .rws, .n 8, .span 1 32 1, 1⟩,
  ⟨0x04, 1, .u8, .rws, .n 32, .oneOf [16, 24, 32], 1⟩,
  ⟨0x05, 1, .u8, .rws, .n 24, .oneOf [16, 24], 1⟩,
  ⟨0x06, 1, .u8, .rws, .n 1, .span 0 31 1, 1⟩,
  ⟨0x07, 1, .u8, .rws, .n 0, .oneOf [0, 1, 2], 1⟩,
  ⟨0x08, 1, .u8, .rws, .n 0, .oneOf [0, 1], 1⟩,
  ⟨0x09, 1, .bool, .rws, .n 0, .any, 1⟩,
  ⟨0x0A, 1, .u32, .rws, .n 255, .any, 4⟩,
  ⟨0x0B, 1, .u8, .rws, .n 0, .oneOf [0, 1], 1⟩,
  ⟨0x0C, 1, .u8, .rws, .n 0, .oneOf [0, 1], 1⟩,
  ⟨0x0D, 1, .u16, .rws, .n 1000, .oneOf [125, 1000], 2⟩,
  ⟨0x0E, 1, .u8, .rws, .n 8, .span 4 64 1, 1⟩,
  ⟨0x0F, 1, .u8, .rws, .n 255, .also [255] 0 127, 1⟩,
  ⟨0x10, 1, .u8, .rws, .n 0, .span 0 3 1, 1⟩,
  ⟨0x11, 1, .u8, .rws, .n 0, .span 0 63 1, 1⟩,
  ⟨0x12, 1, .u32, .rws, .n 2000, .span 100 20000 1, 4⟩,
  ⟨0x13, 1, .bool, .rws, .n 0, .any, 1⟩,
  ⟨0x14, 1, .bool, .wo, .n 0, .any, 1⟩,
  ⟨0x15, 1, .u8, .ro, .n 0, .any, 1⟩,
  ⟨0x16, 1, .u16, .ro, .n 0, .any, 2⟩]

/-- The objects of index 0x3201 (08_audio_ports.md). -/
def rows3201 : List ObjRow := [
  ⟨0x01, 1, .u8, .rws, .n 0, .oneOf [0, 1, 2], 1⟩,
  ⟨0x02, 1, .u8, .rws, .n 255, .also [255] 0 95, 1⟩,
  ⟨0x03, 1, .ostr, .rws, .rep 16 0, .any, 16⟩,
  ⟨0x04, 1, .u16, .rws, .n 0, .span 1 65535 1, 2⟩,
  ⟨0x05, 1, .u16, .rws, .n 65535, .also [65535] 0 4094, 2⟩,
  ⟨0x06, 1, .u8, .rws, .n 34, .span 0 63 1, 1⟩,
  ⟨0x07, 1, .u8, .rws, .n 255, .also [255] 0 95, 1⟩,
  ⟨0x08, 1, .ostr, .rws, .rep 16 0, .any, 16⟩,
  ⟨0x09, 1, .u16, .rws, .n 0, .span 1 65535 1, 2⟩,
  ⟨0x0A, 1, .u16, .rws, .n 65535, .also [65535] 0 4094, 2⟩,
  ⟨0x0B, 1, .u8, .rws, .n 34, .span 0 63 1, 1⟩,
  ⟨0x0C, 1, .u16, .rws, .n 1000, .oneOf [125, 1000], 2⟩,
  ⟨0x0D, 1, .u8, .rws, .n 5, .span 0 7 1, 1⟩,
  ⟨0x0E, 1, .u32, .rws, .n 0, .any, 4⟩,
  ⟨0x20, 1, .u32, .ro, .n 0, .any, 4⟩,
  ⟨0x21, 1, .u32, .ro, .n 0, .any, 4⟩,
  ⟨0x22, 1, .u32, .ro, .n 0, .any, 4⟩,
  ⟨0x23, 1, .u64, .ro, .n 0, .any, 8⟩,
  ⟨0x24, 1, .u32, .ro, .n 0, .any, 4⟩,
  ⟨0x25, 1, .u32, .ro, .n 0, .any, 4⟩]

/-- The objects of index 0x3280 (08_audio_ports.md). -/
def rows3280 : List ObjRow := [
  ⟨0x01, 1, .u8, .rw, .n 0, .span 0 7 1, 1⟩,
  ⟨0x02, 1, .u8, .rw, .n 48, .oneOf [48, 96], 1⟩]

/-- The objects of index 0x3300 (10_traffic_shaping.md). -/
def rows3300 : List ObjRow := [
  ⟨0x01, 1, .i16, .rws, .n 20, .span (-32) 255 1, 2⟩,
  ⟨0x02, 1, .u32, .rws, .n 100, .span 0 100000 1, 4⟩,
  ⟨0x03, 1, .u8, .rws, .n 0, .span 0 7 1, 1⟩,
  ⟨0x04, 1, .u8, .rws, .n 3, .span 0 7 1, 1⟩,
  ⟨0x05, 1, .u8, .rws, .n 2, .span 0 7 1, 1⟩,
  ⟨0x06, 1, .bool, .rws, .n 0, .any, 1⟩,
  ⟨0x07, 1, .u16, .rws, .n 1, .span 1 256 1, 2⟩,
  ⟨0x08, 1, .time96, .rws, .n 0, .any, 12⟩,
  ⟨0x09, 1, .domain, .rws, .special, .any, 2048⟩,
  ⟨0x0A, 1, .bool, .wo, .n 0, .any, 1⟩,
  ⟨0x0B, 1, .u8, .ro, .n 0, .any, 1⟩,
  ⟨0x0C, 1, .u16, .ro, .n 0, .any, 2⟩,
  ⟨0x10, 8, .u64, .rws, .n 0, .also [0] 1000000 400000000000, 8⟩,
  ⟨0x18, 8, .u32, .rws, .n 16384, .span 1600 1048576 1, 4⟩,
  ⟨0x30, 1, .u8, .rw, .n 0, .span 0 9 1, 1⟩,
  ⟨0x31, 1, .bool, .rw, .n 0, .any, 1⟩,
  ⟨0x32, 1, .u8, .rw, .n 0, .oneOf [0, 1], 1⟩,
  ⟨0x33, 1, .u8, .rw, .n 0, .oneOf [0, 1], 1⟩,
  ⟨0x34, 1, .u8, .rw, .n 1, .span 0 1 1, 1⟩,
  ⟨0x35, 1, .u16, .rw, .n 9216, .span 1518 9216 1, 2⟩,
  ⟨0x36, 1, .ostr, .rw, .special, .any, 6⟩,
  ⟨0x37, 1, .u16, .rw, .n 65535, .also [65535] 0 4094, 2⟩,
  ⟨0x38, 1, .ostr, .rw, .rep 4 0, .any, 4⟩,
  ⟨0x39, 1, .u8, .rw, .n 24, .span 0 32 1, 1⟩,
  ⟨0x3A, 1, .ostr, .rw, .rep 16 0, .any, 16⟩,
  ⟨0x3B, 1, .u8, .rw, .n 64, .span 0 128 1, 1⟩,
  ⟨0x3C, 1, .u8, .rw, .n 5, .span 3 9 1, 1⟩,
  ⟨0x3D, 1, .u8, .ro, .n 0, .any, 1⟩,
  ⟨0x3E, 1, .u8, .ro, .n 0, .any, 1⟩,
  ⟨0x3F, 1, .u64, .ro, .n 0, .any, 8⟩]

/-- The objects of index 0x3301 (10_traffic_shaping.md). -/
def rows3301 : List ObjRow := [
  ⟨0x01, 1, .u64, .ro, .n 0, .any, 8⟩,
  ⟨0x02, 1, .u32, .ro, .n 0, .any, 4⟩,
  ⟨0x03, 1, .u32, .ro, .n 0, .any, 4⟩,
  ⟨0x04, 1, .u32, .ro, .n 0, .any, 4⟩,
  ⟨0x05, 1, .u32, .ro, .n 0, .any, 4⟩,
  ⟨0x06, 1, .u32, .ro, .n 0, .any, 4⟩,
  ⟨0x07, 1, .u64, .ro, .n 0, .any, 8⟩,
  ⟨0x08, 1, .u64, .ro, .n 0, .any, 8⟩,
  ⟨0x09, 1, .time96, .ro, .n 0, .any, 12⟩,
  ⟨0x0A, 1, .u32, .ro, .n 0, .any, 4⟩,
  ⟨0x20, 1, .u64, .ro, .n 0, .any, 8⟩,
  ⟨0x21, 1, .u32, .ro, .n 0, .any, 4⟩,
  ⟨0x22, 1, .u32, .ro, .n 0, .any, 4⟩,
  ⟨0x23, 1, .u32, .ro, .n 0, .any, 4⟩,
  ⟨0x24, 1, .u64, .ro, .n 0, .any, 8⟩,
  ⟨0x25, 1, .u32, .ro, .n 0, .any, 4⟩,
  ⟨0x26, 1, .u64, .ro, .n 0, .any, 8⟩,
  ⟨0x27, 1, .u32, .ro, .n 0, .any, 4⟩,
  ⟨0x28, 1, .u64, .ro, .n 0, .any, 8⟩]

/-- The objects of index 0x33F0 (10_traffic_shaping.md). -/
def rows33F0 : List ObjRow := [
  ⟨0x01, 64, .u8, .rw, .n 0, .oneOf [0, 1, 2], 1⟩]

/-- The objects of index 0x3400 (10_traffic_shaping.md). -/
def rows3400 : List ObjRow := [
  ⟨0x01, 1, .u8, .rw, .n 0, .oneOf [0, 1, 2], 1⟩,
  ⟨0x02, 1, .bool, .rw, .n 0, .any, 1⟩,
  ⟨0x03, 1, .u64, .rw, .n 0, .span 0 400000000000 1, 8⟩,
  ⟨0x04, 1, .u32, .rw, .n 16384, .span 64 16777216 1, 4⟩,
  ⟨0x05, 1, .u64, .rw, .n 0, .span 0 400000000000 1, 8⟩,
  ⟨0x06, 1, .u32, .rw, .n 16384, .span 64 16777216 1, 4⟩,
  ⟨0x07, 1, .u8, .rw, .n 0, .oneOf [0, 1], 1⟩,
  ⟨0x08, 1, .u64, .ro, .n 0, .any, 8⟩,
  ⟨0x09, 1, .u64, .ro, .n 0, .any, 8⟩,
  ⟨0x0A, 1, .u64, .ro, .n 0, .any, 8⟩,
  ⟨0x0B, 1, .u64, .ro, .n 0, .any, 8⟩,
  ⟨0x0C, 1, .u64, .ro, .n 0, .any, 8⟩,
  ⟨0x0D, 1, .u64, .ro, .n 0, .any, 8⟩]

/-- The objects of index 0x3500 (11_jasper_time.md). -/
def rows3500 : List ObjRow := [
  ⟨0x01, 1, .u8, .rw, .n 0, .oneOf [0, 1], 1⟩,
  ⟨0x02, 1, .u8, .rw, .n 127, .span 0 127 1, 1⟩,
  ⟨0x03, 1, .u8, .rw, .n 255, .also [255] 0 95, 1⟩,
  ⟨0x04, 1, .u8, .rw, .n 255, .also [255] 0 95, 1⟩,
  ⟨0x05, 1, .i8, .rw, .n (-3), .span (-7) (-1) 1, 1⟩,
  ⟨0x06, 1, .i8, .rw, .n (-2), .span (-3) 1 1, 1⟩,
  ⟨0x07, 1, .u8, .rw, .n 3, .span 2 10 1, 1⟩,
  ⟨0x08, 1, .i8, .rw, .n (-3), .span (-7) 0 1, 1⟩,
  ⟨0x09, 1, .bool, .rw, .n 0, .any, 1⟩,
  ⟨0x0A, 1, .u32, .rw, .n 1000, .span 100 1000000000 1, 4⟩,
  ⟨0x0B, 1, .u16, .rw, .n 20, .span 1 500 1, 2⟩,
  ⟨0x0C, 1, .u16, .rw, .n 100, .span 10 1000 1, 2⟩,
  ⟨0x0D, 1, .u16, .rw, .n 16, .span 1 600 1, 2⟩,
  ⟨0x10, 1, .i64, .wo, .n 0, .any, 8⟩,
  ⟨0x11, 1, .bool, .wo, .n 0, .any, 1⟩]

/-- The objects of index 0x3501 (11_jasper_time.md). -/
def rows3501 : List ObjRow := [
  ⟨0x01, 1, .u8, .ro, .n 0, .any, 1⟩,
  ⟨0x02, 1, .time96, .ro, .n 0, .any, 12⟩,
  ⟨0x03, 1, .i64, .ro, .n 0, .any, 8⟩,
  ⟨0x04, 1, .u64, .ro, .n 0, .any, 8⟩,
  ⟨0x05, 1, .i32, .ro, .n 0, .any, 4⟩,
  ⟨0x06, 1, .ostr, .ro, .rep 8 0, .any, 8⟩,
  ⟨0x07, 1, .u16, .ro, .n 0, .any, 2⟩,
  ⟨0x08, 1, .i16, .ro, .n 0, .any, 2⟩,
  ⟨0x09, 1, .u32, .ro, .n 0, .any, 4⟩,
  ⟨0x0A, 1, .u32, .ro, .n 0, .any, 4⟩,
  ⟨0x0B, 1, .bool, .ro, .n 0, .any, 1⟩,
  ⟨0x0C, 1, .time96, .ro, .n 0, .any, 12⟩,
  ⟨0x0D, 1, .u32, .ro, .n 0, .any, 4⟩,
  ⟨0x0E, 1, .u16, .ro, .n 0, .any, 2⟩,
  ⟨0x0F, 1, .ostr, .ro, .rep 0 0, .any, 64⟩]

/-- The objects of index 0x3520 (11_jasper_time.md). -/
def rows3520 : List ObjRow := [
  ⟨0x01, 1, .bool, .rw, .n 0, .any, 1⟩,
  ⟨0x02, 1, .u8, .rw, .n 0, .span 0 7 1, 1⟩,
  ⟨0x03, 1, .u16, .rw, .n 100, .span 1 999 1, 2⟩,
  ⟨0x04, 1, .u8, .rw, .n 0, .span 0 7 1, 1⟩,
  ⟨0x05, 1, .time96, .ro, .n 0, .any, 12⟩,
  ⟨0x06, 1, .u32, .ro, .n 0, .any, 4⟩]

/-- The objects of index 0x3521 (11_jasper_time.md). -/
def rows3521 : List ObjRow := [
  ⟨0x01, 8, .u64, .ro, .n 0, .any, 8⟩]

/-- The objects of index 0x3540 (11_jasper_time.md). -/
def rows3540 : List ObjRow := [
  ⟨0x01, 1, .u8, .ro, .n 0, .any, 1⟩,
  ⟨0x02, 1, .u32, .ro, .n 0, .any, 4⟩,
  ⟨0x03, 1, .u32, .ro, .n 0, .any, 4⟩,
  ⟨0x04, 1, .ostr, .ro, .rep 16 0, .any, 16⟩]

/-- The objects of index 0x3600 (14_dram.md). -/
def rows3600 : List ObjRow := [
  ⟨0x01, 1, .u8, .rw, .n 1, .any, 1⟩,
  ⟨0x02, 1, .u8, .rws, .n 0, .span 0 5 1, 1⟩,
  ⟨0x03, 1, .u8, .rws, .n 0, .span 0 31 1, 1⟩,
  ⟨0x04, 1, .bool, .wo, .n 0, .any, 1⟩,
  ⟨0x05, 1, .u8, .ro, .n 0, .any, 1⟩,
  ⟨0x06, 1, .u16, .ro, .n 0, .any, 2⟩,
  ⟨0x07, 1, .u8, .ro, .n 0, .any, 1⟩,
  ⟨0x10, 1, .u8, .rw, .n 8, .span 4 12 1, 1⟩,
  ⟨0x11, 1, .u8, .rw, .n 1, .span 1 2 1, 1⟩,
  ⟨0x12, 1, .u16, .rw, .n 24, .span 1 168 1, 2⟩,
  ⟨0x13, 1, .u32, .rw, .n 10000, .span 0 1000000000 1, 4⟩,
  ⟨0x14, 1, .u8, .rw, .n 1, .span 1 255 1, 1⟩,
  ⟨0x15, 1, .u16, .rw, .n 4000, .span 500 16000 1, 2⟩,
  ⟨0x16, 1, .u16, .wo, .n 0, .any, 2⟩,
  ⟨0x17, 1, .u32, .ro, .n 0, .any, 4⟩,
  ⟨0x20, 1, .u32, .ro, .n 921600, .any, 4⟩,
  ⟨0x21, 1, .u32, .ro, .n 0, .any, 4⟩,
  ⟨0x22, 1, .u64, .ro, .n 0, .any, 8⟩]

/-- The objects of index 0x3700 (15_onyx_scheduler.md). -/
def rows3700 : List ObjRow := [
  ⟨0x01, 1, .u8, .rw, .n 7, .span 1 7 1, 1⟩,
  ⟨0x02, 1, .bool, .rw, .n 0, .any, 1⟩,
  ⟨0x03, 1, .u32, .rw, .n 64766, .any, 4⟩,
  ⟨0x04, 1, .u8, .rw, .n 0, .oneOf [0, 1], 1⟩,
  ⟨0x05, 1, .bool, .wo, .n 0, .any, 1⟩]

/-- The objects of index 0x3720 (16_spinel_fabric.md). -/
def rows3720 : List ObjRow := [
  ⟨0x01, 1, .u8, .rw, .n 16, .span 4 64 1, 1⟩]

/-- The objects of index 0x3721 (16_spinel_fabric.md). -/
def rows3721 : List ObjRow := [
  ⟨0x01, 22, .u16, .rw, .special, .span 0 1000 1, 2⟩]

/-- The objects of index 0x3722 (16_spinel_fabric.md). -/
def rows3722 : List ObjRow := [
  ⟨0x01, 8, .u16, .rw, .special, .span 0 1000 1, 2⟩]

/-- The objects of index 0x3723 (16_spinel_fabric.md). -/
def rows3723 : List ObjRow := [
  ⟨0x01, 14, .u8, .rw, .special, .also [255] 0 21, 1⟩]

/-- The objects of index 0x3724 (16_spinel_fabric.md). -/
def rows3724 : List ObjRow := [
  ⟨0x01, 1, .u16, .rw, .n 16, .span 1 65535 1, 2⟩]

/-- The objects of index 0x3800 (12_clocking.md). -/
def rows3800 : List ObjRow := [
  ⟨0x01, 1, .u8, .rws, .special, .span 0 3 1, 1⟩,
  ⟨0x02, 1, .u8, .rws, .n 255, .also [255] 0 3, 1⟩,
  ⟨0x03, 1, .u8, .rws, .n 0, .span 0 31 1, 1⟩,
  ⟨0x04, 1, .u8, .rws, .n 255, .also [255] 0 31, 1⟩,
  ⟨0x05, 1, .domain, .rw, .special, .any, 256⟩,
  ⟨0x06, 1, .u8, .wo, .n 0, .span 0 31 1, 1⟩,
  ⟨0x07, 1, .bool, .wo, .n 0, .any, 1⟩,
  ⟨0x08, 1, .u8, .ro, .n 0, .any, 1⟩,
  ⟨0x09, 1, .u16, .ro, .n 0, .any, 2⟩,
  ⟨0x0A, 1, .bool, .wo, .n 0, .any, 1⟩,
  ⟨0x0B, 1, .u64, .ro, .special, .any, 8⟩,
  ⟨0x0C, 1, .u32, .ro, .n 0, .any, 4⟩,
  ⟨0x0D, 1, .u32, .ro, .n 0, .any, 4⟩,
  ⟨0x0E, 1, .u32, .ro, .n 0, .any, 4⟩,
  ⟨0x0F, 1, .u64, .ro, .n 0, .any, 8⟩]

/-- The objects of index 0x3810 (12_clocking.md). -/
def rows3810 : List ObjRow := [
  ⟨0x01, 24, .u8, .rws, .special, .oneOf [0, 1], 1⟩]

/-- The objects of index 0x3900 (13_serial_lanes.md). -/
def rows3900 : List ObjRow := [
  ⟨0x01, 1, .bool, .rw, .n 0, .any, 1⟩,
  ⟨0x02, 1, .bool, .rw, .n 0, .any, 1⟩,
  ⟨0x03, 1, .u64, .rw, .n 12288, .any, 8⟩,
  ⟨0x04, 1, .u8, .rw, .n 2, .oneOf [0, 1, 2], 1⟩,
  ⟨0x05, 1, .bool, .rw, .n 0, .any, 1⟩,
  ⟨0x06, 1, .bool, .rw, .n 0, .any, 1⟩,
  ⟨0x07, 1, .u8, .rw, .n 4, .span 0 64 1, 1⟩,
  ⟨0x10, 1, .u8, .ro, .n 0, .any, 1⟩,
  ⟨0x11, 1, .u8, .ro, .n 0, .any, 1⟩,
  ⟨0x12, 1, .u16, .ro, .n 0, .any, 2⟩,
  ⟨0x13, 1, .u32, .ro, .n 0, .any, 4⟩,
  ⟨0x14, 1, .u32, .ro, .n 0, .any, 4⟩,
  ⟨0x15, 1, .u64, .ro, .n 0, .any, 8⟩,
  ⟨0x16, 1, .u64, .ro, .n 0, .any, 8⟩,
  ⟨0x20, 1, .u8, .rw, .n 1, .oneOf [0, 1, 2], 1⟩,
  ⟨0x21, 1, .i8, .rw, .n (-32), .span (-32) 31 1, 1⟩,
  ⟨0x22, 1, .i8, .rw, .n 31, .span (-32) 31 1, 1⟩,
  ⟨0x23, 1, .u8, .rw, .n 1, .span 1 16 1, 1⟩,
  ⟨0x24, 1, .i8, .rw, .n (-64), .span (-64) 63 1, 1⟩,
  ⟨0x25, 1, .i8, .rw, .n 63, .span (-64) 63 1, 1⟩,
  ⟨0x26, 1, .u8, .rw, .n 1, .span 1 16 1, 1⟩,
  ⟨0x27, 1, .u8, .rw, .n 24, .span 16 34 1, 1⟩,
  ⟨0x28, 1, .bool, .wo, .n 0, .any, 1⟩,
  ⟨0x29, 1, .u8, .ro, .n 0, .any, 1⟩,
  ⟨0x2A, 1, .u16, .ro, .n 0, .any, 2⟩,
  ⟨0x2B, 1, .domain, .ro, .rep 0 0, .any, 65536⟩]

/-- The objects of index 0x5001 (18_object_reference.md). -/
def rows5001 : List ObjRow := [
  ⟨0x01, 1, .u64, .rw, .n 0, .any, 8⟩,
  ⟨0x02, 1, .u32, .rw, .n 0, .any, 4⟩,
  ⟨0x03, 1, .u32, .ro, .n 0, .any, 4⟩]

/-- The objects of index 0x5002 (18_object_reference.md). -/
def rows5002 : List ObjRow := [
  ⟨0x01, 8, .u64, .ro, .special, .any, 8⟩]

/-- The objects of index 0x5003 (18_object_reference.md). -/
def rows5003 : List ObjRow := [
  ⟨0x01, 8, .u8, .ro, .n 0, .any, 1⟩]

/-- The objects of index 0x5010 (01_architecture.md). -/
def rows5010 : List ObjRow := [
  ⟨0x01, 1, .u32, .ro, .n 0, .any, 4⟩,
  ⟨0x02, 1, .u32, .ro, .n 0, .any, 4⟩,
  ⟨0x03, 1, .u32, .ro, .n 0, .any, 4⟩,
  ⟨0x04, 1, .u32, .ro, .n 0, .any, 4⟩]

/-- The objects of index 0x5020 (04_encoder_pipeline.md). -/
def rows5020 : List ObjRow := [
  ⟨0x01, 8, .u32, .ro, .n 274960, .any, 4⟩]

/-- The objects of index 0x5021 (04_encoder_pipeline.md). -/
def rows5021 : List ObjRow := [
  ⟨0x01, 8, .u32, .ro, .n 1000000, .any, 4⟩]

/-- The objects of index 0x5022 (06_reference_pool.md). -/
def rows5022 : List ObjRow := [
  ⟨0x01, 8, .u32, .ro, .n 0, .any, 4⟩]

/-- The objects of index 0x5023 (06_reference_pool.md). -/
def rows5023 : List ObjRow := [
  ⟨0x01, 8, .u64, .ro, .n 0, .any, 8⟩]

/-- The objects of index 0x5024 (07_opal_composition.md). -/
def rows5024 : List ObjRow := [
  ⟨0x01, 8, .u8, .ro, .n 0, .any, 1⟩]

/-- The objects of index 0x5025 (07_opal_composition.md). -/
def rows5025 : List ObjRow := [
  ⟨0x01, 8, .u32, .ro, .n 0, .any, 4⟩]

/-- The objects of index 0x5026 (09_output_integrity.md). -/
def rows5026 : List ObjRow := [
  ⟨0x01, 8, .u32, .ro, .n 0, .any, 4⟩]

/-- The objects of index 0x5027 (10_traffic_shaping.md). -/
def rows5027 : List ObjRow := [
  ⟨0x01, 8, .u16, .ro, .n 0, .any, 2⟩]

/-- The objects of index 0x5028 (12_clocking.md). -/
def rows5028 : List ObjRow := [
  ⟨0x01, 8, .u32, .ro, .n 7829367, .any, 4⟩]

/-- The objects of index 0x5029 (12_clocking.md). -/
def rows5029 : List ObjRow := [
  ⟨0x01, 8, .ostr, .ro, .rep 24 0, .any, 24⟩]

/-- The objects of index 0x502A (14_dram.md). -/
def rows502A : List ObjRow := [
  ⟨0x01, 48, .u8, .ro, .n 0, .any, 1⟩]

/-- The objects of index 0x502B (14_dram.md). -/
def rows502B : List ObjRow := [
  ⟨0x01, 48, .u32, .ro, .n 0, .any, 4⟩]

/-- The objects of index 0x502C (14_dram.md). -/
def rows502C : List ObjRow := [
  ⟨0x01, 48, .u32, .ro, .n 0, .any, 4⟩]

/-- The objects of index 0x502D (14_dram.md). -/
def rows502D : List ObjRow := [
  ⟨0x01, 8, .u16, .ro, .n 0, .any, 2⟩]

/-- The objects of index 0x502E (14_dram.md). -/
def rows502E : List ObjRow := [
  ⟨0x01, 8, .u16, .ro, .n 0, .any, 2⟩]

/-- The objects of index 0x502F (14_dram.md). -/
def rows502F : List ObjRow := [
  ⟨0x01, 8, .u64, .ro, .n 17179869184, .any, 8⟩]

/-- The objects of index 0x5030 (14_dram.md). -/
def rows5030 : List ObjRow := [
  ⟨0x01, 8, .u64, .ro, .n 17179869184, .any, 8⟩]

/-- The objects of index 0x5031 (15_onyx_scheduler.md). -/
def rows5031 : List ObjRow := [
  ⟨0x01, 8, .ostr, .ro, .special, .any, 30⟩]

/-- The objects of index 0x5032 (15_onyx_scheduler.md). -/
def rows5032 : List ObjRow := [
  ⟨0x01, 8, .u16, .ro, .n 0, .any, 2⟩]

/-- The objects of index 0x5033 (15_onyx_scheduler.md). -/
def rows5033 : List ObjRow := [
  ⟨0x01, 8, .u16, .ro, .n 0, .any, 2⟩]

/-- The objects of index 0x5034 (15_onyx_scheduler.md). -/
def rows5034 : List ObjRow := [
  ⟨0x01, 8, .u32, .ro, .n 0, .any, 4⟩]

/-- The objects of index 0x5035 (15_onyx_scheduler.md). -/
def rows5035 : List ObjRow := [
  ⟨0x01, 8, .u32, .ro, .n 0, .any, 4⟩]

/-- The objects of index 0x5036 (15_onyx_scheduler.md). -/
def rows5036 : List ObjRow := [
  ⟨0x01, 8, .u32, .ro, .n 0, .any, 4⟩]

/-- The objects of index 0x5037 (15_onyx_scheduler.md). -/
def rows5037 : List ObjRow := [
  ⟨0x01, 8, .u32, .ro, .n 0, .any, 4⟩]

/-- The objects of index 0x5038 (15_onyx_scheduler.md). -/
def rows5038 : List ObjRow := [
  ⟨0x01, 8, .domain, .ro, .rep 0 0, .any, 65536⟩]

/-- The objects of index 0x5039 (15_onyx_scheduler.md). -/
def rows5039 : List ObjRow := [
  ⟨0x01, 8, .u16, .ro, .n 0, .any, 2⟩]

/-- The objects of index 0x503A (15_onyx_scheduler.md). -/
def rows503A : List ObjRow := [
  ⟨0x01, 8, .u32, .ro, .n 0, .any, 4⟩]

/-- The objects of index 0x5040 (16_spinel_fabric.md). -/
def rows5040 : List ObjRow := [
  ⟨0x01, 8, .u32, .ro, .n 0, .any, 4⟩]

/-- The objects of index 0x5041 (16_spinel_fabric.md). -/
def rows5041 : List ObjRow := [
  ⟨0x01, 8, .u64, .ro, .n 0, .any, 8⟩]

/-- The objects of index 0x5042 (16_spinel_fabric.md). -/
def rows5042 : List ObjRow := [
  ⟨0x01, 8, .u32, .ro, .n 0, .any, 4⟩]

/-- The objects of index 0x5043 (16_spinel_fabric.md). -/
def rows5043 : List ObjRow := [
  ⟨0x01, 8, .u32, .ro, .n 0, .any, 4⟩]

/-- The objects of index 0x5044 (16_spinel_fabric.md). -/
def rows5044 : List ObjRow := [
  ⟨0x01, 8, .u32, .ro, .n 0, .any, 4⟩]

/-- The objects of index 0x5045 (16_spinel_fabric.md). -/
def rows5045 : List ObjRow := [
  ⟨0x01, 8, .bool, .ro, .n 0, .any, 1⟩]

/-- The objects of index 0x5050 (17_beryl_management.md). -/
def rows5050 : List ObjRow := [
  ⟨0x01, 192, .i16, .ro, .n 0, .any, 2⟩]

/-- The objects of index 0x5051 (17_beryl_management.md). -/
def rows5051 : List ObjRow := [
  ⟨0x01, 96, .u16, .ro, .n 0, .any, 2⟩]

/-- The objects of index 0x5052 (17_beryl_management.md). -/
def rows5052 : List ObjRow := [
  ⟨0x01, 1, .i16, .rw, .special, .span (-40) 125 1, 2⟩,
  ⟨0x02, 1, .i16, .rw, .special, .span 60 105 1, 2⟩,
  ⟨0x03, 1, .i16, .const, .special, .any, 2⟩,
  ⟨0x04, 1, .u16, .rw, .n 30, .span 10 100 1, 2⟩]

/-- The objects of index 0x5053 (17_beryl_management.md). -/
def rows5053 : List ObjRow := [
  ⟨0x01, 8, .i16, .ro, .n 0, .any, 2⟩]

/-- The objects of index 0x5060 (17_beryl_management.md). -/
def rows5060 : List ObjRow := [
  ⟨0x01, 1, .u8, .rw, .n 0, .span 0 7 1, 1⟩,
  ⟨0x02, 1, .u32, .rw, .n 0, .any, 4⟩,
  ⟨0x03, 1, .domain, .ro, .rep 0 0, .any, 2048⟩,
  ⟨0x04, 1, .u32, .ro, .n 0, .any, 4⟩,
  ⟨0x05, 1, .u32, .ro, .n 0, .any, 4⟩]

/-- The objects of index 0x5070 (19_power_boot_repair.md). -/
def rows5070 : List ObjRow := [
  ⟨0x01, 8, .u32, .ro, .n 0, .any, 4⟩]

/-- The objects of index 0x5071 (19_power_boot_repair.md). -/
def rows5071 : List ObjRow := [
  ⟨0x01, 8, .u32, .ro, .n 0, .any, 4⟩]

/-- The objects of index 0x5072 (19_power_boot_repair.md). -/
def rows5072 : List ObjRow := [
  ⟨0x01, 8, .u16, .ro, .n 0, .any, 2⟩]

/-- The objects of index 0x5073 (19_power_boot_repair.md). -/
def rows5073 : List ObjRow := [
  ⟨0x01, 8, .u32, .ro, .n 0, .any, 4⟩]

/-- The objects of index 0x5074 (19_power_boot_repair.md). -/
def rows5074 : List ObjRow := [
  ⟨0x01, 48, .u8, .ro, .n 0, .any, 1⟩]

/-- The objects of index 0x5075 (19_power_boot_repair.md). -/
def rows5075 : List ObjRow := [
  ⟨0x01, 8, .domain, .ro, .rep 0 0, .any, 256⟩]

/-- The objects of index 0x5076 (19_power_boot_repair.md). -/
def rows5076 : List ObjRow := [
  ⟨0x01, 1, .ostr, .ro, .rep 0 0, .any, 32⟩]

/-- The objects of index 0x5077 (19_power_boot_repair.md). -/
def rows5077 : List ObjRow := [
  ⟨0x01, 1, .u32, .ro, .n 0, .any, 4⟩]

/-- The objects of index 0x5078 (19_power_boot_repair.md). -/
def rows5078 : List ObjRow := [
  ⟨0x01, 1, .u16, .wo, .n 0, .any, 2⟩]

/-- The objects of index 0x5079 (19_power_boot_repair.md). -/
def rows5079 : List ObjRow := [
  ⟨0x01, 1, .u16, .rw, .n 10, .span 0 3600 1, 2⟩]

/-- The objects of index 0x507A (19_power_boot_repair.md). -/
def rows507A : List ObjRow := [
  ⟨0x01, 8, .u32, .ro, .n 0, .any, 4⟩]

/-- The objects of index 0x507B (19_power_boot_repair.md). -/
def rows507B : List ObjRow := [
  ⟨0x01, 8, .u32, .ro, .n 0, .any, 4⟩]

/-- The objects of index 0x507C (19_power_boot_repair.md). -/
def rows507C : List ObjRow := [
  ⟨0x01, 8, .u64, .ro, .n 0, .any, 8⟩]

/-- The objects of index 0x6000 (18_object_reference.md). -/
def rows6000 : List ObjRow := [
  ⟨0x01, 1, .u8, .ro, .special, .any, 1⟩,
  ⟨0x02, 1, .u32, .const, .special, .any, 4⟩,
  ⟨0x03, 1, .u8, .const, .n 1, .any, 1⟩,
  ⟨0x04, 1, .domain, .ro, .rep 0 0, .any, 1793⟩,
  ⟨0x05, 1, .domain, .ro, .rep 0 0, .any, 1434⟩,
  ⟨0x06, 1, .ostr, .wo, .rep 0 0, .any, 32⟩,
  ⟨0x07, 1, .domain, .ro, .rep 0 0, .any, 1434⟩]

/-- The objects of index 0x6010 (09_output_integrity.md). -/
def rows6010 : List ObjRow := [
  ⟨0x01, 1, .domain, .ro, .rep 0 0, .any, 1793⟩,
  ⟨0x02, 1, .u32, .ro, .n 0, .any, 4⟩,
  ⟨0x03, 1, .domain, .ro, .rep 0 0, .any, 1434⟩]

/-- The objects of index 0x6020 (19_power_boot_repair.md). -/
def rows6020 : List ObjRow := [
  ⟨0x01, 1, .u32, .wo, .n 0, .span 4097 28311552 1, 4⟩,
  ⟨0x02, 1, .u32, .ro, .n 0, .any, 4⟩,
  ⟨0x03, 1, .domain, .wo, .rep 0 0, .any, 65536⟩,
  ⟨0x04, 1, .bool, .wo, .n 0, .any, 1⟩,
  ⟨0x05, 1, .bool, .wo, .n 0, .any, 1⟩,
  ⟨0x06, 1, .bool, .wo, .n 0, .any, 1⟩,
  ⟨0x07, 1, .u8, .ro, .n 0, .any, 1⟩,
  ⟨0x08, 1, .u8, .ro, .n 0, .any, 1⟩,
  ⟨0x09, 1, .u8, .ro, .n 0, .any, 1⟩,
  ⟨0x0A, 1, .u32, .ro, .n 0, .any, 4⟩,
  ⟨0x0C, 1, .u16, .ro, .special, .any, 2⟩]

/-- The objects of index 0x6021 (19_power_boot_repair.md). -/
def rows6021 : List ObjRow := [
  ⟨0x01, 2, .u32, .ro, .n 0, .any, 4⟩]

/-- Every index that holds an object, with its rows. -/
def dictionary : List (Nat × List ObjRow) := [
  (0x1000, rows1000),
  (0x1001, rows1001),
  (0x1002, rows1002),
  (0x1005, rows1005),
  (0x1010, rows1010),
  (0x1020, rows1020),
  (0x1021, rows1021),
  (0x1022, rows1022),
  (0x1023, rows1023),
  (0x2000, rows2000),
  (0x2001, rows2001),
  (0x2003, rows2003),
  (0x2004, rows2004),
  (0x2005, rows2005),
  (0x2006, rows2006),
  (0x2007, rows2007),
  (0x2008, rows2008),
  (0x2009, rows2009),
  (0x200A, rows200A),
  (0x200B, rows200B),
  (0x200C, rows200C),
  (0x200D, rows200D),
  (0x200E, rows200E),
  (0x200F, rows200F),
  (0x2010, rows2010),
  (0x3000, rows3000),
  (0x3100, rows3100),
  (0x3101, rows3101),
  (0x3200, rows3200),
  (0x3201, rows3201),
  (0x3280, rows3280),
  (0x3300, rows3300),
  (0x3301, rows3301),
  (0x33F0, rows33F0),
  (0x3400, rows3400),
  (0x3500, rows3500),
  (0x3501, rows3501),
  (0x3520, rows3520),
  (0x3521, rows3521),
  (0x3540, rows3540),
  (0x3600, rows3600),
  (0x3700, rows3700),
  (0x3720, rows3720),
  (0x3721, rows3721),
  (0x3722, rows3722),
  (0x3723, rows3723),
  (0x3724, rows3724),
  (0x3800, rows3800),
  (0x3810, rows3810),
  (0x3900, rows3900),
  (0x5001, rows5001),
  (0x5002, rows5002),
  (0x5003, rows5003),
  (0x5010, rows5010),
  (0x5020, rows5020),
  (0x5021, rows5021),
  (0x5022, rows5022),
  (0x5023, rows5023),
  (0x5024, rows5024),
  (0x5025, rows5025),
  (0x5026, rows5026),
  (0x5027, rows5027),
  (0x5028, rows5028),
  (0x5029, rows5029),
  (0x502A, rows502A),
  (0x502B, rows502B),
  (0x502C, rows502C),
  (0x502D, rows502D),
  (0x502E, rows502E),
  (0x502F, rows502F),
  (0x5030, rows5030),
  (0x5031, rows5031),
  (0x5032, rows5032),
  (0x5033, rows5033),
  (0x5034, rows5034),
  (0x5035, rows5035),
  (0x5036, rows5036),
  (0x5037, rows5037),
  (0x5038, rows5038),
  (0x5039, rows5039),
  (0x503A, rows503A),
  (0x5040, rows5040),
  (0x5041, rows5041),
  (0x5042, rows5042),
  (0x5043, rows5043),
  (0x5044, rows5044),
  (0x5045, rows5045),
  (0x5050, rows5050),
  (0x5051, rows5051),
  (0x5052, rows5052),
  (0x5053, rows5053),
  (0x5060, rows5060),
  (0x5070, rows5070),
  (0x5071, rows5071),
  (0x5072, rows5072),
  (0x5073, rows5073),
  (0x5074, rows5074),
  (0x5075, rows5075),
  (0x5076, rows5076),
  (0x5077, rows5077),
  (0x5078, rows5078),
  (0x5079, rows5079),
  (0x507A, rows507A),
  (0x507B, rows507B),
  (0x507C, rows507C),
  (0x6000, rows6000),
  (0x6010, rows6010),
  (0x6020, rows6020),
  (0x6021, rows6021)]

end Sys2Proof.Machine
end

