-- ==== Sys2Proof/Machine/Elements.lean ====
section
/-! DEFINITION. The syntax elements of H.265 and H.266 whose values the spec gives, under the standards' names (R71, R103, R104, R107, R109
to R120, R150, R160, R168 to R170, R528), and the units in front of the first slice that the cores write from them. -/

namespace Sys2Proof.Machine

/-- A syntax element. Of an H.266 element that answers to one of H.265 only one name is kept. -/
inductive Elem where
  -- parameter sets (R107, R109, R111, R113, R168)
  | videoParameterSetId
  | generalProfileIdc
  | generalTierFlag
  | generalLevelIdc
  | constraintsMain42210
  | chromaFormatIdc
  | bitDepthMinus8
  | picWidth
  | picHeight
  | log2CtuSize
  | log2MinCuSize
  | log2MaxTbSize
  | log2MinTbSize
  | log2MaxPocLsbMinus4
  | maxDecPicBufferingMinus1
  | maxNumReorderPics
  | longTermRefPicsPresentFlag
  | maxNumMergeCand
  | saoEnabledFlag
  | temporalMvpEnabledFlag
  | ampEnabledFlag
  | mttEnabledFlag
  | alfEnabledFlag
  | ccalfEnabledFlag
  | affineEnabledFlag
  | gpmEnabledFlag
  | ciipEnabledFlag
  | mmvdEnabledFlag
  | sbtmvpEnabledFlag
  | depQuantEnabledFlag
  | lfnstEnabledFlag
  | mtsEnabledFlag
  | cclmEnabledFlag
  | mrlEnabledFlag
  | amvrEnabledFlag
  | jointCbcrEnabledFlag
  | mipEnabledFlag
  | ispEnabledFlag
  | ibcEnabledFlag
  | paletteEnabledFlag
  | actEnabledFlag
  | lmcsEnabledFlag
  | refPicResamplingEnabledFlag
  | subpicInfoPresentFlag
  | bdofEnabledFlag
  | dmvrEnabledFlag
  | virtualBoundariesEnabledFlag
  | virtualBoundariesPresentFlag
  | transformSkipEnabledFlag
  | log2MaxTransformSkipSize
  | signDataHidingEnabledFlag
  | cuQpDeltaEnabledFlag
  | diffCuQpDeltaDepth
  | tilesEnabledFlag
  | numTileColumns
  | numTileRows
  | rectSliceFlag
  | numSlices
  | entropyCodingSyncEnabledFlag
  | dependentSliceSegmentsEnabledFlag
  | loopFilterAcrossSlicesEnabledFlag
  | loopFilterAcrossTilesEnabledFlag
  | betaOffsetDiv2
  | tcOffsetDiv2
  | cbQpOffset
  | crQpOffset
  -- video usability (R71, R110)
  | videoFullRangeFlag
  | colourPrimaries
  | transferCharacteristics
  | matrixCoeffs
  | chromaLocInfoPresentFlag
  | chromaSampleLocTypeTop
  | chromaSampleLocTypeBottom
  -- HRD (R160, R161)
  | nalHrdParametersPresentFlag
  | vclHrdParametersPresentFlag
  | duHrdParamsPresentFlag
  | tickDivisor
  | bitRateScale
  | cpbSizeScale
  | bitRateValueMinus1
  | cpbSizeValueMinus1
  | cbrFlag
  -- APS, picture header and SEI (R71, R107, R114, R115, R119, R120, R150, R160)
  | alfSource
  | picOrderCntLsb
  | gdrPicFlag
  | recoveryPocCnt
  | numVerVirtualBoundaries
  | verVirtualBoundaryPos
  | numHorVirtualBoundaries
  | horVirtualBoundaryPos
  | cuQpDeltaSubdivIntraSlice
  | cuQpDeltaSubdivInterSlice
  | initialCpbRemovalDelay
  | initialCpbRemovalOffset
  | duCpbRemovalDelayIncrement
  | mdcvByte
  | maxCll
  | maxFall
  -- slice header (R103, R104, R112, R115, R170, R528)
  | nalUnitType
  | firstSliceInPicFlag
  | dependentSliceSegmentFlag
  | sliceAddress
  | sliceType
  | refPoc
  | numRefIdxL0
  | numRefIdxL1
  | sliceTemporalMvpEnabledFlag
  | sliceLoopFilterAcrossSlicesEnabledFlag
  | sliceQpDelta
deriving DecidableEq, Repr

/-- Syntax elements with their values, in the order written. -/
abbrev Elems := List (Elem × Int)

/-- The units that the cores write in front of the first slice, beside the tag, the signature SEI and the ANC SEI, in the order of
R528. -/
inductive PrefixUnit where
  | aud
  | vps
  | sps
  | pps
  | aps
  | bufferingPeriod
  | pictureTiming
  | recoveryPoint
  | mdcv
  | cll
  | pictureHeader
deriving DecidableEq, Repr

/-- The number of a unit in the order of R528. -/
def PrefixUnit.num : PrefixUnit → Nat
  | .aud => 1
  | .vps => 2
  | .sps => 3
  | .pps => 4
  | .aps => 5
  | .bufferingPeriod => 6
  | .pictureTiming => 7
  | .recoveryPoint => 8
  | .mdcv => 9
  | .cll => 10
  | .pictureHeader => 11

end Sys2Proof.Machine
end

