-- ==== Sys2Proof/Machine/Table.lean ====
section
/-! DEFINITION. Tables in their one canonical form: numbers strictly rising, and no entry equal to what an unlisted number
reads as. Package memory, the boot flash, the object dictionary and the tables of units are all kept this way, so equal
contents are equal data. -/

namespace Sys2Proof

/-- The entry of number `k`; `d k` where none is listed. -/
def Tab.find {α : Type} (d : Nat → α) : Tab α → Nat → α
  | [], k => d k
  | (i, v) :: t, k => if i = k then v else Tab.find d t k

/-- List number `k` as `v`, in its place. -/
def Tab.insert {α : Type} (k : Nat) (v : α) : Tab α → Tab α
  | [] => [(k, v)]
  | (i, w) :: t =>
    if k < i then (k, v) :: (i, w) :: t
    else if k = i then (k, v) :: t
    else (i, w) :: Tab.insert k v t

/-- Unlist number `k`. -/
def Tab.erase {α : Type} (k : Nat) : Tab α → Tab α
  | [] => []
  | (i, w) :: t => if k = i then Tab.erase k t else (i, w) :: Tab.erase k t

/-- Set number `k` to `v`; setting it to what an unlisted number reads as unlists it. -/
def Tab.put {α : Type} [DecidableEq α] (d : Nat → α) (t : Tab α) (k : Nat) (v : α) : Tab α :=
  if v = d k then Tab.erase k t else Tab.insert k v t

/-- Change the entry of number `k` by `f`. -/
def Tab.modify {α : Type} [DecidableEq α] (d : Nat → α) (t : Tab α) (k : Nat) (f : α → α) : Tab α :=
  Tab.put d t k (f (Tab.find d t k))

/-- Every number of the table is above `k`. -/
def Tab.above {α : Type} (k : Nat) : Tab α → Bool
  | [] => true
  | (i, _) :: _ => k < i

/-- Numbers strictly rise, and no entry equals what an unlisted number reads as. -/
def Tab.canon {α : Type} [DecidableEq α] (d : Nat → α) : Tab α → Bool
  | [] => true
  | (i, v) :: t => Tab.above i t && decide (v ≠ d i) && Tab.canon d t

/-- The numbers listed. -/
def Tab.keys {α : Type} (t : Tab α) : List Nat := t.map Prod.fst

end Sys2Proof
end

