-- ==== Sys2Proof/Machine/State.lean ====
section
/-! DEFINITION. The state of the block as plain data: every register, buffer, counter, mode and pin the spec gives the
Pairgar, grouped by the part of the package that holds it, and the queue of waiting commands. Times are counts of 2⁻¹⁶ ns
(R46); `now` is the package's one physical clock, which D0's free-running clock reads (R301). -/

namespace Sys2Proof.Machine

/-- Reasons a step could stop with a fault. The block has none: what the spec calls a fault is an event, a counter or a
reset, and is a next state. -/
inductive Fault where
deriving DecidableEq, Repr

/-- Reasons a step refuses a command. -/
inductive Refusal where
  /-- Raised by an arm of `exec` whose command has no meaning yet; the string is its mnemonic. Safe: nothing is claimed
  of it. -/
  | notModelled (mnemonic : String)
deriving DecidableEq, Repr

/-- The value of an object: a number (BOOL, integers, TIME96 as its 96-bit number) or bytes (VSTR, OSTR, DOMAIN). -/
inductive Val where
  | int (i : Int)
  | bytes (b : List Byte)
deriving DecidableEq, Repr

/-! ### The part: what fuses and the ordering code fix (R2, R3, R29, R463, R474, R478, R492) -/

/-- The ordered variant and the contents of the fuses and key stores. -/
structure Part where
  dies : Nat := 8
  grade : Nat := 0
  serial : List Byte := []
  devId : Nat := 0
  baseMac : Nat := 0
  fuseIds : List Nat := []
  attestKeyId : Nat := 0
  streamKeyId : Nat := 0
  provisioned : Bool := true
  minSvn : Nat := 0
  svnRaises : Nat := 0
  revoked : List Nat := []
deriving DecidableEq, Repr

/-! ### Resets, boot and power (19_power_boot_repair.md) -/

/-- What the package as a whole is doing (R486, R494, R495, R500). -/
inductive Phase where
  | powerOn
  | sysReset (since : Nat)
  | booting
  | running
  | recovery
  | thermal (coolSince : Option Nat)
deriving DecidableEq, Repr

/-- Progress of a boot and the image choice (R494, R495, R498). -/
structure Boot where
  cause : Nat := 0
  sramDone : List Nat := []
  imageDone : Bool := false
  slot : Nat := 0
  otherSlot : Bool := false
  noImage : Bool := false
  trial : Bool := false
  trained : List Nat := []
  rollback : Bool := false
  fwVersion : Nat := 0
  bootMs : Nat := 0
deriving DecidableEq, Repr

/-- Resets due and the pins the package samples (R467, R486, R489, R497, R338). -/
structure Power where
  phase : Phase := .booting
  boot : Boot := {}
  resetDue : Option Nat := none
  refStopped : List Nat := []
deriving DecidableEq, Repr

/-! ### Events and the log (R459 to R462, R524) -/

/-- An event on its way to D0. -/
structure Ev where
  code : Nat
  die : Nat := 0
  arg : Nat := 0
  t : Nat := 0
  count : Nat := 0
deriving DecidableEq, Repr

/-- The last raise of a rate-limited event for a key (R524). -/
structure Raise where
  code : Nat
  key : Nat
  t : Nat
deriving DecidableEq, Repr

/-- A log record (R459). -/
structure LogRec where
  code : Nat
  die : Nat
  tvalid : Bool
  count : Nat
  seq : Nat
  time : Nat
  uptime : Nat
  arg : Nat
deriving DecidableEq, Repr

/-- Events raised and not yet recorded, rate-limit memory, and the log's waiting ring. -/
structure Events where
  raised : List Ev := []
  last : List Raise := []
  suppressed : Tab Nat := []
  ring : List LogRec := []
  lost : Nat := 0
  nextSeq : Nat := 0
  pos : Nat := 0
  oldest : Nat := 0
deriving DecidableEq, Repr

/-! ### Management sessions (17_beryl_management.md) -/

/-- A management message (R442): CMD, SEQ, INDEX, SUB, FLAGS and what follows the header. -/
structure Msg where
  cmd : Nat
  seq : Nat
  idx : Nat
  sub : Nat
  flags : Nat
  data : List Byte
deriving DecidableEq, Repr

/-- A response kept for repeats of its request (R451). -/
structure Stored where
  req : Msg
  resp : Msg
  t : Nat
deriving DecidableEq, Repr

/-- An outstanding request (R434, R450): its response leaves when it and all before it are ready. `turned` marks one that was
answered busy and takes none of the eight places. -/
structure Outst where
  req : Msg
  resp : Msg
  die : Nat := 0
  since : Nat
  ready : Bool := true
  turned : Bool := false
deriving DecidableEq, Repr

/-- A segmented write under way (R446): the bytes so far, the offset last accepted, and once the value is written what that was
answered with. -/
structure SegWrite where
  idx : Nat
  sub : Nat
  total : Nat
  data : List Byte := []
  last : Option Nat := none
  t : Nat
  done : Option (Option (Nat × Nat)) := none
deriving DecidableEq, Repr

/-- A read snapshot (R447). -/
structure Snap where
  idx : Nat
  sub : Nat
  data : List Byte
  t : Nat
deriving DecidableEq, Repr

/-- A transport session (R450, R476). -/
structure Session where
  src : Src
  last : Nat := 0
  stored : List Stored := []
  outst : List Outst := []
  seg : Option SegWrite := none
  snap : Option Snap := none
  winAddr : Nat := 0
deriving DecidableEq, Repr

/-- The management side of D0's Beryl; `attest` is the last attestation report, `streamCert` the stream key statement (R258, R464). -/
structure Mgmt where
  sessions : List Session := []
  fwdFails : Tab Nat := []
  mirror : Tab Val := []
  linkUp : Bool := false
  canOff : Bool := false
  attest : List Byte := []
  streamCert : List Byte := []
  persistDue : Bool := false
  mapDue : Bool := false
  lost : List Nat := []
deriving DecidableEq, Repr

/-- An accepted commit waiting for its boundary (R213): the shadow set it froze, and the boundary. `key` names the
owning context. -/
structure Pend where
  key : Nat
  set : Tab Val
  at_ : Int
  seq : Nat
deriving DecidableEq, Repr

/-! ### Clocks (12_clocking.md) -/

/-- A PLL of a die: its field of `DieClkState` (R342), and its relock (R334 to R336). -/
structure Pll where
  st : Nat := 7
  refs : List Nat := [0, 1, 2, 3]
  bypassFrom : Option Nat := some 0
  settleAt : Option Nat := none
  attempt : Option Nat := none
  lockedAt : Option Nat := none
  fails : Nat := 0
  islands : List Nat := []
  ref : Nat := 0
  entry : Nat := 0
  alt : Bool := false
  bypassNs : Nat := 0
deriving DecidableEq, Repr

/-- PLLs by 8 × die + p, calibration results by (8 × die + p) × 32 + entry, and the calibration queue (R329). -/
structure Clk where
  plls : Tab Pll := []
  cal : Tab (Option (Nat × Nat)) := []
  queue : List (Nat × Nat) := []
  run : Option (Nat × Nat × Nat) := none
deriving DecidableEq, Repr

/-! ### Jasper (11_jasper_time.md) -/

/-- A linear map from the free-running clock to a time base (R302): the base reads `value` at clock `anchor` and runs
`ppb` parts per 10⁹ fast. -/
structure TbMap where
  anchor : Int := 0
  value : Int := 0
  ppb : Int := 0
deriving DecidableEq, Repr

/-- A foreign master heard by a time base (R307). -/
structure Foreign where
  ds : AnnounceMsg
  heard : List Nat
deriving DecidableEq, Repr

/-- A time base: map, servo state, pending step and the consumers still in the view before it (R307 to R318). -/
structure Tb where
  map : TbMap := {}
  old : Option TbMap := none
  st : Nat := 0
  everLocked : Bool := false
  freq : Int := 0
  hist : List (Nat × Int) := []
  histAt : Nat := 0
  foreigns : List Foreign := []
  master : Option (Nat × Nat) := none
  judging : Bool := true
  window : List Int := []
  delays : List Int := []
  sm : Option Int := none
  syncWait : Option (PtpMsg × Nat) := none
  judged : Option Int := none
  lastSync : Nat := 0
  step : Option (Int × Int) := none
  waiting : List Consumer := []
  nextPpb : Option Int := none
  drSeq : Nat := 0
  drAt : Option Nat := none
  masterMac : Nat := 0
  masterIp : Nat := 0
  cfg : Tab Val := []
deriving DecidableEq, Repr

/-- An entry of a port's transmit time-stamp queue (R305): its stamp on the base, and the free-running clock then. -/
structure Tsq where
  id : Nat
  tb : Nat
  ovf : Bool
  t : Nat
  stamp : Int
deriving DecidableEq, Repr

/-- Time bases, time-stamp queues by port, stamps lost since the last entry, and PPS. -/
structure Jas where
  tbs : Tab Tb := []
  tsq : Tab (List Tsq) := []
  ovf : Tab Bool := []
  ppsFall : Option Nat := none
  ppsIn : Nat := 0
deriving DecidableEq, Repr

/-! ### Output, queues and ports (09, 10, 13) -/

/-- What the program tables of a transport stream say (R245): stream and program, the PID of the PMT and of the PCR, and each
elementary stream with its PID, its stream type and the format identifier of its registration descriptor. -/
structure Tables where
  tsId : Nat
  program : Nat
  pmt : Nat
  pcr : Nat
  streams : List (Nat × Nat × Option Nat)
deriving DecidableEq, Repr

/-- What an RTP packet or a frame carries. NAL unit and PES bytes are exact; for a transport stream `pids` gives the PID and
continuity counter of each of its packets, and `data` the PES bytes they hold. A control frame is of kind 0 for an ARP reply, 1 for a
neighbour advertisement, 2 for an echo reply, 3 to join a group and 4 to leave one; `unicast` is the address of a Delay_Req that is not
multicast. -/
inductive Carry where
  | ts (pids : List (Nat × Nat)) (tables : Option Tables) (pcr : Option Nat) (discont : Bool) (data : List Byte)
  | single (nal : List Byte)
  | aggregate (nals : List (List Byte))
  | fragment (nal : List Byte) (off len : Nat)
  | video (cx line : Nat)
  | audio (samples : List (List Int))
  | raw (data : List Byte)
  | control (kind target : Nat) (data : List Byte)
  | ptp (tb seq : Nat) (unicast : Option Nat)
deriving DecidableEq, Repr

/-- A packet to send. `launch` is on the time base `tb` as its consumer sees it; `slot` is the output slot of the row it
carries (R68). `ext` is its sequence number without wrap (R261, R262); addresses are those of its frame (R264, R352). -/
structure Pkt where
  owner : Consumer
  leg : Nat := 0
  cls : Nat := 0
  frame : Nat := 0
  row : Nat := 0
  seq : Nat := 0
  ts : Nat := 0
  marker : Bool := false
  bytes : Nat
  carry : Carry
  launch : Int := 0
  tb : Nat := 0
  old : Bool := false
  slot : Option (Int × Int) := none
  dest : Nat := 0
  udp : Nat := 0
  mac : Nat := 0
  src : Nat := 0
  srcUdp : Nat := 0
  dscp : Nat := 0
  vlan : Nat := 0xFFFF
  ssrc : Nat := 0
  pt : Nat := 0
  ext : Nat := 0
  stored : Bool := true
deriving DecidableEq, Repr

/-- An untimed packet in its queue with its tags (R279), and whether its wait was counted (R287). -/
structure Waiting where
  pkt : Pkt
  s : Nat
  f : Nat
  held : Bool := false
deriving DecidableEq, Repr

/-- An output queue (R269): `kind` 0 NAL units, 1 audio in transport stream, 2 retransmission, 3 PTP, 4 control. -/
structure Queue where
  die : Nat
  num : Nat
  port : Nat
  owner : Consumer
  kind : Nat
  cls : Nat
  timed : Bool
  weight : Nat := 1000
  pkts : List Waiting := []
  lastF : Nat := 0
deriving DecidableEq, Repr

/-- A class of a port: virtual time (R279) and shaper (R281 to R283). Tokens are in units of 2⁻¹⁶ byte. -/
structure Cls where
  v : Nat := 0
  tokens : Int := 16384 * 65536
  at_ : Nat := 0
  rate : Nat := 0
  burst : Nat := 16384
  ending : Bool := false
deriving DecidableEq, Repr

/-- A network port: what it took at enable (R348), its bring-up (R355 to R360), its wire and its timed packets. -/
structure Port where
  st : Nat := 0
  mode : Nat := 0
  medium : Nat := 0
  aneg : Nat := 0
  fec25 : Nat := 1
  maxFrame : Nat := 9216
  wait100 : Option Nat := none
  alignedAt : Option Nat := none
  losses : List Nat := []
  retrain : Bool := false
  anegRaised : Bool := false
  trainRaised : Bool := false
  fecUnder : Nat := 3
  wireFree : Nat := 0
  timed : List Pkt := []
  classes : Tab Cls := []
  heard : Option Nat := none
deriving DecidableEq, Repr

/-- A lane (R356 to R367). -/
structure Lane where
  st : Nat := 0
  sd : Bool := false
  burstEnd : Option Nat := none
  since : Nat := 0
  scan : Option (Nat × Nat) := none
  recs : List Nat := []
deriving DecidableEq, Repr

/-- A policer's buckets in units of 2⁻¹⁶ byte (R292 to R296). -/
structure Pol where
  tc : Int := 16384 * 65536
  tp : Int := 16384 * 65536
  at_ : Nat := 0
  lastRed : Option Nat := none
deriving DecidableEq, Repr

/-- A slot of a retransmission store (R261): the launch on the free-running clock. -/
structure RtxSlot where
  seq : Nat
  launch : Int
  pkt : Pkt
deriving DecidableEq, Repr

/-- An entry of a die's calendar wheel (R278): a port with a class in debt, or without one for a reservation, its eligible time, and the
start of its slot, both on D0's free-running clock. -/
structure WheelEnt where
  die : Nat
  port : Nat
  cls : Option Nat
  at_ : Int
  slot : Int
deriving DecidableEq, Repr

/-- Ports, lanes, policers, output queues, groups joined by port, and the calendar wheels. -/
structure Net where
  ports : Tab Port := []
  lanes : Tab Lane := []
  pols : Tab Pol := []
  queues : List Queue := []
  groups : List (Nat × Nat) := []
  wheel : List WheelEnt := []
deriving DecidableEq, Repr

/-! ### Channels (02 to 06, 09) -/

/-- A number of the form Σ cᵢ · 2^(i/6), i from 0 to 5: Garnet's complexities are exact in it (R147). -/
abbrev Cx6 := List Rat

/-- How a CTU is coded (R112, R117, R122): intra, with whether samples of the CTU to its left serve it; inter with its blocks; the floor
forms: skip with a merge index, the inter CU that is not merged, and intra DC with the codec's highest QP and its block sums. -/
inductive CtuCode where
  | intra (left : Bool)
  | inter (blocks : List Block)
  | skip (merge : Nat)
  | still
  | dc (qp : Nat) (sums : List Nat)
deriving DecidableEq, Repr

/-- The record of a CTU in its picture's buffer (R165): its age, its flags, and how it is coded, from which the motion field follows. -/
structure CtuRec where
  age : Option Int := none
  floor : Bool := false
  conceal : Bool := false
  code : CtuCode := .still
deriving DecidableEq, Repr

/-- A motion-field entry of a 16 × 16 block (R165): reference index and vector, none where it is not inter. -/
abbrev Motion := Option (Nat × Int × Int)

/-- The row report of a slice (R528): bytes of slice data, the slice QP, floor-coded CTUs, the reconstruction checksum, and the oldest age
of its CTUs. -/
structure Report where
  len : Nat
  qp : Nat
  floors : Nat
  checksum : Nat
  oldest : Option Int
deriving DecidableEq, Repr

/-- A row of a frame of one tile column (R50 to R54, R103, R151 to R153, R528). `ctuAt` is when the CTU in progress began; `qpSum` to
`intraA` gather what Garnet takes from its CTUs (R148, R156). -/
structure Col where
  started : Bool := false
  done : Bool := false
  failed : Bool := false
  deadline : Bool := false
  ctu : Nat := 0
  need : Nat := 0
  cycles : Nat := 0
  at_ : Nat := 0
  used : Nat := 0
  allow : Nat := 0
  target : Nat := 0
  qp : Nat := 0
  rowQp : Nat := 0
  fallbacks : Nat := 0
  rcFloor : Bool := false
  ovr : Bool := false
  doneX : Cx6 := []
  ctuAt : Nat := 0
  floors : Nat := 0
  qpSum : Nat := 0
  qpNum : Nat := 0
  intraX : Cx6 := []
  intraA : Nat := 0
  slice : List Byte := []
  report : Option Report := none
deriving DecidableEq, Repr

/-- A coding row of a frame: the pixels received, the CTUs concealed, and its tile columns. `acts` holds the activities once the row's
storage is released (R84); `stripOk` and `stripMv` what has reached the partner of a die pair (R108, R166). -/
structure Row where
  segs : List Seg := []
  settled : Bool := false
  conceal : List Nat := []
  skip : List Nat := []
  cols : Tab Col := []
  total : Nat := 0
  filler : Nat := 0
  final : Bool := false
  assembled : Bool := false
  supplied : Bool := false
  stripOk : List Nat := []
  stripMv : List (Nat × List Motion) := []
  acts : Option (List Nat) := none
deriving DecidableEq, Repr

/-- The kind of picture coded (R117, R120, R169). -/
inductive Pic where
  | idr
  | cra
  | gdr
  | inter
deriving DecidableEq, Repr

/-- A unit that the cores write in front of the first slice (R116, R528): its syntax elements and its bytes. -/
structure Head where
  unit : PrefixUnit
  elems : Elems
  nal : List Byte
deriving DecidableEq, Repr

/-- A frame of a running channel. `cyclePos` is its place in its refresh cycle; `rate` the bitrate it is coded at; `heads` are the units written in front of its first slice,
`prefixNals` all NAL units there; `ageBefore` and `mapBefore` hold what its CTUs replaced of ages and of the complexity map (R123,
R147). -/
structure Frame where
  k : Int
  boundary : Int
  origin : Int
  old : Bool := false
  n : Nat := 0
  ts : Option Nat := none
  capture : Option Int := none
  legA : Nat := 0
  legB : Nat := 0
  used : List (Nat × Nat) := []
  rows : Tab Row := []
  settledRows : Nat := 0
  raised : List Nat := []
  anc : List AncData := []
  kind : Pic := .inter
  band : Nat × Nat := (0, 0)
  cyclePos : Nat := 0
  cycleStart : Bool := false
  poc : Nat := 0
  budget : Nat := 0
  rate : Nat := 0
  eos : Bool := false
  count : Nat := 0
  prefixLen : Nat := 0
  heads : List Head := []
  prefixNals : List (List Byte) := []
  prefixDone : Bool := false
  frozen : Bool := false
  stale : Nat := 0
  discont : Bool := false
  ageBefore : Tab (Option (Option Int)) := []
  mapBefore : Tab (Option (Cx6 × Nat)) := []
  kappa : Cx6 := []
  fixedAlf : Bool := false
  bufPeriod : Bool := false
  recovery : Bool := false
deriving DecidableEq, Repr

/-- A picture buffer of a pool (R165, R172 to R174). Holds are the numbers of the readers that keep it; `recs` are the records of its CTUs in
raster order. -/
structure Buf where
  poc : Int := 0
  frame : Nat := 0
  recon : Bool := false
  mark : Nat := 0
  holds : List Nat := []
  copied : List Nat := []
  poisoned : List Nat := []
  recs : Tab (Option CtuRec) := []
deriving DecidableEq, Repr

/-- A sampled slice check that is open (R130 to R132, R174): its slice, the pipeline's checksum (R129), and the die, position and physical
pipeline that coded it. -/
structure Check where
  frame : Nat
  row : Nat
  col : Nat
  sum : Nat
  die : Nat
  pos : Nat
  pipe : Nat
deriving DecidableEq, Repr

/-- A repair move decided and not yet made (R127). -/
structure Move where
  pipes : List (Nat × Nat)
  at_ : Int
deriving DecidableEq, Repr

/-- A signature under way or ready (R256 to R260). -/
structure Sig where
  frame : Nat
  tag : List Byte
  ready : Bool := false
deriving DecidableEq, Repr

/-- A channel while it is not stopped: placement, configuration taken at start, refresh, rate control, pool, freshness
chain and retransmission store. `run` is `ChRunState`; `restarts` are the instants from which a new refresh cycle is wanted (R121);
`alfFrom` is the frame whose ALF sets were derived last (R114); `rtpSeq` is the next sequence number without wrap, `rtxNewest` that of the
newest packet stored (R262), `esNext` the next sample to pack of each flow's elementary stream, by PID (R246); `usedLast` the newest sequence number used in frames judged (R91), and
`tsGone` the RTP time stamp bound to the last frame forgotten that had one (R95). -/
structure Chan where
  run : Nat := 0
  frozen : Bool := false
  cfg : Tab Val := []
  cx : Option Nat := none
  die : Nat := 255
  pipes : List (Nat × Nat) := []
  share : Nat := 0
  firstK : Int := 0
  nextK : Int := 0
  refK : Int := 0
  stopK : Option Int := none
  frames : List Frame := []
  early : List Frame := []
  frameNo : Nat := 0
  firstBoundary : Option Int := none
  lostA : Bool := false
  lostB : Bool := false
  noSource : Bool := false
  gaps : List (Nat × Nat) := []
  usedLast : Option Nat := none
  tsGone : Option Nat := none
  ages : Tab (Option Int) := []
  audioNext : Tab Int := []
  audioGot : Tab (List (Int × List Int)) := []
  audSubst : Nat := 0
  ancWait : List (Nat × Nat × AncData) := []
  ancUsed : List (Nat × Nat) := []
  ancLate : Nat := 0
  restarts : List Int := []
  alfFrom : Option Nat := none
  cyclePos : Nat := 0
  intraPos : Nat := 0
  poc : Nat := 0
  bitrate : Nat := 0
  nextBitrate : Option (Nat × Int) := none
  map : Tab (Cx6 × Nat) := []
  kappa : Cx6 := []
  ovr : Bool := false
  bufs : List Buf := []
  oldBufs : List Buf := []
  checks : List Check := []
  move : Option Move := none
  handover : List (Nat × Nat × Int) := []
  rtpSeq : Nat := 0
  rtxNewest : Nat := 0
  esNext : Tab Int := []
  cc : Tab Nat := []
  chain : List Byte := []
  sig : Option Sig := none
  audDisc : List Nat := []
  rtx : Tab (Tab RtxSlot) := []
  tokens : Int := 0
  tokensAt : Nat := 0
  oldDies : List Nat := []
  discontNext : Bool := false
  ageShift : Int := 0
  movedK : Option Int := none
  oldPipes : List (Nat × Nat) := []
  rtxK : Nat := 0
  rtxEff : Nat := 0
deriving DecidableEq, Repr

/-! ### Opal (07) and DP0's layer sources (06) -/

/-- A frame of a flow layer in its store, or a decoded picture (R195, R196, R199): what fills it, its raster, for a decoded picture its
chroma format, bit depth and colorimetry, and when it completed on the time base of its context. -/
structure LyFrame where
  id : Nat
  k : Int := 0
  wd : Nat := 0
  ht : Nat := 0
  decoded : Bool := false
  ts : Option Nat := none
  age : Option Int := none
  chroma : Nat := 2
  depth : Nat := 10
  vui : Option (Nat × Nat) := none
  segs : List Seg := []
  done : Option Int := none
  row0 : Bool := false
  used : List (Nat × Nat) := []
  legA : Nat := 0
  legB : Nat := 0
  settledRows : Nat := 0
deriving DecidableEq, Repr

/-- An access unit that waits for DP0 (R177): its picture, its age, and when its last packet arrived. -/
structure DecUnit where
  pic : CodedPic
  age : Int
  at_ : Nat
  damaged : Bool
deriving DecidableEq, Repr

/-- A buffer of a decoder pool (R172 to R174, R180, R181): its picture, its mark (0 none, 1 short-term, 2 long-term), whether it is needed for
output, reconstructed still, or available to Opal, and the context frames that hold it. -/
structure DecBuf where
  poc : Int := 0
  mark : Nat := 0
  out : Bool := false
  recon : Bool := false
  avail : Bool := false
  waits : Nat := 0
  holds : List Int := []
  fr : Option LyFrame := none
deriving DecidableEq, Repr

/-- A layer: its flow, its decoder and its readiness (R178 to R185, R193 to R211). `missing` names the pictures recorded as missing; `auA` and `auB` count the packets of
each leg in the access unit being received, and `heaps` holds its memory as owner, bytes and holder: 0 live, 1 to release, 2 + the number of a pending set. -/
structure Ly where
  frames : List LyFrame := []
  shown : Option LyFrame := none
  m : Nat := 0
  content : Bool := false
  nextId : Nat := 0
  lostA : Bool := false
  lostB : Bool := false
  queue : List DecUnit := []
  pool : List DecBuf := []
  missing : List Int := []
  recovery : Option Int := none
  resync : Bool := false
  cra : Bool := false
  open_ : Bool := false
  ccGap : Bool := false
  auStart : Int := 0
  ext : Option Nat := none
  auA : Nat := 0
  auB : Nat := 0
  seen : List Nat := []
  heaps : List (Nat × Nat × Nat) := []
deriving DecidableEq, Repr

/-- A layer in a frame of its context, bottom first: what is read, whether it is hatched, and for a row-locked layer whether it is
judged yet (1), ready (2) or not (3), or goes on with settings a commit has replaced (4, R216). -/
structure Shown where
  ly : Nat
  frame : Option LyFrame := none
  hatched : Bool := false
  locked : Nat := 0
deriving DecidableEq, Repr

/-- A frame of a context (R190 to R210): `cfg` holds the settings that later commits have changed since it began. -/
structure CxFrame where
  k : Int
  boundary : Int
  origin : Int
  old : Bool := false
  count : Nat := 0
  next : Nat := 0
  late : Bool := false
  stale : Nat := 0
  shown : List Shown := []
  cfg : Tab Val := []
deriving DecidableEq, Repr

/-- A compositor context (R187 to R219). -/
structure Cx where
  on : Bool := false
  nextK : Int := 0
  frames : List CxFrame := []
  seq : Nat := 0
deriving DecidableEq, Repr

/-- Contexts and layers by package number. -/
structure Opal where
  cxs : Tab Cx := []
  lys : Tab Ly := []
deriving DecidableEq, Repr

/-! ### Audio ports (08) -/

/-- A ring buffer of an audio port with the fields of its descriptor (R229, R230): `words` are its samples, one word of 32 bits for each
enabled slot of each of its `count` TDM frames; `read` names the elementary streams that have read it. -/
structure AuBuf where
  frame : Int
  mask : Nat
  layoutChg : Bool := false
  xrun : Bool := false
  discont : Bool := false
  idx : Nat := 0
  count : Nat := 0
  words : List Nat := []
  read : List Nat := []
deriving DecidableEq, Repr

/-- An audio port (R224 to R240): the next edge; the block that runs and where it ends; on input the buffers that wait for the
cores and the samples of a packet being filled, which takes `perPkt` of them; on output the blocks fetched, the one that plays and how
many of its frames are played, what each slot played last, and the bits of the frame before that fall into the next (R222). `lastMask`
is the mask of the buffer before, `gap` the pause of a step. -/
structure Au where
  on : Bool := false
  nextF : Int := 0
  lastEdge : Nat := 0
  gap : Bool := false
  curEnd : Int := 0
  cur : Option AuBuf := none
  ring : List AuBuf := []
  bufIdx : Nat := 0
  lastMask : Option Nat := none
  overrun : Bool := false
  affected : Bool := false
  discont : Bool := false
  toSend : List (List Int) := []
  perPkt : Nat := 0
  seq : Nat := 0
  next : List AuBuf := []
  play : Option AuBuf := none
  pos : Nat := 0
  last : Tab Nat := []
  spill : List (Option Bool) := []
deriving DecidableEq, Repr

/-! ### One die -/

/-- The tasks of a channel's graph (R392). -/
inductive Role where
  | auPrefix
  | rowAssembly
  | floorSupply
  | packetBuild
  | ingestRows
  | audioPack
  | signature
  | garnet
  | control
deriving DecidableEq, Repr

/-- A task slot (R394): the descriptor's fields, its state, whether its present run has faulted (R407), and what the firmware's task does and
for which channel (R392). -/
structure Task where
  desc : Nat := 0
  st : Nat := 0
  faulted : Bool := false
  role : Option (Role × Nat) := none
deriving DecidableEq, Repr

/-- A logical core (R389, R390): physical core, task in each bank, the bank that runs, and what register 1 of each bank held when its task
started. -/
structure Core where
  phys : Option Nat := none
  banks : List (Option Nat) := [none, none]
  run : Nat := 0
  args : List Nat := [0, 0]
  stalled : Bool := false
deriving DecidableEq, Repr

/-- A token queue (R405, R406): tokens in order, and a push that is held: producer, token, since when, and the bank of the
producing core. -/
structure TokQ where
  tokens : List Nat := []
  held : Option (Nat × Nat × Nat × Nat) := none
  errBit : Bool := false
deriving DecidableEq, Repr

/-- Onyx (15_onyx_scheduler.md). Flags are the numbers of the flags set; `sets` and `clears` are updates that arrive in the
next cycle, with their setter; `ready` holds priority and slot in the order appended; `trace` holds records by ring place. -/
structure Onyx where
  tasks : Tab Task := []
  flags : List Nat := []
  sets : List (Nat × Nat) := []
  clears : List (Nat × Nat) := []
  cancels : List Nat := []
  ready : List (Nat × Nat) := []
  cores : Tab Core := []
  spares : List Nat := [30, 31]
  faults : Tab Nat := []
  testing : List Nat := []
  queues : Tab TokQ := []
  trace : Tab Nat := []
  traceCount : Nat := 0
  traceStopped : Bool := false
  credit : Tab Int := []
  deferred : List Nat := []
  runs : List (Nat × Nat) := []
deriving DecidableEq, Repr

/-- Budgets, arbitration and bridges of a die (16_spinel_fabric.md). Credits by 32 × controller + holder; `g` is the grant
of the epoch by controller, `held` the requests of isolated masters, `groupsOut` the wire groups out of service of the links
this die names: bridge, direction, group. -/
structure Fab where
  epochAt : Nat := 0
  epochLen : Nat := 16
  credits : Tab Int := []
  pools : Tab Int := []
  grants : Tab Nat := []
  deferred : List FabReq := []
  defHolders : List Nat := []
  last : Tab Nat := []
  isolated : List Nat := []
  decAddr : Nat := 0
  used : List (Nat × Nat) := []
  g : Tab Nat := []
  held : List FabReq := []
  groupsOut : List (Nat × Nat × Nat) := []
deriving DecidableEq, Repr

/-- A DRAM rank (R373, R374, R377, R381): its state of DieRankState, whose addresses it serves, the rates it is trained at
(6 is bypass), the times of its corrected errors of the last hour, and its uncorrectable bursts. -/
structure Rank where
  st : Nat := 0
  serves : Option Nat := none
  trained : List Nat := []
  ceTimes : List Nat := []
  ue : Nat := 0
  noSpare : Bool := false
deriving DecidableEq, Repr

/-- A memory controller: hot state (R372), migration (R381 to R383) with the bytes its copy read in this epoch, scrub position (R378), timing
corrections (R375). -/
structure Ctrl where
  hotNow : Bool := false
  refresh : Nat := 8
  src : Option Nat := none
  copyAt : Nat := 0
  copied : Nat := 0
  waiting : List Nat := []
  scrubAt : Nat := 0
  corrections : Nat := 0
deriving DecidableEq, Repr

/-- The memory island of a die: ranks by 3 × controller + rank, the rate live or on bypass, and a rate change accepted or
under way (R384 to R386). -/
structure Dram where
  ranks : Tab Rank := []
  ctrls : Tab Ctrl := []
  bypass : Bool := true
  rate : Nat := 0
  next : Option Nat := none
  failed : Bool := false
  poisoned : List Nat := []
deriving DecidableEq, Repr

/-- Sensors and limiting of a die (R33, R34, R456 to R458, R515, R516). Pipeline-island clock in units of 1/16 of nominal; set points in mV of
the regulated domains that monitors 8 to 11 watch. -/
structure Sens where
  temps : List Int := []
  mv : List Nat := []
  warned : Bool := false
  clock16 : Nat := 16
  rails : List Nat := [750, 750, 750, 750]
  thermOver : Bool := false
  voltOver : Bool := false
  badSince : Tab (Option Nat) := []
  voltWarned : List Nat := []
  goodSince : Tab (Option Nat) := []
deriving DecidableEq, Repr

/-- A die: pipeline map and states (R99, R134, R502 to R504), DRAM heap (R370), DP0, power domains, and its blocks. `map`
gives the physical pipeline of each position, 15 for none; `leaving` names a position, the pipeline taking it over and the
one relieved, while a handover runs; `relief` names the pipeline that took a position over last and the one it relieved (R132);
`lastCh` is 1 + the channel whose row each pipeline coded last. -/
structure Die where
  map : List Nat := [0, 1, 2, 3]
  pipeSt : List Nat := [0, 0, 0, 0, 0]
  passed : List Nat := [0, 1, 2, 3, 4]
  tested : List Nat := [0, 0, 0, 0, 0]
  mism : List Nat := []
  leaving : Option (Nat × Nat × Nat) := none
  relief : Option (Nat × Nat) := none
  lastCh : Tab Nat := []
  heap : List (Nat × Nat × Nat) := []
  sramUsed : List (Nat × Nat) := []
  sramLost : Nat := 0
  sramCe : List (Nat × Nat) := []
  mappedOut : Bool := false
  domains : List Nat := []
  domWait : List (Nat × Bool) := []
  domTimes : List Nat := []
  domPending : List (Nat × Nat) := []
  remap : Bool := false
  onyx : Onyx := {}
  fab : Fab := {}
  dram : Dram := {}
  sens : Sens := {}
deriving DecidableEq, Repr

/-! ### Update and repair map (R496 to R498, R501) -/

/-- The repair map (R501), kept in the flash across resets: mapped-out pipelines and cores by die, SRAM rows spared and
suspect by die, rank records by 6 × die + 3 × controller + rank (1 suspect, 2 mapped out), and spared wires as die, bridge,
direction, group and wire. -/
structure RepMap where
  seq : Nat := 0
  pipes : List (Nat × Nat) := []
  cores : List (Nat × Nat) := []
  rows : List (Nat × Nat) := []
  suspectRows : List (Nat × Nat) := []
  ranks : Tab Nat := []
  wires : List (Nat × Nat × Nat × Nat × Nat) := []
deriving DecidableEq, Repr

/-- The update path, and what the flash keeps besides its laid-out bytes: persistent objects and the repair map (`rep` is the
map in use, `flashRep` the copy in the flash); and rank records to remove at the next reset (R475, R501, R507). -/
structure Upd where
  st : Nat := 0
  total : Nat := 0
  offset : Nat := 0
  chunk : Option (List Byte) := none
  cause : Nat := 0
  trialFrom : Option Nat := none
  persist : Tab Val := []
  rep : RepMap := {}
  flashRep : RepMap := {}
  rankClear : List Nat := []
deriving DecidableEq, Repr

/-! ### The whole -/

/-- Something that left the package during the last command. `control` answers on the management port. `tdm` is a TDM frame of an audio
port, bit clock by bit clock: whether both clock edges are swapped, the frame sync, and on an output the data pin, none where it is not
driven (R222); `tdmIdle` says that the pins of a port are low, or with `clock` that its bit clock runs without frame sync and data is driven 0 (R223, R227). -/
inductive Out where
  | response (src : Src) (m : Msg)
  | event (dest : Nat) (r : LogRec)
  | packet (port : Nat) (p : Pkt)
  | control (kind target dest : Nat) (data : List Byte)
  | pps (level : Bool)
  | tdm (port : Nat) (invert : Bool) (fs : List Bool) (sd : Option (List (Option Bool)))
  | tdmIdle (port : Nat) (clock : Bool)
  | line (cx line : Nat) (px : List (Nat × Nat × Nat))
  | pins (low : Bool)
deriving DecidableEq, Repr

/-- Everything the reset of the package clears or keeps by rule, except the bytes of flash and package memory. -/
structure Sys where
  part : Part := {}
  now : Nat := 0
  power : Power := {}
  live : Tab Val := []
  shadow : Tab Val := []
  pend : List Pend := []
  evs : Events := {}
  mgmt : Mgmt := {}
  clk : Clk := {}
  jas : Jas := {}
  net : Net := {}
  opal : Opal := {}
  aus : Tab Au := []
  chans : Tab Chan := []
  dies : Tab Die := []
  upd : Upd := {}
  free : Nat := 0
  out : List Out := []
deriving DecidableEq, Repr

/-- The state of the block: package memory and boot flash as bytes in canonical form, everything else, and the queue of
waiting commands, first in, first out. -/
structure State where
  mem : List Host.Cell := []
  flash : List Host.Cell := []
  sys : Sys := {}
  pending : List Instr := []
deriving DecidableEq, Repr

/-- The block right after release of a power-on reset (R487): every unit at rest, booting, the queue empty. -/
def State.reset : State := {}

end Sys2Proof.Machine
end

