-- ==== Sys2Proof/Machine/Objects.lean ====
section
/-! DEFINITION. The object dictionary: where an index and subindex lead (R10, R468 to R470), the encodings of R436, the
length and range checks of R437 and R525, and the default of every object (R475). -/

namespace Sys2Proof.Machine

/-- An object of the dictionary on the ordered variant: its row, and the instance its index and subindex name. -/
structure Loc where
  base : Nat
  inst : Nat
  sub : Nat
  row : ObjRow
deriving DecidableEq, Repr

/-- The table index and the instance of an index, and how many instances the variant has (R10, R470). Policers and audio
flows take part of their instance from the subindex. -/
def splitIndex (dies idx sub : Nat) : Nat × Nat × Nat × Nat :=
  if 0x2000 ≤ idx ∧ idx < 0x3000 then
    if idx % 0x20 = 7 then (0x2007, (idx - 0x2000) / 0x20, if sub < 0x80 then sub % 0x20 else sub, 16 * dies)
    else (0x2000 + idx % 0x20, (idx - 0x2000) / 0x20, sub, 16 * dies)
  else if 0x3000 ≤ idx ∧ idx < 0x3100 then (0x3000 + idx % 8, (idx - 0x3000) / 8, sub, 4 * dies)
  else if 0x3100 ≤ idx ∧ idx < 0x3200 then (0x3100 + idx % 2, (idx - 0x3100) / 2, sub, 16 * dies)
  else if 0x3200 ≤ idx ∧ idx < 0x3240 then (0x3200 + idx % 2, (idx - 0x3200) / 2, sub, 4 * dies)
  else if 0x3300 ≤ idx ∧ idx < 0x33C0 then (0x3300 + idx % 2, (idx - 0x3300) / 2, sub, 12 * dies)
  else if 0x3400 ≤ idx ∧ idx < 0x3500 then (0x3400, 8 * (idx - 0x3400) + sub / 0x20, sub % 0x20, 256 * dies)
  else if 0x3500 ≤ idx ∧ idx < 0x3510 then (0x3500 + idx % 2, (idx - 0x3500) / 2, sub, 8)
  else if 0x3540 ≤ idx ∧ idx < 0x35A0 then (0x3540, idx - 0x3540, sub, 12 * dies)
  else if 0x3800 ≤ idx ∧ idx < 0x3806 then (0x3800, idx - 0x3800, sub, 6)
  else if 0x3900 ≤ idx ∧ idx < 0x3960 then (0x3900, idx - 0x3900, sub, 12 * dies)
  else (idx, 0, sub, 1)

/-- Whether an index holds one subindex for each die, rank, sensor, monitor or quad (R10, R26). -/
def perDie (base : Nat) : Bool := (0x5002 ≤ base ∧ base < 0x6000) ∨ base = 0x3521 ∨ base = 0x3810

/-- The subindices a row covers on the variant (R10). -/
def ObjRow.span (r : ObjRow) (base dies : Nat) : Nat :=
  if perDie base ∧ 8 ≤ r.cnt then r.cnt / 8 * dies else r.cnt

/-- The rows of a table index. -/
def rowsOf (base : Nat) : List ObjRow :=
  match dictionary.find? fun e => e.1 == base with
  | some e => e.2
  | none => []

/-- The row that covers a subindex. -/
def rowFor (base dies sub : Nat) : List ObjRow → Option ObjRow
  | [] => none
  | r :: rs => if r.sub ≤ sub ∧ sub < r.sub + r.span base dies then some r else rowFor base dies sub rs

/-- The highest subindex in use at a table index on the variant (R468). -/
def topSub (base dies : Nat) (rows : List ObjRow) : Nat :=
  let m := rows.foldl (fun m r => max m (r.sub + r.span base dies - 1)) 0
  if base = 0x2007 then 0x60 + m else if base = 0x3400 then 0xE0 + m else m

/-- Find an object (R10, R468, R469). Subindex 0 of an index that holds objects is a U8 CONST. -/
def locate (dies idx sub : Nat) : Option Loc :=
  let p := splitIndex dies idx sub
  let rows := rowsOf p.1
  if sub = 0 then
    if rows.isEmpty ∨ p.2.2.2 ≤ (splitIndex dies idx 0).2.1 then none
    else some ⟨p.1, p.2.1, 0, ⟨0, 1, .u8, .const, .n (topSub p.1 dies rows), .any, 1⟩⟩
  else if p.2.2.2 ≤ p.2.1 ∨ p.2.2.1 = 0 then none
  else
    match rowFor p.1 dies p.2.2.1 rows with
    | some r => some ⟨p.1, p.2.1, p.2.2.1, r⟩
    | none => none

/-- The key of an object in the live and shadow tables. -/
def objKey (idx sub : Nat) : Nat := idx * 256 + sub

/-- The object of a key. -/
def locateKey (dies key : Nat) : Option Loc := locate dies (key / 256) (key % 256)

/-! ### Types (R436, R437) -/

/-- The type code of DESCRIBE. -/
def Ty.code : Ty → Nat
  | .bool => 1 | .u8 => 2 | .u16 => 3 | .u32 => 4 | .u64 => 5 | .i8 => 6 | .i16 => 7 | .i32 => 8 | .i64 => 9
  | .real32 => 10 | .vstr => 11 | .ostr => 12 | .domain => 13 | .time96 => 14

/-- The access code of DESCRIBE. -/
def Acc.code : Acc → Nat
  | .ro => 1 | .rw => 2 | .wo => 3 | .const => 4 | .rws => 5

/-- The size in bytes of the types that have a fixed one. -/
def Ty.size : Ty → Option Nat
  | .bool => some 1 | .u8 => some 1 | .u16 => some 2 | .u32 => some 4 | .u64 => some 8
  | .i8 => some 1 | .i16 => some 2 | .i32 => some 4 | .i64 => some 8 | .real32 => some 4 | .time96 => some 12
  | _ => none

/-- Whether the type is a signed integer. -/
def Ty.signed : Ty → Bool
  | .i8 | .i16 | .i32 | .i64 => true
  | _ => false

/-- The bytes of a value (R436). -/
def encodeVal (ty : Ty) (v : Val) : List Byte :=
  match v, ty.size with
  | .int i, some n => leBytes n (toUnsigned n i)
  | .int _, none => []
  | .bytes b, _ => b

/-- One byte of a UTF-8 sequence that follows the first. -/
def utf8Tail (b : Byte) : Bool := 0x80 ≤ b.toNat ∧ b.toNat < 0xC0

/-- Whether bytes are valid UTF-8 (R437); `fuel` bounds the characters. -/
def utf8 : Nat → List Byte → Bool
  | _, [] => true
  | 0, _ => false
  | n + 1, b :: r =>
    let v := b.toNat
    if v < 0x80 then utf8 n r
    else match r with
      | c :: r1 =>
        if 0xC2 ≤ v ∧ v < 0xE0 then utf8Tail c && utf8 n r1
        else match r1 with
          | d :: r2 =>
            if 0xE0 ≤ v ∧ v < 0xF0 then
              utf8Tail c && utf8Tail d && decide (¬(v = 0xE0 ∧ c.toNat < 0xA0) ∧ ¬(v = 0xED ∧ 0xA0 ≤ c.toNat)) && utf8 n r2
            else match r2 with
              | e :: r3 =>
                decide (0xF0 ≤ v ∧ v < 0xF5) && utf8Tail c && utf8Tail d && utf8Tail e &&
                  decide (¬(v = 0xF0 ∧ c.toNat < 0x90) ∧ ¬(v = 0xF4 ∧ 0x90 ≤ c.toNat)) && utf8 n r3
              | [] => false
          | [] => false
      | [] => false

/-- Whether a value lies in a range (R525). -/
def Rng.admits (r : Rng) (i : Int) : Bool :=
  match r with
  | .any => true
  | .oneOf l => l.contains i
  | .span lo hi step => decide (lo ≤ i ∧ i ≤ hi ∧ (i - lo) % step = 0)
  | .also l lo hi => l.contains i || decide (lo ≤ i ∧ i ≤ hi)

/-- The lengths a value of a written object of bytes may have (R437): the fixed one, or for a VSTR up to its limit. -/
def lengthOk (r : ObjRow) (n : Nat) : Bool :=
  match r.ty with
  | .vstr => n ≤ r.size
  | .domain | .ostr => n = r.size
  | t => some n = t.size

/-- The abort of a value of the wrong length (R437). -/
def lengthAbort (r : ObjRow) : Nat := if r.ty.size.isSome then 3 else 4

/-- Read a written value: the abort code, or the value within its range (R436, R437, R525). -/
def decodeVal (r : ObjRow) (b : List Byte) : Except Nat Val :=
  if lengthOk r b.length then
    match r.ty.size with
    | some n =>
      let i : Int := if r.ty.signed then toSigned n (leNat b) else leNat b
      if r.ty = .bool ∧ 1 < leNat b then .error 4
      else if r.rng.admits i then .ok (.int i)
      else .error 4
    | none => if r.ty = .vstr ∧ ¬utf8 b.length b then .error 4 else .ok (.bytes b)
  else .error (lengthAbort r)

/-- A value as an integer. -/
def Val.toInt : Val → Int
  | .int i => i
  | .bytes b => leNat b

/-- A value as a natural number. -/
def Val.nat (v : Val) : Nat := v.toInt.toNat

/-- A value as bytes. -/
def Val.toBytes : Val → List Byte
  | .int _ => []
  | .bytes b => b

/-! ### Defaults (R475) -/

/-- Bytes of ASCII codes. -/
def codes (l : List Nat) : List Byte := l.map (BitVec.ofNat 8)

/-- A table of 16-bit entries as bytes. -/
def table16 (n : Nat) (f : Nat → Nat) : List Byte := (List.range n).flatMap fun i => leBytes 2 (f i)

/-- A band table of one entry, VALID with the recommended loop settings (R327, log entry 2). -/
def bandTable (entry : Nat) : List Byte := leBytes 8 entry ++ List.replicate 248 0

/-- Entry 0 of the firmware image's band table for a PLL (R324, R327, log entry 2). -/
def imageEntry (pll : Nat) : Nat :=
  match pll with
  | 0 => 0x800075021E000000
  | 1 => 0x8000750218000000
  | 2 => 0x8000750130000000
  | 3 => 0x8000750214000000
  | 4 => 0x8000B901AA000000
  | _ => 0x8000B901A5000000

/-- The output of a PLL in Hz (R324, R326). -/
def nominalHz (pll : Nat) : Nat :=
  match pll with
  | 0 => 1500000000
  | 1 => 1200000000
  | 2 => 4800000000
  | 3 => 1000000000
  | 4 => 26562500000
  | _ => 25781250000

/-- The default memory shares of R426. -/
def defaultShare (h : Nat) : Nat :=
  [100, 100, 100, 100, 10, 60, 80, 40, 40, 5, 10, 10, 10, 10, 10, 5, 5, 5, 2, 5, 5, 5].getD h 0

/-- The default cycle shares of 0x3722. -/
def defaultCycles (c : Nat) : Nat := [1000, 1000, 1000, 150, 100, 100, 100, 50].getD c 0

/-- The default park masters of R412. -/
def defaultPark (t : Nat) : Nat := [11, 0, 1, 2, 3, 0, 1, 17, 11, 16, 16, 8, 8, 255].getD t 255

/-- The ordering code of a part (R2). -/
def orderCode (p : Part) : List Byte :=
  codes [90, 80, 45, 80, 71, 48 + p.dies, 45, if p.grade = 0 then 83 else 88]

/-- The defaults that depend on the part or the instance. -/
def specialDefault (p : Part) (base inst sub : Nat) : Val :=
  match base with
  | 0x1000 =>
    if sub = 1 then .bytes (orderCode p)
    else if sub = 2 then .int p.grade
    else .bytes (codes [90, 97, 108, 105, 99, 32, 80, 97, 105, 114, 103, 97, 114])
  | 0x1001 => if sub = 1 then .bytes p.serial else if sub = 2 then .int p.devId else .int 0
  | 0x1002 => .bytes (beBytes 6 p.baseMac)
  | 0x1010 => if sub = 1 then .int p.dies else .int (p.dies / 2 : Nat)
  | 0x1020 => .bytes (beBytes 6 (p.baseMac + 96))
  | 0x1022 => .bytes (List.replicate 1024 0)
  | 0x3000 => .bytes (table16 4096 fun i => i)
  | 0x3100 => .bytes (table16 1024 fun i => (i * 16383 + 511) / 1023)
  | 0x3300 =>
    if sub = 0x09 then .bytes (leBytes 8 0x0000FF00000F4240 ++ List.replicate 2040 0)
    else .bytes (beBytes 6 (p.baseMac + inst))
  | 0x3521 => .int 0
  | 0x3721 => .int (defaultShare (sub - 1))
  | 0x3722 => .int (defaultCycles (sub - 1))
  | 0x3723 => .int (defaultPark (sub - 1))
  | 0x3800 =>
    if sub = 1 then .int (if inst = 4 then 1 else if inst = 5 then 3 else 0)
    else if sub = 5 then .bytes (bandTable (imageEntry inst))
    else .int (nominalHz inst)
  | 0x3810 => .int (if (sub - 1) % 3 = 2 then 1 else 0)
  | 0x5002 => .int (p.fuseIds.getD (sub - 1) 0)
  | 0x5031 => .bytes ((List.range 30).map (BitVec.ofNat 8))
  | 0x5052 =>
    if sub = 1 then .int (95 + 5 * p.grade)
    else if sub = 2 then .int (100 + 5 * p.grade)
    else .int (110 + 5 * p.grade)
  | 0x6000 => if sub = 1 then .int (if p.provisioned then 1 else 0) else .int p.attestKeyId
  | 0x6020 => .int p.minSvn
  | _ => .int 0

/-- What an object reads that nothing has written since the reset (R475). -/
def defaultOf (p : Part) (l : Loc) : Val :=
  match l.row.dflt with
  | .n v => .int v
  | .rep len b => .bytes (List.replicate len (BitVec.ofNat 8 b))
  | .special => specialDefault p l.base l.inst l.sub

/-- The default of a key; an object that does not exist reads 0 (it is never reached by a request, R469). -/
def dfltVal (p : Part) (key : Nat) : Val :=
  match locateKey p.dies key with
  | some l => defaultOf p l
  | none => .int 0

end Sys2Proof.Machine
end

