-- ==== Sys2Proof/Machine/Ops.lean ====
section
/-! DEFINITION. Operations every command shares: time and time bases (R298 to R302, R315), objects and counters (R436, R475),
units of the package, events (R524), free values, and the DRAM and flash byte tables. -/

namespace Sys2Proof.Machine

/-- What a step answers. -/
abbrev Res := Host.Outcome State Fault Refusal

/-! ### Time: counts of 2⁻¹⁶ ns (R46, R299) -/

def nsU (n : Nat) : Nat := n * 65536
def usU (n : Nat) : Nat := n * 65536000
def msU (n : Nat) : Nat := n * 65536000000
def secU (n : Nat) : Nat := n * 65536000000000

/-- The difference of two times, taken on 64 bits (R299). -/
def tdiff (a b : Int) : Int := (a - b + 2 ^ 63) % 2 ^ 64 - 2 ^ 63

/-- Whether the instant a is at or after b (R299). -/
def atOrAfter (a b : Int) : Bool := 0 ≤ tdiff a b

/-- The 96-bit value of a time (R298). -/
def time96 (t : Int) : Nat :=
  let s := t / 65536000000000
  let r := (t % 65536000000000).toNat
  (s % 2 ^ 48).toNat * 2 ^ 48 + r / 65536 * 2 ^ 16 + r % 65536

/-- The time a 96-bit value names (R298): from 2⁴⁷ seconds on, SEC stands for a time before the epoch. -/
def ofTime96 (v : Nat) : Int :=
  let sec : Int := (v / 2 ^ 48 % 2 ^ 48 : Nat)
  ((if sec < 2 ^ 47 then sec else sec - 2 ^ 48) * 1000000000 + (v / 2 ^ 16 % 2 ^ 32 : Nat)) * 65536 + (v % 65536 : Nat)

/-- What a map reads at a free-running count (R302). -/
def TbMap.read (m : TbMap) (now : Int) : Int := m.value + (now - m.anchor) * (1000000000 + m.ppb) / 1000000000

/-- The first free-running count at which a map reads at or after `t` (R320). -/
def TbMap.when (m : TbMap) (t : Int) : Int :=
  m.anchor - (m.value - t) * 1000000000 / (1000000000 + m.ppb)

/-- Time passes, and what left the package before is gone (log entries 1 and 5). -/
def Sys.elapse (dt : Nat) (y : Sys) : Sys := { y with now := y.now + dt, out := [] }

/-- Lift a command that touches neither package memory nor the flash. -/
def act (dt : Nat) (f : Sys → Sys) (s : State) : Res := .next { s with sys := f (s.sys.elapse dt) }

/-- Lift a command that may touch package memory or the flash. The queue is left alone. -/
def actMem (dt : Nat) (f : List Host.Cell → List Host.Cell → Sys → List Host.Cell × List Host.Cell × Sys) (s : State) : Res :=
  let r := f s.mem s.flash (s.sys.elapse dt)
  .next { s with mem := r.1, flash := r.2.1, sys := r.2.2 }

/-- Apply `f` when `b`. -/
def Sys.cond (b : Bool) (f : Sys → Sys) (y : Sys) : Sys := if b then f y else y

/-- Apply a list of changes in order. -/
def Sys.each {α : Type} (l : List α) (f : α → Sys → Sys) (y : Sys) : Sys := l.foldl (fun y a => f a y) y

/-- The next free value; the counter advances (log entry 3). -/
def Sys.fresh (y : Sys) : Sys := { y with free := y.free + 1 }

/-- The free value the machine takes next. -/
def Sys.freeNow (y : Sys) : Nat := Config.freeValue y.free

/-- Something leaves the package. -/
def Sys.emit (o : Out) (y : Sys) : Sys := { y with out := y.out ++ [o] }

/-! ### Units of the package -/

def Sys.die (y : Sys) (d : Nat) : Die := Tab.find (fun _ => {}) y.dies d
def Sys.setDie (d : Nat) (x : Die) (y : Sys) : Sys := { y with dies := Tab.put (fun _ => {}) y.dies d x }
def Sys.onDie (d : Nat) (f : Die → Die) (y : Sys) : Sys := y.setDie d (f (y.die d))

def Sys.chan (y : Sys) (n : Nat) : Chan := Tab.find (fun _ => {}) y.chans n
def Sys.setChan (n : Nat) (x : Chan) (y : Sys) : Sys := { y with chans := Tab.put (fun _ => {}) y.chans n x }
def Sys.onChan (n : Nat) (f : Chan → Chan) (y : Sys) : Sys := y.setChan n (f (y.chan n))

def Sys.cx (y : Sys) (n : Nat) : Cx := Tab.find (fun _ => {}) y.opal.cxs n
def Sys.setCx (n : Nat) (x : Cx) (y : Sys) : Sys :=
  { y with opal := { y.opal with cxs := Tab.put (fun _ => {}) y.opal.cxs n x } }
def Sys.onCx (n : Nat) (f : Cx → Cx) (y : Sys) : Sys := y.setCx n (f (y.cx n))

def Sys.ly (y : Sys) (n : Nat) : Ly := Tab.find (fun _ => {}) y.opal.lys n
def Sys.setLy (n : Nat) (x : Ly) (y : Sys) : Sys :=
  { y with opal := { y.opal with lys := Tab.put (fun _ => {}) y.opal.lys n x } }
def Sys.onLy (n : Nat) (f : Ly → Ly) (y : Sys) : Sys := y.setLy n (f (y.ly n))

def Sys.au (y : Sys) (n : Nat) : Au := Tab.find (fun _ => {}) y.aus n
def Sys.setAu (n : Nat) (x : Au) (y : Sys) : Sys := { y with aus := Tab.put (fun _ => {}) y.aus n x }
def Sys.onAu (n : Nat) (f : Au → Au) (y : Sys) : Sys := y.setAu n (f (y.au n))

def Sys.port (y : Sys) (n : Nat) : Port := Tab.find (fun _ => {}) y.net.ports n
def Sys.setPort (n : Nat) (x : Port) (y : Sys) : Sys :=
  { y with net := { y.net with ports := Tab.put (fun _ => {}) y.net.ports n x } }
def Sys.onPort (n : Nat) (f : Port → Port) (y : Sys) : Sys := y.setPort n (f (y.port n))

def Sys.lane (y : Sys) (n : Nat) : Lane := Tab.find (fun _ => {}) y.net.lanes n
def Sys.setLane (n : Nat) (x : Lane) (y : Sys) : Sys :=
  { y with net := { y.net with lanes := Tab.put (fun _ => {}) y.net.lanes n x } }
def Sys.onLane (n : Nat) (f : Lane → Lane) (y : Sys) : Sys := y.setLane n (f (y.lane n))

def Sys.pol (y : Sys) (n : Nat) : Pol := Tab.find (fun _ => {}) y.net.pols n
def Sys.setPol (n : Nat) (x : Pol) (y : Sys) : Sys :=
  { y with net := { y.net with pols := Tab.put (fun _ => {}) y.net.pols n x } }

def Sys.tb (y : Sys) (b : Nat) : Tb := Tab.find (fun _ => {}) y.jas.tbs b
def Sys.setTb (b : Nat) (x : Tb) (y : Sys) : Sys :=
  { y with jas := { y.jas with tbs := Tab.put (fun _ => {}) y.jas.tbs b x } }
def Sys.onTb (b : Nat) (f : Tb → Tb) (y : Sys) : Sys := y.setTb b (f (y.tb b))

/-- PLL p of die d. -/
def Sys.pll (y : Sys) (d p : Nat) : Pll := Tab.find (fun _ => {}) y.clk.plls (8 * d + p)
def Sys.setPll (d p : Nat) (x : Pll) (y : Sys) : Sys :=
  { y with clk := { y.clk with plls := Tab.put (fun _ => {}) y.clk.plls (8 * d + p) x } }
def Sys.onPll (d p : Nat) (f : Pll → Pll) (y : Sys) : Sys := y.setPll d p (f (y.pll d p))

/-- The dies of the variant. -/
def Sys.dieList (y : Sys) : List Nat := List.range y.part.dies

/-- The die of a port, lane, channel number aside: 12 to a die (R9). -/
def portDie (p : Nat) : Nat := p / 12

/-! ### Objects (R436, R475) -/

/-- The live value of an object. -/
def Sys.val (y : Sys) (k : Nat) : Val := Tab.find (dfltVal y.part) y.live k

/-- The live value as a number. -/
def Sys.int (y : Sys) (k : Nat) : Int := (y.val k).toInt

/-- The live value as a natural number. -/
def Sys.nat (y : Sys) (k : Nat) : Nat := (y.val k).nat

/-- The live value as bytes. -/
def Sys.bytes (y : Sys) (k : Nat) : List Byte := (y.val k).toBytes

/-- Whether a live BOOL reads 1. -/
def Sys.flag (y : Sys) (k : Nat) : Bool := y.nat k = 1

/-- Set the live value of an object. -/
def Sys.setVal (k : Nat) (v : Val) (y : Sys) : Sys := { y with live := Tab.put (dfltVal y.part) y.live k v }

/-- Set a live number. -/
def Sys.setInt (k : Nat) (i : Int) (y : Sys) : Sys := y.setVal k (.int i)

/-- Set live bytes. -/
def Sys.setBytes (k : Nat) (b : List Byte) (y : Sys) : Sys := y.setVal k (.bytes b)

/-- The modulus at which an object's counter wraps. -/
def wrapOf (dies k : Nat) : Nat :=
  match locateKey dies k with
  | some l => 256 ^ l.row.size
  | none => 2 ^ 32

/-- A counter counts `n` more and wraps at its width. -/
def Sys.bump (k : Nat) (n : Nat) (y : Sys) : Sys := y.setInt k ((y.nat k + n) % wrapOf y.part.dies k : Nat)

/-- The shadow value of an RWS object: what was written since, or the live value (R438). -/
def Sys.shadowVal (y : Sys) (k : Nat) : Val := Tab.find y.val y.shadow k

/-- Write a shadow. A shadow equal to the live value is not listed. -/
def Sys.setShadow (k : Nat) (v : Val) (y : Sys) : Sys := { y with shadow := Tab.put y.val y.shadow k v }

/-- A value of a set taken at some time, over the live values. -/
def Sys.ofSet (y : Sys) (set : Tab Val) (k : Nat) : Val := Tab.find y.val set k

/-! ### Time bases (R301, R302, R315) -/

/-- The free-running count of die d (R301). -/
def Sys.freeRun (y : Sys) (d : Nat) : Nat :=
  (if d = 0 then y.now else y.now + Config.dieSkew d) % 2 ^ 64

/-- The map a consumer sees of a base: the view before a step until its own switch point (R315). -/
def Sys.view (y : Sys) (b : Nat) (w : Consumer) : TbMap :=
  let t := y.tb b
  match t.old with
  | some m => if w ∈ t.waiting then m else t.map
  | none => t.map

/-- The present value of a base (R302): one map, read by every die. R31 lets the dies' copies differ by at most 2 ns; DESIGN CHOICE,
log entry 112: they differ by 0. -/
def Sys.tbNow (y : Sys) (b : Nat) : Int := (y.tb b).map.read y.now

/-- The present value of a base in a consumer's view. -/
def Sys.nowFor (y : Sys) (b : Nat) (w : Consumer) : Int := (y.view b w).read y.now

/-! ### Events (R524) -/

/-- Raise an event on a die. -/
def Sys.raise (code die arg : Nat) (y : Sys) : Sys :=
  { y with evs := { y.evs with raised := y.evs.raised ++ [{ code := code, die := die, arg := arg, t := y.now }] } }

/-- Whether an event was raised for its key within the preceding second (R524). -/
def Sys.recent (y : Sys) (code key : Nat) : Bool :=
  y.evs.last.any fun r => r.code == code && r.key == key && decide (y.now < r.t + secU 1)

/-- Raise an event at most once per second for its key; an occurrence within the second is counted (R524). -/
def Sys.raiseLimited (code key die arg : Nat) (y : Sys) : Sys :=
  if y.recent code key then
    { y with evs := { y.evs with
        suppressed := Tab.modify (fun _ => 0) y.evs.suppressed (code * 8 + die) (fun n => n + 1) } }
  else
    let y := y.raise code die arg
    { y with evs := { y.evs with
        last := { code := code, key := key, t := y.now } :: y.evs.last.filter fun r => !(r.code == code && r.key == key) } }

/-! ### Bytes of package memory and of the flash -/

/-- What a byte of package memory reads that nothing has written: 0 (SRAM R487; DRAM log entry 7). -/
def memDflt : Nat → Byte := fun _ => 0

/-- What an erased byte of the flash reads (log entry 6). -/
def flashDflt : Nat → Byte := fun _ => 0xFF

/-- Write bytes from an address on. -/
def storeBytes (d : Nat → Byte) : List Host.Cell → Nat → List Byte → List Host.Cell
  | m, _, [] => m
  | m, a, b :: bs => storeBytes d (Tab.put d m a b) (a + 1) bs

/-- Read `n` bytes from an address on. -/
def loadBytes (d : Nat → Byte) (m : List Host.Cell) (a : Nat) : Nat → List Byte
  | 0 => []
  | n + 1 => Tab.find d m a :: loadBytes d m (a + 1) n

/-- Bytes [a, a + n) read as nothing written. -/
def clearBytes (m : List Host.Cell) (a n : Nat) : List Host.Cell := m.filter fun c => !(decide (a ≤ c.1) && decide (c.1 < a + n))

/-- Whether the package is out of reset and powered. -/
def Sys.alive (y : Sys) : Bool :=
  match y.power.phase with
  | .booting | .running | .recovery => true
  | _ => false

/-- Whether boot has completed. -/
def Sys.running (y : Sys) : Bool := y.power.phase = .running

end Sys2Proof.Machine
end

