-- ==== Sys2Proof/Machine/Jasper.lean ====
section
/-! DEFINITION. Jasper: time bases, the PTP subset, servo states, explicit steps, time-stamp queues and pulses per second
(11_jasper_time.md). -/

namespace Sys2Proof.Machine

/-! ### Consumers and configuration -/

/-- A value of the configuration a channel took at its start (R67, R97, R133, R164, R188, R267). -/
def Sys.cfg (y : Sys) (n k : Nat) : Val := Tab.find (dfltVal y.part) (y.chan n).cfg k

/-- A number of the configuration a channel took at its start. -/
def Sys.cfgN (y : Sys) (n k : Nat) : Nat := (y.cfg n k).nat

/-- The channels that are not stopped. -/
def Sys.activeChans (y : Sys) : List Nat := (y.chans.filter fun e => e.2.run != 0).map Prod.fst

/-- The consumers of a base (R315). -/
def Sys.consumers (y : Sys) (b : Nat) : List Consumer :=
  ((y.activeChans.filter fun n => y.cfgN n (Ob.ChTimeBase n) == b).map Consumer.ch) ++
  ((y.opal.cxs.filter fun e =>
      e.2.on && y.nat (Ob.CxTimeBase e.1) == b && !y.chans.any fun c => c.2.run != 0 && c.2.cx == some e.1).map
    fun e => Consumer.cx e.1) ++
  ((y.aus.filter fun e => e.2.on && y.nat Ob.AuTimeBase == b).map fun e => Consumer.audio e.1) ++
  (((List.range (12 * y.part.dies)).filter fun p => y.flag (Ob.GclEnable p) && y.nat (Ob.PortTimeBase p) == b).map
    Consumer.port)

/-- A servo object in force: while the base has a consumer, what it held before writes that wait (R323). -/
def Sys.tbCfg (y : Sys) (b k : Nat) : Int :=
  if y.consumers b = [] then y.int k else (Tab.find y.val (y.tb b).cfg k).toInt

/-- A base whose TbRefMode is 0 is FREE (R308). -/
def Sys.tbFree (b : Nat) (y : Sys) : Sys :=
  if y.nat (Ob.TbRefMode b) = 0 ∧ (y.tb b).st ≠ 0 then
    y.onTb b fun t => { t with st := 0, nextPpb := some 0, master := none, judging := true, window := [] }
  else y

/-- Writes that waited take effect on the bases that have no consumer (R323). -/
def Sys.tbSettle (y : Sys) : Sys :=
  y.each (List.range 8) fun b y =>
    if y.consumers b = [] ∧ (y.tb b).cfg ≠ [] then (y.onTb b fun t => { t with cfg := [] }).tbFree b else y

/-- A write to 0x3500:01 to :09 (R323). -/
def Sys.writeTbObject (b k : Nat) (v : Val) (y : Sys) : Sys :=
  if y.consumers b = [] then (y.setVal k v).tbFree b
  else
    (y.onTb b fun t => if (Tab.keys t.cfg).contains k then t else { t with cfg := Tab.insert k (y.val k) t.cfg }).setVal k v

/-- Ports on which a base hears PTP (R307). -/
def Sys.tbPorts (y : Sys) (b : Nat) : List Nat :=
  ([(y.tbCfg b (Ob.TbPort1 b)).toNat, (y.tbCfg b (Ob.TbPort2 b)).toNat]).filter fun p => p != 255

/-- Whether a base takes a message of a domain on a port (R307). -/
def Sys.tbHears (y : Sys) (b port domain : Nat) : Bool :=
  y.tbCfg b (Ob.TbRefMode b) == 1 && y.tbCfg b (Ob.TbDomain b) == (domain : Int) && (y.tbPorts b).contains port

/-- A port that is up (R355). -/
def Sys.portUp (y : Sys) (p : Nat) : Bool := (y.port p).st == 5

/-! ### The servo (R307 to R312) -/

/-- Put a number into a rising list. -/
def sortIn (x : Int) : List Int → List Int
  | [] => [x]
  | a :: r => if x ≤ a then x :: a :: r else a :: sortIn x r

/-- The median; for an even count the mean of the two middle values, rounded down (log entry 10). -/
def median (l : List Int) : Int :=
  let s := l.foldr sortIn []
  let n := s.length
  if n % 2 = 1 then s.getD (n / 2) 0 else (s.getD (n / 2 - 1) 0 + s.getD (n / 2) 0) / 2

/-- 2^e seconds in units of 2⁻¹⁶ ns. -/
def pow2Sec (e : Int) : Nat := if 0 ≤ e then secU (2 ^ e.toNat) else secU 1 / 2 ^ (-e).toNat

/-- The mean frequency correction over the last seconds of LOCKED (R311): pieces newest first, each with its length. -/
def holdMean (span : Nat) : List (Nat × Int) → Nat → Int → Int
  | [], used, acc => if used = 0 then 0 else acc / used
  | (d, f) :: r, used, acc =>
    if span ≤ used + d then (acc + f * ((span - used : Nat) : Int)) / (if span = 0 then 1 else span)
    else holdMean span r (used + d) (acc + f * d)

/-- The holdover frequency of a base (R311). -/
def Sys.holdFreq (y : Sys) (b : Nat) : Int :=
  let t := y.tb b
  if t.everLocked then holdMean (secU (y.nat (Ob.TbHoldAvg b))) t.hist 0 0 else 0

/-- Record how long the present frequency correction held in LOCKED. -/
def Sys.tbHist (y : Sys) (b : Nat) : Sys :=
  y.onTb b fun t =>
    { t with hist := if t.st = 1 then (y.now - t.histAt, t.freq) :: t.hist else t.hist, histAt := y.now }

/-- A base enters HOLDOVER (R311). -/
def Sys.tbHoldover (b : Nat) (y : Sys) : Sys :=
  let t := y.tb b
  if t.st = 1 ∨ t.st = 3 then
    let y := y.tbHist b
    let f := y.holdFreq b
    (y.onTb b fun t => { t with st := 2, nextPpb := some f, judging := true, window := [] }).raise 0x0402 0 b
  else y

/-- A base enters LOCKED (R309). -/
def Sys.tbLock (b : Nat) (y : Sys) : Sys :=
  let was := (y.tb b).st
  let y := y.onTb b fun t => { t with st := 1, everLocked := true, judging := false, window := [], histAt := y.now }
  if was = 1 then y else y.raise 0x0401 0 b

/-- The threshold of a jump in units of 2⁻¹⁶ ns. -/
def Sys.tbTheta (y : Sys) (b : Nat) : Int := nsU (y.nat (Ob.TbJumpThreshold b))

/-- The entries of a port's time-stamp queue. -/
def Sys.tsq (y : Sys) (p : Nat) : List Tsq := Tab.find (fun _ => []) y.jas.tsq p

def Sys.setTsq (p : Nat) (l : List Tsq) (y : Sys) : Sys :=
  { y with jas := { y.jas with tsq := Tab.put (fun _ => []) y.jas.tsq p l } }

/-- A base jumps: stamps of an exchange in hand are read on the base as it is from then on (R307, R318; log entry 103). -/
def Sys.carryExchange (b : Nat) (delta : Int) (y : Sys) : Sys :=
  let y := y.onTb b fun t => { t with sm := t.sm.map fun d => d - delta }
  { y with jas := { y.jas with tsq := y.jas.tsq.map fun e =>
      (e.1, e.2.map fun x => if x.tb = b then { x with stamp := x.stamp + delta } else x) } }

/-- In HOLDOVER_SLEW the base runs at the holdover frequency and `TbSlewMax` in the direction that reduces the offset (R308, R310). -/
def Sys.tbSlew (b : Nat) (off : Int) (y : Sys) : Sys :=
  let f := y.holdFreq b
  let slew : Int := 100 * (y.nat (Ob.TbSlewMax b) : Nat)
  y.onTb b fun t => { t with nextPpb := some (clampInt (if 0 < off then f - slew else f + slew) (-250000) 250000) }

/-- Judge an offset (R309). -/
def Sys.tbJudge (b : Nat) (off : Int) (y : Sys) : Sys :=
  let y := y.onTb b fun t => { t with judged := some off, judging := false, window := [] }
  if off.natAbs ≤ (y.tbTheta b).toNat then y.tbLock b
  else if y.consumers b = [] then
    ((y.onTb b fun t => { t with map := { t.map with value := t.map.value - off } }).carryExchange b (-off)).tbLock b
  else
    let y := ((y.tbHist b).onTb b fun t => { t with st := 3 }).tbSlew b off
    (y.bump (Ob.TbJumpsRefused b) 1).raise 0x0403 0 b

/-- The servo's output for an accepted sample in LOCKED: the frequency estimate and the phase term are free values, within
±250 ppm and `TbSlewMax` (R302, R310, log entry 3). -/
def Sys.tbServo (b : Nat) (off : Int) (y : Sys) : Sys :=
  let y := y.tbHist b
  let out := Config.servo (y.nat (Ob.TbServoBw b)) (y.tb b).freq off y.free
  let slew : Int := 100 * (y.nat (Ob.TbSlewMax b) : Nat)
  let f := clampInt out.1 (-250000) 250000
  let y := y.onTb b fun t => { t with freq := f, nextPpb := some (clampInt (f + clampInt out.2 (-slew) slew) (-250000) 250000) }
  y.fresh

/-- What an accepted sample does to the servo state (R309, R310). -/
def Sys.tbAccepted (b : Nat) (off : Int) (y : Sys) : Sys :=
  let t := y.tb b
  let θ := (y.tbTheta b).toNat
  if t.judging then
    let w := t.window ++ [off]
    if w.length < 8 then y.onTb b fun t => { t with window := w } else y.tbJudge b (median w)
  else if t.st = 1 then
    let w := if off.natAbs ≤ θ then []
      else if t.window.all fun o => decide ((0 < o) = (0 < off)) then t.window ++ [off] else [off]
    if 8 ≤ w.length then y.tbJudge b (median w) else (y.onTb b fun t => { t with window := w }).tbServo b off
  else if t.st = 3 then (if off.natAbs ≤ θ then y.tbLock b else y.tbSlew b off)
  else y

/-- A servo sample: the master-to-slave difference is known, and the slave-to-master one if an exchange completed (R307). -/
def Sys.tbSample (b : Nat) (ms : Int) (y : Sys) : Sys :=
  let t := y.tb b
  match t.sm with
  | none => y
  | some sm =>
    let off := (ms - sm) / 2
    let delay := (ms + sm) / 2
    let y := y.onTb b fun t => { t with delays := (delay :: t.delays).take 16 }
    if t.delays ≠ [] ∧ median t.delays + usU 1 < delay then y
    else
      let y := y.onTb b fun t => { t with lastSync := y.now }
      let y := ((y.bump (Ob.TbSyncRx b) 1).setInt (Ob.TbOffset b) off).setInt (Ob.TbMeanPathDelay b) (max delay 0)
      y.tbAccepted b off

/-- The bases a message from a selected master serves (R307). -/
def Sys.tbFrom (y : Sys) (m : PtpMsg) : List Nat :=
  (List.range 8).filter fun b => y.portUp m.port && y.tbHears b m.port m.domain && (y.tb b).master == some (m.clock, m.portNum)

/-- SYNC (R307): a one-step Sync gives a sample; a two-step one waits for its Follow_Up. -/
def Sys.sync (m : PtpMsg) (twoStep : Bool) (y : Sys) : Sys :=
  y.each (y.tbFrom m) fun b y =>
    let y := y.onTb b fun t => { t with masterMac := m.srcMac, masterIp := m.srcIp }
    if twoStep then y.onTb b fun t => { t with syncWait := some (m, y.now) }
    else y.tbSample b ((y.tb b).map.read y.now - m.time - m.corr)

/-- FOLLOW_UP (R307): it carries the precise origin time of the Sync of the same sequenceId. -/
def Sys.followUp (m : PtpMsg) (y : Sys) : Sys :=
  y.each (y.tbFrom m) fun b y =>
    match (y.tb b).syncWait with
    | some (s, at_) =>
      if s.seq = m.seq ∧ s.port = m.port then
        let y := y.onTb b fun t => { t with syncWait := none }
        y.tbSample b ((y.tb b).map.read at_ - m.time - s.corr - m.corr)
      else y
    | none => y

/-- DELAY_RESP (R304, R307): it is matched with its time-stamp queue entry, which is removed. -/
def Sys.delayResp (m : PtpMsg) (b : Nat) (y : Sys) : Sys :=
  if (y.tbFrom m).contains b then
    match (y.tsq m.port).find? fun e => e.id == m.seq && e.tb == b with
    | some e =>
      let y := y.setTsq m.port ((y.tsq m.port).filter fun x => !(x.id == m.seq && x.tb == b))
      y.onTb b fun t => { t with sm := some (m.time - e.stamp - m.corr) }
    | none => y
  else y

/-- TSQ_EXPIRY (R304): entries leave one second after they were written. -/
def Sys.tsqExpiry (port : Nat) (y : Sys) : Sys :=
  let l := y.tsq port
  let keep := l.filter fun e => decide (y.now < e.t + secU 1)
  (y.setTsq port keep).bump (Ob.TsqExpired port) (l.length - keep.length)

/-- A Delay_Req leaves its port and is stamped (R303 to R306): entries whose second ends at this instant go first, and a stamp that still
finds 32 entries is lost. -/
def Sys.stampPtp (port b seq : Nat) (y : Sys) : Sys :=
  let y := y.tsqExpiry port
  if 32 ≤ (y.tsq port).length then
    let y := { y with jas := { y.jas with ovf := Tab.put (fun _ => false) y.jas.ovf port true } }
    (y.bump (Ob.TsqOverflow port) 1).raiseLimited 0x0406 port (portDie port) port
  else
    let ovf := Tab.find (fun _ => false) y.jas.ovf port
    let y := { y with jas := { y.jas with ovf := Tab.put (fun _ => false) y.jas.ovf port false } }
    y.setTsq port (y.tsq port ++ [{ id := seq, tb := b, ovf := ovf, t := y.now, stamp := y.tbNow b }])

/-- An entry of the queue as 128 bits (R305). -/
def tsqWord (e : Tsq) : Nat :=
  e.id % 65536 * 2 ^ 112 + 2 ^ 108 + e.tb * 2 ^ 105 + (if e.ovf then 2 ^ 104 else 0) +
    time96 e.stamp

/-! ### Best master (R307, R311, R312) -/

/-- The 1588 default comparison of two data sets as a list of numbers, the better first in order (log entry 11). -/
def announceRank (a : AnnounceMsg) : List Nat :=
  [a.prio1, a.cls, a.accuracy, a.variance, a.prio2, a.gm, a.steps, a.clock, a.portNum, a.port]

/-- Whether list `a` comes strictly before list `b`. -/
def listLt : List Nat → List Nat → Bool
  | a :: as, b :: bs => if a < b then true else if b < a then false else listLt as bs
  | _, _ => false

/-- Whether a foreign master is qualified: at least two Announce messages within four announce intervals, and heard within the
announceReceiptTimeout (R307, R311, log entry 11). -/
def Sys.qualified (y : Sys) (b : Nat) (f : Foreign) : Bool :=
  let iv := pow2Sec (y.tbCfg b (Ob.TbLogAnnounce b))
  let recent := f.heard.filter fun t => decide (y.now ≤ t + 4 * iv)
  let limit := (y.tbCfg b (Ob.TbAnnounceTimeout b)).toNat * iv
  decide (2 ≤ recent.length) && (f.heard.any fun t => decide (y.now < t + limit)) && decide (f.ds.steps < 255)

/-- The best qualified foreign master. -/
def Sys.bestMaster (y : Sys) (b : Nat) : Option Foreign :=
  ((y.tb b).foreigns.filter (y.qualified b)).foldl
    (fun best f => match best with
      | none => some f
      | some g => if listLt (announceRank f.ds) (announceRank g.ds) then some f else some g) none

/-- Select the best master; a different one is judged anew (R312). -/
def Sys.chooseMaster (b : Nat) (y : Sys) : Sys :=
  match y.bestMaster b with
  | none => (y.onTb b fun t => { t with master := none }).tbHoldover b
  | some f =>
    let id := (f.ds.clock, f.ds.portNum)
    let before := y.bytes (Ob.TbMasterId b)
    let y := y.setInt (Ob.TbUtcOffset b) f.ds.utcOffset
    let changed := before ≠ beBytes 8 f.ds.clock ∨ y.nat (Ob.TbMasterPort b) ≠ f.ds.portNum
    if (y.tb b).master = some id then y
    else
      let y := y.onTb b fun t => { t with master := some id }
      if changed then
        let y := y.onTb b fun t => { t with judging := true, window := [], sm := none, syncWait := none, delays := [] }
        let y := (y.setBytes (Ob.TbMasterId b) (beBytes 8 f.ds.clock)).setInt (Ob.TbMasterPort b) f.ds.portNum
        if before = List.replicate 8 0 then y else y.raise 0x0405 0 b
      else y

/-- ANNOUNCE (R307, R312). -/
def Sys.announce (m : AnnounceMsg) (y : Sys) : Sys :=
  y.each ((List.range 8).filter fun b => y.portUp m.port && y.tbHears b m.port m.domain) fun b y =>
    let same := fun (f : Foreign) => f.ds.clock == m.clock && f.ds.portNum == m.portNum && f.ds.port == m.port
    let old := match (y.tb b).foreigns.find? same with
      | some f => f.heard
      | none => []
    let y := y.onTb b fun t =>
      { t with foreigns := { ds := m, heard := (y.now :: old).take 16 } :: t.foreigns.filter fun f => !same f }
    let y := match m.smTlv with
      | some v => y.setBytes (Ob.TbSmTlv b) (v.take 64)
      | none => y
    y.chooseMaster b

/-- ANNOUNCE_RECEIPT_TIMEOUT (R311): with no qualified master left the base holds over. -/
def Sys.announceTimeout (b : Nat) (y : Sys) : Sys :=
  if y.tbCfg b (Ob.TbRefMode b) = 1 then y.chooseMaster b else y

/-- SYNC_TIMEOUT (R311): no accepted sample for four Sync intervals. -/
def Sys.syncTimeout (b : Nat) (y : Sys) : Sys :=
  if (y.tb b).lastSync + 4 * pow2Sec (y.tbCfg b (Ob.TbLogSync b)) ≤ y.now then y.tbHoldover b else y

/-- Bases whose ports are all down hold over (R311). -/
def Sys.tbPortsDown (y : Sys) : Sys :=
  y.each (List.range 8) fun b y => if (y.tbPorts b).any y.portUp then y else y.tbHoldover b

/-! ### Maps and steps (R302, R313 to R315) -/

/-- A map read on at a new rate from now. -/
def TbMap.rebase (m : TbMap) (now : Int) (ppb : Int) : TbMap := { anchor := now, value := m.read now, ppb := ppb }

/-- MAP_CHANGE (R302): the change the servo computed applies on every die; the view before a step changes with it. -/
def Sys.mapChange (b : Nat) (y : Sys) : Sys :=
  match (y.tb b).nextPpb with
  | some ppb =>
    y.onTb b fun t =>
      { t with map := t.map.rebase y.now ppb, old := t.old.map fun m => m.rebase y.now ppb, nextPpb := none }
  | none => y

/-- A step request (R313): refused with abort 0x0004, or pending with X 250 µs ahead on the base. -/
def Sys.stepRequest (b : Nat) (delta : Int) (y : Sys) : Except Nat Sys :=
  if (y.tb b).waiting ≠ [] ∨ (y.consumers b ≠ [] ∧ secU 3600 < delta.natAbs) then .error 4
  else
    let x := y.tbNow b + usU 250
    .ok ((y.onTb b fun t => { t with step := some (x, delta) }).setInt (Ob.TbStepInstant b) (time96 (x + delta)))

/-- STEP_INSTANT (R314): at X the base reads its old value plus Δ; consumers other than ports keep the old view. A base in HOLDOVER_SLEW
goes on at the holdover frequency until the servo has judged anew (R308). -/
def Sys.stepInstant (b : Nat) (y : Sys) : Sys :=
  match (y.tb b).step with
  | some (x, delta) =>
    if atOrAfter (y.tbNow b) x then
      let ws := (y.consumers b).filter fun w => match w with
        | .port _ => false
        | _ => true
      let y := y.onTb b fun t =>
        { t with old := some t.map, map := { t.map with value := t.map.value + delta }, step := none, waiting := ws,
                 st := if t.st = 3 then 2 else t.st, nextPpb := if t.st = 3 then some (y.holdFreq b) else t.nextPpb, judging := true,
                 window := [] }
      ((y.carryExchange b delta).bump (Ob.TbStepsApplied b) 1).raise 0x0404 0 b
    else y
  | none => y

/-- By how much the stepped base lies above the view before the step. -/
def Sys.stepDelta (y : Sys) (b : Nat) : Int :=
  match (y.tb b).old with
  | some m => (y.tb b).map.read y.now - m.read y.now
  | none => 0

/-- Whether a consumer is to leave the view before a step at its next boundary, which begins nothing (R315, R316). -/
def Sys.stepWaits (y : Sys) (w : Consumer) : Bool := (List.range 8).any fun b => (y.tb b).old.isSome && (y.tb b).waiting.contains w

/-- A consumer leaves the view before the step (R315). -/
def Sys.switchView (b : Nat) (w : Consumer) (y : Sys) : Sys :=
  y.onTb b fun t => { t with waiting := t.waiting.filter fun v => v != w }

/-! ### Pulse per second (R321, R322) -/

/-- PPS_OUT_PULSE (R321): a rise within ±10 ns of a whole second of the base. -/
def Sys.ppsOut (y : Sys) : Sys :=
  let r := y.tbNow (y.nat Ob.PpsOutBase) % secU 1
  if y.flag Ob.PpsOutEnable ∧ (r ≤ nsU 10 ∨ (secU 1 : Int) - nsU 10 ≤ r) then
    { y with jas := { y.jas with ppsFall := some (y.now + msU (y.nat Ob.PpsOutWidth)) } }.emit (.pps true)
  else y

/-- The level of PPS_OUT. -/
def Sys.ppsLevel (y : Sys) : Bool :=
  y.flag Ob.PpsOutEnable && match y.jas.ppsFall with
    | some t => decide (y.now < t)
    | none => false

/-- PPS_IN_EDGE (R322). -/
def Sys.ppsIn (y : Sys) : Sys := { y with jas := { y.jas with ppsIn := y.now } }.bump Ob.PpsInCount 1

/-! ### The commands -/

/-- SYNC (R307). -/
def execSync (dt : Nat) (m : PtpMsg) (twoStep : Bool) (s : State) : Res := act dt (Sys.sync m twoStep) s

/-- FOLLOW_UP (R307). -/
def execFollowUp (dt : Nat) (m : PtpMsg) (s : State) : Res := act dt (Sys.followUp m) s

/-- DELAY_RESP (R307). -/
def execDelayResp (dt : Nat) (m : PtpMsg) (tb : Nat) (s : State) : Res := act dt (Sys.delayResp m tb) s

/-- ANNOUNCE (R307). -/
def execAnnounce (dt : Nat) (m : AnnounceMsg) (s : State) : Res := act dt (Sys.announce m) s

/-- TSQ_EXPIRY (R304). -/
def execTsqExpiry (dt port : Nat) (s : State) : Res := act dt (Sys.tsqExpiry port) s

/-- ANNOUNCE_RECEIPT_TIMEOUT (R311). -/
def execAnnounceReceiptTimeout (dt tb : Nat) (s : State) : Res := act dt (Sys.announceTimeout tb) s

/-- SYNC_TIMEOUT (R311). -/
def execSyncTimeout (dt tb : Nat) (s : State) : Res := act dt (Sys.syncTimeout tb) s

/-- MAP_CHANGE (R302). -/
def execMapChange (dt tb : Nat) (s : State) : Res := act dt (Sys.mapChange tb) s

/-- STEP_INSTANT (R314). -/
def execStepInstant (dt tb : Nat) (s : State) : Res := act dt (Sys.stepInstant tb) s

/-- PPS_OUT_PULSE (R321). -/
def execPpsOutPulse (dt : Nat) (s : State) : Res := act dt Sys.ppsOut s

/-- PPS_IN_EDGE (R322). -/
def execPpsInEdge (dt : Nat) (s : State) : Res := act dt Sys.ppsIn s

end Sys2Proof.Machine
end

