-- ==== Sys2Proof/Machine/Commit.lean ====
section
/-! DEFINITION. Commits of shadow sets, shared by every owning context (R27, R213, R215, R438 to R440), and what a write
answers. A context is named by the key of its commit object; its state and reason objects are the next two keys. -/

namespace Sys2Proof.Machine

/-- What a write answers: nothing more than a response, or an abort code with the reason of a refused commit (R444). -/
abbrev WriteRes := Option (Nat × Nat) × Sys

/-- The write is accepted. -/
def accept (y : Sys) : WriteRes := (none, y)

/-- The write is refused with an abort. -/
def abortWith (code : Nat) (y : Sys) : WriteRes := (some (code, 0), y)

/-- The first check that fails, in order: each check with the number it fails with. -/
def firstFail : List (Bool × Nat) → Option Nat
  | [] => none
  | (ok, r) :: rest => if ok then firstFail rest else some r

/-- The shadow set a commit freezes: the owned objects whose shadow differs from the live value or from a pending set. -/
def Sys.commitSet (y : Sys) (ctx : Nat) (own : Nat → Bool) : Tab Val :=
  let ks := (Tab.keys y.shadow).filter own ++ (y.pend.filter fun (p : Pend) => p.key == ctx).flatMap fun p => Tab.keys p.set
  ks.foldl (fun t k => Tab.insert k (y.shadowVal k) t) []

/-- The set of a commit as the checks see it: the shadow of an owned object, the live value of another. -/
def Sys.checkVal (y : Sys) (own : Nat → Bool) (k : Nat) : Val := if own k then y.shadowVal k else y.val k

/-- Accept a commit for the boundary `at_`; a set pending for the same boundary is replaced (R213). -/
def Sys.acceptCommit (ctx : Nat) (own : Nat → Bool) (at_ : Int) (y : Sys) : Sys :=
  let p : Pend := { key := ctx, set := y.commitSet ctx own, at_ := at_, seq := y.now }
  { y with pend := (y.pend.filter fun (q : Pend) => !(q.key == ctx && q.at_ == at_)) ++ [p] }.setInt (ctx + 1) 1

/-- Refuse a commit (R215). Nothing else changes. -/
def Sys.refuseCommit (ctx reason event die arg : Nat) (y : Sys) : WriteRes :=
  (some (6, reason), ((y.setInt (ctx + 1) 2).setInt (ctx + 2) reason).raise event die arg)

/-- Make a set live. A shadow written since keeps its value. -/
def Sys.applySet (set : Tab Val) (y : Sys) : Sys :=
  y.each set fun e y =>
    let sv := y.shadowVal e.1
    (y.setVal e.1 e.2).setShadow e.1 sv

/-- The commits of a context whose boundary has come. -/
def Sys.duePend (y : Sys) (ctx : Nat) (now : Int) : List Pend := y.pend.filter fun (p : Pend) => p.key == ctx && atOrAfter now p.at_

/-- Apply the commits of a context that are due, in order of acceptance; none pending afterwards reads 0 (R213). -/
def Sys.applyDue (ctx : Nat) (now : Int) (y : Sys) : Sys :=
  let due := y.duePend ctx now
  if due = [] then y
  else
    let y := { y with pend := y.pend.filter fun (p : Pend) => !(p.key == ctx && atOrAfter now p.at_) }
    let y := y.each due fun p y => y.applySet p.set
    if y.pend.any fun p => p.key == ctx then y else y.setInt (ctx + 1) 0

end Sys2Proof.Machine
end

