-- ==== Sys2Proof/Machine/Pll.lean ====
section
/-! DEFINITION. Band-table entries and what a PLL gives out (R324 to R327), and the quads a lane PLL serves (R326). -/

namespace Sys2Proof.Machine

/-- The frequency of a reference in Hz: 0 REFCLK_SYS, 1 to 3 REFCLK_LANE (R325, R327). -/
def refHz (r : Nat) : Nat := if r = 0 then 100000000 else 156250000

/-- Entry e of a band table as it is stored. -/
def entryOf (table : List Byte) (e : Nat) : Nat := leNat ((table.drop (8 * e)).take 8)

/-- VALID (R327). -/
def entryValid (w : Nat) : Bool := bit w 63

/-- POSTDIV (R327). -/
def entryPost (w : Nat) : Nat := bits w 39 32

/-- NINT + NFRAC / 2²⁴ in units of 2⁻²⁴ (R327). -/
def entryMul (w : Nat) : Nat := bits w 31 24 * 2 ^ 24 + bits w 23 0

/-- The VCO frequency in Hz, times 2²⁴ (R327). -/
def vco24 (ref w : Nat) : Nat := refHz ref * entryMul w

/-- The output in Hz, rounded down (R327). -/
def outHz (ref w : Nat) : Nat := if entryPost w = 0 then 0 else vco24 ref w / (2 ^ 24 * entryPost w)

/-- Whether an output lies within ±200 ppm of a frequency, exactly (R340). -/
def within200 (ref w hz : Nat) : Bool :=
  let o := vco24 ref w * 1000000
  let n := 2 ^ 24 * entryPost w * hz
  decide (o ≤ n * 1000200) && decide (n * 999800 ≤ o)

/-- Whether two entries' outputs lie within ±200 ppm of each other (R339). -/
def nearOutputs (a b : Nat) : Bool :=
  let x := entryMul a * entryPost b * 1000000
  let z := entryMul b * entryPost a
  decide (x ≤ z * 1000200) && decide (z * 999800 ≤ x)

/-- The VCO range and POSTDIV of R327 for a PLL. -/
def entryFits (pll ref w : Nat) : Bool :=
  let v := vco24 ref w
  if 4 ≤ pll then
    decide (entryPost w = 1) && decide (24000000000 * 2 ^ 24 ≤ v) && decide (v ≤ 28000000000 * 2 ^ 24)
  else decide (1 ≤ entryPost w) && decide (entryPost w ≤ 64) && decide (2000000000 * 2 ^ 24 ≤ v) && decide (v ≤ 5000000000 * 2 ^ 24)

/-- The live entry of a PLL. -/
def Sys.liveEntry (y : Sys) (p : Nat) : Nat := entryOf (y.bytes (Ob.ClkBandTable p)) (y.nat (Ob.ClkBandSelect p))

/-- The output of the live entry (R341). -/
def Sys.pllHz (y : Sys) (p : Nat) : Nat := outHz (y.nat (Ob.ClkRefSel p)) (y.liveEntry p)

/-- The lane PLL of quad q of die d (R326, R341). -/
def Sys.quadPll (y : Sys) (d q : Nat) : Nat := 4 + y.nat (Ob.ClkQuadPll (3 * d + q))

/-- Whether a lane PLL runs in the PAM4 family (R326). -/
def Sys.pam4 (y : Sys) (p : Nat) : Bool := within200 (y.nat (Ob.ClkRefSel p)) (y.liveEntry p) 26562500000

/-- Whether a lane PLL runs in the NRZ family (R326). -/
def Sys.nrz (y : Sys) (p : Nat) : Bool := within200 (y.nat (Ob.ClkRefSel p)) (y.liveEntry p) 25781250000

/-- Whether every island of PLL p of die d runs on it: locked, and switched back (R335, R342). -/
def Sys.pllGood (y : Sys) (d p : Nat) : Bool := (y.pll d p).st == 0 || (y.pll d p).st == 1

/-- Whether an island of PLL p of die d runs on bypass (R332, R335). -/
def Sys.onBypass (y : Sys) (d p island : Nat) : Bool := (y.pll d p).st == 7 || (!y.pllGood d p && (y.pll d p).islands.contains island)

/-- The islands a PLL of a die feeds: six for PIPE, the quads for a lane PLL, one otherwise (R324, R326). -/
def Sys.islandsOf (y : Sys) (d p : Nat) : List Nat :=
  if p = 1 then [0, 1, 2, 3, 4, 5]
  else if 4 ≤ p then [0, 1, 2].filter fun q => y.quadPll d q == p
  else [0]

end Sys2Proof.Machine
end

