-- ==== Sys2Proof/Machine/Lanes.lean ====
section
/-! DEFINITION. Serial lanes and Ethernet ports: modes, bring-up, down conditions, the MAC, FEC counting and the eye scan
(13_serial_lanes.md). -/

namespace Sys2Proof.Machine

/-- The MAC rate of a port mode in bit/s (R346). -/
def modeRate (m : Nat) : Nat :=
  match m with
  | 1 => 400000000000
  | 2 => 200000000000
  | 3 => 200000000000
  | 4 => 100000000000
  | 5 => 100000000000
  | 6 => 100000000000
  | 7 => 50000000000
  | 8 => 25000000000
  | 9 => 10000000000
  | _ => 0

/-- How many lanes a port mode uses (R346). -/
def modeLanes (m : Nat) : Nat :=
  match m with
  | 1 => 4
  | 2 => 2
  | 3 => 4
  | 4 => 1
  | 5 => 2
  | 6 => 4
  | 7 => 1
  | 8 => 1
  | 9 => 1
  | _ => 0

/-- Whether a mode's lanes run PAM4 (R346). -/
def modePam4 (m : Nat) : Bool := m ∈ [1, 2, 3, 4, 5, 7]

/-- Whether a mode's lanes run at 106.25 Gb/s (R346, R367). -/
def modeFast (m : Nat) : Bool := m ∈ [1, 2, 4]

/-- Whether the first lane of a mode is aligned (R347). -/
def modeAligned (m p : Nat) : Bool := modeLanes m ≠ 0 && p % modeLanes m = 0

/-- Whether an enabled port runs RS-FEC (R346). -/
def Port.fec (x : Port) : Bool := x.mode ≠ 9 && x.mode ≠ 0 && (x.mode ≠ 8 || x.fec25 = 1)

/-- The lanes of a port as it was enabled. -/
def Sys.portLanes (y : Sys) (p : Nat) : List Nat := (List.range (modeLanes (y.port p).mode)).map fun i => p + i

/-- An enabled port (R348). -/
def Sys.portEnabled (y : Sys) (p : Nat) : Bool := y.flag (Ob.PortEnable p)

/-- The ports of the variant that are enabled. -/
def Sys.enabledPorts (y : Sys) : List Nat := (List.range (12 * y.part.dies)).filter y.portEnabled

/-- The enabled port a lane belongs to. -/
def Sys.lanePort (y : Sys) (l : Nat) : Option Nat := y.enabledPorts.find? fun p => (y.portLanes p).contains l

/-- The lane PLL of a port's quad. -/
def Sys.portPll (y : Sys) (p : Nat) : Nat := y.quadPll (portDie p) (p % 12 / 4)

/-- The MAC rate of the mode a port has or would take (R244, R346). -/
def Sys.portRate (y : Sys) (p : Nat) : Nat :=
  modeRate (if y.portEnabled p then (y.port p).mode else y.nat (Ob.PortMode p))

/-- End a running eye scan of a lane (R365). -/
def Sys.scanAbort (l : Nat) (y : Sys) : Sys :=
  if (y.lane l).scan.isSome then (y.onLane l fun x => { x with scan := none }).setInt (Ob.LnScanState l) 3 else y

/-- A lane goes to a state (R361: idle turns its transmitter off). -/
def Sys.laneTo (st l : Nat) (y : Sys) : Sys := (y.scanAbort l).onLane l fun x => { x with st := st, since := y.now, burstEnd := none }

/-- A lane leaves its burst for training, or for adaptation (R355, R356). -/
def Sys.laneOn (p l : Nat) (y : Sys) : Sys := y.laneTo (if (y.port p).medium = 1 then 3 else 2) l

/-- The last lane of a port has left its burst (R355, R357). -/
def Sys.afterBurst (p : Nat) (retrain : Bool) (y : Sys) : Sys :=
  y.onPort p fun x => { x with st := if x.aneg = 1 ∧ ¬retrain then 2 else 3, retrain := false, wait100 := none }

/-- The lanes of a port leave electrical idle, each with its fast-exit burst (R356). A burst of no length is no burst. -/
def Sys.startBurst (p : Nat) (retrain : Bool) (y : Sys) : Sys :=
  let y := y.onPort p fun x => { x with alignedAt := none, retrain := retrain, wait100 := none }
  let y := y.each (y.portLanes p) fun l y =>
    let n := y.nat (Ob.LnBurstLen l)
    if n = 0 then y.laneOn p l else (y.laneTo 1 l).onLane l fun x => { x with burstEnd := some (y.now + usU n) }
  if (y.portLanes p).all fun l => (y.lane l).st != 1 then y.afterBurst p retrain else y

/-- Every untimed packet queued on a port is discarded (R277). -/
def Sys.dropUntimed (p : Nat) (y : Sys) : Sys :=
  let mine := fun (q : Queue) => q.port == p && !q.timed
  let n := ((y.net.queues.filter mine).map fun q => q.pkts.length).foldl (· + ·) 0
  ({ y with net := { y.net with queues := y.net.queues.map fun q => if mine q then { q with pkts := [] } else q } }).bump
    (Ob.PortDownDrop p) n

/-- A port leaves state 5: event and count (R355); its untimed packets go (R277), and time bases whose ports are all down hold over
(R311). -/
def Sys.leaveUp (p st : Nat) (y : Sys) : Sys :=
  if (y.port p).st = 5 then
    let y := (y.onPort p fun x => { x with st := st, alignedAt := none }).dropUntimed p
    ((y.bump (Ob.PortLinkDowns p) 1).raise 0x0502 (portDie p) p).tbPortsDown
  else y.onPort p fun x => { x with st := st, alignedAt := none }

/-- A down condition that retrains every lane from the burst (R359, R360). -/
def Sys.downRetrain (p : Nat) (y : Sys) : Sys :=
  if (y.port p).st = 5 then (y.leaveUp p 6).startBurst p true else y

/-- A lane PLL of a die is lost: the lanes of its quads go idle and their ports wait for it (R337). -/
def Sys.lanePllLost (d p : Nat) (y : Sys) : Sys :=
  y.each (y.enabledPorts.filter fun q => portDie q == d && y.portPll q == p) fun q y =>
    (y.leaveUp q 1).each (y.portLanes q) fun l y => y.laneTo 0 l

/-- A quad's lane island runs on its PLL again: its ports begin with a burst (R335, R337, R355). -/
def Sys.quadBack (d q : Nat) (y : Sys) : Sys :=
  y.each (y.enabledPorts.filter fun p => portDie p == d && p % 12 / 4 == q && (y.port p).st == 1) fun p y =>
    y.startBurst p false

/-! ### Enable and disable (R348, R349) -/

/-- The checks of R348 in order. -/
def Sys.portChecks (y : Sys) (p : Nat) : List (Bool × Nat) :=
  let m := y.nat (Ob.PortMode p)
  let lanes := (List.range (modeLanes m)).map fun i => p + i
  [(m ≠ 0, 1), (modeAligned m p, 2),
   (!(y.enabledPorts.any fun q => q != p && lanes.any fun l => (y.portLanes q).contains l), 3),
   (if modePam4 m then y.pam4 (y.portPll p) else y.nrz (y.portPll p), 4),
   (y.nat (Ob.PortMedium p) ≠ 1 || y.nat (Ob.PortAneg p) = 0, 5)]

/-- Whether the lane clock of a port runs: its quad's lane PLL is locked, and the quad's island has switched back (R335, R355). -/
def Sys.quadRuns (y : Sys) (p : Nat) : Bool :=
  let d := portDie p
  let l := y.portPll p
  y.pllGood d l || ((y.pll d l).st == 5 && !(y.pll d l).islands.contains (p % 12 / 4))

/-- A write of 1 to PortEnable (R348, R355). -/
def Sys.portEnable (p : Nat) (y : Sys) : WriteRes :=
  if y.portEnabled p then accept y
  else
    match firstFail (y.portChecks p) with
    | some r => abortWith 4 (y.setInt (Ob.PortModeReason p) r)
    | none =>
      let y := y.onPort p fun x =>
        { x with st := 1, mode := y.nat (Ob.PortMode p), medium := y.nat (Ob.PortMedium p), aneg := y.nat (Ob.PortAneg p),
                 fec25 := y.nat (Ob.PortFec25 p), maxFrame := y.nat (Ob.PortMaxFrame p), wait100 := none, alignedAt := none,
                 losses := [], retrain := false, anegRaised := false }
      let y := y.setInt (Ob.PortEnable p) 1
      accept (if y.quadRuns p then y.startBurst p false else y)

/-- A write of 0 to PortEnable: at once the lanes go to electrical idle (R349, R361). -/
def Sys.portDisable (p : Nat) (y : Sys) : WriteRes :=
  if y.portEnabled p then
    let y := (y.leaveUp p 0).each (y.portLanes p) fun l y => y.laneTo 0 l
    accept (y.setInt (Ob.PortEnable p) 0)
  else accept y

/-! ### Bring-up (R355 to R360) -/

/-- SIGNAL_DETECT (R356). -/
def Sys.signalDetect (l : Nat) (y : Sys) : Sys := y.onLane l fun x => { x with sd := true }

/-- FAST_EXIT_BURST_END (R356): the lane goes on at once, and the port when its last lane's burst has ended. -/
def Sys.burstEnd (l : Nat) (y : Sys) : Sys :=
  match (y.lane l).burstEnd, y.lanePort l with
  | some e, some p =>
    if e ≤ y.now ∧ (y.lane l).st = 1 then
      let y := y.laneOn p l
      if (y.portLanes p).all fun k => (y.lane k).st != 1 then y.afterBurst p (y.port p).retrain else y
    else y
  | _, _ => y

/-- A negotiation that does not give the configured mode and FEC raises its event once per enable (R357). -/
def Sys.anegMismatch (p : Nat) (y : Sys) : Sys :=
  if (y.port p).anegRaised then y
  else (y.onPort p fun x => { x with anegRaised := true }).raise 0x0504 (portDie p) p

/-- AUTO_NEGOTIATION_PAGE (R357). -/
def Sys.anegPage (p mode : Nat) (fecSame : Bool) (y : Sys) : Sys :=
  if (y.port p).st = 2 then
    if mode = (y.port p).mode ∧ fecSame then
      (y.onPort p fun x => { x with st := 3 }).each (y.portLanes p) fun l y => y.onLane l fun x => { x with since := y.now }
    else y.anegMismatch p
  else y

/-- ANEG_TIMEOUT (R357): no page within 500 ms of the burst. -/
def Sys.anegTimeout (p : Nat) (y : Sys) : Sys :=
  if (y.port p).st = 2 ∧ (y.lane p).since + msU 500 ≤ y.now then y.anegMismatch p else y

/-- TRAINING_DONE (R358): precoding and the transmit FIR as the start-up protocol settled them; receiver adaptation takes
20 ms. -/
def Sys.trainingDone (l : Nat) (partnerAsks tapHigh partnerGrants : Bool) (fir snr : Nat) (y : Sys) : Sys :=
  match y.lanePort l with
  | none => y
  | some p =>
    let x := y.port p
    let ln := y.lane l
    if x.st = 3 ∧ ln.st = 2 ∨ x.st = 3 ∧ ln.st = 3 ∧ ln.since + msU 20 ≤ y.now then
      let pam := modePam4 x.mode
      let req := y.nat (Ob.LnPrecodeReq l)
      let tx := pam && (if ln.st = 2 then partnerAsks else y.flag (Ob.LnPrecodeTx l))
      let rx := pam && (if ln.st = 2 then (req == 1 || (req == 2 && tapHigh)) && partnerGrants else y.flag (Ob.LnPrecodeRx l))
      let live := if ln.st = 2 then fir else y.nat (Ob.LnTxFir l)
      let y := ((y.setInt (Ob.LnPrecodeState l) ((if tx then 2 else 0) + (if rx then 1 else 0))).setInt
        (Ob.LnTxFirLive l) live).setInt (Ob.LnSnr l) snr
      let y := (if ln.st = 2 then y.bump (Ob.LnTrainCount l) 1 else y).onLane l fun x => { x with st := 4 }
      if (y.portLanes p).all fun k => (y.lane k).st == 4 then y.onPort p fun x => { x with st := 4, alignedAt := none } else y
    else y

/-- TRAINING_TIMEOUT (R358): 3 s without an end. Each lane that has not finished is counted; all lanes wait idle for 100 ms. -/
def Sys.trainingTimeout (l : Nat) (y : Sys) : Sys :=
  match y.lanePort l with
  | none => y
  | some p =>
    if (y.port p).st = 3 ∧ (y.lane l).st = 2 ∧ (y.lane l).since + secU 3 ≤ y.now then
      let late := (y.portLanes p).filter fun k => decide ((y.lane k).st = 2 ∧ (y.lane k).since + secU 3 ≤ y.now)
      let y := (y.each late fun k y => y.bump (Ob.LnTrainFails k) 1).each (y.portLanes p) fun k y => y.laneTo 5 k
      let first := !(y.port p).trainRaised
      let y := y.onPort p fun x => { x with trainRaised := true, wait100 := some (y.now + msU 100) }
      if first then y.raise 0x0503 (portDie p) l else y
    else y

/-- TRAINING_RETRY (R358): the lanes begin again with a burst. -/
def Sys.trainingRetry (p : Nat) (y : Sys) : Sys :=
  match (y.port p).wait100 with
  | some t => if t ≤ y.now then y.startBurst p true else y
  | none => y

/-- ALIGNMENT_LOCK (R355). -/
def Sys.alignmentLock (p : Nat) (y : Sys) : Sys :=
  if (y.port p).st = 4 then y.onPort p fun x => { x with alignedAt := some y.now } else y

/-- ALIGNMENT_HELD (R359): 1 ms held brings the port up. -/
def Sys.alignmentHeld (p : Nat) (y : Sys) : Sys :=
  match (y.port p).alignedAt with
  | some t =>
    if (y.port p).st = 4 ∧ t + msU 1 ≤ y.now then
      (y.onPort p fun x => { x with st := 5, trainRaised := false }).raise 0x0501 (portDie p) p
    else y
  | none => y

/-- SIGNAL_DETECT_LOSS (R359): a port that is up goes down, and one that aligns has lost more than its alignment, so that it retrains
(R360, log entry 77). -/
def Sys.signalLoss (l : Nat) (y : Sys) : Sys :=
  let y := y.onLane l fun x => { x with sd := false }
  match y.lanePort l with
  | some p =>
    if (y.port p).st = 4 then (y.onPort p fun x => { x with st := 6 }).startBurst p true else y.downRetrain p
  | none => y

/-- ALIGNMENT_LOSS (R359, R360): realign without retraining, but retrain after three within 1 s. -/
def Sys.alignmentLoss (p : Nat) (y : Sys) : Sys :=
  if (y.port p).st = 5 then
    let ls := y.now :: (y.port p).losses.filter fun t => decide (y.now < t + secU 1)
    let y := y.onPort p fun x => { x with losses := ls }
    if 3 ≤ ls.length then (y.onPort p fun x => { x with losses := [] }).downRetrain p
    else if (y.portLanes p).all fun l => (y.lane l).sd then y.leaveUp p 4
    else y.downRetrain p
  else if (y.port p).st = 4 then y.onPort p fun x => { x with alignedAt := none }
  else y

/-- UNCORRECTABLE_WINDOW (R359): more than 1 % of the codewords of a 1 ms window; while aligning, any bad codeword restarts
the hold. -/
def Sys.badWindow (p codewords bad : Nat) (y : Sys) : Sys :=
  if (y.port p).fec then
    if (y.port p).st = 5 ∧ codewords < 100 * bad then y.downRetrain p
    else if (y.port p).st = 4 ∧ 0 < bad ∧ (y.port p).alignedAt.isSome then
      y.onPort p fun x => { x with alignedAt := some y.now }
    else y
  else y

/-! ### MAC (R351, R352) -/

/-- The group MAC address of an IPv6 or mapped IPv4 multicast address (R352). -/
def groupMac (a : Nat) : Nat :=
  if a / 2 ^ 32 = 0xFFFF then 0x01005E000000 + a % 2 ^ 23 else 0x333300000000 + a % 2 ^ 32

/-- The addresses PTP joins (R307). -/
def ptpGroups : List Nat := [0xFFFFE0000181, 0xFF0E0000000000000000000000000181]

/-- Whether a time base uses a port for PTP. -/
def Sys.ptpPort (y : Sys) (p : Nat) : Bool :=
  (List.range 8).any fun b => y.tbCfg b (Ob.TbRefMode b) == 1 && (y.tbPorts b).contains p

/-- Whether the MAC takes a destination address: its own, broadcast (for ARP, R352), a joined group, PTP's, or the
solicited-node group of its IPv6 address (log entry 12). -/
def Sys.macTakes (y : Sys) (p dst : Nat) : Bool :=
  if dst / 2 ^ 40 % 2 = 0 then dst == beNat (y.bytes (Ob.PortMacAddr p))
  else
    dst == 2 ^ 48 - 1 ||
    (y.net.groups.any fun g => g.1 == p && groupMac g.2 == dst) ||
    (y.ptpPort p && ptpGroups.any fun g => groupMac g == dst) ||
    dst == 0x3333FF000000 + beNat (y.bytes (Ob.PortIpv6 p)) % 2 ^ 24

/-- FRAME_RX (R351, R353): a frame with a byte in an uncorrectable codeword counts as an FCS error. -/
def Sys.frameRx (p : Nat) (f : EthFrame) (y : Sys) : Sys :=
  if y.portUp p then
    if f.bytes < 64 ∨ (y.port p).maxFrame + (if f.tagged then 4 else 0) < f.bytes then y.bump (Ob.PortRxLenErr p) 1
    else if f.fecBad ∨ ¬f.fcsOk then y.bump (Ob.PortRxFcsErr p) 1
    else if f.etherType = 0x8808 ∨ ¬y.macTakes p f.dst then y.bump (Ob.PortRxCtlDiscard p) 1
    else y.bump (Ob.PortRxFrames p) 1
  else y

/-- The IPv4 or IPv6 address of a port, or of the management port, as a number; 0 is off (R352, R448). -/
def Sys.ownAddr (y : Sys) (port : Option Nat) (v6 : Bool) : Nat :=
  match port with
  | some p => beNat (y.bytes (if v6 then Ob.PortIpv6 p else Ob.PortIpv4 p))
  | none => beNat (y.bytes (if v6 then Ob.MgmtIpv6 else Ob.MgmtIpv4))

/-- Whether a port, or the management port, can answer. -/
def Sys.canAnswer (y : Sys) (port : Option Nat) : Bool :=
  match port with
  | some p => y.portUp p
  | none => y.alive && y.mgmt.linkUp

/-! ### FEC (R353, R354) -/

/-- FEC_SECOND (R353, R354): the counters and the symbol error ratio of the second. -/
def Sys.fecSecond (p received corrected uncorrected : Nat) (symbols : List Nat) (y : Sys) : Sys :=
  if y.portEnabled p ∧ (y.port p).fec then
    let n := symbols.foldl (· + ·) 0
    let y := ((y.bump (Ob.FecCorrectedCw p) corrected).bump (Ob.FecUncorrectedCw p) uncorrected).bump (Ob.FecSymbolErrors p) n
    let y := y.each ((y.portLanes p).zip symbols) fun e y => y.bump (Ob.LnFecSymErr e.1) e.2
    let y := y.setInt (Ob.FecSer p) (if received = 0 then 0 else n * 10 ^ 12 / received : Nat)
    if received < n * 10 ^ y.nat (Ob.PortFecDegrade p) then
      let fire := 3 ≤ (y.port p).fecUnder
      let y := y.onPort p fun x => { x with fecUnder := 0 }
      if fire then y.raise 0x0505 (portDie p) p else y
    else y.onPort p fun x => { x with fecUnder := min 3 (x.fecUnder + 1) }
  else y

/-! ### Eye scan (R363 to R365) -/

/-- How many steps a range has. -/
def stepsIn (lo hi : Int) (step : Nat) : Nat := if lo ≤ hi ∧ 0 < step then ((hi - lo) / step).toNat + 1 else 0

/-- A write of 1 to LnScanStart (R365). NRZ lanes accept the middle eye only (log entry 12). -/
def Sys.scanStart (l : Nat) (y : Sys) : WriteRes :=
  let ok := (y.lane l).scan.isNone && (y.lane l).st == 4 &&
    decide (y.int (Ob.LnScanPhaseMin l) ≤ y.int (Ob.LnScanPhaseMax l)) &&
    decide (y.int (Ob.LnScanVoltMin l) ≤ y.int (Ob.LnScanVoltMax l)) &&
    decide (-32 ≤ y.int (Ob.LnScanPhaseMin l) ∧ y.int (Ob.LnScanPhaseMax l) ≤ 31) &&
    decide (-64 ≤ y.int (Ob.LnScanVoltMin l) ∧ y.int (Ob.LnScanVoltMax l) ≤ 63) &&
    decide (16 ≤ y.nat (Ob.LnScanDwell l) ∧ y.nat (Ob.LnScanDwell l) ≤ 34) &&
    (y.nat (Ob.LnScanEye l) == 1 || match y.lanePort l with
      | some p => modePam4 (y.port p).mode
      | none => false)
  if ok then
    let n := stepsIn (y.int (Ob.LnScanPhaseMin l)) (y.int (Ob.LnScanPhaseMax l)) (y.nat (Ob.LnScanPhaseStep l)) *
      stepsIn (y.int (Ob.LnScanVoltMin l)) (y.int (Ob.LnScanVoltMax l)) (y.nat (Ob.LnScanVoltStep l))
    accept (((y.onLane l fun x => { x with scan := some (0, n), recs := [] }).setInt (Ob.LnScanState l) 1).setInt
      (Ob.LnScanPoints l) 0)
  else abortWith 4 y

/-- EYE_SCAN_POINT_DONE (R364): the point's record is written, and the last one ends the scan. -/
def Sys.scanPoint (l eligible mismatches : Nat) (y : Sys) : Sys :=
  match (y.lane l).scan with
  | none => y
  | some (i, n) =>
    let r := eligible / 1024 % 2 ^ 26 * 2 ^ 38 + mismatches % 2 ^ 38
    let done := n ≤ i + 1
    let y := y.onLane l fun x => { x with scan := if done then none else some (i + 1, n), recs := x.recs ++ [r] }
    let y := y.setInt (Ob.LnScanPoints l) (i + 1 : Nat)
    if done then (y.setInt (Ob.LnScanState l) 2).raise 0x0507 (portDie l) l else y

/-- Whether a transmit FIR may be written to a lane (R367). -/
def Sys.firOk (y : Sys) (l v : Nat) : Bool :=
  let tap := fun i => toSigned 1 (bits v (8 * i + 7) (8 * i))
  let sum := ((List.range 5).map fun i => (tap i).natAbs).foldl (· + ·) 0
  let slow := match y.lanePort l with
    | some p => !modeFast (y.port p).mode
    | none => false
  decide (sum ≤ 64) && decide (32 ≤ tap 1) && (!slow || (tap 3 == 0 && tap 4 == 0))

/-! ### The commands -/

/-- SIGNAL_DETECT (R356). -/
def execSignalDetect (dt lane : Nat) (s : State) : Res := act dt (Sys.signalDetect lane) s

/-- FAST_EXIT_BURST_END (R356). -/
def execFastExitBurstEnd (dt lane : Nat) (s : State) : Res := act dt (Sys.burstEnd lane) s

/-- AUTO_NEGOTIATION_PAGE (R357). -/
def execAutoNegotiationPage (dt port mode : Nat) (fecSame : Bool) (s : State) : Res := act dt (Sys.anegPage port mode fecSame) s

/-- ANEG_TIMEOUT (R357). -/
def execAnegTimeout (dt port : Nat) (s : State) : Res := act dt (Sys.anegTimeout port) s

/-- TRAINING_DONE (R358). -/
def execTrainingDone (dt lane : Nat) (partnerAsks tapHigh partnerGrants : Bool) (fir snr : Nat) (s : State) : Res :=
  act dt (Sys.trainingDone lane partnerAsks tapHigh partnerGrants fir snr) s

/-- TRAINING_TIMEOUT (R358). -/
def execTrainingTimeout (dt lane : Nat) (s : State) : Res := act dt (Sys.trainingTimeout lane) s

/-- TRAINING_RETRY (R358). -/
def execTrainingRetry (dt port : Nat) (s : State) : Res := act dt (Sys.trainingRetry port) s

/-- ALIGNMENT_LOCK (R355). -/
def execAlignmentLock (dt port : Nat) (s : State) : Res := act dt (Sys.alignmentLock port) s

/-- ALIGNMENT_HELD (R359). -/
def execAlignmentHeld (dt port : Nat) (s : State) : Res := act dt (Sys.alignmentHeld port) s

/-- SIGNAL_DETECT_LOSS (R359). -/
def execSignalDetectLoss (dt lane : Nat) (s : State) : Res := act dt (Sys.signalLoss lane) s

/-- ALIGNMENT_LOSS (R360). -/
def execAlignmentLoss (dt port : Nat) (s : State) : Res := act dt (Sys.alignmentLoss port) s

/-- UNCORRECTABLE_WINDOW (R359). -/
def execUncorrectableWindow (dt port codewords bad : Nat) (s : State) : Res := act dt (Sys.badWindow port codewords bad) s

/-- FRAME_RX (R351). -/
def execFrameRx (dt port : Nat) (frame : EthFrame) (s : State) : Res := act dt (Sys.frameRx port frame) s

/-- FEC_SECOND (R354). -/
def execFecSecond (dt port received corrected uncorrected : Nat) (symbols : List Nat) (s : State) : Res :=
  act dt (Sys.fecSecond port received corrected uncorrected symbols) s

/-- EYE_SCAN_POINT_DONE (R364). -/
def execEyeScanPointDone (dt lane eligible mismatches : Nat) (s : State) : Res := act dt (Sys.scanPoint lane eligible mismatches) s

end Sys2Proof.Machine
end

