-- ==== Sys2Proof/Machine/Clocks.lean ====
section
/-! DEFINITION. PLLs: losses, bypass, relock, switch-back, calibration and commits (12_clocking.md). -/

namespace Sys2Proof.Machine

/-! ### Pipelines and their clock (R51, R61, R99, R101) -/

/-- The column of a row of a frame. -/
def Frame.row (fr : Frame) (r : Nat) : Row := Tab.find (fun _ => {}) fr.rows r
def Row.col (w : Row) (c : Nat) : Col := Tab.find (fun _ => {}) w.cols c
def Row.setCol (c : Nat) (x : Col) (w : Row) : Row := { w with cols := Tab.put (fun _ => {}) w.cols c x }
def Frame.setRow (r : Nat) (w : Row) (fr : Frame) : Frame := { fr with rows := Tab.put (fun _ => {}) fr.rows r w }
def Frame.onRow (r : Nat) (f : Row → Row) (fr : Frame) : Frame := fr.setRow r (f (fr.row r))
def Frame.onCol (r c : Nat) (f : Col → Col) (fr : Frame) : Frame := fr.onRow r fun w => w.setCol c (f (w.col c))

/-- The positions that code frame k of a channel (R61): those before a change of pipeline or die, for the frames before it. -/
def Chan.pipesAt (c : Chan) (k : Int) : List (Nat × Nat) :=
  match c.movedK with
  | some m => if k < m then c.oldPipes else c.pipes
  | none => c.pipes

/-- The physical pipeline that codes the columns of a position in frame k of a channel: during a handover the streams not yet moved
stay on the outgoing one (R61, R502). -/
def Sys.pipeOf (y : Sys) (n : Nat) (k : Int) (d pos : Nat) : Nat :=
  let c := y.chan n
  let x := y.die d
  let after : Bool := match c.movedK with
    | some m => decide (m ≤ k)
    | none => true
  if c.handover.any fun h => h.1 == d && h.2.1 == pos then x.map.getD pos 15
  else match x.leaving with
    | some (q, inc, out) => if q = pos then (if after then inc else out) else x.map.getD pos 15
    | none => x.map.getD pos 15

/-- The clock of a pipeline island in Hz (R51): bypass, or the PLL under thermal limiting (R34). -/
def Sys.pipeHz (y : Sys) (d phys : Nat) : Nat :=
  let x := y.pll d 1
  if y.onBypass d 1 phys then 100000000
  else outHz x.ref (entryOf (y.bytes (Ob.ClkBandTable 1)) x.entry) * (y.die d).sens.clock16 / 16

/-- Cycles of a clock in a duration, rounded down. -/
def cyclesIn (hz u : Nat) : Nat := u * hz / 65536000000000

/-- The clock of the pipelines of a die is about to change: the cycles done of each CTU in progress are noted (R52). -/
def Sys.pipeTick (d : Nat) (y : Sys) : Sys :=
  y.each y.activeChans fun n y =>
    let c := y.chan n
    let tick := fun (fr : Frame) => ((c.pipesAt fr.k).zipIdx).foldl (fun (fr : Frame) e =>
      if e.1.1 = d then
        let hz := y.pipeHz d (y.pipeOf n fr.k d e.1.2)
        { fr with rows := fr.rows.map fun r =>
            let x := r.2.col e.2
            if x.started && !x.done then
              (r.1, r.2.setCol e.2 { x with cycles := x.cycles + cyclesIn hz (y.now - x.at_), at_ := y.now })
            else r }
      else fr) fr
    y.setChan n { c with frames := c.frames.map tick }

/-! ### Losses and attempts (R331 to R336) -/

/-- Put islands of a PLL on bypass (R332): an interval of bypass begins unless one is open. -/
def Sys.pllBypass (d p st : Nat) (y : Sys) : Sys :=
  let isl := y.islandsOf d p
  let y := if p = 1 then y.pipeTick d else y
  let y := y.onPll d p fun x =>
    { x with st := st, islands := isl, attempt := none, lockedAt := none, settleAt := none,
             bypassFrom := match x.bypassFrom with
               | some t => some t
               | none => some y.now }
  let y := if p = 2 then y.onDie d fun x => { x with dram := { x.dram with bypass := true } } else y
  if 4 ≤ p then y.lanePllLost d p else y

/-- A loss puts the islands on bypass and starts the settle of 200 µs (R332, R334). -/
def Sys.pllLoss (d p st : Nat) (y : Sys) : Sys :=
  (y.pllBypass d p st).onPll d p fun x => { x with settleAt := some (y.now + usU 200) }

/-- Start a lock attempt: choose the reference and entry (R334 step 2), or wait for a reference (step 3). -/
def Sys.pllAttempt (d p : Nat) (y : Sys) : Sys :=
  let x := y.pll d p
  let sel := y.nat (Ob.ClkRefSel p)
  let altRef := y.nat (Ob.ClkRefAlt p)
  if x.refs.contains sel then
    y.onPll d p fun x => { x with st := 4, attempt := some y.now, lockedAt := none, settleAt := none, ref := sel,
                                  entry := y.nat (Ob.ClkBandSelect p), alt := false }
  else if altRef ≠ 255 ∧ x.refs.contains altRef ∧ y.nat (Ob.ClkBandSelectAlt p) ≠ 255 then
    y.onPll d p fun x => { x with st := 4, attempt := some y.now, lockedAt := none, settleAt := none, ref := altRef,
                                  entry := y.nat (Ob.ClkBandSelectAlt p), alt := true }
  else y.onPll d p fun x => { x with st := if x.st = 2 then 2 else 3, attempt := none, lockedAt := none, settleAt := none }

/-- An attempt fails: after eight in a row the PLL is failed, else the next begins at once (R334, R336). -/
def Sys.attemptFails (d p : Nat) (y : Sys) : Sys :=
  let n := (y.pll d p).fails + 1
  let y := y.onPll d p fun x => { x with fails := n, attempt := none, lockedAt := none }
  if 8 ≤ n then (y.onPll d p fun x => { x with st := 8 }).raise 0x0305 d p else y.pllAttempt d p

/-- PLL_LOCK_LOST (R332, R334): during a confirmation the attempt fails instead. -/
def Sys.lockLost (d p : Nat) (y : Sys) : Sys :=
  match (y.pll d p).st with
  | 0 | 1 | 5 => ((y.pllLoss d p 2).bump (Ob.ClkLockLossCount p) 1).raise 0x0301 d p
  | 4 => if (y.pll d p).lockedAt.isSome then y.attemptFails d p else y
  | _ => y

/-- The calibration run moves on, or stops (R329): the next die, the result, and the next request. -/
def Sys.calStart (y : Sys) : Sys :=
  match y.clk.run, y.clk.queue with
  | none, (p, e) :: rest =>
    let y := { y with clk := { y.clk with queue := rest, run := some (p, e, 0) } }
    y.pllBypass 0 p 6
  | _, _ => y

/-- The result of calibrating an entry on a die. -/
def Sys.cal (y : Sys) (d p e : Nat) : Option (Nat × Nat) := Tab.find (fun _ => none) y.clk.cal ((8 * d + p) * 32 + e)

def Sys.setCal (d p e : Nat) (v : Option (Nat × Nat)) (y : Sys) : Sys :=
  { y with clk := { y.clk with cal := Tab.put (fun _ => none) y.clk.cal ((8 * d + p) * 32 + e) v } }

/-- Calibration fails (R329): the run stops and CALOK stays 0 (log entry 76). -/
def Sys.calFail (y : Sys) : Sys :=
  match y.clk.run with
  | some (p, e, d) =>
    (({ y with clk := { y.clk with run := none } }.setCal d p e none).raise 0x0307 d (p * 256 + e)).calStart
  | none => y

/-- PLL_REF_LOST (R331, R332, R334). -/
def Sys.refLost (d p r : Nat) (y : Sys) : Sys :=
  let y := y.onPll d p fun x => { x with refs := x.refs.filter fun q => q != r }
  let x := y.pll d p
  if x.ref = r then
    match x.st with
    | 0 | 1 | 4 | 5 => ((y.pllLoss d p 3).bump (Ob.ClkRefLossCount p) 1).raise 0x0302 d p
    | 6 =>
      let y := ((y.pllLoss d p 3).bump (Ob.ClkRefLossCount p) 1).raise 0x0302 d p
      match y.clk.run with
      | some (q, _, k) => if q = p ∧ k = d then y.calFail else y
      | none => y
    | _ => y
  else y

/-- RELOCK_SETTLE_END (R334). -/
def Sys.settleOver (d p : Nat) (y : Sys) : Sys :=
  match (y.pll d p).settleAt with
  | some t => if t ≤ y.now then y.pllAttempt d p else y
  | none => y

/-- REFERENCE_RETURN (R334 step 3): the settle begins again. -/
def Sys.refReturn (d p r : Nat) (y : Sys) : Sys :=
  y.onPll d p fun x =>
    { x with refs := if x.refs.contains r then x.refs else x.refs ++ [r],
             settleAt := if (x.st = 2 ∨ x.st = 3) ∧ x.settleAt.isNone then some (y.now + usU 200) else x.settleAt }

/-- LOCK_ACHIEVED (R334). -/
def Sys.lockAchieved (d p : Nat) (y : Sys) : Sys :=
  let x := y.pll d p
  match x.attempt with
  | some t => if x.st = 4 ∧ x.lockedAt.isNone ∧ y.now ≤ t + usU 150 then y.onPll d p fun x => { x with lockedAt := some y.now } else y
  | none => y

/-- LOCK_ATTEMPT_TIMEOUT (R334): no lock within 150 µs. -/
def Sys.lockTimeout (d p : Nat) (y : Sys) : Sys :=
  let x := y.pll d p
  match x.attempt with
  | some t => if x.st = 4 ∧ x.lockedAt.isNone ∧ t + usU 150 ≤ y.now then y.attemptFails d p else y
  | none => y

/-- LOCK_CONFIRMED (R334): 100 µs held; the islands may switch back. -/
def Sys.lockConfirmed (d p : Nat) (y : Sys) : Sys :=
  let x := y.pll d p
  match x.lockedAt with
  | some t =>
    if x.st = 4 ∧ t + usU 100 ≤ y.now then
      let y := y.onPll d p fun x => { x with st := 5, fails := 0, attempt := none, lockedAt := none }
      (y.bump (Ob.ClkRelockCount p) 1).raise 0x0303 d p
    else y
  | none => y

/-- Whether a physical pipeline of a die is in the middle of a row. -/
def Sys.pipeBusy (y : Sys) (d phys : Nat) : Bool :=
  y.activeChans.any fun n =>
    let c := y.chan n
    c.frames.any fun fr => ((c.pipesAt fr.k).zipIdx).any fun q =>
      q.1.1 == d && y.pipeOf n fr.k d q.1.2 == phys &&
      fr.rows.any fun r => let x := r.2.col q.2; x.started && !x.done

/-- The nanoseconds of a bypass interval. -/
def nsOf (u : Nat) : Nat := u / 65536

/-- The memory island of a die runs on its PLL again (R385 step 3, R386): an accepted rate becomes live, and when no die has
one left to make live the package's rate has changed. -/
def Sys.dramBack (d : Nat) (y : Sys) : Sys :=
  let x := (y.die d).dram
  let y := y.onDie d fun x => { x with dram := { x.dram with bypass := false, rate := x.dram.next.getD x.dram.rate, next := none } }
  match x.next with
  | some r =>
    if y.dieList.any fun e => ((y.die e).dram.next).isSome then y
    else (y.setInt Ob.MemRateLive r).raise 0x0607 0 r
  | none => y

/-- ISLAND_SWITCH_BACK (R335): a pipeline island between two rows; after the last island the PLL's fields read 0 or 1. -/
def Sys.islandBack (d p island : Nat) (y : Sys) : Sys :=
  let x := y.pll d p
  if x.st = 5 ∧ x.islands.contains island ∧ ¬(p = 1 ∧ island < 5 ∧ y.pipeBusy d island) then
    let rest := x.islands.filter fun i => i != island
    let y := if p = 1 then y.pipeTick d else y
    let y := y.onPll d p fun x => { x with islands := rest }
    let y := if 4 ≤ p then y.quadBack d island else if p = 2 then y.dramBack d else y
    if rest = [] then
      let spent := match x.bypassFrom with
        | some t => nsOf (y.now - t)
        | none => 0
      (y.onPll d p fun x => { x with st := if x.alt then 1 else 0, bypassFrom := none, bypassNs := x.bypassNs + spent }).raise
        0x0304 d p
    else y
  else y

/-- Nanoseconds on bypass since reset, over all dies (R341). -/
def Sys.bypassTime (y : Sys) (p : Nat) : Nat :=
  (y.dieList.map fun d =>
    let x := y.pll d p
    x.bypassNs + match x.bypassFrom with
      | some t => nsOf (y.now - t)
      | none => 0).foldl (· + ·) 0

/-! ### Calibration (R327 to R329) -/

/-- CALOK: calibrated on every die (R327). -/
def Sys.calOk (y : Sys) (p e : Nat) : Bool := y.dieList.all fun d => (y.cal d p e).isSome

/-- An entry as a read of the band table shows it, with CALOK, BAND and CAP (R327). -/
def Sys.entryShown (y : Sys) (p e : Nat) : Nat :=
  let w := entryOf (y.bytes (Ob.ClkBandTable p)) e
  let c := (y.cal 0 p e).getD (0, 0)
  setBits (setBits (setBits w 62 62 (if y.calOk p e then 1 else 0)) 59 56 c.1) 55 48 c.2

/-- A read of the band table. -/
def Sys.bandTableShown (y : Sys) (p : Nat) : List Byte := (List.range 32).flatMap fun e => leBytes 8 (y.entryShown p e)

/-- Whether an enabled port uses a quad that a lane PLL serves. -/
def Sys.lanePllUsed (y : Sys) (p : Nat) : Bool := y.enabledPorts.any fun q => y.portPll q == p

/-- A write of e to ClkBandCal (R329). -/
def Sys.bandCal (p e : Nat) (y : Sys) : WriteRes :=
  if 4 ≤ p ∧ y.lanePllUsed p then abortWith 4 y
  else if y.clk.queue.contains (p, e) then accept y
  else accept { y with clk := { y.clk with queue := y.clk.queue ++ [(p, e)] } }.calStart

/-- A run ends on a die (R329): the PLL relocks on its live entry, and one on its alternate stays there (R334). A failed PLL stays failed
(R336), and one without its reference waits for it. -/
def Sys.calBack (d p : Nat) (here : Bool) (y : Sys) : Sys :=
  y.onPll d p fun x =>
    { x with st := if 8 ≤ x.fails then 8 else if here then 5 else 3, ref := if x.alt then x.ref else y.nat (Ob.ClkRefSel p),
             entry := if x.alt then x.entry else y.nat (Ob.ClkBandSelect p) }

/-- BAND_CAL_RUN_COMPLETE (R329): a run on one die ends with BAND and CAP; it stops when no band is found or the reference is absent. -/
def Sys.calDone (found : Option (Nat × Nat)) (y : Sys) : Sys :=
  match y.clk.run with
  | none => y
  | some (p, e, d) =>
    let x := y.pll d p
    let here := x.refs.contains (if x.alt then x.ref else y.nat (Ob.ClkRefSel p))
    let y := y.calBack d p here
    match (if here then found else none) with
    | none => y.calFail
    | some r =>
      let y := y.setCal d p e (some (r.1 % 16, r.2 % 256))
      if d + 1 < y.part.dies then
        { y with clk := { y.clk with run := some (p, e, d + 1) } }.pllBypass (d + 1) p 6
      else ({ y with clk := { y.clk with run := none } }.raise 0x0306 0 (p * 256 + e)).calStart

/-- The entries of a PLL in live use, or named by a pending commit (R328). -/
def Sys.entriesHeld (y : Sys) (p : Nat) : List Nat :=
  [y.nat (Ob.ClkBandSelect p), y.nat (Ob.ClkBandSelectAlt p)] ++ (y.dieList.map fun d => (y.pll d p).entry) ++
  (y.pend.filter fun q => q.key == Ob.ClkCommit p).flatMap fun q =>
    [(y.ofSet q.set (Ob.ClkBandSelect p)).nat, (y.ofSet q.set (Ob.ClkBandSelectAlt p)).nat]

/-- The bits of an entry that software writes (R327). -/
def entryWritable (w : Nat) : Nat := setBits (setBits w 62 62 0) 61 48 0

/-- A write to ClkBandTable (R328): entries held must keep their bytes; a changed entry loses its calibration. -/
def Sys.bandTableWrite (p : Nat) (data : List Byte) (y : Sys) : WriteRes :=
  if data.length ≠ 256 then abortWith 4 y
  else if (y.entriesHeld p).any fun e => e < 32 && entryOf data e != y.entryShown p e then abortWith 4 y
  else
    let old := y.bytes (Ob.ClkBandTable p)
    let changed := (List.range 32).filter fun e => entryWritable (entryOf data e) != entryWritable (entryOf old e)
    let y := y.setBytes (Ob.ClkBandTable p) ((List.range 32).flatMap fun e => leBytes 8 (entryWritable (entryOf data e)))
    accept (y.each changed fun e y => y.each y.dieList fun d y => y.setCal d p e none)

/-- A write of 1 to ClkRetry (R336): every die where the PLL is failed begins at step 2. -/
def Sys.clkRetry (p : Nat) (y : Sys) : WriteRes :=
  accept (y.each (y.dieList.filter fun d => (y.pll d p).st == 8) fun d y =>
    (y.onPll d p fun x => { x with fails := 0 }).pllAttempt d p)

/-! ### Commits (R339, R340) -/

/-- The shadows a commit of PLL p covers: its own, and for a lane PLL every ClkQuadPll (R339). -/
def clkOwns (p k : Nat) : Bool :=
  k / 256 == 0x3800 + p && decide (1 ≤ k % 256) && decide (k % 256 ≤ 4) || decide (4 ≤ p) && k / 256 == 0x3810

/-- The quads of the package with their lane PLL under a set of values. -/
def Sys.quadsUnder (y : Sys) (f : Nat → Val) : List (Nat × Nat) :=
  (List.range (3 * y.part.dies)).map fun i => (i, 4 + (f (Ob.ClkQuadPll i)).nat)

/-- The checks of R340 in order. -/
def Sys.clkChecks (y : Sys) (p : Nat) : List (Bool × Nat) :=
  let v := fun k => (y.checkVal (clkOwns p) k).nat
  let table := y.bytes (Ob.ClkBandTable p)
  let sel := v (Ob.ClkBandSelect p)
  let alt := v (Ob.ClkBandSelectAlt p)
  let named := if alt = 255 then [sel] else [sel, alt]
  let pairs := if alt = 255 then [(v (Ob.ClkRefSel p), sel)] else [(v (Ob.ClkRefSel p), sel), (v (Ob.ClkRefAlt p), alt)]
  let refOk := fun r => r == 255 || (if 4 ≤ p then decide (1 ≤ r ∧ r ≤ 3) else decide (r ≤ 3))
  let freqOk := fun (r e : Nat) =>
    let w := entryOf table e
    r == 255 || (entryFits p r w &&
      (if 4 ≤ p then within200 r w 26562500000 || within200 r w 25781250000
       else p == 2 || within200 r w (nominalHz p)))
  let before := y.quadsUnder y.val
  let after := y.quadsUnder fun k => y.checkVal (clkOwns p) k
  let moved := (before.zip after).filter fun q => q.1.2 != q.2.2
  let ownChange := [Ob.ClkRefSel p, Ob.ClkRefAlt p, Ob.ClkBandSelect p, Ob.ClkBandSelectAlt p].any fun k => y.checkVal (clkOwns p) k != y.val k
  let quadUsed := fun (i : Nat) => y.enabledPorts.any fun q => q / 4 == i
  [(named.all fun e => entryValid (entryOf table e) && y.calOk p e, 0x0320),
   (refOk (v (Ob.ClkRefSel p)) && v (Ob.ClkRefSel p) != 255 && refOk (v (Ob.ClkRefAlt p)) && pairs.all fun q => freqOk q.1 q.2, 0x0321),
   (p != 2 || sel == y.nat (Ob.ClkBandSelect p), 0x0322),
   (decide (p < 4) || !((moved.any fun q => quadUsed q.1.1) ||
      (ownChange && (before ++ after).any fun q => q.2 == p && quadUsed q.1)), 0x0323)]

/-- A write of 1 to ClkCommit (R339): the boundary is 250 µs ahead on D0's free-running clock. -/
def Sys.clkCommit (p : Nat) (y : Sys) : WriteRes :=
  match firstFail (y.clkChecks p) with
  | some r => y.refuseCommit (Ob.ClkCommit p) r 0x0309 0 p
  | none => accept (y.acceptCommit (Ob.ClkCommit p) (clkOwns p) (y.now + usU 250 : Nat))

/-- Move a PLL of a die to the entry now live (R339): NFRAC ramps in lock when the reference stays and the output is within
±200 ppm; otherwise the islands go to bypass and the PLL relocks without the settle. On bypass already, an attempt in hand begins anew on
what is now live, a calibration ends on it, and one that waits for a reference looks for it again. -/
def Sys.retune (d p : Nat) (y : Sys) : Sys :=
  let x := y.pll d p
  let table := y.bytes (Ob.ClkBandTable p)
  let sel := y.nat (Ob.ClkBandSelect p)
  let ref := y.nat (Ob.ClkRefSel p)
  if x.st = 0 ∨ x.st = 1 ∨ x.st = 5 then
    if x.ref = ref ∧ ¬x.alt ∧ nearOutputs (entryOf table x.entry) (entryOf table sel) then
      (if p = 1 then y.pipeTick d else y).onPll d p fun x => { x with entry := sel }
    else (y.pllBypass d p 4).pllAttempt d p
  else if x.st = 6 then y.onPll d p fun x => { x with alt := false }
  else if (x.st = 4 ∧ (x.alt ∨ x.ref ≠ ref ∨ x.entry ≠ sel)) ∨ ((x.st = 2 ∨ x.st = 3) ∧ x.settleAt = none) then y.pllAttempt d p
  else y

/-- CLK_COMMIT_BOUNDARY (R339). -/
def Sys.clkBoundary (p : Nat) (y : Sys) : Sys :=
  let due := y.duePend (Ob.ClkCommit p) y.now
  if due = [] then y
  else
    let changes := due.any fun q => q.set.any fun e => e.2 != y.val e.1
    let y := y.applyDue (Ob.ClkCommit p) y.now
    if changes then y.each y.dieList fun d y => y.retune d p else y

/-- A field of DieClkState (R342). -/
def Sys.clkState (y : Sys) (d : Nat) : Nat :=
  ((List.range 6).map fun p => (y.pll d p).st * 16 ^ p).foldl (· + ·) 0

/-! ### The commands -/

/-- PLL_LOCK_LOST (R332). -/
def execPllLockLost (dt die pll : Nat) (s : State) : Res := act dt (Sys.lockLost die pll) s

/-- PLL_REF_LOST (R331, R332). -/
def execPllRefLost (dt die pll ref : Nat) (s : State) : Res := act dt (Sys.refLost die pll ref) s

/-- RELOCK_SETTLE_END (R334). -/
def execRelockSettleEnd (dt die pll : Nat) (s : State) : Res := act dt (Sys.settleOver die pll) s

/-- REFERENCE_RETURN (R334). -/
def execReferenceReturn (dt die pll ref : Nat) (s : State) : Res := act dt (Sys.refReturn die pll ref) s

/-- LOCK_ACHIEVED (R334). -/
def execLockAchieved (dt die pll : Nat) (s : State) : Res := act dt (Sys.lockAchieved die pll) s

/-- LOCK_ATTEMPT_TIMEOUT (R334). -/
def execLockAttemptTimeout (dt die pll : Nat) (s : State) : Res := act dt (Sys.lockTimeout die pll) s

/-- LOCK_CONFIRMED (R334). -/
def execLockConfirmed (dt die pll : Nat) (s : State) : Res := act dt (Sys.lockConfirmed die pll) s

/-- BAND_CAL_RUN_COMPLETE (R329). -/
def execBandCalRunComplete (dt : Nat) (found : Option (Nat × Nat)) (s : State) : Res := act dt (Sys.calDone found) s

/-- CLK_COMMIT_BOUNDARY (R339). -/
def execClkCommitBoundary (dt pll : Nat) (s : State) : Res := act dt (Sys.clkBoundary pll) s

end Sys2Proof.Machine
end

