-- ==== Sys2Proof/Machine/Onyx.lean ====
section
/-! DEFINITION. Onyx and the lattice cores: descriptors, flags, the order of one cycle, dispatch and pre-emption, token
queues, core faults and the trace (15_onyx_scheduler.md). -/

namespace Sys2Proof.Machine

/-! ### Descriptor fields (R394) -/

def Task.rearm (t : Task) : Bool := bit t.desc 124
def Task.preempt (t : Task) : Bool := bit t.desc 123
def Task.anyOf (t : Task) : Bool := bit t.desc 122
def Task.consume (t : Task) : Bool := bit t.desc 121
def Task.prio (t : Task) : Nat := bits t.desc 120 118
def Task.cls (t : Task) : Nat := bits t.desc 117 115
def Task.pin (t : Task) : Bool := bit t.desc 114
def Task.core (t : Task) : Nat := bits t.desc 113 109
def Task.window (t : Task) : Nat := bits t.desc 108 104
def Task.doneEn (t : Task) : Bool := bit t.desc 95
def Task.doneFlag (t : Task) : Nat := bits t.desc 94 85
def Task.mask (t : Task) : Nat := bits t.desc 63 32

/-- The descriptor as it reads, with STATE (R394). -/
def Task.word (t : Task) : Nat := setBits t.desc 127 125 t.st

/-- The flags a task waits on (R394). -/
def Task.waits (t : Task) : List Nat := ((List.range 32).filter fun i => bit t.mask i).map fun i => 32 * t.window + i

/-! ### Access -/

def Onyx.task (o : Onyx) (s : Nat) : Task := Tab.find (fun _ => {}) o.tasks s
def Onyx.setTask (o : Onyx) (s : Nat) (t : Task) : Onyx := { o with tasks := Tab.put (fun _ => {}) o.tasks s t }

/-- Logical core i; at boot physical core i serves it (R389, R505). -/
def coreDflt (i : Nat) : Core := { phys := some i }
def Onyx.core (o : Onyx) (i : Nat) : Core := Tab.find coreDflt o.cores i
def Onyx.setCore (o : Onyx) (i : Nat) (c : Core) : Onyx := { o with cores := Tab.put coreDflt o.cores i c }

def Onyx.queue (o : Onyx) (q : Nat) : TokQ := Tab.find (fun _ => {}) o.queues q
def Onyx.setQueue (o : Onyx) (q : Nat) (x : TokQ) : Onyx := { o with queues := Tab.put (fun _ => {}) o.queues q x }

/-- A logical core in service. -/
def Onyx.inService (o : Onyx) (i : Nat) : Bool := (o.core i).phys.isSome

/-- How many logical cores are in service. -/
def Onyx.coresIn (o : Onyx) : Nat := ((List.range 30).filter o.inService).length

/-- Whether a flag is set; flags from 0x300 on mirror the token queues (R395). -/
def Onyx.flagSet (o : Onyx) (f : Nat) : Bool :=
  if f < 0x300 then o.flags.contains f else !(o.queue (f - 0x300)).tokens.isEmpty

/-- Whether a task's condition holds (R394): a mask of 0 never makes it ready. -/
def Onyx.cond (o : Onyx) (t : Task) : Bool :=
  if t.mask = 0 then false
  else if t.anyOf then t.waits.any o.flagSet
  else t.waits.all o.flagSet

/-- Onyx of a die changes. -/
def Sys.onOnyx (d : Nat) (f : Onyx → Onyx) (y : Sys) : Sys := y.onDie d fun x => { x with onyx := f x.onyx }

def Sys.onyx (y : Sys) (d : Nat) : Onyx := (y.die d).onyx

/-! ### Trace (R408, R409) -/

/-- Write a trace record. -/
def Sys.trace (d ty core slot aux : Nat) (y : Sys) : Sys :=
  if y.flag Ob.OnyxTraceEnable ∧ bit (y.nat Ob.OnyxTraceMask) ty then
    let w := ty * 2 ^ 59 + core * 2 ^ 54 + slot % 4096 * 2 ^ 42 + aux % 1024 * 2 ^ 32 + bits (y.freeRun d) 47 16
    let o := y.onyx d
    if y.nat Ob.OnyxTraceMode = 1 ∧ 8192 ≤ o.traceCount then
      let y := y.bump (Ob.DieTraceLost d) 1
      if o.traceStopped then y else (y.onOnyx d fun o => { o with traceStopped := true }).raise 0x0804 d d
    else
      y.onOnyx d fun o => { o with trace := Tab.put (fun _ => 0) o.trace (o.traceCount % 8192) w, traceCount := o.traceCount + 1 }
  else y

/-- The bytes of the trace ring (R410). -/
def Onyx.ringBytes (o : Onyx) : List Byte :=
  (List.range (min o.traceCount 8192)).flatMap fun i => leBytes 8 (Tab.find (fun _ => 0) o.trace i)

/-- A write of 1 to OnyxTraceClear (R408). -/
def Sys.traceClear (y : Sys) : WriteRes :=
  accept (y.each y.dieList fun d y =>
    (y.onOnyx d fun o => { o with trace := [], traceCount := 0, traceStopped := false }).setInt (Ob.DieTraceLost d) 0)

/-! ### Arming, cancelling, flags (R396, R398) -/

/-- ARM (R398). -/
def Sys.armTask (d s : Nat) (y : Sys) : Sys :=
  let t := (y.onyx d).task s
  if t.st = 0 then (y.onOnyx d fun o => o.setTask s { t with st := 1 }).trace d 0x0D 31 s t.prio
  else y.bump (Ob.DieCmdIgnored d) 1

/-- CANCEL (R399): applied at step 2 of the next cycle. -/
def Sys.cancelTask (d s : Nat) (y : Sys) : Sys := y.onOnyx d fun o => { o with cancels := o.cancels ++ [s] }

/-- FLAG_SET (R396): the update arrives in the next cycle. -/
def Sys.flagSet (d f who : Nat) (y : Sys) : Sys := y.onOnyx d fun o => { o with sets := o.sets ++ [(f, who)] }

/-- FLAG_CLEAR (R396). -/
def Sys.flagClear (d f who : Nat) (y : Sys) : Sys := y.onOnyx d fun o => { o with clears := o.clears ++ [(f, who)] }

/-! ### One cycle (R397 to R403) -/

/-- Step 1: clears, then sets; mirror flags are left alone (R395, R397). -/
def Sys.cycleFlags (d : Nat) (y : Sys) : Sys :=
  let o := y.onyx d
  let y := y.onOnyx d fun o => { o with sets := [], clears := [] }
  let y := y.each o.clears fun e y =>
    if e.1 < 0x300 then (y.onOnyx d fun o => { o with flags := o.flags.filter fun f => f != e.1 }).trace d 0x09 31 e.2 e.1 else y
  y.each o.sets fun e y =>
    if e.1 < 0x300 then
      (y.onOnyx d fun o => { o with flags := if o.flags.contains e.1 then o.flags else e.1 :: o.flags }).trace d 0x08 31 e.2 e.1
    else y

/-- A cancel meets a task that is not waiting (R399). -/
def Sys.cancelOther (d s : Nat) (y : Sys) : Sys :=
  let t := (y.onyx d).task s
  if t.st = 0 then y.bump (Ob.DieCmdIgnored d) 1
  else if t.st = 2 then
    (y.onOnyx d fun o => { o.setTask s { t with st := 0 } with ready := o.ready.filter fun r => r.2 != s }).trace d 0x06 31 s 2
  else (y.onOnyx d fun o => o.setTask s { t with desc := setBits t.desc 124 124 0 }).trace d 0x06 31 s t.st

/-- Step 2 for one slot: evaluate it, or cancel it (R397, R399). The slots that became ready are returned in order. -/
def Sys.cycleSlot (d : Nat) (cancels : List Nat) (acc : List Nat × Sys) (s : Nat) : List Nat × Sys :=
  let y := acc.2
  let o := y.onyx d
  let t := o.task s
  if t.st = 1 then
    let ok := o.cond t
    if cancels.contains s then
      (acc.1, (y.onOnyx d fun o => o.setTask s { t with st := 0 }).trace d (if ok then 0x07 else 0x06) 31 s (if ok then t.prio else 1))
    else if ok then
      let y := y.onOnyx d fun o =>
        { o.setTask s { t with st := 2 } with
          flags := if t.consume then o.flags.filter fun f => !t.waits.contains f else o.flags }
      (acc.1 ++ [s], y.trace d 0x01 31 s t.prio)
    else acc
  else if cancels.contains s then (acc.1, y.cancelOther d s)
  else acc

/-- Slots of a list once each, rising. -/
def slotsOf (l : List Nat) : List Nat := Tab.keys (l.foldl (fun t k => Tab.insert k () t) [])

/-- Steps 2 and 3 (R397). -/
def Sys.cycleTasks (d : Nat) (y : Sys) : Sys :=
  let o := y.onyx d
  let y := y.onOnyx d fun o => { o with cancels := [] }
  let r := (slotsOf (Tab.keys o.tasks ++ o.cancels)).foldl (Sys.cycleSlot d o.cancels) ([], y)
  r.2.onOnyx d fun o => { o with ready := o.ready ++ r.1.map fun s => ((o.task s).prio, s) }

/-- Whether a class may be served: its share is unlimited or its credit is above 0 (R400, R430). -/
def Sys.classOk (y : Sys) (d c : Nat) : Bool :=
  y.nat (Ob.OnyxCycleShare c) == 1000 || decide (0 < Tab.find (fun _ => 0) (y.onyx d).credit c)

/-- Whether both banks of a core are free. -/
def Core.idle (c : Core) : Bool := c.phys.isSome && c.banks.all Option.isNone

/-- The task a core runs. -/
def Core.running (c : Core) : Option Nat := (c.banks.getD c.run none)

/-- The core that takes a ready task at once: the lowest idle one its PIN allows (R401). -/
def Onyx.idleCore (o : Onyx) (t : Task) : Option Nat :=
  (List.range 30).find? fun i => (o.core i).idle && (!t.pin || t.core == i)

/-- A core that may be pre-empted for a task (R402). -/
def Onyx.canPreempt (o : Onyx) (t : Task) (i : Nat) : Bool :=
  let c := o.core i
  c.phys.isSome && (!t.pin || t.core == i) && (c.banks.getD (1 - c.run) none).isNone &&
  match c.running with
  | some s => (o.task s).preempt && decide ((o.task s).prio < t.prio)
  | none => false

/-- The priority of the task a core runs. -/
def Onyx.runPrio (o : Onyx) (i : Nat) : Nat :=
  match (o.core i).running with
  | some s => (o.task s).prio
  | none => 0

/-- The core to pre-empt: the one running the lowest priority, then the lowest number (R402). -/
def Onyx.victim (o : Onyx) (t : Task) : Option Nat :=
  ((List.range 30).filter (o.canPreempt t)).foldl
    (fun best i => match best with
      | none => some i
      | some j => if o.runPrio i < o.runPrio j then some i else best) none

/-- Start a task in a bank of a core, its ARG in register 1 of that bank (R390, R401). -/
def Sys.startOn (d core bank s : Nat) (y : Sys) : Sys :=
  let t := (y.onyx d).task s
  (y.onOnyx d fun o =>
    let c := o.core core
    { (o.setTask s { t with st := 3 }).setCore core { c with banks := c.banks.set bank (some s), run := bank, args := c.args.set bank (bits t.desc 31 0) } with
      ready := o.ready.filter fun r => r.2 != s }).trace d 0x02 core s (8 * bank + t.prio)

/-- Pre-empt a core for a task (R402). -/
def Sys.preemptOn (d core s : Nat) (y : Sys) : Sys :=
  let c := (y.onyx d).core core
  match c.running with
  | some v =>
    let tv := (y.onyx d).task v
    let y := (y.onOnyx d fun o => o.setTask v { tv with st := 4 }).trace d 0x03 core v tv.prio
    (y.bump (Ob.DiePreempts d) 1).startOn d core (1 - c.run) s
  | none => y

/-- A class is passed over: one record for each class in each epoch (R430). -/
def Sys.passOver (d c : Nat) (y : Sys) : Sys :=
  if (y.onyx d).deferred.contains c then y
  else (y.onOnyx d fun o => { o with deferred := c :: o.deferred }).trace d 0x0C 31 0 c

/-- The ready slots in the order they are considered: priority 7 first, each level in order (R400). -/
def Onyx.readyOrder (o : Onyx) : List Nat :=
  (List.range 8).flatMap fun i => (o.ready.filter fun r => r.1 == 7 - i).map Prod.snd

/-- Try to dispatch one slot (R400 to R402). -/
def Sys.tryDispatch (d : Nat) (y : Sys) (s : Nat) : Sys :=
  let o := y.onyx d
  let t := o.task s
  if y.classOk d t.cls then
    match o.idleCore t with
    | some i => y.startOn d i 0 s
    | none =>
      if y.nat Ob.OnyxPreemptLevel ≤ t.prio then
        match o.victim t with
        | some i => y.preemptOn d i s
        | none => y
      else y
  else y.passOver d t.cls

/-- ONYX_CYCLE (R397). -/
def Sys.onyxCycle (d : Nat) (y : Sys) : Sys :=
  let y := (y.cycleFlags d).cycleTasks d
  (y.onyx d).readyOrder.foldl (Sys.tryDispatch d) y

/-! ### Token queues (R405, R406) -/

/-- The depth of a token queue: the firmware sets 1 to 64 (log entry 13). -/
def queueDepth (d q : Nat) : Nat := 1 + Config.queueDepth d q % 64

/-- The core of a producer: 0 to 29 is a logical core, anything else an engine. -/
def producerCore (p : Nat) : Nat := if p < 30 then p else 31

/-- TOKEN_PUSH (R406): into a full queue the producer holds. -/
def Sys.tokenPush (d q producer token : Nat) (y : Sys) : Sys :=
  let x := (y.onyx d).queue q
  if x.held.isSome then y
  else if x.tokens.length < queueDepth d q then y.onOnyx d fun o => o.setQueue q { x with tokens := x.tokens ++ [token] }
  else
    let bank := ((y.onyx d).core producer).run
    let y := y.onOnyx d fun o =>
      let o := o.setQueue q { x with held := some (producer, token, y.now, bank) }
      if producer < 30 then o.setCore producer { o.core producer with stalled := true } else o
    (y.bump (Ob.DieQueueHolds d) 1).trace d 0x0A (producerCore producer) q 0

/-- A held push goes in when there is room and its core runs the bank that pushed (R406). -/
def Sys.retryPush (d q : Nat) (y : Sys) : Sys :=
  let x := (y.onyx d).queue q
  match x.held with
  | some (p, token, _, bank) =>
    if x.tokens.length < queueDepth d q ∧ (30 ≤ p ∨ ((y.onyx d).core p).run = bank) then
      let y := y.onOnyx d fun o =>
        let o := o.setQueue q { x with held := none, tokens := x.tokens ++ [token] }
        if p < 30 then o.setCore p { o.core p with stalled := false } else o
      y.trace d 0x0B (producerCore p) q 0
    else y
  | none => y

/-- TOKEN_POP (R405): from an empty queue it returns 0 with the error bit. -/
def Sys.tokenPop (d q : Nat) (y : Sys) : Sys :=
  let x := (y.onyx d).queue q
  match x.tokens with
  | [] => y.onOnyx d fun o => o.setQueue q { x with errBit := true }
  | _ :: r => (y.onOnyx d fun o => o.setQueue q { x with tokens := r, errBit := false }).retryPush d q

/-- QUEUE_HOLD_LIMIT (R406): a hold of more than 10 µs. -/
def Sys.holdLimit (d q : Nat) (y : Sys) : Sys :=
  match ((y.onyx d).queue q).held with
  | some (_, _, t, _) => if t + usU 10 < y.now then y.raiseLimited 0x0802 d d q else y
  | none => y

/-! ### A run ends; a core faults (R397 step 5, R403, R407, R505) -/

/-- SYS cycles in a second at the live clock. -/
def Sys.sysHz (y : Sys) (d : Nat) : Nat := if y.onBypass d 0 0 then 100000000 else 1500000000

/-- Pushes held by a core are tried again when it resumes. -/
def Sys.retryAll (d core : Nat) (y : Sys) : Sys :=
  y.each (Tab.keys (y.onyx d).queues) fun q y => match ((y.onyx d).queue q).held with
    | some (p, _, _, _) => if p = core then y.retryPush d q else y
    | none => y

/-- After a run, a core resumes the task pre-empted on it, unless a ready task may pre-empt that one (R403). -/
def Sys.afterRun (d core : Nat) (y : Sys) : Sys :=
  let o := y.onyx d
  let c := o.core core
  let other := 1 - c.run
  match c.banks.getD other none with
  | none => y
  | some v =>
    let pv := (o.task v).prio
    let pre := o.readyOrder.find? fun s =>
      let t := o.task s
      decide (y.nat Ob.OnyxPreemptLevel ≤ t.prio) && decide (pv < t.prio) && (o.task v).preempt && (!t.pin || t.core == core) &&
        y.classOk d t.cls
    match pre with
    | some s => y.startOn d core c.run s
    | none =>
      let y := y.onOnyx d fun o => (o.setTask v { o.task v with st := 3 }).setCore core { c with run := other }
      (y.trace d 0x04 core v pv).retryAll d core

/-- The Onyx side of TASK_RUN_COMPLETE (R397 step 5, R403, R430). -/
def Sys.runComplete (d core cycles : Nat) (y : Sys) : Sys :=
  let c := (y.onyx d).core core
  match c.running with
  | none => y
  | some s =>
    let t := (y.onyx d).task s
    let y := y.onOnyx d fun o =>
      { (o.setTask s { t with st := if t.rearm then 1 else 0, faulted := false }).setCore core
          { c with banks := c.banks.set c.run none } with
        sets := if t.doneEn then o.sets ++ [(t.doneFlag, s)] else o.sets,
        credit := Tab.modify (fun _ => 0) o.credit t.cls fun n => n - cycles,
        runs := (y.now, cycles) :: o.runs.filter fun r => decide (y.now < r.1 + secU 1) }
    (y.trace d 0x05 core s t.prio).afterRun d core

/-- The load of the cores over the last second (R410). -/
def Sys.coreLoad (y : Sys) (d : Nat) : Nat :=
  let o := y.onyx d
  let n := ((o.runs.filter fun r => decide (y.now < r.1 + secU 1)).map Prod.snd).foldl (· + ·) 0
  if o.coresIn = 0 then 0 else min 1000 (n * 1000 / (o.coresIn * y.sysHz d))

/-- A task of a faulted core starts again at the head of its level, or is lost on its second fault (R407). -/
def Sys.redispatch (d core s : Nat) (y : Sys) : Sys :=
  let t := (y.onyx d).task s
  if t.faulted then (y.onOnyx d fun o => o.setTask s { t with st := 0, faulted := false }).raise 0x0803 d s
  else
    (y.onOnyx d fun o => { o.setTask s { t with st := 2, faulted := true } with ready := (t.prio, s) :: o.ready }).trace
      d 0x0F core s t.prio

/-- CORE_FAULT (R407, R505): the tasks start again elsewhere, the core leaves service, and the lowest spare takes its number. -/
def Sys.coreFault (d core cause : Nat) (y : Sys) : Sys :=
  let c := (y.onyx d).core core
  match c.phys with
  | none => y
  | some p =>
    let y := y.trace d 0x0E core 0 cause
    let y := y.each ((c.banks.reverse).filterMap id) fun s y => y.redispatch d core s
    let y := (y.bump (Ob.DieCoreFaults d) 1).raise 0x0801 d core
    let o := y.onyx d
    let spare := (slotsOf o.spares).head?
    let y := y.onOnyx d fun o =>
      { o.setCore core { phys := spare } with
        spares := match spare with
          | some s => o.spares.filter fun x => x != s
          | none => o.spares,
        faults := Tab.modify (fun _ => 0) o.faults p fun n => n + 1,
        testing := o.testing ++ [p],
        queues := o.queues.map fun q => (q.1, { q.2 with held := match q.2.held with
          | some h => if h.1 = core then none else some h
          | none => none }) }
    if spare.isSome then y.raise 0x1108 d core else y

/-- A change of the repair map is due for the flash (R501). -/
def Sys.onRep (f : RepMap → RepMap) (y : Sys) : Sys :=
  { y with upd := { y.upd with rep := f y.upd.rep }, mgmt := { y.mgmt with mapDue := true } }

/-- CORE_SELF_TEST_COMPLETE (R505): a spare again, or mapped out. -/
def Sys.coreTested (d phys : Nat) (pass : Bool) (y : Sys) : Sys :=
  let o := y.onyx d
  if o.testing.contains phys then
    let y := y.onOnyx d fun o => { o with testing := o.testing.filter fun p => p != phys }
    if pass ∧ Tab.find (fun _ => 0) o.faults phys < 3 then
      y.onOnyx d fun o => { o with spares := o.spares ++ [phys] }
    else
      let y := if pass then y else y.bump (Ob.DieSelfTestFails d) 1
      (y.onRep fun r => { r with cores := r.cores ++ [(d, phys)] }).raise 0x1109 d phys
  else y

/-! ### The commands -/

/-- ARM (R398). -/
def execArm (dt die slot : Nat) (s : State) : Res := act dt (Sys.armTask die slot) s

/-- CANCEL (R399). -/
def execCancel (dt die slot : Nat) (s : State) : Res := act dt (Sys.cancelTask die slot) s

/-- FLAG_SET (R396). -/
def execFlagSet (dt die flag setter : Nat) (s : State) : Res := act dt (Sys.flagSet die flag setter) s

/-- FLAG_CLEAR (R396). -/
def execFlagClear (dt die flag setter : Nat) (s : State) : Res := act dt (Sys.flagClear die flag setter) s

/-- ONYX_CYCLE (R397). -/
def execOnyxCycle (dt die : Nat) (s : State) : Res := act dt (Sys.onyxCycle die) s

/-- TOKEN_PUSH (R406). -/
def execTokenPush (dt die queue producer token : Nat) (s : State) : Res := act dt (Sys.tokenPush die queue producer token) s

/-- TOKEN_POP (R405). -/
def execTokenPop (dt die queue : Nat) (s : State) : Res := act dt (Sys.tokenPop die queue) s

/-- QUEUE_HOLD_LIMIT (R406). -/
def execQueueHoldLimit (dt die queue : Nat) (s : State) : Res := act dt (Sys.holdLimit die queue) s

/-- CORE_FAULT (R407). -/
def execCoreFault (dt die core cause : Nat) (s : State) : Res := act dt (Sys.coreFault die core cause) s

/-- CORE_SELF_TEST_COMPLETE (R505). -/
def execCoreSelfTestComplete (dt die phys : Nat) (pass : Bool) (s : State) : Res := act dt (Sys.coreTested die phys pass) s

end Sys2Proof.Machine
end

