-- ==== Sys2Proof/Machine/Dram.lean ====
section
/-! DEFINITION. Memory controllers and DRAM: the address map, the heap, training, error counting, the patrol scrub, migration
to the spare rank and rate changes (14_dram.md). -/

namespace Sys2Proof.Machine

/-! ### Addresses and the heap (R369, R370) -/

/-- The controller of a DRAM offset (R369). -/
def dramCtrl (o : Nat) : Nat := (bits o 8 8 + bits o 16 16) % 2

/-- The controller address of a DRAM offset (R369). -/
def dramC (o : Nat) : Nat := bits o 33 9 * 256 + bits o 7 0

/-- The rank bit, row, bank, burst column, subchannel and byte of a controller address (R369). -/
def dramLoc (c : Nat) : Nat × Nat × Nat × Nat × Nat × Nat :=
  (bits c 32 32, bits c 31 17, Nat.xor (bits c 14 11) (bits c 20 17), bits c 16 15 * 8 + bits c 10 8, bits c 7 6, bits c 5 0)

/-- The check row and byte of a burst (R376). -/
def checkPlace (row col : Nat) : Nat × Nat := (32768 + row / 8, row % 8 * 256 + col * 8)

/-- The DRAM offset of a controller address (R369). -/
def dramOffset (m c : Nat) : Nat :=
  let o := c / 256 * 512 + c % 256
  if bits o 16 16 = m then o else o + 256

/-- The blocks of a die's heap. -/
def heapBlocks : Nat := 262144

/-- The lowest run of `n` free blocks, given the taken runs in rising order (R370). -/
def firstFit (n : Nat) : Nat → List (Nat × Nat × Nat) → Option Nat
  | at_, [] => if at_ + n ≤ heapBlocks then some at_ else none
  | at_, (b, len, _) :: r => if at_ + n ≤ b then some at_ else firstFit n (b + len) r

/-- Put a run in its place. -/
def heapInsert (e : Nat × Nat × Nat) : List (Nat × Nat × Nat) → List (Nat × Nat × Nat)
  | [] => [e]
  | a :: r => if e.1 < a.1 then e :: a :: r else a :: heapInsert e r

/-- The blocks that hold so many bytes (R370). -/
def blocksFor (bytes : Nat) : Nat := ceilDiv bytes 65536

/-- Take runs for an owner on a die, one for each size in bytes; `none` when one does not fit (R370). -/
def heapTake (owner : Nat) : List Nat → List (Nat × Nat × Nat) → Option (List (Nat × Nat × Nat))
  | [], h => some h
  | n :: r, h =>
    if n = 0 then heapTake owner r h
    else match firstFit (blocksFor n) 0 h with
      | some b => heapTake owner r (heapInsert (b, blocksFor n, owner) h)
      | none => none

/-- Take runs on a die. -/
def Sys.heapAlloc (d owner : Nat) (sizes : List Nat) (y : Sys) : Option Sys :=
  (heapTake owner sizes (y.die d).heap).map fun h => y.onDie d fun x => { x with heap := h }

/-- Return every run of an owner on a die. -/
def Sys.heapFree (d owner : Nat) (y : Sys) : Sys := y.onDie d fun x => { x with heap := x.heap.filter fun e => e.2.2 != owner }

/-- Bytes free in a die's heap (R370). -/
def Die.heapFreeBytes (x : Die) : Nat := (heapBlocks - (x.heap.map fun e => e.2.1).foldl (· + ·) 0) * 65536

/-- The largest free run in blocks (R370). -/
def largestRun : Nat → List (Nat × Nat × Nat) → Nat
  | at_, [] => heapBlocks - at_
  | at_, (b, len, _) :: r => max (b - at_) (largestRun (b + len) r)

/-! ### Rates and grants (R371, R384) -/

/-- The data rate of a MemRate in MT/s (R384); 6 stands for bypass. -/
def memMts (r : Nat) : Nat := [9600, 8533, 7500, 6400, 4266, 3200, 200].getD r 200

/-- The data rate of a die in MT/s. -/
def Dram.mts (x : Dram) : Nat := if x.bypass then 200 else memMts x.rate

/-- The grant of a controller for an epoch of E µs (R371, R372). -/
def grantBytes (mts e : Nat) (hot : Bool) : Nat := if hot then mts * 8 * e * 5 / 8 else mts * 8 * e * 3 / 4

/-! ### Ranks -/

def Dram.rank (x : Dram) (m k : Nat) : Rank := Tab.find (fun _ => {}) x.ranks (3 * m + k)
def Dram.ctrl (x : Dram) (m : Nat) : Ctrl := Tab.find (fun _ => {}) x.ctrls m

def Sys.onRank (d m k : Nat) (f : Rank → Rank) (y : Sys) : Sys :=
  y.onDie d fun x => { x with dram := { x.dram with ranks := Tab.modify (fun _ => {}) x.dram.ranks (3 * m + k) f } }

def Sys.onCtrl (d m : Nat) (f : Ctrl → Ctrl) (y : Sys) : Sys :=
  y.onDie d fun x => { x with dram := { x.dram with ctrls := Tab.modify (fun _ => {}) x.dram.ctrls m f } }

/-- Set the record of a rank in the repair map. -/
def Sys.rankRecord (d m k v : Nat) (y : Sys) : Sys :=
  y.onRep fun r => { r with ranks := Tab.put (fun _ => 0) r.ranks (6 * d + 3 * m + k) v }

/-- The rank that serves an address half of a controller. -/
def Dram.serving (x : Dram) (m half : Nat) : Option Nat := (List.range 3).find? fun k => (x.rank m k).serves == some half

/-! ### Migration (R381 to R383) -/

/-- Whether a rate change is pending or running (R385). -/
def Sys.rateChanging (y : Sys) : Bool :=
  (y.pend.any fun p => p.key == Ob.MemCommit) || y.dieList.any fun d => ((y.die d).dram.next).isSome

/-- Start the migration of a rank (R382 step 1). -/
def Sys.migrateStart (d m k : Nat) (y : Sys) : Sys :=
  let y := y.rankRecord d m k 1
  let y := (y.onRank d m k fun r => { r with st := 3 }).onRank d m 2 fun r => { r with st := 4 }
  (y.onCtrl d m fun c => { c with src := some k, copyAt := 0 }).raise 0x0603 d (16 * m + k)

/-- A trigger of R381 for a rank: it starts, waits its turn, or finds no spare. -/
def Sys.migrateTrigger (d m k : Nat) (y : Sys) : Sys :=
  let x := (y.die d).dram
  let r := x.rank m k
  let c := x.ctrl m
  if r.st ≠ 1 ∨ c.waiting.contains k then y
  else if c.src.isSome ∨ (y.rateChanging ∧ (x.rank m 2).st = 2) then y.onCtrl d m fun c => { c with waiting := c.waiting ++ [k] }
  else if (x.rank m 2).st = 2 then y.migrateStart d m k
  else if r.noSpare then y
  else (y.onRank d m k fun r => { r with noSpare := true }).raise 0x0605 d (16 * m + k)

/-- The triggers that waited are judged again in their order (R381, R385). -/
def Sys.migrateNext (d m : Nat) (y : Sys) : Sys :=
  (y.onCtrl d m fun c => { c with waiting := [] }).each ((y.die d).dram.ctrl m).waiting fun k y => y.migrateTrigger d m k

/-- A change of the data rate is complete: the migrations that waited for it start (R385). -/
def Sys.rateChanged (y : Sys) : Sys :=
  if y.rateChanging then y else y.each y.dieList fun d y => y.each [0, 1] fun m y => y.migrateNext d m

/-- A rank map switches at an epoch boundary once every burst is copied (R382 steps 5 and 6). -/
def Sys.migrateSwitch (d m : Nat) (y : Sys) : Sys :=
  let c := (y.die d).dram.ctrl m
  match c.src with
  | some k =>
    if 2 ^ 32 ≤ c.copyAt then
      let half := ((y.die d).dram.rank m k).serves
      let y := (y.onRank d m 2 fun r => { r with st := 1, serves := half }).onRank d m k fun r => { r with st := 5, serves := none }
      let y := (y.onCtrl d m fun c => { c with src := none, copyAt := 0 }).rankRecord d m k 2
      ((y.bump Ob.MemMigrations 1).raise 0x0604 d (16 * m + k)).migrateNext d m
    else y
  | none => y

/-! ### Errors (R376, R377, R381) -/

/-- One burst of a rank was read with so many bytes in error (R376, R377): up to three are corrected. The answer says
whether the burst is poisoned. -/
def Sys.burstRead (d m k errs : Nat) (y : Sys) : Bool × Sys :=
  if errs = 0 then (false, y)
  else if errs ≤ 3 then
    let y := (y.bump (Ob.DieRankCe (6 * d + 3 * m + k)) 1).onRank d m k fun r =>
      { r with ceTimes := y.now :: r.ceTimes.filter fun t => decide (y.now < t + secU 3600) }
    let n := ((y.die d).dram.rank m k).ceTimes.length
    let th := y.nat Ob.MemCeThreshold
    (false, if th ≠ 0 ∧ th < n then y.migrateTrigger d m k else y)
  else
    let y := (y.bump (Ob.DieRankUe (6 * d + 3 * m + k)) 1).onRank d m k fun r => { r with ue := r.ue + 1 }
    let y := y.raiseLimited 0x0602 d d (16 * m + k)
    (true, if y.nat Ob.MemUeThreshold ≤ ((y.die d).dram.rank m k).ue then y.migrateTrigger d m k else y)

/-- The pool of a controller gives up so many bytes, if it holds them (R427). -/
def Sys.poolTake (d m n : Nat) (y : Sys) : Option Sys :=
  let p := Tab.find (fun _ => 0) (y.die d).fab.pools m
  if (n : Int) ≤ p then
    some (y.onDie d fun x => { x with fab := { x.fab with
      pools := Tab.put (fun _ => 0) x.fab.pools m (p - n),
      grants := Tab.modify (fun _ => 0) x.fab.grants m fun g => g + n } })
  else none

/-- A burst that came back poisoned is noted (R377, R379); its place is a DRAM offset. -/
def Sys.poison (d a : Nat) (bad : Bool) (y : Sys) : Sys :=
  if bad then y.onDie d fun x =>
    { x with dram := { x.dram with poisoned := if x.dram.poisoned.contains a then x.dram.poisoned else a :: x.dram.poisoned } }
  else y

/-- A burst of a rank is read at a controller address (R377): the patrol scrub's and the copy's way to read. -/
def Sys.readAt (d m k c errs : Nat) (y : Sys) : Sys :=
  let r := y.burstRead d m k errs
  r.2.poison d (dramOffset m c) r.1

/-- PATROL_SCRUB (R378): the next burst in ascending controller address, charged to the pool at tier 2. -/
def Sys.patrolScrub (d m errs : Nat) (y : Sys) : Sys :=
  let x := (y.die d).dram
  let at_ := (x.ctrl m).scrubAt
  match x.serving m (at_ / 2 ^ 32), y.poolTake d m 64 with
  | some k, some y => (y.onCtrl d m fun c => { c with scrubAt := (at_ + 64) % 2 ^ 33 }).readAt d m k at_ errs
  | _, _ => y

/-- MIGRATION_COPY_BURST (R382 step 4, R383): read, correct and write one burst, within `MemMigrateRate` of reads in each epoch and deferred
like any background master. A poisoned burst is poisoned in its copy. -/
def Sys.copyBurst (d m errs : Nat) (y : Sys) : Sys :=
  let c := (y.die d).dram.ctrl m
  match c.src with
  | some k =>
    if c.copyAt < 2 ^ 32 ∧ c.copied + 64 ≤ y.nat Ob.MemMigrateRate * (y.die d).fab.epochLen then
      let half := (((y.die d).dram.rank m k).serves).getD 0
      match y.poolTake d m 128 with
      | some y => (y.onCtrl d m fun c => { c with copyAt := c.copyAt + 64, copied := c.copied + 64 }).readAt d m k (half * 2 ^ 32 + c.copyAt) errs
      | none => y
    else y
  | none => y

/-! ### Refresh and timing (R372, R375) -/

/-- MR4_POLL (R372): each code is the refresh rate a device asks for, in eighths of the base rate (log entry 14). -/
def Sys.mr4Poll (d m : Nat) (codes : List Nat) (y : Sys) : Sys :=
  let hot := codes.any fun c => decide (16 < c)
  let was := ((y.die d).dram.ctrl m).hotNow
  let y := y.onCtrl d m fun c => { c with hotNow := hot, refresh := codes.foldl max 0 }
  if hot ∧ ¬was then (y.bump Ob.MemHotCount 1).raise 0x0609 d m else y

/-- WCK_OSCILLATOR_READ (R375): read and write timing is corrected; traffic does not stop. -/
def Sys.wckRead (d m : Nat) (y : Sys) : Sys :=
  if (List.range 2).any fun h => ((y.die d).dram.serving m h).isSome then
    y.onCtrl d m fun c => { c with corrections := c.corrections + 1 }
  else y

/-- Neighbour refreshes of an activation (R380): drawn with probability 2^−k from a free value; neighbours outside rows 0 to
49,151 are skipped. -/
def Sys.neighbourRefresh (row : Nat) (y : Sys) : Sys :=
  let hit := y.freeNow % 2 ^ y.nat Ob.MemParaProb = 0
  let ds := if y.nat Ob.MemParaDistance = 2 then [1, 2] else [1]
  let n := (ds.map fun k => (if k ≤ row then 1 else 0) + if row + k ≤ 49151 then 1 else 0).foldl (· + ·) 0
  let y := y.fresh
  if hit then y.bump Ob.MemParaCount n else y

/-! ### Training (R373, R374) -/

/-- The lowest VALID and calibrated entry of the DRAM PLL whose output is half a rate within ±200 ppm (R494). -/
def Sys.dramEntry (y : Sys) (r : Nat) : Option Nat :=
  let table := y.bytes (Ob.ClkBandTable 2)
  (List.range 32).find? fun e =>
    entryValid (entryOf table e) && y.calOk 2 e && within200 (y.nat (Ob.ClkRefSel 2)) (entryOf table e) (memMts r * 500000)

/-- The rates trained at boot: enabled in MemRateMask with an entry, and bypass (R373, R494). -/
def Sys.trainRates (y : Sys) : List Nat :=
  ((List.range 6).filter fun r => bit (y.nat Ob.MemRateMask) r && (y.dramEntry r).isSome) ++ [6]

/-- The outcome of training for one controller (R374): states and served halves of K0, K1 and K2 from which ranks passed. -/
def rankOutcome (ok : Nat → Bool) : Option (List (Nat × Option Nat)) :=
  match ok 0, ok 1, ok 2 with
  | true, true, true => some [(1, some 0), (1, some 1), (2, none)]
  | true, true, false => some [(1, some 0), (1, some 1), (0, none)]
  | false, true, true => some [(5, none), (1, some 1), (1, some 0)]
  | true, false, true => some [(1, some 0), (5, none), (1, some 1)]
  | _, _, _ => none

/-- DRAM_TRAINING_COMPLETE (R373, R374): `failed` names controller, rank and rate; a rank suspect in the repair map counts as
failed. -/
def Sys.dramTrained (d : Nat) (failed : List (Nat × Nat × Nat)) (y : Sys) : Sys :=
  if y.power.phase = .booting ∧ d < y.part.dies ∧ ¬y.power.boot.trained.contains d then
    let rates := y.trainRates
    let rec_ := fun m k => Tab.find (fun _ => 0) y.upd.rep.ranks (6 * d + 3 * m + k)
    let bad := fun m k => rec_ m k != 0 || failed.any fun f => f.1 == m && f.2.1 == k && rates.contains f.2.2
    let y := y.each [0, 1] fun m y => y.each [0, 1, 2] fun k y =>
      let y := y.onRank d m k fun r => { r with trained := rates.filter fun t => !failed.contains (m, k, t) }
      if bad m k then y.raise 0x0606 d (16 * m + k) else y
    let y := y.each [0, 1] fun m y =>
      match rankOutcome fun k => !bad m k with
      | some l => y.each l.zipIdx fun e y => y.onRank d m e.2 fun r => { r with st := e.1.1, serves := e.1.2 }
      | none =>
        (y.each [0, 1, 2] fun k y => y.onRank d m k fun r => { r with st := 0, serves := none }).onDie d fun x =>
          { x with dram := { x.dram with failed := true } }
    { y with power := { y.power with boot := { y.power.boot with trained := y.power.boot.trained ++ [d] } } }
  else y

/-! ### Software's requests (R381, R384, R507) -/

/-- A write to MemMigrateNow (R381): the value names die, controller and rank. -/
def Sys.migrateNow (v : Nat) (y : Sys) : WriteRes :=
  let d := bits v 10 8
  let m := bits v 4 4
  let k := bits v 1 0
  if v ≠ d * 256 + m * 16 + k ∨ 1 < k ∨ y.part.dies ≤ d then abortWith 4 y
  else accept (y.migrateTrigger d m k)

/-- A write to RepRankClear (R507): the record goes at the next reset. -/
def Sys.rankClear (v : Nat) (y : Sys) : WriteRes :=
  let d := bits v 10 8
  let m := bits v 4 4
  let k := bits v 1 0
  if v ≠ d * 256 + m * 16 + k ∨ 2 < k ∨ y.part.dies ≤ d then abortWith 4 y
  else accept { y with upd := { y.upd with rankClear := y.upd.rankClear ++ [6 * d + 3 * m + k] } }

/-- The shadows MemCommit covers. -/
def memOwns (k : Nat) : Bool := k == Ob.MemRate || k == Ob.MemPllEntry

/-- The ranks in service of every die. -/
def Sys.inService (y : Sys) : List Rank :=
  y.dieList.flatMap fun d =>
    let x := (y.die d).dram
    [0, 1].flatMap fun m => [0, 1].flatMap fun h => ((x.serving m h).map (x.rank m ·)).toList

/-- Whether a rate is enabled and trained on every rank in service of every die (R384). MemRateMask acts at the next reset, and what a
rank was trained at is what was enabled at the last; with no rank in service the object itself is read. -/
def Sys.rateTrained (y : Sys) (r : Nat) : Bool :=
  match y.inService with
  | [] => bit (y.nat Ob.MemRateMask) r
  | l => l.all fun k => k.trained.contains r

/-- The checks of R384 in order. -/
def Sys.memChecks (y : Sys) : List (Bool × Nat) :=
  let r := (y.checkVal memOwns Ob.MemRate).nat
  let e := (y.checkVal memOwns Ob.MemPllEntry).nat
  let w := entryOf (y.bytes (Ob.ClkBandTable 2)) e
  [(y.rateTrained r, 0x0620),
   (!(y.dieList.any fun d => [0, 1].any fun m => ((y.die d).dram.ctrl m).src.isSome), 0x0621),
   (entryValid w && y.calOk 2 e && within200 (y.nat (Ob.ClkRefSel 2)) w (memMts r * 500000), 0x0622)]

/-- A write of 1 to MemCommit (R384). -/
def Sys.memCommit (y : Sys) : WriteRes :=
  match firstFail y.memChecks with
  | some r => y.refuseCommit Ob.MemCommit r 0x0608 0 0
  | none => accept (y.acceptCommit Ob.MemCommit memOwns (y.now + usU 250 : Nat))

/-- MEM_COMMIT_BOUNDARY (R385): the memory goes to bypass and the DRAM PLL relocks on the new entry, without the settle; one that is
locked already but not switched back, or locking, begins again. Any other PLL on bypass takes it up at its return (R386). A set that equals
the live one changes nothing (R440). -/
def Sys.memBoundary (y : Sys) : Sys :=
  let due := y.duePend Ob.MemCommit y.now
  if due = [] then y
  else
    let changes := due.any fun q => q.set.any fun e => e.2 != y.val e.1
    let y := y.applyDue Ob.MemCommit y.now
    if changes then
      let y := y.setInt (Ob.ClkBandSelect 2) (y.nat Ob.MemPllEntry)
      y.each (y.dieList.filter fun d => !(y.die d).mappedOut) fun d y =>
        let y := y.onDie d fun x => { x with dram := { x.dram with next := some (y.nat Ob.MemRate) } }
        let st := (y.pll d 2).st
        if st ∈ [0, 1, 4, 5, 7] then (y.pllBypass d 2 4).pllAttempt d 2 else y
    else y.rateChanged

/-! ### The commands -/

/-- ISLAND_SWITCH_BACK (R335); that of the memory may complete a change of the rate (R385). -/
def execIslandSwitchBack (dt die pll island : Nat) (s : State) : Res :=
  act dt (fun y => if pll = 2 then (y.islandBack die pll island).rateChanged else y.islandBack die pll island) s

/-- MR4_POLL (R372). -/
def execMr4Poll (dt die ctrl : Nat) (codes : List Nat) (s : State) : Res := act dt (Sys.mr4Poll die ctrl codes) s

/-- WCK_OSCILLATOR_READ (R375). -/
def execWckOscillatorRead (dt die ctrl : Nat) (s : State) : Res := act dt (Sys.wckRead die ctrl) s

/-- PATROL_SCRUB (R378). -/
def execPatrolScrub (dt die ctrl errs : Nat) (s : State) : Res := act dt (Sys.patrolScrub die ctrl errs) s

/-- MIGRATION_COPY_BURST (R383). -/
def execMigrationCopyBurst (dt die ctrl errs : Nat) (s : State) : Res := act dt (Sys.copyBurst die ctrl errs) s

/-- DRAM_TRAINING_COMPLETE (R373, R374). -/
def execDramTrainingComplete (dt die : Nat) (failed : List (Nat × Nat × Nat)) (s : State) : Res :=
  act dt (Sys.dramTrained die failed) s

/-- MEM_COMMIT_BOUNDARY (R385). -/
def execMemCommitBoundary (dt : Nat) (s : State) : Res := act dt Sys.memBoundary s

end Sys2Proof.Machine
end

