-- ==== Sys2Proof/Machine/Figures.lean ====
section
/-! DEFINITION. The figures of a channel's configuration: times and slots, demand, refresh, floor costs, the tube, levels, and the
sizes of what a start allocates (R38, R46 to R49, R77, R84, R101, R111, R118, R136 to R144, R160, R165 to R167, R244, R261). -/

namespace Sys2Proof.Machine

/-! ### What a start takes (R67, R97, R133, R162, R164, R188, R267) -/

/-- The context bound to a channel: the lowest whose live `CxChannel` names it (R188). -/
def Sys.boundCx (y : Sys) (n : Nat) : Option Nat := (List.range (4 * y.part.dies)).find? fun c => y.nat (Ob.CxChannel c) == n

/-- The channel objects a bound context replaces, with what replaces them (R188). -/
def cxReplaces (n c : Nat) : List (Nat × Nat) :=
  [(Ob.IngVidWidth n, Ob.CxWidth c), (Ob.IngVidHeight n, Ob.CxHeight c), (Ob.IngRateNum n, Ob.CxRateNum c),
   (Ob.IngRateDen n, Ob.CxRateDen c), (Ob.IngColorimetry n, Ob.CxColorimetry c), (Ob.IngTcs n, Ob.CxTcs c),
   (Ob.IngRange n, Ob.CxRange c), (Ob.ChTimeBase n, Ob.CxTimeBase c), (Ob.ChIngestOffset n, Ob.CxIngestOffset c)]

/-- What a start of the channel now would take for an object. -/
def Sys.startVal (y : Sys) (n k : Nat) : Val :=
  if k = Ob.RcBitrate n then y.shadowVal k
  else match y.boundCx n with
    | none => y.val k
    | some c =>
      if k = Ob.IngSampling n then .int 0
      else if k = Ob.IngDepth n then .int 10
      else if k = Ob.IngSkewWindow n then .int 0
      else match (cxReplaces n c).find? fun e => e.1 == k with
        | some e => y.val e.2
        | none => y.val k

/-- The configuration a start freezes. -/
def Sys.snapshot (y : Sys) (n : Nat) : Tab Val :=
  let own := (Tab.keys y.live).filter fun k => k / 0x2000 == 0x100 + n
  let more := match y.boundCx n with
    | some c => (cxReplaces n c).map Prod.fst
    | none => []
  (own ++ more ++ [Ob.RcBitrate n, Ob.IngSampling n, Ob.IngDepth n, Ob.IngSkewWindow n]).foldl
    (fun t k => Tab.put (dfltVal y.part) t k (y.startVal n k)) []

/-- The numbers of a channel's configuration. Times are in units of 2⁻¹⁶ ns. -/
structure Fig where
  ch : Nat
  wd : Nat
  ht : Nat
  rn : Nat
  rd : Nat
  lat : Nat
  off : Nat
  guard : Nat
  tb : Nat
  skew : Nat
  codec : Nat
  prof : Nat
  refs : Nat
  mode : Nat
  band : Nat
  period : Nat
  tools : Nat
  repeats : Nat
  hrd : Nat
  rate : Nat
  out : Nat
  payload : Nat
  sig : Nat
  depth : Nat
  prims : Nat
  tcs : Nat
  range : Nat
  mdcv : List Nat
  cll : Nat
  reachH : Nat
  reachV : Nat
  beta : Int
  tc : Int
  chromaQp : Int
  anc : Nat

/-- Read the numbers through a reading of objects. -/
def figOf (g : Nat → Val) (n : Nat) : Fig :=
  let v := fun k => (g k).nat
  { ch := n, wd := v (Ob.IngVidWidth n), ht := max 1 (v (Ob.IngVidHeight n)), rn := max 1 (v (Ob.IngRateNum n)),
    rd := v (Ob.IngRateDen n), lat := v (Ob.ChLatencyRows n), off := nsU (v (Ob.ChIngestOffset n)), guard := usU (v (Ob.ChGuard n)),
    tb := v (Ob.ChTimeBase n), skew := usU (v (Ob.IngSkewWindow n)), codec := v (Ob.EncCodec n), prof := v (Ob.EncProfile n),
    refs := v (Ob.EncRefCount n), mode := v (Ob.EncRefreshMode n), band := v (Ob.EncRefreshBand n),
    period := v (Ob.EncIntraPeriod n), tools := v (Ob.EncToolMask n), repeats := v (Ob.EncParamRepeat n),
    hrd := v (Ob.RcHrdSignal n), rate := v (Ob.RcBitrate n), out := v (Ob.OutMode n), payload := v (Ob.OutPayload n),
    sig := v (Ob.SigInterval n), depth := v (Ob.RtxDepth n), prims := v (Ob.IngColorimetry n), tcs := v (Ob.IngTcs n),
    range := v (Ob.IngRange n), mdcv := (g (Ob.IngMdcv n)).toBytes.map BitVec.toNat, cll := v (Ob.IngCll n),
    reachH := v (Ob.EncSearchRangeH n), reachV := v (Ob.EncSearchRangeV n), beta := (g (Ob.EncDeblockBeta n)).toInt,
    tc := (g (Ob.EncDeblockTc n)).toInt, chromaQp := (g (Ob.EncChromaQpOffset n)).toInt,
    anc := v (Ob.IngAncMode n) }

/-- The figures of a channel that is not stopped. -/
def Sys.fig (y : Sys) (n : Nat) : Fig := figOf (y.cfg n) n

/-- The figures a start now would take. -/
def Sys.startFig (y : Sys) (n : Nat) : Fig := figOf (y.startVal n) n

/-- The figures in force, or those of a start. -/
def Sys.nowFig (y : Sys) (n : Nat) : Fig := if (y.chan n).run = 0 then y.startFig n else y.fig n

/-! ### Times (R46 to R49, R77) -/

/-- 10⁹ × 2¹⁶. -/
def secUnits : Nat := 65536000000000

/-- Frame boundary k (R46). -/
def boundaryAt (rn rd : Nat) (k : Int) : Int := k * (rd * secUnits : Nat) / (rn : Int)

/-- The first k whose boundary is at or after t. -/
def firstFrom (rn rd : Nat) (t : Int) : Int :=
  let k := t * (rn : Int) / (rd * secUnits : Nat)
  if boundaryAt rn rd k < t then k + 1 else k

def Fig.boundary (f : Fig) (k : Int) : Int := boundaryAt f.rn f.rd k

/-- The time of so many lines of the frame, rounded down. -/
def Fig.lines (f : Fig) (n : Nat) : Nat := n * f.rd * secUnits / (f.rn * f.ht)

/-- P, rounded down. -/
def Fig.period_ (f : Fig) : Nat := f.rd * secUnits / f.rn

/-- Whether a duration is below P, exactly. -/
def Fig.belowPeriod (f : Fig) (t : Nat) : Bool := t * f.rn < f.rd * secUnits

/-- N (R46). -/
def Fig.rows (f : Fig) : Nat := ceilDiv f.ht 64

/-- Lines up to the end of row r. -/
def Fig.lineEnd (f : Fig) (r : Nat) : Nat := min (64 * (r + 1)) f.ht

/-- The end of the capture slot of row r after A (R47). -/
def Fig.slotEnd (f : Fig) (r : Nat) : Nat := f.lines (f.lineEnd r)

/-- D(r) after A (R49). -/
def Fig.deadline (f : Fig) (r : Nat) : Nat := f.lines (64 * (r + f.lat)) + usU 14

/-- When row r is in its row buffer, after A (R55): the end of stage 4. -/
def Fig.buffered (f : Fig) (r : Nat) : Nat := f.slotEnd r + usU 14

/-- The output slot of row r after A (R48). -/
def Fig.outSlot (f : Fig) (r : Nat) : Nat × Nat :=
  (f.lines (64 * (r + f.lat)) + usU 40, f.lines (f.lineEnd r + 64 * f.lat) + usU 40)

/-- L, rounded down (R5). -/
def Fig.latency (f : Fig) : Nat := f.lines (64 * f.lat) + usU 40

/-- The due instant of a pixel after A (R77). -/
def dueAt (wd ht rn rd line col : Nat) : Nat := rd * secUnits * (line * wd + col) / (rn * ht * wd)

/-! ### Demand, tiles and level (R38, R69, R101, R111) -/

/-- Whether the pixel rate is at most so many pixels per second (R38). -/
def Fig.rateAtMost (f : Fig) (lim : Nat) : Bool := f.wd * f.ht * f.rn ≤ lim * f.rd

/-- Demand in quarters (R38); 0 when no pipelines carry it. -/
def Fig.demand (f : Fig) : Nat :=
  if f.rateAtMost 260000000 then 1
  else if f.rateAtMost 1040000000 then 4
  else if f.rateAtMost 2080000000 then 8
  else if f.rateAtMost 4160000000 then 16
  else if f.rateAtMost 8320000000 then 32
  else 0

/-- An 8K240 channel: a die pair (R38). -/
def Fig.pair (f : Fig) : Bool := f.demand = 32

/-- The tile columns, s (R101). -/
def Fig.tiles (f : Fig) : Nat := max 1 (f.demand / 4)

/-- CTUs of a row in one tile column (R101). -/
def Fig.ctus (f : Fig) : Nat := ceilDiv (f.wd / f.tiles) 64

/-- CTUs of a row. -/
def Fig.rowCtus (f : Fig) : Nat := f.ctus * f.tiles

/-- The rates of R69. -/
def videoRates : List (Nat × Nat) :=
  [(24000, 1001), (24, 1), (25, 1), (30000, 1001), (30, 1), (50, 1), (60000, 1001), (60, 1), (100, 1), (120000, 1001), (120, 1),
   (240000, 1001), (240, 1)]

/-- A frame rate of R69. -/
def rateOk (rn rd : Nat) : Bool := videoRates.any fun e => e.1 * rd == rn * e.2

/-- A raster of R69. -/
def rasterOk (wd ht : Nat) : Bool := [(1280, 720), (1920, 1080), (3840, 2160), (7680, 4320)].contains (wd, ht)

/-- Colorimetry and transfer of R71. -/
def colourOk (colr tcs : Nat) : Bool := [(0, 0), (1, 0), (2, 1), (2, 2)].contains (colr, tcs)

/-- The levels: general_level_idc in H.265 and H.266, MaxLumaPs, MaxLumaSr, MaxBR of the Main and the High tier, 0 where there is
none (log entry 40: of ITU-T H.265 and H.266). -/
def levels (codec : Nat) : List (Nat × Nat × Nat × Nat × Nat) :=
  let id := fun a b => if codec = 0 then 30 * a + 3 * b else 16 * a + 3 * b
  [(id 1 0, 36864, 552960, 128, 0), (id 2 0, 122880, 3686400, 1500, 0), (id 2 1, 245760, 7372800, 3000, 0),
   (id 3 0, 552960, 16588800, 6000, 0), (id 3 1, 983040, 33177600, 10000, 0), (id 4 0, 2228224, 66846720, 12000, 30000),
   (id 4 1, 2228224, 133693440, 20000, 50000), (id 5 0, 8912896, 267386880, 25000, 100000),
   (id 5 1, 8912896, 534773760, 40000, 160000), (id 5 2, 8912896, 1069547520, 60000, 240000),
   (id 6 0, 35651584, 1069547520, if codec = 0 then 60000 else 80000, if codec = 0 then 240000 else 320000),
   (id 6 1, 35651584, 2139095040, 120000, 480000),
   (id 6 2, 35651584, 4278190080, if codec = 0 then 240000 else 180000, 800000)] ++
  (if codec = 0 then [] else [(id 6 3, 80216064, 8556380160, 320000, 1600000)])

/-- CpbNalFactor of a profile (R111, log entry 40). -/
def cpbFactor (codec prof : Nat) : Nat := if prof = 0 then 1100 else if codec = 0 then 1833 else 2750

/-- The level and tier of R111. -/
def Fig.level (f : Fig) : Option (Nat × Nat) :=
  let k := cpbFactor f.codec f.prof
  let fit := fun (e : Nat × Nat × Nat × Nat × Nat) =>
    decide (f.wd * f.ht ≤ e.2.1) && decide (f.wd * f.ht * f.rn ≤ e.2.2.1 * f.rd) &&
      (decide (f.rate ≤ e.2.2.2.1 * k) || decide (f.rate ≤ e.2.2.2.2 * k))
  match (levels f.codec).find? fit with
  | some e => some (e.1, if f.rate ≤ e.2.2.2.1 * k then 0 else 1)
  | none => none

/-! ### Refresh (R117, R118) -/

/-- C (R118). -/
def Fig.positions (f : Fig) : Nat := if f.mode = 2 then f.rows else f.rowCtus

/-- The step between two bands (R118). -/
def Fig.step (f : Fig) : Nat := if f.codec = 0 then f.band - 1 else f.band

/-- The cycle length; in mode 3 the intra period (R118). -/
def Fig.cycle (f : Fig) : Nat :=
  if f.mode = 3 then f.period
  else if f.codec = 0 then 1 + ceilDiv (f.positions - f.band) (f.band - 1)
  else ceilDiv f.positions f.band

/-- The band of picture i of a cycle: first position and the one after the last (R118). -/
def Fig.bandAt (f : Fig) (i : Nat) : Nat × Nat := (min (i * f.step) f.positions, min (i * f.step + f.band) f.positions)

/-- Low-latency mode (R117). -/
def Fig.lowLatency (f : Fig) : Bool := f.lat < 8

/-! ### Budgets, floor costs and the tube (R136 to R144, R160) -/

/-- F(k), k counted from the reference boundary (R136). -/
def budgetOf (b rn rd : Nat) (k : Nat) : Nat := b * ((k + 1) * rd) / (8 * rn) - b * (k * rd) / (8 * rn)

/-- E(r) for a row number that may be negative (R137). -/
def lineOf (F ht N : Nat) (r : Int) : Nat :=
  if r < 0 then 0 else if (N : Int) ≤ r then F else F * min (64 * (r.toNat + 1)) ht / ht

/-- The list of numbers the open sizes depend on. -/
def Fig.numbers (f : Fig) : List Nat :=
  [f.wd, f.ht, f.rn, f.rd, f.lat, f.codec, f.prof, f.refs, f.mode, f.band, f.period, f.tools, f.repeats, f.hrd, f.sig]

/-- Whether a tool of R113 is on: its bit applies to the codec, and bits 1 and 14 take effect only in refresh mode 3 (R115). -/
def Fig.tool (f : Fig) (b : Nat) : Bool :=
  bit f.tools b && (if f.codec = 0 then b ≤ 5 else b ≤ 2 || 8 ≤ b) && (b ≠ 1 && b ≠ 14 || f.mode == 3)

/-- The units that access units of the configuration can carry in front of the first slice (R71, R114, R116, R120, R160, R161). -/
def Fig.units (f : Fig) : List PrefixUnit :=
  List.flatten [
    [.aud], if f.codec = 0 then [.vps] else [], [.sps, .pps], if f.codec = 1 ∧ (f.tool 8 ∨ f.tool 9) then [.aps] else [],
    if f.hrd = 1 then [.bufferingPeriod, .pictureTiming] else [], if f.codec = 0 ∧ f.mode ≠ 3 then [.recoveryPoint] else [],
    if f.tcs = 1 ∧ f.mdcv.any (· != 0) then [.mdcv] else [], if f.tcs = 1 ∧ f.cll ≠ 0 then [.cll] else [],
    if f.codec = 1 then [.pictureHeader] else []]

/-- The most bytes of a unit (R138). -/
def Fig.unitMax (f : Fig) (u : PrefixUnit) : Nat := Config.unitMax (u.num :: f.numbers) % 2 ^ 16

/-- The most emulation prevention bytes that `n` bytes after a byte that is not 0 can need: one after every two zeros (R138). -/
def emulMax (n : Nat) : Nat := (n - 1) / 2

/-- The most bytes of the freshness tag: 93 (R250), of whose payload 71 bytes can be zeros. -/
def tagMax : Nat := 93 + emulMax 71

/-- The most bytes of the signature SEI: 1,322 (R257), of whose payload 1,295 bytes can be zeros. -/
def sigMax : Nat := 1322 + emulMax 1295

/-- The most bytes of the ANC SEI in a configuration's prefixes, none without an ANC flow. -/
def Fig.ancRoom (f : Fig) : Nat := if f.anc = 0 then 0 else Config.ancRoom f.numbers % 2 ^ 18

/-- RcPrefixMax (R138). -/
def Fig.prefixMax (f : Fig) : Nat :=
  (f.units.map f.unitMax).foldl (· + ·) 0 + tagMax + (if f.sig = 0 then 0 else sigMax) + f.ancRoom

/-- RcSliceHdrBytes, Hs (R139). -/
def Fig.sliceHdr (f : Fig) : Nat := Config.sliceHeader f.numbers % 2 ^ 16

/-- Φrow of a row with so many CTUs whose floor syntax is intra DC (R139). -/
def Fig.floorRow (f : Fig) (intra : Nat) : Nat := intra * 32 + (f.rowCtus - intra) * 8 + f.tiles * f.sliceHdr

/-- The CTUs of row r inside a band (R117). -/
def Fig.bandCtus (f : Fig) (b : Nat × Nat) (r : Nat) : Nat :=
  if f.mode = 1 then b.2 - b.1 else if f.mode = 2 then (if b.1 ≤ r ∧ r < b.2 then f.rowCtus else 0) else 0

/-- The rows' floor costs of the pictures a stream can contain (R144). -/
def Fig.floorPictures (f : Fig) (intra : Bool) : List (List Nat) :=
  let N := f.rows
  let whole := List.replicate N (f.floorRow f.rowCtus)
  let banded := (List.range N).map fun r => f.floorRow (f.bandCtus (f.bandAt 0) r)
  (if intra || f.mode == 3 || f.codec == 0 || !f.lowLatency then [whole] else []) ++ (if f.mode = 3 then [] else [banded])

/-- Whether a frame budget meets (a) to (c) of R144. -/
def Fig.budgetOk (f : Fig) (pics : List (List Nat)) (F : Nat) : Bool :=
  let N := f.rows
  let z := if f.mode = 3 then 3 else 5
  let top := (pics.flatMap id).foldl max 0
  let E := lineOf F f.ht N
  (pics.all fun p => decide (f.prefixMax + p.headD 0 ≤ E (f.lat - 1 : Nat)) &&
      decide (f.prefixMax + p.foldl (· + ·) 0 + z ≤ F)) &&
    (List.range N).all fun r => decide (top ≤ E r - E ((r : Int) - 1))

/-- The first number at or above `x` by steps of `s` that satisfies a test. -/
def searchUp (ok : Nat → Bool) (s : Nat) : Nat → Nat → Nat
  | 0, x => x
  | n + 1, x => if ok x then x else searchUp ok s n (x + s)

/-- The two sizes that frames of bitrate B take. -/
def Fig.sizes (f : Fig) (b : Nat) : List Nat :=
  let q := b * f.rd / (8 * f.rn)
  if b * f.rd % (8 * f.rn) = 0 then [q] else [q, q + 1]

/-- RcMinBitrate (R144); with `intra`, for a stream that contains a picture intra throughout (R169). -/
def Fig.minRate (f : Fig) (intra : Bool) : Nat :=
  let pics := f.floorPictures intra
  let top := (pics.flatMap id).foldl max 1
  let last := f.ht - 64 * (f.rows - 1)
  let F0 := max ((top - 1) * f.ht / last) (pics.foldl (fun m p => max m (p.foldl (· + ·) (f.prefixMax))) 1)
  let F1 := max F0 (pics.foldl (fun m p => max m ((f.prefixMax + p.headD 0) * f.ht / (64 * f.lat))) 0)
  let F := searchUp (f.budgetOk pics) 1 8192 F1
  searchUp (fun b => (f.sizes b).all (f.budgetOk pics)) 64 8192 (ceilDiv (8 * F * f.rn) (f.rd * 64) * 64)

/-- RcCpbSize for bitrate B (R160). -/
def Fig.cpb (f : Fig) (b : Nat) : Nat :=
  let span := (f.sizes b).foldl (fun m F => (List.range f.rows).foldl (fun (m : Nat) (r : Nat) =>
    max m (lineOf F f.ht f.rows ((r : Int) + f.lat - 1) - lineOf F f.ht f.rows ((r : Int) - f.lat + 1))) m) 0
  ceilDiv (8 * span + ceilDiv b 90000) 16 * 16

/-! ### Memory (R84, R165 to R167, R195) -/

/-- Bytes rounded up to whole blocks of 64 KiB. -/
def blockUp (n : Nat) : Nat := blocksFor n * 65536

/-- A picture buffer of a raster with `cw` columns of CTU records (R165, R166). -/
def bufferBytes (wd ht cw : Nat) : Nat :=
  blockUp (ceilDiv (8 * wd * ht) 3) + blockUp (ceilDiv wd 16 * ceilDiv ht 16 * 16) + blockUp (ceilDiv cw 64 * ceilDiv ht 64 * 16)

/-- RefBufferBytes (R165, R166). -/
def Fig.bufBytes (f : Fig) : Nat := if f.pair then bufferBytes 4096 f.ht 3840 else bufferBytes f.wd f.ht f.wd

/-- Q (R167). -/
def Fig.poolSize (f : Fig) : Nat := f.refs + 1 + ceilDiv ((f.rows + f.lat - 2) * 64) f.ht

/-- IngRowBufRows (R84). -/
def Fig.rowBufRows (f : Fig) : Nat := f.lat + 1 + ceilDiv (f.skew * f.rn * f.ht) (64 * f.rd * secUnits)

/-- Bytes of a row buffer on each die (R85). -/
def Fig.rowBufBytes (f : Fig) : Nat := f.rowBufRows * ((if f.pair then f.wd / 2 else f.wd) * 160)

/-! ### Legs -/

/-- A receiving leg (R73). -/
structure Leg where
  port : Nat
  dst : Nat
  udp : Nat
  src : Nat
  vlan : Nat
  pol : Nat
deriving DecidableEq, Repr

/-- The leg whose fields start at a key. -/
def legAt (g : Nat → Val) (k : Nat) : Leg :=
  { port := (g k).nat, dst := beNat (g (k + 1)).toBytes, udp := (g (k + 2)).nat, src := beNat (g (k + 3)).toBytes,
    vlan := (g (k + 4)).nat, pol := (g (k + 5)).nat }

/-- Legs A and B of a flow whose fields start at a key; a leg without a port receives nothing. -/
def legsAt (g : Nat → Val) (k : Nat) (both : Bool) : List Leg :=
  (legAt g k :: (if both then [legAt g (k + 6)] else [])).filter fun l => l.port != 0xFF

/-- A sending leg (R220, R268): port, destination, UDP port, VLAN, DSCP. -/
structure OutLeg where
  leg : Nat
  port : Nat
  dst : Nat
  udp : Nat
  vlan : Nat
  dscp : Nat
deriving DecidableEq, Repr

/-- The sending leg whose fields start at a key. -/
def outLegAt (g : Nat → Val) (leg k : Nat) : OutLeg :=
  { leg := leg, port := (g k).nat, dst := beNat (g (k + 1)).toBytes, udp := (g (k + 2)).nat, vlan := (g (k + 3)).nat,
    dscp := (g (k + 4)).nat }

/-- Sending legs A and B whose fields start at a key. -/
def outLegsAt (g : Nat → Val) (k : Nat) (both : Bool) : List OutLeg :=
  (outLegAt g 0 k :: (if both then [outLegAt g 1 (k + 5)] else [])).filter fun l => l.port != 0xFF

/-- The bytes around an RTP packet in its frame: UDP, IP, Ethernet, VLAN tag and FCS (R244). -/
def OutLeg.around (l : OutLeg) : Nat := 8 + (if l.dst / 2 ^ 32 = 0xFFFF then 20 else 40) + 18 + (if l.vlan = 0xFFFF then 0 else 4)

/-- The legs of a channel's flows: kind 0 video, 1 audio, 2 ancillary (R74). -/
def chLegs (g : Nat → Val) (n : Nat) (bound : Bool) : List (Nat × Leg) :=
  (if bound then [] else (legsAt g (Ob.IngPortA n) ((g (Ob.IngLegMode n)).nat == 1)).map fun l => (0, l)) ++
  ((List.range 4).flatMap fun f =>
    let m := (g (Ob.IngAudMode n f)).nat
    if m = 0 then [] else (legsAt g (Ob.IngAudPortA n f) (m == 2)).map fun l => (1, l)) ++
  (let m := (g (Ob.IngAncMode n)).nat
   if m = 0 then [] else (legsAt g (Ob.IngAncPortA n) (m == 2)).map fun l => (2, l))

/-- The output legs of a channel. -/
def chOutLegs (g : Nat → Val) (n : Nat) : List OutLeg := outLegsAt g (Ob.OutPortA n) ((g (Ob.OutLegMode n)).nat == 1)

/-- The output legs of a context under a reading of its objects (R218). -/
def cxOutLegs (g : Nat → Val) (c : Nat) : List OutLeg :=
  if (g (Ob.CxEnable c)).nat = 1 ∧ (g (Ob.CxOutMode c)).nat ≠ 0 then
    outLegsAt g (Ob.CxOutPortA c) ((g (Ob.CxOutMode c)).nat == 2) else []

/-- The output legs of an audio port (R239). -/
def auOutLegs (g : Nat → Val) (p : Nat) : List OutLeg :=
  if (g (Ob.AuEnable p)).nat = 1 ∧ (g (Ob.AuDirection p)).nat = 0 ∧ (g (Ob.AuOutMode p)).nat ≠ 0 then
    outLegsAt g (Ob.AuOutPortA p) ((g (Ob.AuOutMode p)).nat == 2) else []

/-! ### Transport-stream audio (R240, R246) -/

/-- An ST 302 elementary stream: its first audio channel in the source, its audio channels, bits, samples of a block and blocks per
second. The source is an ingest flow (0 to 3) or 16 + an audio port. -/
structure Es where
  src : Nat
  first : Nat
  chans : Nat
  bits : Nat
  samples : Nat
  blocks : Nat
deriving DecidableEq, Repr

/-- Bytes of the PES of a block (R246, R262): an odd group is padded to a pair. -/
def Es.pesBytes (e : Es) : Nat := 18 + e.samples * ((e.chans + 1) / 2) * (if e.bits = 16 then 5 else 7)

/-- RTP packets of a block. -/
def Es.packets (e : Es) : Nat := ceilDiv (ceilDiv e.pesBytes 184) 7

/-- Groups of up to eight audio channels. -/
def esGroups (src chans bits samples blocks : Nat) : List Es :=
  (List.range (ceilDiv chans 8)).map fun i =>
    { src := src, first := 8 * i, chans := min 8 (chans - 8 * i), bits := bits, samples := samples, blocks := blocks }

/-- Enabled slots of a mask. -/
def maskSlots (m : Nat) : List Nat := (List.range 32).filter fun i => bit m i

/-- The elementary streams of an audio port into a channel, under a reading of its objects (R240). -/
def auStreams (g : Nat → Val) (p n : Nat) : List Es :=
  if (g (Ob.AuEnable p)).nat = 1 ∧ (g (Ob.AuDirection p)).nat = 0 ∧ (g (Ob.AuTsCarry p)).nat = 1 ∧ (g (Ob.AuChannel p)).nat = n then
    let b := (g (Ob.AuBlock p)).nat
    esGroups (16 + p) (maskSlots (g (Ob.AuSlotMask p)).nat).length (g (Ob.AuSampleBits p)).nat (b * 48 / 1000) (1000000 / b)
  else []

/-- The elementary streams of the channel's ingest flows, which are carried at 48 kHz only (R246). -/
def flowStreams (g : Nat → Val) (n : Nat) : List Es :=
  (List.range 4).flatMap fun f =>
    if (g (Ob.IngAudMode n f)).nat = 0 ∨ (g (Ob.IngAudRate n f)).nat ≠ 48 then []
    else esGroups f (g (Ob.IngAudChannels n f)).nat (if (g (Ob.IngAudEncoding n f)).nat = 0 then 16 else 24) 48 1000

/-- The elementary streams a channel carries: ports in rising number, then its flows. -/
def Sys.streams (y : Sys) (g : Nat → Val) (n : Nat) : List Es :=
  ((List.range (4 * y.part.dies)).flatMap fun p => auStreams y.val p n) ++ flowStreams g n

/-- Na: audio RTP packets per second (R246, R261). -/
def naOf (l : List Es) : Nat := (l.map fun e => e.blocks * e.packets).foldl (· + ·) 0

/-! ### Retransmission store (R261, R262) -/

/-- U (R261). -/
def Fig.unit (f : Fig) : Nat := if f.out = 1 then 1232 else f.payload - 64

/-- Rp, exactly (R261). -/
def Fig.packetRate (f : Fig) (na : Nat) : Rat :=
  (ceilDiv f.rate (8 * f.unit) : Rat) + 2 * ((f.rows * f.rn : Nat) : Rat) / (f.rd : Rat) + (na : Rat)

/-- The smallest power of two not below n, up to 2¹⁶. -/
def pow2At (n : Nat) : Nat := ((List.range 17).map fun i => 2 ^ i).find? (fun k => n ≤ k) |>.getD 65536

/-- K (R261). -/
def Fig.rtxSlots (f : Fig) (na : Nat) : Nat :=
  if f.depth = 0 then 0 else pow2At (ratCeil ((f.depth : Rat) * f.packetRate na / 1000)).toNat

/-- A slot's bytes (R261). -/
def Fig.rtxSlot (f : Fig) : Nat := if f.out = 1 then 1344 else ceilDiv (12 + f.payload + 16) 64 * 64

/-- RtxDepthEff (R261). -/
def Fig.depthEff (f : Fig) (na : Nat) : Nat :=
  if f.depth = 0 then 0 else min f.depth (ratFloor (1000 * (f.rtxSlots na : Rat) / f.packetRate na)).toNat

/-! ### Timed reservations (R244) -/

/-- The reservation of a channel's leg at bitrate B: the stream and its audio. -/
def Fig.reserve (f : Fig) (b na : Nat) : Rat :=
  ((2 * f.lat - 2) * b : Nat) * 115 / 100 + (if f.out = 1 then (na * 1418 * 8 : Nat) else (0 : Nat) : Rat)

/-- Octets of pixels a packet of a context output carries: whole pixel pairs of one line behind an 8-octet payload header (log
entry 41). -/
def cxData (payload : Nat) : Nat := (payload - 8) / 5 * 5

/-- Packets of a line of a context output. -/
def cxPacketsPerLine (wd payload : Nat) : Nat := ceilDiv (wd / 2 * 5) (max 5 (cxData payload))

/-- The reservation of a context's leg (R244). -/
def cxReserve (g : Nat → Val) (c : Nat) (l : OutLeg) : Rat :=
  let v := fun k => (g k).nat
  let wd := v (Ob.CxWidth c)
  let pay := v (Ob.CxOutPayload c)
  let big := min (cxData pay) (wd / 2 * 5) + 20
  ((cxPacketsPerLine wd pay * v (Ob.CxHeight c) * v (Ob.CxRateNum c) * 8 * (big + l.around + 20) : Nat) : Rat) /
    (max 1 (v (Ob.CxRateDen c)) : Rat)

/-- Samples a packet of an audio port's flow holds (R239). -/
def auPerPacket (g : Nat → Val) (rate p : Nat) : Nat := (g (Ob.AuOutPtime p)).nat * rate / 1000

/-- The reservation of an audio port's leg (R244). -/
def auReserve (g : Nat → Val) (p : Nat) (l : OutLeg) : Rat :=
  let s := (maskSlots (g (Ob.AuSlotMask p)).nat).length
  let rate := (g Ob.AuFrameRate).nat
  ((1000000 / max 1 (g (Ob.AuOutPtime p)).nat * 8 * (12 + 3 * s * auPerPacket g rate p + l.around + 20) : Nat) : Rat)

/-- The readings a context or port commits may bring: live, and live under each pending set (R214). -/
def Sys.readings (y : Sys) (ctx : Nat) : List (Nat → Val) :=
  y.val :: (y.pend.filter fun (p : Pend) => p.key == ctx).map fun p => y.ofSet p.set

/-- The largest of some rationals. -/
def ratMax (l : List Rat) : Rat := l.foldl (fun a b => if a < b then b else a) 0

/-- What the legs of a flow that lie on a port reserve. -/
def legSum (p : Nat) (legs : List OutLeg) (f : OutLeg → Rat) : Rat :=
  ((legs.filter fun l => l.port == p).map f).foldl (· + ·) 0

/-- The bitrate of a channel that the sums count: what runs now. -/
def Sys.chReserve (y : Sys) (n p : Nat) (b : Nat) : Rat :=
  let g := y.cfg n
  let f := y.fig n
  let na := naOf (y.streams g n)
  legSum p (chOutLegs g n) (fun _ => f.reserve b na)

/-- The sum of the timed reservations of a port, without a channel, a context or an audio port that is being judged (R244). -/
def Sys.reservedBut (y : Sys) (p : Nat) (ch cx au : Option Nat) : Rat :=
  let a := (y.activeChans.filter fun n => some n != ch).map fun n => y.chReserve n p (max (y.chan n).bitrate (match (y.chan n).nextBitrate with
    | some e => e.1
    | none => 0))
  let b := ((List.range (4 * y.part.dies)).filter fun c => some c != cx).map fun c =>
    ratMax ((y.readings (Ob.CxCommit c)).map fun g => legSum p (cxOutLegs g c) (cxReserve g c))
  let d := ((List.range (4 * y.part.dies)).filter fun k => some k != au).map fun k =>
    ratMax ((y.readings (Ob.AuCommit k)).map fun g => legSum p (auOutLegs g k) (auReserve g k))
  (a ++ b ++ d).foldl (· + ·) 0

/-- PortTimedReserved (R244, R291): the bitrates and sets now live. -/
def Sys.reservedNow (y : Sys) (p : Nat) : Nat :=
  let a := y.activeChans.map fun n => y.chReserve n p (y.chan n).bitrate
  let b := (List.range (4 * y.part.dies)).map fun c => legSum p (cxOutLegs y.val c) (cxReserve y.val c)
  let d := (List.range (4 * y.part.dies)).map fun k => legSum p (auOutLegs y.val k) (auReserve y.val k)
  (ratCeil ((a ++ b ++ d).foldl (· + ·) 0)).toNat

/-- Whether a port can carry so much (R244): the MAC rate of the mode last written. -/
def Sys.portHolds (y : Sys) (p : Nat) (sum : Rat) : Bool := decide (sum ≤ (modeRate (y.nat (Ob.PortMode p)) : Rat))

/-! ### Gate control lists (R276, R284, R285) -/

/-- The used entries of a list: gates and interval in ns. -/
def gclOf (g : Nat → Val) (p : Nat) : List (Nat × Nat) :=
  let t := (g (Ob.GclEntries p)).toBytes
  (List.range (g (Ob.GclLength p)).nat).map fun i =>
    let w := entryOf t i
    (bits w 47 40, bits w 31 0)

/-- C in ns (R284). -/
def gclCycle (l : List (Nat × Nat)) : Nat := (l.map Prod.snd).foldl (· + ·) 0

/-- Whether a list leaves a class open in every entry, or is off (R276). -/
def classOpen (g : Nat → Val) (p c : Nat) : Bool := (g (Ob.GclEnable p)).nat != 1 || (gclOf g p).all fun e => bit e.1 c

/-- Whether a class is open in the live and every pending list of a port (R276). -/
def Sys.classFree (y : Sys) (p c : Nat) : Bool := (y.readings (Ob.PortCommit p)).all fun g => classOpen g p c

end Sys2Proof.Machine
end

