-- ==== Sys2Proof/Machine/Compose.lean ====
section
/-! DEFINITION. What a compositor context draws: source rectangles, scalers, the pixel path, blending, hatching, and the layers that
contribute to a pixel (R70, R199 to R210). -/

namespace Sys2Proof.Machine

/-! ### Samples (R70, R199 steps 1 and 2) -/

/-- A sample at 10 bit (R70). -/
def to10 (depth v : Nat) : Nat := if depth = 8 then v * 4 else if depth = 12 then min 1023 ((v + 2) / 4) else v

/-- The three 10-bit components of a colour object. -/
def colour10 (v : Nat) : Nat × Nat × Nat := (bits v 29 20, bits v 19 10, bits v 9 0)

/-- One component of three. -/
def comp (c : Nat) (v : Nat × Nat × Nat) : Nat := if c = 0 then v.1 else if c = 1 then v.2.1 else v.2.2

/-- A rational rounded to nearest, halves away from zero (R529). -/
def roundRat (q : Rat) : Int := roundDiv q.num q.den

/-- The received or filled pixel of a flow frame at 10 bit (R96). -/
def rawPixel (g : Nat → Val) (l : Nat) (fr : LyFrame) (x yy : Nat) : Nat × Nat × Nat :=
  match fr.segs.find? fun (s : Seg) => s.line == yy && decide (s.off ≤ x) && decide (x < s.off + s.px.length) with
  | some s =>
    let d := (g (Ob.LyIngDepth l)).nat
    let v := s.px.getD (x - s.off) (0, 0, 0)
    (to10 d v.1, to10 d v.2.1, to10 d v.2.2)
  | none => colour10 (g (Ob.LyFillColor l)).nat

/-- A sample of a plane of a decoded picture at 10 bit; its content is open (log entry 8). -/
def LyFrame.plane (fr : LyFrame) (c x yy : Nat) : Nat := to10 fr.depth (Config.content fr.id yy x c % 2 ^ fr.depth)

/-- A chroma sample of a decoded picture on a line of luma: 4:2:0 is upsampled vertically first (R199 step 2, log entry 109). -/
def LyFrame.chromaLine (fr : LyFrame) (c x yy : Nat) : Nat :=
  if fr.chroma = 1 then
    let i := yy / 2
    let j := if yy % 2 = 0 then i - 1 else min (i + 1) (ceilDiv fr.ht 2 - 1)
    (3 * fr.plane c x i + fr.plane c x j + 2) / 4
  else fr.plane c x yy

/-- A co-sited sample, or between two the rounded mean of its neighbours; `cols` columns of the picture, of which `f` reads an even one. -/
def between (f : Nat → Nat) (cols x : Nat) : Nat :=
  if x % 2 = 0 then f x else (f (x - 1) + f (if x + 1 < cols then x + 1 else x - 1) + 1) / 2

/-- A component of a layer's source picture at 4:4:4 (R199 step 2). -/
def sample (g : Nat → Val) (l : Nat) (fr : LyFrame) (c x yy : Nat) : Nat :=
  if fr.decoded then if c = 0 then fr.plane 0 x yy else between (fun e => fr.chromaLine c (e / 2) yy) fr.wd x
  else if c = 0 ∨ (g (Ob.LyIngSampling l)).nat ≠ 0 then comp c (rawPixel g l fr x yy)
  else between (fun e => comp c (rawPixel g l fr e yy)) fr.wd x

/-! ### Rectangles and scalers (R201 to R203) -/

/-- The crop of a layer in a source raster: origin, width and height (R201). -/
def cropOf (g : Nat → Val) (l wd ht : Nat) : Nat × Nat × Nat × Nat :=
  let v := fun k => (g k).nat
  let x := v (Ob.LyCropX l)
  let yy := v (Ob.LyCropY l)
  (x, yy, if v (Ob.LyCropW l) = 0 then wd - x else v (Ob.LyCropW l), if v (Ob.LyCropH l) = 0 then ht - yy else v (Ob.LyCropH l))

/-- The raster a layer's source has, or for a decoded layer at most has. -/
def sourceRaster (g : Nat → Val) (l : Nat) : Nat × Nat :=
  let v := fun k => (g k).nat
  if v (Ob.LySource l) = 2 then (v (Ob.DecMaxWidth l), v (Ob.DecMaxHeight l)) else (v (Ob.LyIngVidWidth l), v (Ob.LyIngVidHeight l))

/-- The destination of a layer: origin and size. -/
def destOf (g : Nat → Val) (l : Nat) : Int × Int × Nat × Nat :=
  ((g (Ob.LyDstX l)).toInt, (g (Ob.LyDstY l)).toInt, (g (Ob.LyDstW l)).nat, (g (Ob.LyDstH l)).nat)

/-- Whether a pixel of the context lies in a layer's destination. -/
def insideDst (g : Nat → Val) (l x yy : Nat) : Bool :=
  let d := destOf g l
  decide (d.1 ≤ x) && decide ((x : Int) < d.1 + d.2.2.1) && decide (d.2.1 ≤ yy) && decide ((yy : Int) < d.2.1 + d.2.2.2)

/-- Whether a layer is drawn without a scaler: both ratios are 1, or it has no pixels to scale. -/
def unscaled (g : Nat → Val) (l : Nat) : Bool :=
  let r := sourceRaster g l
  let c := cropOf g l r.1 r.2
  let d := destOf g l
  (g (Ob.LySource l)).nat == 3 || (c.2.2.1 == d.2.2.1 && c.2.2.2 == d.2.2.2)

/-- Ls (R203). -/
def storedLines (hc hd : Nat) : Nat := if hc ≤ hd then 5 else 4 + ceilDiv hc (max 1 hd)

/-- Entries of a scaler when g scalers serve a layer (R203). -/
def lineNeed (g : Nat → Val) (l n : Nat) : Nat :=
  let r := sourceRaster g l
  let c := cropOf g l r.1 r.2
  let d := destOf g l
  ceilDiv (min c.2.2.1 d.2.2.1) n * storedLines c.2.2.2 d.2.2.2

/-- The scalers a layer takes: 0 without scaling, 1 or 2, and 3 when two are not enough (R203). -/
def scalersOf (g : Nat → Val) (l : Nat) : Nat :=
  let r := sourceRaster g l
  let wc := (cropOf g l r.1 r.2).2.2.1
  let fits := fun n => decide (ceilDiv wc n ≤ 8192) && decide (lineNeed g l n ≤ 40960)
  if unscaled g l then 0 else if fits 1 then 1 else if fits 2 then 2 else 3

/-- The position in 16.16 fixed point that destination offset `i` reads: `n / d` is the ratio (R202). -/
def scalePos (o n d : Nat) (i : Int) : Int := (o : Int) * 65536 + (2 * i + 1) * (n * 65536 : Nat) / (2 * max 1 d : Nat) - 32768

/-- The taps around a position, kept within the crop (R202). -/
def tapsAt (pos : Int) (before count lo hi : Nat) : List Nat :=
  (List.range count).map fun i => (clampInt (pos / 65536 - before + i) lo hi).toNat

/-- The phase of a position. -/
def phaseOf (pos : Int) : Nat := (pos % 65536 / 1024).toNat

/-- A scaled component kept at 10 bit. -/
def clip10 (v : Int) : Int := clampInt v 0 1023

/-- A component of a layer at a place of its destination (R199 step 3, R202). -/
def scaled (g : Nat → Val) (l : Nat) (fr : LyFrame) (c : Nat) (dx dy : Int) : Nat :=
  let (xc, yc, wc, hc) := cropOf g l fr.wd fr.ht
  let d := destOf g l
  let wd := d.2.2.1
  let hd := d.2.2.2
  if wc = wd ∧ hc = hd then sample g l fr c (xc + dx.toNat) (yc + dy.toNat)
  else
    let px := scalePos xc wc wd dx
    let py := scalePos yc hc hd dy
    let xs := tapsAt px 3 8 xc (xc + wc - 1)
    let ys := tapsAt py 2 6 yc (yc + hc - 1)
    let hor := fun (t : List Int) => clip10 (Config.scaleTaps wc wd (phaseOf px) t)
    let ver := fun (t : List Int) => clip10 (Config.scaleTaps hc hd (phaseOf py) t)
    let at_ := fun (x yy : Nat) => (sample g l fr c x yy : Int)
    (if wd < wc then ver (ys.map fun yy => hor (xs.map fun x => at_ x yy))
      else hor (xs.map fun x => ver (ys.map fun yy => at_ x yy))).toNat

/-! ### Colour (R199 steps 4 to 6 and 10, R200; matrices of BT.709 and BT.2020, log entry 43) -/

/-- Kr and Kb of a colorimetry. -/
def lumaOf (colr : Nat) : Rat × Rat := if colr = 0 then (2126 / 10000, 722 / 10000) else (2627 / 10000, 593 / 10000)

/-- A component to 10-bit full range, rounded and clipped. -/
def full10 (q : Rat) : Nat := (clip10 (roundRat (1023 * q))).toNat

/-- Y, Cb, Cr to R′, G′, B′. -/
def toRgb (colr range : Nat) (v : Nat × Nat × Nat) : Nat × Nat × Nat :=
  let (kr, kb) := lumaOf colr
  let n := range = 0
  let yy : Rat := if n then ((v.1 : Rat) - 64) / 876 else (v.1 : Rat) / 1023
  let cd : Rat := if n then 896 else 1023
  let cb := ((v.2.1 : Rat) - 512) / cd
  let cr := ((v.2.2 : Rat) - 512) / cd
  let r := yy + 2 * (1 - kr) * cr
  let b := yy + 2 * (1 - kb) * cb
  (full10 r, full10 ((yy - kr * r - kb * b) / (1 - kr - kb)), full10 b)

/-- R′, G′, B′ to Y, Cb, Cr of a range, rounded and clipped. -/
def toYcc (colr range : Nat) (v : Nat × Nat × Nat) : Nat × Nat × Nat :=
  let (kr, kb) := lumaOf colr
  let r : Rat := (v.1 : Rat) / 1023
  let b : Rat := (v.2.2 : Rat) / 1023
  let yy := kr * r + (1 - kr - kb) * ((v.2.1 : Rat) / 1023) + kb * b
  let cb := (b - yy) / (2 * (1 - kb))
  let cr := (r - yy) / (2 * (1 - kr))
  let n := range = 0
  let out := fun (q : Rat) => (clip10 (roundRat q)).toNat
  (out (if n then 64 + 876 * yy else 1023 * yy), out (512 + (if n then 896 else 1023) * cb), out (512 + (if n then 896 else 1023) * cr))

/-- A row of a gamut matrix in units of 1/4,096 (R200). -/
def gamutRows (m : Nat) : List (Int × Int × Int) :=
  let q := fun (a b c : Int) => (roundDiv (a * 4096) 10000, roundDiv (b * 4096) 10000, roundDiv (c * 4096) 10000)
  if m = 1 then [q 6274 3293 433, q 691 9195 114, q 164 880 8956] else [q 16605 (-5876) (-728), q (-1246) 11329 (-83), q (-182) (-1006) 11187]

/-- The gamut stage (R200). -/
def gamut (m : Nat) (v : Nat × Nat × Nat) : Nat × Nat × Nat :=
  if m = 0 then v
  else
    let row := fun (i : Nat) =>
      let (a, b, c) := (gamutRows m).getD i (0, 0, 0)
      (clampInt (roundDiv (a * v.1 + b * v.2.1 + c * v.2.2) 4096) 0 16383).toNat
    (row 0, row 1, row 2)

/-- Entry i of a table of 16-bit entries. -/
def lutAt (t : List Byte) (i : Nat) : Nat := leNat ((t.drop (2 * i)).take 2)

/-- The post-blend table (R200). -/
def postLut (t : List Byte) (v : Nat) : Nat :=
  let e := fun i => ((lutAt t (min i 4095) % 4096 : Nat) : Int)
  let i := v / 4
  let o := e i + ((e (i + 1) - e i) * (v % 4 : Nat) + 2) / 4
  min 1023 ((o.toNat + 2) / 4)

/-- The blend-domain components of a colour object (R206). -/
def blend14 (v : Nat) : Nat × Nat × Nat := (bits v 41 28, bits v 27 14, bits v 13 0)

/-- Colorimetry and range of what a layer shows. A decoded stream's come from its VUI, and are BT.709 narrow range without one (R199 step 4;
codes of matrix_coeffs, log entry 110). -/
def sourceColour (g : Nat → Val) (l : Nat) (fr : Option LyFrame) : Nat × Nat :=
  match fr with
  | some f =>
    if f.decoded then
      match f.vui with
      | some (m, full) => if m = 2 then (0, 0) else (if m = 9 then 1 else 0, full)
      | none => (0, 0)
    else ((g (Ob.LyIngColorimetry l)).nat, (g (Ob.LyIngRange l)).nat)
  | none => ((g (Ob.LyIngColorimetry l)).nat, (g (Ob.LyIngRange l)).nat)

/-- Steps 4 to 6 of a layer's pixel. -/
def layerColour (g : Nat → Val) (l : Nat) (rgb : Bool) (col : Nat × Nat) (v : Nat × Nat × Nat) : Nat × Nat × Nat :=
  let range := col.2
  let p := if rgb then
      let x := fun (c : Nat) => if range = 0 then full10 (((c : Rat) - 64) / 876) else c
      (x v.2.2, x v.1, x v.2.1)
    else toRgb col.1 range v
  let t := (g (Ob.LyPreLut l)).toBytes
  let at_ := fun i => lutAt t i % 16384
  gamut (g (Ob.LyGamut l)).nat (at_ p.1, at_ p.2.1, at_ p.2.2)

/-! ### Blending and hatching (R205 to R210) -/

/-- Whether a pixel of a hatched layer is hatched in a frame (R209). -/
def hatchAt (count x yy : Nat) : Bool := (x + yy + 2 * (count % 16)) % 32 < 8

/-- What a layer of a frame gives a pixel: alpha and colour; `none` outside its destination, or while it has nothing to show. -/
def layerAt (g : Nat → Val) (c : Nat) (pick : Shown → Option LyFrame) (count : Nat) (s : Shown) (x yy : Nat) :
    Option (Nat × (Nat × Nat × Nat)) :=
  let l := s.ly
  if ¬insideDst g l x yy then none
  else if s.hatched ∧ hatchAt count x yy = true then some (1023, blend14 (g (Ob.CxHatchColor c)).nat)
  else
    let a := (g (Ob.LyAlpha l)).nat
    if (g (Ob.LySource l)).nat = 3 then some (a, blend14 (g (Ob.LyColor l)).nat)
    else
      match pick s with
      | some fr =>
        let d := destOf g l
        let at_ := fun comp => scaled g l fr comp (x - d.1) (yy - d.2.1)
        let rgb := !fr.decoded && (g (Ob.LyIngSampling l)).nat == 2
        some (a, layerColour g l rgb (sourceColour g l (some fr)) (at_ 0, at_ 1, at_ 2))
      | none => if s.hatched then some (a, layerColour g l false (sourceColour g l none) (colour10 (g (Ob.LyFillColor l)).nat)) else none

/-- One component of a blend (R206). -/
def blendOne (a p acc : Nat) : Nat := (a * p + (1023 - a) * acc + 511) / 1023

/-- The blend of a pixel (R206); a pixel not composed in time is background (R192). -/
def blendPixel (g : Nat → Val) (c : Nat) (pick : Shown → Option LyFrame) (fr : CxFrame) (lost : Bool) (x yy : Nat) : Nat × Nat × Nat :=
  let bg := blend14 (g (Ob.CxBackground c)).nat
  if lost then bg
  else fr.shown.foldl (fun acc s => match layerAt g c pick fr.count s x yy with
    | some (a, p) => (blendOne a p.1 acc.1, blendOne a p.2.1 acc.2.1, blendOne a p.2.2 acc.2.2)
    | none => acc) bg

/-- Whether a pixel lies in one of some ranges of a line, each its first pixel and the one after its last. -/
def lostAt (l : List (Nat × Nat)) (x : Nat) : Bool := l.any fun e => decide (e.1 ≤ x) && decide (x < e.2)

/-- A composed line as Y, Cb, Cr: chroma at even columns, repeated at odd ones (R199 steps 9 to 11). -/
def composeLine (g : Nat → Val) (c : Nat) (pick : Shown → Option LyFrame) (fr : CxFrame) (lost : List (Nat × Nat)) (yy : Nat) :
    List (Nat × Nat × Nat) :=
  let wd := (g (Ob.CxWidth c)).nat
  let t := (g (Ob.CxPostLut c)).toBytes
  let full := (List.range wd).map fun x =>
    let p := blendPixel g c pick fr (lostAt lost x) x yy
    toYcc (g (Ob.CxColorimetry c)).nat (g (Ob.CxRange c)).nat (postLut t p.1, postLut t p.2.1, postLut t p.2.2)
  let at_ := fun (i : Nat) => full.getD (min i (wd - 1)) (0, 0, 0)
  (List.range wd).map fun x =>
    let e := x - x % 2
    let f := fun (h : Nat × Nat × Nat → Nat) => (h (at_ (e - 1)) + 2 * h (at_ e) + h (at_ (e + 1)) + 2) / 4
    ((at_ x).1, f (fun v => v.2.1), f fun v => v.2.2)

/-- Alpha of a layer of a frame at a pixel of its destination, with a hatched pixel as 1,023 (R207). -/
def alphaAt (g : Nat → Val) (count : Nat) (s : Shown) (x yy : Nat) : Nat :=
  if s.hatched ∧ hatchAt count x yy = true then 1023 else (g (Ob.LyAlpha s.ly)).nat

/-- The layers that contribute to a pixel: the list is bottom first (R207). -/
def contributors (g : Nat → Val) (count x yy : Nat) : List Shown → List Shown
  | [] => []
  | s :: above =>
    let rest := contributors g count x yy above
    let inside := fun (t : Shown) => insideDst g t.ly x yy
    if inside s && alphaAt g count s x yy != 0 && !(above.any fun t => inside t && alphaAt g count t x yy == 1023) then s :: rest else rest

/-- The age of a CTU of a context frame: the oldest age among the layers that contribute to its pixels, or A (R210). -/
def composedAge (g : Nat → Val) (pick : Shown → Option LyFrame) (fr : CxFrame) (x0 y0 wd ht : Nat) : Int :=
  let age := fun (s : Shown) => (pick s).bind fun f => f.age
  let pixels := (List.range (min 64 (ht - y0))).flatMap fun j => (List.range (min 64 (wd - x0))).map fun i => (x0 + i, y0 + j)
  let ages := (pixels.flatMap fun p => contributors g fr.count p.1 p.2 fr.shown).filterMap age
  match ages with
  | [] => fr.origin
  | a :: l => l.foldl (fun m v => if tdiff v m < 0 then v else m) a

/-! ### A context's frames -/

/-- The settings a frame of a context is composed with: those live, but for what later commits changed (R216). -/
def Sys.cxSet (y : Sys) (fr : CxFrame) (k : Nat) : Val := Tab.find y.val fr.cfg k

/-- The newest complete frame of a layer (R195, R196): the one that completed last before an instant. -/
def newestDone (l : List LyFrame) (before : Option Int) : Option LyFrame :=
  l.foldl (fun (b : Option LyFrame) fr => match fr.done with
    | none => b
    | some t =>
      if (match before with
        | some x => decide (0 < tdiff x t)
        | none => true) then
        match b with
        | some h => if 0 < tdiff t (h.done.getD 0) then some fr else b
        | none => some fr
      else b) none

/-- What a layer of a frame reads: a row-locked layer reads the frame being received, until its judgement only once a packet of row 0 has
come and the newest complete frame before that (R194, R197; log entry 111). -/
def Sys.cxPick (y : Sys) (fr : CxFrame) (s : Shown) : Option LyFrame :=
  let x := y.ly s.ly
  let live := x.frames.find? fun (f : LyFrame) => f.k == fr.k && (s.locked == 2 || f.row0)
  if s.locked = 1 then live.or (if x.content then newestDone x.frames none else none)
  else if s.locked = 2 then live
  else s.frame

/-- Whether a frame of a context still has lines to compose. -/
def Sys.cxOpen (y : Sys) (c : Nat) (fr : CxFrame) : Bool := decide (fr.next < max 1 (y.cxSet fr (Ob.CxHeight c)).nat)

/-- The frame of the context bound to a channel that has boundary number k. -/
def Sys.cxFrame (y : Sys) (c : Nat) (k : Int) : Option CxFrame := (y.cx c).frames.find? fun (fr : CxFrame) => fr.k == k

end Sys2Proof.Machine
end

