-- ==== Sys2Proof/Machine/Cx6.lean ====
section
/-! DEFINITION. Exact arithmetic of Garnet's complexities: sums of rationals times powers of the sixth root of 2 (R147 to R152). A
number is the list of its six coefficients; missing ones are 0. -/

namespace Sys2Proof.Machine

/-- A rational as a number of the field. -/
def cxOf (q : Rat) : Cx6 := [q]

def cxAdd (a b : Cx6) : Cx6 := (List.range 6).map fun i => a.getD i 0 + b.getD i 0

def cxScale (q : Rat) (a : Cx6) : Cx6 := a.map fun x => q * x

def cxSub (a b : Cx6) : Cx6 := cxAdd a (cxScale (-1) b)

/-- 2^(q/6). -/
def cxPow (q : Int) : Cx6 := List.replicate (q % 6).toNat 0 ++ [(2 : Rat) ^ (q / 6)]

/-- The product: the sixth power of the root is 2. -/
def cxMul (a b : Cx6) : Cx6 :=
  (List.range 6).map fun k => (List.range 6).foldl (fun (s : Rat) i =>
    s + if i ≤ k then a.getD i 0 * b.getD (k - i) 0 else 2 * (a.getD i 0 * b.getD (k + 6 - i) 0)) 0

def cxSum (l : List Cx6) : Cx6 := l.foldl cxAdd []

/-- The integer part of 2^p times the sixth root of 2. -/
def root6 (p : Nat) : Nat :=
  ((List.range (p + 1)).reverse).foldl (fun n i => if (n + 2 ^ i) ^ 6 ≤ 2 ^ (6 * p + 1) then n + 2 ^ i else n) 0

/-- The value with each power of the root replaced by that of `lo` where its coefficient is not negative and of `hi` where it is. -/
def cxAt (lo hi : Rat) (a : Cx6) : Rat :=
  (a.zipIdx).foldl (fun (s : Rat) e => s + e.1 * (if 0 ≤ e.1 then lo else hi) ^ e.2) 0

/-- A lower and an upper bound of a number, from p binary places of the root. -/
def cxBounds (p : Nat) (a : Cx6) : Rat × Rat :=
  let n := root6 p
  let lo : Rat := (n : Rat) / (2 ^ p : Nat)
  let hi : Rat := ((n + 1 : Nat) : Rat) / (2 ^ p : Nat)
  (cxAt lo hi a, cxAt hi lo a)

/-- The sign from bounds of rising precision. -/
def cxSignAt (a : Cx6) : List Nat → Int
  | [] => 0
  | p :: ps =>
    let b := cxBounds p a
    if 0 < b.1 then 1 else if b.2 < 0 then -1 else cxSignAt a ps

/-- The sign of a number: 0 only when every coefficient is, as the root has degree 6 (log entry 50). -/
def cxSign (a : Cx6) : Int := if a.all fun x => x == 0 then 0 else cxSignAt a [48, 192, 768, 3072]

def cxLe (a b : Cx6) : Bool := decide (0 ≤ cxSign (cxSub b a))
def cxLt (a b : Cx6) : Bool := decide (0 < cxSign (cxSub b a))

/-- The integer part of a / b for b above 0. -/
def cxFloorDiv (a b : Cx6) : Int :=
  let k := ratFloor ((cxBounds 192 a).1 / (cxBounds 192 b).2)
  if cxLe (cxScale ((k + 1 : Int) : Rat) b) a then k + 1
  else if cxLe (cxScale (k : Rat) b) a then k
  else k - 1

end Sys2Proof.Machine
end

