-- ==== Sys2Proof/Machine/Fabric.lean ====
section
/-! DEFINITION. Spinel: address decode, bridges and routes, the matrix of masters and targets, register blocks, budgets and
the service of requests (16_spinel_fabric.md; R477). -/

namespace Sys2Proof.Machine

/-! ### Bridges and routes (R23, R24, R421 to R424) -/

/-- Where bridge b of die d leads, and the bridge number there (R23, R24). -/
def bridgeEnd (dies d b : Nat) : Option (Nat × Nat) :=
  if b < 2 then some (Nat.xor d 1, b)
  else if b = 2 then (if 2 ≤ d then some (d - 2, 3) else none)
  else if d + 2 < dies then some (d + 2, 2) else none

/-- The one name of a link's direction: the lower die, its bridge, and outbound 0 or inbound 1 there. -/
def linkName (dies d b dir : Nat) : Nat × Nat × Nat :=
  match bridgeEnd dies d b with
  | some (e, c) => if e < d then (e, c, 1 - dir) else (d, b, dir)
  | none => (d, b, dir)

/-- Wire groups out of service in a direction of a bridge. -/
def Sys.groupsOut (y : Sys) (d b dir : Nat) : Nat :=
  let l := linkName y.part.dies d b dir
  (((y.die l.1).fab.groupsOut).filter fun e => e.1 == l.2.1 && e.2.1 == l.2.2).length

/-- Wires spared on a direction of a bridge. -/
def Sys.wiresSpared (y : Sys) (d b dir : Nat) : List (Nat × Nat) :=
  let l := linkName y.part.dies d b dir
  (y.upd.rep.wires.filter fun e => e.1 == l.1 && e.2.1 == l.2.1 && e.2.2.1 == l.2.2).map fun e => e.2.2.2

/-- The state of a bridge: 0 not connected, 1 up, 2 degraded, 3 down (R423, R432, R506). -/
def Sys.bridgeSt (y : Sys) (d b : Nat) : Nat :=
  match bridgeEnd y.part.dies d b with
  | none => 0
  | some (e, _) =>
    if (y.die d).mappedOut || (y.die e).mappedOut || decide (4 < y.groupsOut d b 0) || decide (4 < y.groupsOut d b 1) then 3
    else if 0 < y.groupsOut d b 0 + y.groupsOut d b 1 then 2
    else 1

/-- Whether a bridge carries traffic. -/
def Sys.bridgeUp (y : Sys) (d b : Nat) : Bool := y.bridgeSt d b == 1 || y.bridgeSt d b == 2

/-- `DieBridgeState` (R432). -/
def Sys.bridgeWord (y : Sys) (d : Nat) : Nat :=
  ((List.range 4).map fun b =>
    (y.bridgeSt d b * 64 + (y.wiresSpared d b 0).length + (y.wiresSpared d b 1).length) * 256 ^ b).foldl (· + ·) 0

/-- The pair bridge that carries traffic out of a die: while one is down the other carries all (R423). -/
def Sys.pairBridge (y : Sys) (d : Nat) : Option Nat :=
  if y.bridgeUp d 0 then some 0 else if y.bridgeUp d 1 then some 1 else none

/-- Whether the row of die d is whole from it to a column. -/
def Sys.rowClear (y : Sys) : Nat → Nat → Nat → Bool
  | 0, d, col => d / 2 == col
  | n + 1, d, col =>
    if d / 2 = col then true
    else if d / 2 < col then y.bridgeUp d 3 && y.rowClear n (d + 2) col
    else y.bridgeUp d 2 && y.rowClear n (d - 2) col

/-- The bridge over which traffic leaves die s for die t: R23's, or that of the detour of R424. -/
def Sys.leaveBy (y : Sys) (s t : Nat) : Option Nat :=
  if s / 2 = t / 2 then y.pairBridge s
  else
    let b := if s / 2 < t / 2 then 3 else 2
    if y.bridgeUp s b then some b
    else
      let o := Nat.xor s 1
      let last := 2 * (t / 2) + o % 2
      if y.rowClear 4 o (t / 2) && (last == t || (y.pairBridge last).isSome) then y.pairBridge s else none

/-- The bridge by which traffic from s enters t, when it gets there. -/
def Sys.enterBy (y : Sys) (t : Nat) : Nat → Nat → Option Nat
  | 0, _ => none
  | n + 1, s =>
    match y.leaveBy s t with
    | none => none
    | some b => match bridgeEnd y.part.dies s b with
      | none => none
      | some (e, c) => if e = t then some c else y.enterBy t n e

/-- The dies joined to a list of dies by bridges that are up. -/
def Sys.joined (y : Sys) : Nat → List Nat → List Nat
  | 0, l => l
  | n + 1, l =>
    y.joined n (l ++ (y.dieList.filter fun d => !l.contains d && l.any fun e => (List.range 4).any fun b =>
      y.bridgeUp e b && match bridgeEnd y.part.dies e b with
        | some (f, _) => f == d
        | none => false))

/-- Whether a route remains between D0 and every die in service (R424). -/
def Sys.meshWhole (y : Sys) : Bool :=
  let l := y.joined 8 [0]
  y.dieList.all fun d => (y.die d).mappedOut || l.contains d

/-- An internal system reset of the package is due, with its cause (R486); the first cause stands. -/
def Sys.wantReset (cause : Nat) (y : Sys) : Sys :=
  match y.power.resetDue with
  | some _ => y
  | none => { y with power := { y.power with resetDue := some cause } }

/-- A wire has failed (R422, R423): onto the next spare, or its group goes out of service. -/
def Sys.wireFailed (d b dir g w : Nat) (y : Sys) : Sys :=
  if y.bridgeSt d b = 0 then y
  else
    let l := linkName y.part.dies d b dir
    let key := (l.1, l.2.1, l.2.2, g)
    let used := y.upd.rep.wires.filter fun e => (e.1, e.2.1, e.2.2.1, e.2.2.2.1) == key
    if used.any (fun e => e.2.2.2.2 == w) then y
    else if used.length < 2 then
      (y.onRep fun r => { r with wires := r.wires ++ [(l.1, l.2.1, l.2.2, g, w)] }).raise 0x0703 d b
    else if ((y.die l.1).fab.groupsOut).contains (l.2.1, l.2.2, g) then y
    else
      let was := y.bridgeUp d b
      let y := (y.onDie l.1 fun x => { x with fab := { x.fab with groupsOut := (l.2.1, l.2.2, g) :: x.fab.groupsOut } }).raise
        0x0704 d b
      let y := if was && !y.bridgeUp d b then y.raise 0x0705 d b else y
      if y.meshWhole then y else y.wantReset 6

/-- FLIT_CRC_ERROR (R421, R422): the flit is replayed; three failed replays in a row fail the wire. -/
def Sys.flitError (d b dir g w replays : Nat) (y : Sys) : Sys := if 3 ≤ replays then y.wireFailed d b dir g w else y

/-- WIRE_ERROR_SECOND (R422). -/
def Sys.wireSecond (d b dir g w errors : Nat) (y : Sys) : Sys :=
  if y.nat Ob.FabWireErrMax < errors then y.wireFailed d b dir g w else y

/-! ### Decode (R21, R22, R369, R412 to R414) -/

/-- The package address of a die's window. -/
def dieBase (d : Nat) : Nat := d * 2 ^ 43

/-- The target of an offset (R412): 0 BOOT, 1 to 4 SRAM, 5 and 6 M0 and M1, 7 REG, 8 FLAG, 13 DEF. -/
def targetOf (o : Nat) : Nat :=
  if o < 0x50000 then 0
  else if 0x10000000 ≤ o ∧ o < 0x11800000 then 1 + bits o 9 8
  else if 0x20000000 ≤ o ∧ o < 0x20010000 then 8
  else if 0x20010000 ≤ o ∧ o < 0x30000000 then 7
  else if 0x40000000000 ≤ o ∧ o < 0x40400000000 then 5 + dramCtrl (o - 0x40000000000)
  else 13

/-- The matrix of R413 for the targets of a die; 9 stands for BO0 and BO1, 10 for BO2 and BO3. -/
def reaches (master target : Nat) : Bool :=
  if target = 13 then true
  else if master ≤ 5 then target ≠ 0 && target ≤ 8 && target ≠ 7
  else if master ≤ 8 then target ≠ 0 && target ≠ 7
  else if master ≤ 10 then target = 8 || (1 ≤ target && target ≤ 4)
  else if master ≤ 14 then true
  else if master = 15 then target = 7
  else if master = 16 then target ≠ 0 && target ≠ 7
  else if master = 17 then true
  else target ≠ 0 && target ≤ 8

/-- Place in the working SRAM of an offset of BOOT, `none` in the boot ROM (R418). -/
def bootPlace (remap : Bool) (o : Nat) : Option Nat :=
  if remap then (if o < 0x40000 then some o else none) else if o < 0x10000 then none else some (o - 0x10000)

/-- The package address at which a byte of a memory target is kept: the working SRAM at its place in the layout after reset. -/
def keptAt (remap : Bool) (d o : Nat) : Option Nat :=
  if o < 0x50000 then (bootPlace remap o).map fun w => dieBase d + 0x10000 + w else some (dieBase d + o)

/-! ### Decode errors (R415) -/

/-- DEF answers (R415). -/
def Sys.decodeError (d master addr : Nat) (y : Sys) : Sys :=
  let y := (y.bump (Ob.DieFabDecErr d) 1).onDie d fun x =>
    { x with fab := { x.fab with decAddr := if x.fab.decAddr = 0 then 2 ^ 63 + master * 2 ^ 48 + addr % 2 ^ 48 else x.fab.decAddr } }
  y.raiseLimited 0x0701 d d addr

/-- Reading `DieFabDecAddr` clears it (R415). -/
def Sys.clearDecAddr (d : Nat) (y : Sys) : Sys := y.onDie d fun x => { x with fab := { x.fab with decAddr := 0 } }

/-! ### Register blocks (R477) -/

/-- What a register block of R477 holds at a die offset, as a block number and the place in it. -/
def regBlock (o : Nat) : Option (Nat × Nat) :=
  if 0x20010000 ≤ o ∧ o < 0x20010004 then some (0, o - 0x20010000)
  else if 0x20100000 ≤ o ∧ o < 0x20110000 then some (1, o - 0x20100000)
  else if 0x20110000 ≤ o ∧ o < 0x20120000 then some (2, o - 0x20110000)
  else if 0x20120000 ≤ o ∧ o < 0x20126000 then some (3, o - 0x20120000)
  else if 0x20130000 ≤ o ∧ o < 0x20130600 then some (4, o - 0x20130000)
  else if 0x20140000 ≤ o ∧ o < 0x20140020 then some (5, o - 0x20140000)
  else if 0x20150000 ≤ o ∧ o < 0x20151800 then some (6, o - 0x20150000)
  else none

/-- Whether an offset of REG or FLAG holds a register: the blocks of R477, elsewhere a free value (R414). -/
def regHeld (o : Nat) : Bool := (regBlock o).isSome || Config.regThere (o / 4)

/-- 32 bits of a wide field: byte offset p within it, lowest address first (R477). -/
def wordAt (v p : Nat) : Nat := v / 256 ^ p % 2 ^ 32

/-- The 32 bits of a register at a multiple of 4 of die d; an unlisted register reads a free value (log entry 15). -/
def Sys.regRead (y : Sys) (d o : Nat) : Nat :=
  let x := y.die d
  match regBlock o with
  | some (0, _) => if x.remap then 1 else 0
  | some (1, p) => wordAt ((x.onyx.task (p / 16)).word) (p % 16)
  | some (2, p) => wordAt (Tab.find (fun _ => 0) x.onyx.trace (p / 8)) (p % 8)
  | some (3, p) => wordAt (entryOf (y.bytes (Ob.GclEntries (12 * d + p / 0x800))) (p % 0x800 / 8)) (p % 8)
  | some (4, p) => wordAt (y.entryShown (p / 0x100) (p % 0x100 / 8)) (p % 8)
  | some (5, p) =>
    let a := 4 * d + p / 8
    if p % 8 = 0 then (y.shadowVal (Ob.AuSlotMask a)).nat else y.nat (Ob.AuSlotMask a)
  | some (6, p) => 
    match (Tab.find (fun _ => []) y.jas.tsq (12 * d + p / 0x200))[p % 0x200 / 16]? with
    | some e => wordAt (tsqWord e) (p % 16)
    | none => 0
  | _ => y.freeNow % 2 ^ 32

/-- `v` with the 32 bits at byte offset p of a wide field replaced. -/
def putWord (v p w : Nat) : Nat := setBits v (8 * p + 31) (8 * p) w

/-- A table with entry e replaced. -/
def putEntry (table : List Byte) (e v : Nat) : List Byte := table.take (8 * e) ++ leBytes 8 v ++ table.drop (8 * e + 8)

/-- A write of 32 bits to a register (R394, R418, R477; log entry 15). Read-only and unlisted registers keep what they
hold. -/
def Sys.regWrite (d o w master : Nat) (y : Sys) : Sys :=
  match regBlock o with
  | some (0, _) =>
    if (11 ≤ master ∧ master ≤ 14) ∨ master = 17 then y.onDie d fun x => { x with remap := w % 2 = 1 } else y
  | some (1, p) =>
    let t := (y.onyx d).task (p / 16)
    if t.st = 0 then y.onOnyx d fun o => o.setTask (p / 16) { t with desc := setBits (putWord t.desc (p % 16) w) 127 125 0 } else y
  | some (3, p) =>
    let k := Ob.GclEntries (12 * d + p / 0x800)
    let b := (y.shadowVal k).toBytes
    let e := p % 0x800 / 8
    y.setShadow k (.bytes (putEntry b e (putWord (entryOf b e) (p % 8) w)))
  | some (4, p) =>
    let t := (List.range 32).flatMap fun e => leBytes 8 (y.entryShown (p / 0x100) e)
    let e := p % 0x100 / 8
    (y.bandTableWrite (p / 0x100) (putEntry t e (putWord (entryOf t e) (p % 8) w))).2
  | some (5, p) => if p % 8 = 0 then y.setShadow (Ob.AuSlotMask (4 * d + p / 8)) (.int w) else y
  | _ => y

/-- The aligned words a span of bytes touches. -/
def wordsOf (o n : Nat) : List Nat := (List.range ((o + n + 3) / 4 - o / 4)).map fun i => 4 * (o / 4 + i)

/-- Write bytes to registers, word by word; a byte not written keeps its value. -/
def Sys.regWriteBytes (d o : Nat) (b : List Byte) (master : Nat) (y : Sys) : Sys :=
  y.each (wordsOf o b.length) fun a y =>
    let old := leBytes 4 (y.regRead d a)
    let new := (List.range 4).map fun i =>
      if o ≤ a + i then (b[a + i - o]?).getD (old.getD i 0) else old.getD i 0
    y.regWrite d a (leNat new) master

/-! ### Holders, tiers and budgets (R411, R425 to R431) -/

/-- The position a physical pipeline serves; during a handover the one coming and the one leaving both serve it (R99, R411). -/
def Die.position (x : Die) (phys : Nat) : Option Nat :=
  match (List.range 4).find? fun p => x.map.getD p 15 == phys with
  | some p => some p
  | none => match x.leaving with
    | some (p, a, b) => if a = phys ∨ b = phys then some p else none
    | none => none

/-- The tier of a request (R411). -/
def Sys.tierOf (y : Sys) (d : Nat) (rq : FabReq) : Nat :=
  let m := rq.master
  if m ≤ 4 then (if (y.die d).pipeSt.getD m 0 = 1 then 2 else 0)
  else if m = 5 ∨ m = 9 ∨ m = 10 ∨ m = 17 then 1
  else if 11 ≤ m ∧ m ≤ 14 then (if rq.cls ≤ 2 then 0 else if rq.cls ≤ 6 then 1 else 2)
  else if m = 16 then (if rq.copyRepair then 0 else 2)
  else if 18 ≤ m then min rq.carried 2
  else 0

/-- The budget holder a request is charged to (R411); `none` draws from the pool only. -/
def Sys.holderOf (y : Sys) (d : Nat) (rq : FabReq) : Option Nat :=
  let m := rq.master
  if m ≤ 4 then some (((y.die d).position m).getD 4)
  else if m ≤ 8 then some m
  else if m = 17 then some 9
  else if 11 ≤ m ∧ m ≤ 14 then some (14 + rq.cls)
  else if 18 ≤ m ∧ m ≤ 21 then some (m - 8)
  else none

/-- Bytes a request is charged: 64 for each burst it touches (R427). -/
def chargeOf (rq : FabReq) : Nat := 64 * ((rq.addr + rq.len + 63) / 64 - rq.addr / 64)

/-- Take a charge from credit or pool (R427, R428). -/
def Sys.grantFrom (d m n : Nat) (h : Option Nat) (y : Sys) : Option Sys :=
  match h with
  | some h =>
    let k := 32 * m + h
    let c := Tab.find (fun _ => 0) (y.die d).fab.credits k
    if 0 < c then
      some (y.onDie d fun x => { x with fab := { x.fab with
        credits := Tab.put (fun _ => 0) x.fab.credits k (c - n),
        grants := Tab.modify (fun _ => 0) x.fab.grants m fun g => g + n } })
    else y.poolTake d m n
  | none => y.poolTake d m n

/-- A request is deferred to the next epoch; its holder is counted once per epoch (R429). -/
def Sys.deferReq (d : Nat) (rq : FabReq) (y : Sys) : Sys :=
  let y := y.onDie d fun x => { x with fab := { x.fab with deferred := x.fab.deferred ++ [rq] } }
  match y.holderOf d rq with
  | none => y
  | some h =>
    if (y.die d).fab.defHolders.contains h then y
    else
      let y := y.onDie d fun x => { x with fab := { x.fab with defHolders := h :: x.fab.defHolders } }
      if y.tierOf d rq = 0 then (y.bump (Ob.DieFabDefers d) 1).raiseLimited 0x0702 d d h else y

/-! ### Service -/

/-- A read meets the errors of its bursts; bursts that come back poisoned are listed (R377, R379). -/
def Sys.readBursts (d m k : Nat) : Nat → List Nat → Sys → Sys
  | _, [], y => y
  | a, e :: es, y =>
    let r := y.burstRead d m k e
    (r.2.poison d a r.1).readBursts d m k (a + 64) es

/-- DRAM serves a granted request (R376, R377, R380): a write makes its bursts sound again. -/
def serveDram (d m o : Nat) (rq : FabReq) (r : List Host.Cell × Sys) : List Host.Cell × Sys :=
  let y := r.2
  let loc := dramLoc (dramC o)
  match (y.die d).dram.serving m loc.1 with
  | none => (r.1, y)
  | some k =>
    let y := y.neighbourRefresh loc.2.1
    match rq.wdata with
    | some b =>
      let keep := fun (a : Nat) => !(decide (o ≤ a) && decide (a + 64 ≤ o + b.length))
      (storeBytes memDflt r.1 (dieBase d + 0x40000000000 + o) b,
       y.onDie d fun x => { x with dram := { x.dram with poisoned := x.dram.poisoned.filter keep } })
    | none => (r.1, y.readBursts d m k (64 * (o / 64)) rq.errs)

/-- An SRAM row is recorded as suspect (R506). -/
def Sys.suspectRow (d row : Nat) (y : Sys) : Sys :=
  if y.upd.rep.suspectRows.contains (d, row) then y
  else y.onRep fun r => { r with suspectRows := r.suspectRows ++ [(d, row)] }

/-- A read of an SRAM row meets errors (R506): one was corrected, two or more could not be. Two corrected within one hour, or
an uncorrectable one, make the row suspect. -/
def Sys.sramRead (d row errs : Nat) (y : Sys) : Sys :=
  if errs = 0 then y
  else if errs = 1 then
    let near := (y.die d).sramCe.any fun e => e.1 == row && decide (y.now < e.2 + secU 3600)
    let y := y.onDie d fun x =>
      { x with sramCe := (row, y.now) :: x.sramCe.filter fun e => decide (y.now < e.2 + secU 3600) }
    if near then y.suspectRow d row else y
  else y.suspectRow d row

/-- A decoded request is judged and served, deferred or answered by DEF, on the die of its target. -/
def serveAt (d : Nat) (rq : FabReq) (r : List Host.Cell × Sys) : List Host.Cell × Sys :=
  let y := r.2
  let o := rq.addr % 2 ^ 43
  let t := targetOf o
  let x := y.die d
  let bad := !reaches rq.master t || t == 13 || ((t == 7 || t == 8) && !regHeld o) ||
    (t == 0 && rq.wdata.isSome && (bootPlace x.remap o).isNone)
  if bad then (r.1, y.decodeError d rq.master rq.addr)
  else if t = 5 ∨ t = 6 then
    match y.grantFrom d (t - 5) (chargeOf rq) (y.holderOf d rq) with
    | some y =>
      let y := y.onDie d fun x => { x with fab := { x.fab with
        last := Tab.put (fun _ => 21) x.fab.last (4 * t + y.tierOf d rq) rq.master } }
      serveDram d (t - 5) (o - 0x40000000000) rq (r.1, y)
    | none => (r.1, y.deferReq d rq)
  else
    match rq.wdata with
    | none =>
      if 1 ≤ t ∧ t ≤ 4 then
        (r.1, y.each rq.errs.zipIdx fun e y => y.sramRead d ((o + 64 * e.2 - 0x10000000) / 1024) e.1)
      else r
    | some b =>
      if t = 7 ∨ t = 8 then (r.1, y.regWriteBytes d o b rq.master)
      else match keptAt x.remap d o with
        | some a => (storeBytes memDflt r.1 a b, y)
        | none => r

/-- FABRIC_REQUEST (R413 to R416, R427): on its own die, or over the bridges as a request of the inbound port. -/
def fabRequest (d : Nat) (rq : FabReq) (r : List Host.Cell × Sys) : List Host.Cell × Sys :=
  let y := r.2
  if (y.die d).fab.isolated.contains rq.master then
    (r.1, y.onDie d fun x => { x with fab := { x.fab with held := x.fab.held ++ [rq] } })
  else
    let t := bits rq.addr 45 43
    if 2 ^ 46 ≤ rq.addr ∨ y.part.dies ≤ t then (r.1, y.decodeError d rq.master rq.addr)
    else if t = d then serveAt d rq r
    else match y.leaveBy d t, y.enterBy t 8 d with
      | some b, some c =>
        if reaches rq.master (if b < 2 then 9 else 10) then
          serveAt t { rq with master := 18 + c, carried := y.tierOf d rq } r
        else (r.1, y.decodeError d rq.master rq.addr)
      | _, _ => (r.1, y.decodeError d rq.master rq.addr)

/-! ### Epochs -/

/-- The share of a holder (R426). -/
def Sys.share (y : Sys) (h : Nat) : Nat := y.nat (Ob.FabMemShare h)

/-- Renew the credits and the pool of a controller (R426, R428, R431). -/
def Sys.renew (d m : Nat) (y : Sys) : Sys :=
  let x := y.die d
  let g := grantBytes x.dram.mts (y.nat Ob.FabEpoch) ((x.dram.ctrl m).hotNow)
  let part : Nat → Nat := fun h => g * y.share h / 1000
  let credits := (List.range 22).foldl (fun (t : Tab Int) (h : Nat) =>
    Tab.modify (fun _ => 0) t (32 * m + h) fun (c : Int) => (Int.ofNat (part h)) + (min c (0 : Int))) x.fab.credits
  let given : Nat := ((List.range 22).map part).foldl (fun a b => a + b) 0
  let pool : Int := (g : Int) - (given : Int)
  y.setDie d { x with fab := { x.fab with
    credits := credits, pools := Tab.put (fun _ => 0) x.fab.pools m pool, grants := Tab.put (fun _ => 0) x.fab.grants m 0,
    g := Tab.put (fun _ => 0) x.fab.g m g } }

/-- The largest share of its grant a controller of the die used in the epoch that ends (R372). -/
def Die.epochUse (x : Die) : Nat :=
  ([0, 1].map fun m =>
    let g := Tab.find (fun _ => 0) x.fab.g m
    if g = 0 then 0 else min 1000 (Tab.find (fun _ => 0) x.fab.grants m * 1000 / g)).foldl max 0

/-- Renew the cycle credits of the task classes (R430). -/
def Sys.renewCycles (d : Nat) (y : Sys) : Sys :=
  let c := y.sysHz d * y.nat Ob.FabEpoch / 1000000
  y.onOnyx d fun o => { o with
    deferred := [],
    credit := (List.range 8).foldl (fun t k =>
      Tab.modify (fun _ => 0) t k fun (old : Int) => ((o.coresIn * c * y.nat (Ob.OnyxCycleShare k) / 1000 : Nat) : Int) + min old 0) o.credit }

/-- Insert a request among those judged again: tiers in order, and within a tier round-robin from the master served last
(R416, R425). -/
def insertReq (key : FabReq → Nat) (q : FabReq) : List FabReq → List FabReq
  | [] => [q]
  | a :: r => if key q < key a then q :: a :: r else a :: insertReq key q r

/-- The order of deferred requests at a boundary. -/
def Sys.reqKey (y : Sys) (d : Nat) (q : FabReq) : Nat :=
  let tier := y.tierOf d q
  let last := Tab.find (fun _ => 21) (y.die d).fab.last (4 * targetOf (q.addr % 2 ^ 43) + tier)
  32 * tier + (q.master + 21 - last) % 22

/-- BUDGET_EPOCH (R425). -/
def budgetEpoch (d : Nat) (r : List Host.Cell × Sys) : List Host.Cell × Sys :=
  let y := r.2
  let e := (y.now, (y.die d).epochUse)
  let y := ((y.migrateSwitch d 0).migrateSwitch d 1).each [0, 1] fun m y => y.onCtrl d m fun c => { c with copied := 0 }
  let y := (((y.renew d 0).renew d 1).renewCycles d).onDie d fun x => { x with fab := { x.fab with
    epochAt := y.now, epochLen := y.nat Ob.FabEpoch, defHolders := [], deferred := [],
    used := e :: x.fab.used.filter fun u => decide (y.now < u.1 + secU 1) } }
  let old := (r.2.die d).fab.deferred
  let order := old.foldl (fun l q => insertReq (y.reqKey d) q l) []
  order.foldl (fun r q => serveAt d q r) (r.1, y)

/-- `MemBudgetBytes` (R371, R431): the grant that M0 of D0 gives in the epoch in force, before the first one that of the live objects (log
entry 81). -/
def Sys.budgetShown (y : Sys) : Nat :=
  match Tab.find (fun _ => 0) (y.die 0).fab.g 0 with
  | 0 => grantBytes (memMts (y.nat Ob.MemRateLive)) (y.nat Ob.FabEpoch) false
  | g => g

/-- `DieMemUtil` (R372). -/
def Sys.memUtil (y : Sys) (d : Nat) : Nat :=
  (((y.die d).fab.used.filter fun u => decide (y.now < u.1 + secU 1)).map Prod.snd).foldl max 0

/-! ### Master reset (R419, R420) -/

/-- MASTER_RESET (R419): requests not issued are discarded; a reset that finds any is counted (R420). -/
def Sys.masterReset (d m : Nat) (y : Sys) : Sys :=
  let f := (y.die d).fab
  let found := (f.deferred ++ f.held).any fun q => q.master == m
  let y := y.onDie d fun x => { x with fab := { x.fab with
    deferred := x.fab.deferred.filter fun q => q.master != m,
    held := x.fab.held.filter fun q => q.master != m,
    isolated := if x.fab.isolated.contains m then x.fab.isolated else m :: x.fab.isolated } }
  if found then y.bump (Ob.DieResetDrains d) 1 else y

/-- ISOLATION_END (R420): the requests that waited are judged. -/
def isolationEnd (d m : Nat) (r : List Host.Cell × Sys) : List Host.Cell × Sys :=
  let f := (r.2.die d).fab
  if f.isolated.contains m then
    let y := r.2.onDie d fun x => { x with fab := { x.fab with
      isolated := x.fab.isolated.filter fun k => k != m, held := x.fab.held.filter fun q => q.master != m } }
    (f.held.filter fun q => q.master == m).foldl (fun r q => fabRequest d q r) (r.1, y)
  else r

/-! ### The commands -/

/-- Lift an operation on package memory. -/
def onMem (f : List Host.Cell × Sys → List Host.Cell × Sys) (m fl : List Host.Cell) (y : Sys) :
    List Host.Cell × List Host.Cell × Sys :=
  let r := f (m, y)
  (r.1, fl, r.2)

/-- BUDGET_EPOCH (R425 to R431). -/
def execBudgetEpoch (dt die : Nat) (s : State) : Res := actMem dt (onMem (budgetEpoch die)) s

/-- FABRIC_REQUEST (R414, R427). -/
def execFabricRequest (dt die : Nat) (rq : FabReq) (s : State) : Res := actMem dt (onMem (fabRequest die rq)) s

/-- FLIT_CRC_ERROR (R421, R422). -/
def execFlitCrcError (dt die bridge dir group wire replays : Nat) (s : State) : Res :=
  act dt (Sys.flitError die bridge dir group wire replays) s

/-- WIRE_ERROR_SECOND (R422). -/
def execWireErrorSecond (dt die bridge dir group wire errors : Nat) (s : State) : Res :=
  act dt (Sys.wireSecond die bridge dir group wire errors) s

/-- MASTER_RESET (R419). -/
def execMasterReset (dt die master : Nat) (s : State) : Res := act dt (Sys.masterReset die master) s

/-- ISOLATION_END (R420). -/
def execIsolationEnd (dt die master : Nat) (s : State) : Res := actMem dt (onMem (isolationEnd die master)) s

/-- REMAP_WRITE (R418): only the core clusters and Beryl can write it. -/
def execRemapWrite (dt die master : Nat) (value : Bool) (s : State) : Res :=
  act dt (Sys.regWrite die 0x20010000 (if value then 1 else 0) master) s

end Sys2Proof.Machine
end

