-- ==== Sys2Proof/Machine/Log.lean ====
section
/-! DEFINITION. Event records, the log ring and its flash, notifications, and the flash copies of the persistent objects and
of the repair map (R459 to R462, R475, R491, R501, R524). -/

namespace Sys2Proof.Machine

/-! ### Records (R459) -/

/-- The events whose ARG the spec states: records lost, package address, domain number. -/
def argStated : List Nat := [0x0103, 0x0108, 0x0204]

/-- The 32 bytes of a record: little-endian, with the CRC-16 over bytes 2 to 31 at the lowest address (R459). -/
def LogRec.bytes (r : LogRec) : List Byte :=
  let v := r.code % 2 ^ 16 * 2 ^ 224 + r.die % 8 * 2 ^ 221 + (if r.tvalid then 2 ^ 220 else 0) + min r.count 255 * 2 ^ 208 +
    r.seq % 2 ^ 32 * 2 ^ 176 + r.time % 2 ^ 96 * 2 ^ 80 + r.uptime % 2 ^ 32 * 2 ^ 48 + r.arg % 2 ^ 48
  let b := leBytes 30 v
  leBytes 2 (crc16 b) ++ b

/-- The record read back from 32 bytes; `none` when its CRC fails. -/
def LogRec.ofBytes (b : List Byte) : Option LogRec :=
  if b.length = 32 ∧ leNat (b.take 2) = crc16 (b.drop 2) then
    let v := leNat (b.drop 2)
    some { code := bits v 239 224, die := bits v 223 221, tvalid := bit v 220, count := bits v 215 208, seq := bits v 207 176,
           time := bits v 175 80, uptime := bits v 79 48, arg := bits v 47 0 }
  else none

/-- How many records the ring holds (R460). -/
def ringSize : Nat := 4096

/-- Milliseconds since reset release on D0's free-running clock. -/
def Sys.uptimeMs (y : Sys) : Nat := y.now / msU 1

/-- The record of an event (R459): COUNT is what its rate limit suppressed since the last record of its code and die. -/
def Sys.recordOf (y : Sys) (e : Ev) : LogRec :=
  let b := y.nat Ob.LogTimeBase
  { code := e.code, die := e.die, tvalid := (y.tb b).st != 0 || (y.tb b).everLocked,
    count := min 255 (Tab.find (fun _ => 0) y.evs.suppressed (e.code * 8 + e.die)), seq := y.evs.nextSeq,
    time := time96 ((y.tb b).map.read e.t), uptime := e.t / msU 1,
    arg := if argStated.contains e.code then e.arg % 2 ^ 48 else y.freeNow % 2 ^ 48 }

/-- A record enters the ring and takes its number. -/
def Sys.putRecord (r : LogRec) (y : Sys) : Sys :=
  { y.fresh with evs := { y.evs with
      ring := y.evs.ring ++ [r], nextSeq := (y.evs.nextSeq + 1) % 2 ^ 32,
      suppressed := Tab.put (fun _ => 0) y.evs.suppressed (r.code * 8 + r.die) 0 } }

/-- Send a record to the destinations (R462): 1 to 4 over UDP while the link is up, 5 on CAN FD while it is on the bus. -/
def Sys.notify (r : LogRec) (y : Sys) : Sys :=
  if bit (y.nat Ob.EvtMask) (r.code / 256) ∧ y.alive then
    let y := if y.mgmt.linkUp then
        y.each [1, 2, 3, 4] fun i y => if leNat (y.bytes (Ob.EvtDest (i - 1))) = 0 then y else y.emit (.event i r)
      else y
    if y.nat Ob.EvtCanNode = 0 ∨ y.mgmt.canOff then y else y.emit (.event 5 r)
  else y

/-- One event becomes a record (R459, R460): a full ring discards it, and EV_LOG_LOST comes before the next one written. -/
def Sys.recordOne (e : Ev) (y : Sys) : Sys :=
  let y := if 0 < y.evs.lost ∧ y.evs.ring.length < ringSize then
      let r := y.recordOf { code := 0x0103, arg := y.evs.lost, t := y.now }
      ({ y.putRecord r with evs := { (y.putRecord r).evs with lost := 0 } }).notify r
    else y
  if y.evs.ring.length < ringSize then
    let r := y.recordOf e
    (y.putRecord r).notify r
  else { y with evs := { y.evs with lost := y.evs.lost + 1 } }

/-- LOG_RECORD (R459): the event raised first reaches D0's Beryl. -/
def Sys.logRecord (y : Sys) : Sys :=
  match y.evs.raised with
  | e :: r => ({ y with evs := { y.evs with raised := r } }).recordOne e
  | [] => y

/-- Every event raised becomes a record. -/
def Sys.recordAll (y : Sys) : Sys :=
  let l := y.evs.raised
  ({ y with evs := { y.evs with raised := [] } }).each l Sys.recordOne

/-! ### The log in the flash (R460, R491) -/

/-- The places of records in the flash log. -/
def logSlots : Nat := 262144

/-- The flash offset of a place. -/
def logAt (i : Nat) : Nat := 0x03800000 + 32 * i

/-- A record goes to the flash; a sector is erased before it is entered, and takes the oldest 2,048 records with it. -/
def flashRecord (r : LogRec) (p : List Host.Cell × Sys) : List Host.Cell × Sys :=
  let i := p.2.evs.pos
  let enter := i % 2048 = 0
  let f := if enter then clearBytes p.1 (logAt i) 65536 else p.1
  let full := enter ∧ 127 * 2048 < (r.seq + 2 ^ 32 - p.2.evs.oldest) % 2 ^ 32
  (storeBytes flashDflt f (logAt i) r.bytes,
   { p.2 with evs := { p.2.evs with
      pos := (i + 1) % logSlots, oldest := if full then (p.2.evs.oldest + 2048) % 2 ^ 32 else p.2.evs.oldest } })

/-- Every record of the ring goes to the flash (R460). -/
def flushLog (p : List Host.Cell × Sys) : List Host.Cell × Sys :=
  let l := p.2.evs.ring
  l.foldl (fun p r => flashRecord r p) (p.1, { p.2 with evs := { p.2.evs with ring := [] } })

/-- The number of the newest record (R461). -/
def Sys.newestSeq (y : Sys) : Nat := (y.evs.nextSeq + 2 ^ 32 - 1) % 2 ^ 32

/-- How many records are in the flash and in the ring. -/
def Sys.logCount (y : Sys) : Nat := (y.evs.nextSeq + 2 ^ 32 - y.evs.oldest) % 2 ^ 32

/-- The bytes of the j-th oldest record: in the flash, or still in the ring. -/
def Sys.logBytes (y : Sys) (flash : List Host.Cell) (j : Nat) : List Byte :=
  let inFlash := y.logCount - y.evs.ring.length
  if j < inFlash then loadBytes flashDflt flash (logAt ((y.evs.pos + 2 * logSlots + j - inFlash) % logSlots)) 32
  else match y.evs.ring[j - inFlash]? with
    | some r => r.bytes
    | none => []

/-- What LogRead returns (R461): up to 64 records at or above the cursor. -/
def Sys.logRead (y : Sys) (flash : List Host.Cell) : List Byte :=
  let n := y.logCount
  let first := y.nat Ob.LogCursor - y.evs.oldest
  (List.range (min 64 (n - first))).flatMap fun i => y.logBytes flash (first + i)

/-! ### Persistent objects and the repair map (R475, R501) -/

/-- The persistent objects. -/
def persistentKeys : List Nat :=
  [Ob.MemRateMask, Ob.MgmtIpv4, Ob.MgmtIpv4Prefix, Ob.MgmtIpv6, Ob.MgmtIpv6Prefix, Ob.MgmtCanReqId, Ob.MgmtCanRspId,
   Ob.EvtDest 0, Ob.EvtDest 1, Ob.EvtDest 2, Ob.EvtDest 3, Ob.EvtMask, Ob.EvtCanNode, Ob.LogTimeBase]

/-- The persistent values reach the configuration area. -/
def Sys.savePersist (y : Sys) : Sys :=
  { y with upd := { y.upd with persist := y.live.filter fun e => persistentKeys.contains e.1 },
           mgmt := { y.mgmt with persistDue := false } }

/-- The repair map reaches its area; the copy written carries the next sequence number (R491). -/
def Sys.saveMap (y : Sys) : Sys :=
  let r := { y.upd.rep with seq := (y.upd.rep.seq + 1) % 2 ^ 32 }
  { y with upd := { y.upd with rep := r, flashRep := r }, mgmt := { y.mgmt with mapDue := false } }

/-! ### The commands -/

/-- Lift an operation on the flash. -/
def onFlash (f : List Host.Cell × Sys → List Host.Cell × Sys) (m fl : List Host.Cell) (y : Sys) :
    List Host.Cell × List Host.Cell × Sys :=
  let r := f (fl, y)
  (m, r.1, r.2)

/-- LOG_RECORD (R459). -/
def execLogRecord (dt : Nat) (s : State) : Res := act dt Sys.logRecord s

/-- LOG_FLASH_WRITE (R460, R499): not held up by an update. -/
def execLogFlashWrite (dt : Nat) (s : State) : Res := actMem dt (onFlash flushLog) s

/-- PERSISTENT_FLASH_WRITE (R475, R499): it waits for an update chunk in progress. -/
def execPersistentFlashWrite (dt : Nat) (s : State) : Res :=
  act dt (fun y => y.cond (y.mgmt.persistDue && y.upd.chunk.isNone) Sys.savePersist) s

/-- REPAIR_MAP_WRITE (R501, R499). -/
def execRepairMapWrite (dt : Nat) (s : State) : Res :=
  act dt (fun y => y.cond (y.mgmt.mapDue && y.upd.chunk.isNone) Sys.saveMap) s

end Sys2Proof.Machine
end

