-- ==== Sys2Proof/Machine/Flash.lean ====
section
/-! DEFINITION. The boot flash as bytes: selector records, images and their validity, and the update path (R491 to R493, R496
to R498). -/

namespace Sys2Proof.Machine

/-! ### The selector (R493) -/

/-- A selector record. -/
structure SelRec where
  seq : Nat
  active : Nat
  previous : Nat
  trial : Nat
  attempts : Nat
deriving DecidableEq, Repr

/-- The 64 bytes of a record. -/
def SelRec.bytes (r : SelRec) : List Byte :=
  let b := codes [0x52, 0x5A, 0x53, 0x4C] ++ beBytes 4 r.seq ++ codes [r.active, r.previous, r.trial, r.attempts] ++
    List.replicate 48 0xFF
  b ++ beBytes 4 (crc32c b)

/-- The record that 64 bytes hold, when they are valid. -/
def SelRec.ofBytes (b : List Byte) : Option SelRec :=
  if b.take 4 = codes [0x52, 0x5A, 0x53, 0x4C] ∧ beNat (b.drop 60) = crc32c (b.take 60) then
    some { seq := beNat ((b.drop 4).take 4), active := (b.getD 8 0).toNat, previous := (b.getD 9 0).toNat,
           trial := (b.getD 10 0).toNat, attempts := (b.getD 11 0).toNat }
  else none

/-- The record at a place, 0 to 2047. -/
def selAt (flash : List Host.Cell) (i : Nat) : Option SelRec :=
  if Tab.find flashDflt flash (64 * i) = 0x52 then SelRec.ofBytes (loadBytes flashDflt flash (64 * i) 64) else none

/-- The better of a place and the best before it. -/
def selBetter (flash : List Host.Cell) (i : Nat) (best : Option (Nat × SelRec)) : Option (Nat × SelRec) :=
  match selAt flash i, best with
  | some r, some b => if b.2.seq < r.seq then some (i, r) else some b
  | some r, none => some (i, r)
  | none, b => b

/-- The best of the first n places. -/
def selScan (flash : List Host.Cell) : Nat → Option (Nat × SelRec)
  | 0 => none
  | n + 1 => selBetter flash n (selScan flash n)

/-- The valid record with the highest SEQ, and its place (R493). -/
def selBest (flash : List Host.Cell) : Option (Nat × SelRec) := selScan flash 2048

/-- The record in force; with none valid, slot A is active and not on trial. -/
def selNow (flash : List Host.Cell) : SelRec :=
  match selBest flash with
  | some b => b.2
  | none => { seq := 0, active := 0, previous := 0xFF, trial := 0, attempts := 0 }

/-- The place of the next record. -/
def selNext (flash : List Host.Cell) : Nat :=
  match selBest flash with
  | some b => (b.1 + 1) % 2048
  | none => 0

/-- Put a record at a place; a sector is erased when it is entered. -/
def selWrite (flash : List Host.Cell) (i : Nat) (r : SelRec) : List Host.Cell :=
  storeBytes flashDflt (if i % 1024 = 0 then clearBytes flash (64 * i) 65536 else flash) (64 * i) r.bytes

/-- Append a record; a full sector is left for the other one, which is erased first. -/
def selAppend (flash : List Host.Cell) (f : SelRec → SelRec) : List Host.Cell :=
  let now := selNow flash
  selWrite flash (selNext flash) { f now with seq := (now.seq + 1) % 2 ^ 32 }

/-! ### Images (R491, R492) -/

/-- The flash offset of a slot. -/
def slotBase (slot : Nat) : Nat := if slot = 0 then 0x00100000 else 0x01C00000

/-- A big-endian field of a slot's header. -/
def imgField (flash : List Host.Cell) (slot off n : Nat) : Nat := beNat (loadBytes flashDflt flash (slotBase slot + off) n)

/-- FW_VERSION, SVN and BODYLEN of the image in a slot. -/
def imgFw (flash : List Host.Cell) (slot : Nat) : Nat := imgField flash slot 8 4
def imgSvn (flash : List Host.Cell) (slot : Nat) : Nat := imgField flash slot 6 2
def imgBody (flash : List Host.Cell) (slot : Nat) : Nat := imgField flash slot 16 4

/-- SHAKE256 of the body. -/
def imgBodyDigest (flash : List Host.Cell) (slot : Nat) : List Byte :=
  shake256 (loadBytes flashDflt flash (slotBase slot + 4096) (imgBody flash slot))

/-- IMAGE_DIGEST of R464: the slot from offset 0 to the body's end. -/
def imgDigest (flash : List Host.Cell) (slot : Nat) : List Byte :=
  shake256 (loadBytes flashDflt flash (slotBase slot) (4096 + imgBody flash slot))

/-- The checks of R492 in its order, each with its `UpdFailCause`; 7 stands for a wrong MAGIC or VERSION, for which the spec
gives no cause. -/
def imgChecks (p : Part) (flash : List Host.Cell) (slot : Nat) : List (Bool × Nat) :=
  let head := loadBytes flashDflt flash (slotBase slot) 56
  let sigLen := imgField flash slot 56 2
  let variant := if p.dies = 2 then 0 else if p.dies = 4 then 1 else 2
  [(imgField flash slot 0 4 == 0x525A494D && imgField flash slot 4 1 == 1, 7),
   (decide (imgBody flash slot ≤ 28307456), 1),
   (bit (imgField flash slot 5 1) variant, 5),
   (!p.revoked.contains (imgField flash slot 20 4) && decide (sigLen ≤ 1280) &&
     Config.imageSigned (imgField flash slot 20 4) head (loadBytes flashDflt flash (slotBase slot + 58) sigLen), 3),
   (imgBodyDigest flash slot == (head.drop 24).take 32, 2),
   (decide (p.minSvn ≤ imgSvn flash slot), 4)]

/-- Whether an image is valid (R492). -/
def imgValid (p : Part) (flash : List Host.Cell) (slot : Nat) : Bool := (firstFail (imgChecks p flash slot)).isNone

/-! ### Update (R496 to R498) -/

/-- The slot that is not running. -/
def Sys.otherSlot (y : Sys) : Nat := 1 - y.power.boot.slot

def Sys.onUpd (f : Upd → Upd) (y : Sys) : Sys := { y with upd := f y.upd }

/-- A write to UpdBegin: any unverified transfer is discarded. -/
def Sys.updBegin (total : Nat) (y : Sys) : WriteRes :=
  accept (y.onUpd fun u => { u with st := 1, total := total, offset := 0, chunk := none, cause := 0 })

/-- A write to UpdChunk. -/
def Sys.updChunk (b : List Byte) (y : Sys) : WriteRes :=
  if y.upd.chunk.isSome then abortWith 7 y
  else if b = [] ∨ y.upd.total < y.upd.offset + b.length then abortWith 4 y
  else accept (y.onUpd fun u => { u with st := 2, chunk := some b })

/-- The sectors of 64 KiB that begin within n bytes from an address on. -/
def sectorsFrom (a n : Nat) : List Nat := (List.range (n / 65536 + 1)).filterMap fun i =>
  let s := (ceilDiv a 65536 + i) * 65536
  if s < a + n then some s else none

/-- Bytes nothing is known of. -/
def Sys.freeBytes (y : Sys) (n : Nat) : List Byte := (List.range n).map fun i => BitVec.ofNat 8 (Config.freeValue (y.free + i))

/-- CHUNK_PROGRAM_COMPLETE (R496). After a program error the chunk's bytes are not known, and the transfer has failed. -/
def chunkDone (ok : Bool) (p : List Host.Cell × Sys) : List Host.Cell × Sys :=
  let y := p.2
  match y.upd.chunk with
  | none => p
  | some b =>
    let a := slotBase y.otherSlot + y.upd.offset
    let flash := (sectorsFrom a b.length).foldl (fun f s => clearBytes f s 65536) p.1
    if ok then
      (storeBytes flashDflt flash a b, y.onUpd fun u =>
        { u with st := if u.st = 2 then 1 else u.st, offset := u.offset + b.length, chunk := none })
    else
      (storeBytes flashDflt flash a (y.freeBytes b.length),
       ({ y with free := y.free + b.length }.onUpd fun u => { u with st := 5, chunk := none, cause := 6 }).raise 0x1203 0 0)

/-- A write of 1 to UpdVerify. -/
def Sys.updVerify (y : Sys) : WriteRes := accept (y.onUpd fun u => { u with st := 3 })

/-- UPD_VERIFY_COMPLETE (R496): the slot is read back against R492. -/
def updVerified (p : List Host.Cell × Sys) : List Host.Cell × Sys :=
  let y := p.2
  if y.upd.st = 3 then
    let slot := y.otherSlot
    let short := y.upd.offset < 4096 + imgBody p.1 slot
    match firstFail ((!decide short, 1) :: imgChecks y.part p.1 slot) with
    | none => (p.1, (y.onUpd fun u => { u with st := 4, cause := 0 }).raise 0x1202 0 slot)
    | some c =>
      let c := if c = 7 then 1 + y.freeNow % 6 else c
      (p.1, (y.fresh.onUpd fun u => { u with st := 5, cause := c }).raise 0x1203 0 c)
  else p

/-- A write of 1 to UpdActivate (R497). -/
def updActivate (p : List Host.Cell × Sys) : List Host.Cell × WriteRes :=
  let y := p.2
  if y.upd.st = 4 then
    (selAppend p.1 fun r => { r with active := y.otherSlot, previous := y.power.boot.slot, trial := 1, attempts := 0 },
     accept ((y.raise 0x1204 0 y.otherSlot).wantReset 8))
  else (p.1, abortWith 4 y)

/-- Seconds of a trial. -/
def trialLen : Nat := 600

/-- A write of 1 to UpdConfirm (R498). -/
def updConfirm (p : List Host.Cell × Sys) : List Host.Cell × WriteRes :=
  let y := p.2
  match y.upd.trialFrom with
  | some t =>
    if y.now ≤ t + secU trialLen then
      let svn := imgSvn p.1 y.power.boot.slot
      let up := y.part.minSvn < svn ∧ y.part.svnRaises < 64
      let y := if up then { y with part := { y.part with minSvn := svn, svnRaises := y.part.svnRaises + 1 } } else y
      (selAppend p.1 fun r => { r with trial := 0 },
       accept ((y.onUpd fun u => { u with st := if u.st = 6 then 0 else u.st, trialFrom := none }).raise 0x1205 0 svn))
    else (p.1, accept y)
  | none => (p.1, accept y)

/-- The previous slot becomes active again and a system reset follows (R498). -/
def fallBack (p : List Host.Cell × Sys) : List Host.Cell × Sys :=
  let y := p.2
  (selAppend p.1 fun r => { r with active := r.previous, trial := 0 },
   { y with power := { y.power with boot := { y.power.boot with rollback := true } } }.wantReset 8)

/-- TRIAL_TIMEOUT (R498). -/
def trialOver (p : List Host.Cell × Sys) : List Host.Cell × Sys :=
  match p.2.upd.trialFrom with
  | some t => if t + secU trialLen ≤ p.2.now then fallBack (p.1, p.2.onUpd fun u => { u with trialFrom := none }) else p
  | none => p

/-- Seconds left of the trial (R508). -/
def Sys.trialLeft (y : Sys) : Nat :=
  match y.upd.trialFrom with
  | some t => (t + secU trialLen - y.now) / secU 1
  | none => 0

/-! ### The repair map (R464, R501) -/

/-- Numbers that name the repair map, for its digest. -/
def RepMap.numbers (r : RepMap) : List Nat :=
  let pairs := fun (l : List (Nat × Nat)) => l.length :: l.flatMap fun e => [e.1, e.2]
  pairs r.pipes ++ pairs r.cores ++ pairs r.rows ++ pairs r.suspectRows ++ pairs r.ranks ++
    (r.wires.flatMap fun e => [e.1, e.2.1, e.2.2.1, e.2.2.2.1, e.2.2.2.2])

/-- `RepDigest` and REPAIR_DIGEST (R464): of the repair map as it stands. -/
def Sys.repairDigest (y : Sys) : List Byte := fitBytes 32 (Config.repairDigest y.upd.rep.numbers)

/-! ### The commands -/

/-- CHUNK_PROGRAM_COMPLETE (R496). -/
def execChunkProgramComplete (dt : Nat) (ok : Bool) (s : State) : Res := actMem dt (onFlash (chunkDone ok)) s

/-- UPD_VERIFY_COMPLETE (R496). -/
def execUpdVerifyComplete (dt : Nat) (s : State) : Res := actMem dt (onFlash updVerified) s

/-- TRIAL_TIMEOUT (R498). -/
def execTrialTimeout (dt : Nat) (s : State) : Res := actMem dt (onFlash trialOver) s

end Sys2Proof.Machine
end

