-- ==== Sys2Proof/Machine/Boot.lean ====
section
/-! DEFINITION. Resets, boot, sensors, thermal shutdown and power domains (R456 to R458, R480 to R490, R494, R495, R500, R505,
R506). -/

namespace Sys2Proof.Machine

/-! ### Power domains (R483, R484) -/

/-- Whether a domain of a die is to be on (R483). -/
def Sys.domainWanted (y : Sys) (d i : Nat) : Bool :=
  let x := y.die d
  let up := y.alive && !x.mappedOut
  if i = 0 then true
  else if i ≤ 4 then up
  else if i ≤ 12 then up && !([0, 1, 2, 3].all fun k => y.upd.rep.cores.contains (d, 4 * (i - 5) + k))
  else if i ≤ 20 then up
  else if i ≤ 25 then up && !y.upd.rep.pipes.contains (d, i - 21)
  else if i = 26 then up
  else if i = 27 then up && ((List.range 4).any fun c => (y.cx (4 * d + c)).on || y.flag (Ob.CxEnable (4 * d + c)) ||
      y.pend.any fun (p : Pend) => p.key == Ob.CxCommit (4 * d + c))
  else if i = 28 then up && ((List.range 4).any fun a => (y.au (4 * d + a)).on || y.flag (Ob.AuEnable (4 * d + a)) ||
      y.pend.any fun (p : Pend) => p.key == Ob.AuCommit (4 * d + a))
  else if i = 29 then up
  else if i ≤ 31 then up && !x.dram.failed
  else if i ≤ 35 then up && y.bridgeUp d (i - 32)
  else up && match y.lanePort (12 * d + (i - 36)) with
    | some p => y.portEnabled p
    | none => false

/-- Whether a domain is on or on its way. -/
def Die.domainUp (x : Die) (i : Nat) : Bool := x.domains.contains i || (x.domPending.any fun e => e.1 == i)

/-- Domain changes that wait their turn go on: at most four of a die within any 100 µs (R484). -/
def Sys.domainTurn (d : Nat) : Nat → Sys → Sys
  | 0, y => y
  | n + 1, y =>
    let x := y.die d
    let times := x.domTimes.filter fun t => decide (y.now < t + usU 100)
    match x.domWait with
    | [] => y
    | (i, on) :: r =>
      if 4 ≤ times.length then y
      else
        let x := { x with domWait := r, domTimes := y.now :: times }
        let x := if on then { x with domPending := x.domPending ++ [(i, y.now)] }
          else { x with domains := x.domains.filter fun k => k != i, domPending := x.domPending.filter fun e => e.1 != i }
        (y.setDie d x).domainTurn d n

/-- Beryl brings the domains of a die to what R483 asks for. -/
def Sys.powerDie (d : Nat) (y : Sys) : Sys :=
  let x := y.die d
  let change := (List.range 48).filterMap fun i =>
    let w := y.domainWanted d i
    if w = x.domainUp i then none else some (i, w)
  (y.setDie d { x with domWait := change }).domainTurn d 4

/-- The same for every die. -/
def Sys.powerAll (y : Sys) : Sys := y.each y.dieList Sys.powerDie

/-- DOMAIN_REGULATION_REACHED (R484): the domain's isolation lifts, and a change waiting its turn may go on. -/
def Sys.domainReached (d i : Nat) (y : Sys) : Sys :=
  let x := y.die d
  if x.domPending.any fun e => e.1 == i then
    (y.setDie d { x with domains := i :: x.domains, domPending := x.domPending.filter fun e => e.1 != i }).powerDie d
  else y.powerDie d

/-- `DiePwrDomains` (R508). -/
def Sys.domainWord (y : Sys) (d : Nat) : Nat :=
  ((List.range 48).map fun i => if (y.die d).domains.contains i then 2 ^ i else 0).foldl (· + ·) 0

/-! ### Resets (R475, R486, R487) -/

/-- PLLs after a reset: only which references run is kept. -/
def Sys.keptPlls (y : Sys) : Tab Pll :=
  (y.dieList.flatMap fun d => (List.range 6).map fun p => (8 * d + p, (y.pll d p).refs)).foldl
    (fun t e => Tab.put (fun _ => {}) t e.1 { refs := e.2 }) []

/-- What a reset leaves: fuses, the flash's contents, persistent objects and the log's position; everything else starts again. -/
def Sys.cleared (phase : Phase) (cause : Nat) (y : Sys) : Sys :=
  { part := y.part, now := y.now, free := y.free, live := y.upd.persist,
    power := { phase := phase, refStopped := y.power.refStopped,
               boot := { cause := cause, rollback := y.power.boot.rollback } },
    evs := { nextSeq := y.evs.nextSeq, pos := y.evs.pos, oldest := y.evs.oldest },
    clk := { plls := y.keptPlls },
    upd := { persist := y.upd.persist, rep := y.upd.rep, flashRep := y.upd.rep },
    out := y.out ++ [.pins true] }

/-- Rank records that software cleared go at the reset (R507). -/
def Sys.dropRanks (y : Sys) : Sys :=
  if y.upd.rankClear = [] then y
  else ({ y with upd := { y.upd with rankClear := [] } }).onRep fun r =>
    { r with ranks := y.upd.rankClear.foldl (fun t k => Tab.put (fun _ => 0) t k 0) r.ranks }

/-- What is in the flash before a reset that the package asserts (R460, R475, R501). -/
def saveAll (p : List Host.Cell × Sys) : List Host.Cell × Sys :=
  let y := p.2.recordAll.savePersist.dropRanks
  flushLog (p.1, if y.mgmt.mapDue then y.saveMap else y)

/-- Package memory after a reset: SRAM and working SRAM read 0, and the contents of DRAM are lost (R387, R487; log entry 7). -/
def memCleared (m : List Host.Cell) : List Host.Cell := m.filter fun _ => false

/-- SYSTEM_RESET (R486): SYSRST_N, or an internal cause that is due. -/
def systemReset (pin : Bool) (m fl : List Host.Cell) (y : Sys) : List Host.Cell × List Host.Cell × Sys :=
  match y.power.phase with
  | .powerOn => (m, fl, y)
  | _ =>
    match (if pin then some 1 else y.power.resetDue) with
    | none => (m, fl, y)
    | some c =>
      let p := saveAll (fl, y)
      (memCleared m, p.1, p.2.cleared (.sysReset y.now) c)

/-- POWER_ON_RESET (R486): what was written to the configuration area and the repair map within the last 100 ms may or may not
be there (R475, R501). Records are in the flash (R460). -/
def powerOnReset (m fl : List Host.Cell) (y : Sys) : List Host.Cell × List Host.Cell × Sys :=
  let kept := y.freeNow % 2 = 1
  let y := y.fresh.recordAll
  let y := if kept then y.savePersist else y
  let y := if y.mgmt.mapDue ∧ ¬kept then { y with upd := { y.upd with rep := y.upd.flashRep }, mgmt := { y.mgmt with mapDue := false } } else y
  let y := y.dropRanks
  let y := if y.mgmt.mapDue then y.saveMap else y
  let p := flushLog (fl, y)
  let z := p.2.cleared .powerOn 0
  (memCleared m, p.1, { z with power := { z.power with boot := {} } })

/-- A reset is released and every die begins to boot (R494): the free-running clocks start at 0 (R301). -/
def Sys.released (y : Sys) : Sys :=
  ({ y with now := 0, power := { y.power with phase := .booting }, out := y.out ++ [.pins false] } : Sys).powerAll

/-- SYSTEM_RESET_RELEASE (R486, R338): 100 µs after the cause ended, and not before REFCLK_SYS has run everywhere for 1 ms. -/
def Sys.resetRelease (y : Sys) : Sys :=
  match y.power.phase with
  | .sysReset t => if t + usU 100 ≤ y.now ∧ y.power.refStopped.all (fun r => decide (r + msU 1 ≤ y.now)) then
      { y with power := { y.power with refStopped := [] } }.released else y
  | _ => y

/-- POWER_ON_RELEASE (R486). -/
def Sys.powerOnRelease (y : Sys) : Sys :=
  match y.power.phase with
  | .powerOn => y.released
  | _ => y

/-- REFCLK_SYS_LOST (R338). -/
def Sys.refclkLost (d : Nat) (y : Sys) : Sys :=
  ({ y with power := { y.power with refStopped := y.power.refStopped ++ [y.now] } }.raise 0x0308 d d).wantReset 4

/-! ### The pins (R489) -/

/-- The pin groups of R489 that the package drives or reads. -/
inductive PinGroup where
  | laneTx
  | laneRx
  | audioOut
  | audioIn
  | ppsOut
  | canTx
  | canRx
  | phyReset
  | rgmiiTx
  | mdio
  | ospiSelect
  | ospiBus
  | dramHeld
  | jtag
deriving DecidableEq, Repr

/-- What R489 says of a pin group: `active` is in use as the chapter of its function says, `terminated` a receiver that is terminated. -/
inductive PinState where
  | idle
  | terminated
  | low
  | high
  | highZ
  | ignored
  | scanOnly
  | active
deriving DecidableEq, Repr

/-- The state of a pin group while a reset is held (the second column of R489). -/
def PinGroup.held : PinGroup → PinState
  | .laneTx => .idle
  | .laneRx => .terminated
  | .audioOut => .low
  | .audioIn => .ignored
  | .ppsOut => .low
  | .canTx => .high
  | .canRx => .ignored
  | .phyReset => .low
  | .rgmiiTx => .low
  | .mdio => .highZ
  | .ospiSelect => .high
  | .ospiBus => .highZ
  | .dramHeld => .low
  | .jtag => .scanOnly

/-- The state of a pin group in thermal shutdown (the last column of R489). -/
def PinGroup.shut : PinGroup → PinState
  | .laneTx => .idle
  | .laneRx => .terminated
  | .audioOut => .low
  | .audioIn => .ignored
  | .ppsOut => .low
  | .canTx => .active
  | .canRx => .active
  | .phyReset => .high
  | .rgmiiTx => .active
  | .mdio => .active
  | .ospiSelect => .active
  | .ospiBus => .active
  | .dramHeld => .low
  | .jtag => .scanOnly

/-- The state of a pin group of a die: in boot the management transports start 3 ms after the reset is released, a lane stays idle until a
port uses it, and the DRAM pins are held until training; with boot complete each is as the chapter of its function says (R489). -/
def Sys.pin (y : Sys) (d : Nat) (g : PinGroup) : PinState :=
  let boot := match g with
    | .canTx | .canRx | .phyReset | .rgmiiTx | .mdio => if msU 3 ≤ y.now then g.shut else g.held
    | .ospiSelect | .ospiBus => .active
    | .dramHeld => if y.power.boot.trained.contains d then .active else .low
    | _ => g.held
  match y.power.phase with
  | .powerOn | .sysReset _ => g.held
  | .thermal _ => g.shut
  | .booting | .recovery => boot
  | .running =>
    match g with
    | .phyReset => .high
    | .jtag => .scanOnly
    | .laneRx => .terminated
    | .laneTx => if (List.range 12).any fun l => (y.lanePort (12 * d + l)).any y.portEnabled then .active else .idle
    | _ => .active

/-! ### Boot (R494, R495, R505, R506) -/

/-- SRAM_SELF_TEST_COMPLETE (R506): failing and suspect rows take spares; beyond the spares row-buffer space is withdrawn in
units of 64 KiB, and beyond 3 MiB the die is mapped out. -/
def Sys.sramTested (d : Nat) (bad : List Nat) (y : Sys) : Sys :=
  if y.power.phase = .booting ∧ d < y.part.dies ∧ ¬y.power.boot.sramDone.contains d then
    let y := { y with power := { y.power with boot := { y.power.boot with sramDone := y.power.boot.sramDone ++ [d] } } }
    let spared : List (Nat × Nat) := y.upd.rep.rows.filter fun e => e.1 == d
    let sus : List Nat := (y.upd.rep.suspectRows.filter fun e => e.1 == d).map Prod.snd
    let rows : List Nat := (slotsOf (bad ++ sus)).filter fun r => decide (r < 24576) && !spared.contains (d, r)
    let room := 384 - spared.length
    let now := rows.take room
    let excess := rows.length - room
    let y := if rows.isEmpty && sus.isEmpty then y else y.onRep fun r => { r with
      rows := r.rows ++ now.map fun k => (d, k), suspectRows := r.suspectRows.filter fun e => e.1 != d }
    let y := y.each now fun _ y => y.raise 0x110A d d
    let lost := ceilDiv excess 64 * 65536
    let y := y.onDie d fun x => { x with sramLost := lost }
    if 3 * 2 ^ 20 < lost then (y.onDie d fun x => { x with mappedOut := true }).raise 0x110B d d else y
  else y

/-- Every VALID entry of every band table is calibrated (R327, R494). -/
def Sys.bootCal (y : Sys) : Sys :=
  y.each y.dieList fun d y => y.each (List.range 6) fun p y => y.each (List.range 32) fun e y =>
    if entryValid (entryOf (y.bytes (Ob.ClkBandTable p)) e) then
      let b := Config.bootBand d p e
      y.setCal d p e (some (b.1 % 16, b.2 % 256))
    else y

/-- A PLL leaves bypass at boot, or waits for its selected reference (R494). -/
def Sys.bootPll (d p : Nat) (y : Sys) : Sys :=
  let ref := y.nat (Ob.ClkRefSel p)
  y.onPll d p fun x =>
    if x.refs.contains ref then
      { x with st := 0, ref := ref, entry := y.nat (Ob.ClkBandSelect p), bypassFrom := none, islands := [],
               bypassNs := x.bypassNs + match x.bypassFrom with
                 | some t => nsOf (y.now - t)
                 | none => 0 }
    else { x with st := 3, ref := ref, islands := y.islandsOf d p }

/-- The runtime starts from an image (R494): PLLs, and the address-zero remap. -/
def Sys.runtime (slot fw : Nat) (other trial : Bool) (y : Sys) : Sys :=
  let y := { y with power := { y.power with boot := { y.power.boot with
    imageDone := true, slot := slot, fwVersion := fw, otherSlot := other, trial := trial } } }
  let y := y.bootCal
  y.each y.dieList fun d y =>
    if (y.die d).mappedOut then y
    else (y.each [0, 1, 3, 4, 5] fun p y => y.bootPll d p).onDie d fun x => { x with remap := true }

/-- No image can run: boot ends in recovery (R495). -/
def Sys.recovery (y : Sys) : Sys :=
  ({ y with power := { y.power with phase := .recovery, boot := { y.power.boot with noImage := true, bootMs := y.uptimeMs } } }).raise
    0x010A 0 0

/-- IMAGE_VERIFY_COMPLETE (R495, R498): the active slot, the other one, another attempt of a trial, or recovery. -/
def imageVerified (p : List Host.Cell × Sys) : List Host.Cell × Sys :=
  let y := p.2
  if y.power.phase = .booting ∧ ¬y.power.boot.imageDone then
    let s := selNow p.1
    let ok := fun f slot => imgValid y.part f slot
    if s.trial = 1 then
      if 3 ≤ s.attempts then fallBack p
      else
        let f := selAppend p.1 fun r => { r with attempts := s.attempts + 1 }
        if ok f s.active then (f, y.runtime s.active (imgFw f s.active) false true)
        else if 3 ≤ s.attempts + 1 then fallBack (f, y)
        else (f, y.wantReset 8)
    else if ok p.1 s.active then (p.1, y.runtime s.active (imgFw p.1 s.active) false false)
    else if ok p.1 (1 - s.active) then (p.1, y.runtime (1 - s.active) (imgFw p.1 (1 - s.active)) true false)
    else (p.1, y)
  else p

/-- Whether neither slot can run. -/
def Sys.noImage (y : Sys) (fl : List Host.Cell) : Bool :=
  let s := selNow fl
  s.trial != 1 && !imgValid y.part fl s.active && !imgValid y.part fl (1 - s.active)

/-- The memory island of a die leaves bypass on `MemPllEntry` at `MemRate`, when that rate was trained and has its entry
(R494). -/
def Sys.bootDram (d : Nat) (y : Sys) : Sys :=
  let r := y.nat Ob.MemRate
  if y.trainRates.contains r ∧ ¬(y.die d).dram.failed then
    let y := (y.bootPll d 2).onDie d fun x => { x with dram := { x.dram with bypass := false, rate := r } }
    y.setInt Ob.MemRateLive r
  else y

/-- Pipelines of a die after their self-tests: those that passed serve the positions in ascending number. -/
def Sys.bootPipes (d : Nat) (bad : List Nat) (y : Sys) : Sys :=
  let y := y.each bad fun p y => ((y.bump (Ob.DieSelfTestFails d) 1).onRep fun r => { r with pipes := r.pipes ++ [(d, p)] }).raise
    0x1107 d p
  let out := (y.upd.rep.pipes.filter fun e => e.1 == d).map Prod.snd
  let good := (List.range 5).filter fun p => !out.contains p
  y.onDie d fun x => { x with
    map := (List.range 4).map fun i => good.getD i 15,
    pipeSt := (List.range 5).map fun p => if out.contains p then 3 else 0,
    passed := good, tested := List.replicate 5 y.now }

/-- Cores of a die after their self-tests (R505): the passing ones serve logical cores 0 to 29 in ascending number. -/
def Sys.bootCores (d : Nat) (bad : List Nat) (y : Sys) : Sys :=
  let y := y.each bad fun p y => ((y.bump (Ob.DieSelfTestFails d) 1).onRep fun r => { r with cores := r.cores ++ [(d, p)] }).raise
    0x1109 d p
  let out := (y.upd.rep.cores.filter fun e => e.1 == d).map Prod.snd
  let good := (List.range 32).filter fun p => !out.contains p
  let y := y.each ((List.range 30).filter fun i => decide (good.length ≤ i)) fun i y =>
    y.onOnyx d fun o => o.setCore i { phys := none }
  let y := y.each ((List.range 30).filter fun i => decide (i < good.length)) fun i y =>
    y.onOnyx d fun o => o.setCore i { phys := good[i]? }
  y.onOnyx d fun o => { o with spares := good.drop 30 }

/-- Boot completes (R494, R495, R498). -/
def Sys.bootDone (badPipes badCores : List (Nat × Nat)) (y : Sys) : Sys :=
  let mine := fun (l : List (Nat × Nat)) (d : Nat) (n : Nat) =>
    slotsOf ((l.filter fun e => e.1 == d && decide (e.2 < n)).map Prod.snd)
  let y := y.each (y.dieList.filter fun d => !(y.die d).mappedOut) fun d y =>
    ((y.bootDram d).bootPipes d ((mine badPipes d 5).filter fun p => !y.upd.rep.pipes.contains (d, p))).bootCores d
      ((mine badCores d 32).filter fun p => !y.upd.rep.cores.contains (d, p))
  let y := { y with power := { y.power with phase := .running, boot := { y.power.boot with bootMs := y.uptimeMs } } }
  let y := if y.part.provisioned then y
    else { y with part := { y.part with provisioned := true } }.raise 0x1207 0 0
  let y := y.raise 0x0109 0 0
  let y := if y.power.boot.otherSlot then y.raise 0x1201 0 y.power.boot.slot else y
  let y := if y.power.boot.trial then y.onUpd fun u => { u with st := 6, trialFrom := some y.now } else y
  let y := if y.power.boot.rollback then
      ({ y with power := { y.power with boot := { y.power.boot with rollback := false } } }.onUpd fun u => { u with st := 7 }).raise
        0x1206 0 0
    else y
  y.powerAll

/-- Bytes 0 to 151 of an attestation report (kind 1), a stream key statement (2) or a device certificate (3) (R464). `fill` is what stands in the
bytes from 36 on. -/
def statementOf (p : Part) (kind slot : Nat) (fill : List Byte) : List Byte :=
  codes [0x52, 0x5A, 0x41, 0x54, 1, kind] ++ beBytes 2 152 ++ fitBytes 16 p.serial ++ beBytes 8 p.devId ++ codes [p.dies, slot, 0, 0] ++
    fill

/-- A report or a key statement as of now. -/
def Sys.statement (y : Sys) (fl : List Host.Cell) (kind : Nat) (subject : List Byte) (keyId : Nat) : List Byte :=
  statementOf y.part kind y.power.boot.slot (beBytes 4 y.power.boot.fwVersion ++ imgDigest fl y.power.boot.slot ++ y.repairDigest ++ subject ++
    beBytes 12 (if (y.tb 0).everLocked then time96 (y.tbNow 0) else 0) ++ beBytes 4 keyId)

/-- A statement with its signature. -/
def withSig (body sig : List Byte) : List Byte := body ++ beBytes 2 (sig.take 1280).length ++ sig.take 1280

/-- A statement signed with the attestation key. -/
def signed (body : List Byte) : List Byte := withSig body (Config.attestSign body)

/-- The public halves of the stream-signing and the attestation key (R258, R463). -/
def streamPubKey : List Byte := fitBytes 1793 (Config.keyDomain 0)
def attestPubKey : List Byte := fitBytes 1793 (Config.keyDomain 1)

/-- The device certificate (R464): at manufacture the vendor signed it, whose version, time, key and signature are open. -/
def deviceCert (p : Part) : List Byte :=
  let w := Config.keyDomain 2
  withSig (statementOf p 3 0 (fitBytes 4 w ++ List.replicate 64 0 ++ shake256 attestPubKey ++ fitBytes 12 (w.drop 4) ++ fitBytes 4 (w.drop 16)))
    (w.drop 20)

/-- The stream key statement (R258, R464), signed when the key is loaded at boot (log entry 119). -/
def Sys.certify (fl : List Host.Cell) (y : Sys) : Sys :=
  { y with mgmt := { y.mgmt with streamCert := signed (y.statement fl 2 (shake256 streamPubKey) y.part.streamKeyId) } }

/-- BOOT_COMPLETE (R494, R495). -/
def bootComplete (badPipes badCores : List (Nat × Nat)) (p : List Host.Cell × Sys) : List Host.Cell × Sys :=
  let y := p.2
  if y.power.phase = .booting then
    if (y.die 0).mappedOut ∨ (¬y.power.boot.imageDone ∧ y.noImage p.1) then (p.1, y.recovery)
    else if y.power.boot.imageDone ∧
        (y.dieList.all fun d => (y.die d).mappedOut || (y.power.boot.sramDone.contains d && y.power.boot.trained.contains d)) then
      (p.1, (y.bootDone badPipes badCores).certify p.1)
    else p
  else p

/-! ### Thermal sensors, limiting and shutdown (R33, R34, R456, R457, R500) -/

/-- The grade's limit below which the package counts as cool, in 1/16 °C (R500). -/
def Sys.coolAt (y : Sys) : Int := (80 + 5 * y.part.grade) * 16

/-- A die with every domain off but the always-on one. -/
def Die.dark (x : Die) : Die := { mappedOut := x.mappedOut, sens := x.sens, domains := [0], sramLost := x.sramLost }

/-- The package is dark but for the always-on islands (R500): channels stop without completing their frames. -/
def Sys.shutDown (y : Sys) : Sys :=
  { y with power := { y.power with phase := .thermal none }, pend := [], clk := {}, jas := {}, net := {}, opal := {}, aus := [],
           chans := [], out := y.out ++ [.pins true],
           dies := y.dieList.foldl (fun t d => Tab.put (fun _ => {}) t d (y.die d).dark) [] }

/-- Whether every sensor of every die is cool. -/
def Sys.allCool (y : Sys) : Bool := y.dieList.all fun d => (y.die d).sens.temps.all fun t => decide (t ≤ y.coolAt)

/-- The software's minimum clock of the pipeline islands, in sixteenths (R34). -/
def clockBound : Nat := 1 + Config.minPipeClock % 16

/-- THERMAL_SAMPLE (R457, R500). Thermal limiting keeps a clock, open to the model, that is neither below its bound nor above what keeps the
trip temperature away; only where the second lies below the bound it leaves the bound, and then for that clock (R33, R34; log entry 118). -/
def Sys.thermal (d : Nat) (temps : List Int) (y : Sys) : Sys :=
  let hot := temps.foldl max (-640)
  let s := (y.die d).sens
  let warn := y.int Ob.SensWarnTemp * 16
  let y := y.onDie d fun x => { x with sens := { x.sens with temps := temps } }
  let y := if warn < hot ∧ ¬s.warned then
      (y.onDie d fun x => { x with sens := { x.sens with warned := true } }).raise 0x0201 d d
    else if s.warned ∧ hot ≤ warn - 32 then y.onDie d fun x => { x with sens := { x.sens with warned := false } }
    else y
  match y.power.phase with
  | .thermal c =>
    { y with power := { y.power with phase := .thermal (if y.allCool then some (c.getD y.now) else none) } }
  | .running =>
    if y.int Ob.SensTripTemp * 16 ≤ hot then (y.raise 0x0202 d d).shutDown
    else
      let limiting := y.int Ob.SensLimitTemp * 16 < hot ∨ s.clock16 < 16
      let safe := 1 + y.freeNow % 16
      let past := limiting && decide (safe < clockBound)
      let clock := if ¬limiting then 16 else if past then safe else max clockBound (min safe (1 + y.fresh.freeNow % 16))
      let y := if limiting then y.fresh.fresh else y
      let y := (y.pipeTick d).onDie d fun x => { x with sens := { x.sens with clock16 := clock, thermOver := past } }
      if past && !s.thermOver then (y.bump Ob.OvrThermCount 1).raise 0x0211 d d else y
  | _ => if y.alive ∧ y.int Ob.SensTripTemp * 16 ≤ hot then (y.raise 0x0202 d d).shutDown else y

/-- THERMAL_SHUTDOWN_END (R500): cool for 10 s. -/
def Sys.thermalEnd (y : Sys) : Sys :=
  match y.power.phase with
  | .thermal (some t) => if t + secU 10 ≤ y.now then y.wantReset 7 else y
  | _ => y

/-- The nominal voltage of a monitored rail of a die in mV (R480, R515); for a regulated domain the live set point (R516). -/
def Sys.nominalMv (y : Sys) (d m : Nat) : Nat :=
  match [800, 1800, 1800, 900, 900, 1200, 1050, 500][m]? with
  | some v => v
  | none => (y.die d).sens.rails.getD (m - 8) 750

/-- Whether a reading lies outside its tolerance (R458). -/
def outside (mv nom tenths : Nat) : Bool := decide (nom * tenths < (mv - nom + (nom - mv)) * 1000)

/-- One monitor's reading (R458). -/
def Sys.monitor (d m mv : Nat) (y : Sys) : Sys :=
  let s := (y.die d).sens
  let set := fun (f : Sens → Sens) (y : Sys) => y.onDie d fun x => { x with sens := f x.sens }
  if outside mv (y.nominalMv d m) (y.nat Ob.SensVoltWarn) then
    let since := (Tab.find (fun _ => none) s.badSince m).getD y.now
    let y := set (fun s => { s with badSince := Tab.put (fun _ => none) s.badSince m (some since),
                                    goodSince := Tab.put (fun _ => none) s.goodSince m none }) y
    if since + usU 100 ≤ y.now ∧ ¬s.voltWarned.contains m then
      (set (fun s => { s with voltWarned := m :: s.voltWarned }) y).raise 0x0203 d m
    else y
  else
    let since := (Tab.find (fun _ => none) s.goodSince m).getD y.now
    set (fun s => { s with
      badSince := Tab.put (fun _ => none) s.badSince m none,
      goodSince := Tab.put (fun _ => none) s.goodSince m (some since),
      voltWarned := if since + secU 1 ≤ y.now then s.voltWarned.filter fun k => k != m else s.voltWarned }) y

/-- The software's bounds of the rails, within what the regulators give (R33, R515). -/
def railBounds : Nat × Nat :=
  let hi := 651 + Config.railBounds.2 % 199
  (min hi (650 + Config.railBounds.1 % 200), hi)

/-- VOLTAGE_SAMPLE (R458). The adaptive voltage keeps its rails within the bounds; while the timing margin is low it leaves the maximum by
what keeps the margin, which is open (R33, R34; log entry 118). -/
def Sys.voltage (d : Nat) (mv : List Nat) (low : Bool) (y : Sys) : Sys :=
  let was := (y.die d).sens.voltOver
  let y := y.onDie d fun x => { x with sens := { x.sens with mv := mv, voltOver := low } }
  let y := y.each mv.zipIdx fun e y => y.monitor d e.2 e.1
  let (lo, hi) := railBounds
  let y := y.each (List.range 4) fun i y =>
    let v := if low then min 850 (hi + 1 + y.freeNow % 200) else lo + y.freeNow % (hi - lo + 1)
    y.fresh.onDie d fun x => { x with sens := { x.sens with rails := x.sens.rails.set i v } }
  if low && !was then (y.bump Ob.OvrVoltCount 1).raise 0x0210 d d else y

/-! ### The commands -/

/-- POWER_ON_RESET (R486). -/
def execPowerOnReset (dt : Nat) (s : State) : Res := actMem dt powerOnReset s

/-- POWER_ON_RELEASE (R486). -/
def execPowerOnRelease (dt : Nat) (s : State) : Res := act dt Sys.powerOnRelease s

/-- SYSTEM_RESET (R486). -/
def execSystemReset (dt : Nat) (pin : Bool) (s : State) : Res := actMem dt (systemReset pin) s

/-- SYSTEM_RESET_RELEASE (R486). -/
def execSystemResetRelease (dt : Nat) (s : State) : Res := act dt Sys.resetRelease s

/-- SRAM_SELF_TEST_COMPLETE (R506). -/
def execSramSelfTestComplete (dt die : Nat) (bad : List Nat) (s : State) : Res := act dt (Sys.sramTested die bad) s

/-- IMAGE_VERIFY_COMPLETE (R495). -/
def execImageVerifyComplete (dt : Nat) (s : State) : Res := actMem dt (onFlash imageVerified) s

/-- BOOT_COMPLETE (R494). -/
def execBootComplete (dt : Nat) (badPipes badCores : List (Nat × Nat)) (s : State) : Res :=
  actMem dt (onFlash (bootComplete badPipes badCores)) s

/-- REFCLK_SYS_LOST (R338). -/
def execRefclkSysLost (dt die : Nat) (s : State) : Res := act dt (Sys.refclkLost die) s

/-- ANCHOR_WATCHDOG (R32). -/
def execAnchorWatchdog (dt : Nat) (s : State) : Res := act dt (Sys.wantReset 3) s

/-- THERMAL_SAMPLE (R457). -/
def execThermalSample (dt die : Nat) (temps : List Int) (s : State) : Res := act dt (Sys.thermal die temps) s

/-- THERMAL_SHUTDOWN_END (R500). -/
def execThermalShutdownEnd (dt : Nat) (s : State) : Res := act dt Sys.thermalEnd s

/-- VOLTAGE_SAMPLE (R458). -/
def execVoltageSample (dt die : Nat) (mv : List Nat) (marginLow : Bool) (s : State) : Res := act dt (Sys.voltage die mv marginLow) s

/-- DOMAIN_REGULATION_REACHED (R484). -/
def execDomainRegulationReached (dt die dom : Nat) (s : State) : Res := act dt (Sys.domainReached die dom) s

end Sys2Proof.Machine
end

