-- ==== Sys2Proof/Machine/Wire.lean ====
section
/-! DEFINITION. What a port sends next, and what it sends for itself: reservations and timed launch, the calendar wheel, gates, shapers, fair
queueing, the writes of the retransmission store, control frames and Delay_Req (R57, R68, R72, R261, R269 to R288, R303 to R307, R352). -/

namespace Sys2Proof.Machine

/-! ### Sizes and addresses -/

/-- A leg's own address (R352): IPv4 in its mapped form. -/
def Sys.legAddr (y : Sys) (l : OutLeg) : Nat :=
  if l.dst / 2 ^ 32 = 0xFFFF then 0xFFFF00000000 + y.ownAddr (some l.port) false else y.ownAddr (some l.port) true

/-- The bytes of some NAL units. -/
def nalBytes (l : List (List Byte)) : Nat := (l.map List.length).foldl (· + ·) 0

/-- The bytes of an RTP packet from its header on. -/
def rtpBytes (c : Carry) : Nat :=
  12 + match c with
  | .ts pids .. => 188 * pids.length
  | .single u => u.length
  | .aggregate l => 2 + nalBytes l + 2 * l.length
  | .fragment _ _ n => 3 + n
  | .video .. => 0
  | .audio l => 3 * (l.map List.length).foldl (· + ·) 0
  | .raw d | .control _ _ d => d.length
  | .ptp .. => 0

/-- What sends a flow, for its source port: channels (0), contexts (1) and audio ports (2) by number. -/
def flowOf : Consumer → Nat × Nat
  | .ch n => (0, n)
  | .cx c => (1, c)
  | .audio p => (2, p)
  | .port p => (3, p)

/-- A packet of so many bytes from its RTP header on, in the frame of a sending leg (R218, R220, R249, R264, R268). -/
def Sys.onLeg (y : Sys) (l : OutLeg) (rtp : Nat) (k : Pkt) : Pkt :=
  { k with leg := l.leg, bytes := rtp + l.around, dest := l.dst, udp := l.udp, src := y.legAddr l,
           srcUdp := Config.legSource (flowOf k.owner).1 (flowOf k.owner).2 l.leg % 65536, dscp := l.dscp, vlan := l.vlan, mac := groupMac l.dst }

/-- Who a context is to its time base: the channel bound to it while that is not stopped, or itself (R315). -/
def Sys.cxConsumer (y : Sys) (c : Nat) : Consumer :=
  match y.activeChans.find? fun n => (y.chan n).cx == some c with
  | some n => .ch n
  | none => .cx c

/-! ### Times of packets (R57, R273, R315) -/

/-- The map in which a timed packet is launched. -/
def Sys.pktMap (y : Sys) (k : Pkt) : TbMap :=
  let t := y.tb k.tb
  if k.old then t.old.getD t.map
  else y.view k.tb (match k.owner with
    | .cx c => y.cxConsumer c
    | w => w)

/-- The free-running instant of a packet's launch. -/
def Sys.launchWhen (y : Sys) (k : Pkt) : Int := (y.pktMap k).when k.launch

/-- The time so many bytes take at a port's rate. -/
def Sys.byteTime (y : Sys) (p n : Nat) : Nat := ceilDiv (n * 8 * secUnits) (max 1 (y.portRate p))

/-- The wire time of a frame (R271). -/
def Sys.wireTime (y : Sys) (p bytes : Nat) : Nat := y.byteTime p (bytes + 20)

/-- The counted length of a frame (R271). -/
def Sys.counted (y : Sys) (p bytes : Nat) : Nat := ((bytes : Int) + y.int (Ob.PortLenOverhead p)).toNat

/-- The queue of a timed packet: of its owner on the port, for row packets or for audio, by leg (R269). -/
def Sys.timedQueue (y : Sys) (p : Nat) (k : Pkt) : Nat :=
  let kind := match k.owner with
    | .ch _ => if k.slot.isSome then 0 else 1
    | _ => 0
  let l := (y.net.queues.filter fun q => q.port == p && q.owner == k.owner && q.kind == kind).map fun q => q.num
  l.getD k.leg (l.headD 1023)

/-- The order of due timed packets (R275). -/
def Sys.timedBefore (y : Sys) (p : Nat) (a b : Pkt) : Bool :=
  let s := y.launchWhen a
  let t := y.launchWhen b
  decide (s < t) || (s == t && (decide (b.cls < a.cls) || (a.cls == b.cls && decide (y.timedQueue p a < y.timedQueue p b))))

/-- The first of some timed packets. -/
def Sys.firstTimed (y : Sys) (p : Nat) (l : List Pkt) : Option Pkt :=
  l.foldl (fun (b : Option Pkt) k => match b with
    | some x => if y.timedBefore p k x then some k else b
    | none => some k) none

/-- The timed packets of a port whose launch has come. -/
def Sys.dueTimed (y : Sys) (p : Nat) : List Pkt := (y.port p).timed.filter fun k => decide (y.launchWhen k ≤ y.now)

/-- Release a reservation. -/
def Sys.unreserve (p : Nat) (k : Pkt) (y : Sys) : Sys := y.onPort p fun x => { x with timed := x.timed.erase k }

/-! ### The calendar wheel (R278) -/

/-- What die d's free-running clock reads above D0's. -/
def Sys.skewOf (y : Sys) (d : Nat) : Int := (y.freeRun d : Int) - y.now

/-- The start of the first slot of 64 ns of a die's clock at or after a time. -/
def Sys.slotFor (y : Sys) (d : Nat) (t : Int) : Int :=
  (t + y.skewOf d + nsU 64 - 1) / (nsU 64 : Nat) * (nsU 64 : Nat) - y.skewOf d

/-- The start of the slot farthest ahead of the present one. -/
def Sys.farSlot (y : Sys) (d : Nat) : Int :=
  (y.now + y.skewOf d) / (nsU 64 : Nat) * (nsU 64 : Nat) - y.skewOf d + (4095 * nsU 64 : Nat)

/-- Enter an eligible time; one more than 262,080 ns ahead is parked in the farthest slot. A class has one entry. -/
def Sys.enterWheel (p : Nat) (cls : Option Nat) (t : Int) (y : Sys) : Sys :=
  let d := portDie p
  let e : WheelEnt := { die := d, port := p, cls := cls, at_ := t
                        slot := if (y.now : Int) + nsU 262080 < t then y.farSlot d else y.slotFor d t }
  { y with net := { y.net with wheel := (y.net.wheel.filter fun o => cls.isNone || !(o.port == p && o.cls == cls)) ++ [e] } }

/-- Take a class's entry off the wheel. -/
def Sys.leaveWheel (p c : Nat) (y : Sys) : Sys :=
  { y with net := { y.net with wheel := y.net.wheel.filter fun o => !(o.port == p && o.cls == some c) } }

/-- Entries of a port whose time's slot has started have served. -/
def Sys.wheelServed (p : Nat) (y : Sys) : Sys :=
  { y with net := { y.net with wheel := y.net.wheel.filter fun o => !(o.port == p && decide (y.slotFor o.die o.at_ ≤ (y.now : Int))) } }

/-- Whether a class waits for the slot of its eligible time. -/
def Sys.inDebt (y : Sys) (p c : Nat) : Bool :=
  y.net.wheel.any fun o => o.port == p && o.cls == some c && decide ((y.now : Int) < y.slotFor o.die o.at_)

/-- Put a timed packet into its port, which reserves its launch and enters it on the wheel (R273, R278). -/
def Sys.reserve (p : Nat) (k : Pkt) (y : Sys) : Sys :=
  (y.onPort p fun x => { x with timed := x.timed ++ [k] }).enterWheel p none (y.launchWhen k)

/-! ### The retransmission store (R261, R266, R333) -/

/-- Write a packet into its slot at launch, sent or discarded. With the memory on bypass a write may come too late and is skipped. -/
def Sys.storePkt (p : Nat) (k : Pkt) (y : Sys) : Sys :=
  match k.owner with
  | .ch n =>
    let c := y.chan n
    if c.run = 0 ∨ c.rtxK = 0 ∨ ¬k.stored then y
    else
      let d := portDie p
      let skip := (y.die d).dram.bypass && y.freeNow % 2 == 1
      let y := if (y.die d).dram.bypass then y.fresh else y
      if skip then y
      else
        let st := Tab.find (fun _ => []) c.rtx d
        let slot : RtxSlot := { seq := k.seq, launch := y.launchWhen k, pkt := k }
        y.setChan n { c with rtxNewest := max c.rtxNewest k.ext, rtx := Tab.put (fun _ => []) c.rtx d (Tab.insert (k.seq % c.rtxK) slot st) }
  | _ => y

/-- The output engine compares a row packet's launch with its row's output slot (R68). -/
def Sys.slotCheck (p : Nat) (k : Pkt) (y : Sys) : Sys :=
  match k.owner, k.slot with
  | .ch n, some (s, e) => if s ≤ k.launch ∧ k.launch < e then y else (y.bump (Ob.ChSlotMissCount n) 1).raise 0x0F01 (portDie p) n
  | _, _ => y

/-! ### Timed launch (R275, R277) -/

/-- A frame starts on the wire; a Delay_Req is stamped then (R303). -/
def Sys.startFrame (p : Nat) (k : Pkt) (y : Sys) : Sys :=
  let w := y.wireTime p k.bytes
  let y := ((y.onPort p fun x => { x with wireFree := y.now + w }).bump (Ob.PortTxFrames p) 1).emit (.packet p k)
  match k.carry with
  | .ptp b seq _ => y.stampPtp p b seq
  | _ => y

/-- A timed packet starts: late behind another by more than 8 ns, it is counted. -/
def Sys.startTimed (p : Nat) (k : Pkt) (y : Sys) : Sys :=
  let late := decide (y.launchWhen k + nsU 8 < y.now)
  let y := (y.unreserve p k).slotCheck p k
  let y := if late then (y.bump (Ob.PortTimedCollide p) 1).raiseLimited 0x1003 p (portDie p) p else y
  (y.storePkt p k).startFrame p k

/-- A timed packet whose launch finds the link down is discarded and still stored (R261, R277). -/
def Sys.dropTimed (p : Nat) (k : Pkt) (y : Sys) : Sys :=
  (((y.unreserve p k).slotCheck p k).storePkt p k).bump (Ob.PortDownDrop p) 1

/-! ### Gates (R284 to R288, R318) -/

/-- A gate control list in force: its base, base time, and entries in ns. -/
structure Gate where
  tb : Nat
  base : Int
  ents : List (Nat × Nat)
deriving DecidableEq, Repr

/-- The list of a reading; none when it is off. -/
def gateOf (g : Nat → Val) (p : Nat) : Option Gate :=
  if (g (Ob.GclEnable p)).nat = 1 then
    some { tb := (g (Ob.PortTimeBase p)).nat, base := ofTime96 (g (Ob.GclBaseTime p)).nat, ents := gclOf g p }
  else none

/-- The spans of a class: open or not, and for how long. -/
def Gate.spans (g : Gate) (c : Nat) : List (Bool × Nat) := g.ents.map fun e => (bit e.1 c, nsU e.2)

/-- The spans from a place in the cycle to its end. -/
def spansFrom : List (Bool × Nat) → Nat → List (Bool × Nat)
  | [], _ => []
  | (b, d) :: l, t => if t < d then (b, d - t) :: l else spansFrom l (t - d)

/-- How long the first spans stay open, or closed. -/
def runLen (s : Bool) : List (Bool × Nat) → Nat
  | [] => 0
  | (b, d) :: l => if b = s then d + runLen s l else 0

/-- Whether a class is open at a value of the base, and for how long it stays so; none for ever (R286). -/
def Gate.at_ (g : Gate) (c : Nat) (t : Int) : Bool × Option Nat :=
  let sp := g.spans c
  if sp.all Prod.fst then (true, none)
  else if sp.all fun s => !s.1 then (false, none)
  else
    let cyc := (sp.map Prod.snd).foldl (· + ·) 0
    let l := spansFrom sp ((t - g.base) % (max 1 cyc : Nat)).toNat ++ sp
    let s := (l.headD (true, 0)).1
    (s, some (runLen s l))

/-- The longest window of a class; none when it is always open (R288). -/
def Gate.longest (g : Gate) (c : Nat) : Option Nat :=
  let sp := g.spans c
  if sp.all Prod.fst then none
  else some (((List.range sp.length).map fun i => runLen true (sp.drop i ++ sp)).foldl max 0)

/-- A change of the gates to come: at a free-running instant, a list replaced, or a step of a base. -/
structure Change where
  t : Int
  list : Option (Option Gate)
  tb : Nat := 0
  delta : Int := 0
deriving DecidableEq, Repr

/-- Put a change in its place; at one instant a step comes before a commit. -/
def Change.putIn (c : Change) : List Change → List Change
  | [] => [c]
  | d :: l => if c.t < d.t ∨ (c.t = d.t ∧ c.list.isNone ∧ d.list.isSome) then c :: d :: l else d :: c.putIn l

/-- The commits of a port and the steps of bases that are pending (R287, R318). -/
def Sys.changes (y : Sys) (p : Nat) : List Change :=
  let a := (y.pend.filter fun (q : Pend) => q.key == Ob.PortCommit p).map fun q =>
    let g := y.ofSet q.set
    { t := (y.tb (g (Ob.PortTimeBase p)).nat).map.when q.at_, list := some (gateOf g p) : Change }
  let b := (List.range 8).filterMap fun b => (y.tb b).step.map fun s => { t := (y.tb b).map.when s.1, list := none, tb := b, delta := s.2 : Change }
  ((b ++ a).filter fun (c : Change) => decide ((y.now : Int) < c.t)).foldl (fun l c => c.putIn l) []

/-- The state of a class under a list at a free-running instant, and the instant it changes; `moved` are the steps made by then. -/
def Sys.gateAt (y : Sys) (g : Option Gate) (moved : Tab Int) (c : Nat) (t : Int) : Bool × Option Int :=
  match g with
  | none => (true, none)
  | some g =>
    let m := (y.tb g.tb).map
    let v := m.read t
    let r := g.at_ c (v + Tab.find (fun _ => 0) moved g.tb)
    (r.1, r.2.map fun d => m.when (v + (d : Int)))

/-- The instant at which a class that is open, or closed, at present ceases to be so. -/
def Sys.gateEnd (y : Sys) (c : Nat) (isOpen : Bool) : List Change → Option Gate → Tab Int → Option Int → Option Int
  | [], _, _, e => e
  | ch :: rest, g, moved, e =>
    if (match e with
        | some t => decide (t < ch.t)
        | none => false) then e
    else
      let g := ch.list.getD g
      let moved := Tab.put (fun _ => 0) moved ch.tb (Tab.find (fun _ => 0) moved ch.tb + ch.delta)
      if (match rest with
          | n :: _ => n.t == ch.t
          | [] => false) then y.gateEnd c isOpen rest g moved e
      else
        let s := y.gateAt g moved c ch.t
        if s.1 ≠ isOpen then some ch.t else y.gateEnd c isOpen rest g moved s.2

/-- The live list of a port. -/
def Sys.gate (y : Sys) (p : Nat) : Option Gate := gateOf y.val p

/-- Whether a class is open now, and until when: the close that will occur (R287). -/
def Sys.gateNow (y : Sys) (p c : Nat) : Bool × Option Int :=
  let s := y.gateAt (y.gate p) [] c y.now
  (s.1, y.gateEnd c s.1 (y.changes p) (y.gate p) [] s.2)

/-- Whether a frame of a class ends in time before the close of its window; the guard is time of `PortTimeBase` (R287). -/
def Sys.fitsWindow (y : Sys) (p : Nat) (bytes : Nat) (close : Option Int) : Bool :=
  match close with
  | none => true
  | some e =>
    let m := (y.tb (y.nat (Ob.PortTimeBase p))).map
    decide ((y.now : Int) + y.byteTime p (y.counted p bytes) ≤ m.when (m.read e - nsU (y.nat (Ob.PortGuard p))))

/-- Whether a frame can never fit a window of its class in the live list (R288). -/
def Sys.neverFits (y : Sys) (p c bytes : Nat) : Bool :=
  match (y.gate p).bind fun g => g.longest c with
  | none => false
  | some w => decide (w < y.byteTime p (y.counted p bytes) + nsU (y.nat (Ob.PortGuard p)))

/-- Change the queues. -/
def Sys.mapQueues (f : Queue → Queue) (y : Sys) : Sys := { y with net := { y.net with queues := y.net.queues.map f } }

/-- The heads of a port's untimed queues that can never fit go, each in turn (R288). -/
def Sys.headTests (p : Nat) (y : Sys) : Sys :=
  let bad := fun (q : Queue) => (q.pkts.takeWhile fun w => y.neverFits p q.cls w.pkt.bytes).length
  let n := ((y.net.queues.filter fun q => q.port == p && !q.timed).map bad).foldl (· + ·) 0
  if n = 0 then y
  else
    let y := y.mapQueues fun q => if q.port = p ∧ ¬q.timed then { q with pkts := q.pkts.drop (bad q) } else q
    let y := y.bump (Ob.PortGateDiscard p) n
    y.each (List.range n) fun _ y => y.raiseLimited 0x1004 p (portDie p) p

/-! ### Shapers (R281 to R283) -/

def Sys.cls (y : Sys) (p c : Nat) : Cls := Tab.find (fun _ => {}) (y.port p).classes c
def Sys.setCls (p c : Nat) (x : Cls) (y : Sys) : Sys := y.onPort p fun o => { o with classes := Tab.put (fun _ => {}) o.classes c x }

/-- The tokens of a class at present, in units of 2⁻¹⁶ byte. -/
def Cls.count (x : Cls) (now : Nat) : Int := min ((x.burst * 65536 : Nat) : Int) (x.tokens + ((now - x.at_) * x.rate / 8000000000 : Nat))

/-- Whether a class's shaper acts: it has a rate, and was not turned off with its debt since repaid. -/
def Cls.shaped (x : Cls) (now : Nat) : Bool := x.rate != 0 && !(x.ending && decide (0 ≤ x.count now))

/-- When a class in debt is eligible again, on the free-running clock. -/
def Cls.eligible (x : Cls) : Nat := x.at_ + ceilDiv ((-x.tokens).toNat * 8000000000) (max 1 x.rate)

/-! ### The choice (R272, R274, R279) -/

/-- The untimed queue of a class whose head has the smallest finish tag. -/
def Sys.headOf (y : Sys) (p c : Nat) : Option (Queue × Waiting) :=
  (y.net.queues.filter fun q => q.port == p && !q.timed && q.cls == c).foldl (fun (b : Option (Queue × Waiting)) q =>
    match q.pkts, b with
    | [], b => b
    | w :: _, some x => if w.f < x.2.f ∨ (w.f = x.2.f ∧ q.num < x.1.num) then some (q, w) else b
    | w :: _, none => some (q, w)) none

/-- Change one queue. -/
def Sys.onQueue (d num : Nat) (f : Queue → Queue) (y : Sys) : Sys := y.mapQueues fun q => if q.die = d ∧ q.num = num then f q else q

/-- An untimed packet that waits for a later window is counted once (R287). -/
def Sys.holdHead (p : Nat) (q : Queue) (w : Waiting) (y : Sys) : Sys :=
  if w.held then y
  else
    (y.onQueue q.die q.num fun q => { q with pkts := match q.pkts with
      | a :: l => { a with held := true } :: l
      | [] => [] }).bump (Ob.PortGateHeld p) 1

/-- The untimed packet at the head of a queue is sent: virtual time and shaper follow (R279, R281), and a resend is counted (R264). -/
def Sys.sendHead (p c : Nat) (q : Queue) (w : Waiting) (y : Sys) : Sys :=
  let x := y.cls p c
  let x := { x with v := max x.v w.f }
  let x := if x.shaped y.now then { x with tokens := x.count y.now - ((y.counted p w.pkt.bytes * 65536 : Nat) : Int), at_ := y.now } else x
  let y := (y.setCls p c x).onQueue q.die q.num fun q => { q with pkts := q.pkts.drop 1 }
  let y := if x.shaped y.now ∧ x.tokens < 0 then y.enterWheel p (some c) x.eligible else y
  let y := match q.owner with
    | .ch n => if q.kind = 2 then y.bump (Ob.RtxSent n) 1 else y
    | _ => y
  (y.headTests p).startFrame p w.pkt

/-- Whether an untimed frame passes launch protection (R274). -/
def Sys.protects (y : Sys) (p bytes : Nat) : Bool :=
  (y.port p).timed.all fun k => decide ((y.now : Int) + y.wireTime p bytes ≤ y.launchWhen k)

/-- The classes are examined from 7 down. -/
def Sys.chooseUntimed (p : Nat) : List Nat → Sys → Sys
  | [], y => y
  | c :: rest, y =>
    let x := y.cls p c
    let g := y.gateNow p c
    if ¬g.1 ∨ (x.shaped y.now = true ∧ (x.count y.now < 0 ∨ y.inDebt p c = true)) then y.chooseUntimed p rest
    else match y.headOf p c with
      | none => y.chooseUntimed p rest
      | some (q, w) =>
        if ¬y.fitsWindow p w.pkt.bytes g.2 then (y.holdHead p q w).chooseUntimed p rest
        else if ¬y.protects p w.pkt.bytes then y.chooseUntimed p rest
        else y.sendHead p c q w

/-- A port chooses its next frame (R272); with its link down, timed packets that are due go (R277). -/
def Sys.choose (p : Nat) (y : Sys) : Sys :=
  let y := y.wheelServed p
  if ¬y.portUp p then y.each (y.dueTimed p) (Sys.dropTimed p)
  else if y.now < (y.port p).wireFree then y
  else match y.firstTimed p (y.dueTimed p) with
    | some k => y.startTimed p k
    | none => y.chooseUntimed p [7, 6, 5, 4, 3, 2, 1, 0]

/-- CALENDAR_SLOT (R278): entries whose slot has started leave the wheel. Parked ones are entered again, and the ports of the others
choose. -/
def Sys.calendar (d : Nat) (y : Sys) : Sys :=
  let due := y.net.wheel.filter fun e => e.die == d && decide (e.slot ≤ (y.now : Int))
  let ready := due.filter fun e => decide (y.slotFor d e.at_ ≤ (y.now : Int))
  let y := { y with net := { y.net with wheel := y.net.wheel.filter fun e => !(e.die == d && decide (e.slot ≤ (y.now : Int))) } }
  let y := y.each (due.filter fun e => decide ((y.now : Int) < y.slotFor d e.at_)) fun e y => y.enterWheel e.port e.cls e.at_
  y.each (ready.map WheelEnt.port).eraseDups Sys.choose

/-! ### An untimed packet arrives (R270, R277, R279, R288) -/

/-- Put a packet into an untimed queue; whether it entered. -/
def Sys.enqueue (q : Queue) (k : Pkt) (y : Sys) : Bool × Sys :=
  let p := q.port
  if ¬y.portUp p then (false, y.bump (Ob.PortDownDrop p) 1)
  else if 64 ≤ q.pkts.length then (false, (y.bump (Ob.PortQueueDrop p) 1).raiseLimited 0x1006 p (portDie p) p)
  else
    let s := max (y.cls p q.cls).v q.lastF
    let f := s + y.counted p k.bytes * 65536 / max 1 q.weight
    (true, (y.onQueue q.die q.num fun q => { q with pkts := q.pkts ++ [{ pkt := k, s := s, f := f }], lastF := f }).headTests p)

/-- PACKET_ENQUEUE (R279): an untimed packet of so many frame bytes. -/
def Sys.packetIn (p num bytes : Nat) (y : Sys) : Sys :=
  match y.net.queues.find? fun q => q.die == portDie p && q.num == num && q.port == p && !q.timed with
  | some q => (y.enqueue q { owner := q.owner, cls := q.cls, bytes := bytes, carry := .raw [], stored := false }).2.choose p
  | none => y

/-! ### Control frames and Delay_Req (R72, R269, R307, R352; log entry 73) -/

/-- The frame bytes of so many bytes from the IP or ARP header on, with the VLAN tag of the port's control frames. -/
def Sys.ctlBytes (y : Sys) (p n : Nat) : Nat := max 64 (18 + n) + (if y.nat (Ob.PortVlan p) = 0xFFFF then 0 else 4)

/-- Whether a number is an IPv6 address that is not a mapped IPv4 one. -/
def isV6 (a : Nat) : Bool := a / 2 ^ 32 != 0xFFFF

/-- Put a frame of the port's own into its PTP or control queue, and choose (R269, R272). -/
def Sys.sendOwn (p kind : Nat) (k : Pkt) (y : Sys) : Sys :=
  match y.net.queues.find? fun q => q.port == p && q.kind == kind with
  | some q => (y.enqueue q { k with cls := q.cls, dscp := Config.controlDscp % 64, vlan := y.nat (Ob.PortVlan p), stored := false }).2.choose p
  | none => y

/-- Queue a control frame of so many bytes from its IP or ARP header on. -/
def Sys.sendControl (p kind target dest mac n : Nat) (data : List Byte) (y : Sys) : Sys :=
  y.sendOwn p 4
    { owner := .port p, bytes := y.ctlBytes p n, carry := .control kind target data, dest := dest, mac := mac,
      src := if isV6 dest then y.ownAddr (some p) true else 0xFFFF00000000 + y.ownAddr (some p) false }

/-- Answer a request for an own address; the management port has no queue (R269). -/
def Sys.answerControl (port : Option Nat) (v6 : Bool) (kind target dest n : Nat) (data : List Byte) (y : Sys) : Sys :=
  if y.canAnswer port = true ∧ target ≠ 0 ∧ target = y.ownAddr port v6 then
    match port with
    | some p => y.sendControl p kind target (if v6 then dest else 0xFFFF00000000 + dest) 0 n data
    | none => y.emit (.control kind target dest data)
  else y

/-- Report that a group is joined (kind 3) or left (kind 4): IGMPv3 to 224.0.0.22, MLDv2 to FF02::16 (R72). -/
def Sys.groupReport (p kind group : Nat) (y : Sys) : Sys :=
  let dest := if isV6 group then 0xFF020000000000000000000000000016 else 0xFFFFE0000016
  y.sendControl p kind group dest (groupMac dest) (if isV6 group then 76 else 40) []

/-- DELAY_REQ (R307): on a port of the base, at its interval, multicast or to the selected master. It is stamped when it starts. -/
def Sys.delayReq (b p : Nat) (y : Sys) : Sys :=
  let t := y.tb b
  let iv := pow2Sec (y.tbCfg b (Ob.TbLogDelayReq b))
  let due := match t.drAt with
    | some a => decide (a + iv ≤ y.now)
    | none => true
  let uni := y.tbCfg b (Ob.TbDelayUnicast b) = 1
  let v6 := if uni then isV6 t.masterIp else y.ownAddr (some p) false == 0
  if y.portUp p ∧ y.tbCfg b (Ob.TbRefMode b) = 1 ∧ (y.tbPorts b).contains p = true ∧ t.master.isSome = true ∧ due = true ∧
      y.ownAddr (some p) v6 ≠ 0 then
    let seq := t.drSeq % 65536
    let dest := if uni then t.masterIp else if v6 then 0xFF0E0000000000000000000000000181 else 0xFFFFE0000181
    (y.onTb b fun t => { t with drSeq := t.drSeq + 1, drAt := some y.now }).sendOwn p 3
      { owner := .port p, bytes := y.ctlBytes p (if v6 then 92 else 72), dest := dest, udp := 319, srcUdp := 319,
        carry := .ptp b seq (if uni then some t.masterMac else none), mac := if uni then t.masterMac else groupMac dest,
        src := if v6 then y.ownAddr (some p) true else 0xFFFF00000000 + y.ownAddr (some p) false }
  else y

/-! ### The commands -/

/-- DELAY_REQ (R307). -/
def execDelayReq (dt tb port : Nat) (s : State) : Res := act dt (Sys.delayReq tb port) s

/-- ARP_REQUEST (R352, R448). -/
def execArpRequest (dt : Nat) (port : Option Nat) (target sender : Nat) (s : State) : Res :=
  act dt (Sys.answerControl port false 0 target sender 28 []) s

/-- NEIGHBOUR_SOLICITATION (R352, R448). -/
def execNeighbourSolicitation (dt : Nat) (port : Option Nat) (target sender : Nat) (s : State) : Res :=
  act dt (Sys.answerControl port true 1 target sender 72 []) s

/-- ECHO_REQUEST (R352, R448). -/
def execEchoRequest (dt : Nat) (port : Option Nat) (target sender : Nat) (data : List Byte) (s : State) : Res :=
  let v6 := decide (2 ^ 32 ≤ target)
  act dt (Sys.answerControl port v6 2 target sender ((if v6 then 48 else 28) + data.length) data) s

/-- PACKET_LAUNCH (R275). -/
def execPacketLaunch (dt port : Nat) (s : State) : Res := act dt (Sys.choose port) s

/-- PACKET_ENQUEUE (R279). -/
def execPacketEnqueue (dt port queue bytes : Nat) (s : State) : Res := act dt (Sys.packetIn port queue bytes) s

/-- TX_FRAME_COMPLETE (R272). -/
def execTxFrameComplete (dt port : Nat) (s : State) : Res := act dt (Sys.choose port) s

/-- CALENDAR_SLOT (R278). -/
def execCalendarSlot (dt die : Nat) (s : State) : Res := act dt (Sys.calendar die) s

/-- GATE_OPENING (R272). -/
def execGateOpening (dt port : Nat) (s : State) : Res := act dt (Sys.choose port) s

end Sys2Proof.Machine
end

