-- ==== Sys2Proof/Machine/Start.lean ====
section
/-! DEFINITION. Placement, the checks and allocations of a channel start, its stop, output queues and group joins (R38 to R45, R65,
R66, R72, R74, R84, R85, R92, R162, R167, R244, R259, R262, R269, R276, R349, R471 to R473). -/

namespace Sys2Proof.Machine

/-! ### Output queues (R269) -/

/-- The lowest queue number free on a die. -/
def Sys.freeQueue (y : Sys) (d : Nat) : Nat :=
  ((List.range 1024).find? fun k => !y.net.queues.any fun q => q.die == d && q.num == k).getD 1023

/-- Allocate a queue on the die of its port (R269, R280). -/
def Sys.addQueue (port : Nat) (owner : Consumer) (kind cls : Nat) (timed : Bool) (weight : Nat) (y : Sys) : Sys :=
  let d := portDie port
  let q : Queue := { die := d, num := y.freeQueue d, port := port, owner := owner, kind := kind, cls := cls, timed := timed,
                     weight := weight }
  { y with net := { y.net with queues := y.net.queues ++ [q] } }

/-- Free the queues of an owner, and the timed packets it has pending. -/
def Sys.dropQueues (keep : Queue → Bool) (y : Sys) : Sys := { y with net := { y.net with queues := y.net.queues.filter keep } }

/-- The PTP and control queues of a port (R269). -/
def Sys.portQueues (p : Nat) (y : Sys) : Sys :=
  (y.addQueue p (.port p) 3 (y.nat (Ob.PortPtpClass p)) false 1000).addQueue p (.port p) 4 (y.nat (Ob.PortCtlClass p)) false 1000

/-- A write of 1 to PortEnable, with the port's queues (R269, R348). -/
def Sys.portOn (p : Nat) (y : Sys) : WriteRes :=
  let was := y.portEnabled p
  let r := y.portEnable p
  if was || r.1.isSome then r else (r.1, (r.2.portQueues p).powerAll)

/-- A write of 0 to PortEnable (R269, R349). -/
def Sys.portOff (p : Nat) (y : Sys) : WriteRes :=
  let r := y.portDisable p
  (r.1, (r.2.dropQueues fun q => !(q.port == p && (q.kind == 3 || q.kind == 4))).powerAll)

/-! ### Groups (R72) -/

/-- Whether an address is a group's. -/
def isGroup (a : Nat) : Bool := (a / 2 ^ 32 == 0xFFFF && a / 2 ^ 28 % 16 == 14) || a / 2 ^ 120 == 0xFF

/-- Join the groups of legs: a membership report each (R72). -/
def Sys.joinGroups (l : List Leg) (y : Sys) : Sys :=
  y.each (l.filter fun e => isGroup e.dst) fun e y =>
    ({ y with net := { y.net with groups := y.net.groups ++ [(e.port, e.dst)] } }).groupReport e.port 3 e.dst

/-- Leave the groups of legs. -/
def Sys.leaveGroups (l : List Leg) (y : Sys) : Sys :=
  y.each (l.filter fun e => isGroup e.dst) fun e y =>
    ({ y with net := { y.net with groups := y.net.groups.erase (e.port, e.dst) } }).groupReport e.port 4 e.dst

/-! ### Placement (R38 to R42) -/

/-- The positions a channel occupies, with those of a move decided. -/
def Chan.places (c : Chan) : List (Nat × Nat) :=
  c.pipes ++ match c.move with
    | some m => m.pipes
    | none => []

/-- The channels at a position and the quarters each takes there, leaving one channel out. -/
def Sys.usersAt (y : Sys) (d pos : Nat) (but : Option Nat) : List (Nat × Nat) :=
  (y.activeChans.filter fun n => some n != but && (y.chan n).places.contains (d, pos)).map fun n => (n, (y.chan n).share)

/-- The free quarters of a position (R41). -/
def Sys.freeAt (y : Sys) (d : Nat) (but : Option Nat) (pos : Nat) : Nat :=
  if (y.die d).map.getD pos 15 = 15 then 0
  else 4 - ((y.usersAt d pos but).map Prod.snd).foldl (· + ·) 0

/-- The free quarters of a die (R41). -/
def Sys.freeQuarters (y : Sys) (d : Nat) (but : Option Nat) : Nat := ([0, 1, 2, 3].map (y.freeAt d but)).foldl (· + ·) 0

/-- The positions of a die that a channel of so many quarters would take (R41). -/
def Sys.positionsFor (y : Sys) (d q : Nat) (but : Option Nat) : Option (List Nat) :=
  let whole := [0, 1, 2, 3].filter fun p => y.freeAt d but p == 4
  if q = 1 then
    match [0, 1, 2, 3].find? fun p => decide (0 < y.freeAt d but p) && decide (y.freeAt d but p < 4) with
    | some p => some [p]
    | none => whole.head?.map fun p => [p]
  else if q / 4 ≤ whole.length then some (whole.take (q / 4)) else none

/-- The dies a channel loads: its own, and its partner for a pair. -/
def Chan.dies (c : Chan) : List Nat := slotsOf (c.places.map Prod.fst)

/-- The bitrate of a channel that counts against limits: the larger of the one that runs and the one accepted. -/
def Chan.rateHeld (c : Chan) : Nat := max c.bitrate (match c.nextBitrate with
  | some e => e.1
  | none => 0)

/-- The die output in half bits per second, without one channel (R40). -/
def Sys.dieOut (y : Sys) (d : Nat) (but : Option Nat) : Nat :=
  ((y.activeChans.filter fun n => some n != but && (y.chan n).dies.contains d).map fun n =>
    (y.chan n).rateHeld * (if (y.fig n).pair then 1 else 2)).foldl (· + ·) 0

/-- Whether die d can be given channels. -/
def Sys.dieServes (y : Sys) (d : Nat) : Bool := decide (d < y.part.dies) && !(y.die d).mappedOut && !y.mgmt.lost.contains d

/-- The placements open to a channel: die, positions, and free quarters left (R40, R41). -/
def Sys.placements (y : Sys) (f : Fig) (b mask : Nat) (ok : Nat → Bool) (but : Option Nat) : List (Nat × List (Nat × Nat) × Nat) :=
  let may := fun d => y.dieServes d && bit mask d && ok d
  if f.pair then
    (List.range (y.part.dies / 2)).filterMap fun k =>
      let d := 2 * k
      let fits := fun e => may e && decide (y.dieOut e but + b ≤ 16000000000)
      match y.positionsFor d 16 but, y.positionsFor (d + 1) 16 but with
      | some a, some c => if fits d && fits (d + 1) then some (d, a.map (fun p => (d, p)) ++ c.map (fun p => (d + 1, p)), 0) else none
      | _, _ => none
  else if f.demand = 0 then []
  else
    y.dieList.filterMap fun d =>
      match y.positionsFor d f.demand but with
      | some a =>
        if may d && decide (y.dieOut d but + 2 * b ≤ 16000000000) then
          some (d, a.map (fun p => (d, p)), y.freeQuarters d but - f.demand)
        else none
      | none => none

/-- The placement of R41: fewest free quarters left, then the lowest die. -/
def bestPlacement (l : List (Nat × List (Nat × Nat) × Nat)) : Option (Nat × List (Nat × Nat)) :=
  (l.foldl (fun (b : Option (Nat × List (Nat × Nat) × Nat)) e => match b with
    | none => some e
    | some x => if e.2.2 < x.2.2 then some e else some x) none).map fun e => (e.1, e.2.1)

/-- The dies a channel may be placed on: that of its context when it has one (R39, R190). -/
def Sys.onContextDie (y : Sys) (n d : Nat) : Bool :=
  match (if (y.chan n).run = 0 then y.boundCx n else (y.chan n).cx) with
  | some c => d == c / 4
  | none => true

/-! ### Allocations (R84, R85, R127, R167, R259, R262) -/

/-- The bytes of row buffers in SRAM that a die has left (R85). -/
def Sys.sramRoom (y : Sys) (d : Nat) : Nat :=
  let x := y.die d
  3 * 2 ^ 20 - x.sramLost - (x.sramUsed.map Prod.snd).foldl (· + ·) 0

/-- The owner number of a heap run: 0 pool, 1 retransmission store, 3 layer store, 4 decoder pool, 6 row buffer. -/
def owner (kind num : Nat) : Nat := kind * 4096 + num

/-- Allocate on each of some dies; `none` when one cannot. -/
def Sys.allocEach (own : Nat) (sizes : List Nat) (ds : List Nat) (y : Sys) : Option Sys :=
  ds.foldl (fun (r : Option Sys) d => r.bind fun y => y.heapAlloc d own sizes) (some y)

/-- Place the row buffers of a channel: in SRAM when every die has room, otherwise in DRAM (R85). -/
def Sys.placeRows (n : Nat) (f : Fig) (ds : List Nat) (y : Sys) : Option (Nat × Sys) :=
  let b := f.rowBufBytes
  if ds.all fun d => decide (b ≤ y.sramRoom d) then
    some (1, y.each ds fun d y => y.onDie d fun x => { x with sramUsed := x.sramUsed ++ [(owner 6 n, b)] })
  else (y.allocEach (owner 6 n) [b] ds).map fun y => (2, y)

/-- The memory a channel takes on its encoding dies: pool, then row buffer. -/
def Sys.takeCoding (n : Nat) (f : Fig) (ds : List Nat) (y : Sys) : Option (Nat × Sys) :=
  (y.allocEach (owner 0 n) (List.replicate f.poolSize f.bufBytes) ds).bind fun y => y.placeRows n f ds

/-- The dies that own the output ports of a channel (R16). -/
def storeDies (g : Nat → Val) (n : Nat) : List Nat := slotsOf ((chOutLegs g n).map fun l => portDie l.port)

/-- The signature load of a die, without one channel (R259). -/
def Sys.sigLoad (y : Sys) (d : Nat) (but : Option Nat) : Rat :=
  ((y.activeChans.filter fun n => some n != but && ((y.chan n).die == d || match (y.chan n).move with
      | some m => (m.pipes.headD (255, 0)).1 == d
      | none => false)).map fun n =>
    let f := y.fig n
    if f.sig = 0 then (0 : Rat) else (f.rn : Rat) / (f.rd * f.sig : Nat)).foldl (· + ·) 0

/-- Whether a die can sign for a channel too (R259). -/
def Sys.sigFits (y : Sys) (f : Fig) (d : Nat) (but : Option Nat) : Bool :=
  f.sig == 0 || decide (y.sigLoad d but + (f.rn : Rat) / (f.rd * f.sig : Nat) ≤ 1800)

/-! ### The channel graph (R392, R394, R398, R399) -/

/-- Priority, class and pre-emptibility of a task (R392). -/
def Role.level : Role → Nat × Nat × Bool
  | .auPrefix | .rowAssembly | .floorSupply => (7, 0, false)
  | .packetBuild => (6, 2, true)
  | .ingestRows => (6, 1, true)
  | .audioPack => (3, 3, true)
  | .signature => (3, 4, true)
  | .garnet => (2, 5, true)
  | .control => (1, 6, true)

/-- The longest run of a task in cycles (R392). -/
def Role.longest : Role → Nat
  | .auPrefix | .rowAssembly | .floorSupply => 520
  | .packetBuild | .ingestRows => 400
  | .audioPack => 6000
  | .signature => 3000
  | .garnet => 20000
  | .control => 50000

/-- The descriptor of a task of a channel in a slot: what R392 and R394 give, the firmware's numbers elsewhere (log entry 104). -/
def Role.desc (r : Role) (d slot n : Nat) : Nat :=
  let w := Config.firmware d slot
  let l := r.level
  let any := match r with
    | .rowAssembly => 0
    | .audioPack => 1
    | _ => w 0 % 2
  2 ^ 124 + (if l.2.2 then 2 ^ 123 else 0) + any * 2 ^ 122 + w 1 % 2 * 2 ^ 121 + l.1 * 2 ^ 118 + l.2.1 * 2 ^ 115 + w 2 % 2 * 2 ^ 114 +
    w 3 % 30 * 2 ^ 109 + w 4 % 32 * 2 ^ 104 + w 5 % 2 * 2 ^ 95 + w 6 % 768 * 2 ^ 85 + w 7 % 2 ^ 16 * 2 ^ 64 + w 8 % 2 ^ 32 * 2 ^ 32 + n

/-- The tasks of a channel. -/
def Sys.rolesOf (y : Sys) (n : Nat) : List Role :=
  [.auPrefix, .rowAssembly, .floorSupply, .packetBuild, .ingestRows] ++
    (if (y.streams (y.cfg n) n).isEmpty ∧ (y.fig n).anc = 0 then [] else [.audioPack]) ++
    (if (y.fig n).sig = 0 then [] else [.signature]) ++ [.garnet, .control]

/-- The firmware builds a channel's graph on a die: descriptors in the lowest free slots, armed. -/
def Sys.buildGraph (n d : Nat) (y : Sys) : Sys :=
  y.each (y.rolesOf n) fun r y =>
    match (List.range 4096).find? fun s => ((y.onyx d).task s).st == 0 with
    | some s => (y.onOnyx d fun o => o.setTask s { desc := r.desc d s n, role := some (r, n) }).armTask d s
    | none => y

/-- The slots of a die that hold tasks of a channel. -/
def Onyx.graph (o : Onyx) (n : Nat) : List Nat :=
  (o.tasks.filter fun e => e.2.st != 0 && (e.2.role.map Prod.snd == some n)).map Prod.fst

/-- A channel's graph on a die is torn down (R399). -/
def Sys.cancelGraph (n d : Nat) (y : Sys) : Sys := y.each ((y.onyx d).graph n) (Sys.cancelTask d)

/-! ### The checks of a start (R472) -/

/-- Check 1: picture format and signalling (R69, R71, R109, R111, R189). -/
def Sys.check1 (y : Sys) (n : Nat) (f : Fig) : Bool :=
  let v := fun k => (y.startVal n k).nat
  rasterOk f.wd f.ht && rateOk f.rn f.rd && f.demand != 0 && v (Ob.IngSampling n) == 0 &&
    colourOk (v (Ob.IngColorimetry n)) (v (Ob.IngTcs n)) && !(f.pair && f.codec == 0) && f.level.isSome &&
    !(f.pair && (y.boundCx n).isSome)

/-- Check 2: coding and bitrate (R117, R118, R144, R145, R157). -/
def Sys.check2 (y : Sys) (n : Nat) (f : Fig) : Bool :=
  !(f.mode == 3 && f.lowLatency) && !(f.codec == 0 && f.mode != 3 && f.band == 1) && decide (f.minRate false ≤ f.rate) &&
    decide ((y.startVal n (Ob.RcQpMin n)).nat ≤ (y.startVal n (Ob.RcQpMax n)).nat)

/-- Whether the audio flows of a channel suit its output mode. Mode 1 carries every flow, which must be at 48 kHz (R246); mode 2 carries
none, so it takes only flows that could not be carried, those at 96 kHz, within the limit of R93 (R248; log entry 83). -/
def Sys.flowsOk (y : Sys) (n : Nat) (f : Fig) : Bool :=
  let g := y.startVal n
  ((List.range 4).filter fun k => (g (Ob.IngAudMode n k)).nat != 0).all fun k =>
    if f.out = 1 then
      (g (Ob.IngAudRate n k)).nat == 48 &&
        decide (nsU ((g (Ob.IngAudOffset n k)).nat) + usU 1050 ≤ f.off + f.lines (f.ht + 64 * f.lat) + usU 40)
    else (g (Ob.IngAudRate n k)).nat == 96 && ((g (Ob.IngAudPtime n k)).nat != 1000 || decide ((g (Ob.IngAudChannels n k)).nat ≤ 8))

/-- Check 3: timing and stream form (R65, R190, R242, R246, R248). -/
def Sys.check3 (y : Sys) (n : Nat) (f : Fig) : Bool :=
  let es := y.streams (y.startVal n) n
  f.belowPeriod f.off &&
    (match y.boundCx n with
      | some c => y.flag (Ob.CxEnable c)
      | none => true) &&
    y.flowsOk n f && (if f.out = 1 then decide (es.length ≤ 4) else es.isEmpty)

/-- Whether a leg's policer lies on the die of its port (R92). -/
def policerOk (l : Leg) : Bool := l.pol == 0xFFFF || l.pol / 256 == portDie l.port

/-- Whether the ports of legs have a mode (R349). -/
def Sys.modesOk (y : Sys) (ps : List Nat) : Bool := ps.all fun p => y.nat (Ob.PortMode p) != 0

/-- Check 4: ports, policers and gates (R92, R276, R349). -/
def Sys.check4 (y : Sys) (n : Nat) (f : Fig) : Bool :=
  let g := y.startVal n
  let legs := (chLegs g n (y.boundCx n).isSome).map Prod.snd
  let outs := chOutLegs g n
  legs.all policerOk && y.modesOk (legs.map (fun l => l.port) ++ outs.map fun l => l.port) &&
    outs.all fun l => y.classFree l.port (g (Ob.OutClass n)).nat && (f.depth == 0 || y.classFree l.port (g (Ob.RtxClass n)).nat)

/-- The legs of a context's flow layers under a reading (R96, R193). -/
def lyLegs (g : Nat → Val) (l : Nat) : List (Nat × Leg) :=
  if (g (Ob.LyContext l)).nat = 0xFF then []
  else if (g (Ob.LySource l)).nat = 1 then
    (legsAt g (Ob.LyIngPortA l) ((g (Ob.LyIngLegMode l)).nat == 1)).map fun e => (0, e)
  else []

/-- How many legs of a kind lie on each die, without a channel or a context that is judged; a layer counts with the larger of its live and
its pending use (R74, R214). -/
def Sys.legCount (y : Sys) (kind d : Nat) (ch cx : Option Nat) : Nat :=
  let mine := fun (l : List (Nat × Leg)) => (l.filter fun e => e.1 == kind && portDie e.2.port == d).length
  let a := (y.activeChans.filter fun n => some n != ch).map fun n => mine (chLegs (y.cfg n) n (y.chan n).cx.isSome)
  let sets := ((List.range (4 * y.part.dies)).filter fun c => some c != cx).flatMap fun c =>
    (y.pend.filter fun (p : Pend) => p.key == Ob.CxCommit c).map fun p => y.ofSet p.set
  let b := (List.range (16 * y.part.dies)).map fun l =>
    (((y.val :: sets).filter fun g => cx != some (g (Ob.LyContext l)).nat).map fun g => mine (lyLegs g l)).foldl max 0
  (a ++ b).foldl (· + ·) 0

/-- The most legs of a kind on a die (R74). -/
def legLimit (kind : Nat) : Nat := if kind = 1 then 64 else 32

/-- Whether more legs fit on every die (R74). -/
def Sys.legsFit (y : Sys) (legs : List (Nat × Leg)) (ch cx : Option Nat) : Bool :=
  y.dieList.all fun d => [0, 1, 2].all fun k =>
    let n := (legs.filter fun e => e.1 == k && portDie e.2.port == d).length
    n == 0 || decide (y.legCount k d ch cx + n ≤ legLimit k)

/-- Check 7: the timed reservation of each port (R244). -/
def Sys.check7 (y : Sys) (n : Nat) (f : Fig) : Bool :=
  let g := y.startVal n
  let legs := chOutLegs g n
  let na := naOf (y.streams g n)
  legs.all fun l => y.portHolds l.port (y.reservedBut l.port (some n) none none + legSum l.port legs fun _ => f.reserve f.rate na)

/-- Refuse a start (R472): the check's number stays in ChStartCheck. -/
def Sys.startRefused (n check code : Nat) (y : Sys) : WriteRes := abortWith code (y.setInt (Ob.ChStartCheck n) check)

/-- The output queues of a channel (R269, R280). -/
def Sys.chanQueues (n : Nat) (y : Sys) : Sys :=
  let g := y.cfg n
  let cls := (g (Ob.OutClass n)).nat
  let es := y.streams g n
  y.each (chOutLegs g n) fun l y =>
    let y := y.addQueue l.port (.ch n) 0 cls true 1000
    let y := if (y.fig n).out = 1 ∧ ¬es.isEmpty then y.addQueue l.port (.ch n) 1 cls true 1000 else y
    if (y.fig n).depth = 0 then y
    else y.addQueue l.port (.ch n) 2 (g (Ob.RtxClass n)).nat false ((g (Ob.RtxRateMax n)).nat / 1000000)

/-- A start that passed every check is accepted (R65, R471); the shadow bitrate becomes live (R440), and a bitrate that waited for the start
has changed (R163). -/
def Sys.startAccepted (n : Nat) (f : Fig) (pl : Nat × List (Nat × Nat)) (rowsAt : Nat) (y : Sys) : Sys :=
  let na := naOf (y.streams (y.startVal n) n)
  let waited := match (y.chan n).nextBitrate with
    | some e => e.1 == f.rate
    | none => false
  let k := firstFrom f.rn f.rd (y.tbNow f.tb + usU 250)
  let c : Chan :=
    { run := 1, cfg := y.snapshot n, cx := y.boundCx n, die := pl.1, pipes := pl.2, share := min f.demand 4, firstK := k, nextK := k,
      refK := k, bitrate := f.rate, rtpSeq := y.freeNow % 65536, tokens := (y.startVal n (Ob.RtxBurst n)).toInt * 65536,
      tokensAt := y.now, bufs := List.replicate f.poolSize {}, rtxK := f.rtxSlots na, rtxEff := f.depthEff na }
  let y := (y.fresh.setChan n c).setInt (Ob.ChStartCheck n) 0
  let y := y.applySet [(Ob.RcBitrate n, y.shadowVal (Ob.RcBitrate n))]
  let y := (y.setInt (Ob.IngRowBufPlace n) rowsAt).setInt (Ob.RcFillerBytes n) 0
  let y := ((y.chanQueues n).buildGraph n pl.1).joinGroups ((chLegs (y.cfg n) n c.cx.isSome).map Prod.snd)
  let y := y.raise 0x1102 pl.1 n
  let y := if waited then (y.bump (Ob.RcBitrateChanges n) 1).raise 0x0B03 pl.1 n else y
  if c.rtxEff < f.depth then y.raise 0x0F03 pl.1 n else y

/-- The checks of R472 in order, and the allocations of an accepted start. -/
def Sys.tryStart (n : Nat) (y : Sys) : WriteRes :=
  let f := y.startFig n
  match firstFail [(y.check1 n f, 1), (y.check2 n f, 2), (y.check3 n f, 3), (y.check4 n f, 4)] with
  | some c => y.startRefused n c 4
  | none =>
    match bestPlacement (y.placements f f.rate (y.nat (Ob.ChDieMask n)) (y.onContextDie n) none) with
    | none => (y.raise 0x1103 0 n).startRefused n 5 5
    | some pl =>
      let ds := slotsOf (pl.2.map Prod.fst)
      match firstFail [(y.legsFit (chLegs (y.startVal n) n (y.boundCx n).isSome) (some n) none, 6), (y.check7 n f, 7),
          (y.sigFits f pl.1 none, 8)] with
      | some c => y.startRefused n c 5
      | none =>
        match y.allocEach (owner 0 n) (List.replicate f.poolSize f.bufBytes) ds with
        | none => (y.raise 0x0C01 pl.1 n).startRefused n 9 5
        | some z =>
          let na := naOf (y.streams (y.startVal n) n)
          let k := f.rtxSlots na
          match (z.allocEach (owner 1 n) (if k = 0 then [] else [k * f.rtxSlot]) (storeDies (y.startVal n) n)).bind
              fun z => z.placeRows n f ds with
          | none => y.startRefused n 9 5
          | some (at_, z) => accept (z.startAccepted n f pl at_)

/-! ### Stopping (R66, R471, R473) -/

/-- Whether the pipeline that leaves a position still has work there: a stream that has not come to its boundary, or a row of a frame
from before it (R61, R99). -/
def Sys.outgoing (y : Sys) (d pos out : Nat) : Bool :=
  y.activeChans.any fun n =>
    let c := y.chan n
    (c.handover.any fun h => h.1 == d && h.2.1 == pos) ||
      c.frames.any fun fr => !fr.frozen && ((c.pipesAt fr.k).zipIdx.any fun e => e.1 == (d, pos) && y.pipeOf n fr.k d pos == out &&
        (List.range (y.fig n).rows).any fun r => let x := (fr.row r).col e.2; !x.done && !x.failed)

/-- The physical pipeline serving a position changes once the one relieved has ended its last frame there (R61, R126): it begins its
self-test (R503, R504), or is mapped out after two mismatches. `leaving` names position, incoming and outgoing pipeline. -/
def Sys.finishHandover (d : Nat) (y : Sys) : Sys :=
  let x := y.die d
  match x.leaving with
  | none => y
  | some (pos, inc, out) =>
    if y.outgoing d pos out then y
    else
      let y := y.raise 0x0A01 d pos
      let x := { x with map := x.map.set pos inc, leaving := none, relief := some (inc, out),
                        pipeSt := (x.pipeSt.set inc (if x.pipeSt.getD inc 0 = 1 then 0 else x.pipeSt.getD inc 0)) }
      if out = 15 then y.setDie d x
      else if 2 ≤ (x.mism.filter fun p => p == out).length then
        (((y.setDie d { x with pipeSt := x.pipeSt.set out 3 }).onRep fun r => { r with pipes := r.pipes ++ [(d, out)] }).raise
          0x1107 d out).powerDie d
      else y.setDie d { x with pipeSt := x.pipeSt.set out 1 }

/-- The same for every die. -/
def Sys.finishHandovers (y : Sys) : Sys := y.each y.dieList Sys.finishHandover

/-- Free everything a channel holds; it is stopped. A bitrate that waits for its next start stays (R163). -/
def Sys.freeChan (n : Nat) (y : Sys) : Sys :=
  let c := y.chan n
  let y := y.leaveGroups ((chLegs (y.cfg n) n c.cx.isSome).map Prod.snd)
  let y := y.each y.dieList fun d y =>
    (((y.heapFree d (owner 0 n)).heapFree d (owner 1 n)).heapFree d (owner 6 n)).onDie d fun x =>
      { x with sramUsed := x.sramUsed.filter fun e => e.1 != owner 6 n }
  let y := y.dropQueues fun q => q.owner != .ch n
  let y := { y with pend := y.pend.filter fun (p : Pend) => p.key != Ob.ChCommit n }
  let y := if y.nat (Ob.ChCommitState n) = 1 then y.setInt (Ob.ChCommitState n) 0 else y
  let y := (y.setInt (Ob.IngRowBufPlace n) 0).each (List.range 8) fun b y => y.switchView b (.ch n)
  let y := y.each y.dieList (Sys.cancelGraph n)
  let f := y.fig n
  let rest : Chan := { nextBitrate := if f.hrd = 1 ∧ f.codec = 0 ∧ f.mode ≠ 3 then c.nextBitrate else none }
  (((y.setChan n rest).raise 0x1106 c.die n).tbSettle).finishHandovers

/-- The map in which a frame of a channel is timed (R64, R315). -/
def Sys.frameMap (y : Sys) (n : Nat) (old : Bool) : TbMap :=
  let t := y.tb (y.fig n).tb
  if old then t.old.getD t.map else y.view (y.fig n).tb (.ch n)

/-- The present on the time base as a frame of a channel sees it. -/
def Sys.frameNow (y : Sys) (n : Nat) (old : Bool) : Int := (y.frameMap n old).read y.now

/-- Whether every frame of a channel has departed, or none was coded. -/
def Sys.departed (y : Sys) (n : Nat) : Bool :=
  let f := y.fig n
  (y.chan n).frames.all fun fr => atOrAfter (y.frameNow n fr.old) (fr.origin + f.lines (f.ht + 64 * f.lat) + usU 40)

/-- A stopping channel whose last bit has departed, or that never coded, is stopped (R471, R473). -/
def Sys.finishStop (n : Nat) (y : Sys) : Sys :=
  let c := y.chan n
  match c.stopK with
  | some k =>
    if c.run = 3 ∧ atOrAfter (y.frameNow n false) ((y.fig n).boundary k) ∧ y.departed n then y.freeChan n else y
  | none => y

/-- The same for every channel. -/
def Sys.finishStops (y : Sys) : Sys := y.each y.activeChans Sys.finishStop

/-- A write of 1 to ChControl (R471 to R473). -/
def Sys.chStart (n : Nat) (y : Sys) : WriteRes :=
  let y := y.finishStops
  let r := (y.chan n).run
  if r = 0 then y.tryStart n
  else if r = 3 then abortWith 7 y
  else accept y

/-- A write of 2 to ChControl (R66, R473): a stop of a channel that has not begun ends at its first boundary. -/
def Sys.chStop (n : Nat) (y : Sys) : WriteRes :=
  let y := y.finishStops
  let c := y.chan n
  let f := y.fig n
  if c.run = 1 then accept (y.setChan n { c with run := 3, stopK := some c.firstK })
  else if c.run = 2 then
    accept (y.setChan n { c with run := 3, stopK := some (max c.nextK (firstFrom f.rn f.rd (y.frameNow n false + usU 250))) })
  else accept y

/-! ### Commit of the bitrate and refresh request (R121, R162, R163, R291, R440) -/

/-- The shadow ChCommit covers (R438). -/
def chOwns (n k : Nat) : Bool := k == Ob.RcBitrate n

/-- The checks of a new bitrate (R162, R291). -/
def Sys.bitrateChecks (y : Sys) (n b : Nat) : List (Bool × Nat) :=
  let c := y.chan n
  let f := { y.fig n with rate := b }
  let g := y.cfg n
  let na := naOf (y.streams g n)
  [((c.dies).all fun d => decide (y.dieOut d (some n) + b * (if f.pair then 1 else 2) ≤ 16000000000), 0x0B20),
   (decide (f.minRate false ≤ b), 0x0B21),
   ((chOutLegs g n).all fun l =>
      y.portHolds l.port (y.reservedBut l.port (some n) none none + legSum l.port (chOutLegs g n) fun _ => f.reserve b na), 0x1021)]

/-- A write of 1 to ChCommit (R162, R440). -/
def Sys.chCommit (n : Nat) (y : Sys) : WriteRes :=
  let y := y.finishStops
  let c := y.chan n
  if c.run = 0 then accept y
  else
    let b := (y.shadowVal (Ob.RcBitrate n)).nat
    match firstFail (y.bitrateChecks n b) with
    | some r => (some (6, r), (y.setInt (Ob.ChCommitState n) 2).setInt (Ob.ChCommitReason n) r)
    | none =>
      let f := y.fig n
      let k := max c.nextK (firstFrom f.rn f.rd (y.frameNow n false + usU 250))
      let y := { y with pend := y.pend.filter fun (p : Pend) => p.key != Ob.ChCommit n }
      accept ((y.acceptCommit (Ob.ChCommit n) (chOwns n) (f.boundary k)).onChan n fun c =>
        { c with nextBitrate := if b = c.bitrate then none else some (b, f.boundary k) })

/-- A cause of R121: a new refresh cycle at the first boundary at least 250 µs ahead. -/
def Sys.wantRefresh (n : Nat) (y : Sys) : Sys :=
  let c := y.chan n
  if c.run = 0 then y else y.setChan n { c with restarts := c.restarts ++ [y.frameNow n false + usU 250] }

/-- A write to EncRefreshNow (R121): 1 asks for a new cycle. -/
def Sys.refreshNow (n : Nat) (y : Sys) : WriteRes := accept (y.wantRefresh n)

end Sys2Proof.Machine
end

