-- ==== Sys2Proof/Machine/Frames.lean ====
section
/-! DEFINITION. A channel's frame boundary: handovers, repair moves and freezing, the commit of the bitrate, the refresh pattern, and
the frame that begins (R27, R43, R44, R46, R61, R99, R117 to R121, R126, R127, R136, R162, R163, R168 to R170, R471, R502). -/

namespace Sys2Proof.Machine

/-! ### Repair (R43, R44, R127, R336, R381, R424, R505) -/

/-- Whether every channel of a die is under a repair condition: a failed PLL, a rank without a spare, or too few cores. -/
def Sys.dieUnfit (y : Sys) (d : Nat) : Bool :=
  ([0, 1, 2, 3].any fun p => (y.pll d p).st == 8) || ((y.die d).dram.ranks.any fun e => e.2.noSpare) ||
    decide ((y.onyx d).coresIn < 29)

/-- Whether a channel is on a position that no physical pipeline serves. -/
def Sys.unserved (y : Sys) (n : Nat) : Bool := (y.chan n).pipes.any fun e => (y.die e.1).map.getD e.2 15 == 15

/-- Whether a channel is under a repair condition. -/
def Sys.needsRepair (y : Sys) (n : Nat) : Bool :=
  let c := y.chan n
  y.unserved n || ((slotsOf (c.pipes.map Prod.fst)).any y.dieUnfit) ||
    ((y.fig n).pair && !(y.bridgeUp c.die 0 || y.bridgeUp c.die 1))

/-- The live references of a pool that are not held for the copy to a new die are held (R174): holder 1. -/
def holdCopies (l : List Buf) : List Buf :=
  l.map fun b => if b.mark = 0 ∨ b.holds.contains 1 then b else { b with holds := 1 :: b.holds, copied := [] }

/-- From the start of a channel's last frame on its old die its live references are held for the copy (R127, R174); a move decided in that
frame holds them at once. -/
def Sys.holdForMove (n : Nat) (y : Sys) : Sys :=
  let c := y.chan n
  match c.move with
  | some m =>
    if atOrAfter ((y.fig n).boundary c.nextK) m.at_ ∧ (slotsOf (c.pipes.map Prod.fst)).any fun d => !(m.pipes.map Prod.fst).contains d then
      y.setChan n { c with bufs := holdCopies c.bufs }
    else y
  | none => y

/-- Decide a repair move: the new place and its allocations, all or nothing (R127). -/
def Sys.decideMove (n : Nat) (at_ : Int) (y : Sys) : Option Sys :=
  let c := y.chan n
  let f := y.fig n
  let here := slotsOf (c.pipes.map Prod.fst)
  let fits := fun d => y.onContextDie n d && !y.dieUnfit d && (here.contains d || y.sigFits f d (some n)) &&
    (here.contains d || ((y.takeCoding n f [d]).isSome)) && (!f.pair || y.bridgeUp d 0 || y.bridgeUp d 1)
  match bestPlacement (y.placements f c.rateHeld (y.nat (Ob.ChDieMask n)) fits (some n)) with
  | none => none
  | some pl =>
    let new := (slotsOf (pl.2.map Prod.fst)).filter fun d => !here.contains d
    match (if new = [] then some (y.nat (Ob.IngRowBufPlace n), y) else y.takeCoding n f new) with
    | none => none
    | some (place, y) =>
      some (((y.setInt (Ob.IngRowBufPlace n) place).onChan n fun c => { c with move := some { pipes := pl.2, at_ := at_ } }).holdForMove n)

/-- The freeing of the pool a repair move left, once its last frame is coded and its holds are gone (R127). -/
def Sys.freeOld (n : Nat) (y : Sys) : Sys :=
  let c := y.chan n
  let coding := match c.movedK with
    | some k => c.frames.any fun fr => decide (fr.k < k) && !(fr.rows.all fun r => r.2.assembled)
    | none => false
  if c.oldDies ≠ [] ∧ !coding ∧ c.oldBufs.all fun b => b.holds.isEmpty then
    let y := y.each c.oldDies fun d y => (((y.cancelGraph n d).heapFree d (owner 0 n)).heapFree d (owner 6 n)).onDie d fun x =>
      { x with sramUsed := x.sramUsed.filter fun e => e.1 != owner 6 n }
    y.onChan n fun c => { c with oldDies := [], oldBufs := [] }
  else y

/-- A move that is due is made (R43, R127): an override of the placement bound. The tasks of a channel that changes its die are built there, and
those of the old die go with its pool (R392, log entry 104). -/
def Sys.makeMove (n : Nat) (k : Int) (y : Sys) : Sys :=
  let c := y.chan n
  match c.move with
  | none => y
  | some m =>
    if atOrAfter ((y.fig n).boundary k) m.at_ then
      let olds := (slotsOf (c.pipes.map Prod.fst)).filter fun d => !(slotsOf (m.pipes.map Prod.fst)).contains d
      let d := (m.pipes.headD (255, 0)).1
      let moved := olds ≠ []
      let y := y.setChan n { c with
        move := none, pipes := m.pipes, die := d, frozen := false, movedK := some k, oldPipes := c.pipes,
        oldDies := olds, oldBufs := if moved then holdCopies c.bufs else [],
        bufs := c.bufs.map fun b => { b with holds := b.holds.filter fun h => !(moved && h == 1) },
        restarts := c.restarts ++ (if moved || c.frozen then [(y.fig n).boundary k] else []),
        handover := c.handover.filter fun h => m.pipes.contains (h.1, h.2.1) }
      let y := (((y.bump Ob.OvrPlaceCount 1).raise 0x1101 d n).raise 0x1102 d n)
      (if moved then y.buildGraph n d else y).freeOld n
    else y

/-- A channel without a pipeline is placed at this boundary when capacity has become free (R44). The placement is a repair move, counted
and announced as one; a channel whose own position is served again resumes there without (log entry 54). -/
def Sys.resumeAt (n : Nat) (k : Int) (y : Sys) : Sys :=
  let c := y.chan n
  if y.unserved n ∧ c.move.isNone ∧ c.oldDies = [] then
    match y.decideMove n ((y.fig n).boundary k) with
    | some z => z.makeMove n k
    | none => y
  else y

/-- Repairs at a boundary (R43, R44): a due move is made; a channel without a pipeline is placed where capacity is free, and freezes
otherwise; a channel under another repair condition looks for a die that can take it, to move at the next boundary. -/
def Sys.repairAt (n : Nat) (k : Int) (y : Sys) : Sys :=
  let y := ((y.makeMove n k).freeOld n).resumeAt n k
  let c := y.chan n
  let y := if y.unserved n ∧ ¬c.frozen then
      (y.setChan n { c with frozen := true }).raise 0x1104 c.die n
    else if c.frozen ∧ ¬y.unserved n then
      y.setChan n { c with frozen := false, movedK := some k, oldPipes := c.pipes, restarts := c.restarts ++ [(y.fig n).boundary k] }
    else y
  if y.needsRepair n ∧ c.move.isNone ∧ c.oldDies = [] then
    match y.decideMove n ((y.fig n).boundary (k + 1)) with
    | some z => z
    | none => y
  else y

/-! ### Handover of a position's streams (R61, R126, R502) -/

/-- The handovers of a stream that are due at a boundary are made first (R502). -/
def Sys.handoversAt (n : Nat) (k : Int) (y : Sys) : Sys :=
  let c := y.chan n
  let b := (y.fig n).boundary k
  let due := c.handover.filter fun h => atOrAfter b h.2.2
  if due = [] then y
  else
    let y := y.setChan n { c with handover := c.handover.filter fun h => !atOrAfter b h.2.2, movedK := some k, oldPipes := c.pipes }
    y.each due fun h y => y.finishHandover h.1

/-! ### The refresh pattern (R117 to R121, R168, R169) -/

/-- What the next picture of a channel is: kind, band and place in its cycle, whether it opens a cycle or intra period, its POC, the
positions that follow, and whether a refresh restart or a sequence restart made it. -/
structure PicPlan where
  kind : Pic
  band : Nat × Nat
  index : Nat := 0
  start : Bool
  poc : Nat
  cyclePos : Nat
  intraPos : Nat
  restart : Bool
  seq : Bool
deriving DecidableEq, Repr

/-- The picture at a boundary (R117, R118, R120, R121, R168, R169). A frozen channel's is all skip (R44): it has no band, opens nothing and
restarts nothing, and the restart of R169 waits for the resumption (log entry 54). -/
def picPlan (f : Fig) (c : Chan) (restart : Bool) : PicPlan :=
  let first := c.frameNo == 0
  if c.frozen then
    { kind := .inter, band := (0, 0), start := false, poc := if first then 0 else c.poc + 1, cyclePos := c.cyclePos, intraPos := c.intraPos,
      restart := false, seq := false }
  else if f.mode = 3 then
    let intra := first || restart || c.intraPos == 0
    { kind := if intra then .idr else .inter, band := (0, 0), start := intra, poc := if intra then 0 else c.poc + 1, cyclePos := 0,
      intraPos := (if intra then 1 else c.intraPos + 1) % max 1 f.period, restart := restart && !first, seq := false }
  else if first ∧ (f.codec = 0 ∨ ¬f.lowLatency) then
    { kind := .idr, band := (0, 0), start := false, poc := 0, cyclePos := 0, intraPos := 0, restart := false, seq := false }
  else
    let seq := !first && decide (2 ^ 30 ≤ c.poc + 1)
    if seq ∧ f.minRate true ≤ c.bitrate then
      { kind := .cra, band := (0, 0), start := false, poc := 0, cyclePos := 0, intraPos := 0, restart := true, seq := true }
    else
      let i := if restart || seq || first then 0 else c.cyclePos
      let kind : Pic := if seq || (f.codec == 1 && i == 0) then .gdr else .inter
      { kind := kind, band := f.bandAt i, index := i, start := decide (i = 0), poc := if seq || first then 0 else c.poc + 1,
        cyclePos := (i + 1) % max 1 f.cycle, intraPos := 0, restart := (restart && !first) || seq, seq := seq }

/-- Whether a pending bitrate may apply at a boundary (R163). -/
def rateMayApply (f : Fig) (p : PicPlan) : Bool :=
  f.hrd == 0 || (if f.mode = 3 then p.kind == .idr else f.codec == 1 && p.start)

/-- Whether a refresh that was asked for is due at a boundary (R121). -/
def Chan.restartDue (c : Chan) (b : Int) : Bool := c.restarts.any fun t => atOrAfter b t

/-- Whether the picture at the next boundary, as things stand, begins a new sequence: a restart of the sequence, or a bitrate that
applies under HRD signalling in H.266 (R163, R169). -/
def Sys.newSequence (n : Nat) (y : Sys) : Bool :=
  let f := y.fig n
  let c := y.chan n
  let b := f.boundary c.nextK
  let p := picPlan f c (c.restartDue b)
  let goes := match c.stopK with
    | some s => decide (c.nextK < s)
    | none => true
  goes && (p.seq || (f.hrd == 1 && f.codec == 1 && f.mode != 3 && p.start && c.nextBitrate.isSome &&
    !(y.duePend (Ob.ChCommit n) b).isEmpty))

/-- The access unit before the next boundary ends with an end of sequence when that boundary begins a new sequence (R139, R142, R163,
R169). -/
def Sys.endSequence (n : Nat) (y : Sys) : Sys :=
  let e := y.newSequence n
  y.onChan n fun c => { c with frames := c.frames.map fun fr => if fr.k + 1 = c.nextK then { fr with eos := e } else fr }

/-- An accepted commit of the bitrate applies (R163, R440). -/
def Sys.rateAt (n : Nat) (k : Int) (p : PicPlan) (y : Sys) : Sys :=
  let f := y.fig n
  let key := Ob.ChCommit n
  let due := y.duePend key (f.boundary k)
  if due = [] then y
  else match (y.chan n).nextBitrate with
    | none => y.applyDue key (f.boundary k)
    | some (b, _) =>
      if rateMayApply f p then
        let y := (y.applyDue key (f.boundary k)).onChan n fun c => { c with bitrate := b, nextBitrate := none, refK := k }
        (y.bump (Ob.RcBitrateChanges n) 1).raise 0x0B03 (y.chan n).die n
      else y

/-! ### The frame that begins -/

/-- Frames whose last use is past are forgotten: a frame after the confidence release of its last row (R174). The last time stamp bound to
one stays (R95). -/
def Sys.pruneFrames (n : Nat) (y : Sys) : Sys :=
  let f := y.fig n
  let keep := fun (fr : Frame) => !atOrAfter (y.frameNow n fr.old) (fr.origin + f.lines (3 * f.ht + 64 * f.lat) + usU 40)
  y.onChan n fun c =>
    { c with frames := c.frames.filter keep,
             tsGone := (c.frames.filter fun fr => !keep fr).foldl (fun t fr => if fr.ts.isSome then fr.ts else t) c.tsGone }

/-- The state of a frame that begins at boundary k (R46, R47, R136, R160). -/
def newFrame (f : Fig) (c : Chan) (k : Int) (p : PicPlan) : Frame :=
  { (c.early.find? fun (fr : Frame) => fr.k == k).getD { k := k, boundary := 0, origin := 0 } with
    boundary := f.boundary k, origin := f.boundary k + f.off, n := c.frameNo, kind := p.kind, band := p.band,
    cyclePos := p.index, cycleStart := p.start, poc := p.poc, budget := budgetOf c.bitrate f.rn f.rd (k - c.refK).toNat, rate := c.bitrate,
    frozen := c.frozen, discont := c.discontNext,
    fixedAlf := c.frameNo = 0 || p.kind == .idr || p.seq || p.restart || c.frozen,
    bufPeriod := f.hrd = 1 && (c.frameNo = 0 || p.start || p.kind == .idr || p.seq || c.discontNext),
    recovery := f.codec = 0 && p.start && f.mode != 3, kappa := c.kappa }

/-- The frame of a channel begins. -/
def Sys.beginFrame (n : Nat) (k : Int) (y : Sys) : Sys :=
  let f := y.fig n
  let c := y.chan n
  let due := c.restartDue (f.boundary k)
  let p := picPlan f c due
  let y := (y.endSequence n).rateAt n k p
  let y := if p.restart then (y.bump (Ob.EncRefreshRestarts n) 1).raise 0x0A04 c.die n else y
  let y := if c.run = 1 then
      (y.onChan n fun c => { c with run := 2, firstBoundary := some (f.boundary k) }).raise 0x1105 c.die n
    else y
  (y.onChan n fun c =>
    { c with frames := c.frames ++ [newFrame f c k p], early := c.early.filter (fun (fr : Frame) => fr.k != k), frameNo := c.frameNo + 1, nextK := k + 1, poc := p.poc,
             cyclePos := p.cyclePos, intraPos := p.intraPos, restarts := c.restarts.filter fun t => !atOrAfter (f.boundary k) t,
             discontNext := false }).holdForMove n

/-- FRAME_BOUNDARY (R46): a boundary that has not come, or one at or after a stop, begins no frame. -/
def Sys.frameBoundary (n : Nat) (y : Sys) : Sys :=
  let y := y.finishStops
  let c := y.chan n
  let k := c.nextK
  let ended := match c.stopK with
    | some s => decide (s ≤ k)
    | none => false
  let come := atOrAfter (y.frameNow n false) ((y.fig n).boundary k)
  if c.run == 0 || ended || !come || y.stepWaits (.ch n) then y
  else
    let y := ((y.pruneFrames n).handoversAt n k).repairAt n k
    y.beginFrame n k

/-! ### Handover and repair decisions elsewhere -/

/-- Each stream of a position is to move at its first boundary at or after `lead` from now; one that stops before stays on the outgoing
pipeline to its end. With no stream the position changes at once. -/
def Sys.scheduleHandover (d pos inc : Nat) (lead : Nat) (y : Sys) : Sys :=
  let out := (y.die d).map.getD pos 15
  let y := y.onDie d fun x => { x with leaving := some (pos, inc, out) }
  let y := y.each (y.activeChans.filter fun n => (y.chan n).pipes.contains (d, pos)) fun n y =>
    let c := y.chan n
    let f := y.fig n
    let t := y.frameNow n false + lead
    let k := max c.nextK (firstFrom f.rn f.rd t)
    y.setChan n { c with handover := c.handover ++ [(d, pos, f.boundary k)] }
  y.finishHandover d

/-- The free pipeline of a die: one that serves no position, is not self-testing or mapped out, and passed its last test (R99). -/
def Die.freePipe (x : Die) : Option Nat :=
  (List.range 5).find? fun p => !x.map.contains p && x.passed.contains p && (x.pipeSt.getD p 3 == 0 || x.pipeSt.getD p 3 == 2) &&
    match x.leaving with
    | some (_, inc, _) => inc != p
    | none => true

/-- DiePipeMap (R134). -/
def Die.pipeWord (x : Die) : Nat :=
  let free := ((List.range 5).find? fun p => !x.map.contains p && x.pipeSt.getD p 3 != 3).getD 15
  (x.map.getD 0 15) + 16 * (x.map.getD 1 15) + 256 * (x.map.getD 2 15) + 4096 * (x.map.getD 3 15) + 65536 * free

/-! ### The commands -/

/-- FRAME_BOUNDARY (R46). -/
def execFrameBoundary (dt ch : Nat) (s : State) : Res := act dt (Sys.frameBoundary ch) s

end Sys2Proof.Machine
end

