-- ==== Sys2Proof/Machine/Repair.lean ====
section
/-! DEFINITION. Pipelines that fail, rotate and test themselves, confidence decode, the copy of a repair move, mirrored strips, and
faults of power domains (R59, R62, R99, R108, R126 to R132, R134, R174 to R176, R485, R502 to R504). -/

namespace Sys2Proof.Machine

/-! ### Frames and their rows -/

/-- Change the frame of a channel with boundary number k. -/
def Sys.onFrame (n : Nat) (k : Int) (f : Frame → Frame) (y : Sys) : Sys :=
  y.onChan n fun c => { c with frames := c.frames.map fun fr => if fr.k = k then f fr else fr }

/-- Whether a row of a frame has all its columns coded or supplied. -/
def Row.whole (w : Row) (tiles : Nat) : Bool := (List.range tiles).all fun c => (w.col c).done

/-- Whether every row of a frame is coded or supplied. -/
def Frame.coded (fr : Frame) (f : Fig) : Bool := (List.range f.rows).all fun r => (fr.row r).whole f.tiles

/-- The tile columns that one die codes of a row: all, or a half of a pair's eight (R101). -/
def Fig.halfCols (f : Fig) (half : Nat) : List Nat := if f.pair then (List.range 4).map fun i => 4 * half + i else List.range f.tiles

/-- Whether the in-loop filtering of a row is complete on one die: the row below is reconstructed there, or it is the last (R171). No filter
crosses the boundary of a pair (R107). -/
def Frame.rowFinal (fr : Frame) (f : Fig) (half r : Nat) : Bool :=
  decide (r < f.rows) && (f.halfCols half).all fun c => ((fr.row (min (r + 1) (f.rows - 1))).col c).done

/-- The channels at a position. -/
def Sys.chansAt (y : Sys) (d pos : Nat) : List Nat := y.activeChans.filter fun n => (y.chan n).pipes.contains (d, pos)

/-! ### Failure (R62, R128) -/

/-- The undone columns of a channel that a failed pipeline owes are marked: the cores supply them at their deadlines (R62). -/
def Sys.failColumns (d phys n : Nat) (y : Sys) : Sys :=
  let c := y.chan n
  let f := y.fig n
  let cols := fun (fr : Frame) => ((c.pipesAt fr.k).zipIdx).filter fun e => e.1.1 == d
  let fix := fun (fr : Frame) => (cols fr).foldl (fun fr e =>
    if y.pipeOf n fr.k d e.1.2 = phys then
      (List.range f.rows).foldl (fun fr r => fr.onCol r e.2 fun x => if x.done then x else { x with failed := true }) fr
    else fr) fr
  y.setChan n { c with frames := c.frames.map fix }

/-- A channel of a position that lost its pipeline moves at its next frame boundary, when a die can take it (R43, R62). -/
def Sys.moveNow (n : Nat) (y : Sys) : Sys :=
  let c := y.chan n
  if c.move.isSome then y else (y.decideMove n ((y.fig n).boundary c.nextK)).getD y

/-- A position is served by no pipeline. -/
def Sys.dropPosition (d pos : Nat) (y : Sys) : Sys :=
  (y.onDie d fun x => { x with map := x.map.set pos 15 }).each (y.chansAt d pos) Sys.moveNow

/-- A handover in progress on a position is called off: streams that moved go back at their next boundary. -/
def Sys.callOff (d pos : Nat) (y : Sys) : Sys :=
  let y := y.onDie d fun x => { x with leaving := none }
  y.each (y.chansAt d pos) fun n y => y.onChan n fun c =>
    let waits := c.handover.any fun h => h.1 == d && h.2.1 == pos
    { c with handover := c.handover.filter (fun h => !(h.1 == d && h.2.1 == pos)),
             movedK := if waits then c.movedK else some c.nextK }

/-- PIPELINE_FAILURE (R62, R128): the rest of its frames falls to the cores; the position goes to the free pipeline at each stream's
next boundary, or its channels look for another die. The failed pipeline is tested (log entry 55). -/
def Sys.pipeFailed (d phys : Nat) (y : Sys) : Sys :=
  let x := y.die d
  if x.pipeSt.getD phys 3 = 3 then y
  else
    let y := (y.each y.activeChans (Sys.failColumns d phys)).raise 0x0A02 d phys
    let test := fun (y : Sys) => y.onDie d fun x => { x with pipeSt := x.pipeSt.set phys 1, passed := x.passed.filter fun p => p != phys }
    match x.leaving with
    | some (pos, inc, out) =>
      if out = phys then
        let y := y.onDie d fun x => { x with passed := x.passed.filter fun p => p != phys }
        (y.each (y.chansAt d pos) fun n y => y.onChan n fun c =>
          { c with handover := c.handover.map fun h => if h.1 = d ∧ h.2.1 = pos then (d, pos, (y.fig n).boundary c.nextK) else h }).finishHandover d
      else if inc = phys then test (y.callOff d pos)
      else match (List.range 4).find? fun q => x.map.getD q 15 == phys with
        | some q => (test y).dropPosition d q
        | none => test y
    | none =>
      match (List.range 4).find? fun q => x.map.getD q 15 == phys with
      | none => test y
      | some q =>
        match x.freePipe with
        | some inc =>
          (y.onDie d fun x => { x with passed := x.passed.filter fun p => p != phys }).scheduleHandover d q inc 0
        | none => (test y).dropPosition d q

/-! ### Rotation and self-test (R502 to R504) -/

/-- The position whose physical pipeline has gone longest since its own last self-test; ties to the lowest physical number. -/
def Die.oldest (x : Die) : Option Nat :=
  ((List.range 5).foldl (fun (b : Option Nat) p =>
    if x.map.contains p then
      match b with
      | some q => if x.tested.getD p 0 < x.tested.getD q 0 then some p else b
      | none => some p
    else b) none).bind fun p => (List.range 4).find? fun q => x.map.getD q 15 == p

/-- Whether SYS, PIPE, DRAM and MEDIA of a die are locked or on their other reference. -/
def Sys.clocksGood (y : Sys) (d : Nat) : Bool := [0, 1, 2, 3].all fun p => y.pllGood d p

/-- ROTATION (R502): each die with a free, passing pipeline rotates once. -/
def Sys.rotation (y : Sys) : Sys :=
  if y.nat Ob.RotPeriod = 0 ∨ ¬y.running then y
  else y.each (y.dieList.filter fun d => !(y.die d).mappedOut) fun d y =>
    let x := y.die d
    match x.leaving, x.freePipe, x.oldest with
    | none, some inc, some pos =>
      if y.clocksGood d then (y.bump (Ob.RotCount d) 1).scheduleHandover d pos inc (usU 250) else y
    | _, _, _ => y

/-- SELF_TEST_COMPLETE (R503, R504): a pass makes it the free pipeline, or gives a position without one its pipeline; a failure maps
it out. While the PIPE PLL is not locked there is no test to complete. -/
def Sys.selfTested (d phys : Nat) (pass : Bool) (y : Sys) : Sys :=
  let x := y.die d
  if x.pipeSt.getD phys 3 ≠ 1 ∨ ¬y.pllGood d 1 then y
  else if pass then
    let x := { x with tested := x.tested.set phys y.now, passed := phys :: x.passed.filter (fun p => p != phys),
                      pipeSt := x.pipeSt.set phys (if x.mism.contains phys then 2 else 0) }
    match (List.range 4).find? fun q => x.map.getD q 15 == 15 with
    | some q => (y.setDie d { x with map := x.map.set q phys }).raise 0x0A01 d q
    | none => y.setDie d x
  else
    let y := y.setDie d { x with pipeSt := x.pipeSt.set phys 3, passed := x.passed.filter fun p => p != phys }
    (((y.bump (Ob.DieSelfTestFails d) 1).onRep fun r => { r with pipes := r.pipes ++ [(d, phys)] }).raise 0x1107 d phys).powerDie d

/-! ### Confidence decode (R130 to R132, R174, R175) -/

/-- The holder number of a picture's confidence checks on its references; 1 is the repair copy. -/
def confHold (frame : Nat) : Nat := frame + 2

/-- Release a hold on every buffer of a channel's pools (R174). -/
def Sys.dropHold (n h : Nat) (y : Sys) : Sys :=
  let drop := fun (b : Buf) => { b with holds := b.holds.filter fun x => x != h }
  (y.onChan n fun c => { c with bufs := c.bufs.map drop, oldBufs := c.oldBufs.map drop }).freeOld n

/-- Whether the frame of that number is coded. -/
def Sys.frameCoded (y : Sys) (n frame : Nat) : Bool :=
  match (y.chan n).frames.find? fun fr => fr.n == frame with
  | some fr => fr.coded (y.fig n)
  | none => true

/-- The hold of a picture goes when its last sampled slice is checked. -/
def Sys.holdIfDone (n frame : Nat) (y : Sys) : Sys :=
  if y.frameCoded n frame ∧ !((y.chan n).checks.any fun (k : Check) => k.frame == frame) then y.dropHold n (confHold frame) else y

/-- Pixels per second of the layers of a die with decoding enabled that satisfy a test (R176). -/
def Sys.layerLoad (y : Sys) (use : Nat → Bool) (d : Nat) : Rat :=
  let v := y.nat
  (((List.range 16).map fun i => 16 * d + i).filter fun l =>
      v (Ob.LySource l) == 2 && v (Ob.DecSource l) != 0 && v (Ob.LyContext l) != 0xFF && use l).foldl
    (fun (s : Rat) l => s + ((v (Ob.DecMaxWidth l) * v (Ob.DecMaxHeight l) * v (Ob.DecMaxRateNum l) : Nat) : Rat) /
      (max 1 (v (Ob.DecMaxRateDen l)) : Rat)) 0

/-- Pixels per second that a die encodes. -/
def Sys.encodeLoad (y : Sys) (d : Nat) : Rat :=
  (y.activeChans.filter fun n => (y.chan n).pipes.any fun e => e.1 == d).foldl (fun (s : Rat) n =>
    let f := y.fig n
    let all : Rat := ((f.wd * f.ht * f.rn : Nat) : Rat) / (max 1 f.rd : Rat)
    s + if f.pair then all / 2 else all) 0

/-- c (R131). What a stopped source does not use goes to confidence decode (R185). -/
def Sys.coverage (y : Sys) (d : Nat) : Rat :=
  let e := y.encodeLoad d
  let free := 2100000000 - y.layerLoad (fun l => y.nat (Ob.DecState l) != 1 || y.nat (Ob.DecStopCause l) == 0) d
  if e ≤ free then 1 else if free ≤ 0 then 0 else free / e

/-- Whether the slice of a position is sampled in a frame: each position once every ceil(1 / c) frames (R131, log entry 56). -/
def Sys.sampled (y : Sys) (d frame row col tiles : Nat) : Bool :=
  let c := y.coverage d
  decide (0 < c) && (frame + row * tiles + col) % (ratCeil (1 / c)).toNat.max 1 == 0

/-- The reconstruction checksum of a slice (R129): its planes as 16-bit words, lowest byte first. -/
def sliceChecksum (p : Planes) : Nat := crc32c ((p.luma ++ p.cb ++ p.cr).flatMap fun v => leBytes 2 (v % 1024))

/-- A confirmed mismatch of a pipeline (R132): where it still serves its position, the free pipeline takes that at the first boundary at
least 250 µs later; a suspect that holds it in its rotation slot gives it back to the pipeline it relieved, whose self-test ends; with
neither the position stays on the suspect. -/
def Sys.mismatch (n : Nat) (k : Check) (y : Sys) : Sys :=
  let y := y.onDie k.die fun x => { x with mism := x.mism ++ [k.pipe] }
  let x := y.die k.die
  if x.leaving.isSome ∨ x.map.getD k.pos 15 ≠ k.pipe then y.wantRefresh n
  else
    let back := x.relief.bind fun e => if e.1 = k.pipe ∧ x.pipeSt.getD e.2 3 = 1 then some e.2 else none
    match (match x.freePipe with
      | some p => some p
      | none => back) with
    | some inc => ((y.onDie k.die fun x => { x with pipeSt := x.pipeSt.set inc (if x.mism.contains inc then 2 else 0) }).scheduleHandover
        k.die k.pos inc (usU 250)).wantRefresh n
    | none => y.wantRefresh n

/-- CONFIDENCE_CHECK_COMPLETE (R129 to R132): the checksums of DP0's decodes of the slice, the second of which matters when the first
differs from the pipeline's. -/
def Sys.confChecked (n frame row col : Nat) (decodes : Decodes) (y : Sys) : Sys :=
  let c := y.chan n
  let mine := fun (k : Check) => k.frame == frame && k.row == row && k.col == col
  match c.checks.find? mine with
  | none => y
  | some k =>
    let y := (y.setChan n { c with checks := c.checks.filter fun k => !mine k }).bump (Ob.EncConfRowsChecked n) 1
    let a := sliceChecksum decodes.first
    let b := sliceChecksum decodes.second
    let y := if a = k.sum ∨ b = k.sum then y
      else if b = a then ((y.bump (Ob.EncConfMismatch n) 1).raise 0x0A05 k.die n).mismatch n k
      else y.raise 0x0A06 k.die n
    y.holdIfDone n frame

/-- CONFIDENCE_HOLD_RELEASE (R174, R175): one frame period after the deadline of the last row. -/
def Sys.confRelease (n frame : Nat) (y : Sys) : Sys :=
  let c := y.chan n
  let f := y.fig n
  match c.frames.find? fun fr => fr.n == frame with
  | none => y
  | some fr =>
    if atOrAfter (y.frameNow n fr.old) (fr.origin + f.deadline (f.rows - 1) + f.period_) then
      let open_ := c.checks.filter fun k => k.frame == frame
      let y := y.setChan n { c with checks := c.checks.filter fun k => k.frame != frame }
      let y := if open_.isEmpty then y else (y.bump (Ob.RefConfAbandoned n) open_.length).raise 0x0C06 c.die n
      y.dropHold n (confHold frame)
    else y

/-! ### Strips and the repair copy (R59, R108, R127, R174) -/

/-- The hold of the strip mirror on a row of a half (R174). -/
def stripHold (half row : Nat) : Nat := 2 ^ 32 + 2 * row + half

/-- Every row of a pair's picture that is final on its die and has not reached the partner holds the picture (R174). -/
def Sys.holdStrips (n : Nat) (k : Int) (y : Sys) : Sys :=
  let f := y.fig n
  match (y.chan n).frames.find? fun fr => fr.k == k with
  | some fr =>
    if f.pair then
      let due := (List.range f.rows).flatMap fun r => ([0, 1].filter fun h => fr.rowFinal f h r && !(fr.row r).stripOk.contains h).map fun h =>
        stripHold h r
      y.onChan n fun c => { c with bufs := c.bufs.map fun b =>
        if b.frame = fr.n ∧ (b.recon ∨ b.mark ≠ 0) then { b with holds := b.holds ++ due.filter fun h => !b.holds.contains h } else b }
    else y
  | none => y

/-- The motion-field entry of a 16 × 16 block of a CTU (R165): that of the prediction block over its first sample; a skipped block has
motion zero on the most recent picture. -/
def CtuCode.motion (c : CtuCode) (bx by_ : Nat) : Motion :=
  match c with
  | .inter l => (l.find? fun b => decide (b.x ≤ 16 * bx) && decide (16 * bx < b.x + b.w) && decide (b.y ≤ 16 * by_) &&
      decide (16 * by_ < b.y + b.h)).map fun b => (b.ref, b.dx, b.dy)
  | .skip _ | .still => some (0, 0, 0)
  | .intra _ | .dc .. => none

/-- The motion-field entries that go with a strip: the 16 of the 64 columns on its side of the boundary (R166). -/
def Sys.stripMotion (y : Sys) (n : Nat) (fr : Frame) (half row : Nat) : List Motion :=
  let f := y.fig n
  let pc := f.rowCtus / 2 - 1 + half
  match (y.chan n).bufs.find? fun b => b.frame == fr.n && (b.recon || b.mark != 0) with
  | some b => match Tab.find (fun _ => none) b.recs (row * f.rowCtus + pc) with
    | some e => (List.range 4).flatMap fun by_ => (List.range 4).map fun bx => e.code.motion bx by_
    | none => []
  | none => []

/-- STRIP_MIRROR_ARRIVAL (R59, R166): the strip of the oldest frame that has the row final and not yet mirrored from that half; its
motion goes with it when temporal motion prediction is on. -/
def Sys.stripArrives (n half row : Nat) (y : Sys) : Sys :=
  let c := y.chan n
  let f := y.fig n
  if f.pair then
    match c.frames.find? fun (fr : Frame) => !(fr.row row).stripOk.contains half && fr.rowFinal f half row with
    | some fr =>
      let mv := if f.tool 1 then [(half, y.stripMotion n fr half row)] else []
      (y.onFrame n fr.k fun fr => fr.onRow row fun w => { w with stripOk := w.stripOk ++ [half], stripMv := w.stripMv ++ mv }).dropHold n
        (stripHold half row)
    | none => y
  else y

/-- A row of a buffer held for the copy reaches the new die: with its last row the hold goes. -/
def Buf.copyRow (b : Buf) (rows row : Nat) : Buf :=
  let done := b.copied ++ [row]
  { b with copied := done, holds := if rows ≤ done.length then b.holds.filter (fun h => h != 1) else b.holds }

/-- REPAIR_COPY_ROW (R127, R171, R174): a row of a live reference has reached the new die, from the start of the last frame on the old
die on; a row of a picture that is being reconstructed only once it is final. -/
def Sys.copyRow (n buffer row : Nat) (y : Sys) : Sys :=
  let c := y.chan n
  let f := y.fig n
  let ok := fun (b : Buf) => b.holds.contains 1 && decide (row < f.rows) && !b.copied.contains row &&
    match c.frames.find? fun fr => fr.n == b.frame with
    | some fr => fr.rowFinal f 0 row && fr.rowFinal f 1 row
    | none => true
  let l := if c.oldBufs.isEmpty then c.bufs else c.oldBufs
  match l[buffer]? with
  | none => y
  | some b =>
    if ok b then
      let l := l.set buffer (b.copyRow f.rows row)
      (y.setChan n (if c.oldBufs.isEmpty then { c with bufs := l } else { c with oldBufs := l })).freeOld n
    else y

/-! ### Faults of domains (R485, R506) -/

/-- The die cannot be reached (R434, R485). -/
def Sys.loseDie (d : Nat) (y : Sys) : Sys :=
  if y.mgmt.lost.contains d then y else { y with mgmt := { y.mgmt with lost := y.mgmt.lost ++ [d] } }

/-- DOMAIN_FAULT (R485, R506): at boot the die is mapped out. -/
def Sys.domainFault (d i : Nat) (y : Sys) : Sys :=
  if (y.die d).domainUp i then
    let y := y.onDie d fun x => { x with domains := x.domains.filter (fun k => k != i), domPending := x.domPending.filter fun e => e.1 != i }
    let y := y.raise 0x0204 d i
    if y.power.phase = .booting then (y.onDie d fun x => { x with mappedOut := true }).raise 0x110B d d
    else if 5 ≤ i ∧ i ≤ 12 then
      let hit := fun (p : Nat) => p / 4 == i - 5
      let y := y.onOnyx d fun o => { o with spares := o.spares.filter fun p => !hit p }
      y.each (List.range 30) fun k y => match ((y.onyx d).core k).phys with
        | some p => if hit p then y.coreFault d k 0 else y
        | none => y
    else if 21 ≤ i ∧ i ≤ 25 then y.pipeFailed d (i - 21)
    else if 36 ≤ i then
      match y.lanePort (12 * d + (i - 36)) with
      | some p => y.downRetrain p
      | none => y
    else if (1 ≤ i ∧ i ≤ 4) ∨ (13 ≤ i ∧ i ≤ 20) ∨ (27 ≤ i ∧ i ≤ 31) then y.loseDie d
    else y
  else y

/-! ### The commands -/

/-- PIPELINE_FAILURE (R62). -/
def execPipelineFailure (dt die phys : Nat) (s : State) : Res := act dt (Sys.pipeFailed die phys) s

/-- STRIP_MIRROR_ARRIVAL (R59). -/
def execStripMirrorArrival (dt ch half row : Nat) (s : State) : Res := act dt (Sys.stripArrives ch half row) s

/-- REPAIR_COPY_ROW (R127). -/
def execRepairCopyRow (dt ch buffer row : Nat) (s : State) : Res := act dt (Sys.copyRow ch buffer row) s

/-- CONFIDENCE_CHECK_COMPLETE (R132). -/
def execConfidenceCheckComplete (dt ch frame row col : Nat) (decodes : Decodes) (s : State) : Res :=
  act dt (Sys.confChecked ch frame row col decodes) s

/-- CONFIDENCE_HOLD_RELEASE (R174, R175). -/
def execConfidenceHoldRelease (dt ch frame : Nat) (s : State) : Res := act dt (Sys.confRelease ch frame) s

/-- ROTATION (R502). -/
def execRotation (dt : Nat) (s : State) : Res := act dt Sys.rotation s

/-- SELF_TEST_COMPLETE (R503). -/
def execSelfTestComplete (dt die phys : Nat) (pass : Bool) (s : State) : Res := act dt (Sys.selfTested die phys pass) s

/-- DOMAIN_FAULT (R485). -/
def execDomainFault (dt die dom : Nat) (s : State) : Res := act dt (Sys.domainFault die dom) s

end Sys2Proof.Machine
end

