-- ==== Sys2Proof/Machine/Garnet.lean ====
section
/-! DEFINITION. Garnet's figures: activity, predicted complexity, the latency tube, row targets, row and CTU QPs, and the allowances of
tile columns (R84, R89, R135 to R143, R147 to R152, R155). -/

namespace Sys2Proof.Machine

/-! ### The pixels of a frame (R70, R86, R147) -/

/-- What makes pixels of a frame's rows as the row buffer holds them: the depth received and the fill colour (R70, R79, R86). -/
structure Pixels where
  depth : Nat
  fill : Nat

/-- The pixel settings of a channel: a bound channel's rows come from Opal. -/
def Sys.pixels (y : Sys) (n : Nat) : Pixels :=
  { depth := if (y.chan n).cx.isSome then 10 else y.cfgN n (Ob.IngDepth n), fill := y.cfgN n (Ob.IngFillColor n) }

/-- A pixel at 10 bit: as received, and `IngFillColor`'s where none was. The pixels that a CTU concealed by skip lacks enter its activity
so (R147 does not say how; log entry 92). -/
def Frame.pixel (fr : Frame) (p : Pixels) (x yy : Nat) : Nat × Nat × Nat :=
  match (fr.row (yy / 64)).segs.find? fun (s : Seg) => s.line == yy && decide (s.off ≤ x) && decide (x < s.off + s.px.length) with
  | some s =>
    let v := s.px.getD (x - s.off) (0, 0, 0)
    (to10 p.depth v.1, to10 p.depth v.2.1, to10 p.depth v.2.2)
  | none => (bits p.fill 29 20, bits p.fill 19 10, bits p.fill 9 0)

/-- The luma of a pixel. -/
def Frame.luma (fr : Frame) (p : Pixels) (x yy : Nat) : Nat := (fr.pixel p x yy).1

/-- The first column of pixels of a CTU of a row. -/
def Fig.ctuX (f : Fig) (pc : Nat) : Nat := pc / f.ctus * (f.wd / f.tiles) + pc % f.ctus * 64

/-- The difference of two samples. -/
def absDiff (a b : Nat) : Nat := a - b + (b - a)

/-- a(i) of a row whose storage is there (R147). -/
def Frame.measure (fr : Frame) (f : Fig) (p : Pixels) (r pc : Nat) : Nat :=
  let w := fr.row r
  if w.conceal.contains pc && !w.skip.contains pc then 0
  else
    let x0 := f.ctuX pc
    let cols := List.range (min 64 (f.wd - x0))
    let lines := List.range (min 64 (f.ht - 64 * r))
    lines.foldl (fun s j => cols.foldl (fun s i =>
      let v := fr.luma p (x0 + i) (64 * r + j)
      s + (if i + 1 < cols.length then absDiff v (fr.luma p (x0 + i + 1) (64 * r + j)) else 0) +
        (if j + 1 < lines.length then absDiff v (fr.luma p (x0 + i) (64 * r + j + 1)) else 0)) s) 0

/-- a(i) (R147): what the buffer accumulated, also after it released the row (R84). -/
def Frame.activity (fr : Frame) (f : Fig) (p : Pixels) (r pc : Nat) : Nat :=
  match (fr.row r).acts with
  | some l => l.getD pc 0
  | none => fr.measure f p r pc

/-- The chroma lines of a 4:2:0 picture from those of a 4:2:2 picture (R110). -/
def chroma420 : List (List Nat) → List (List Nat)
  | a :: b :: l => a.zipWith (fun x y => (x + y + 1) / 2) b :: chroma420 l
  | _ => []

/-- The block sums of a CTU, of luma and both chroma planes, for each transform block at the largest size of the standard (R122, R124). A
4:2:2 pixel's chroma is that of the even column; a 4:2:0 picture's is formed from pairs of lines (R110). A CTU concealed by fill is all of
one colour (R86). -/
def Frame.blockSums (fr : Frame) (f : Fig) (p : Pixels) (r pc : Nat) : List Nat :=
  let s := if f.codec = 0 then 32 else 64
  let x0 := f.ctuX pc
  let xs := fun i => (List.range s).filter fun j => decide (x0 + s * i + j < f.wd)
  let ys := fun i => (List.range s).filter fun j => decide (64 * r + s * i + j < f.ht)
  let sum := fun (l : List Nat) => l.foldl (· + ·) 0
  let w := fr.row r
  let fr := if w.conceal.contains pc && !w.skip.contains pc then fr.setRow r { w with segs := [] } else fr
  (List.range (64 / s)).flatMap fun by_ => (List.range (64 / s)).flatMap fun bx =>
    let px := (ys by_).map fun j => (xs bx).map fun i => fr.pixel p (x0 + s * bx + i) (64 * r + s * by_ + j)
    let even := px.map fun l => (l.zipIdx.filter fun e => e.2 % 2 == 0).map Prod.fst
    let plane := fun (c : Nat × Nat × Nat → Nat) =>
      let l := even.map fun row => row.map c
      sum ((if f.prof = 0 then chroma420 l else l).map sum)
    [sum (px.map fun l => sum (l.map Prod.fst)), plane fun v => v.2.1, plane fun v => v.2.2]

/-! ### The tube (R139 to R143) -/

/-- Whether a picture is intra throughout (R112, R117, R169). -/
def Frame.intra (fr : Frame) : Bool := fr.kind == .idr || fr.kind == .cra

/-- Whether a CTU lies in the refresh band (R117). -/
def Frame.inBand (fr : Frame) (f : Fig) (r pc : Nat) : Bool :=
  if f.mode = 1 then decide (fr.band.1 ≤ pc) && decide (pc < fr.band.2)
  else if f.mode = 2 then decide (fr.band.1 ≤ r) && decide (r < fr.band.2) else false

/-- Whether the floor syntax of a CTU is intra DC (R122). -/
def Frame.floorIntra (fr : Frame) (f : Fig) (r pc : Nat) : Bool := fr.intra || fr.inBand f r pc

/-- φ of a CTU (R139). -/
def Frame.phi (fr : Frame) (f : Fig) (r pc : Nat) : Nat := if fr.floorIntra f r pc then 32 else 8

/-- Φrow(r) (R139). -/
def Frame.phiRow (fr : Frame) (f : Fig) (r : Nat) : Nat := f.floorRow (if fr.intra then f.rowCtus else f.bandCtus fr.band r)

/-- z (R139). -/
def Frame.z (fr : Frame) : Nat := if fr.eos then 5 else 3

/-- Φ(r) (R139). -/
def Frame.phiFrom (fr : Frame) (f : Fig) (r : Nat) : Nat :=
  ((List.range f.rows).filter fun j => decide (r ≤ j)).foldl (fun s j => s + fr.phiRow f j) fr.z

/-- E(r) of a frame (R137). -/
def Frame.line (fr : Frame) (f : Fig) (r : Int) : Nat := lineOf fr.budget f.ht f.rows r

/-- Lo(r) (R140). -/
def Frame.lo (fr : Frame) (f : Fig) (r : Nat) : Nat :=
  if f.rows ≤ r + 1 then fr.budget else fr.line f ((r : Int) - f.lat + 2)

/-- Up(r) (R140). -/
def Frame.up (fr : Frame) (f : Fig) (r : Nat) : Nat := min (fr.line f ((r : Int) + f.lat - 1)) (fr.budget - fr.phiFrom f (r + 1))

/-- c(r − 1) (R138). While another pipeline still codes its column of an earlier row (R50), that column counts with its allowance, its
hard bound, and the row with its filler, so that R141 holds whatever the column comes to (log entry 93). -/
def Frame.before (fr : Frame) (f : Fig) : Nat → Nat
  | 0 => fr.prefixLen
  | r + 1 =>
    let w := fr.row r
    if w.whole f.tiles then w.total
    else max (fr.before f r + ((List.range f.tiles).map fun c =>
      let x := w.col c
      if x.done then x.slice.length else x.allow).foldl (· + ·) 0) (fr.lo f r + 2)

/-! ### Predicted complexity (R148, R159) -/

/-- A ratio of activities, clamped (R148). -/
def actRatio (a m : Nat) : Rat :=
  let q := if m = 0 then (if a = 0 then Config.ratioOfZero 0 else 8) else (a : Rat) / (m : Rat)
  max (1 / 8) (min q 8)

/-- Whether the complexity map of a row is on the channel's die: after a repair move it arrives with the reference pictures (R159). -/
def Chan.mapHere (c : Chan) (r : Nat) : Bool :=
  c.oldBufs.isEmpty || c.oldBufs.any fun b => b.copied.contains r

/-- The map entry of a CTU that prediction may use. -/
def Frame.entry (fr : Frame) (f : Fig) (c : Chan) (r pc : Nat) : Option (Cx6 × Nat) :=
  if fr.inBand f r pc || !c.mapHere r then none
  else match Tab.find (fun _ => ([], 0)) c.map (r * f.rowCtus + pc) with
    | ([], _) => none
    | e => some e

/-- X̂ of a CTU whose row is in the row buffer (R148). -/
def Frame.xhat (fr : Frame) (f : Fig) (c : Chan) (p : Pixels) (r pc : Nat) : Cx6 :=
  let a := fr.activity f p r pc
  match fr.entry f c r pc with
  | some e => cxScale (actRatio a e.2) e.1
  | none => cxScale (a : Rat) fr.kappa

/-- Whether a row is in its row buffer (R50, R55). -/
def Sys.rowBuffered (y : Sys) (n : Nat) (fr : Frame) (r : Nat) : Bool :=
  let f := y.fig n
  ((y.chan n).cx.isSome || (fr.row r).settled) && atOrAfter (y.frameNow n fr.old) (fr.origin + f.buffered r)

/-- The last row of a frame that has entered its row buffer, not before r. -/
def Sys.lastBuffered (y : Sys) (n : Nat) (fr : Frame) (r : Nat) : Nat :=
  ((List.range (y.fig n).rows).filter fun j => decide (r ≤ j) && y.rowBuffered n fr j).foldl max r

/-- X̂(j) for rows not in the buffer: ρ and the mean activity come from the last row that is (R148). -/
def Frame.xlater (fr : Frame) (f : Fig) (c : Chan) (rho mean : Rat) (j : Nat) : Cx6 :=
  cxSum ((List.range f.rowCtus).map fun pc => match fr.entry f c j pc with
    | some e => cxScale rho e.1
    | none => cxScale mean fr.kappa)

/-- X̂ of rows r to N − 1 (R148). -/
def Frame.predict (fr : Frame) (f : Fig) (c : Chan) (p : Pixels) (r last : Nat) : List Cx6 :=
  let cs := List.range f.rowCtus
  let as := cs.map fun pc => (fr.activity f p last pc, fr.entry f c last pc)
  let had := as.filterMap fun e => e.2.map fun m => (e.1, m.2)
  let rho := if had.isEmpty then 1 else actRatio ((had.map Prod.fst).foldl (· + ·) 0) ((had.map Prod.snd).foldl (· + ·) 0)
  let mean : Rat := ((as.map Prod.fst).foldl (· + ·) 0 : Nat) / (max 1 f.rowCtus : Nat)
  ((List.range f.rows).filter fun j => decide (r ≤ j)).map fun j =>
    if j ≤ last then cxSum (cs.map fun pc => fr.xhat f c p j pc) else fr.xlater f c rho mean j

/-- κ of a first picture, from the rows in the row buffer when row 0 begins (R148). -/
def Frame.firstKappa (fr : Frame) (f : Fig) (p : Pixels) (firstQp last : Nat) : Cx6 :=
  let sum := ((List.range (last + 1)).flatMap fun r => (List.range f.rowCtus).map fun pc => fr.activity f p r pc).foldl (· + ·) 0
  let want := fr.budget - fr.prefixLen - f.rows * f.tiles * f.sliceHdr
  let num := want * min (64 * (last + 1)) f.ht
  if sum = 0 then cxOf (Config.ratioOfZero num)
  else cxScale ((num : Rat) / ((f.ht * sum : Nat) : Rat)) (cxPow ((firstQp : Int) - 4))

/-! ### Row targets and QPs (R149 to R152) -/

/-- The bounds Garnet keeps (R150). -/
structure QpBounds where
  lo : Nat
  hi : Nat
  top : Nat
  swing : Nat

def Sys.qpBounds (y : Sys) (n : Nat) : QpBounds :=
  let top := if (y.fig n).codec = 0 then 51 else 63
  { lo := min top (y.cfgN n (Ob.RcQpMin n)), hi := min top (y.cfgN n (Ob.RcQpMax n)), top := top,
    swing := y.cfgN n (Ob.RcCtuQpSwing n) }

/-- The integer part of x · a / b; where b is 0 the ratio is open. -/
def shareFloor (x : Nat) (a b : Cx6) : Int :=
  if cxSign b = 0 then ratFloor ((x : Rat) * Config.ratioOfZero x) else cxFloorDiv (cxScale (x : Rat) a) b

/-- The row's plan: lo, hi, t(r) (R149), and whether the whole row is floored (R154). `xs` is X̂ of rows r on. -/
def Frame.rowTarget (fr : Frame) (f : Fig) (r : Nat) (xs : List Cx6) : Int × Int × Bool :=
  let c := fr.before f r
  let hi : Int := (fr.up f r : Int) - c
  let lo : Int := max ((fr.lo f r : Int) - c) (fr.phiRow f r)
  let x := xs.headD []
  let near := xs.take f.lat
  let e0 := fr.line f ((r : Int) - 1)
  let e1 := fr.line f r
  let t1 : Int := (e0 : Int) - c + shareFloor ((e1 - e0) * near.length) x (cxSum near)
  let t2 : Int := shareFloor (fr.budget - fr.z - c) x (cxSum xs)
  (hi, min (max (min t1 t2) lo) hi, decide (hi < (fr.phiRow f r : Int) + 2 * f.rowCtus))

/-- The row QP (R150). -/
def rowQp (q : QpBounds) (x : Cx6) (t hi : Int) (hdr : Nat) : Nat :=
  let room : Rat := ((t - hdr : Int) : Rat)
  let span := (List.range (q.hi + 1)).filter fun k => decide (q.lo ≤ k)
  let model := if cxSign x = 0 then min q.hi (max q.lo (Config.qpOfZero hdr))
    else (span.filter fun (k : Nat) => cxLe (cxScale room (cxPow ((k : Int) - 4))) x).foldl max q.lo
  let fits := fun (k : Nat) => k == q.top || cxLe (cxAdd (cxMul x (cxPow (4 - (k : Int)))) (cxOf (hdr : Rat))) (cxOf (hi : Rat))
  searchUp fits 1 (q.top - model) model

/-- The column with the largest weight, ties to the lowest. -/
def heaviest (xs : List Cx6) : Nat :=
  (xs.zipIdx.foldl (fun (b : Nat × Cx6) e => if cxLt b.2 e.1 then (e.2, e.1) else b) (0, xs.headD [])).1

/-- Shares of a sum in proportion to weights, rounded down, the remainder to the heaviest (R151). -/
def splitBytes (total : Nat) (xs : List Cx6) : List Nat :=
  let sum := cxSum xs
  let parts := if cxSign sum = 0 then
      (xs.zipIdx.foldl (fun (b : List Nat × Nat) e =>
        let v := Config.shareOfZero e.2 total % (b.2 + 1)
        (b.1 ++ [v], b.2 - v)) ([], total)).1
    else xs.map fun x => (cxFloorDiv (cxScale (total : Rat) x) sum).toNat
  let k := heaviest xs
  parts.set k (parts.getD k 0 + (total - parts.foldl (· + ·) 0))

/-- φ of the CTUs of a column from CTU i on. -/
def Frame.phiRest (fr : Frame) (f : Fig) (r col i : Nat) : Nat :=
  ((List.range f.ctus).filter fun j => decide (i ≤ j)).foldl (fun s j => s + fr.phi f r (col * f.ctus + j)) 0

/-- X̂ of the CTUs of a column from CTU i on. -/
def Frame.xRest (fr : Frame) (f : Fig) (c : Chan) (p : Pixels) (r col i : Nat) : Cx6 :=
  cxSum (((List.range f.ctus).filter fun j => decide (i ≤ j)).map fun j => fr.xhat f c p r (col * f.ctus + j))

/-- The lowest QP at or above one whose projection fits the allowance (R152). -/
def projectQp (top : Nat) (rest : Cx6) (room : Int) (q : Nat) : Nat :=
  let fits := fun (k : Nat) => k == top || cxLe rest (cxScale ((room : Int) : Rat) (cxPow ((k : Int) - 4)))
  searchUp fits 1 (top - q) (min q top)

/-- δ of spent over planned, given as a fraction of two numbers (R152), rounded to nearest, halves away from zero (R529). -/
def qpDelta (swing : Nat) (spent planned : Cx6) : Int :=
  if cxSign planned = 0 then swing
  else if cxSign spent = 0 then -(swing : Int)
  else
    let s2 := cxMul spent spent
    let p2 := cxMul planned planned
    let atLeast := fun (m : Int) =>
      let b := cxMul p2 (cxPow (2 * m - 1))
      if 0 < m then cxLe b s2 else cxLt b s2
    let steps := (List.range (2 * swing)).map fun (i : Nat) => (i : Int) + 1 - swing
    (steps.filter atLeast).foldl max (-(swing : Int))

/-- The QP of the next CTU of a column (R152): q_r + δ + 6f within the bounds, where 6f alone may pass `RcQpMax`. -/
def Frame.nextQp (fr : Frame) (f : Fig) (c : Chan) (p : Pixels) (q : QpBounds) (r col : Nat) (x : Col) : Nat :=
  let rest := fr.xRest f c p r col x.ctu
  let room : Int := (x.allow : Int) - x.used - fr.phiRest f r col x.ctu
  let base := if x.ctu = 0 then x.rowQp
    else
      let all := cxAdd x.doneX rest
      let flat := cxSign all = 0
      let part : Cx6 := if flat then cxOf (Config.ratioOfZero x.target) else x.doneX
      let spent := cxScale ((x.used - f.sliceHdr : Nat) : Rat) (if flat then cxOf 1 else all)
      let d := qpDelta q.swing spent (cxScale (x.target : Rat) part)
      (max (min ((x.rowQp : Int) + d) q.hi + 6 * x.fallbacks) q.lo).toNat
  projectQp q.top rest room base

end Sys2Proof.Machine
end

