-- ==== Sys2Proof/Machine/Headers.lean ====
section
/-! DEFINITION. What the lattice cores write outside slice data: the syntax elements of parameter sets, APS, picture and slice headers and
SEI with the values the spec gives them, and their units (R71, R103, R104, R107, R109 to R120, R150, R160, R161, R168 to R170, R528).
The bytes of a unit are an open function of its elements (log entry 90). -/

namespace Sys2Proof.Machine

/-- A flag's value. -/
def flagOf (b : Bool) : Int := if b then 1 else 0

/-! ### Parameter sets -/

/-- general_profile_idc (R109). -/
def profileIdc (codec prof : Nat) : Nat := if codec = 0 then (if prof = 0 then 2 else 4) else (if prof = 0 then 1 else 33)

/-- chroma_format_idc (R109). -/
def Fig.chromaFormat (f : Fig) : Nat := if f.prof = 0 then 1 else 2

/-- colour_primaries, transfer_characteristics and matrix_coeffs (R71). -/
def colourCodes (colr tcs : Nat) : Nat × Nat × Nat :=
  if colr = 0 then (1, 1, 1) else if colr = 1 then (9, 14, 9) else if tcs = 1 then (9, 16, 9) else (9, 18, 9)

/-- The profile, level, format and structure of a sequence (R107, R109, R111, R112, R168). -/
def Fig.sequenceElems (f : Fig) : Elems :=
  let lv := f.level.getD (0, 0)
  List.flatten [
    [(.videoParameterSetId, 0), (.generalProfileIdc, profileIdc f.codec f.prof), (.generalTierFlag, lv.2), (.generalLevelIdc, lv.1)],
    if f.codec = 0 ∧ f.prof ≠ 0 then [(.constraintsMain42210, 1)] else [],
    [(.chromaFormatIdc, f.chromaFormat), (.bitDepthMinus8, 2), (.picWidth, f.wd), (.picHeight, f.ht), (.log2CtuSize, 6),
     (.log2MinCuSize, if f.codec = 0 then 3 else 2), (.log2MaxTbSize, if f.codec = 0 then 5 else 6), (.log2MinTbSize, 2),
     (.log2MaxPocLsbMinus4, 4), (.maxDecPicBufferingMinus1, f.refs), (.maxNumReorderPics, 0), (.longTermRefPicsPresentFlag, 0),
     (.maxNumMergeCand, if f.codec = 0 then 5 else 6)]]

/-- The tools of a sequence (R113, R115). -/
def Fig.toolElems (f : Fig) : Elems :=
  let t := fun b => flagOf (f.tool b)
  List.flatten [
    [(.saoEnabledFlag, t 0), (.temporalMvpEnabledFlag, t 1)],
    if f.codec = 0 then [(.ampEnabledFlag, t 5)]
     else
     [(.mttEnabledFlag, 1), (.transformSkipEnabledFlag, t 2), (.log2MaxTransformSkipSize, 5), (.alfEnabledFlag, t 8), (.ccalfEnabledFlag, t 9),
     (.affineEnabledFlag, t 10), (.gpmEnabledFlag, t 11), (.ciipEnabledFlag, t 12), (.mmvdEnabledFlag, t 13), (.sbtmvpEnabledFlag, t 14),
     (.depQuantEnabledFlag, t 15), (.lfnstEnabledFlag, t 16), (.mtsEnabledFlag, t 17), (.cclmEnabledFlag, t 18), (.mrlEnabledFlag, t 19),
     (.amvrEnabledFlag, t 20), (.jointCbcrEnabledFlag, t 21), (.mipEnabledFlag, 0), (.ispEnabledFlag, 0), (.ibcEnabledFlag, 0),
     (.paletteEnabledFlag, 0), (.actEnabledFlag, 0), (.lmcsEnabledFlag, 0), (.refPicResamplingEnabledFlag, 0), (.subpicInfoPresentFlag, 0),
     (.bdofEnabledFlag, 0), (.dmvrEnabledFlag, 0), (.virtualBoundariesEnabledFlag, flagOf (f.pair || f.mode != 3)),
     (.virtualBoundariesPresentFlag, 0)]]

/-- The video usability information (R71, R110). -/
def Fig.vuiElems (f : Fig) : Elems :=
  let c := colourCodes f.prims f.tcs
  List.flatten [
    [(.videoFullRangeFlag, f.range), (.colourPrimaries, c.1), (.transferCharacteristics, c.2.1), (.matrixCoeffs, c.2.2)],
    if f.prof = 0 then [(.chromaLocInfoPresentFlag, 1), (.chromaSampleLocTypeTop, 0), (.chromaSampleLocTypeBottom, 0)] else []]

/-- Sub-picture ticks of a picture (R160). -/
def Fig.subTicks (f : Fig) : Nat := if f.ht = 720 then 90 else 135

/-- The HRD parameters of a bitrate (R160); none with `RcHrdSignal` 0 (R161). -/
def Fig.hrdElems (f : Fig) (b : Nat) : Elems :=
  if f.hrd = 0 then [(.nalHrdParametersPresentFlag, 0), (.vclHrdParametersPresentFlag, 0)]
  else
    [(.nalHrdParametersPresentFlag, 1), (.vclHrdParametersPresentFlag, 0), (.duHrdParamsPresentFlag, 1), (.tickDivisor, f.subTicks),
     (.bitRateScale, 0), (.cpbSizeScale, 0), (.bitRateValueMinus1, (b / 64 : Nat) - 1), (.cpbSizeValueMinus1, (f.cpb b / 16 : Nat) - 1),
     (.cbrFlag, 1)]

/-- The picture parameter set: slices and tiles, loop filters, QP and deblocking (R103, R104, R113, R150). -/
def Fig.pictureElems (f : Fig) : Elems :=
  List.flatten [
    if f.codec = 0 then
     [(.transformSkipEnabledFlag, flagOf (f.tool 2)), (.signDataHidingEnabledFlag, flagOf (f.tool 4)), (.diffCuQpDeltaDepth, 0),
     (.dependentSliceSegmentsEnabledFlag, 0), (.tilesEnabledFlag, 0), (.numTileColumns, 1), (.numTileRows, 1)]
     else
     [(.numTileColumns, f.tiles), (.numTileRows, if f.tiles = 1 then 1 else f.rows), (.rectSliceFlag, 1)],
    [(.numSlices, f.tiles * f.rows), (.entropyCodingSyncEnabledFlag, 0), (.cuQpDeltaEnabledFlag, 1),
     (.loopFilterAcrossSlicesEnabledFlag, 1), (.loopFilterAcrossTilesEnabledFlag, 1), (.betaOffsetDiv2, f.beta), (.tcOffsetDiv2, f.tc),
     (.cbQpOffset, f.chromaQp), (.crQpOffset, f.chromaQp)]]

/-! ### Pictures -/

/-- How many reference pictures a picture has (R170): those since an IDR or a restart of the sequence, R at most. -/
def Frame.active (fr : Frame) (f : Fig) : Nat := if fr.intra then 0 else min f.refs fr.poc

/-- Whether the picture opens or belongs to a refresh cycle: it has a band. -/
def Frame.banded (fr : Frame) (f : Fig) : Bool := f.mode != 3 && decide (fr.band.1 < fr.band.2)

/-- The end of the refreshed area of a picture with a band, in CTU columns or coding rows; used as a reference, an H.265 picture lacks its
band's last position (R118). -/
def Fig.areaEnd (f : Fig) (band : Nat × Nat) (asRef : Bool) : Nat := band.2 - if asRef && f.codec == 0 then 1 else 0

/-- Whether a CTU lies in its picture's refreshed area (R118). -/
def Frame.inArea (fr : Frame) (f : Fig) (r pc : Nat) : Bool :=
  fr.banded f && decide ((if f.mode = 1 then pc else r) < f.areaEnd fr.band false)

/-- The vertical virtual boundaries of an H.266 picture in luma samples (R107, R119). -/
def Frame.verBounds (fr : Frame) (f : Fig) : List Nat :=
  (if f.pair then [3840] else []) ++
    (if f.codec = 1 ∧ f.mode = 1 ∧ fr.banded f ∧ 64 * fr.band.2 < f.wd ∧ ¬(f.pair ∧ 64 * fr.band.2 = 3840) then [64 * fr.band.2] else [])

/-- The horizontal virtual boundaries (R119). -/
def Frame.horBounds (fr : Frame) (f : Fig) : List Nat :=
  if f.codec = 1 ∧ f.mode = 2 ∧ fr.banded f ∧ 64 * fr.band.2 < f.ht then [64 * fr.band.2] else []

/-- The picture header of an H.266 picture (R107, R115, R119, R120, R150, R168, R169). -/
def Frame.headerElems (fr : Frame) (f : Fig) : Elems :=
  let v := fr.verBounds f
  let h := fr.horBounds f
  List.flatten [
    [(.gdrPicFlag, flagOf (fr.kind == .gdr)), (.picOrderCntLsb, fr.poc % 256)],
    if fr.kind = .gdr then [(.recoveryPocCnt, (f.cycle : Int) - 1)] else [],
    [(.virtualBoundariesPresentFlag, flagOf !(v.isEmpty && h.isEmpty)), (.numVerVirtualBoundaries, v.length)],
    v.map (fun x => (.verVirtualBoundaryPos, (x : Int))),
    [(.numHorVirtualBoundaries, (h.length : Int))],
    h.map (fun x => (.horVirtualBoundaryPos, (x : Int))),
    [(.temporalMvpEnabledFlag, flagOf (f.tool 1)), (.cuQpDeltaSubdivIntraSlice, 0), (.cuQpDeltaSubdivInterSlice, 0)]]

/-- The removal intervals of the decoding units of a picture, one for each coding row (R160). -/
def Fig.duElems (f : Fig) : Elems :=
  (List.range f.rows).map fun r => (.duCpbRemovalDelayIncrement, ((f.lineEnd r - 64 * r) * f.subTicks / f.ht : Nat))

/-- The syntax elements of a unit in front of the first slice. -/
def Frame.unitElems (fr : Frame) (f : Fig) : PrefixUnit → Elems
  | .aud => []
  | .vps => [(.videoParameterSetId, 0), (.maxDecPicBufferingMinus1, f.refs), (.maxNumReorderPics, 0)]
  | .sps => f.sequenceElems ++ f.toolElems ++ f.vuiElems ++ f.hrdElems fr.rate
  | .pps => f.pictureElems
  | .aps => [(.alfSource, (fr.n : Int) - 1), (.alfEnabledFlag, flagOf (f.tool 8)), (.ccalfEnabledFlag, flagOf (f.tool 9))]
  | .bufferingPeriod =>
    [(.initialCpbRemovalDelay, ceilDiv (f.lat * 64 * f.rd * 90000) (f.rn * f.ht)), (.initialCpbRemovalOffset, 0)]
  | .pictureTiming => f.duElems
  | .recoveryPoint => [(.recoveryPocCnt, (f.cycle : Int) - 1)]
  | .mdcv => f.mdcv.map fun b => (.mdcvByte, (b : Int))
  | .cll => [(.maxCll, (f.cll / 65536 : Nat)), (.maxFall, (f.cll % 65536 : Nat))]
  | .pictureHeader => fr.headerElems f

/-- Whether a unit goes out with a frame (R71, R114, R116, R120, R160, R161, R163, R169, R317). With `EncParamRepeat` 0 the parameter sets
go with the first access unit after a start too, which may lie in no cycle (log entry 91). -/
def Frame.unitDue (fr : Frame) (f : Fig) (alfFrom : Option Nat) (u : PrefixUnit) : Bool :=
  let sets := f.repeats == 1 || fr.n == 0 || fr.cycleStart || fr.kind != .inter
  f.units.contains u && match u with
  | .vps | .sps | .pps => sets
  | .aps => !fr.fixedAlf && decide (0 < fr.n) && alfFrom == some (fr.n - 1)
  | .bufferingPeriod => fr.bufPeriod
  | .recoveryPoint => fr.recovery
  | _ => true

/-- The bytes of elements as a unit of some number. -/
def elemBytes (codec num : Nat) (l : Elems) : List Byte := Config.unitBytes ((codec : Int) :: (num : Int) :: l.map Prod.snd)

/-- A unit in front of the first slice, within its largest size. -/
def Frame.headOf (fr : Frame) (f : Fig) (u : PrefixUnit) : Head :=
  let l := fr.unitElems f u
  { unit := u, elems := l, nal := (elemBytes f.codec u.num l).take (f.unitMax u) }

/-- The units due with a frame, in the order of R528. -/
def Frame.headsOf (fr : Frame) (f : Fig) (alfFrom : Option Nat) : List Head :=
  (f.units.filter (fr.unitDue f alfFrom)).map (fr.headOf f)

/-- Whether the tag of the frame of a number is signed (R256). -/
def Fig.signs (f : Fig) (n : Nat) : Bool := f.sig != 0 && n % f.sig == 0

/-- Whether a frame may carry a signature: that of the frame before (R257, R259). -/
def Fig.carriesSig (f : Fig) (n : Nat) : Bool := decide (0 < n) && f.signs (n - 1)

/-- The size of a frame's prefix that the cores declare before its row 0 begins, the most that its NAL units can take (R138). Whether an
APS and a signature go along is not known yet, and the tag and ANC data are not (log entry 94). -/
def Frame.declared (fr : Frame) (f : Fig) : Nat :=
  ((f.units.filter (fr.unitDue f (some (fr.n - 1)))).map f.unitMax).foldl (· + ·) 0 + tagMax +
    (if f.carriesSig fr.n then sigMax else 0) + f.ancRoom

/-! ### Slices (R103, R104, R112, R115, R170, R528) -/

/-- slice_type: 0 for B, 1 for P, 2 for I (R112). -/
def Frame.sliceType (fr : Frame) (f : Fig) : Nat :=
  if fr.active f = 0 then 2 else if f.codec = 1 ∧ 2 ≤ f.refs then 0 else 1

/-- nal_unit_type of a slice, of ITU-T H.265 and H.266 (log entry 44). -/
def Frame.nalType (fr : Frame) (f : Fig) : Nat :=
  match fr.kind with
  | .idr => if f.codec = 0 then 20 else 8
  | .cra => if f.codec = 0 then 21 else 9
  | .gdr => 10
  | .inter => if f.codec = 0 then 1 else 0

/-- slice_segment_address in H.265, the number of the tile's or row's slice in H.266 (R103). -/
def Fig.sliceAddress (f : Fig) (r col : Nat) : Nat := if f.codec = 0 then r * f.rowCtus + col * f.ctus else r * f.tiles + col

/-- The slice header of a row of a tile column with its slice QP: slice_qp_delta counts from 26. Reference index 0 is the most recent
picture, and two lists are equal. -/
def Frame.sliceElems (fr : Frame) (f : Fig) (r col qp : Nat) : Elems :=
  let act := fr.active f
  let t := fr.sliceType f
  List.flatten [
    [(.nalUnitType, fr.nalType f), (.firstSliceInPicFlag, flagOf (r == 0 && col == 0))],
    if f.codec = 0 then [(.dependentSliceSegmentFlag, 0)] else [],
    [(.sliceAddress, f.sliceAddress r col), (.sliceType, t), (.picOrderCntLsb, fr.poc % 256)],
    ((List.range act).map fun i => (.refPoc, (fr.poc : Int) - 1 - i)),
    [(.numRefIdxL0, act), (.numRefIdxL1, if t = 0 then act else 0), (.sliceTemporalMvpEnabledFlag, flagOf (f.tool 1 && act != 0))],
    if f.codec = 0 then [(.sliceLoopFilterAcrossSlicesEnabledFlag, 1)] else [],
    [(.sliceQpDelta, (qp : Int) - 26)]]

/-- The slice header's bytes, within the longest of the configuration. Unit 0 is a slice. -/
def Frame.sliceHead (fr : Frame) (f : Fig) (r col qp : Nat) : List Byte :=
  (elemBytes f.codec 0 (fr.sliceElems f r col qp)).take f.sliceHdr

/-! ### Sample planes and checksums (R129, R165) -/

/-- The words of a sample plane: three samples to a word of 32 bits in bits [29:0], bits [31:30] zero (R165). -/
def packSamples : List Nat → List Nat
  | a :: b :: c :: l => (a % 1024 + b % 1024 * 1024 + c % 1024 * 1048576) :: packSamples l
  | [] => []
  | l => [l.getD 0 0 % 1024 + l.getD 1 0 % 1024 * 1024]

/-- The offsets of the three areas of a picture buffer and its size (R165, R166). -/
def bufferAreas (wd ht cw : Nat) : Nat × Nat × Nat × Nat :=
  let m := blockUp (ceilDiv (8 * wd * ht) 3)
  let c := m + blockUp (ceilDiv wd 16 * ceilDiv ht 16 * 16)
  (0, m, c, bufferBytes wd ht cw)

end Sys2Proof.Machine
end

