-- ==== Sys2Proof/Machine/Rows.lean ====
section
/-! DEFINITION. Coding rows: the order of a pipeline, picture buffers, Garnet's steps, the confinement of prediction, floor syntax,
deadline mode, rows the cores supply, and filler (R44, R50 to R54, R61, R62, R84, R89, R100, R103 to R108, R112, R117, R119, R122 to
R130, R135, R138 to R142, R147, R153 to R158, R165, R168 to R175, R528). -/

namespace Sys2Proof.Machine

/-- A column of a row of a frame: channel, frame boundary number, row, column. -/
structure At where
  ch : Nat
  k : Int
  row : Nat
  col : Nat
deriving DecidableEq, Repr

/-- The frame of a channel with boundary number k. -/
def Chan.frame (c : Chan) (k : Int) : Option Frame := c.frames.find? fun fr => fr.k == k

/-- The frame a column belongs to. -/
def Sys.frameOf (y : Sys) (a : At) : Option Frame := (y.chan a.ch).frame a.k

/-- Change a column. -/
def Sys.onColumn (a : At) (g : Col → Col) (y : Sys) : Sys := y.onFrame a.ch a.k fun fr => fr.onCol a.row a.col g

/-- Raise an event at most once for a frame. -/
def Sys.raiseOnce (n : Nat) (k : Int) (code die : Nat) (y : Sys) : Sys :=
  match (y.chan n).frame k with
  | some fr => if fr.raised.contains code then y
    else (y.onFrame n k fun fr => { fr with raised := code :: fr.raised }).raise code die n
  | none => y

/-! ### Which row a pipeline takes (R50, R53, R61) -/

/-- The instant on the free-running clock at which a frame's time base reads so much after A. -/
def Sys.whenAt (y : Sys) (n : Nat) (fr : Frame) (t : Int) : Int := (y.frameMap n fr.old).when (fr.origin + t)

/-- The instant of a row's deadline on the free-running clock. -/
def Sys.dueWhen (y : Sys) (n : Nat) (fr : Frame) (r : Nat) : Int := y.whenAt n fr ((y.fig n).deadline r)

/-- The tile columns of a frame that a physical pipeline codes. -/
def Sys.colsOf (y : Sys) (n : Nat) (k : Int) (d phys : Nat) : List Nat :=
  ((((y.chan n).pipesAt k).zipIdx).filter fun e => e.1.1 == d && y.pipeOf n k d e.1.2 == phys).map Prod.snd

/-- The columns of a pipeline that satisfy a test, frame by frame and row by row. -/
def Sys.columnsAt (y : Sys) (d phys : Nat) (ok : Nat → Frame → Nat → Col → Bool) : List At :=
  y.activeChans.flatMap fun n =>
    (y.chan n).frames.flatMap fun fr => (y.colsOf n fr.k d phys).flatMap fun col =>
      ((List.range (y.fig n).rows).filter fun r => ok n fr r ((fr.row r).col col)).map fun r => { ch := n, k := fr.k, row := r, col := col }

/-- Columns in progress in a pipeline; a failed pipeline ends its columns (R62). -/
def Sys.inProgress (y : Sys) (d phys : Nat) : List At := y.columnsAt d phys fun _ _ _ x => x.started && !x.done && !x.failed

/-- The deadline of a column's row. -/
def Sys.dueOf (y : Sys) (a : At) : Int :=
  match y.frameOf a with
  | some fr => y.dueWhen a.ch fr a.row
  | none => 0

/-- The instant from which a row's deadline is nearer than the guard of its channel's time base (R52). -/
def Sys.guardOf (y : Sys) (a : At) : Int :=
  match y.frameOf a with
  | some fr => y.whenAt a.ch fr (((y.fig a.ch).deadline a.row : Int) - (y.fig a.ch).guard)
  | none => 0

/-- Earlier deadline first, then the lower channel number, then the earlier row (R53). -/
def Sys.before (y : Sys) (a b : At) : Bool :=
  let p := y.dueOf a
  let q := y.dueOf b
  decide (p < q) || (p == q && (decide (a.ch < b.ch) || (a.ch == b.ch && decide (a.row < b.row))))

/-- The first of a list in that order. -/
def Sys.earliest (y : Sys) (l : List At) : Option At :=
  l.foldl (fun (b : Option At) a => match b with
    | some x => if y.before a x then some a else b
    | none => some a) none

/-- Put a column in its place in that order. -/
def Sys.orderIn (y : Sys) (a : At) : List At → List At
  | [] => [a]
  | b :: l => if y.before a b then a :: b :: l else b :: y.orderIn a l

/-- Whether a column's row is pending: in the row buffer and not started (R54). -/
def Sys.isPending (y : Sys) (n : Nat) (fr : Frame) (r : Nat) (x : Col) : Bool :=
  !x.started && !x.done && !x.failed && !fr.frozen && y.rowBuffered n fr r

/-- The column that ROW_START starts in a pipeline, none while it codes a row. -/
def Sys.nextColumn (y : Sys) (d phys : Nat) : Option At :=
  if (y.inProgress d phys).isEmpty then y.earliest (y.columnsAt d phys y.isPending) else none

/-- The column a pipeline is coding. -/
def Sys.current (y : Sys) (d phys : Nat) : Option At := y.earliest (y.inProgress d phys)

/-! ### Picture buffers (R165, R168, R170 to R174) -/

/-- A picture starts: references lose their marks, confidence decode holds those left, and the lowest buffer free before takes the
picture. -/
def startBuf (refs : Nat) (fr : Frame) (l : List Buf) : List Buf :=
  let at_ := (l.zipIdx.find? fun e => e.1.mark == 0 && !e.1.recon && e.1.holds.isEmpty).map Prod.snd
  let l := l.map fun b => if b.mark ≠ 0 ∧ (fr.poc = 0 ∨ b.frame + refs < fr.n) then { b with mark := 0 } else b
  let l := l.map fun b => if b.mark ≠ 0 then { b with holds := confHold fr.n :: b.holds } else b
  match at_ with
  | some i => l.set i { poc := fr.poc, frame := fr.n, recon := true, mark := 1 }
  | none => l

/-- Row 0 of a frame begins: the cores declare the prefix (R138), κ is set (R148), the picture takes its buffer, and a move that waits
holds the references. Where another tile column has not finished the picture before, its intra CTUs are not in κ: the frame keeps the
older κ throughout (log entry 95). -/
def Sys.startPicture (n : Nat) (k : Int) (y : Sys) : Sys :=
  let f := y.fig n
  let y := y.onFrame n k fun fr => if fr.prefixDone then fr else { fr with prefixLen := fr.declared f }
  let c := y.chan n
  match c.frame k with
  | none => y
  | some fr =>
    let p := y.pixels n
    let kappa := if fr.n = 0 then fr.firstKappa f p (y.cfgN n (Ob.RcFirstQp n)) (y.lastBuffered n fr 0) else c.kappa
    let y := y.onFrame n k fun fr => { fr with kappa := kappa }
    ((y.onChan n fun c => { c with kappa := kappa, bufs := startBuf f.refs fr c.bufs }).holdForMove n).setInt (Ob.RefLastPoc n) fr.poc

/-! ### Overrides, ages, and the plan of a row (R89, R123, R149 to R156) -/

/-- CTUs of a row under Garnet's override (R156). -/
def Sys.overCtus (n cnt : Nat) (y : Sys) : Sys :=
  if cnt = 0 then y
  else
    let y := y.bump (Ob.RcOverQpCtus n) cnt
    if (y.chan n).ovr then y
    else ((y.onChan n fun c => { c with ovr := true }).bump Ob.OvrRateCount 1).raise 0x0B10 (y.chan n).die n

/-- The age of the pixels a CTU of a frame is coded from: the frame's capture time, or for a bound channel that of the composed
picture (R89, R210). -/
def Sys.pixelAge (y : Sys) (n : Nat) (fr : Frame) (r pc : Nat) : Option Int :=
  match (y.chan n).cx with
  | none => fr.capture
  | some c =>
    let f := y.fig n
    (y.cxFrame c fr.k).map fun g => composedAge (y.cxSet g) (y.cxPick g) g (f.ctuX pc) (64 * r) f.wd f.ht

/-- The age the map holds of a CTU. -/
def Sys.heldAge (y : Sys) (n r pc : Nat) : Option Int := Tab.find (fun _ => none) (y.chan n).ages (r * (y.fig n).rowCtus + pc)

/-- A CTU coded from received pixels takes its frame's capture time; a concealed one keeps its age (R89). What the map held before stays
with the frame. -/
def Sys.ageCtu (n : Nat) (k : Int) (r pc : Nat) (y : Sys) : Sys :=
  match (y.chan n).frame k with
  | some fr => if (fr.row r).conceal.contains pc then y
    else
      let a := (y.pixelAge n fr r pc).map fun a => if fr.old then a + (y.chan n).ageShift else a
      let i := r * (y.fig n).rowCtus + pc
      let was := y.heldAge n r pc
      (y.onFrame n k fun fr => { fr with ageBefore := Tab.put (fun _ => none) fr.ageBefore i (some was) }).onChan n fun c =>
        { c with ages := Tab.put (fun _ => none) c.ages i a }
  | none => y

/-- The age of a floor CTU: a skip keeps its age, intra DC takes that of its frame (R123). -/
def Sys.ageFloor (n : Nat) (k : Int) (r pc : Nat) (y : Sys) : Sys :=
  match (y.chan n).frame k with
  | some fr => if fr.floorIntra (y.fig n) r pc then y.ageCtu n k r pc else y
  | none => y

/-- The CTUs of a column from i on, as CTUs of the row. -/
def Fig.colCtus (f : Fig) (col i : Nat) : List Nat := ((List.range f.ctus).filter fun j => decide (i ≤ j)).map fun j => col * f.ctus + j

/-- The allowance and target of a column and the row QP (R151), before the row's first column starts. -/
def planCols (f : Fig) (fr : Frame) (r qp : Nat) (floor : Bool) (allow target : List Nat) (w : Row) : Row :=
  (List.range f.tiles).foldl (fun w col =>
    let own := fr.phiRest f r col 0 + f.sliceHdr
    w.setCol col { w.col col with
      allow := own + allow.getD col 0, target := own + target.getD col 0, used := f.sliceHdr, rowQp := qp, rcFloor := floor,
      ovr := floor }) w

/-- Garnet plans a row (R149 to R151, R154); whether its frame ends with an end of sequence is asked as far as it is known by then
(R139; log entry 89). -/
def Sys.planRow (n : Nat) (k : Int) (r : Nat) (y : Sys) : Sys :=
  let y := if k + 1 = (y.chan n).nextK then y.endSequence n else y
  let f := y.fig n
  let c := y.chan n
  match c.frame k with
  | none => y
  | some fr =>
    if ((fr.row r).col 0).allow ≠ 0 then y
    else
      let p := y.pixels n
      let q := y.qpBounds n
      let xs := fr.predict f c p r (y.lastBuffered n fr r)
      let (hi, t, floor) := fr.rowTarget f r xs
      let cols := (List.range f.tiles).map fun col => fr.xRest f c p r col 0
      let over_ := fun (v : Int) => if floor then [] else splitBytes (v - fr.phiRow f r).toNat cols
      let qp := if floor then q.top else rowQp q (xs.headD []) t hi (f.tiles * f.sliceHdr)
      let y := y.onFrame n k fun fr => fr.onRow r (planCols f fr r qp floor (over_ hi) (over_ t))
      if floor then (y.bump (Ob.RcFloorRows n) 1).raiseOnce n k 0x0B01 c.die else y

/-! ### Floor syntax (R122 to R124, R128, R158) -/

/-- A CTU's record is written into its picture's buffer (R124, R165). -/
def Sys.recordCtu (n : Nat) (k : Int) (r pc : Nat) (floor : Bool) (code : CtuCode) (y : Sys) : Sys :=
  match (y.chan n).frame k with
  | none => y
  | some fr =>
    let e : CtuRec := { age := y.heldAge n r pc, floor := floor, conceal := (fr.row r).conceal.contains pc, code := code }
    y.onChan n fun c => { c with bufs := c.bufs.map fun b => if b.frame = fr.n ∧ b.recon then
        { b with recs := Tab.put (fun _ => none) b.recs (r * (y.fig n).rowCtus + pc) (some e) } else b }

/-- The floor syntax of a CTU (R122): intra DC at the codec's highest QP with the block sums of the row buffer, or skip with the first
candidate of zero motion, whose place in the list is free below the list's length. An H.266 list may hold none: then the CU is not merged.
An H.265 list always ends in candidates of zero motion (log entry 96). -/
def Frame.floorCode (fr : Frame) (f : Fig) (p : Pixels) (r pc free : Nat) : CtuCode :=
  if fr.floorIntra f r pc then .dc (if f.codec = 0 then 51 else 63) (fr.blockSums f p r pc)
  else if f.codec = 0 then .skip (free % 5)
  else if free % 7 = 6 then .still else .skip (free % 7)

/-- A CTU is floor-coded: its age, and its record with its syntax (R122 to R124). -/
def Sys.floorCtu (n : Nat) (k : Int) (r pc : Nat) (y : Sys) : Sys :=
  match (y.chan n).frame k with
  | none => y
  | some fr =>
    let code := fr.floorCode (y.fig n) (y.pixels n) r pc y.freeNow
    (y.fresh.ageFloor n k r pc).recordCtu n k r pc true code

/-- A pipeline floor-codes a CTU of a column: its bytes are open up to φ (R139, R158; log entry 46). -/
def Sys.floorIn (a : At) (pc : Nat) (y : Sys) : Sys :=
  match y.frameOf a with
  | none => y
  | some fr =>
    let b := y.freeNow % (fr.phi (y.fig a.ch) a.row pc + 1)
    (y.fresh.onColumn a fun x => { x with used := x.used + b, floors := x.floors + 1, ctu := x.ctu + 1 }).floorCtu a.ch a.k a.row pc

/-- A pipeline floor-codes the rest of a column. -/
def Sys.floorRest (a : At) (i : Nat) (y : Sys) : Sys := y.each ((y.fig a.ch).colCtus a.col i) (Sys.floorIn a)

/-! ### Deadline mode (R52, R54, R122 to R125, R158) -/

/-- Cycles of a normal CTU (R100), in proportion to its lines in a last row of fewer than 64 (R51: a pixel rate; log entry 48). -/
def Fig.ctuCycles (f : Fig) (r : Nat) : Nat := ceilDiv (4730 * min 64 (f.ht - 64 * r)) 64

/-- Cycles to serve a pending row floor-coded whole (R54). -/
def Sys.floorCycles (y : Sys) (a : At) : Nat := 600 + 4 * (y.fig a.ch).ctus + 60

/-- When the CTU in progress of a column began. -/
def Sys.ctuBegan (y : Sys) (a : At) : Nat :=
  match y.frameOf a with
  | some fr => ((fr.row a.row).col a.col).ctuAt
  | none => 0

/-- The pending rows of the other streams of a pipeline in order, each with the instant of its guard, its deadline and S in cycles; a row
that became pending during the CTU in progress enters with the next CTU (R54). -/
def Sys.pendingRows (y : Sys) (d phys : Nat) (a : At) : List (Int × Int × Nat) :=
  let l := y.columnsAt d phys fun n fr r x => n != a.ch && y.isPending n fr r x && decide (y.whenAt n fr ((y.fig n).buffered r) ≤ y.ctuBegan a)
  ((l.foldl (fun s b => y.orderIn b s) []).foldl (fun (s : List (Int × Int × Nat) × Nat) b =>
    let sum := s.2 + y.floorCycles b
    (s.1 ++ [(y.guardOf b, y.dueOf b, sum)], sum)) ([], 0)).1

/-- Whether the checks of a row have begun (R52, R54). -/
def Sys.checksOn (y : Sys) (d phys : Nat) (a : At) : Bool :=
  let hz := y.pipeHz d phys
  decide (y.guardOf a ≤ y.now) || (y.pendingRows d phys a).any fun q => decide ((q.1 - y.now) * hz ≤ (q.2.2 : Int) * secUnits)

/-- Whether `need` more cycles of a row leave it, or a pending row behind it, past its deadline (R52, R54). -/
def Sys.checkFails (y : Sys) (d phys : Nat) (a : At) (need : Nat) : Bool :=
  let hz := y.pipeHz d phys
  decide ((y.dueOf a - y.now) * hz < (need : Int) * secUnits) ||
    (y.pendingRows d phys a).any fun q => decide ((q.2.1 - y.now) * hz < ((need + q.2.2 : Nat) : Int) * secUnits)

/-- Deadline mode: the CTU concerned and every later one of the column are floor-coded (R52, R125, R158). -/
def Sys.enterDeadline (a : At) (y : Sys) : Sys :=
  let f := y.fig a.ch
  match y.frameOf a with
  | none => y
  | some fr =>
    let w := fr.row a.row
    let i := (w.col a.col).ctu
    let first := !((List.range f.tiles).any fun c => (w.col c).deadline)
    let y := (y.onColumn a fun x => { x with deadline := true }).bump (Ob.EncFloorCtusDeadline a.ch) (f.ctus - i)
    let y := if first then y.bump (Ob.EncFloorRowsDeadline a.ch) 1 else y
    (y.raiseOnce a.ch a.k 0x0A03 (y.chan a.ch).die).floorRest a i

/-- The check before a CTU: its normal time, the floor time of the later ones, and the termination (R52). -/
def Sys.checkNext (d phys : Nat) (a : At) (y : Sys) : Sys :=
  match y.frameOf a with
  | none => y
  | some fr =>
    let f := y.fig a.ch
    let x := (fr.row a.row).col a.col
    if x.ctu < f.ctus ∧ ¬x.deadline ∧ y.checksOn d phys a = true then
      let left := x.need - (x.cycles + cyclesIn (y.pipeHz d phys) (y.now - x.at_))
      if y.checkFails d phys a (left + 4 * (f.ctus - x.ctu - 1) + 60) then y.enterDeadline a else y
    else y

/-- GUARD_CHECK (R52, R54). -/
def Sys.guardCheck (d phys : Nat) (y : Sys) : Sys :=
  match y.current d phys with
  | some a => y.checkNext d phys a
  | none => y

/-! ### A row starts (R50, R100, R149) -/

/-- Whether row 0 of a frame has begun. -/
def Sys.begun (y : Sys) (n : Nat) (fr : Frame) : Bool := (List.range (y.fig n).tiles).any fun c => let x := (fr.row 0).col c; x.started || x.done

/-- ROW_START (R50) of the row that comes next. -/
def Sys.rowStart (d phys row : Nat) (y : Sys) : Sys :=
  match (y.nextColumn d phys).filter fun a => a.row == row with
  | none => y
  | some a =>
    match y.frameOf a with
    | none => y
    | some fr =>
      let f := y.fig a.ch
      let y := if y.begun a.ch fr then y else y.startPicture a.ch a.k
      let y := y.planRow a.ch a.k a.row
      let was := Tab.find (fun _ => 0) (y.die d).lastCh phys
      let y := y.onDie d fun x => { x with lastCh := Tab.put (fun _ => 0) x.lastCh phys (a.ch + 1) }
      let c := y.chan a.ch
      let need := f.ctuCycles a.row + if was = 0 ∨ was = a.ch + 1 then 0 else 600
      let y := y.onFrame a.ch a.k fun fr => fr.onCol a.row a.col fun x =>
        let x := { x with started := true, need := need, cycles := 0, at_ := y.now, ctuAt := y.now }
        if x.rcFloor then x else { x with qp := fr.nextQp f c (y.pixels a.ch) (y.qpBounds a.ch) a.row a.col x }
      match y.frameOf a with
      | none => y
      | some fr =>
        if ((fr.row a.row).col a.col).rcFloor then (y.overCtus a.ch f.ctus).floorRest a 0 else y.checkNext d phys a

/-! ### Where prediction may read (R104 to R108, R112, R117, R119, R127, R171) -/

/-- The rows of a picture that meet lines from one to before another; lines outside the picture repeat its edge. -/
def Fig.rowsMet (f : Fig) (lo hi : Int) : List Nat :=
  let lo := max 0 (min lo ((f.ht : Int) - 1))
  let hi := max 1 (min hi f.ht)
  (List.range f.rows).filter fun (j : Nat) => decide (lo < 64 * ((j : Int) + 1)) && decide (64 * (j : Int) < hi)

/-- The half of the picture whose die codes a column (R101). -/
def Fig.half (f : Fig) (col : Nat) : Nat := if f.pair then col / 4 else 0

/-- The first luma sample that a block reads in one direction and the one after the last: its place moved by a vector in sixteenths, and
the interpolation's reach. -/
def spanOf (reach at_ size : Nat) (d : Int) : Int × Int := ((at_ : Int) + d / 16 - reach, (at_ : Int) + size - (-d) / 16 + reach)

/-- Whether a strip row that the search for a CTU would reach has not come yet (R105, R106, R108). -/
def Sys.stripLate (y : Sys) (a : At) (fr : Frame) (pc : Nat) : Bool :=
  let f := y.fig a.ch
  let half := f.half a.col
  let reaches := if half = 0 then decide (3840 < f.ctuX pc + 64 + f.reachH + 4) else decide (f.ctuX pc < 3840 + f.reachH + 4)
  f.pair && reaches && (y.chan a.ch).frames.any fun g =>
    decide (g.n < fr.n) && decide (fr.n ≤ g.n + fr.active f) &&
      (f.rowsMet (64 * (a.row : Int) - f.reachV - 4) (64 * (a.row : Int) + 64 + f.reachV + 4)).any fun j => !(g.row j).stripOk.contains (1 - half)

/-- Whether a block of a pair's CTU lies within the columns its die has: its half and the strip, or its half alone when a strip row is
late (R106, R108). -/
def Fig.withinHalf (f : Fig) (half : Nat) (late : Bool) (span : Int × Int) : Bool :=
  let strip : Int := if late then 0 else 256
  !f.pair || (if half = 0 then decide (span.2 ≤ 3840 + strip) else decide (3840 - strip ≤ span.1))

/-- Whether rows of a reference may be read: final where it is still being reconstructed (R171), with the strip rows a block enters, and
copied to the die a channel has moved to (R127). -/
def Sys.rowsReadable (y : Sys) (n frame half : Nat) (strip : Bool) (rows : List Nat) : Bool :=
  let c := y.chan n
  let f := y.fig n
  (match c.frames.find? fun (g : Frame) => g.n == frame with
    | some g => rows.all fun r => g.rowFinal f half r && (!strip || (g.row r).stripOk.contains (1 - half))
    | none => true) &&
  (match c.oldBufs.find? fun (b : Buf) => b.frame == frame && b.holds.contains 1 with
    | some b => rows.all fun r => b.copied.contains r
    | none => true)

/-- Whether a prediction block of a CTU is one that the search may find: a reference of the picture (R112, R170) within the search range
(R105), the columns of the die (R106), the refreshed area of a picture of the current cycle (R119), and rows that can be read. -/
def Sys.blockOk (y : Sys) (a : At) (fr : Frame) (pc : Nat) (late : Bool) (b : Block) : Bool :=
  let f := y.fig a.ch
  let half := f.half a.col
  let frac := decide (b.dx % 32 ≠ 0) || decide (b.dy % 32 ≠ 0)
  let reach := if frac then 4 else 0
  let x0 := f.ctuX pc + b.x
  let y0 := 64 * a.row + b.y
  let wide := spanOf 4 x0 b.w b.dx
  let xs := spanOf reach x0 b.w b.dx
  let ys := spanOf reach y0 b.h b.dy
  let strip := f.pair && (if half = 0 then decide (3840 < xs.2) else decide (xs.1 < 3840))
  let area := 64 * (f.areaEnd (f.bandAt (fr.cyclePos - 1 - b.ref)) true : Int)
  decide (b.x + b.w ≤ 64) && decide (b.y + b.h ≤ 64) && decide (b.ref < fr.active f) &&
    decide (b.dx.natAbs ≤ 16 * f.reachH) && decide (b.dy.natAbs ≤ 16 * f.reachV) && f.withinHalf half late wide &&
    (!fr.inArea f a.row pc || (decide (b.ref < fr.cyclePos) && decide ((if f.mode = 1 then xs.2 else ys.2) ≤ area))) &&
    y.rowsReadable a.ch (fr.n - 1 - b.ref) half strip (f.rowsMet ys.1 ys.2)

/-- How a CTU is coded that keeps its bytes (R86, R104, R112, R117, R127): skip when ingest conceals it so; intra where the pipeline chose it,
in an intra picture, in the band, and where it has no block that the search may find; samples to its left serve intra only within its slice. Blocks that the
search may not find are taken for a CTU for which it found none (log entry 97). -/
def Sys.codeOf (y : Sys) (a : At) (fr : Frame) (pc : Nat) (late intra : Bool) (blocks : List Block) : CtuCode :=
  let f := y.fig a.ch
  if (fr.row a.row).skip.contains pc then fr.floorCode f (y.pixels a.ch) a.row pc y.freeNow
  else if intra || blocks.isEmpty || fr.floorIntra f a.row pc || !blocks.all (y.blockOk a fr pc late) then .intra (pc % f.ctus != 0)
  else .inter blocks

/-- Whether a code is intra. -/
def CtuCode.isIntra : CtuCode → Bool
  | .intra _ => true
  | _ => false

/-! ### A CTU is coded (R147, R152, R153, R156) -/

/-- A CTU is replaced by its floor syntax (R153). -/
def Sys.ctuReplaced (a : At) (pc : Nat) (xh : Cx6) (y : Sys) : Sys :=
  let y := y.onColumn a fun x =>
    { x with fallbacks := x.fallbacks + 1, ovr := true, doneX := cxAdd x.doneX xh, need := (y.fig a.ch).ctuCycles a.row, cycles := 0,
             at_ := y.now, ctuAt := y.now }
  (((y.floorIn a pc).bump (Ob.RcFallbackCtus a.ch) 1).raiseOnce a.ch a.k 0x0B02 (y.chan a.ch).die).overCtus a.ch 1

/-- A CTU keeps its bytes: its complexity is stored unless it is concealed (R147), and its QP counts (R156). -/
def Sys.ctuKept (a : At) (pc bytes : Nat) (code : CtuCode) (fr : Frame) (x : Col) (xh : Cx6) (y : Sys) : Sys :=
  let f := y.fig a.ch
  let w := fr.row a.row
  let skip := w.skip.contains pc
  let high := !skip && decide ((y.qpBounds a.ch).hi < x.qp)
  let act := fr.activity f (y.pixels a.ch) a.row pc
  let X := cxScale (bytes : Rat) (cxPow ((x.qp : Int) - 4))
  let per := if act = 0 then cxOf (Config.ratioOfZero bytes) else cxScale (1 / (act : Rat)) X
  let store := !w.conceal.contains pc
  let i := a.row * f.rowCtus + pc
  let y := y.onColumn a fun x =>
    let x := { x with used := x.used + bytes, ctu := x.ctu + 1, ovr := x.ovr || high, doneX := cxAdd x.doneX xh, need := f.ctuCycles a.row,
                      cycles := 0, at_ := y.now, ctuAt := y.now }
    let x := if skip then x else { x with qpSum := x.qpSum + x.qp, qpNum := x.qpNum + 1 }
    if code.isIntra && store then { x with intraX := cxAdd x.intraX per, intraA := x.intraA + 1 } else x
  let y := if store then
      let was := Tab.find (fun _ => ([], 0)) (y.chan a.ch).map i
      (y.onFrame a.ch a.k fun fr => { fr with mapBefore := Tab.put (fun _ => none) fr.mapBefore i (some was) }).onChan a.ch fun c =>
        { c with map := Tab.put (fun _ => ([], 0)) c.map i (X, act) }
    else y
  ((y.overCtus a.ch (if high then 1 else 0)).ageCtu a.ch a.k a.row pc).recordCtu a.ch a.k a.row pc false code

/-- CTU_CODED (R153): the bytes of the CTU in progress of a pipeline, whether it chose intra, and the blocks that its search found. -/
def Sys.ctuCoded (d phys bytes : Nat) (intra : Bool) (blocks : List Block) (y : Sys) : Sys :=
  match y.current d phys with
  | none => y
  | some a =>
    match y.frameOf a with
    | none => y
    | some fr =>
      let f := y.fig a.ch
      let x := (fr.row a.row).col a.col
      if f.ctus ≤ x.ctu then y
      else
        let pc := a.col * f.ctus + x.ctu
        let xh := fr.xhat f (y.chan a.ch) (y.pixels a.ch) a.row pc
        let late := fr.active f != 0 && y.stripLate a fr pc
        let code := y.codeOf a fr pc late intra blocks
        let y := y.fresh
        let y := if late then (y.bump (Ob.EncStripLateCtus a.ch) 1).raiseOnce a.ch a.k 0x0A07 d else y
        let fits := decide (x.used + bytes + fr.phiRest f a.row a.col (x.ctu + 1) ≤ x.allow)
        let y := if fits then y.ctuKept a pc bytes code fr x xh else y.ctuReplaced a pc xh
        let c := y.chan a.ch
        let y := y.onFrame a.ch a.k fun fr => fr.onCol a.row a.col fun x =>
          if x.ctu < f.ctus then { x with qp := fr.nextQp f c (y.pixels a.ch) (y.qpBounds a.ch) a.row a.col x } else x
        y.checkNext d phys a

/-! ### A row ends (R84, R135, R138, R142, R154, R156, R168, R175) -/

/-- A sum over the columns of the rows of a frame. -/
def Frame.colSum (fr : Frame) (f : Fig) (g : Col → Nat) : Nat :=
  (List.range f.rows).foldl (fun s r => (List.range f.tiles).foldl (fun s c => s + g ((fr.row r).col c)) s) 0

/-- The intra complexities of a frame by activity, summed. -/
def Frame.intraSum (fr : Frame) (f : Fig) : Cx6 :=
  cxSum ((List.range f.rows).flatMap fun r => (List.range f.tiles).map fun c => ((fr.row r).col c).intraX)

/-- A frame is coded: its picture is a reference (R172), Garnet keeps κ (R148), and with ALF its filter sets are derived (R114). -/
def Sys.frameDone (n : Nat) (k : Int) (y : Sys) : Sys :=
  let f := y.fig n
  match (y.chan n).frame k with
  | none => y
  | some fr =>
    let num := fr.colSum f Col.qpNum
    let avg := if num = 0 then 0 else (roundDiv (fr.colSum f Col.qpSum) num).toNat
    let intra := fr.colSum f Col.intraA
    let y := (y.bump (Ob.EncPicturesCoded n) 1).setInt (Ob.RcLastAvgQp n) avg
    let y := y.onChan n fun c =>
      { c with bufs := c.bufs.map fun b => if b.frame = fr.n ∧ b.recon then { b with recon := false } else b,
               kappa := if intra = 0 then c.kappa else cxScale (1 / (intra : Rat)) (fr.intraSum f),
               alfFrom := if f.codec = 1 ∧ (f.tool 8 ∨ f.tool 9) ∧ ¬fr.frozen then some fr.n else c.alfFrom }
    (y.holdIfDone n fr.n).freeOld n

/-- The count of a whole row, filler up to Lo(r) (R138, R142). With the last rows' quanta at Φrow, Lo(r) can lie above Up(r): then the
filler goes to Lo(r) all the same (log entry 98). -/
def Frame.closeRow (fr : Frame) (f : Fig) (r : Nat) : Frame :=
  let w := fr.row r
  let eos := if r + 1 = f.rows ∧ fr.eos then 2 else 0
  let c := fr.before f r + ((List.range f.tiles).map fun col => (w.col col).slice.length).foldl (· + ·) 0
  let lo := fr.lo f r - eos
  let fill := if c < lo then max 3 (lo - c) else 0
  fr.setRow r { w with total := c + fill + eos, filler := fill }

/-- The counts of all rows that are whole, in order. A row that was whole before an earlier one takes its count and filler anew when that is. -/
def Frame.closeRows (fr : Frame) (f : Fig) : Frame :=
  (List.range f.rows).foldl (fun fr r => if (fr.row r).whole f.tiles then fr.closeRow f r else fr) fr

/-- The storage of a row that is coded is released; the activities its buffer gathered stay (R84, R147). -/
def Frame.release (fr : Frame) (f : Fig) (p : Pixels) (r : Nat) : Frame :=
  let acts := (List.range f.rowCtus).map fun pc => fr.activity f p r pc
  fr.onRow r fun w => { w with acts := some acts, segs := [] }

/-- Whether Garnet coded a row entirely at QPs within the bounds (R156): no CTU above them or replaced, none floor-coded at the deadline,
none from the cores. -/
def Row.inBounds (w : Row) (tiles : Nat) : Bool :=
  !w.supplied && (List.range tiles).all fun c => let x := w.col c; !x.ovr && !x.failed && !x.deadline

/-- A column of a row has ended. With all columns there come filler, the count, and the end of Garnet's override (R138, R142, R156); rows
that have become final hold their picture for the strip mirror, and a pipeline relieved may have ended its last frame (R61, R174). -/
def Sys.finishRow (n : Nat) (k : Int) (r : Nat) (y : Sys) : Sys :=
  let f := y.fig n
  match (y.chan n).frame k with
  | none => y
  | some fr =>
    let y := if (fr.row r).whole f.tiles then
        let p := y.pixels n
        let y := y.onFrame n k fun fr => (fr.closeRows f).release f p r
        let y := if (fr.row r).inBounds f.tiles then y.onChan n fun c => { c with ovr := false } else y
        if r + 1 = f.rows then y.frameDone n k else y
      else y
    let y := y.holdStrips n k
    if r + 1 = f.rows then y.finishHandovers else y

/-- The earlier of two ages. -/
def older (a : Option Int) (b : Option Int) : Option Int :=
  match a, b with
  | some s, some t => if atOrAfter t s then some s else some t
  | some s, none => some s
  | none, b => b

/-- The oldest age of the CTUs of a column, its age summary (R123, R528). -/
def Sys.columnAge (y : Sys) (a : At) : Option Int :=
  ((y.fig a.ch).colCtus a.col 0).foldl (fun (o : Option Int) pc => older o (y.heldAge a.ch a.row pc)) none

/-- ROW_CODED: the pipeline's slice data and its reconstruction before in-loop filtering. It hands the cores its row report, from which
they write the slice header (R103, R116, R129, R131, R528). Data of another length than the CTUs' bytes end no row. -/
def Sys.rowCoded (d phys : Nat) (data : List Byte) (recon : Planes) (y : Sys) : Sys :=
  match y.current d phys with
  | none => y
  | some a =>
    match y.frameOf a with
    | none => y
    | some fr =>
      let f := y.fig a.ch
      let x := (fr.row a.row).col a.col
      if x.ctu < f.ctus ∨ x.used ≠ f.sliceHdr + data.length then y
      else
        let sum := sliceChecksum recon
        let report : Report := { len := data.length, qp := x.rowQp, floors := x.floors, checksum := sum, oldest := y.columnAge a }
        let y := y.onColumn a fun x =>
          { x with done := true, slice := fr.sliceHead f a.row a.col x.rowQp ++ data, report := some report }
        let pos := (((y.chan a.ch).pipesAt a.k).getD a.col (d, 0)).2
        let y := if y.sampled d fr.n a.row a.col f.tiles then
            y.onChan a.ch fun c =>
              { c with checks := c.checks ++ [{ frame := fr.n, row := a.row, col := a.col, sum := sum, die := d, pos := pos, pipe := phys }] }
          else y
        y.finishRow a.ch a.k a.row

/-! ### Rows that the cores supply (R44, R62, R128) -/

/-- The columns of a row that the cores owe. -/
def Frame.owed (fr : Frame) (f : Fig) (r : Nat) : List Nat := (List.range f.tiles).filter fun c => !((fr.row r).col c).done

/-- Whether the row above is coded whole. -/
def Frame.aboveDone (fr : Frame) (f : Fig) (r : Nat) : Bool := r == 0 || (fr.row (r - 1)).whole f.tiles

/-- The first row of a channel, in order, whose deadline has come with columns that no pipeline will code. -/
def Sys.coreRow (y : Sys) (n : Nat) : Option (Frame × Nat) :=
  let f := y.fig n
  (y.chan n).frames.findSome? fun fr =>
    ((List.range f.rows).find? fun r =>
      let l := fr.owed f r
      !l.isEmpty && (l.all fun c => fr.frozen || ((fr.row r).col c).failed) && fr.aboveDone f r &&
        decide (y.dueWhen n fr r ≤ y.now)).map fun r => (fr, r)

/-- A CTU that a failed pipeline had coded is taken back: its age and its entry of the complexity map are those from before (R123,
R147). -/
def Sys.takeBack (n : Nat) (k : Int) (r pc : Nat) (y : Sys) : Sys :=
  match (y.chan n).frame k with
  | none => y
  | some fr =>
    let i := r * (y.fig n).rowCtus + pc
    y.onChan n fun c =>
      { c with ages := match Tab.find (fun _ => none) fr.ageBefore i with
                 | some a => Tab.put (fun _ => none) c.ages i a
                 | none => c.ages,
               map := match Tab.find (fun _ => none) fr.mapBefore i with
                 | some e => Tab.put (fun _ => ([], 0)) c.map i e
                 | none => c.map }

/-- The QP of the slice header that the cores write for a column they supply: the row QP, or the codec's highest for a row that Garnet has
not planned. -/
def Sys.coreQp (y : Sys) (n : Nat) (x : Col) : Nat := if x.allow = 0 then (y.qpBounds n).top else x.rowQp

/-- The cores supply a column: every CTU in floor syntax, in place of what its pipeline had coded (R62, R122, R128). -/
def Sys.supply (n : Nat) (k : Int) (r col : Nat) (data : List Byte) (y : Sys) : Sys :=
  let f := y.fig n
  match (y.chan n).frame k with
  | none => y
  | some fr =>
    let head := fr.sliceHead f r col (y.coreQp n ((fr.row r).col col))
    let y := y.onFrame n k fun fr => fr.onCol r col fun x =>
      { x with done := true, slice := head ++ data, floors := f.ctus, report := none, qpSum := 0, qpNum := 0, intraX := [], intraA := 0 }
    y.each (f.colCtus col 0) fun pc y => (y.takeBack n k r pc).floorCtu n k r pc

/-- ROW_DEADLINE (R44, R62, R128): the cores write floor-coded slices for what a failed pipeline, or none, left undone. Each takes no more
than the floor costs of its CTUs. -/
def Sys.rowDeadline (n row : Nat) (coreData : List (List Byte)) (y : Sys) : Sys :=
  match (y.coreRow n).filter fun e => e.2 == row with
  | none => y
  | some (fr, r) =>
    let f := y.fig n
    let cols := fr.owed f r
    if coreData.length = cols.length ∧ (cols.zip coreData).all (fun e => decide (e.2.length ≤ fr.phiRest f r e.1 0)) then
      let y := if r = 0 ∧ ¬y.begun n fr then y.startPicture n fr.k else y
      let y := y.each (cols.zip coreData) fun e y => y.supply n fr.k r e.1 e.2
      let y := if fr.frozen then y else y.bump (Ob.EncFloorRowsCore n) 1
      (y.onFrame n fr.k fun fr => fr.onRow r fun w => { w with supplied := true }).finishRow n fr.k r
    else y

/-! ### The commands -/

/-- ROW_START (R50). -/
def execRowStart (dt die pipe row : Nat) (s : State) : Res := act dt (Sys.rowStart die pipe row) s

/-- CTU_CODED (R153). -/
def execCtuCoded (dt die pipe bytes : Nat) (intra : Bool) (blocks : List Block) (s : State) : Res :=
  act dt (Sys.ctuCoded die pipe bytes intra blocks) s

/-- GUARD_CHECK (R52). -/
def execGuardCheck (dt die pipe : Nat) (s : State) : Res := act dt (Sys.guardCheck die pipe) s

/-- ROW_CODED (R50). -/
def execRowCoded (dt die pipe : Nat) (data : List Byte) (recon : Planes) (s : State) : Res := act dt (Sys.rowCoded die pipe data recon) s

/-- ROW_DEADLINE (R62). -/
def execRowDeadline (dt ch row : Nat) (coreData : List (List Byte)) (s : State) : Res := act dt (Sys.rowDeadline ch row coreData) s

end Sys2Proof.Machine
end

