-- ==== Sys2Proof/Machine/Ingest.lean ====
section
/-! DEFINITION. Ingest over IP: legs, policers, the judgement of packets, the merge, settle ends, audio and ancillary flows, and the
flows of layers (R73 to R96, R292 to R296, R530). -/

namespace Sys2Proof.Machine

/-! ### Legs and policers (R73, R92, R292 to R296) -/

/-- Whether a packet matches a leg (R73). -/
def Leg.takes (l : Leg) (h : PktHdr) : Bool :=
  l.port == h.port && l.dst == h.dst && l.udp == h.udp && (l.src == 0 || l.src == h.src) && (l.vlan == 0xFFFF || l.vlan == h.vlan)

/-- The legs of a flow whose fields start at a key that a packet matches: 0 for A, 1 for B. -/
def legsHit (g : Nat → Val) (k : Nat) (both : Bool) (h : PktHdr) : List (Nat × Leg) :=
  ((0, legAt g k) :: (if both then [(1, legAt g (k + 6))] else [])).filter fun e => e.2.port != 0xFF && e.2.takes h

/-- Tokens after a time at a rate (R292): 2⁻¹⁶ byte. -/
def polFill (tokens : Int) (rate burst dt : Nat) : Int := min ((burst * 65536 : Nat) : Int) (tokens + (dt * rate / 8000000000 : Nat))

/-- A policer's buckets refilled to now (R292, R293). -/
def Sys.polNow (y : Sys) (k : Nat) : Pol :=
  let p := y.pol k
  let cir := y.nat (Ob.PolCir k)
  let peak := y.nat (Ob.PolPeakRate k)
  let dt := y.now - p.at_
  { p with tc := polFill p.tc cir (y.nat (Ob.PolCbs k)) dt,
           tp := polFill p.tp (if y.nat (Ob.PolMode k) = 1 then max peak cir else peak) (y.nat (Ob.PolPeakBurst k)) dt, at_ := y.now }

/-- The colour of a packet and the buckets after it (R293): 0 green, 1 yellow, 2 red. -/
def polColour (mode : Nat) (aware : Bool) (pre : Nat) (b : Int) (p : Pol) : Nat × Pol :=
  if mode = 1 then
    if (aware && pre == 2) || decide (p.tp < b) then (2, p)
    else if (aware && pre == 1) || decide (p.tc < b) then (1, { p with tp := p.tp - b })
    else (0, { p with tp := p.tp - b, tc := p.tc - b })
  else if mode = 2 then
    if (!aware || pre == 0) && decide (b ≤ p.tc) then (0, { p with tc := p.tc - b })
    else if (!aware || pre != 2) && decide (b ≤ p.tp) then (1, { p with tp := p.tp - b })
    else (2, p)
  else (0, p)

/-- Police a packet of a leg: whether it passes (R92, R294, R295). -/
def Sys.police (leg : Leg) (h : PktHdr) (y : Sys) : Bool × Sys :=
  let k := leg.pol
  if k = 0xFFFF then (true, y)
  else
    let r := polColour (y.nat (Ob.PolMode k)) (y.flag (Ob.PolColorAware k)) (y.nat (Ob.PolDscpColor (h.dscp % 64)))
      ((h.bytes * 65536 : Nat) : Int) (y.polNow k)
    let fresh := match r.2.lastRed with
      | some t => decide (t + secU 1 ≤ y.now)
      | none => true
    let y := y.setPol k (if r.1 = 2 then { r.2 with lastRed := some y.now } else r.2)
    let y := (y.bump (Ob.PolGreenPkts k + r.1) 1).bump (Ob.PolGreenBytes k + r.1) h.bytes
    let y := if r.1 = 2 ∧ fresh = true then y.raise 0x1005 (k / 256) k else y
    (r.1 == 0 || (r.1 == 1 && y.nat (Ob.PolYellowAct k) == 0), y)

/-- The buckets of a policer after a write to its mode: full (R296). -/
def Sys.polFull (k : Nat) (y : Sys) : Sys :=
  y.setPol k { y.pol k with tc := (y.nat (Ob.PolCbs k) * 65536 : Nat), tp := (y.nat (Ob.PolPeakBurst k) * 65536 : Nat), at_ := y.now }

/-- The buckets of a policer after a write to a rate or burst: clipped (R296). -/
def Sys.polClip (k : Nat) (y : Sys) : Sys :=
  let p := y.pol k
  y.setPol k { p with tc := min p.tc (y.nat (Ob.PolCbs k) * 65536 : Nat), tp := min p.tp (y.nat (Ob.PolPeakBurst k) * 65536 : Nat) }

/-- Deliver a packet to each leg of a flow it matches, when its policer lets it pass: `f` takes the leg's place. -/
def Sys.eachLeg (l : List (Nat × Leg)) (h : PktHdr) (f : Nat → Sys → Sys) (y : Sys) : Sys :=
  if y.portUp h.port then y.each l fun e y => let r := y.police e.2 h; if r.1 then f e.1 r.2 else r.2 else y

/-! ### The form of a video packet (R80; pixel groups, log entry 42) -/

/-- Pixels and octets of a pixel group of a sampling and depth. -/
def pgroup (samp depth : Nat) : Nat × Nat :=
  if samp = 0 then (2, if depth = 8 then 4 else if depth = 12 then 6 else 5)
  else if depth = 8 then (1, 3) else if depth = 12 then (2, 9) else (4, 15)

/-- Whether a segment lies in the raster and holds whole pixel groups. A segment of length 0 is malformed, and so is a packet without a
segment, which the callers test (log entry 99). -/
def segOk (f : Fig) (samp depth : Nat) (s : Seg) : Bool :=
  let g := pgroup samp depth
  let n := s.len / g.2 * g.1
  s.len % g.2 == 0 && decide (0 < n) && n == s.px.length && decide (s.line < f.ht) && decide (s.off + n ≤ f.wd)

/-- The last pixel of a packet in raster order, as line × width + column. -/
def lastPixel (wd : Nat) (l : List Seg) : Nat := (l.map fun s => s.line * wd + s.off + s.px.length - 1).foldl max 0

/-- The earliest coding row of a packet (R78). -/
def firstRow (l : List Seg) : Nat := (l.map fun s => s.line / 64).foldl min (l.head?.map (fun s => s.line / 64) |>.getD 0)

/-- The 32-bit sequence number (R81). -/
def seq32 (p : VideoPkt) : Nat := p.extSeq % 65536 * 65536 + p.seq % 65536

/-! ### Frame and time (R77, R78, R88, R530) -/

/-- A frame a packet may belong to: the stamp in its view, the due instant and the acceptance interval. -/
structure Cand where
  k : Int
  stamp : Int
  due : Int
  lo : Int
  hi : Int
deriving DecidableEq, Repr

/-- The candidate of a frame with capture origin `a`. -/
def candAt (f : Fig) (p : VideoPkt) (k a stamp : Int) : Cand :=
  let px := lastPixel f.wd p.segs
  let due := a + dueAt f.wd f.ht f.rn f.rd (px / f.wd) (px % f.wd)
  { k := k, stamp := stamp, due := due, lo := due - f.skew, hi := a + f.slotEnd (firstRow p.segs) + usU 8 }

/-- The frame a packet belongs to: the one whose interval holds the stamp, or the nearest due instant, of two equally near the first
listed; and whether the packet is on time (0), early (1) or late (2). Without a candidate there is none (log entry 100). -/
def judge (l : List Cand) : Option (Cand × Nat) :=
  match l.find? fun c => decide (c.lo ≤ c.stamp) && decide (c.stamp ≤ c.hi) with
  | some c => some (c, 0)
  | none =>
    (l.foldl (fun (b : Option Cand) c => match b with
      | some x => if (c.stamp - c.due).natAbs < (x.stamp - x.due).natAbs then some c else b
      | none => some c) none).map fun c => (c, if c.stamp < c.lo then 1 else 2)

/-- The capture time of R88: the latest tick of a media clock that carries the time stamp at or before an instant. -/
def mediaTick (hz : Nat) (t : Int) (ts : Nat) : Int :=
  let tick := t * hz / (secU 1 : Int)
  tick - (tick - ts) % 2 ^ 32

/-- The instant of a tick, rounded down. -/
def tickTime (hz : Nat) (m : Int) : Int := m * (secU 1 : Int) / hz

/-- The frames of a channel that a packet may belong to: those begun, and those to come around the stamp before a stop. A packet that no
frame of the run is left for is dropped uncounted (log entry 100). -/
def Sys.chCands (y : Sys) (n : Nat) (p : VideoPkt) : List Cand :=
  let c := y.chan n
  let f := y.fig n
  let stamp := y.frameNow n false
  let m := firstFrom f.rn f.rd (stamp - f.off)
  let ahead := ([m - 2, m - 1, m, m + 1].map fun k => max k c.nextK).eraseDups.filter fun k => match c.stopK with
    | some s => decide (k < s)
    | none => true
  (c.frames.map fun fr => candAt f p fr.k fr.origin (y.frameNow n fr.old)) ++
    ahead.map fun k => candAt f p k (f.boundary k + f.off) stamp

/-! ### The merge (R81, R82, R87, R91) -/

/-- The received frames of a channel in order: those begun and those whose packets came early. -/
def Chan.received (c : Chan) : List Frame := c.frames ++ c.early

/-- Change a frame of a channel, begun or early. -/
def Sys.onRx (n : Nat) (k : Int) (g : Frame → Frame) (y : Sys) : Sys :=
  let c := y.chan n
  if c.frames.any fun fr => fr.k == k then y.onFrame n k g
  else if c.early.any fun fr => fr.k == k then
    y.setChan n { c with early := c.early.map fun fr => if fr.k = k then g fr else fr }
  else y.setChan n { c with early := c.early ++ [g { k := k, boundary := 0, origin := 0 }] }

/-- The numbers used around frame k: its own, and those of the frame before and after it. -/
def Chan.usedNear (c : Chan) (k : Int) : List Nat :=
  (c.received.filter fun fr => decide (k - 1 ≤ fr.k) && decide (fr.k ≤ k + 1)).flatMap fun fr => fr.used.map Prod.fst

/-- The die whose ingest engine merges a channel's video (R75). -/
def Sys.ingDie (y : Sys) (n : Nat) : Nat :=
  let p := y.cfgN n (Ob.IngPortA n)
  if p = 0xFF then (y.chan n).die else portDie p

/-- Raise an event of a received frame once, also while the frame is early. -/
def Sys.rxOnce (n : Nat) (k : Int) (code : Nat) (y : Sys) : Sys :=
  match (y.chan n).received.find? fun fr => fr.k == k with
  | some fr => if fr.raised.contains code then y
    else (y.onRx n k fun fr => { fr with raised := code :: fr.raised }).raise code (y.ingDie n) n
  | none => y

/-- An ANC packet joins the frame of its time stamp, or is late after the settle end of row 0 (R95). -/
def Sys.ancJoin (n : Nat) (fr : Frame) (a : AncData) (y : Sys) : Sys :=
  if 0 < fr.settledRows then (y.onChan n fun c => { c with ancLate := c.ancLate + 1 }).rxOnce n fr.k 0x0908
  else y.onRx n fr.k fun fr => { fr with anc := fr.anc ++ [a] }

/-- The first packet binds its time stamp and capture time to its frame (R87, R88); ANC packets that wait for it join. -/
def Sys.bindTs (n : Nat) (k stamp : Int) (ts : Nat) (y : Sys) : Sys :=
  let y := y.onRx n k fun fr => { fr with ts := some ts, capture := some (tickTime 90000 (mediaTick 90000 stamp ts)) }
  let c := y.chan n
  let y := y.setChan n { c with ancWait := c.ancWait.filter fun w => w.2.1 != ts }
  y.each (c.ancWait.filter fun w => w.2.1 == ts) fun w y =>
    match (y.chan n).received.find? fun fr => fr.k == k with
    | some fr => y.ancJoin n fr w.2.2
    | none => y

/-- Put the segments of a packet into the rows of its frame (R79). -/
def Frame.place (fr : Frame) (l : List Seg) : Frame := l.foldl (fun fr s => fr.onRow (s.line / 64) fun w => { w with segs := s :: w.segs }) fr

/-- A video packet of a leg of a channel (R530). -/
def Sys.videoTo (n : Nat) (p : VideoPkt) (leg : Nat) (y : Sys) : Sys :=
  let f := y.fig n
  if p.segs.isEmpty || !(p.segs.all fun s => segOk f 0 (y.cfgN n (Ob.IngDepth n)) s) then y.bump (Ob.IngMalformedCount n) 1
  else
    match judge (y.chCands n p) with
    | none => y
    | some (_, 1) => y.bump (Ob.IngEarlyCount n) 1
    | some (c, 0) =>
      let ts := p.rtpTs % 2 ^ 32
      let bound := ((y.chan n).received.find? fun fr => fr.k == c.k).bind fun fr => fr.ts
      let y := if bound.isNone then y.bindTs n c.k c.stamp ts else y
      if (bound.getD ts) ≠ ts then (y.bump (Ob.IngTsMismatchCount n) 1).rxOnce n c.k 0x0906
      else
        let y := y.bump (if leg = 0 then Ob.IngPktA n else Ob.IngPktB n) 1
        let y := y.onRx n c.k fun fr => if leg = 0 then { fr with legA := fr.legA + 1 } else { fr with legB := fr.legB + 1 }
        if ((y.chan n).usedNear c.k).contains (seq32 p) then y.bump (Ob.IngDupCount n) 1
        else y.onRx n c.k fun fr => { fr.place p.segs with used := (seq32 p, firstRow p.segs) :: fr.used }
    | some _ => y.bump (Ob.IngLateCount n) 1

/-! ### Settle ends of a channel (R82, R86, R90, R91) -/

/-- Whether spans of a line cover [x, e); `fuel` is at least their number. -/
def covers (l : List (Nat × Nat)) : Nat → Nat → Nat → Bool
  | 0, x, e => e ≤ x
  | n + 1, x, e =>
    if e ≤ x then true
    else match l.find? fun s => decide (s.1 ≤ x) && decide (x < s.2) with
      | some s => covers l n s.2 e
      | none => false

/-- The CTUs of a row that miss a pixel (R86). -/
def Frame.missing (fr : Frame) (f : Fig) (r : Nat) : List Nat :=
  let segs := (fr.row r).segs
  (List.range f.rowCtus).filter fun pc =>
    let x0 := f.ctuX pc
    let e := min (x0 + 64) ((pc / f.ctus + 1) * (f.wd / f.tiles))
    (List.range (f.lineEnd r)).any fun l => decide (64 * r ≤ l) &&
      let spans := (segs.filter fun s => s.line == l).map fun s => (s.off, s.off + s.px.length)
      !covers spans (spans.length + 1) x0 e

/-- The distance back to the nearest number used before s (R91). -/
def backTo (l : List Nat) (s : Nat) : Nat :=
  (l.map fun p => (s + 2 ^ 32 - p) % 2 ^ 32).foldl (fun m d => if d ≠ 0 ∧ (m = 0 ∨ d < m) then d else m) 0

/-- Whether a gap lies within one that is counted already. -/
def gapCounted (l : List (Nat × Nat)) (p s : Nat) : Bool :=
  l.any fun g => decide ((p + 2 ^ 32 - g.1) % 2 ^ 32 < (g.2 + 2 ^ 32 - g.1) % 2 ^ 32) &&
    decide ((s + 2 ^ 32 - g.1) % 2 ^ 32 ≤ (g.2 + 2 ^ 32 - g.1) % 2 ^ 32)

/-- The newest of some 32-bit numbers, compared modulo 2³². -/
def newest32 (l : List Nat) : Option Nat :=
  l.foldl (fun (b : Option Nat) s => match b with
    | some x => if 0 < (s + 2 ^ 32 - x) % 2 ^ 32 ∧ (s + 2 ^ 32 - x) % 2 ^ 32 < 2 ^ 31 then some s else b
    | none => some s) none

/-- Gaps whose later packet lies in this row are judged (R91), also across frames without a packet. Numbers of packets that were discarded
as late, early, malformed or mismatched are missing numbers like those of packets lost (log entry 102). -/
def Sys.judgeGaps (n : Nat) (fr : Frame) (r : Nat) (y : Sys) : Sys :=
  y.each ((fr.used.filter fun u => u.2 == r).map Prod.fst) fun s y =>
    let c := y.chan n
    let d := backTo (c.usedLast.toList ++ c.usedNear fr.k) s
    let p := (s + 2 ^ 32 - d) % 2 ^ 32
    if 1 < d ∧ d < 2 ^ 31 ∧ ¬gapCounted c.gaps p s then
      (y.setChan n { c with gaps := c.gaps ++ [(p, s)] }).bump (Ob.IngSeqGapCount n) (d - 1)
    else y

/-- A leg of a frame is judged (R82): whether it is lost afterwards, and the event. -/
def legJudge (mine other : Nat) (lost : Bool) : Bool × Option Nat :=
  if mine ≠ 0 then (false, if lost then some 0x0905 else none)
  else if other ≠ 0 ∧ ¬lost then (true, some 0x0904)
  else (lost, none)

/-- Raise an event when there is one. -/
def Sys.raiseOpt (code : Option Nat) (die arg : Nat) (y : Sys) : Sys :=
  match code with
  | some e => y.raise e die arg
  | none => y

/-- The last row of a frame has settled: legs and source are judged (R82, R90), and gaps of frames gone by are forgotten. A frame counts
as one without its source, and the events of R90 are raised, at this instant (log entry 101). -/
def Sys.judgeFrame (n : Nat) (fr : Frame) (y : Sys) : Sys :=
  let c := y.chan n
  let d := y.ingDie n
  let y := if y.cfgN n (Ob.IngLegMode n) = 1 then
      let a := legJudge fr.legA fr.legB c.lostA
      let b := legJudge fr.legB fr.legA c.lostB
      ((y.onChan n fun c => { c with lostA := a.1, lostB := b.1 }).raiseOpt a.2 d n).raiseOpt b.2 d n
    else y
  let none_ := fr.legA = 0 ∧ fr.legB = 0
  let y := if none_ then y.bump (Ob.IngSourceLostFrames n) 1 else y
  let y := if none_ ∧ ¬c.noSource then y.raise 0x0902 d n else if ¬none_ ∧ c.noSource then y.raise 0x0903 d n else y
  y.onChan n fun c =>
    { c with noSource := decide none_, gaps := c.gaps.filter fun g => (c.usedNear fr.k).contains g.2,
             usedLast := newest32 (c.usedLast.toList ++ fr.used.map Prod.fst) }

/-- Audio sample times of a flow: the rate in Hz. -/
def Sys.audHz (y : Sys) (n f : Nat) : Nat := y.cfgN n (Ob.IngAudRate n f) * 1000

/-- The latest instant at which a sample of a flow may still be supplied: its due instant, its packet's length, and 8 µs (R94). -/
def Sys.audLimit (y : Sys) (n f : Nat) (i : Int) : Int :=
  tickTime (y.audHz n f) i + nsU (y.cfgN n (Ob.IngAudOffset n f)) + usU (y.cfgN n (Ob.IngAudPtime n f)) + usU 8

/-- Samples of a flow not supplied in time are replaced and counted (R94). -/
def Sys.audSettle (n f : Nat) (y : Sys) : Sys :=
  let c := y.chan n
  match y.cfgN n (Ob.IngAudMode n f), c.firstBoundary with
  | 0, _ => y
  | _, none => y
  | _, some b =>
    let hz := y.audHz n f
    let t := y.frameNow n false - y.audLimit n f 0
    let last := t * hz / (secU 1 : Int)
    let first := -(-b * hz / (secU 1 : Int))
    let next := max first (Tab.find (fun _ => 0) c.audioNext f)
    if last < next then y
    else
      let got := ((Tab.find (fun _ => []) c.audioGot f).filter fun s => decide (next ≤ s.1) && decide (s.1 ≤ last)).length
      let lost := ((last - next + 1).toNat - got) * y.cfgN n (Ob.IngAudChannels n f)
      let y := y.setChan n { c with audioNext := Tab.put (fun _ => 0) c.audioNext f (last + 1), audSubst := c.audSubst + lost }
      match lost, c.frames.getLast? with
      | 0, _ => y
      | _, some fr => y.rxOnce n fr.k 0x0907
      | _, none => y

/-- The values of a flow at a sample: as supplied, or replaced under `IngAudSubst` (R94). -/
def Sys.audioAt (y : Sys) (n f : Nat) (i : Int) : List Int :=
  let l := Tab.find (fun _ => []) (y.chan n).audioGot f
  match l.find? fun s => s.1 == i with
  | some s => s.2
  | none =>
    let zeros := List.replicate (y.cfgN n (Ob.IngAudChannels n f)) (0 : Int)
    if y.cfgN n (Ob.IngAudSubst n f) = 0 then zeros
    else ((l.foldl (fun (b : Option (Int × List Int)) s =>
      if i < s.1 then b else match b with
        | some x => if x.1 < s.1 then some s else b
        | none => some s) none).map Prod.snd).getD zeros

/-- Whether a sample of a flow is there, or past being supplied and so replaced (R94). -/
def Sys.audioThere (y : Sys) (n f : Nat) (i : Int) : Bool :=
  let c := y.chan n
  (Tab.find (fun _ => []) c.audioGot f).any (fun s => s.1 == i) || decide (i < Tab.find (fun _ => 0) c.audioNext f)

/-- A row of a channel's frame settles (R86). -/
def Sys.settleRow (n : Nat) (fr : Frame) (y : Sys) : Sys :=
  let f := y.fig n
  let r := fr.settledRows
  let y := y.judgeGaps n fr r
  let miss := fr.missing f r
  let skip := if y.cfgN n (Ob.IngLossMode n) = 0 then miss.filter fun pc => !fr.floorIntra f r pc else []
  let y := y.onFrame n fr.k fun fr => { fr.onRow r (fun w => { w with settled := true, conceal := miss, skip := skip }) with
    settledRows := r + 1 }
  let y := if miss = [] then y else (y.bump (Ob.IngSubstCtuCount n) miss.length).rxOnce n fr.k 0x0901
  if r + 1 = f.rows then y.judgeFrame n fr else y

/-- SETTLE_END of a channel's video flow (R86): the oldest frame's next row, once its settle end has come. -/
def Sys.settleCh (n : Nat) (y : Sys) : Sys :=
  let c := y.chan n
  let f := y.fig n
  let y := y.each (List.range 4) (Sys.audSettle n)
  if c.cx.isSome then y
  else match (y.chan n).frames.find? fun fr => decide (fr.settledRows < f.rows) with
    | some fr =>
      if atOrAfter (y.frameNow n fr.old) (fr.origin + f.slotEnd fr.settledRows + nsU 9500) then y.settleRow n fr else y
    | none => y

/-! ### Layer flows (R96, R193, R195) -/

/-- The present on a context's time base in its view. -/
def Sys.cxNow (y : Sys) (c : Nat) : Int := y.nowFor (y.nat (Ob.CxTimeBase c)) (y.cxConsumer c)

/-- The figures of a layer's flow: its own raster and rate, and the capture origin of its context (R96). -/
def lyFig (g : Nat → Val) (l c : Nat) : Fig :=
  let v := fun k => (g k).nat
  { figOf (fun _ => .int 0) 0 with
    wd := v (Ob.LyIngVidWidth l), ht := max 1 (v (Ob.LyIngVidHeight l)), rn := max 1 (v (Ob.LyIngRateNum l)),
    rd := max 1 (v (Ob.LyIngRateDen l)), off := nsU (v (Ob.CxIngestOffset c)), tb := v (Ob.CxTimeBase c),
    skew := usU (v (Ob.LyIngSkewWindow l)) }

/-- The context of a layer whose flow is received: attached, a flow layer, the context enabled. -/
def Sys.lyFlow (y : Sys) (l : Nat) : Option Nat :=
  let c := y.nat (Ob.LyContext l)
  if c = 0xFF ∨ y.nat (Ob.LySource l) ≠ 1 ∨ ¬y.flag (Ob.CxEnable c) then none else some c

/-- Change the frame of a layer's store with boundary number k. -/
def Sys.onLyFrame (l : Nat) (k : Int) (g : LyFrame → LyFrame) (y : Sys) : Sys :=
  y.onLy l fun x => { x with frames := x.frames.map fun fr => if fr.k = k then g fr else fr }

/-- The frames of a layer that Opal holds: those drawn in a frame of its context with lines to compose, and the content it shows. -/
def Sys.lyHeld (y : Sys) (l c : Nat) : List Nat :=
  (((y.cx c).frames.filter (y.cxOpen c)).flatMap fun fr => (fr.shown.filter fun s => s.ly == l).filterMap fun s => (y.cxPick fr s).map fun f => f.id) ++
    ((y.ly l).shown.map fun f => f.id).toList

/-- The store with a buffer of its four for the writer, one that is neither the newest complete frame nor held by Opal (R195). -/
def roomFor (l : List LyFrame) (held : List Nat) : Option (List LyFrame) :=
  let newest := (newestDone l none).map fun f => f.id
  if l.length < 4 then some l
  else (l.find? fun fr => !held.contains fr.id && some fr.id != newest).map fun v => l.filter fun fr => fr.id != v.id

/-- A packet of a leg goes into a frame of a layer; a second copy is only counted for its leg (R81). -/
def LyFrame.take (fr : LyFrame) (p : VideoPkt) (leg : Nat) (dup : Bool) : LyFrame :=
  let fr := if leg = 0 then { fr with legA := fr.legA + 1 } else { fr with legB := fr.legB + 1 }
  let fr := { fr with row0 := fr.row0 || firstRow p.segs == 0 }
  if dup then fr else { fr with segs := p.segs.reverse ++ fr.segs, used := (seq32 p, firstRow p.segs) :: fr.used }

/-- Whether the segments of a packet have the form of a layer's flow (R80). -/
def lyForm (g : Nat → Val) (l c : Nat) (p : VideoPkt) : Bool :=
  !p.segs.isEmpty && p.segs.all fun s => segOk (lyFig g l c) (g (Ob.LyIngSampling l)).nat (g (Ob.LyIngDepth l)).nat s

/-- A video packet of a leg of a layer's flow: judged and merged as a channel's, without counters (R96). A frame for which the store has no
buffer is not received. -/
def Sys.videoToLayer (l c : Nat) (p : VideoPkt) (leg : Nat) (y : Sys) : Sys :=
  let f := lyFig y.val l c
  if ¬lyForm y.val l c p then y
  else
    let stamp := y.cxNow c
    let m := firstFrom f.rn f.rd (stamp - f.off)
    match judge ([m - 2, m - 1, m, m + 1].map fun k => candAt f p k (f.boundary k + f.off) stamp) with
    | some (cd, 0) =>
      let ts := p.rtpTs % 2 ^ 32
      let x := y.ly l
      let y := if x.frames.any fun fr => fr.k == cd.k then y
        else match roomFor x.frames (y.lyHeld l c) with
          | some l' => y.setLy l { x with
              frames := l' ++ [{ id := x.nextId, k := cd.k, wd := f.wd, ht := f.ht, ts := some ts, age := some (tickTime 90000 (mediaTick 90000 stamp ts)) }],
              nextId := x.nextId + 1 }
          | none => y
      match (y.ly l).frames.find? fun fr => fr.k == cd.k with
      | none => y
      | some fr =>
        if fr.ts ≠ some ts ∨ fr.done.isSome then y
        else
          let near := ((y.ly l).frames.filter fun g => decide (cd.k - 1 ≤ g.k) && decide (g.k ≤ cd.k + 1)).flatMap fun g => g.used.map Prod.fst
          y.onLyFrame l cd.k fun fr => fr.take p leg (near.contains (seq32 p))
    | _ => y

/-- Change a frame of a context. -/
def Sys.onCxFrame (c : Nat) (k : Int) (f : CxFrame → CxFrame) (y : Sys) : Sys :=
  y.onCx c fun x => { x with frames := x.frames.map fun fr => if fr.k = k then f fr else fr }

/-- A packet of a row-locked flow whose settings a commit has replaced: the earlier frame still being composed finishes with them (R216). -/
def Sys.videoToOld (c l : Nat) (fr : CxFrame) (p : VideoPkt) (leg : Nat) (y : Sys) : Sys :=
  let g := y.cxSet fr
  let f := lyFig g l c
  let cd := candAt f p fr.k fr.origin (y.cxNow c)
  if lyForm g l c p = true ∧ cd.lo ≤ cd.stamp ∧ cd.stamp ≤ cd.hi then
    y.onCxFrame c fr.k fun fr => { fr with shown := fr.shown.map fun s =>
      if s.ly = l ∧ s.locked = 4 then
        { s with frame := s.frame.map fun h => if h.ts = some (p.rtpTs % 2 ^ 32) then h.take p leg ((h.used.map Prod.fst).contains (seq32 p)) else h }
      else s }
  else y

/-- SETTLE_END of a layer's flow: a row of the oldest frame being received; with its last row the legs are judged (R82, R96). -/
def Sys.settleLy (l : Nat) (y : Sys) : Sys :=
  match y.lyFlow l with
  | none => y
  | some c =>
    let f := lyFig y.val l c
    let x := y.ly l
    match x.frames.find? fun fr => decide (fr.settledRows < f.rows) with
    | none => y
    | some fr =>
      if atOrAfter (y.cxNow c) (f.boundary fr.k + f.off + f.slotEnd fr.settledRows + nsU 9500) then
        let y := y.onLyFrame l fr.k fun fr => { fr with settledRows := fr.settledRows + 1 }
        if fr.settledRows + 1 = f.rows ∧ y.nat (Ob.LyIngLegMode l) = 1 then
          let a := legJudge fr.legA fr.legB x.lostA
          let b := legJudge fr.legB fr.legA x.lostB
          ((y.onLy l fun x => { x with lostA := a.1, lostB := b.1 }).raiseOpt a.2 (l / 16) l).raiseOpt b.2 (l / 16) l
        else y
      else y

/-- VIDEO_PACKET_RX (R73, R530): each consumer whose legs the packet matches gets a copy. -/
def Sys.videoRx (p : VideoPkt) (y : Sys) : Sys :=
  let y := y.each y.activeChans fun n y =>
    if (y.chan n).cx.isSome then y
    else y.eachLeg (legsHit (y.cfg n) (Ob.IngPortA n) (y.cfgN n (Ob.IngLegMode n) = 1) p.hdr) p.hdr (Sys.videoTo n p)
  let y := y.each (List.range (16 * y.part.dies)) fun l y => match y.lyFlow l with
    | some c => y.eachLeg (legsHit y.val (Ob.LyIngPortA l) (y.nat (Ob.LyIngLegMode l) = 1) p.hdr) p.hdr (Sys.videoToLayer l c p)
    | none => y
  y.each (List.range (4 * y.part.dies)) fun c y => y.each ((y.cx c).frames.filter (y.cxOpen c)) fun fr y =>
    y.each (fr.shown.filter fun s => s.locked == 4) fun s y =>
      let g := y.cxSet fr
      y.eachLeg (legsHit g (Ob.LyIngPortA s.ly) ((g (Ob.LyIngLegMode s.ly)).nat = 1) p.hdr) p.hdr (Sys.videoToOld c s.ly fr p)

/-! ### Audio and ancillary packets (R94, R95) -/

/-- The samples of a flow that are kept beside new ones: those of 200 ms before them, and the last before those, which a repeat may still
need (R94). -/
def audioKept (from_ : Int) (l : List (Int × List Int)) : List (Int × List Int) :=
  let past := (l.filter fun s => decide (s.1 < from_)).foldl (fun (b : Option (Int × List Int)) s => match b with
    | some x => if x.1 < s.1 then some s else b
    | none => some s) none
  (l.filter fun s => decide (from_ ≤ s.1)) ++ past.toList

/-- An audio packet of a leg of a flow (R94): the samples of a packet whose last sample lies in its interval are stored. -/
def Sys.audioTo (n f : Nat) (p : AudioPkt) (y : Sys) : Sys :=
  let hz := y.audHz n f
  let stamp := y.frameNow n false
  let m := mediaTick hz stamp (p.rtpTs % 2 ^ 32)
  let due := tickTime hz (m + p.samples.length - 1) + nsU (y.cfgN n (Ob.IngAudOffset n f))
  if p.samples.isEmpty || decide (stamp < due - (y.fig n).skew) || decide (due + usU 8 < stamp) then y
  else
    let new := (p.samples.zipIdx).map fun s => (m + s.2, s.1)
    let old := (audioKept (m - hz / 5) (Tab.find (fun _ => []) (y.chan n).audioGot f)).filter fun s => !(new.any fun e => e.1 == s.1)
    y.onChan n fun c => { c with audioGot := Tab.put (fun _ => []) c.audioGot f (new.reverse ++ old) }

/-- AUDIO_PACKET_RX (R94). -/
def Sys.audioRx (p : AudioPkt) (y : Sys) : Sys :=
  y.each y.activeChans fun n y => y.each (List.range 4) fun f y =>
    let m := y.cfgN n (Ob.IngAudMode n f)
    if m = 0 then y
    else (y.audSettle n f).eachLeg (legsHit (y.cfg n) (Ob.IngAudPortA n f) (m = 2) p.hdr) p.hdr fun _ y => y.audioTo n f p

/-- Whether a channel keeps an ANC packet (R95). -/
def Sys.ancKept (y : Sys) (n : Nat) (a : AncData) : Bool :=
  let l := (List.range 16).map fun i => y.cfgN n (Ob.IngAncFilter n i)
  (l.all fun e => e == 0) || l.contains (a.did % 256 * 256 + a.sdid % 256)

/-- Whether a time stamp is at or before that of a frame that is over: no frame of the channel can take its ANC packets any more (R95). -/
def Chan.tsOver (c : Chan) (ts : Nat) : Bool :=
  match c.tsGone with
  | some t => decide ((t + 2 ^ 32 - ts) % 2 ^ 32 < 2 ^ 31)
  | none => false

/-- An ANC packet comes after its frame has gone (R95). -/
def Sys.ancGone (n : Nat) (y : Sys) : Sys :=
  let y := y.onChan n fun c => { c with ancLate := c.ancLate + 1 }
  match (y.chan n).frames.getLast? with
  | some fr => y.rxOnce n fr.k 0x0908
  | none => y

/-- An ancillary packet of a leg (R95): the first copy of a sequence number counts; without a bound frame it waits for one. -/
def Sys.ancTo (n : Nat) (p : AncPkt) (y : Sys) : Sys :=
  let c := y.chan n
  let keep := fun (t : Nat) => decide (y.now < t + 2 * (y.fig n).period_)
  if c.ancUsed.any fun u => u.2 == p.seq && keep u.1 then y
  else
    let y := y.setChan n { c with ancUsed := (y.now, p.seq) :: c.ancUsed.filter (fun u => keep u.1),
                                  ancWait := c.ancWait.filter fun w => keep w.1 }
    y.each (p.anc.filter (y.ancKept n)) fun a y =>
      match (y.chan n).received.find? fun fr => fr.ts == some (p.rtpTs % 2 ^ 32) with
      | some fr => y.ancJoin n fr a
      | none => if (y.chan n).tsOver (p.rtpTs % 2 ^ 32) then y.ancGone n
        else y.onChan n fun c => { c with ancWait := c.ancWait ++ [(y.now, p.rtpTs % 2 ^ 32, a)] }

/-- ANC_PACKET_RX (R95). -/
def Sys.ancRx (p : AncPkt) (y : Sys) : Sys :=
  y.each y.activeChans fun n y =>
    let m := y.cfgN n (Ob.IngAncMode n)
    if m = 0 then y else y.eachLeg (legsHit (y.cfg n) (Ob.IngAncPortA n) (m = 2) p.hdr) p.hdr fun _ y => y.ancTo n p

/-! ### The commands -/

/-- VIDEO_PACKET_RX (R530). -/
def execVideoPacketRx (dt : Nat) (pkt : VideoPkt) (s : State) : Res := act dt (Sys.videoRx pkt) s

/-- AUDIO_PACKET_RX (R94). -/
def execAudioPacketRx (dt : Nat) (pkt : AudioPkt) (s : State) : Res := act dt (Sys.audioRx pkt) s

/-- ANC_PACKET_RX (R95). -/
def execAncPacketRx (dt : Nat) (pkt : AncPkt) (s : State) : Res := act dt (Sys.ancRx pkt) s

/-- SETTLE_END (R86). -/
def execSettleEnd (dt : Nat) (flow : FlowId) (s : State) : Res :=
  act dt (match flow with
    | .ch n => Sys.settleCh n
    | .layer l => Sys.settleLy l) s

end Sys2Proof.Machine
end

