-- ==== Sys2Proof/Machine/Layers.lean ====
section
/-! DEFINITION. Opal's contexts and layers: commits and their checks, frame boundaries, readiness and stale marking, line deadlines and
the uncompressed output; and DP0's layer sources (R178 to R185, R187 to R219). -/

namespace Sys2Proof.Machine

/-! ### What a commit covers (R212) -/

/-- The layers of the variant. -/
def Sys.lyList (y : Sys) : List Nat := List.range (16 * y.part.dies)

/-- Whether a commit of a context covers an object (R212). -/
def Sys.cxOwns (y : Sys) (c k : Nat) : Bool :=
  let i := k / 256
  if 0x3000 ≤ i ∧ i < 0x3100 then (i - 0x3000) / 8 == c
  else if 0x3100 ≤ i ∧ i < 0x3200 then
    let l := (i - 0x3100) / 2
    let sh := (y.shadowVal (Ob.LyContext l)).nat
    let live := y.nat (Ob.LyContext l)
    if k = Ob.LyContext l then sh == c || (sh == 0xFF && live == c) else sh == c || live == c
  else false

/-- The layers attached to a context under a reading. -/
def Sys.lysOf (y : Sys) (g : Nat → Val) (c : Nat) : List Nat := y.lyList.filter fun l => (g (Ob.LyContext l)).nat == c

/-- The order list of a context, without its empty positions (R205). -/
def orderList (g : Nat → Val) (c : Nat) : List Nat := ((g (Ob.CxOrderList c)).toBytes.map fun (b : Byte) => b.toNat).filter fun v => v != 0xFF

/-- The layers a context draws, bottom first (R193, R205). -/
def Sys.drawnOf (y : Sys) (g : Nat → Val) (c : Nat) : List Nat :=
  let att := y.lysOf g c
  let ord := if (g (Ob.CxBlendMode c)).nat = 0 then att
    else (orderList g c).filterMap fun v => if att.contains (16 * (c / 4) + v) then some (16 * (c / 4) + v) else none
  ord.filter fun l => (g (Ob.LySource l)).nat != 0 && (g (Ob.LyDstW l)).nat != 0 && (g (Ob.LyDstH l)).nat != 0

/-! ### The figures of a context (R176, R189, R201 to R204, R214) -/

/-- The figures of a context's raster and rate. -/
def cxFig (g : Nat → Val) (c : Nat) : Fig :=
  let v := fun k => (g k).nat
  { figOf (fun _ => .int 0) 0 with
    wd := v (Ob.CxWidth c), ht := max 1 (v (Ob.CxHeight c)), rn := max 1 (v (Ob.CxRateNum c)), rd := max 1 (v (Ob.CxRateDen c)),
    off := nsU (v (Ob.CxIngestOffset c)), tb := v (Ob.CxTimeBase c) }

/-- Frames per second of a context. -/
def cxRate (g : Nat → Val) (c : Nat) : Rat := ((cxFig g c).rn : Rat) / ((cxFig g c).rd : Rat)

/-- The sum of some rationals. -/
def ratSum (l : List Rat) : Rat := l.foldl (· + ·) 0

/-- The decode load of a context's layers (R176). -/
def Sys.cxDecLoad (y : Sys) (g : Nat → Val) (c : Nat) : Rat :=
  let v := fun k => (g k).nat
  ratSum (((y.lysOf g c).filter fun l => v (Ob.LySource l) == 2 && v (Ob.DecSource l) != 0).map fun l =>
    ((v (Ob.DecMaxWidth l) * v (Ob.DecMaxHeight l) * v (Ob.DecMaxRateNum l) : Nat) : Rat) / (max 1 (v (Ob.DecMaxRateDen l)) : Nat))

/-- The scalers of a context (R204). -/
def Sys.cxScalers (y : Sys) (g : Nat → Val) (c : Nat) : Nat := ((y.drawnOf g c).map (scalersOf g)).foldl (· + ·) 0

/-- The layer fetch of a context in pixels per second (R214). -/
def Sys.cxFetch (y : Sys) (g : Nat → Val) (c : Nat) : Rat :=
  ratSum (((y.drawnOf g c).filter fun l => (g (Ob.LySource l)).nat != 3 && !((g (Ob.LySource l)).nat == 1 && (g (Ob.LyTiming l)).nat == 1)).map
    fun l =>
      let r := sourceRaster g l
      let p := cropOf g l r.1 r.2
      ((p.2.2.1 * p.2.2.2 : Nat) : Rat) * cxRate g c)

/-- The pixels per second an enabled context composes (R189). -/
def cxPixels (g : Nat → Val) (c : Nat) : Rat :=
  let f := cxFig g c
  if (g (Ob.CxEnable c)).nat = 1 then ((f.wd * f.ht * f.rn : Nat) : Rat) / (f.rd : Rat) else 0

/-- The other contexts of a context's die, each with the larger of its live and pending use, and the use of a new set (R214). -/
def Sys.dieUse (y : Sys) (use : (Nat → Val) → Nat → Rat) (g : Nat → Val) (c : Nat) : Rat :=
  let others := ((List.range 4).map fun i => 4 * (c / 4) + i).filter fun d => d != c
  use g c + ratSum (others.map fun d => ratMax ((y.readings (Ob.CxCommit d)).map fun h => use h d))

/-- Whether a layer's crop lies in its source and its ratios in [1/8, 8] (R201). -/
def cropOk (g : Nat → Val) (l : Nat) : Bool :=
  let r := sourceRaster g l
  let (x, yy, w, h) := cropOf g l r.1 r.2
  let d := destOf g l
  let ratio := fun (a b : Nat) => decide (b ≤ 8 * a) && decide (a ≤ 8 * b)
  (g (Ob.LySource l)).nat == 3 ||
    (decide (0 < w) && decide (0 < h) && decide (x + w ≤ r.1) && decide (yy + h ≤ r.2) && ratio w d.2.2.1 && ratio h d.2.2.2)

/-- Whether a layer's source has a format of R193. -/
def formatOk (g : Nat → Val) (l : Nat) : Bool :=
  let v := fun k => (g k).nat
  let w := v (Ob.LyIngVidWidth l)
  let h := v (Ob.LyIngVidHeight l)
  let rn := v (Ob.LyIngRateNum l)
  let rd := v (Ob.LyIngRateDen l)
  if v (Ob.LySource l) = 1 then
    w % 2 == 0 && h % 2 == 0 && rateOk rn rd && decide (w * h * rn ≤ 2080000000 * rd)
  else v (Ob.LySource l) != 2 || v (Ob.DecSource l) != 0

/-- Whether the list of R205 names attached layers, each once. -/
def Sys.orderOk (y : Sys) (g : Nat → Val) (c : Nat) : Bool :=
  let l := orderList g c
  let att := y.lysOf g c
  (g (Ob.CxBlendMode c)).nat == 0 || ((l.all fun v => decide (v < 16) && att.contains (16 * (c / 4) + v)) && l.eraseDups.length == l.length)

/-- Whether an enabled context has a raster and rate of R189, and its offset lies below its period. -/
def outputOk (g : Nat → Val) (c : Nat) : Bool :=
  let f := cxFig g c
  (g (Ob.CxEnable c)).nat != 1 || (rasterOk f.wd f.ht && rateOk f.rn f.rd && f.rateAtMost 4160000000 && f.belowPeriod f.off)

/-- A row-locked flow layer. -/
def isLocked (g : Nat → Val) (l : Nat) : Bool := (g (Ob.LySource l)).nat == 1 && (g (Ob.LyTiming l)).nat == 1

/-- The conditions of R194 for a layer with row-locked timing: it is a flow layer with the context's raster and rate. -/
def lockedOk (g : Nat → Val) (l c : Nat) : Bool :=
  let v := fun k => (g k).nat
  let w := v (Ob.CxWidth c)
  let h := v (Ob.CxHeight c)
  v (Ob.LyTiming l) != 1 ||
    (v (Ob.LySource l) == 1 && v (Ob.LyIngVidWidth l) == w && v (Ob.LyIngVidHeight l) == h &&
      v (Ob.LyIngRateNum l) * v (Ob.CxRateDen c) == v (Ob.CxRateNum c) * v (Ob.LyIngRateDen l) &&
      cropOf g l w h == (0, 0, w, h) && destOf g l == (0, 0, w, h) && v (Ob.LyIngSampling l) == 0)

/-! ### Memory of layers (R180, R194, R195, R216) -/

/-- What a layer wants of a kind of memory: 3 its store, 4 its decoder pool, 5 the row buffer of a row-locked layer. -/
def Sys.lyWant (y : Sys) (g : Nat → Val) (l c kind : Nat) : List Nat :=
  let v := fun k => (g k).nat
  let w := v (Ob.LyIngVidWidth l)
  let h := v (Ob.LyIngVidHeight l)
  if kind = 3 then
    if v (Ob.LySource l) = 1 then List.replicate 4 (blockUp (if v (Ob.LyIngSampling l) = 0 then ceilDiv (8 * w * h) 3 else 4 * w * h)) else []
  else if kind = 4 then
    if v (Ob.LySource l) = 2 ∧ v (Ob.DecSource l) ≠ 0 then
      List.replicate (v (Ob.DecMaxDpb l) + 2) (bufferBytes (v (Ob.DecMaxWidth l)) (v (Ob.DecMaxHeight l)) (v (Ob.DecMaxWidth l)))
    else []
  else if isLocked g l then
    let n := v (Ob.CxChannel c)
    let f := { cxFig g c with skew := usU (v (Ob.LyIngSkewWindow l)), lat := if n = 0xFF then 2 else y.nat (Ob.ChLatencyRows n) }
    [f.rowBufBytes]
  else []

/-- The memory of a kind a layer will have when a new set applies: the newest entry not being released. -/
def lyHolds (x : Ly) (kind : Nat) : Nat :=
  (((x.heaps.filter fun (e : Nat × Nat × Nat) => e.1 / 4096 == kind && e.2.2 != 1)).foldl (fun (b : Nat × Nat) e => if b.2 ≤ e.2.2 then (e.2.1, e.2.2) else b) (0, 0)).1

/-- Take runs for an owner; a row buffer goes to SRAM when there is room (R85). -/
def Sys.takeRuns (d own : Nat) (sizes : List Nat) (y : Sys) : Option Sys :=
  let b := sizes.foldl (· + ·) 0
  if own / 4096 = 5 ∧ b ≤ y.sramRoom d then some (y.onDie d fun x => { x with sramUsed := x.sramUsed ++ [(own, b)] })
  else y.heapAlloc d own sizes

/-- Return what an owner holds. -/
def Sys.dropRuns (d own : Nat) (y : Sys) : Sys := (y.heapFree d own).onDie d fun x => { x with sramUsed := x.sramUsed.filter fun e => e.1 != own }

/-- Reserve a kind of memory for the layers of a new set; `none` when one does not fit (R216). -/
def Sys.lyReserve (g : Nat → Val) (c kind seq : Nat) (y : Sys) : Option Sys :=
  (y.lysOf g c).foldl (fun (r : Option Sys) l => r.bind fun y =>
    let sizes := y.lyWant g l c kind
    let b := sizes.foldl (· + ·) 0
    let x := y.ly l
    if b = 0 ∨ lyHolds x kind = b then some y
    else
      let own := ((List.range 32).map fun j => owner kind (l + 128 * j)).find? fun o => !x.heaps.any fun e => e.1 == o
      own.bind fun o => (y.takeRuns (l / 16) o sizes).map fun y => y.onLy l fun x => { x with heaps := x.heaps ++ [(o, b, seq + 2)] }) (some y)

/-- Return the memory of layers of a die whose holder satisfies a test. -/
def Sys.lyRelease (d : Nat) (gone : Nat → Bool) (y : Sys) : Sys :=
  y.each ((List.range 16).map fun i => 16 * d + i) fun l y =>
    let x := y.ly l
    let out := x.heaps.filter fun e => gone e.2.2
    if out.isEmpty then y
    else (y.each out fun e y => y.dropRuns d e.1).setLy l { x with heaps := x.heaps.filter fun e => !gone e.2.2 }

/-! ### The commit (R212 to R217) -/

/-- The number of a pending set as holder of memory: its context and instant. -/
def setNo (c seq : Nat) : Nat := seq * 32 + c

/-- The objects that a commit may not change while the bound channel runs (R217). -/
def cxFrozen (c : Nat) : List Nat :=
  [Ob.CxEnable c, Ob.CxChannel c, Ob.CxWidth c, Ob.CxHeight c, Ob.CxRateNum c, Ob.CxRateDen c, Ob.CxTimeBase c, Ob.CxIngestOffset c,
   Ob.CxColorimetry c, Ob.CxTcs c, Ob.CxRange c]

/-- Whether a channel that is not stopped is bound to a context. -/
def Sys.cxBusy (y : Sys) (c : Nat) : Bool := y.activeChans.any fun n => (y.chan n).cx == some c

/-- Whether a commit attaches only layers of the context's die that no other context has or will have (R212). -/
def Sys.attachOk (y : Sys) (c : Nat) : Bool :=
  y.lyList.all fun l =>
    let live := y.nat (Ob.LyContext l)
    (y.shadowVal (Ob.LyContext l)).nat != c ||
      (l / 16 == c / 4 && (live == c || (live == 0xFF && !y.pend.any fun (p : Pend) =>
        p.key != Ob.CxCommit c && p.set.any fun e => e.1 == Ob.LyContext l && e.2.nat != 0xFF)))

/-- The ports a context's set names. -/
def Sys.cxPorts (y : Sys) (g : Nat → Val) (c : Nat) : List Nat :=
  let v := fun k => (g k).nat
  ((y.lysOf g c).flatMap fun l =>
    ((if v (Ob.LySource l) = 1 then legsAt g (Ob.LyIngPortA l) (v (Ob.LyIngLegMode l) == 1) else []) ++
      (if v (Ob.LySource l) = 2 ∧ v (Ob.DecSource l) ≠ 0 then legsAt g (Ob.DecPortA l) (v (Ob.DecLegMode l) == 1) else [])).map fun e => e.port) ++
    (cxOutLegs g c).map fun e => e.port

/-- The boundary at which a set accepted now applies (R27): counted on the live settings, whether the context is on or off. -/
def Sys.cxApplyAt (y : Sys) (c : Nat) : Int :=
  let x := y.cx c
  let f := cxFig y.val c
  let k := firstFrom f.rn f.rd (y.cxNow c + usU 250)
  f.boundary (if x.on then max x.nextK k else k)

/-- A write of 1 to CxCommit (R213 to R217, R276, R349). -/
def Sys.cxCommit (c : Nat) (y : Sys) : WriteRes :=
  let own := y.cxOwns c
  let g := y.checkVal own
  let key := Ob.CxCommit c
  let d := c / 4
  if ¬((y.cxPorts g c).all fun p => decide (p < 12 * y.part.dies) && y.nat (Ob.PortMode p) != 0) then abortWith 4 y
  else
    let at_ := y.cxApplyAt c
    let seq := setNo c y.now
    let gone := (y.pend.filter fun (p : Pend) => p.key == key && p.at_ == at_).map fun p => setNo c p.seq + 2
    let z := y.lyRelease d fun h => gone.contains h
    let pools := z.lyReserve g c 4 seq
    let stores := pools.bind fun z => z.lyReserve g c 3 seq
    let rows := stores.bind fun z => z.lyReserve g c 5 seq
    let drawn := y.drawnOf g c
    let att := y.lysOf g c
    let outs := cxOutLegs g c
    let legs := att.flatMap (lyLegs g)
    match firstFail
      [(decide (y.dieUse y.cxDecLoad g c ≤ 1680000000), 0x0C20), (pools.isSome, 0x0C21),
       (drawn.all fun l => scalersOf g l != 3, 0x0D20),
       (decide (y.dieUse (fun h e => (y.cxScalers h e : Rat)) g c ≤ 8), 0x0D21),
       (drawn.all (cropOk g) && att.all (formatOk g), 0x0D22),
       (decide (y.dieUse y.cxFetch g c ≤ 8320000000), 0x0D23), (pools.isNone || stores.isSome, 0x0D24), (y.orderOk g c, 0x0D25),
       (outputOk g c && decide (y.dieUse cxPixels g c ≤ 4160000000), 0x0D26),
       ((att.all fun l => lockedOk g l c) && (stores.isNone || rows.isSome), 0x0D27),
       (!(y.cxBusy c && (cxFrozen c).any fun k => g k != y.val k), 0x0D28), (y.attachOk c, 0x0D29),
       (y.legsFit legs none (some c), 0x0D2A), (outs.all fun l => y.classFree l.port (g (Ob.CxOutClass c)).nat, 0x1020),
       (outs.all fun l => y.portHolds l.port (y.reservedBut l.port none (some c) none + legSum l.port outs (cxReserve g c)), 0x1021)] with
    | some r => y.refuseCommit key r 0x0D04 d c
    | none => accept ((rows.getD y).acceptCommit key own at_)

/-! ### A set applies (R211, R216) -/

/-- Whether an object names the source of a layer (R211): an attachment counts as well. -/
def namesSource (l k : Nat) : Bool :=
  k == Ob.LySource l || k == Ob.LyContext l || (decide (Ob.LyIngVidWidth l ≤ k) && decide (k ≤ Ob.LyIngSkewWindow l)) ||
    (k / 256 == 0x3101 + 2 * l && decide (0x40 ≤ k % 256) && decide (k % 256 ≤ 0x5F))

/-- Row-locked layers of frames that still have lines to compose go on with the settings they began with (R216). -/
def Sys.keepLocked (c : Nat) (mine : Nat → Bool) (y : Sys) : Sys :=
  let keep := fun (fr : CxFrame) (s : Shown) =>
    if mine s.ly && (s.locked == 1 || s.locked == 2) then { s with frame := y.cxPick fr s, locked := 4 } else s
  let fix := fun (fr : CxFrame) => if y.cxOpen c fr then { fr with shown := fr.shown.map (keep fr) } else fr
  y.onCx c fun x => { x with frames := x.frames.map fix }

/-- A layer whose source a commit of a context sets or changes: no content, m = 0, decoding anew with an empty pool (R180, R185, R211). -/
def Sys.lyAnew (c l : Nat) (y : Sys) : Sys :=
  let y := y.keepLocked c fun k => k == l
  let x := y.ly l
  let on := y.nat (Ob.LySource l) = 2 ∧ y.nat (Ob.DecSource l) ≠ 0 ∧ y.nat (Ob.LyContext l) ≠ 0xFF
  let y := y.setLy l { heaps := x.heaps, nextId := x.nextId, pool := if on then List.replicate (y.nat (Ob.DecMaxDpb l) + 2) {} else [] }
  let y := (y.setInt (Ob.DecState l) (if on then 1 else 0)).setInt (Ob.DecStopCause l) 0
  if on then y.setInt (Ob.DecPicsDecoded l) 0 else y

/-- The memory of a layer after a set applies: what the set reserved is live, what it replaced is released later (R216). -/
def Sys.lyTakeOver (l c no : Nat) (y : Sys) : Sys :=
  y.onLy l fun x => { x with heaps := x.heaps.map fun e =>
    let kind := e.1 / 4096
    let new := x.heaps.any fun o => o.1 / 4096 == kind && o.2.2 == no
    if e.2.2 = no then (e.1, e.2.1, 0)
    else if e.2.2 = 0 ∧ (new || (y.lyWant y.val l c kind).isEmpty || y.nat (Ob.LyContext l) == 0xFF) = true then (e.1, e.2.1, 1)
    else e }

/-- The status objects of a layer that a commit sets. -/
def Sys.lyStatus (l c : Nat) (drawn : Bool) (y : Sys) : Sys :=
  let g := scalersOf y.val l
  let b : Nat := (y.lyWant y.val l c 3).foldl (· + ·) 0
  let att := y.nat (Ob.LyContext l) = c
  let y := (y.setInt (Ob.LyScalersUsed l) (if drawn then g else 0)).setInt (Ob.LyLineBufNeed l) (if drawn ∧ g ≠ 0 then lineNeed y.val l g else 0)
  let y := y.setInt (Ob.LyStoreBytes l) (if att then b else 0)
  if drawn then y else y.setInt (Ob.LyState l) 0

/-- The output queues of a context (R269). -/
def Sys.cxQueues (c : Nat) (y : Sys) : Sys :=
  let legs := cxOutLegs y.val c
  let cls := y.nat (Ob.CxOutClass c)
  let mine := y.net.queues.filter fun q => q.owner == .cx c
  if (mine.map fun q => (q.port, q.cls)) = legs.map fun l => (l.port, cls) then y
  else y.dropQueues (fun q => q.owner != .cx c) |>.each legs fun l y => y.addQueue l.port (.cx c) 0 cls true 1000

/-- Release what replaced sets held, once every frame begun before has its last row composed (R216); a context that is off has only such. -/
def Sys.cxRelease (c : Nat) (y : Sys) : Sys :=
  let x := y.cx c
  if (if x.on then x.frames.dropLast else x.frames).all fun fr => !y.cxOpen c fr then y.lyRelease (c / 4) fun h => h == 1 else y

/-- A set of a context applies (R216): frames begun before keep what it changes. -/
def Sys.cxApply (c : Nat) (p : Pend) (y : Sys) : Sys :=
  let y := { y with pend := y.pend.filter fun (q : Pend) => !(q.key == p.key && q.at_ == p.at_ && q.seq == p.seq) }
  let changed := p.set.filter fun e => e.2 != y.val e.1
  let before := y.lysOf y.val c
  let olds := changed.map fun e => (e.1, y.val e.1)
  let y := y.onCx c fun x => { x with frames := x.frames.map fun fr =>
    { fr with cfg := olds.foldl (fun t e => if (Tab.keys t).contains e.1 then t else Tab.insert e.1 e.2 t) fr.cfg } }
  let y := y.applySet p.set
  let all := (before ++ y.lysOf y.val c).eraseDups
  let drawn := y.drawnOf y.val c
  let y := y.each all fun l y =>
    let y := y.lyTakeOver l c (setNo c p.seq + 2)
    let y := if changed.any fun e => namesSource l e.1 then y.lyAnew c l else y
    y.lyStatus l c (drawn.contains l)
  let y := (y.bump (Ob.CxCommitCount c) 1).raise 0x0D03 (c / 4) c
  (if y.pend.any fun q => q.key == p.key then y else y.setInt (Ob.CxCommitState c) 0).cxQueues c

/-! ### Readiness (R196, R197, R208, R211) -/

/-- A layer is ready (R208). -/
def Sys.lyReady (l d : Nat) (s : Shown) (y : Sys) : Shown × Sys :=
  let was := (y.ly l).m
  let y := y.onLy l fun x => { x with m := 0, content := true, shown := s.frame }
  let y := y.setInt (Ob.LyState l) 1
  (s, if 0 < was then y.raise 0x0D02 d l else y)

/-- A layer is not ready (R208, R211): it draws `last` if it has content, hatched beyond its grace. -/
def Sys.lyNotReady (l d : Nat) (s : Shown) (last : Option LyFrame) (y : Sys) : Option Shown × Sys :=
  let x := y.ly l
  let m := x.m + 1
  let g := y.nat (Ob.LyGrace l)
  let y := (y.setLy l { x with m := m }).bump (Ob.LyNotReadyFrames l) 1
  let s := { s with frame := if x.content then last else none }
  if m ≤ g then
    let y := y.setInt (Ob.LyState l) 2
    (if x.content then some s else none, if m = 1 then y.raise 0x0D05 d l else y)
  else
    let y := (y.setInt (Ob.LyState l) 3).bump (Ob.LyStaleFrames l) 1
    (some { s with hatched := true }, if m = g + 1 then y.raise 0x0D01 d l else y)

/-- The nominal frame period of a layer's source (R196). -/
def lyPeriod (g : Nat → Val) (l : Nat) : Nat :=
  let v := fun k => (g k).nat
  if v (Ob.LySource l) = 2 then v (Ob.DecMaxRateDen l) * secUnits / max 1 (v (Ob.DecMaxRateNum l))
  else v (Ob.LyIngRateDen l) * secUnits / max 1 (v (Ob.LyIngRateNum l))

/-- Record the age of the frame a layer draws. -/
def Sys.lyAged (s : Shown) (y : Sys) : Sys :=
  match s.frame.bind fun f => f.age with
  | some a => y.setInt (Ob.LyLastAge s.ly) (time96 a)
  | none => y

/-- The frames of a layer that Opal can select: those of its store, and the available pictures of its decoder pool (R181, R196). -/
def Ly.complete (x : Ly) : List LyFrame := x.frames ++ x.pool.filterMap fun b => if b.avail then b.fr else none

/-- Judge a layer at a boundary b (R196, R197). -/
def Sys.judgeLayer (l d : Nat) (b : Int) (y : Sys) : Option Shown × Sys :=
  let src := y.nat (Ob.LySource l)
  if src = 3 then let r := y.lyReady l d { ly := l }; (some r.1, r.2)
  else if isLocked y.val l then (some { ly := l, locked := 1 }, y)
  else
    let x := y.ly l
    let best := newestDone x.complete (some b)
    let from_ := b - lyPeriod y.val l - usU (y.nat (Ob.LyLateTol l))
    if (match best with
        | some f => decide (0 ≤ tdiff (f.done.getD 0) from_)
        | none => false) then
      let r := y.lyReady l d { ly := l, frame := best }
      (some r.1, r.2.lyAged r.1)
    else
      let r := y.lyNotReady l d { ly := l } x.shown
      (r.1, match r.1 with
        | some s => r.2.lyAged s
        | none => r.2)

/-- The stale bits of the layers drawn (R210). -/
def staleBits (l : List Shown) : Nat := (l.filter fun s => s.hatched).foldl (fun v s => setBits v (s.ly % 16) (s.ly % 16) 1) 0

/-! ### The frame boundary of a context (R189, R190, R196, R216) -/

/-- Opal holds the decoded pictures that a frame draws, until its last row has been read (R174). -/
def Sys.holdPics (k : Int) (l : List Shown) (y : Sys) : Sys :=
  let hold := fun (f : LyFrame) (b : DecBuf) =>
    if b.fr.map LyFrame.id == some f.id && !b.holds.contains k then { b with holds := b.holds ++ [k] } else b
  y.each l fun s y => match s.frame with
    | some f => if f.decoded then y.onLy s.ly fun x => { x with pool := x.pool.map (hold f) } else y
    | none => y

/-- The frame of a context that begins at boundary k. -/
def Sys.cxBegin (c : Nat) (k : Int) (y : Sys) : Sys :=
  let f := cxFig y.val c
  let b := f.boundary k
  let r := (y.drawnOf y.val c).foldl (fun (r : List Shown × Sys) l =>
    let j := r.2.judgeLayer l (c / 4) b
    (r.1 ++ j.1.toList, j.2)) ([], y)
  let y := r.2.bump (Ob.CxFrameCount c) 1
  let fr : CxFrame := { k := k, boundary := b, origin := b + f.off, count := y.nat (Ob.CxFrameCount c), shown := r.1, stale := staleBits r.1 }
  ((y.onCx c fun x => { x with on := true, nextK := k + 1, frames := (x.frames ++ [fr]).drop (x.frames.length - 5) }).holdPics k r.1).cxRelease c

/-- The sets of a context that are due: at a boundary of a running context, or by themselves while it is off. -/
def Sys.cxDue (y : Sys) (c : Nat) : List Pend :=
  let x := y.cx c
  y.pend.filter fun (p : Pend) => p.key == Ob.CxCommit c &&
    (if x.on then atOrAfter ((cxFig y.val c).boundary x.nextK) p.at_
     else atOrAfter (y.cxNow c) p.at_)

/-- A context begins no more frames; the rows of earlier ones are composed to their end (R216). No layer of it is drawn any longer. -/
def Sys.cxOff (c : Nat) (y : Sys) : Sys :=
  let y := y.each (List.range 8) fun b y => y.switchView b (.cx c)
  let y := y.each (y.lysOf y.val c) fun l y => y.setInt (Ob.LyState l) 0
  ((((y.keepLocked c fun _ => true).onCx c fun x => { x with on := false }).cxRelease c).powerAll).tbSettle

/-- A context begins, or its rate or base changes, at an instant that lies `late` in the past: frames follow the new settings from
their first boundary. -/
def Sys.cxRestart (c : Nat) (late : Int) (y : Sys) : Sys :=
  let g := cxFig y.val c
  let y := y.each (List.range 8) fun b y => y.switchView b (.cx c)
  let k := firstFrom g.rn g.rd (y.tbNow g.tb - late)
  if atOrAfter (y.tbNow g.tb) (g.boundary k) then y.cxBegin c k else y.onCx c fun x => { x with on := true, nextK := k }

/-- CONTEXT_FRAME_BOUNDARY (R196, R216). -/
def Sys.cxBoundary (c : Nat) (y : Sys) : Sys :=
  let x := y.cx c
  let f := cxFig y.val c
  let now := y.cxNow c
  let b := f.boundary x.nextK
  if x.on ∧ (¬atOrAfter now b ∨ y.stepWaits (y.cxConsumer c) = true) then y
  else
    let due := y.cxDue c
    if ¬x.on ∧ due = [] then y
    else
      let y := y.each due (Sys.cxApply c)
      let g := cxFig y.val c
      if ¬y.flag (Ob.CxEnable c) then y.cxOff c
      else if x.on then
        if (g.rn, g.rd, g.tb) = (f.rn, f.rd, f.tb) then y.cxBegin c x.nextK else y.cxRestart c (now - b)
      else
        let at_ := (due.getLast?.map fun p => p.at_).getD 0
        let y := (y.onCx c fun x => { x with seq := y.freeNow % 2 ^ 32 }).fresh.setInt (Ob.CxFrameCount c) 0
        (y.cxRestart c (now - at_)).powerAll

/-! ### Rows and lines (R191, R192, R197, R218, R219) -/

/-- The map in which a frame of a context is timed, and the present in it. -/
def Sys.cxFrameNow (y : Sys) (c : Nat) (fr : CxFrame) : Int :=
  let t := y.tb (y.cxSet fr (Ob.CxTimeBase c)).nat
  (if fr.old then t.old.getD t.map else y.view (y.cxSet fr (Ob.CxTimeBase c)).nat (y.cxConsumer c)).read y.now

/-- ROW_LOCKED_JUDGEMENT (R197): at the late limit of context row 0. -/
def Sys.rowLocked (l : Nat) (y : Sys) : Sys :=
  let c := y.nat (Ob.LyContext l)
  let waits := fun (fr : CxFrame) => fr.shown.any fun s => s.ly == l && s.locked == 1
  match (y.cx c).frames.find? waits with
  | none => y
  | some fr =>
    let f := cxFig (y.cxSet fr) c
    if atOrAfter (y.cxFrameNow c fr) (fr.origin + f.slotEnd 0 + usU 8) then
      let x := y.ly l
      let live := x.frames.find? fun g => g.k == fr.k && g.row0
      let r := match live with
        | some g =>
          let r := y.lyReady l (c / 4) { ly := l, frame := some g, locked := 2 }
          (some r.1, r.2)
        | none => y.lyNotReady l (c / 4) { ly := l, locked := 3 } (newestDone x.frames none)
      let y := match r.1 with
        | some s => r.2.lyAged s
        | none => r.2
      y.onCxFrame c fr.k fun fr =>
        let shown := fr.shown.flatMap fun s => if s.ly = l then r.1.toList else [s]
        { fr with shown := shown, stale := fr.stale + staleBits (r.1.toList) }
    else y

/-- The packets of a composed line on one leg (R218, R219). -/
def Sys.linePackets (c : Nat) (fr : CxFrame) (line : Nat) (l : OutLeg) (y : Sys) : List Pkt :=
  let g := y.cxSet fr
  let f := cxFig g c
  let pp := max 2 (cxData (g (Ob.CxOutPayload c)).nat / 5 * 2)
  let n := ceilDiv f.wd pp
  (List.range n).map fun i =>
    let e := min ((i + 1) * pp) f.wd
    y.onLeg l (20 + (e - i * pp) / 2 * 5)
      { owner := .cx c, cls := (g (Ob.CxOutClass c)).nat, frame := fr.count, row := line / 64, seq := ((y.cx c).seq + i) % 2 ^ 32,
        ts := (fr.boundary * 90000 / (secU 1 : Int) % 2 ^ 32).toNat, marker := line + 1 == f.ht && i + 1 == n, bytes := 0,
        carry := .video c line, launch := fr.origin + dueAt f.wd f.ht f.rn f.rd line (e - 1) + usU 24, tb := f.tb, old := fr.old,
        ssrc := (g (Ob.CxOutSsrc c)).nat, pt := Config.payloadType 1 % 128, stored := false }

/-- Deliver a composed line to the bound channel's row buffer and to the packetizer, the same samples to both (R191, R199). -/
def Sys.deliverLine (c : Nat) (fr : CxFrame) (line : Nat) (px : List (Nat × Nat × Nat)) (y : Sys) : Sys :=
  let y := y.each (y.activeChans.filter fun n => (y.chan n).cx == some c) fun n y =>
    y.onFrame n fr.k fun f => f.place [{ line := line, off := 0, len := px.length / 2 * 5, px := px }]
  let legs := cxOutLegs (y.cxSet fr) c
  let n := (legs.head?.map fun l => (y.linePackets c fr line l).length).getD 0
  let y := y.each legs fun l y => y.each (y.linePackets c fr line l) fun k y => y.reserve l.port k
  (y.onCx c fun x => { x with seq := (x.seq + n) % 2 ^ 32 }).emit (.line c line px)

/-- Holds of a context frame on decoded pictures go with its last row (R174); a stopped source's picture that nobody holds is gone (R184). -/
def Sys.dropPics (c : Nat) (k : Int) (y : Sys) : Sys :=
  y.each (y.lysOf y.val c) fun l y => y.onLy l fun x => { x with pool := x.pool.map fun b => { b with holds := b.holds.filter fun h => h != k } }

/-- LINE_DEADLINE (R191, R192): the next line of the oldest frame being composed. `lost` are the ranges of pixels not composed; a layer that
is drawn over one of them has lost it. -/
def Sys.lineDeadline (c line : Nat) (lost : List (Nat × Nat)) (y : Sys) : Sys :=
  match ((y.cx c).frames.find? (y.cxOpen c)).filter fun fr => fr.next == line with
  | none => y
  | some fr =>
    let g := y.cxSet fr
    let f := cxFig g c
    if ¬atOrAfter (y.cxFrameNow c fr) (fr.origin + dueAt f.wd f.ht f.rn f.rd line (f.wd - 1) + usU 14) then y
    else
      let gone := (List.range f.wd).filter (lostAt lost)
      let late := !gone.isEmpty
      let hit := (fr.shown.map fun s => s.ly).filter fun l => gone.any fun x => insideDst g l x line
      let stale := hit.foldl (fun v l => setBits v (l % 16) (l % 16) 1) fr.stale
      let y := if late then y.bump (Ob.CxLateLines c) 1 else y
      let y := if late ∧ ¬fr.late then y.raise 0x0D06 (c / 4) c else y
      let y := y.onCxFrame c fr.k fun fr => { fr with next := line + 1, late := fr.late || late, stale := stale }
      let y := y.deliverLine c fr line (composeLine g c (y.cxPick fr) fr lost line)
      (if line + 1 = f.ht then y.dropPics c fr.k else y).cxRelease c

/-- LAYER_FRAME_COMPLETE (R195): the last line of the oldest frame being received is in the store. -/
def Sys.lyComplete (l : Nat) (y : Sys) : Sys :=
  match y.lyFlow l with
  | none => y
  | some c =>
    let f := lyFig y.val l c
    match (y.ly l).frames.find? fun fr => fr.done.isNone with
    | some fr => if fr.settledRows = f.rows then y.onLyFrame l fr.k fun fr => { fr with done := some (y.cxNow c) } else y
    | none => y

/-! ### DP0's layer sources (R177 to R185) -/

/-- The context of a layer that DP0 decodes. -/
def Sys.lyDec (y : Sys) (l : Nat) : Option Nat :=
  let c := y.nat (Ob.LyContext l)
  if c = 0xFF ∨ y.nat (Ob.LySource l) ≠ 2 ∨ y.nat (Ob.DecSource l) = 0 then none else some c

/-- A damaged picture is counted (R183). -/
def Sys.decDamaged (l : Nat) (y : Sys) : Sys := (y.bump (Ob.DecPicsDamaged l) 1).raise 0x0C03 (l / 16) l

/-- A buffer that is FREE: no mark, not needed for output, no hold (R172). -/
def DecBuf.free (b : DecBuf) : Bool := b.mark == 0 && !b.out && !b.recon && b.holds.isEmpty

/-- Every mark and flag of a pool goes: only buffers that Opal holds stay (R184). -/
def clearPool (l : List DecBuf) : List DecBuf :=
  l.map fun b => if b.holds.isEmpty then {} else { b with mark := 0, out := false, recon := false, avail := false }

/-- DP0 stops a source (R179, R184): cause 1 with the picture missing, 2 an unsupported stream. -/
def Sys.decStop (l cause : Nat) (poc : Option Int) (y : Sys) : Sys :=
  let y := match poc with
    | some p => y.setInt (Ob.DecMissingPoc l) p
    | none => y
  let y := ((y.setInt (Ob.DecStopCause l) cause).bump (Ob.DecStops l) 1).setInt (Ob.DecState l) 1
  (y.onLy l fun x => { x with pool := clearPool x.pool, missing := [], recovery := none, resync := true, cra := false }).raise
    (if cause = 1 then 0x0C02 else 0x0C05) (l / 16) l

/-- Whether a picture is an entry point (R185). -/
def isEntry (p : CodedPic) : Bool :=
  match p.kind with
  | .idr | .cra => true
  | .gdr => p.codec == 1
  | .recoveryPoint => p.codec == 0
  | .rasl | .other => false

/-- Whether DP0 supports a picture's stream (R179). A stream of the other codec than `DecCodec` names, of another profile or bit depth, or
interlaced, is none of the four and is decoded all the same (log entries 105, 106). -/
def Sys.decSupported (y : Sys) (l : Nat) (p : CodedPic) : Bool :=
  decide (p.width ≤ y.nat (Ob.DecMaxWidth l)) && decide (p.height ≤ y.nat (Ob.DecMaxHeight l)) &&
    decide (p.dpbMinus1 + 1 ≤ y.nat (Ob.DecMaxDpb l)) && (p.chroma == 1 || p.chroma == 2) && decide (p.level ≤ if p.codec = 0 then 186 else 102)

/-! ### The decoder pool (R172, R173, R181; output process of the standards, log entry 59) -/

/-- Whether a picture of that number can be referred to: a marked buffer that is not being written, and not recorded as missing (R184). -/
def Ly.hasRef (x : Ly) (poc : Int) : Bool := !x.missing.contains poc && x.pool.any fun b => b.poc == poc && b.mark != 0 && !b.recon

/-- Output the picture that is first in output order among those needed for output: it becomes available, and the first one after a stop
ends the recovery (R181, R185). -/
def Sys.decBump (l c : Nat) (y : Sys) : Sys :=
  let x := y.ly l
  match (x.pool.filter fun b => b.out).foldl (fun (m : Option Int) b => match m with
      | some p => some (min p b.poc)
      | none => some b.poc) none with
  | none => y
  | some p =>
    let now := y.cxNow c
    let y := y.setLy l { x with pool := x.pool.map fun b =>
      if b.out ∧ b.poc = p then { b with out := false, avail := true, fr := b.fr.map fun f => { f with done := some now } } else b }
    let y := if y.nat (Ob.DecState l) = 3 then y.setInt (Ob.DecState l) 2 else y
    if x.resync then (y.onLy l fun x => { x with resync := false }).raise 0x0C04 (l / 16) l else y

/-- Output pictures while the stream's limits ask for it: reorder, latency, and with `full` the number of pictures (R181). -/
def Sys.decBumps (l c : Nat) (p : CodedPic) (full : Bool) : Nat → Sys → Sys
  | 0, y => y
  | n + 1, y =>
    let out := (y.ly l).pool.filter fun b => b.out
    if out = [] then y
    else if p.reorder < out.length ∨ (p.latency ≠ 0 ∧ out.any fun b => decide (p.latency ≤ b.waits)) ∨
        (full = true ∧ p.dpbMinus1 + 1 ≤ ((y.ly l).pool.filter fun b => b.out || b.mark != 0).length) then
      (y.decBump l c).decBumps l c p full n
    else y

/-- Output every picture that waits. -/
def Sys.decFlush (l c : Nat) (y : Sys) : Sys := y.each (y.ly l).pool fun _ y => y.decBump l c

/-- DP0 takes up a picture: the marks it leaves to earlier pictures, the output before it, and the lowest-numbered buffer that is FREE already,
or else is then (R172, R173). An IDR, or the picture decoding starts at, leaves none. -/
def Sys.decTake (l c : Nat) (p : CodedPic) (first : Bool) (y : Sys) : Sys :=
  let freeIn := fun (x : Ly) => (List.range x.pool.length).find? fun i => (x.pool.getD i {}).free
  let before := freeIn (y.ly l)
  let y := if p.kind = .idr ∨ first then
      let y := if p.noPrior then y.onLy l fun x => { x with pool := x.pool.map fun b => { b with out := false } } else y.decFlush l c
      y.onLy l fun x => { x with pool := x.pool.map (fun b => { b with mark := 0 }), missing := [] }
    else
      (y.onLy l fun x => { x with pool := x.pool.map fun b =>
        { b with mark := if b.mark = 0 then 0 else if p.longs.contains b.poc then 2 else if p.keep.contains b.poc then b.mark else 0 } }).decBumps
        l c p true 18
  let x := y.ly l
  match before.or (freeIn x) with
  | some i => y.setLy l { x with pool := x.pool.set i { poc := p.poc, recon := true } }
  | none => y

/-- The next access units of a layer are taken up until one can be decoded (R184, R185); `fuel` is at least their number. -/
def Sys.decNext (l c : Nat) : Nat → Sys → Sys
  | 0, y => y
  | n + 1, y =>
    let x := y.ly l
    match x.queue with
    | [] => y
    | u :: rest =>
      let p := u.pic
      let skip := y.setLy l { x with queue := rest }
      if y.nat (Ob.DecState l) = 1 then
        if isEntry p then
          if y.decSupported l p then
            let at_ := match p.kind with
              | .gdr | .recoveryPoint => p.poc + p.recoveryCnt
              | _ => p.poc
            ((y.setLy l { x with recovery := some at_, missing := [], cra := p.kind == .cra }).setInt (Ob.DecState l) 3).decTake l c p true
          else (skip.decStop l 2 none).decNext l c n
        else skip.decNext l c n
      else if ¬y.decSupported l p then (skip.decStop l 2 none).decNext l c n
      else if p.kind = .rasl ∧ x.cra then y.decTake l c p false
      else match p.refs.find? fun r => !x.hasRef r with
        | some r => (skip.decStop l 1 (some r)).decNext l c n
        | none => y.decTake l c p false

/-- The picture DP0 works on for a layer goes, and the next is taken up. -/
def Sys.decPop (l c : Nat) (y : Sys) : Sys :=
  let y := y.onLy l fun x => { x with queue := x.queue.drop 1 }
  y.decNext l c ((y.ly l).queue.length)

/-- A picture is discarded: its buffer returns to FREE and its number is recorded as missing (R183). -/
def Sys.decDiscard (l : Nat) (p : CodedPic) (y : Sys) : Sys :=
  (y.onLy l fun x => { x with pool := x.pool.map (fun b => if b.recon then { b with recon := false, fr := none } else b),
                              missing := p.poc :: x.missing }).decDamaged l

/-- Whether a layer's picture is the one DP0 of its die works on: the earliest last packet (R177). -/
def Sys.decTurn (y : Sys) (l : Nat) (u : DecUnit) : Bool :=
  ((List.range 16).map fun i => 16 * (l / 16) + i).all fun o => match (y.ly o).queue.head? with
    | some v => decide (u.at_ < v.at_) || (u.at_ == v.at_ && decide (l ≤ o))
    | none => true

/-- A picture is decoded: it is marked for short-term reference, and waits for output when it may be shown (R172, R181, R182). -/
def Sys.decStore (l c : Nat) (u : DecUnit) (shown : Bool) (y : Sys) : Sys :=
  let x := y.ly l
  let p := u.pic
  let fr : LyFrame := { id := x.nextId, decoded := true, wd := p.width, ht := p.height, age := some u.age, chroma := p.chroma, depth := p.depth,
                        vui := p.vui, settledRows := ceilDiv p.height 64 }
  let y := y.setLy l { x with nextId := x.nextId + 1, missing := x.missing.filter (fun m => m != p.poc), pool := x.pool.map fun b =>
    if b.recon then { b with recon := false, mark := 1, out := shown, fr := some fr }
    else if shown && b.out && decide (p.poc < b.poc) then { b with waits := b.waits + 1 } else b }
  y.decBumps l c p false 18

/-- DECODE_PICTURE_COMPLETE (R181, R183, R185). -/
def Sys.decComplete (l : Nat) (ok : Bool) (y : Sys) : Sys :=
  match y.lyDec l, (y.ly l).queue with
  | some c, u :: _ =>
    if ¬y.decTurn l u then y
    else if !ok || u.damaged || !(y.ly l).pool.any fun b => b.recon then (y.decDiscard l u.pic).decPop l c
    else
      let p := u.pic
      let x := y.ly l
      let irap := p.kind = .idr ∨ p.kind = .cra
      let first := x.recovery == some p.poc && irap
      let reached := match x.recovery with
        | some r => decide (r ≤ p.poc)
        | none => true
      let shown := reached && p.output && !(p.kind == .rasl && x.cra)
      let y := (y.setLy l { x with cra := if irap ∧ ¬first then false else x.cra,
                                   recovery := if reached then none else x.recovery }).bump (Ob.DecPicsDecoded l) 1
      (y.decStore l c u shown).decPop l c
  | _, _ => y

/-- DECODE_OVERRUN (R183): not complete two frame periods after the last packet. -/
def Sys.decOverrun (l : Nat) (y : Sys) : Sys :=
  match y.lyDec l, (y.ly l).queue with
  | some c, u :: _ =>
    if u.at_ + 2 * lyPeriod y.val l ≤ y.now then ((y.decDiscard l u.pic).raise 0x0C07 (l / 16) l).decPop l c else y
  | _, _ => y

/-- A sequence number extended to 32 bits by counting wraps (R178). -/
def extendSeq (last : Option Nat) (s : Nat) : Nat :=
  match last with
  | none => s % 65536
  | some e =>
    let d := (s + 65536 - e % 65536) % 65536
    if d < 32768 then (e + d) % 2 ^ 32 else (e + 2 ^ 32 + d - 65536) % 2 ^ 32

/-- Whether a packet is of the stream a layer decodes: the form `DecSource` names, and of a transport stream the first video elementary
stream of `DecProgram` with the stream_type of a codec (R178). -/
def Sys.layerTakes (y : Sys) (l : Nat) (p : LayerPkt) : Bool :=
  p.form == y.nat (Ob.DecSource l) &&
    (p.form != 1 || (p.program == y.nat (Ob.DecProgram l) && p.firstVideo && (p.streamType == 0x24 || p.streamType == 0x33)))

/-- The legs of a source are judged when an access unit is complete (R82, R178; log entry 107). -/
def Sys.layerLegs (l : Nat) (y : Sys) : Sys :=
  let x := y.ly l
  let y := y.onLy l fun x => { x with auA := 0, auB := 0 }
  if y.nat (Ob.DecLegMode l) = 1 then
    let a := legJudge x.auA x.auB x.lostA
    let b := legJudge x.auB x.auA x.lostB
    ((y.onLy l fun x => { x with lostA := a.1, lostB := b.1 }).raiseOpt a.2 (l / 16) l).raiseOpt b.2 (l / 16) l
  else y

/-- A packet of a leg of a compressed layer source (R178, R183). -/
def Sys.layerTo (l c : Nat) (p : LayerPkt) (leg : Nat) (y : Sys) : Sys :=
  let y := y.onLy l fun x => if leg = 0 then { x with auA := x.auA + 1 } else { x with auB := x.auB + 1 }
  let x := y.ly l
  let e := extendSeq x.ext p.seq
  if x.seen.contains e then y
  else
    let stamp := y.cxNow c
    let ahead := match x.ext with
      | some v => decide ((e + 2 ^ 32 - v) % 2 ^ 32 < 2 ^ 31)
      | none => true
    let cut := p.begins && x.open_
    let fresh := p.begins || !x.open_
    let y := if cut then y.decDamaged l else y
    let x := { x with ext := if ahead then some e else x.ext, seen := (e :: x.seen).take 4096, open_ := p.complete.isNone,
                      ccGap := (if fresh then false else x.ccGap) || p.ccGap, auStart := if fresh then stamp else x.auStart }
    match p.complete with
    | none => y.setLy l x
    | some pic =>
      let u : DecUnit := { pic := pic, age := pic.tag.getD x.auStart, at_ := y.now, damaged := pic.damaged || x.ccGap }
      let y := (y.setLy l { x with queue := x.queue ++ [u] }).layerLegs l
      if x.queue.isEmpty then y.decNext l c 1 else y

/-- LAYER_PACKET_RX (R178). -/
def Sys.layerRx (p : LayerPkt) (y : Sys) : Sys :=
  y.each y.lyList fun l y => match y.lyDec l with
    | some c => y.eachLeg (legsHit y.val (Ob.DecPortA l) (y.nat (Ob.DecLegMode l) = 1) p.hdr) p.hdr fun leg y =>
        if y.layerTakes l p then y.layerTo l c p leg else y
    | none => y

/-! ### The commands -/

/-- LAYER_PACKET_RX (R178). -/
def execLayerPacketRx (dt : Nat) (pkt : LayerPkt) (s : State) : Res := act dt (Sys.layerRx pkt) s

/-- DECODE_PICTURE_COMPLETE (R183). -/
def execDecodePictureComplete (dt layer : Nat) (ok : Bool) (s : State) : Res := act dt (Sys.decComplete layer ok) s

/-- DECODE_OVERRUN (R183). -/
def execDecodeOverrun (dt layer : Nat) (s : State) : Res := act dt (Sys.decOverrun layer) s

/-- LAYER_FRAME_COMPLETE (R195). -/
def execLayerFrameComplete (dt layer : Nat) (s : State) : Res := act dt (Sys.lyComplete layer) s

/-- CONTEXT_FRAME_BOUNDARY (R196). -/
def execContextFrameBoundary (dt cx : Nat) (s : State) : Res := act dt (Sys.cxBoundary cx) s

/-- ROW_LOCKED_JUDGEMENT (R197). -/
def execRowLockedJudgement (dt layer : Nat) (s : State) : Res := act dt (Sys.rowLocked layer) s

/-- LINE_DEADLINE (R192). -/
def execLineDeadline (dt cx line : Nat) (lost : List (Nat × Nat)) (s : State) : Res := act dt (Sys.lineDeadline cx line lost) s

end Sys2Proof.Machine
end

