-- ==== Sys2Proof/Machine/Streams.lean ====
section
/-! DEFINITION. The access units of a channel: freshness tag, signature, ancillary SEI, the order of NAL units, the chain, and the RTP
packets of each row, of audio, and their launch times (R116, R242, R243, R245 to R257, R260, R317, R528). -/

namespace Sys2Proof.Machine

/-! ### NAL units (R135, R142, R250; NAL unit types other than those of SEI, log entry 44) -/

/-- Emulation prevention over a payload; `z` zeros stand before it. -/
def emulate : Nat → List Byte → List Byte
  | _, [] => []
  | z, b :: l =>
    if 2 ≤ z ∧ b.toNat ≤ 3 then BitVec.ofNat 8 3 :: b :: emulate (if b.toNat = 0 then 1 else 0) l
    else b :: emulate (if b.toNat = 0 then z + 1 else 0) l

/-- A NAL unit header of layer 0 and temporal identifier 0. -/
def nalHeader (codec h265 h266 : Nat) : List Byte := if codec = 0 then codes [2 * h265, 1] else codes [0, 8 * h266 + 1]

/-- A prefix SEI NAL unit with one user_data_unregistered message (R250). -/
def seiNal (codec uuid : Nat) (body : List Byte) : List Byte :=
  let n := 16 + body.length
  nalHeader codec 39 23 ++
    emulate 0 (codes ([5] ++ List.replicate (n / 255) 255 ++ [n % 255]) ++ beBytes 16 uuid ++ body ++ codes [0x80])

/-- A filler data NAL unit of n bytes (R142). -/
def fillerNal (codec n : Nat) : List Byte := nalHeader codec 38 25 ++ List.replicate (n - 3) (BitVec.ofNat 8 255) ++ codes [0x80]

/-- An end of sequence NAL unit. -/
def eosNal (codec : Nat) : List Byte := nalHeader codec 36 21

def tagUuid : Nat := 0x3c7a5e1984d24b0fa6c12f98d0e4b713
def sigUuid : Nat := 0x51d8b2e60f7c4a399e24b6a3c1705d8f
def ancUuid : Nat := 0x9e41c07b2d5a4f168b9361f0a4d2c85e

/-! ### The freshness tag (R89, R123, R210, R251, R252) -/

/-- The age of a CTU in a frame whose prefix is written: what the map holds once the CTU is coded or is known to keep its age, and
until then the capture time of the frame (log entry 60). -/
def Sys.ctuAge (y : Sys) (n : Nat) (fr : Frame) (r pc : Nat) : Option Int :=
  let f := y.fig n
  let c := y.chan n
  let x := (fr.row r).col (pc / f.ctus)
  let kept := (Tab.find (fun _ => none) c.ages (r * f.rowCtus + pc)).map fun a => if fr.old then a - c.ageShift else a
  if fr.frozen || x.done || decide (pc % f.ctus < x.ctu) || (fr.row r).conceal.contains pc then kept
  else match y.pixelAge n fr r pc with
    | some a => some a
    | none => kept

/-- The capture time of the oldest contributing pixel. -/
def Sys.oldestAge (y : Sys) (n : Nat) (fr : Frame) : Option Int :=
  let f := y.fig n
  (List.range f.rows).foldl (fun (a : Option Int) r => (List.range f.rowCtus).foldl (fun (a : Option Int) pc => older a (y.ctuAge n fr r pc)) a) none

/-- The die that encodes a frame; for a pair the lower one. -/
def Chan.dieOf (c : Chan) (k : Int) : Nat := ((c.pipesAt k).headD (c.die, 0)).1

/-- The seed h(−1) (R253). -/
def chainSeed (n : Nat) (boundary : Int) : List Byte :=
  shake256 (beBytes 16 tagUuid ++ codes [0, n] ++ beBytes 12 (time96 boundary))

/-- STALE (R44, R210, R251). -/
def Sys.staleOf (y : Sys) (n : Nat) (fr : Frame) : Nat :=
  if fr.frozen then 0xFFFF
  else match (y.chan n).cx with
    | some c => ((y.cxFrame c fr.k).map fun g => g.stale).getD 0
    | none => 0

/-- The 88 bytes of a tag (R251, R252). -/
def Sys.tagBytes (n : Nat) (fr : Frame) (missed : Bool) (y : Sys) : List Byte :=
  let c := y.chan n
  let f := y.fig n
  let first := c.firstBoundary.getD fr.boundary
  let age := y.oldestAge n fr
  let noSource := age.isNone || (c.cx.isNone && fr.legA == 0 && fr.legB == 0)
  let flag := fun (b : Bool) (v : Nat) => if b then v else 0
  let flags := flag fr.frozen 32 + flag noSource 16 + flag fr.discont 8 + flag missed 4 + flag (f.signs fr.n) 2 + flag (fr.n == 0) 1
  beBytes 16 tagUuid ++ codes [1, flags, c.dieOf fr.k, n, f.tb, (y.tbCfg f.tb (Ob.TbDomain f.tb)).toNat] ++
    beBytes 2 (y.staleOf n fr) ++ beBytes 8 fr.n ++ beBytes 12 (time96 (age.getD first)) ++ beBytes 12 (time96 fr.boundary) ++ c.chain

/-- The payload of a signature SEI after its UUID (R257). -/
def Sys.sigBody (y : Sys) (s : Sig) : List Byte :=
  let b := (Config.streamSign s.tag).take 1280
  codes [1, 0] ++ beBytes 4 y.part.streamKeyId ++ beBytes 8 s.frame ++ beBytes 2 b.length ++ b

/-- The ANC data of a frame that its prefix carries, from the first on: at most 255 packets (R247), while the SEI fits what the prefix
allows for it (log entry 94). -/
def ancFront (f : Fig) (l : List AncData) : List AncData :=
  let fits := fun n => n == 0 || decide ((seiNal f.codec ancUuid ((l.take n).flatMap AncData.raw)).length ≤ f.ancRoom)
  l.take (((List.range (min 255 l.length + 1)).filter fits).foldl max 0)

/-- The NAL units in front of the first slice in the order of R528; a signature goes along where one may and is ready. -/
def Sys.prefixOf (y : Sys) (fr : Frame) (f : Fig) (heads : List Head) (tag : List Byte) (sig : Option Sig) : List (List Byte) :=
  let part := fun (lo hi : Nat) => (heads.filter fun h => decide (lo ≤ h.unit.num) && decide (h.unit.num ≤ hi)).map Head.nal
  let anc := ancFront f fr.anc
  List.flatten [
    part 1 5, [seiNal f.codec tagUuid (tag.drop 16)], (sig.map fun s => seiNal f.codec sigUuid (y.sigBody s)).toList, part 6 10,
    if anc.isEmpty then [] else [seiNal f.codec ancUuid (anc.flatMap AncData.raw)], part 11 11]

/-- The access-unit prefix (R116): the oldest frame without one, at its D(0) (R254, R528). Garnet counts its bytes from then on (R135). -/
def Sys.writePrefix (n : Nat) (y : Sys) : Sys :=
  match (y.chan n).frames.find? fun fr => !fr.prefixDone with
  | none => y
  | some fr =>
    let f := y.fig n
    if ¬atOrAfter (y.frameNow n fr.old) (fr.origin + f.deadline 0) then y
    else
      let y := if fr.n = 0 then y.onChan n fun c => { c with chain := chainSeed n fr.boundary } else y
      let c := y.chan n
      let carried := c.sig.bind fun s => if s.ready && f.carriesSig fr.n then some s else none
      let missed := c.sig.isSome && carried.isNone
      let tag := y.tagBytes n fr missed
      let heads := fr.headsOf f c.alfFrom
      let nals := y.prefixOf fr f heads tag carried
      let late := fr.anc.length - (ancFront f fr.anc).length
      let y := y.onFrame n fr.k fun fr => Frame.closeRows { fr with heads := heads, prefixNals := nals, prefixLen := nalBytes nals, prefixDone := true } f
      let y := y.onChan n fun c =>
        { c with sig := if f.signs fr.n then some { frame := fr.n, tag := tag } else none, ancLate := c.ancLate + late }
      let y := if late = 0 then y else y.raiseOnce n fr.k 0x0908 (y.ingDie n)
      let y := if carried.isSome then y.bump (Ob.SigCount n) 1 else y
      let y := if missed then (y.bump (Ob.SigMissed n) 1).raise 0x0F02 (c.dieOf fr.k) n else y
      y.setInt (Ob.FtFrameCounter n) fr.n

/-- SIGNATURE_COMPLETE (R259). -/
def Sys.signDone (n : Nat) (y : Sys) : Sys := y.onChan n fun c => { c with sig := c.sig.map fun s => { s with ready := true } }

/-! ### Rows (R116, R142, R243, R253, R528) -/

/-- The NAL units of a row, with the prefix in row 0 and the end of sequence in the last. -/
def Frame.rowNals (fr : Frame) (f : Fig) (r : Nat) : List (List Byte) :=
  let w := fr.row r
  (if r = 0 then fr.prefixNals else []) ++ ((List.range f.tiles).map fun c => (w.col c).slice) ++
    (if w.filler = 0 then [] else [fillerNal f.codec w.filler]) ++ (if r + 1 = f.rows ∧ fr.eos then [eosNal f.codec] else [])

/-- A row is assembled (R116): the oldest frame whose row is coded whole, at the row's deadline. Its filler is counted then. -/
def Sys.assemble (n r : Nat) (y : Sys) : Sys :=
  let f := y.fig n
  match (y.chan n).frames.find? fun fr => decide (r < f.rows) && !(fr.row r).assembled with
  | none => y
  | some fr =>
    if fr.prefixDone ∧ (r = 0 ∨ (fr.row (r - 1)).assembled) ∧ (fr.row r).whole f.tiles ∧
        atOrAfter (y.frameNow n fr.old) (fr.origin + f.deadline r) then
      let fill := (fr.row r).filler
      let y := if fill = 0 then y else y.bump (Ob.RcFillerBytes n) fill
      (y.onFrame n fr.k fun fr => fr.onRow r fun w => { w with assembled := true }).freeOld n
    else y

/-- h(k) from h(k − 1) and the NAL units of the access unit (R253). -/
def chainNext (h : List Byte) (nals : List (List Byte)) : List Byte := shake256 (h ++ nals.flatMap fun u => beBytes 4 u.length ++ u)

/-- The last row of a frame is absorbed: h(k) is final (R254). -/
def Sys.closeChain (n : Nat) (fr : Frame) (y : Sys) : Sys :=
  let f := y.fig n
  let h := chainNext (y.chan n).chain ((List.range f.rows).flatMap (fr.rowNals f))
  (y.onChan n fun c => { c with chain := h }).setBytes (Ob.FtChainHead n) h

/-! ### Transport stream (R245, R246; ISO/IEC 13818-1 where the spec names its fields, log entry 45) -/

/-- The count of a clock at an instant. -/
def ticksAt (hz : Nat) (t : Int) : Int := t * hz / (secU 1 : Int)

/-- PTS of a frame: its boundary, `ChIngestOffset`, P and L, rounded up. -/
def Fig.pts (f : Fig) (boundary : Int) : Nat :=
  let t : Rat := ((boundary + (f.off : Int)) : Int) / (secU 1 : Nat) + ((f.rd * (f.ht + 64 * f.lat) : Nat) : Rat) / (f.rn * f.ht : Nat) +
    (40 : Rat) / 1000000
  (ratCeil (t * 90000) % 2 ^ 33).toNat

/-- The header of a video PES packet: stream_id 0xE0, no length, data alignment, PTS only. -/
def pesHeader (pts : Nat) : List Byte :=
  codes [0, 0, 1, 0xE0, 0, 0, 0x84, 0x80, 5, 0x21 + pts / 2 ^ 30 * 2, pts / 2 ^ 22 % 256, pts / 2 ^ 15 % 128 * 2 + 1, pts / 2 ^ 7 % 256,
    pts % 128 * 2 + 1]

/-- Cut a list into pieces of k; `fuel` is at least its length. -/
def pieces {α : Type} (k : Nat) : Nat → List α → List (List α)
  | 0, _ => []
  | n + 1, l => if l.isEmpty then [] else l.take k :: pieces k n (l.drop k)

/-- Transport-stream packets: PID and PES bytes. The first of a row carries the PCR and 176 bytes at most, any other 184. -/
def videoTs (pid : Nat) (b : List Byte) : List (Nat × List Byte) := (b.take 176 :: pieces 184 b.length (b.drop 176)).map fun d => (pid, d)

/-- Number the packets of each PID. -/
def numberTs : Tab Nat → List (Nat × List Byte) → List (Nat × Nat) × Tab Nat
  | cc, [] => ([], cc)
  | cc, p :: l =>
    let v := Tab.find (fun _ => 0) cc p.1
    let r := numberTs (Tab.put (fun _ => 0) cc p.1 ((v + 1) % 16)) l
    ((p.1, v) :: r.1, r.2)

/-- The tables of a channel's program (R245, R246); the format identifier of audio is "BSSD". -/
def Sys.tablesOf (y : Sys) (n : Nat) : Tables :=
  let f := y.fig n
  let v := fun k => y.cfgN n k
  let es := (y.streams (y.cfg n) n).length
  { tsId := v (Ob.OutTsId n), program := v (Ob.OutProgram n), pmt := v (Ob.OutPmtPid n), pcr := v (Ob.OutVidPid n),
    streams := (v (Ob.OutVidPid n), if f.codec = 0 then 0x24 else 0x33, none) ::
      (List.range es).map fun i => (v (Ob.OutAudPidBase n) + i, 0x06, some 0x42535344) }

/-- What the RTP packets of a row carry in mode 1. -/
def Sys.tsCarries (y : Sys) (n : Nat) (fr : Frame) (r : Nat) (pcrAt : Int) : List Carry × Tab Nat :=
  let f := y.fig n
  let v := fun k => y.cfgN n k
  let es := (if r = 0 then pesHeader (f.pts fr.boundary) else []) ++ (fr.rowNals f r).flatMap fun u => codes [0, 0, 0, 1] ++ u
  let pk := (if r = 0 then [(0, []), (v (Ob.OutPmtPid n), [])] else []) ++ videoTs (v (Ob.OutVidPid n)) es
  let num := numberTs (y.chan n).cc pk
  let groups := (pieces 7 pk.length pk).zip (pieces 7 pk.length num.1)
  (groups.zipIdx.map fun g =>
    let first := g.2 == 0
    .ts g.1.2 (if first && r == 0 then some (y.tablesOf n) else none)
      (if first then some (ticksAt 27000000 pcrAt % (2 ^ 33 * 300)).toNat else none) (first && r == 0 && fr.discont)
      (g.1.1.flatMap Prod.snd), num.2)

/-! ### ST 2110-22 (R248; payload headers, log entry 45) -/

/-- A packet of whole NAL units. -/
def wholeUnits (l : List (List Byte)) : List Carry :=
  match l with
  | [] => []
  | [u] => [.single u]
  | l => [.aggregate l]

/-- The fragments of a NAL unit from an offset on; `fuel` is at least their number. -/
def fragments (u : Nat) (nal : List Byte) : Nat → Nat → List Carry
  | 0, _ => []
  | n + 1, o => if nal.length ≤ o then [] else .fragment nal o (min u (nal.length - o)) :: fragments u nal n (o + u)

/-- Pack the NAL units of a row; `cur` is the packet being filled. -/
def packUnits (u : Nat) : List (List Byte) → List (List Byte) → List Carry
  | cur, [] => wholeUnits cur
  | cur, x :: l =>
    if u < x.length then wholeUnits cur ++ fragments u x (x.length + 1) 0 ++ packUnits u [] l
    else if nalBytes cur + x.length ≤ u then packUnits u (cur ++ [x]) l
    else wholeUnits cur ++ packUnits u [x] l

/-! ### Packets of a row (R242, R243, R245, R248, R249) -/

/-- Reserve the launch of identical packets on each leg (R249, R273). -/
def Sys.sendOn (legs : List OutLeg) (k : Pkt) (y : Sys) : Sys :=
  y.each legs fun l y => y.reserve l.port (y.onLeg l (rtpBytes k.carry) k)

/-- Send packets of a channel under the next sequence numbers (R242). -/
def Sys.sendRtp (n : Nat) (l : List Pkt) (y : Sys) : Sys :=
  let ext := (y.chan n).rtpSeq
  let y := y.onChan n fun c => { c with rtpSeq := ext + l.length }
  y.each l.zipIdx fun e y =>
    y.sendOn (chOutLegs (y.cfg n) n)
      { e.1 with ext := ext + e.2, seq := (ext + e.2) % 65536, ssrc := y.cfgN n (Ob.OutSsrc n), pt := y.cfgN n (Ob.OutPayloadType n) }

/-- The packets of an assembled row, spaced evenly over its output slot. -/
def Sys.packRow (n : Nat) (fr : Frame) (r : Nat) (y : Sys) : Sys :=
  let f := y.fig n
  let sl := f.outSlot r
  let s := fr.origin + (sl.1 : Int)
  let ts := y.tsCarries n fr r s
  let l := if f.out = 1 then ts.1 else packUnits f.unit [] (fr.rowNals f r)
  let cls := y.cfgN n (Ob.OutClass n)
  let y := y.onChan n fun c => { c with cc := if f.out = 1 then ts.2 else c.cc }
  y.sendRtp n (l.zipIdx.map fun e =>
    let at_ : Int := s + ((e.2 * (sl.2 - sl.1) / max 1 l.length : Nat) : Int)
    { owner := .ch n, cls := cls, frame := fr.n, row := r, ts := (ticksAt 90000 (if f.out = 1 then at_ else fr.boundary) % 2 ^ 32).toNat,
      marker := f.out == 2 && r + 1 == f.rows && e.2 + 1 == l.length, bytes := 0, carry := e.1, launch := at_, tb := f.tb, old := fr.old,
      slot := some (s, fr.origin + (sl.2 : Int)) })

/-- A row is packed: the oldest frame whose row is assembled and not yet packed; earlier rows come first (R243, R254). -/
def Sys.build (n r : Nat) (y : Sys) : Sys :=
  let f := y.fig n
  match (y.chan n).frames.find? fun fr => decide (r < f.rows) && !(fr.row r).final with
  | none => y
  | some fr =>
    if (fr.row r).assembled ∧ (r = 0 ∨ (fr.row (r - 1)).final) then
      let y := (y.packRow n fr r).onFrame n fr.k fun fr => fr.onRow r fun w => { w with final := true }
      if r + 1 = f.rows then y.closeChain n fr else y
    else y

/-! ### Audio in a transport stream (R240, R245, R246; SMPTE ST 302, log entry 113) -/

/-- So many bits of a number, least significant first. -/
def bitsUp (n v : Nat) : List Bool := (List.range n).map (bit v)

/-- A sample in its sub-frame: its bits, least significant first, and the V, U, C and F bits. -/
def aesBitsOf (bits : Nat) (num : Int) (chan v : Nat) : List Bool := bitsUp bits v ++ bitsUp 4 (Config.aesBits num chan)

/-- Eight bits as a byte, the first the most significant. -/
def byteOf (l : List Bool) : Byte := BitVec.ofNat 8 (l.foldl (fun a b => 2 * a + b.toNat) 0)

/-- The audio of a sample number: pairs of sub-frames, a silent one after an odd last channel. -/
def aesFrame (bits : Nat) (num : Int) (vals : List Nat) : List Byte :=
  let padded := vals ++ List.replicate (vals.length % 2) 0
  let l := padded.zipIdx.flatMap fun e => aesBitsOf bits num e.2 e.1
  (pieces 8 l.length l).map byteOf

/-- The header of an audio element: bytes of audio, channels in pairs, channel 0 first, and bits per sample. -/
def aesHeader (bytes chans bits : Nat) : List Byte :=
  let w := ((chans + 1) / 2 - 1) * 2 ^ 14 + (if bits = 16 then 0 else 2) * 16
  beBytes 2 bytes ++ beBytes 2 w

/-- The PES packet of a block: private stream 1, aligned, with the PTS of its first sample; samples by number. -/
def audioPes (pts chans bits : Nat) (l : List (Int × List Nat)) : List Byte :=
  let data := l.flatMap fun s => aesFrame bits s.1 s.2
  codes [0, 0, 1, 0xBD] ++ beBytes 2 (8 + 4 + data.length) ++ (pesHeader pts).drop 6 ++ aesHeader data.length chans bits ++ data

/-- A block of an elementary stream: its samples by number, and the capture or sampling instant of the first. -/
structure EsBlock where
  first : Int
  at_ : Int
  samples : List (Int × List Nat)
deriving DecidableEq, Repr

/-- The words of a buffer, TDM frame by TDM frame. -/
def AuBuf.rows (b : AuBuf) : List (List Nat) := pieces (max 1 (maskSlots b.mask).length) b.words.length b.words

/-- The oldest buffer of a port that an elementary stream has not read (R235, R240). -/
def Sys.portBlock (y : Sys) (e : Es) : Option EsBlock :=
  ((y.au (e.src - 16)).ring.find? fun b => !b.read.contains (e.first / 8)).map fun b =>
    { first := b.frame, at_ := tickTime 48000 b.frame
      samples := b.rows.zipIdx.map fun r => (b.frame + r.2, ((r.1.drop e.first).take e.chans).map fun w => w / 2 ^ (32 - e.bits)) }

/-- The first sample of a flow in a run: at or after the first frame boundary. -/
def Sys.flowFirst (y : Sys) (n f : Nat) : Option Int :=
  (y.chan n).firstBoundary.map fun b => -(-b * (y.audHz n f : Int) / (secU 1 : Int))

/-- The next millisecond of a flow for an elementary stream, once each of its samples is there or replaced. The blocks follow one another
from the first sample of the run on (log entry 114). -/
def Sys.flowBlock (y : Sys) (n pid : Nat) (e : Es) : Option EsBlock :=
  let c := y.chan n
  (y.flowFirst n e.src).bind fun a =>
    let s := max a (Tab.find (fun _ => a) c.esNext pid)
    let nums := (List.range e.samples).map fun (i : Nat) => s + (i : Int)
    if nums.all fun i => y.audioThere n e.src i then
      some { first := s, at_ := tickTime 48000 s
             samples := nums.map fun i => (i, ((y.audioAt n e.src i).drop e.first |>.take e.chans).map fun v => (v % 2 ^ e.bits).toNat) }
    else none

/-- The launch of an audio block on the base of the frame clock: 50 µs after the edge that follows its last sample. A flow's sample comes
when it is due (R94). -/
def Sys.audLaunch (y : Sys) (n : Nat) (e : Es) (last : Int) : Int :=
  let b := y.nat Ob.AuTimeBase
  let hz := y.nat Ob.AuFrameRate * 1000
  let edge := if 16 ≤ e.src then tickTime hz (last + 1)
    else
      let due := tickTime 48000 last + nsU (y.cfgN n (Ob.IngAudOffset n e.src))
      let v := if b = (y.fig n).tb then due else (y.tb b).map.read ((y.frameMap n false).when due)
      tickTime hz (ticksAt hz v + 1)
  edge + usU 50

/-- The view in which a block of audio falls: the one whose present its launch is closer to (R315). -/
def Sys.audOld (y : Sys) (n b : Nat) (launch : Int) : Bool :=
  match (y.tb b).old with
  | some m => decide ((launch - m.read y.now).natAbs < (launch - y.nowFor b (.ch n)).natAbs)
  | none => false

/-- What the channel's base reads at a launch on another base. -/
def Sys.launchOn (y : Sys) (n b : Nat) (launch : Int) : Int :=
  if b = (y.fig n).tb then launch else (y.frameMap n false).read ((y.tb b).map.when launch)

/-- A block goes out as one PES packet in RTP packets of its own. -/
def Sys.packBlock (n pid : Nat) (e : Es) (b : EsBlock) (y : Sys) : Sys :=
  let c := y.chan n
  let f := y.fig n
  let last := b.first + b.samples.length - 1
  let tb := y.nat Ob.AuTimeBase
  let launch := y.audLaunch n e last
  let old := y.audOld n tb launch
  let pes := audioPes (f.pts b.at_) e.chans e.bits b.samples
  let pk := (pieces 184 pes.length pes).map fun d => (pid, d)
  let num := numberTs c.cc pk
  let groups := (pieces 7 pk.length pk).zip (pieces 7 pk.length num.1)
  let disc := c.audDisc.contains pid && !old
  let ts := (ticksAt 90000 (y.launchOn n tb launch) % 2 ^ 32).toNat
  let cls := y.cfgN n (Ob.OutClass n)
  let y := y.onChan n fun c => { c with cc := num.2, audDisc := if disc then c.audDisc.filter fun p => p != pid else c.audDisc }
  y.sendRtp n (groups.zipIdx.map fun g =>
    { owner := .ch n, cls := cls, ts := ts, bytes := 0, carry := .ts g.1.2 none none (disc && g.2 == 0) (g.1.1.flatMap Prod.snd),
      launch := launch, tb := tb, old := old })

end Sys2Proof.Machine
end

