-- ==== Sys2Proof/Machine/Send.lean ====
section
/-! DEFINITION. Retransmission on request, and port commits (R263 to R266, R276, R282, R283, R289, R290). -/

namespace Sys2Proof.Machine

/-! ### NACKs (R263 to R266) -/

/-- The sequence numbers an FCI entry names: PID, then the set bits of BLP from bit 0 up. -/
def named (e : Nat × Nat) : List Nat := e.1 % 65536 :: ((List.range 16).filter fun i => bit e.2 i).map fun i => (e.1 + 1 + i) % 65536

/-- Packets requested and not yet resent on a die. -/
def Sys.requested (y : Sys) (d : Nat) : Nat :=
  ((y.net.queues.filter fun q => q.die == d && q.kind == 2).map fun q => q.pkts.length).foldl (· + ·) 0

/-- The bucket of a channel's resends, filled to now (R265). -/
def Sys.rtxTokens (y : Sys) (n : Nat) : Int :=
  let c := y.chan n
  min ((y.cfgN n (Ob.RtxBurst n) * 65536 : Nat) : Int) (c.tokens + ((y.now - c.tokensAt) * y.cfgN n (Ob.RtxRateMax n) / 8000000000 : Nat))

/-- The stored packet that a number names, while it may be resent (R264). -/
def Sys.rtxFind (y : Sys) (n d s : Nat) : Option RtxSlot :=
  let c := y.chan n
  let m := y.view (y.fig n).tb (.ch n)
  ((Tab.find (fun _ => []) c.rtx d).find? fun e => e.1 == s % max 1 c.rtxK && e.2.seq == s &&
    decide (m.read y.now - m.read e.2.launch ≤ msU c.rtxEff)).map Prod.snd

/-- One number of a NACK is served: the packet goes from the leg's address and port to the sender of the NACK (R264, R265). -/
def Sys.resend (n : Nat) (l : OutLeg) (h : PktHdr) (mac s : Nat) (y : Sys) : Sys :=
  let d := portDie l.port
  match y.rtxFind n d s with
  | none => y.bump (Ob.RtxMiss n) 1
  | some e =>
    let k := y.onLeg { l with dst := h.src, udp := h.srcUdp } (rtpBytes e.pkt.carry) e.pkt
    let need : Int := ((y.counted l.port k.bytes * 65536 : Nat) : Int)
    let have_ := y.rtxTokens n
    if have_ < need then (y.bump (Ob.RtxRateDropped n) 1).raiseLimited 0x0F04 n d n
    else
      let y := y.onChan n fun c => { c with tokens := have_ - need, tokensAt := y.now }
      match y.net.queues.find? fun q => q.port == l.port && q.owner == .ch n && q.kind == 2 with
      | none => y
      | some q => (y.enqueue q { k with cls := q.cls, src := y.legAddr l, mac := mac, slot := none, stored := false }).2

/-- GENERIC_NACK for one channel: the leg on the port answers (R263, R266). While 1,024 requested packets wait on the die the NACK is
discarded; of one that names more than there is room for, the rest counts as missed (log entry 115). -/
def Sys.nackTo (n : Nat) (h : PktHdr) (ssrc mac : Nat) (fci : List (Nat × Nat)) (y : Sys) : Sys :=
  let g := y.cfg n
  match (chOutLegs g n).find? fun l => l.port == h.port && h.dst == y.legAddr l with
  | none => y
  | some l =>
    if (g (Ob.OutRtcpUdp n)).nat ≠ h.udp ∨ (g (Ob.OutSsrc n)).nat ≠ ssrc then y
    else
      let y := y.bump (Ob.RtxNackRx n) 1
      let all := fci.flatMap named
      let d := portDie h.port
      let room := 1024 - y.requested d
      if (y.chan n).rtxK = 0 then y.bump (Ob.RtxMiss n) all.length
      else if room = 0 then (y.bump (Ob.RtxQueueDropped n) 1).raiseLimited 0x0F05 d d n
      else (y.each (all.take room) (Sys.resend n l h mac)).bump (Ob.RtxMiss n) (all.length - room)

/-- GENERIC_NACK (R264): launches that are due write their slots first (R266). -/
def Sys.nack (h : PktHdr) (ssrc mac : Nat) (fci : List (Nat × Nat)) (y : Sys) : Sys :=
  if y.portUp h.port then ((y.choose h.port).each y.activeChans fun n y => y.nackTo n h ssrc mac fci).choose h.port else y

/-! ### Port commits (R276, R282, R283, R289, R290) -/

/-- The set a commit of a port covers. -/
def portOwns (p k : Nat) : Bool :=
  k / 256 == Ob.PortCommit p / 256 && ((decide (1 ≤ k % 256) && decide (k % 256 ≤ 9)) || (decide (0x10 ≤ k % 256) && decide (k % 256 ≤ 0x1F)))

/-- The checks of R290 in order. -/
def Sys.portCommitChecks (y : Sys) (p : Nat) (g : Nat → Val) : List (Bool × Nat) :=
  let l := gclOf g p
  let on := (g (Ob.GclEnable p)).nat == 1
  let now := y.tbNow (g (Ob.PortTimeBase p)).nat
  let near := (ofTime96 (g (Ob.GclBaseTime p)).nat - now).natAbs ≤ secU (39 * 3600)
  [(!on || ((l.all fun e => decide (64 ≤ e.2) && decide (e.2 ≤ 1000000000)) && decide (gclCycle l ≤ 1000000000) && decide near), 0x1022),
   ((List.range 8).all fun c => decide ((g (Ob.PortClassRate p c)).nat ≤ y.portRate p), 0x1023),
   (y.net.queues.all fun q => q.port != p || decide (2 < q.kind) || classOpen g p q.cls, 0x1020)]

/-- The commit boundary X (R289), on the new `PortTimeBase`. -/
def Sys.portX (y : Sys) (p : Nat) (g : Nat → Val) : Int :=
  let t := y.tbNow (g (Ob.PortTimeBase p)).nat + usU 250
  if (g (Ob.GclEnable p)).nat = 1 then
    let b := ofTime96 (g (Ob.GclBaseTime p)).nat
    let c : Int := nsU (max 1 (gclCycle (gclOf g p)))
    if atOrAfter b t then b else b + (tdiff t b + c - 1) / c * c
  else (t + usU 125 - 1) / usU 125 * usU 125

/-- A write of 1 to PortCommit (R289, R290). -/
def Sys.portCommit (p : Nat) (y : Sys) : WriteRes :=
  let own := portOwns p
  let g := y.checkVal own
  match firstFail (y.portCommitChecks p g) with
  | some r => y.refuseCommit (Ob.PortCommit p) r 0x1002 (portDie p) p
  | none => accept (y.acceptCommit (Ob.PortCommit p) own (y.portX p g))

/-- A class's shaper at X (R282, R283). -/
def Cls.recommit (x : Cls) (now rate burst : Nat) : Cls :=
  let on := x.shaped now
  let n := x.count now
  if rate ≠ 0 then
    { x with tokens := if on then min n ((burst * 65536 : Nat) : Int) else ((burst * 65536 : Nat) : Int), at_ := now, rate := rate, burst := burst, ending := false }
  else if on ∧ n < 0 then { x with tokens := n, at_ := now, burst := burst, ending := true }
  else { x with tokens := ((burst * 65536 : Nat) : Int), at_ := now, rate := 0, burst := burst, ending := false }

/-- A class's shaper takes its rate and burst at X; in debt it enters its eligible time on the wheel (R282). -/
def Sys.recommit (p c : Nat) (y : Sys) : Sys :=
  let x := (y.cls p c).recommit y.now (y.nat (Ob.PortClassRate p c)) (y.nat (Ob.PortClassBurst p c))
  let y := y.setCls p c x
  if x.shaped y.now ∧ x.tokens < 0 then y.enterWheel p (some c) x.eligible else y.leaveWheel p c

/-- A set of a port applies at its X. -/
def Sys.portApply (p : Nat) (q : Pend) (y : Sys) : Sys :=
  let y := { y with pend := y.pend.filter fun (o : Pend) => !(o.key == q.key && o.at_ == q.at_) }
  let y := y.applySet q.set
  let y := y.each (List.range 8) (Sys.recommit p)
  let y := y.mapQueues fun o =>
    if o.port = p ∧ o.kind = 3 then { o with cls := y.nat (Ob.PortPtpClass p) }
    else if o.port = p ∧ o.kind = 4 then { o with cls := y.nat (Ob.PortCtlClass p) } else o
  let y := ((y.bump (Ob.PortCommitCount p) 1).setInt (Ob.GclApplied p) (time96 q.at_)).raise 0x1001 (portDie p) p
  (if y.pend.any fun o => o.key == q.key then y else y.setInt (Ob.PortCommitState p) 0).headTests p

/-- PORT_COMMIT_BOUNDARY (R289). -/
def Sys.portBoundary (p : Nat) (y : Sys) : Sys :=
  let due := y.pend.filter fun (q : Pend) => q.key == Ob.PortCommit p &&
    atOrAfter (y.tbNow (y.ofSet q.set (Ob.PortTimeBase p)).nat) q.at_
  if due.isEmpty then y else ((y.each due (Sys.portApply p)).tbSettle).choose p

/-! ### The commands -/

/-- SIGNATURE_COMPLETE (R259). -/
def execSignatureComplete (dt ch : Nat) (s : State) : Res := act dt (Sys.signDone ch) s

/-- PORT_COMMIT_BOUNDARY (R289). -/
def execPortCommitBoundary (dt port : Nat) (s : State) : Res := act dt (Sys.portBoundary port) s

/-- GENERIC_NACK (R264). -/
def execGenericNack (dt : Nat) (hdr : PktHdr) (ssrc srcMac : Nat) (fci : List (Nat × Nat)) (s : State) : Res :=
  act dt (Sys.nack hdr ssrc srcMac fci) s

end Sys2Proof.Machine
end

