-- ==== Sys2Proof/Machine/Audio.lean ====
section
/-! DEFINITION. The TDM audio ports: frame clock, ring buffers, commits, overrun and underrun, and the streams they send (R221 to R240). -/

namespace Sys2Proof.Machine

/-! ### Figures (R222, R224, R228, R229) -/

/-- Frames per second. -/
def Sys.auHz (y : Sys) : Nat := y.nat Ob.AuFrameRate * 1000

/-- The present on the frame clock's time base, as a port sees it. -/
def Sys.auNow (y : Sys) (p : Nat) : Int := y.nowFor (y.nat Ob.AuTimeBase) (.audio p)

/-- The first frame whose instant is at or after t. -/
def frameFrom (hz : Nat) (t : Int) : Int :=
  let f := t * hz / (secU 1 : Int)
  if tickTime hz f < t then f + 1 else f

/-- B (R228). -/
def blockFrames (g : Nat → Val) (hz p : Nat) : Nat := max 1 ((g (Ob.AuBlock p)).nat * hz / 1000000)

/-- The end of the block that holds a frame. -/
def blockEnd (b : Nat) (f : Int) : Int := (f / (b : Int) + 1) * (b : Int)

/-- The bit clock (R222). -/
def auBclk (g : Nat → Val) (hz p : Nat) : Nat := hz * (g (Ob.AuSlots p)).nat * (g (Ob.AuSlotWidth p)).nat

/-- The SRAM of a ring (R229). -/
def ringBytes (g : Nat → Val) (hz p : Nat) : Nat :=
  if (g (Ob.AuEnable p)).nat = 1 then (g (Ob.AuRingBuffers p)).nat * (ceilDiv (16 + 4 * 32 * blockFrames g hz p) 64 * 64) else 0

/-- The enabled slots of a reading. -/
def auSlots (g : Nat → Val) (p : Nat) : List Nat := maskSlots (g (Ob.AuSlotMask p)).nat

/-! ### The commit (R226, R231 to R236, R239, R240, R276) -/

/-- The set a commit of an audio port covers. -/
def auOwns (p k : Nat) : Bool :=
  (k / 256 == Ob.AuEnable p / 256 && decide (1 ≤ k % 256) && decide (k % 256 ≤ 0x13)) ||
    (k / 256 == Ob.AuOutMode p / 256 && decide (1 ≤ k % 256) && decide (k % 256 ≤ 0x0E))

/-- What may not change while a port is enabled (R233). -/
def auFixed (p : Nat) : List Nat :=
  [Ob.AuDirection p, Ob.AuSlots p, Ob.AuSlotWidth p, Ob.AuSampleBits p, Ob.AuDataOffset p, Ob.AuFsWidth p, Ob.AuFsPolarity p,
   Ob.AuBclkInvert p, Ob.AuBlock p, Ob.AuRingBuffers p, Ob.AuChannel p]

/-- Whether the rings of a die fit beside a new set: what the row-buffer region and lost rows leave (R85, R229; log entry 62). -/
def Sys.ringsFit (y : Sys) (p : Nat) (g : Nat → Val) : Bool :=
  let d := p / 4
  let hz := y.auHz
  let others := ((List.range 4).map fun i => 4 * d + i).filter fun q => q != p
  let held := (others.map fun q => ((y.readings (Ob.AuCommit q)).map fun h => ringBytes h hz q).foldl max 0).foldl (· + ·) 0
  decide (held + ringBytes g hz p + (y.die d).sramLost ≤ 21 * 2 ^ 20)

/-- The rate of the ingest flow an output port plays, as its channel has it. -/
def Sys.flowRate (y : Sys) (g : Nat → Val) (p : Nat) : Option Nat :=
  let n := (g (Ob.AuChannel p)).nat
  let k := Ob.IngAudRate n (g (Ob.AuSourceFlow p)).nat
  if n < 16 * y.part.dies then some (if (y.chan n).run = 0 then y.nat k else y.cfgN n k) else none

/-- The source and stream mapping of a set (R236, R239, R240). -/
def Sys.auMapOk (y : Sys) (p : Nat) (g : Nat → Val) : Bool :=
  let v := fun k => (g k).nat
  let s := (auSlots g p).length
  let n := v (Ob.AuChannel p)
  if v (Ob.AuEnable p) ≠ 1 then true
  else if v (Ob.AuDirection p) = 1 then y.flowRate g p == some (y.nat Ob.AuFrameRate)
  else
    (v (Ob.AuOutMode p) == 0 || (decide (1 ≤ s) && (y.nat Ob.AuFrameRate != 96 || v (Ob.AuOutPtime p) != 1000 || decide (s ≤ 8)))) &&
    (v (Ob.AuTsCarry p) == 0 || (y.nat Ob.AuFrameRate == 48 && decide (n < 16 * y.part.dies) &&
      decide ((((List.range (4 * y.part.dies)).filter fun q => q != p).map fun q =>
        ((y.readings (Ob.AuCommit q)).map fun h => (auStreams h q n).length).foldl max 0).foldl (· + ·) (auStreams g p n).length ≤ 4)))

/-- The checks of R234 in order. -/
def Sys.auChecks (y : Sys) (p : Nat) (g : Nat → Val) : List (Bool × Nat) :=
  let v := fun k => (g k).nat
  let on := y.flag (Ob.AuEnable p)
  let outs := auOutLegs g p
  let carried := y.nat (Ob.AuDirection p) == 0 && (y.nat (Ob.AuOutMode p) != 0 || y.nat (Ob.AuTsCarry p) == 1)
  [(decide (auBclk g y.auHz p ≤ 49152000) && decide (v (Ob.AuSampleBits p) ≤ v (Ob.AuSlotWidth p)) &&
      decide (v (Ob.AuDataOffset p) < v (Ob.AuSlots p) * v (Ob.AuSlotWidth p)), 0x0E20),
   (!on || (auFixed p).all fun k => g k == y.val k, 0x0E21),
   (y.ringsFit p g, 0x0E22),
   ((auSlots g p).all fun j => decide (j < v (Ob.AuSlots p)), 0x0E23),
   (y.auMapOk p g, 0x0E24),
   (!(on && carried) || (auSlots g p).length == (auSlots y.val p).length, 0x0E25),
   (outs.all fun l => y.classFree l.port (v (Ob.AuOutClass p)), 0x1020),
   (outs.all fun l => y.portHolds l.port (y.reservedBut l.port none none (some p) + legSum l.port outs (auReserve g p)), 0x1021)]

/-- A write of 1 to AuCommit (R232, R234, R349): for the first edge at least 250 µs ahead. -/
def Sys.auCommit (p : Nat) (y : Sys) : WriteRes :=
  let own := auOwns p
  let g := y.checkVal own
  if ¬((auOutLegs g p).all fun l => decide (l.port < 12 * y.part.dies) && y.nat (Ob.PortMode l.port) != 0) then abortWith 4 y
  else match firstFail (y.auChecks p g) with
    | some r => y.refuseCommit (Ob.AuCommit p) r 0x0E04 (p / 4) p
    | none =>
      let at_ := tickTime y.auHz (frameFrom y.auHz (y.auNow p + usU 250))
      accept (y.acceptCommit (Ob.AuCommit p) own at_).powerAll

/-! ### Words and descriptors (R229, R230) -/

/-- Sign-extend a sample of so many bits. -/
def sampleOf (bits_ : Nat) (v : Int) : Int :=
  let m := (v % 2 ^ bits_ : Int)
  if m < 2 ^ (bits_ - 1) then m else m - 2 ^ bits_

/-- The word of a sample of so many bits: bits [31:32 − bits], zeros below. -/
def leftWord (bits_ v : Nat) : Nat := v % 2 ^ bits_ * 2 ^ (32 - bits_)

/-- The sample of a word of which a port holds so many bits, as a word again. -/
def cutWord (bits_ w : Nat) : Nat := w / 2 ^ (32 - bits_) * 2 ^ (32 - bits_)

/-- The index of a slot's word in the i-th frame of a buffer: i × S + k, k being the number of enabled slots below it. -/
def AuBuf.index (b : AuBuf) (i slot : Nat) : Nat := i * (maskSlots b.mask).length + ((maskSlots b.mask).filter fun j => decide (j < slot)).length

/-- The words of the i-th frame of a buffer. -/
def AuBuf.frameWords (b : AuBuf) (i : Nat) : List Nat :=
  let n := (maskSlots b.mask).length
  (b.words.drop (i * n)).take n

/-- The 128-bit descriptor of a buffer (R230). -/
def AuBuf.desc (b : AuBuf) : Nat :=
  (b.frame % 2 ^ 48).toNat * 2 ^ 80 + b.mask % 2 ^ 32 * 2 ^ 48 + b.layoutChg.toNat * 2 ^ 47 + b.xrun.toNat * 2 ^ 46 + b.discont.toNat * 2 ^ 45 +
    (maskSlots b.mask).length * 2 ^ 32 + b.count * 2 ^ 16 + b.idx

/-- A buffer takes its place in the ring: LAYOUT_CHG, DISCONT and BUFIDX (R230). -/
def Sys.auPlace (p : Nat) (b : AuBuf) (y : Sys) : AuBuf × Sys :=
  let a := y.au p
  ({ b with layoutChg := a.lastMask != some b.mask, discont := a.discont, idx := a.bufIdx },
   y.setAu p { a with bufIdx := (a.bufIdx + 1) % max 1 (y.nat (Ob.AuRingBuffers p)), lastMask := some b.mask, discont := false })

/-! ### Input: buffers and packets (R228, R235, R239, R240) -/

/-- The groups of elementary streams that read a port's buffers now. -/
def Sys.auReaders (y : Sys) (p : Nat) : List Nat :=
  let n := y.nat (Ob.AuChannel p)
  if (y.chan n).run < 2 ∨ (y.fig n).out ≠ 1 then [] else (auStreams y.val p n).map fun e => e.first / 8

/-- The buffer of a block is complete: it waits for the cores that carry it, or is free at once. -/
def Sys.auClose (p : Nat) (y : Sys) : Sys :=
  let readers := y.auReaders p
  y.onAu p fun a => { a with cur := none, ring := match a.cur with
    | some b => if readers.isEmpty ∨ b.count = 0 then a.ring else a.ring ++ [b]
    | none => a.ring }

/-- The cores have read the buffer of a frame for one elementary stream; a buffer that all have read is free. -/
def Sys.auRead (p group : Nat) (frame : Int) (y : Sys) : Sys :=
  let readers := y.auReaders p
  let f := fun (b : AuBuf) => if b.frame = frame then { b with read := group :: b.read } else b
  y.onAu p fun a => { a with ring := (a.ring.map f).filter fun b => !(readers.all fun g => b.read.contains g) }

/-- The packet of a port's flow goes out once it holds its samples (R239): frames up to `last`. -/
def Sys.auPacket (p : Nat) (last : Int) (y : Sys) : Sys :=
  let a := y.au p
  if a.toSend.length < a.perPkt then y
  else
    let y := y.setAu p { a with toSend := [], seq := (a.seq + 1) % 65536 }
    y.sendOn (auOutLegs y.val p)
      { owner := .audio p, cls := y.nat (Ob.AuOutClass p), seq := a.seq, ts := ((last + 1 - (a.perPkt : Int)) % 2 ^ 32).toNat, bytes := 0,
        carry := .audio a.toSend, launch := tickTime y.auHz (last + 1) + usU 30, tb := y.nat Ob.AuTimeBase, old := a.gap,
        ssrc := y.nat (Ob.AuOutSsrc p), pt := Config.payloadType 2 % 128, stored := false }

/-- The samples of a frame join the packet of the port's flow as L24; a packet keeps the packet time that was in force at its first sample
(log entry 116). -/
def Sys.auStream (p : Nat) (last : Int) (row : List Nat) (y : Sys) : Sys :=
  if y.nat (Ob.AuOutMode p) = 0 then y.onAu p fun a => { a with toSend := [] }
  else
    let n := auPerPacket y.val (y.nat Ob.AuFrameRate) p
    let wide := row.map fun w => sampleOf 24 ((w / 256 : Nat) : Int)
    (y.onAu p fun a => { a with toSend := a.toSend ++ [wide], perPkt := if a.toSend.isEmpty then n else a.perPkt }).auPacket p last

/-- An input frame has been sampled: `slots` holds what each slot's bit clocks gave (R222, R229). -/
def Sys.auSampled (p : Nat) (slots : List Int) (y : Sys) : Sys :=
  let a := y.au p
  let width := y.nat (Ob.AuSlotWidth p)
  let row := (auSlots y.val p).map fun j => cutWord (y.nat (Ob.AuSampleBits p)) (leftWord width (slots.getD j 0 % 2 ^ width).toNat)
  match a.cur with
  | none => y.setAu p { a with toSend := [] }
  | some b =>
    let last := b.frame + b.count
    let y := (y.setAu p { a with cur := some { b with words := b.words ++ row, count := b.count + 1 } }).auStream p last row
    if last + 1 = a.curEnd then y.auClose p else y

/-- An input port opens a buffer at a frame, or discards the frame for want of one (R235, R238). -/
def Sys.auOpen (p : Nat) (f : Int) (y : Sys) : Sys :=
  let a := y.au p
  if a.cur.isSome then y.setAu p { a with affected := false }
  else if a.ring.length < y.nat (Ob.AuRingBuffers p) then
    let r := y.auPlace p { frame := f, mask := y.nat (Ob.AuSlotMask p), xrun := a.overrun }
    r.2.onAu p fun a =>
      { a with cur := some r.1, curEnd := blockEnd (blockFrames y.val y.auHz p) f, overrun := false, affected := false }
  else
    let y := (y.setAu p { a with overrun := true, affected := true }).bump (Ob.AuOverrunFrames p) 1
    if a.affected then y else y.raise 0x0E02 (p / 4) p

/-! ### The pins (R222, R223, R227) -/

/-- The frame sync of a frame, bit clock by bit clock: active from its first one on. -/
def auSync (g : Nat → Val) (p : Nat) : List Bool :=
  let v := fun k => (g k).nat
  let n := v (Ob.AuSlots p) * v (Ob.AuSlotWidth p)
  let w := if v (Ob.AuFsWidth p) = 0 then 1 else if v (Ob.AuFsWidth p) = 1 then v (Ob.AuSlotWidth p) else n / 2
  (List.range n).map fun i => decide (i < w) != (v (Ob.AuFsPolarity p) == 1)

/-- The bits of a slot: its word from the top, or what a masked slot carries. -/
def auSlotBits (width : Nat) (idle : Option Bool) (w : Option Nat) : List (Option Bool) :=
  match w with
  | some w => (List.range width).map fun i => some (bit w (31 - i))
  | none => List.replicate width idle

/-- The data of a frame behind its offset: the bits left over from the frame before come first, those beyond its end are left over. Where no
frame stands before, the first bit clocks are driven 0 (log entry 117). -/
def auData (g : Nat → Val) (p : Nat) (spill : List (Option Bool)) (row : List (Nat × Nat)) : List (Option Bool) × List (Option Bool) :=
  let v := fun k => (g k).nat
  let idle := if v (Ob.AuIdleSlot p) = 0 then some false else none
  let l := (List.range (v (Ob.AuSlots p))).flatMap fun j =>
    auSlotBits (v (Ob.AuSlotWidth p)) idle ((row.find? fun e => e.1 == j).map Prod.snd)
  let o := v (Ob.AuDataOffset p)
  let head := if spill.length = o then spill else List.replicate o (some false)
  (head ++ l.take (l.length - o), l.drop (l.length - o))

/-- A frame on the pins of an input port. -/
def Sys.auPins (p : Nat) (y : Sys) : Sys := y.emit (.tdm p (y.flag (Ob.AuBclkInvert p)) (auSync y.val p) none)

/-! ### Output: fetch and play (R230, R236 to R238) -/

/-- The flow's sample whose instant is that of frame f less `AuPlayDelay`, rounded down to a sample. -/
def playSample (hz delay : Nat) (f : Int) : Int := f - (ceilDiv (delay * hz) 1000000 : Nat)

/-- The bits of a flow's samples. -/
def Sys.flowBits (y : Sys) (n f : Nat) : Nat := if y.cfgN n (Ob.IngAudEncoding n f) = 0 then 16 else 24

/-- The words of a frame of an output port: the flow's channels from `AuSourceFirst` on, in its enabled slots (R236). -/
def Sys.playWords (y : Sys) (g : Nat → Val) (p : Nat) (i : Int) : List Nat :=
  let n := (g (Ob.AuChannel p)).nat
  let fl := (g (Ob.AuSourceFlow p)).nat
  let l := (y.audioAt n fl i).drop (g (Ob.AuSourceFirst p)).nat
  let b := y.flowBits n fl
  (auSlots g p).zipIdx.map fun e => cutWord (g (Ob.AuSampleBits p)).nat (leftWord b (l.getD e.2 0 % 2 ^ b).toNat)

/-- The buffer of a block of frames f to e − 1, a substitute (XRUN) unless every sample is there or replaced. -/
def Sys.auBlock (y : Sys) (g : Nat → Val) (p : Nat) (f e : Int) : AuBuf :=
  let n := (g (Ob.AuChannel p)).nat
  let fl := (g (Ob.AuSourceFlow p)).nat
  let count := (e - f).toNat
  let l := (List.range count).map fun (i : Nat) => playSample y.auHz (g (Ob.AuPlayDelay p)).nat (f + (i : Int))
  let whole := decide (2 ≤ (y.chan n).run) && y.cfgN n (Ob.IngAudMode n fl) != 0 &&
    match y.flowFirst n fl with
    | some a => l.all fun s => y.audioThere n fl s && decide (a ≤ s)
    | none => false
  { frame := f, mask := (g (Ob.AuSlotMask p)).nat, xrun := !whole, count := count, words := if whole then l.flatMap (y.playWords g p) else [] }

/-- The set of a port that is pending and its edge: the earliest. -/
def Sys.auPending (y : Sys) (p : Nat) : Option (Pend × Int) :=
  ((y.pend.filter fun (q : Pend) => q.key == Ob.AuCommit p).head?).map fun q => (q, frameFrom y.auHz q.at_)

/-- The blocks of a port from a frame on: start, end, and the set in force. A pending set ends the block before it. -/
def Sys.blocksFrom (y : Sys) (p : Nat) : Nat → Int → List (Int × Int × (Nat → Val))
  | 0, _ => []
  | n + 1, f =>
    let c := y.auPending p
    let g := match c with
      | some (q, e) => if e ≤ f then y.ofSet q.set else y.val
      | none => y.val
    let e := blockEnd (blockFrames g y.auHz p) f
    let e := match c with
      | some (_, t) => if f < t then min e t else e
      | none => e
    (f, e, g) :: y.blocksFrom p n e

/-- The next blocks an output port will need: as many as fetches can lie ahead of an edge by 20 µs, and one more. -/
def Sys.nextBlocks (y : Sys) (p : Nat) : List (Int × Int × (Nat → Val)) :=
  let a := y.au p
  let f := if a.gap then a.nextF else a.curEnd
  match y.auPending p with
  | some (_, e) => if ¬a.on ∨ e ≤ f then y.blocksFrom p 4 (max e a.nextF) else y.blocksFrom p 4 f
  | none => if a.on then y.blocksFrom p 4 f else []

/-- AUDIO_BUFFER_FETCH (R237): each buffer 20 µs before the edge of its first frame. -/
def Sys.auFetch (p : Nat) (y : Sys) : Sys :=
  let due := (y.nextBlocks p).filter fun b => (b.2.2 (Ob.AuDirection p)).nat == 1 && (b.2.2 (Ob.AuEnable p)).nat == 1 &&
    atOrAfter (y.auNow p) (tickTime y.auHz b.1 - usU 20) && !((y.au p).next.any fun n => n.frame == b.1)
  y.each due fun b y =>
    let y := y.audSettle (b.2.2 (Ob.AuChannel p)).nat (b.2.2 (Ob.AuSourceFlow p)).nat
    y.onAu p fun a => { a with next := a.next ++ [y.auBlock b.2.2 p b.1 b.2.1] }

/-- An output port takes the buffer that starts at a frame; one that was not fetched is substituted. -/
def Sys.auTake (p : Nat) (f : Int) (y : Sys) : Sys :=
  let e := blockEnd (blockFrames y.val y.auHz p) f
  let b := ((y.au p).next.find? fun b => b.frame == f).getD
    { frame := f, mask := y.nat (Ob.AuSlotMask p), xrun := true, count := (e - f).toNat }
  let r := y.auPlace p b
  r.2.onAu p fun a => { a with play := some r.1, pos := 0, next := a.next.filter fun b => decide (f < b.frame), curEnd := e }

/-- What an output port plays in a frame, slot by slot, and whether that is its buffer's (R237). -/
def Sys.auRow (y : Sys) (p : Nat) : List (Nat × Nat) × Bool :=
  let a := y.au p
  let on := auSlots y.val p
  match a.play with
  | some b =>
    if b.xrun then (on.map fun j => (j, if y.nat (Ob.AuSubst p) = 0 then 0 else Tab.find (fun _ => 0) a.last j), false)
    else (on.zip (b.frameWords a.pos), true)
  | none => (on.map fun j => (j, 0), false)

/-- An output port plays a frame (R222, R236, R237, R238). -/
def Sys.auPlay (p : Nat) (y : Sys) : Sys :=
  let a := y.au p
  let row := y.auRow p
  let last := row.1.foldl (fun t e => Tab.put (fun _ => 0) t e.1 e.2) a.last
  let data := auData y.val p a.spill row.1
  let y := y.setAu p { a with pos := a.pos + 1, last := last, spill := data.2, affected := !row.2 }
  let y := y.emit (.tdm p (y.flag (Ob.AuBclkInvert p)) (auSync y.val p) (some data.1))
  if row.2 then y
  else
    let y := y.bump (Ob.AuUnderrunFrames p) 1
    if a.affected then y else y.raise 0x0E01 (p / 4) p

/-! ### The frame-clock edge (R224, R227, R232) -/

/-- The output queues of a port's flow (R269). -/
def Sys.auQueues (p : Nat) (y : Sys) : Sys :=
  let legs := auOutLegs y.val p
  let cls := y.nat (Ob.AuOutClass p)
  let mine := y.net.queues.filter fun q => q.owner == .audio p
  if (mine.map fun q => (q.port, q.cls)) = legs.map fun l => (l.port, cls) then y
  else y.dropQueues (fun q => q.owner != .audio p) |>.each legs fun l y => y.addQueue l.port (.audio p) 0 cls true 1000

/-- The audio queues of a channel's legs are there while it carries audio in its transport stream (R269). -/
def Sys.esQueues (n : Nat) (y : Sys) : Sys :=
  let mine := fun (q : Queue) => q.owner == .ch n && q.kind == 1
  if (y.fig n).out ≠ 1 ∨ (y.streams (y.cfg n) n).isEmpty then y.dropQueues fun q => !mine q
  else if y.net.queues.any mine then y
  else y.each (chOutLegs (y.cfg n) n) fun l y => y.addQueue l.port (.ch n) 1 (y.cfgN n (Ob.OutClass n)) true 1000

/-- A port is enabled: its frames begin with f. -/
def Sys.auStart (p : Nat) (f : Int) (y : Sys) : Sys :=
  let a : Au := { on := true, nextF := f, curEnd := f, seq := y.freeNow % 65536, next := (y.au p).next }
  (y.setAu p a).fresh.setInt (Ob.AuFramesDone p) 0

/-- A port is disabled: its pins are low (R223). -/
def Sys.auStop (p : Nat) (y : Sys) : Sys := ((y.each (List.range 8) fun b y => y.switchView b (.audio p)).setAu p {}).tbSettle.emit (.tdmIdle p false)

/-- A set of a port applies at the edge of frame f: it ends the block, and enables or disables the port (R228, R232, R234). -/
def Sys.auApply (p : Nat) (q : Pend) (f : Int) (y : Sys) : Sys :=
  let was := y.nat (Ob.AuSlotMask p)
  let y := { y with pend := y.pend.filter fun (o : Pend) => !(o.key == q.key && o.at_ == q.at_) }
  let y := y.auClose p
  let y := (y.applySet q.set).onAu p fun a => { a with curEnd := f }
  let y := if y.nat (Ob.AuSlotMask p) = was then y else (y.bump (Ob.AuLayoutChanges p) 1).raise 0x0E03 (p / 4) p
  let y := if y.pend.any fun (o : Pend) => o.key == q.key then y else y.setInt (Ob.AuCommitState p) 0
  let on := y.flag (Ob.AuEnable p)
  let y := if on && !(y.au p).on then y.auStart p f else if !on && (y.au p).on then y.auStop p else y
  ((y.auQueues p).each y.activeChans Sys.esQueues).powerAll

/-- The edge of frame f: the frame before it is done, sets that are due apply, and frame f begins. `slots` holds what the pins gave
in the frame before, slot by slot. -/
def Sys.auEdge (p : Nat) (slots : List Int) (y : Sys) : Sys :=
  let a := y.au p
  let f := if a.on then a.nextF else match y.auPending p with
    | some e => e.2
    | none => 0
  let due := y.duePend (Ob.AuCommit p) (tickTime y.auHz f)
  if (¬a.on ∧ due.isEmpty) ∨ ¬atOrAfter (y.auNow p) (tickTime y.auHz f) ∨ y.stepWaits (.audio p) = true then y
  else
    let input := y.nat (Ob.AuDirection p) = 0
    let y := if a.on then (if input then y.auSampled p slots else y).bump (Ob.AuFramesDone p) 1 else y
    let y := if a.on ∧ a.gap then
        ((y.auClose p).onAu p fun a => { a with gap := false, discont := true, curEnd := f, toSend := [], play := none, spill := [] }).bump (Ob.AuDiscontCount p) 1
          |>.raise 0x0E05 (p / 4) p
      else y
    let y := y.each due fun q y => y.auApply p q f
    if ¬(y.au p).on then y
    else
      let y := y.onAu p fun a => { a with nextF := f + 1, lastEdge := y.now }
      if y.nat (Ob.AuDirection p) = 0 then (y.auOpen p f).auPins p
      else (if (y.au p).curEnd ≤ f then y.auTake p f else y).auPlay p

/-- A port leaves the view before a step (R227, R315): the frame in progress ends, and the next edge is the first frame instant of the
stepped base at least one sample period after the last edge. -/
def Sys.auSwitch (p b : Nat) (y : Sys) : Sys :=
  let a := y.au p
  let hz := y.auHz
  if atOrAfter (y.auNow p) (tickTime hz a.nextF) then
    let delta := y.stepDelta b
    let y := y.switchView b (.audio p)
    let y := { y with pend := y.pend.map fun (q : Pend) => if q.key = Ob.AuCommit p then { q with at_ := q.at_ + delta } else q }
    let t := (y.tb b).map.read (a.lastEdge + ceilDiv secUnits (max 1 hz) : Nat)
    let y := y.each (List.range (12 * y.part.dies)) fun o y => y.onPort o fun x =>
      { x with timed := x.timed.map fun k => if k.owner = .audio p then { k with old := true } else k }
    (y.setAu p { a with gap := true, nextF := frameFrom hz t, next := [] }).emit (.tdmIdle p true)
  else y

/-! ### The commands -/

/-- A block of an elementary stream is packed (R240, R246): the next buffer of its port, or the next millisecond of its flow. -/
def Sys.audioJob (n pid : Nat) (y : Sys) : Sys :=
  let base := y.cfgN n (Ob.OutAudPidBase n)
  if (y.chan n).run < 2 ∨ (y.fig n).out ≠ 1 ∨ pid < base then y
  else match (y.streams (y.cfg n) n)[pid - base]? with
    | none => y
    | some e =>
      if 16 ≤ e.src then
        match y.portBlock e with
        | some b => (y.packBlock n pid e b).auRead (e.src - 16) (e.first / 8) b.first
        | none => y
      else
        let y := y.audSettle n e.src
        match y.flowBlock n pid e with
        | some b => (y.packBlock n pid e b).onChan n fun c => { c with esNext := Tab.put (fun _ => 0) c.esNext pid (b.first + e.samples) }
        | none => y

/-- The task of a channel's graph that does a job (R392). -/
def jobRole : Job → Option (Role × Nat)
  | .plain => none
  | .auPrefix ch => some (.auPrefix, ch)
  | .rowAssembly ch _ => some (.rowAssembly, ch)
  | .packetBuild ch _ => some (.packetBuild, ch)
  | .audioPack ch _ => some (.audioPack, ch)

/-- What a task's run does beside ending (R116). -/
def Sys.doJob (j : Job) (y : Sys) : Sys :=
  match j with
  | .plain => y
  | .auPrefix ch => y.writePrefix ch
  | .rowAssembly ch row => y.assemble ch row
  | .packetBuild ch row => y.build ch row
  | .audioPack ch pid => y.audioJob ch pid

/-- A task's run ends: only the firmware's task for a job does it, and a task of R392 runs no longer than its longest run (log entry
104). -/
def Sys.runEnds (d core cycles : Nat) (job : Job) (y : Sys) : Sys :=
  match ((y.onyx d).core core).running with
  | none => y
  | some s =>
    let role := ((y.onyx d).task s).role
    let n := match role with
      | some r => min cycles r.1.longest
      | none => cycles
    let y := y.runComplete d core n
    if role.isSome ∧ role = jobRole job then y.doJob job else y

/-- TASK_RUN_COMPLETE (R397): a core that runs no task completes nothing. -/
def execTaskRunComplete (dt die core cycles : Nat) (job : Job) (s : State) : Res := act dt (Sys.runEnds die core cycles job) s

/-- FRAME_CLOCK_EDGE (R224). -/
def execFrameClockEdge (dt port : Nat) (slots : List Int) (s : State) : Res := act dt (Sys.auEdge port slots) s

/-- AUDIO_BUFFER_FETCH (R237). -/
def execAudioBufferFetch (dt port : Nat) (s : State) : Res := act dt (Sys.auFetch port) s

end Sys2Proof.Machine
end

