-- ==== Sys2Proof/Machine/Switch.lean ====
section
/-! DEFINITION. The switch point of a consumer after a step of its time base: frames begun before stay in the old view, later ones are
numbered and timed on the stepped base (R64, R227, R315 to R318). -/

namespace Sys2Proof.Machine

/-- Pending sets of a context move with the step. -/
def Sys.shiftPend (key : Nat) (d : Int) (y : Sys) : Sys :=
  { y with pend := y.pend.map fun (q : Pend) => if q.key = key then { q with at_ := q.at_ + d } else q }

/-- Timed packets of an owner that are reserved already launch in the old view (R318). -/
def Sys.holdPackets (who : Consumer) (y : Sys) : Sys :=
  y.each (List.range (12 * y.part.dies)) fun p y =>
    if (y.port p).timed.any fun k => k.owner == who then
      y.onPort p fun x => { x with timed := x.timed.map fun k => if k.owner = who then { k with old := true } else k }
    else y

/-- A frame begun before the switch, numbered so that the last of them stands before the next frame; the ages it replaced move by d. -/
def Frame.aside (fr : Frame) (n d : Int) : Frame :=
  { fr with k := fr.k + n, old := true, ageBefore := fr.ageBefore.map fun e => (e.1, e.2.map fun a => a.map fun t => t + d) }

/-- The ages in the records of a picture buffer move by d. -/
def Buf.shift (b : Buf) (d : Int) : Buf :=
  { b with recs := b.recs.map fun e => (e.1, e.2.map fun x => { x with age := x.age.map fun t => t + d }) }

/-- A frame of a context begun before the switch. -/
def CxFrame.aside (fr : CxFrame) (n : Int) : CxFrame := { fr with k := fr.k + n, old := true }

/-- Frames of a layer move with the step: their numbers by n, and their stamps by d (R318). -/
def LyFrame.shift (n d : Int) (fr : LyFrame) : LyFrame :=
  { fr with k := fr.k + n, age := fr.age.map fun a => a + d, done := fr.done.map fun a => a + d }

/-- A decoder buffer moves with the step; the context frames that hold it are renumbered by m. -/
def DecBuf.shift (b : DecBuf) (m d : Int) : DecBuf := { b with holds := b.holds.map fun h => h + m, fr := b.fr.map (LyFrame.shift 0 d) }

/-- The layers of a context on the stepped base. `b` is the switch point in the old view, and its frames are renumbered by m. -/
def Sys.switchLayers (c : Nat) (b m d : Int) (y : Sys) : Sys :=
  y.each (y.lysOf y.val c) fun l y =>
    let f := lyFig y.val l c
    let n := if y.nat (Ob.LySource l) = 1 then firstFrom f.rn f.rd (b + d) - firstFrom f.rn f.rd b else 0
    y.onLy l fun x =>
      { x with frames := x.frames.map (LyFrame.shift n d), shown := x.shown.map (LyFrame.shift n d), auStart := x.auStart + d,
               queue := x.queue.map fun u => { u with age := u.age + d }, pool := x.pool.map fun b => b.shift m d }

/-- A context on the stepped base (R315, R316). -/
def Sys.switchCx (c : Nat) (d : Int) (y : Sys) : Sys :=
  let x := y.cx c
  let f := cxFig y.val c
  let b := f.boundary x.nextK
  let k := firstFrom f.rn f.rd (b + d)
  let y := y.setCx c { x with nextK := k, frames := x.frames.map fun fr => fr.aside (k - x.nextK) }
  ((y.switchLayers c b (k - x.nextK) d).shiftPend (Ob.CxCommit c) d).holdPackets (.cx c)

/-- A channel's own state on the stepped base (R316, R317). -/
def Sys.switchChan (n : Nat) (d : Int) (y : Sys) : Sys :=
  let c := y.chan n
  let f := y.fig n
  let k := firstFrom f.rn f.rd (f.boundary c.nextK + d)
  let s := k - c.nextK
  let tick := fun (a : Nat) => roundDiv (d * (y.audHz n a : Int)) (secU 1)
  let esTick := roundDiv (d * 48000) (secU 1)
  let stop := c.stopK.map fun e => if e ≤ c.nextK then k else max k (firstFrom f.rn f.rd (f.boundary e + d))
  let pids := if f.out = 1 then (List.range (y.streams (y.cfg n) n).length).map fun i => y.cfgN n (Ob.OutAudPidBase n) + i else []
  let y := y.setChan n { c with
    nextK := k, refK := k, firstK := if c.run = 1 then k else c.firstK, stopK := stop, frames := c.frames.map fun fr => fr.aside s d, early := [],
    ages := c.ages.map fun e => (e.1, e.2.map fun a => a + d), ageShift := d, discontNext := decide (c.run ≠ 1), audDisc := pids,
    movedK := c.movedK.map fun m => m + s, restarts := c.restarts.map fun t => t + d,
    move := c.move.map fun m => { m with at_ := m.at_ + d }, handover := c.handover.map fun h => (h.1, h.2.1, h.2.2 + d),
    nextBitrate := c.nextBitrate.map fun b => (b.1, b.2 + d),
    bufs := c.bufs.map fun b => b.shift d, oldBufs := c.oldBufs.map fun b => b.shift d,
    esNext := c.esNext.map fun e => (e.1, e.2 + esTick), audioNext := c.audioNext.map fun e => (e.1, e.2 + tick e.1),
    audioGot := c.audioGot.map fun e => (e.1, e.2.map fun s => (s.1 + tick e.1, s.2)) }
  (y.shiftPend (Ob.ChCommit n) d).holdPackets (.ch n)

/-- STEP_SWITCH_POINT (R315): a consumer that still has the view before the step leaves it at its own switch point. -/
def Sys.stepSwitch (who : Consumer) (y : Sys) : Sys :=
  match (List.range 8).find? fun b => (y.tb b).old.isSome && (y.tb b).waiting.contains who with
  | none => y
  | some b =>
    let d := y.stepDelta b
    match who with
    | .ch n =>
      if atOrAfter (y.frameNow n false) ((y.fig n).boundary (y.chan n).nextK) then
        let cx := (y.chan n).cx
        let y := y.switchChan n d
        (match cx with
          | some c => if (y.cx c).on then y.switchCx c d else y
          | none => y).switchView b who
      else y
    | .cx c => if atOrAfter (y.cxNow c) ((cxFig y.val c).boundary (y.cx c).nextK) then (y.switchCx c d).switchView b who else y
    | .audio p => y.auSwitch p b
    | .port _ => y.switchView b who

/-- STEP_SWITCH_POINT (R315). -/
def execStepSwitchPoint (dt : Nat) (who : Consumer) (s : State) : Res := act dt (Sys.stepSwitch who) s

end Sys2Proof.Machine
end

