-- ==== Sys2Proof/Machine/Read.lean ====
section
/-! DEFINITION. What a read of each object returns: the values that status objects show are computed here from the state, all other
objects read what the live and shadow tables hold (R435 to R438, R459 to R478, and the object tables of the chapters). -/

namespace Sys2Proof.Machine

/-! ### Channels -/

/-- Status of channel n: placement, latency, encoder, rate control, reference pool, retransmission (R41, R46 to R48, R84, R111, R118,
R136 to R144, R160, R165 to R167, R261). -/
def Sys.chanStatus (y : Sys) (n base sub : Nat) : Option Val :=
  let c := y.chan n
  let f := y.nowFig n
  let runs := c.run != 0
  let on := fun (v : Nat) => some (Val.int (if runs then v else 0 : Nat))
  let always := fun (v : Nat) => some (Val.int v)
  match base, sub with
  | 0x2000, 0x02 => always c.run
  | 0x2001, 0x02 => always (if runs then (c.pipes.map Prod.fst).foldl min 255 else 255)
  | 0x2001, 0x03 =>
    let low := (c.pipes.map Prod.fst).foldl min 255
    on ((c.pipes.map fun e => 2 ^ (e.2 + if e.1 = low then 0 else 4)).foldl (· + ·) 0)
  | 0x2001, 0x04 => on (if c.frozen then 2 else 1)
  | 0x2003, 0x04 => on (f.lines 64)
  | 0x2003, 0x05 => on f.latency
  | 0x2003, 0x06 => on f.rows
  | 0x2005, 0x11 => on f.rowBufRows
  | 0x2009, 0x03 => on ((f.level.map Prod.fst).getD 0)
  | 0x2009, 0x04 => on ((f.level.map Prod.snd).getD 0)
  | 0x2009, 0x08 => on f.cycle
  | 0x200B, 0x07 => on c.bitrate
  | 0x200B, 0x08 => always f.prefixMax
  | 0x200B, 0x09 => always f.sliceHdr
  | 0x200B, 0x0A => always (f.minRate false)
  | 0x200B, 0x0B => on (f.cpb c.bitrate)
  | 0x200D, 0x01 => on f.poolSize
  | 0x200D, 0x02 => on f.bufBytes
  | 0x200D, 0x03 => on (f.poolSize * f.bufBytes)
  | 0x2010, 0x05 => on c.rtxK
  | 0x2010, 0x06 => on (c.rtxK * f.rtxSlot)
  | 0x2010, 0x07 => on c.rtxEff
  | _, _ => none

/-! ### Ports, lanes, time, clocks and memory -/

/-- Status of network port p (R244, R285, R291, R346, R355). -/
def Sys.portStatus (y : Sys) (p base sub : Nat) : Option Val :=
  match base, sub with
  | 0x3300, 0x3E => some (.int (y.port p).st)
  | 0x3300, 0x3F => some (.int (if y.portEnabled p then modeRate (y.port p).mode else 0 : Nat))
  | 0x3301, 0x07 => some (.int (y.reservedNow p))
  | 0x3301, 0x08 => some (.int (if y.flag (Ob.GclEnable p) then gclCycle (gclOf y.val p) else 0 : Nat))
  | _, _ => none

/-- Status of time base b, and of the queue, PPS and free-running clocks (R301, R302, R305, R308, R314, R315, R322). -/
def Sys.timeStatus (y : Sys) (base inst sub : Nat) : Option Val :=
  let t := y.tb inst
  match base, sub with
  | 0x3501, 0x01 => some (.int t.st)
  | 0x3501, 0x02 => some (.int (time96 (y.tbNow inst)))
  | 0x3501, 0x05 => some (.int t.map.ppb)
  | 0x3501, 0x0B => some (.int (if t.step.isSome || !t.waiting.isEmpty then 1 else 0))
  | 0x3501, 0x0E => some (.int (y.consumers inst).length)
  | 0x3520, 0x05 => some (.int (if y.nat Ob.PpsInCount = 0 then 0 else time96 ((y.tb (y.nat Ob.PpsInBase)).map.read y.jas.ppsIn) : Nat))
  | 0x3521, s => some (.int (y.freeRun (s - 1)))
  | 0x3540, 0x01 => some (.int (y.tsq inst).length)
  | 0x3540, 0x04 => some (.bytes (beBytes 16 (((y.tsq inst).head?.map tsqWord).getD 0)))
  | _, _ => none

/-- Status of the PLLs, the memory and a lane (R327, R339, R341, R364, R371). -/
def Sys.unitStatus (y : Sys) (base inst sub : Nat) : Option Val :=
  match base, sub with
  | 0x3600, 0x20 => some (.int y.budgetShown)
  | 0x3800, 0x05 => some (.bytes (y.bandTableShown inst))
  | 0x3800, 0x0B => some (.int (y.pllHz inst))
  | 0x3800, 0x0F => some (.int (y.bypassTime inst))
  | 0x3900, 0x10 => some (.int (y.lane inst).st)
  | 0x3900, 0x2B => some (.bytes ((y.lane inst).recs.flatMap (leBytes 8)))
  | 0x3201, 0x25 => some (.int (if (y.au inst).on then auBclk y.val y.auHz inst else 0 : Nat))
  | _, _ => none

/-! ### Dies -/

/-- The contexts of a die. -/
def cxsOf (d : Nat) : List Nat := (List.range 4).map fun i => 4 * d + i

/-- `DieState` (R374, R434, R506): 0 absent or mapped out, 1 booting, 2 in service, 3 DRAM failed, 4 unreachable. -/
def Sys.dieState (y : Sys) (d : Nat) : Nat :=
  if (y.die d).mappedOut then 0
  else if y.mgmt.lost.contains d then 4
  else if !y.running then 1
  else if (y.die d).dram.failed then 3
  else 2

/-- Bytes that owners of some kinds hold in the heap of a die. -/
def Die.heldBytes (x : Die) (kinds : List Nat) : Nat :=
  ((x.heap.filter fun e => kinds.contains (e.2.2 / 4096)).map fun e => e.2.1 * 65536).foldl (· + ·) 0

/-- The spared wires of a die as its list shows them, bridge by bridge, outbound before inbound (R501). -/
def Sys.wireList (y : Sys) (d : Nat) : List Byte :=
  (List.range 4).flatMap fun b => [0, 1].flatMap fun dir =>
    if (bridgeEnd y.part.dies d b).isNone then []
    else (y.wiresSpared d b dir).flatMap fun e => leBytes 2 (b * 1024 + dir * 512 + e.1 % 8 * 64 + e.2 % 64)

/-- Flags as the bits of a number. -/
def bitsWhere (n : Nat) (ok : Nat → Bool) : Nat := ((List.range n).map fun i => if ok i then 2 ^ i else 0).foldl (· + ·) 0

/-- The calibrated entries of a die: bit 32p + e for entry e of PLL p (R329). -/
def Sys.calBits (y : Sys) (d : Nat) : List Byte := leBytes 24 (bitsWhere 192 fun i => (y.cal d (i / 32) (i % 32)).isSome)

/-- Status of die d: pipelines, decoding, memory, layers, signatures, queues and clocks. -/
def Sys.dieStatus (y : Sys) (base d : Nat) : Option Val :=
  let x := y.die d
  match base with
  | 0x5003 => some (.int (y.dieState d))
  | 0x5020 => some (.int x.pipeWord)
  | 0x5021 => some (.int (ratFloor (y.coverage d * 1000000)))
  | 0x5022 => some (.int (ratFloor (y.layerLoad (fun _ => true) d)))
  | 0x5023 => some (.int (x.heldBytes [0, 4]))
  | 0x5024 => some (.int ((cxsOf d).map (y.cxScalers y.val)).sum)
  | 0x5025 => some (.int (ratFloor (ratSum ((cxsOf d).map (y.cxFetch y.val)))))
  | 0x5026 => some (.int (ratFloor (y.sigLoad d none)))
  | 0x5027 => some (.int (y.net.queues.filter fun q => q.die == d).length)
  | 0x5028 => some (.int (y.clkState d))
  | 0x5029 => some (.bytes (y.calBits d))
  | 0x502D => some (.int (y.memUtil d))
  | 0x502E => some (.int x.dram.mts)
  | 0x502F => some (.int x.heapFreeBytes)
  | 0x5030 => some (.int (largestRun 0 x.heap * 65536 : Nat))
  | 0x5031 => some (.bytes ((List.range 30).map fun i => BitVec.ofNat 8 ((x.onyx.core i).phys.getD 255)))
  | 0x5032 => some (.int (x.onyx.tasks.filter fun e => e.2.st != 0).length)
  | 0x5033 => some (.int (y.coreLoad d))
  | 0x5038 => some (.bytes x.onyx.ringBytes)
  | 0x5039 => some (.int (x.onyx.traceCount % 8192 : Nat))
  | 0x5041 => some (.int x.fab.decAddr)
  | 0x5043 => some (.int (y.bridgeWord d))
  | 0x5045 => some (.int (if x.remap then 1 else 0))
  | 0x5053 => some (.int (x.sens.temps.foldl max (x.sens.temps.headD 0)))
  | 0x5070 => some (.int ((List.range 5).map fun i => x.pipeSt.getD i 3 * 16 ^ i).sum)
  | 0x5071 => some (.int (bitsWhere 32 fun i => y.upd.rep.cores.contains (d, i)))
  | 0x5072 => some (.int (y.upd.rep.rows.filter fun e => e.1 == d).length)
  | 0x5073 => some (.int x.sramLost)
  | 0x5075 => some (.bytes (y.wireList d))
  | 0x507C => some (.int (y.domainWord d))
  | _ => none

/-! ### The package -/

/-- Status of the package: reset, management, log, identity, repair map and update (R435, R448, R461, R463 to R466, R496 to R508). -/
def Sys.packageStatus (y : Sys) (fl : List Host.Cell) (base sub : Nat) : Option Val :=
  let slotFw := fun (s : Nat) => if imgValid y.part fl s then imgFw fl s else 0
  match base, sub with
  | 0x1001, 0x03 => some (.int y.power.boot.fwVersion)
  | 0x1005, 0x02 => some (.int y.power.boot.cause)
  | 0x1005, 0x03 => some (.int y.uptimeMs)
  | 0x1005, 0x04 => some (.int y.power.boot.bootMs)
  | 0x1020, 0x06 => some (.int (if y.mgmt.linkUp then 1 else 0))
  | 0x5060, 0x03 => some (.bytes (y.logRead fl))
  | 0x5060, 0x04 => some (.int y.evs.oldest)
  | 0x5060, 0x05 => some (.int (if y.logCount = 0 then y.evs.oldest else y.newestSeq : Nat))
  | 0x5076, 0x01 => some (.bytes y.repairDigest)
  | 0x5077, 0x01 => some (.int y.upd.flashRep.seq)
  | 0x6000, 0x01 => some (.int (if y.part.provisioned then 1 else 0))
  | 0x6000, 0x04 => some (.bytes attestPubKey)
  | 0x6000, 0x05 => some (.bytes (deviceCert y.part))
  | 0x6000, 0x07 => some (.bytes y.mgmt.attest)
  | 0x6010, 0x01 => some (.bytes (if y.part.provisioned then streamPubKey else []))
  | 0x6010, 0x02 => some (.int y.part.streamKeyId)
  | 0x6010, 0x03 => some (.bytes y.mgmt.streamCert)
  | 0x6020, 0x02 => some (.int y.upd.offset)
  | 0x6020, 0x07 => some (.int y.upd.st)
  | 0x6020, 0x08 => some (.int y.upd.cause)
  | 0x6020, 0x09 => some (.int y.power.boot.slot)
  | 0x6020, 0x0A => some (.int y.trialLeft)
  | 0x6020, 0x0C => some (.int y.part.minSvn)
  | 0x6021, s => some (.int (slotFw (s - 1)))
  | _, _ => none

/-- Sensors, monitors and ranks, which take die and number from the subindex. -/
def Sys.sensorStatus (y : Sys) (base i : Nat) : Option Val :=
  match base with
  | 0x502A => some (.int ((y.die (i / 6)).dram.rank (i % 6 / 3) (i % 3)).st)
  | 0x5050 => some (.int ((y.die (i / 24)).sens.temps.getD (i % 24) 0))
  | 0x5051 => some (.int ((y.die (i / 12)).sens.mv.getD (i % 12) 0))
  | 0x5074 => some (.int (Tab.find (fun _ => (0 : Nat)) y.upd.rep.ranks i : Nat))
  | _ => none

/-- What a status object shows that is computed; `none` for an object whose value is kept. -/
def Sys.status (y : Sys) (fl : List Host.Cell) (l : Loc) : Option Val :=
  if l.sub = 0 then none
  else if 0x2000 ≤ l.base ∧ l.base < 0x3000 then y.chanStatus l.inst l.base l.sub
  else if l.base = 0x3300 ∨ l.base = 0x3301 then y.portStatus l.inst l.base l.sub
  else if 0x3500 ≤ l.base ∧ l.base < 0x3600 then y.timeStatus l.base l.inst l.sub
  else if 0x3000 ≤ l.base ∧ l.base < 0x4000 then y.unitStatus l.base l.inst l.sub
  else if l.base = 0x502A ∨ l.base = 0x5050 ∨ l.base = 0x5051 ∨ l.base = 0x5074 then y.sensorStatus l.base (l.sub - 1)
  else if (0x5003 ≤ l.base ∧ l.base < 0x5060 ∧ l.base ≠ 0x5010) ∨ (0x5070 ≤ l.base ∧ l.base < 0x5076) ∨ l.base = 0x507C then
    y.dieStatus l.base (l.sub - 1)
  else y.packageStatus fl l.base l.sub

/-- The value a read returns (R436): the shadow of an RWS object, or with LIVE its live value. -/
def Sys.readVal (y : Sys) (fl : List Host.Cell) (l : Loc) (key : Nat) (live : Bool) : Val :=
  if l.sub = 0 then defaultOf y.part l
  else match y.status fl l with
    | some v => v
    | none => if l.row.acc = .rws ∧ ¬live then y.shadowVal key else y.val key

/-- The die that holds an object (R25, R433; log entry 70): the die of the unit it names, of a channel the lowest die it is placed on,
and D0 for everything of the package. -/
def Sys.holder (y : Sys) (l : Loc) : Nat :=
  if 0x2000 ≤ l.base ∧ l.base < 0x3000 then
    (if (y.chan l.inst).run = 0 then 0 else ((y.chan l.inst).pipes.map Prod.fst).foldl min 255 % 255)
  else if l.base = 0x3000 ∨ (0x3200 ≤ l.base ∧ l.base < 0x3280) then l.inst / 4
  else if l.base = 0x3100 ∨ l.base = 0x3101 then l.inst / 16
  else if l.base = 0x3300 ∨ l.base = 0x3301 ∨ l.base = 0x3540 ∨ l.base = 0x3900 then l.inst / 12
  else if l.base = 0x3400 then l.inst / 256
  else if l.sub = 0 then 0
  else if l.base = 0x3810 then (l.sub - 1) / 3
  else if l.base = 0x3521 then l.sub - 1
  else if l.base = 0x502A ∨ l.base = 0x502B ∨ l.base = 0x502C ∨ l.base = 0x5074 then (l.sub - 1) / 6
  else if l.base = 0x5050 then (l.sub - 1) / 24
  else if l.base = 0x5051 then (l.sub - 1) / 12
  else if l.base = 0x5002 ∨ (0x5020 ≤ l.base ∧ l.base < 0x5054 ∧ l.base ≠ 0x5052) ∨ (0x5070 ≤ l.base ∧ l.base < 0x5076) ∨
      (0x507A ≤ l.base ∧ l.base < 0x507D) then l.sub - 1
  else 0

end Sys2Proof.Machine
end

