-- ==== Sys2Proof/Machine/Manage.lean ====
section
/-! DEFINITION. What a write of each object does (R436 to R441, R452, R463 to R466, R471 to R476, R525, R527, and the rules of the
chapters), and the raw register window. -/

namespace Sys2Proof.Machine

/-- Package memory, the boot flash and the rest of the state. -/
abbrev Full := List Host.Cell × List Host.Cell × Sys

/-- What a write answers, over all of the state. -/
abbrev FullRes := Option (Nat × Nat) × Full

/-- A write that leaves package memory and the flash alone. -/
def plainWrite (f : Sys → WriteRes) (p : Full) : FullRes :=
  let r := f p.2.2
  (r.1, (p.1, p.2.1, r.2))

/-- A write that may change the flash. -/
def flashWrite (f : List Host.Cell × Sys → List Host.Cell × WriteRes) (p : Full) : FullRes :=
  let r := f p.2
  (r.2.1, (p.1, r.1, r.2.2))

/-- A change of everything but package memory and the flash. -/
def Full.map (f : Sys → Sys) (p : Full) : Full := (p.1, p.2.1, f p.2.2)

/-! ### Sessions' own state -/

/-- The session of a source. -/
def Sys.session (y : Sys) (src : Src) : Option Session := y.mgmt.sessions.find? fun (s : Session) => s.src == src

/-- Change the session of a source. -/
def Sys.onSession (src : Src) (f : Session → Session) (y : Sys) : Sys :=
  { y with mgmt := { y.mgmt with sessions := y.mgmt.sessions.map fun (s : Session) => if s.src = src then f s else s } }

/-- The window address of a session (R476). -/
def Sys.winAddr (y : Sys) (src : Src) : Nat := ((y.session src).map fun (s : Session) => s.winAddr).getD 0

/-! ### The raw register window (R476, R477) -/

/-- The die and offset of a package address that the variant has. -/
def Sys.winPlace (y : Sys) (a : Nat) : Option (Nat × Nat) :=
  let d := bits a 45 43
  if 2 ^ 46 ≤ a ∨ y.part.dies ≤ d then none else some (d, a % 2 ^ 43)

/-- Whether master 17 meets a decode error at an offset (R413 to R415). -/
def winBad (o : Nat) : Bool := targetOf o == 13 || ((targetOf o == 7 || targetOf o == 8) && !regHeld o)

/-- Whether 32 bits of DRAM come back sound: the rank serves and the burst is not poisoned (R374, R379). -/
def Sys.dramSound (y : Sys) (d o : Nat) : Bool :=
  let q := o - 0x40000000000
  ((y.die d).dram.serving (dramCtrl q) (dramLoc (dramC q)).1).isSome && !(y.die d).dram.poisoned.contains (64 * (q / 64))

/-- A read of DiagWinData: 32 bits, or a decode error (R476). The boot ROM, and a burst of DRAM that is lost, read a free value. -/
def winRead (a : Nat) (p : Full) : Option Nat × Full :=
  let y := p.2.2
  match y.winPlace a with
  | none => (none, p.map (Sys.decodeError 0 17 a))
  | some (d, o) =>
    let x := y.die d
    let t := targetOf o
    if winBad o then (none, p.map (Sys.decodeError d 17 a))
    else if t = 7 ∨ t = 8 then
      (some (y.regRead d o), if (regBlock o).isSome then p else p.map Sys.fresh)
    else
      match keptAt x.remap d o with
      | some k =>
        if (t = 5 ∨ t = 6) ∧ y.dramSound d o = false then (some (y.freeNow % 2 ^ 32), p.map Sys.fresh)
        else (some (leNat (loadBytes memDflt p.1 k 4)), p)
      | none => (some (y.freeNow % 2 ^ 32), p.map Sys.fresh)

/-- A write of DiagWinData (R476): only REG and FLAG take it; an accepted one is counted and raised. -/
def Sys.winWrite (a w : Nat) (y : Sys) : WriteRes :=
  match y.winPlace a with
  | none => abortWith 2 y
  | some (d, o) =>
    if targetOf o ≠ 7 ∧ targetOf o ≠ 8 then abortWith 2 y
    else if winBad o then abortWith 4 (y.decodeError d 17 a)
    else accept (((y.regWrite d o w 17).bump Ob.DiagWinWrites 1).raise 0x0108 d a)

/-! ### The fast table (R452) -/

/-- Entry i of a table: the object's index and subindex; an empty entry names none. -/
def fastEntry (t : List Byte) (i : Nat) : Option (Nat × Nat) :=
  let w := leNat ((t.drop (4 * i)).take 4)
  if w / 65536 = 0 then none else some (w / 65536, bits w 15 8)

/-- The entries of the live table. -/
def Sys.fastEntries (y : Sys) : List (Option (Nat × Nat)) := (List.range 256).map (fastEntry (y.bytes Ob.FastTable))

/-- Whether an entry may stand in the table. A window access never does (R476). -/
def fastOk (dies : Nat) (e : Option (Nat × Nat)) : Bool :=
  match e with
  | none => true
  | some (i, s) => match locate dies i s with
    | some l => l.row.acc != .wo && l.row.ty.size.isSome && objKey i s != Ob.DiagWinData
    | none => false

/-- The mirror takes the present live value of the entries that `which` picks (R453). -/
def Sys.mirrorThe (which : Loc → Bool) (fl : List Host.Cell) (y : Sys) : Sys :=
  y.each (y.fastEntries.filterMap id) fun e y =>
    match locate y.part.dies e.1 e.2 with
    | some l =>
      if which l then
        let m := Tab.put (fun _ => .int 0) y.mgmt.mirror (objKey e.1 e.2) (y.readVal fl l (objKey e.1 e.2) true)
        { y with mgmt := { y.mgmt with mirror := m } }
      else y
    | none => y

/-- A write of FastTable (R452): the table changes as a whole. -/
def Sys.fastWrite (b : List Byte) (fl : List Host.Cell) (y : Sys) : WriteRes :=
  if (List.range 256).all fun i => fastOk y.part.dies (fastEntry b i) then
    let z := y.setBytes Ob.FastTable b
    accept (({ z with mgmt := { z.mgmt with mirror := [] } } : Sys).mirrorThe (fun _ => true) fl)
  else abortWith 4 y

/-! ### Attestation (R464, R466) -/

/-- The attestation report over a nonce. -/
def Sys.report (y : Sys) (nonce : List Byte) (fl : List Host.Cell) : List Byte := signed (y.statement fl 1 nonce 0)

/-- A write of SecAttestNonce (R466). -/
def Sys.nonceWrite (nonce : List Byte) (fl : List Host.Cell) (y : Sys) : WriteRes :=
  accept { y with mgmt := { y.mgmt with attest := y.report nonce fl } }

/-! ### Writes with a behaviour of their own -/

/-- The ports that something of R349 names. -/
def Sys.portNamed (y : Sys) (p : Nat) : Bool :=
  (y.activeChans.any fun n =>
      ((chLegs (y.cfg n) n (y.chan n).cx.isSome).any fun l => l.2.port == p) || ((chOutLegs (y.cfg n) n).any fun l => l.port == p)) ||
  ((List.range (4 * y.part.dies)).any fun c => y.flag (Ob.CxEnable c) && (y.cxPorts y.val c).contains p) ||
  ((List.range (4 * y.part.dies)).any fun a => (auOutLegs y.val a).any fun l => l.port == p) ||
  (y.lyList.any fun l => y.nat (Ob.LySource l) == 2 && y.nat (Ob.DecSource l) != 0 &&
      (legsAt y.val (Ob.DecPortA l) (y.nat (Ob.DecLegMode l) == 1)).any fun e => e.port == p) ||
  ((List.range 8).any fun b => y.nat (Ob.TbPort1 b) == p || y.nat (Ob.TbPort2 b) == p)

/-- A write to PortMode (R349). -/
def Sys.portModeWrite (p m : Nat) (y : Sys) : WriteRes :=
  if (m = 0 ∧ y.portNamed p = true) ∨ (modeRate m : Rat) < y.reservedBut p none none none then abortWith 4 y
  else accept (y.setInt (Ob.PortMode p) m)

/-- A write to PortEnable (R348, R349). -/
def Sys.portEnableWrite (p v : Nat) (y : Sys) : WriteRes := if v = 1 then y.portOn p else y.portOff p

/-- A write to AuTimeBase or AuFrameRate (R226). -/
def Sys.frameClockWrite (k v : Nat) (y : Sys) : WriteRes :=
  if (List.range (4 * y.part.dies)).any fun a => y.flag (Ob.AuEnable a) || (y.au a).on then abortWith 4 y else accept (y.setInt k v)

/-- A write to PolMode (R296): a change fills the buckets. -/
def Sys.polModeWrite (k v : Nat) (y : Sys) : WriteRes :=
  accept (if y.nat (Ob.PolMode k) = v then y else (y.setInt (Ob.PolMode k) v).polFull k)

/-- A write to a rate or burst of a policer (R296): tokens earned so far are kept, clipped to the new bursts. -/
def Sys.polRateWrite (k key v : Nat) (y : Sys) : WriteRes :=
  accept (((y.setPol k (y.polNow k)).setInt key v).polClip k)

/-- A write to TbStep (R313). -/
def Sys.tbStepWrite (b : Nat) (delta : Int) (y : Sys) : WriteRes :=
  match y.stepRequest b delta with
  | .ok z => accept z
  | .error e => abortWith e y

/-- A write of 1 to TbStepToMaster (R313). -/
def Sys.tbToMaster (b : Nat) (y : Sys) : WriteRes :=
  match (y.tb b).judged with
  | some o => y.tbStepWrite b (-o)
  | none => abortWith 4 y

/-- A write to FabMemShare (R426): the shares sum to 1,000 at most. -/
def Sys.shareWrite (key v : Nat) (y : Sys) : WriteRes :=
  let z := y.setInt key v
  if 1000 < ((List.range 22).map z.share).sum then abortWith 4 y else accept z

/-- A write to LnTxFir (R367). -/
def Sys.firWrite (l v : Nat) (y : Sys) : WriteRes := if y.firOk l v then accept (y.setInt (Ob.LnTxFir l) v) else abortWith 4 y

/-- A write to DevResetReq (R467, R486, R527). -/
def Sys.resetReq (v : Nat) (y : Sys) : WriteRes := accept (if v = 1 then y.wantReset 2 else y)

/-- A write to ChControl (R471 to R473). -/
def Sys.chControl (n v : Nat) (y : Sys) : WriteRes := if v = 1 then y.chStart n else y.chStop n

/-- A write of 1 to CxCommit: an accepted one may bring the context's domain up ahead of its boundary (R213, R483). -/
def Sys.cxCommitWrite (c : Nat) (y : Sys) : WriteRes := let r := y.cxCommit c; (r.1, if r.1.isNone then r.2.powerAll else r.2)

/-- A write of 1 to AuCommit, likewise (R232, R483). -/
def Sys.auCommitWrite (a : Nat) (y : Sys) : WriteRes := let r := y.auCommit a; (r.1, if r.1.isNone then r.2.powerAll else r.2)

/-- A write of a persistent object (R475): in effect at once, and on its way to the flash. -/
def Sys.persistWrite (key : Nat) (v : Val) (y : Sys) : WriteRes :=
  let z := y.setVal key v
  accept { z with mgmt := { z.mgmt with persistDue := true } }

/-- Whether a TIME96 written to GclBaseTime may stand (R298, R300): NS below 10⁹, and within 39 h of the present on the base. -/
def Sys.baseTimeOk (p v : Nat) (y : Sys) : Bool :=
  decide (bits v 47 16 < 1000000000) &&
    decide ((ofTime96 v - y.tbNow (y.shadowVal (Ob.PortTimeBase p)).nat).natAbs ≤ secU 140400)

/-- A write of an RWS object (R438). -/
def Sys.shadowWrite (l : Loc) (key : Nat) (v : Val) (y : Sys) : WriteRes :=
  if l.base = 0x3300 ∧ l.sub = 0x08 ∧ y.baseTimeOk l.inst v.nat = false then abortWith 4 y else accept (y.setShadow key v)

/-- Whether an object written with a value of its range is refused all the same: a MAC address that is a group's (R350), and a
limit temperature above the grade's (R36). -/
def Sys.valueBarred (y : Sys) (key : Nat) (l : Loc) (v : Val) : Bool :=
  (l.base == 0x3300 && l.sub == 0x36 && bit ((v.toBytes.headD 0).toNat) 0) ||
    (key == Ob.SensLimitTemp && decide ((100 + 5 * y.part.grade : Nat) < v.toInt))

/-- What a write of a value within its range does, by table index and subindex. -/
def writeValue (src : Src) (key : Nat) (l : Loc) (v : Val) (p : Full) : FullRes :=
  let n := l.inst
  let i := v.nat
  let y := p.2.2
  let one := fun (f : Sys → WriteRes) => if i = 1 then plainWrite f p else (none, p)
  match l.base, l.sub with
  | 0x1005, _ => plainWrite (Sys.resetReq i) p
  | 0x1022, _ => plainWrite (Sys.fastWrite v.toBytes p.2.1) p
  | 0x2000, 0x01 => plainWrite (Sys.chControl n i) p
  | 0x2000, 0x05 => one (Sys.chCommit n)
  | 0x2009, 0x11 => one (Sys.refreshNow n)
  | 0x3000, 0x11 => one (Sys.cxCommitWrite n)
  | 0x3200, 0x14 => one (Sys.auCommitWrite n)
  | 0x3280, _ => plainWrite (Sys.frameClockWrite key i) p
  | 0x3300, 0x0A => one (Sys.portCommit n)
  | 0x3300, 0x30 => plainWrite (Sys.portModeWrite n i) p
  | 0x3300, 0x31 => plainWrite (Sys.portEnableWrite n i) p
  | 0x3400, 0x01 => plainWrite (Sys.polModeWrite n i) p
  | 0x3500, 0x10 => plainWrite (Sys.tbStepWrite n v.toInt) p
  | 0x3500, 0x11 => one (Sys.tbToMaster n)
  | 0x3600, 0x04 => one Sys.memCommit
  | 0x3600, 0x16 => plainWrite (Sys.migrateNow i) p
  | 0x3700, 0x05 => one Sys.traceClear
  | 0x3721, _ => plainWrite (Sys.shareWrite key i) p
  | 0x3800, 0x05 => plainWrite (Sys.bandTableWrite n v.toBytes) p
  | 0x3800, 0x06 => plainWrite (Sys.bandCal n i) p
  | 0x3800, 0x07 => one (Sys.clkCommit n)
  | 0x3800, 0x0A => one (Sys.clkRetry n)
  | 0x3900, 0x03 => plainWrite (Sys.firWrite n i) p
  | 0x3900, 0x28 => one (Sys.scanStart n)
  | 0x5001, 0x01 =>
    if i % 4 = 0 then (none, p.map (Sys.onSession src fun s => { s with winAddr := i })) else plainWrite (abortWith 4) p
  | 0x5001, 0x02 => plainWrite (Sys.winWrite (y.winAddr src) i) p
  | 0x5078, _ => plainWrite (Sys.rankClear i) p
  | 0x6000, 0x06 => plainWrite (Sys.nonceWrite v.toBytes p.2.1) p
  | 0x6020, 0x01 => plainWrite (Sys.updBegin i) p
  | 0x6020, 0x03 => plainWrite (Sys.updChunk v.toBytes) p
  | 0x6020, 0x04 => one Sys.updVerify
  | 0x6020, 0x05 => if i = 1 then flashWrite updActivate p else (none, p)
  | 0x6020, 0x06 => if i = 1 then flashWrite updConfirm p else (none, p)
  | b, s =>
    if b = 0x3400 ∧ 3 ≤ s ∧ s ≤ 6 then plainWrite (Sys.polRateWrite n key i) p
    else if b = 0x3500 ∧ s ≤ 9 then plainWrite (fun y => accept (y.writeTbObject n key v)) p
    else if persistentKeys.contains key then plainWrite (Sys.persistWrite key v) p
    else if l.row.acc = .rws then plainWrite (Sys.shadowWrite l key v) p
    else plainWrite (fun y => accept (y.setVal key v)) p

/-- The abort that the form of a written value earns (R437): a chunk of an update may be short (R496). -/
def decodeWrite (l : Loc) (b : List Byte) : Except Nat Val :=
  if l.base = 0x6020 ∧ l.sub = 0x03 ∧ b.length ≤ 65536 then .ok (.bytes b) else decodeVal l.row b

/-- Whether an object can be written: the abort code where it cannot (R436, R469). -/
def writableAt (dies idx sub : Nat) : Except Nat Loc :=
  match locate dies idx sub with
  | none => .error 1
  | some l => if l.row.acc = .ro ∨ l.row.acc = .const then .error 2 else .ok l

/-- A write of bytes to an object: existence, access, length, range, and what it does (R436, R437, R469, R525). -/
def writeObject (src : Src) (idx sub : Nat) (b : List Byte) (p : Full) : FullRes :=
  match writableAt p.2.2.part.dies idx sub with
  | .error e => (some (e, 0), p)
  | .ok l =>
    match decodeWrite l b with
    | .error e => (some (e, 0), p)
    | .ok v =>
      if p.2.2.valueBarred (objKey idx sub) l v then (some (4, 0), p) else writeValue src (objKey idx sub) l v p

/-- A read of an object: its bytes, or an abort (R436, R469). Reading DieFabDecAddr clears it (R415). -/
def readObject (src : Src) (idx sub : Nat) (live : Bool) (p : Full) : Except Nat (List Byte) × Full :=
  let y := p.2.2
  match locate y.part.dies idx sub with
  | none => (.error 1, p)
  | some l =>
    if l.row.acc = .wo then (.error 2, p)
    else if l.base = 0x5001 ∧ l.sub = 0x01 then (.ok (leBytes 8 (y.winAddr src)), p)
    else if l.base = 0x5001 ∧ l.sub = 0x02 then
      let r := winRead (y.winAddr src) p
      match r.1 with
      | some w => (.ok (leBytes 4 w), r.2)
      | none => (.error 4, r.2)
    else
      let b := encodeVal l.row.ty (y.readVal p.2.1 l (objKey idx sub) live)
      if l.base = 0x5041 ∧ l.sub ≠ 0 then (.ok b, p.map (Sys.clearDecAddr (l.sub - 1))) else (.ok b, p)

/-- What DESCRIBE answers (R443, R526). -/
def describeObject (dies idx sub : Nat) : Except Nat (List Byte) :=
  match locate dies idx sub with
  | none => .error 1
  | some l => .ok (codes [l.row.ty.code, l.row.acc.code] ++ leBytes 4 (l.row.ty.size.getD l.row.size))

end Sys2Proof.Machine
end

