-- ==== Sys2Proof/Machine/Session.lean ====
section
/-! DEFINITION. Management messages, sessions, segmented transfers, snapshots, forwarding and the fast path, and the commands that are
management requests (R25, R434, R435, R442 to R455). -/

namespace Sys2Proof.Machine

/-! ### Messages (R442 to R446) -/

/-- What a request is answered with: command byte and payload, or abort code and reason. -/
abbrev Ans := Except (Nat × Nat) (Nat × List Byte)

/-- The response or abort to a request (R442, R444). -/
def answerTo (m : Msg) (a : Ans) : Msg :=
  match a with
  | .ok r => { m with cmd := r.1, flags := 0, data := r.2 }
  | .error e => { m with cmd := 0xFF, flags := 0, data := leBytes 4 (e.1 % 65536 + e.2 % 65536 * 65536) }

/-- The payload of one message (R445). -/
def payloadLimit (src : Src) : Nat :=
  match src with
  | .udp _ _ => 1400
  | .can _ => 56

/-- Whether a request can come over the transport: its payload fits, and a CAN FD node has a number from 1 to 127 (R449). -/
def arrives (src : Src) (bytes : Nat) : Bool :=
  decide (bytes ≤ payloadLimit src) && match src with
    | .udp _ _ => true
    | .can n => decide (1 ≤ n ∧ n ≤ 127)

/-! ### What is served when (R435, R495, R500) -/

/-- Whether D0's Beryl runs: not in reset and not unpowered. -/
def Sys.beryl (y : Sys) : Bool :=
  match y.power.phase with
  | .powerOn | .sysReset _ => false
  | _ => true

/-- Whether a source's requests reach Beryl: a CAN FD controller in bus-off receives nothing (R449). -/
def Sys.hears (y : Sys) (src : Src) : Bool :=
  y.beryl && match src with
    | .udp _ _ => true
    | .can _ => !y.mgmt.canOff

/-- Whether a request is served in the present phase; every other one is answered with abort 0x000B. -/
def Sys.admits (y : Sys) (m : Msg) : Bool :=
  let early := (m.cmd == 0x01 || m.cmd == 0x05) && (m.idx / 0x1000 == 1 || m.idx / 0x1000 == 5)
  match y.power.phase with
  | .running => true
  | .recovery => early || (m.cmd == 0x02 && m.idx == 0x1005 && m.sub == 0x01) || (decide (0x6020 ≤ m.idx) && decide (m.idx ≤ 0x602F))
  | _ => early

/-! ### Sessions (R450, R451) -/

/-- Whether a session is a UDP session. -/
def Session.isUdp (s : Session) : Bool :=
  match s.src with
  | .udp _ _ => true
  | .can _ => false

/-- A UDP session is forgotten after 60 s without a request (R450). -/
def Session.expired (s : Session) (now : Nat) : Bool := s.isUdp && decide (s.last + secU 60 ≤ now)

/-- What has timed out in a session is gone: a segmented write and a snapshot after 1 s (R446, R447). -/
def Session.trim (now : Nat) (s : Session) : Session :=
  { s with seg := s.seg.filter fun w => decide (now < w.t + secU 1), snap := s.snap.filter fun n => decide (now < n.t + secU 1) }

/-- Sessions as they stand at the present. -/
def Sys.trimmed (y : Sys) : Sys :=
  { y with mgmt := { y.mgmt with
      sessions := (y.mgmt.sessions.filter fun (s : Session) => !s.expired y.now).map (Session.trim y.now) } }

/-- Responses leave in the order of their requests: those ready before the first that is not (R25, R450). -/
def Sys.release (src : Src) (y : Sys) : Sys :=
  match y.session src with
  | some s =>
    let out := s.outst.takeWhile fun (o : Outst) => o.ready
    (y.onSession src fun s => { s with outst := s.outst.drop out.length }).each out fun o y => y.emit (.response src o.resp)
  | none => y

/-- A request takes its place in the session's queue, with the response it is to get (R450, R451). -/
def Sys.queueUp (src : Src) (o : Outst) (y : Sys) : Sys :=
  (y.onSession src fun s =>
    { s with outst := s.outst ++ [o], stored := ({ req := o.req, resp := o.resp, t := y.now } :: s.stored).take 8 }).release src

/-- The session of a source, new if need be; `none` for a 17th UDP source (R450). -/
def Sys.openSession (src : Src) (y : Sys) : Option Sys :=
  match y.session src with
  | some _ => some (y.onSession src fun s => { s with last := y.now })
  | none =>
    let s : Session := { src := src, last := y.now }
    if s.isUdp ∧ 16 ≤ (y.mgmt.sessions.filter Session.isUdp).length then none
    else some { y with mgmt := { y.mgmt with sessions := y.mgmt.sessions ++ [s] } }

/-- Whether a die answers D0's Beryl. -/
def Sys.reachable (y : Sys) (d : Nat) : Bool := !(y.die d).mappedOut && !y.mgmt.lost.contains d

/-- The die whose Beryl answers a request (R434): D0 answers alone until boot has completed. -/
def Sys.dieFor (y : Sys) (src : Src) (m : Msg) : Nat :=
  if y.running ∧ m.cmd ≠ 0x06 then
    match locate y.part.dies m.idx m.sub with
    | some l => if l.base = 0x5001 ∧ l.sub = 0x02 then ((y.winPlace (y.winAddr src)).map Prod.fst).getD 0 else y.holder l
    | none => 0
  else 0

/-- A request on an open session (R434, R435, R450, R451): a repeat is answered from the store and not executed; a ninth outstanding
request is turned away; any other is served, and its response waits for the die that holds the object. -/
def handle (src : Src) (m : Msg) (serve : Full → Ans × Full) (p : Full) : Full :=
  let y := p.2.2
  let s := (y.session src).getD { src := src }
  match s.stored.find? fun (r : Stored) => r.req == m && decide (y.now < r.t + secU 1) with
  | some r =>
    if s.outst.any fun (o : Outst) => o.req == m && !o.turned then p
    else p.map fun y => (y.onSession src fun s => { s with outst := s.outst ++ [{ req := m, resp := r.resp, since := y.now }] }).release src
  | none =>
    if 8 ≤ (s.outst.filter fun (o : Outst) => !o.turned).length then
      p.map (Sys.queueUp src { req := m, resp := answerTo m (.error (7, 0)), since := y.now, turned := true })
    else if !y.admits m then p.map (Sys.queueUp src { req := m, resp := answerTo m (.error (0xB, 0)), since := y.now })
    else
      let d := y.dieFor src m
      if y.reachable d then
        let r := serve p
        r.2.map (Sys.queueUp src { req := m, resp := answerTo m r.1, die := d, since := y.now, ready := d == 0 })
      else p.map (Sys.queueUp src { req := m, resp := answerTo m (.error (0xA, 0)), die := d, since := y.now, ready := false })

/-- A request arrives (R435, R450): one from a 17th UDP source is answered busy. -/
def arrive (src : Src) (m : Msg) (serve : Full → Full) (p : Full) : Full :=
  if p.2.2.hears src then
    let y := p.2.2.trimmed.finishStops
    match y.openSession src with
    | some z => serve (p.1, p.2.1, z)
    | none => (p.1, p.2.1, (y.emit (.response src (answerTo m (.error (7, 0))))).raiseLimited 0x0107 0 0 0)
  else p

/-! ### The fast path (R452 to R455) -/

/-- A hardware answer: it overtakes and leaves the session's queue alone. -/
def Sys.fastAnswer (src : Src) (m : Msg) (b : List Byte) (y : Sys) : Sys :=
  (y.bump Ob.FastAnswers 1).emit (.response src (answerTo m (.ok (m.cmd + 0x80, b))))

/-- The mirrored value of an entry, in the size of its type. -/
def Sys.mirrored (y : Sys) (e : Nat × Nat) : List Byte :=
  match locate y.part.dies e.1 e.2 with
  | some l => encodeVal l.row.ty (Tab.find (fun _ => .int 0) y.mgmt.mirror (objKey e.1 e.2))
  | none => []

/-- The values of entries from one on, while they fit: how many entries, and their bytes (R455). -/
def Sys.fastValues (y : Sys) (room : Nat) : List (Option (Nat × Nat)) → Nat × List Byte
  | [] => (0, [])
  | e :: es =>
    let b := match e with
      | some e => y.mirrored e
      | none => []
    if room < b.length then (0, [])
    else
      let r := y.fastValues (room - b.length) es
      (r.1 + 1, b ++ r.2)

/-- The payload of a FAST_READ's response (R455). -/
def Sys.fastBytes (y : Sys) (src : Src) (first count : Nat) : List Byte :=
  let r := y.fastValues (payloadLimit src - 1) ((y.fastEntries.drop first).take count)
  BitVec.ofNat 8 r.1 :: r.2

/-- Whether hardware answers a READ (R454): of an object that exists (R469) and stands in the fast table. -/
def Sys.isFast (y : Sys) (idx sub : Nat) (live : Bool) : Bool :=
  y.running && !live && (locate y.part.dies idx sub).isSome && y.fastEntries.contains (some (idx, sub))

/-! ### The requests -/

/-- The snapshot of an earlier READ goes (R447). -/
def Sys.dropSnap (src : Src) (y : Sys) : Sys := y.onSession src fun s => { s with snap := none }

/-- READ (R443, R445, R447): a value larger than one message leaves a snapshot. -/
def serveRead (src : Src) (idx sub : Nat) (live : Bool) (p : Full) : Ans × Full :=
  let r := readObject src idx sub live (p.map (Sys.dropSnap src))
  match r.1 with
  | .error e => (.error (e, 0), r.2)
  | .ok b =>
    if b.length ≤ payloadLimit src then (.ok (0x81, b), r.2)
    else
      (.ok (0x84, leBytes 4 b.length),
       r.2.map fun y => y.onSession src fun s => { s with snap := some { idx := idx, sub := sub, data := b, t := y.now } })

/-- READ_SEG (R443, R447); an object that is not listed answers every command with its abort (R469). -/
def serveReadSeg (src : Src) (idx sub off : Nat) (p : Full) : Ans × Full :=
  match (p.2.2.session src).bind Session.snap with
  | some n =>
    if (locate p.2.2.part.dies idx sub).isNone then (.error (1, 0), p)
    else if n.idx = idx ∧ n.sub = sub then
      (.ok (0x85, (n.data.drop off).take (payloadLimit src)),
       p.map fun y => y.onSession src fun s => { s with snap := some { n with t := y.now } })
    else (.error (8, 0), p)
  | none => (.error (if (locate p.2.2.part.dies idx sub).isNone then 1 else 8, 0), p)

/-- WRITE (R443): a normal response, or the abort. -/
def serveWrite (src : Src) (cmd idx sub : Nat) (b : List Byte) (p : Full) : Ans × Full :=
  let r := writeObject src idx sub b p
  match r.1 with
  | none => (.ok (cmd, []), r.2)
  | some e => (.error e, r.2)

/-- Whether a segmented write of so many bytes may begin (R446). -/
def initOk (l : Loc) (total : Nat) : Bool := lengthOk l.row total || (l.base == 0x6020 && l.sub == 0x03 && decide (total ≤ 65536))

/-- WRITE_INIT (R446): the object and its length rule are checked at once. A value of no bytes is written at once. -/
def serveInit (src : Src) (idx sub total : Nat) (p : Full) : Ans × Full :=
  match writableAt p.2.2.part.dies idx sub with
  | .error e => (.error (e, 0), p)
  | .ok l =>
    if initOk l total then
      if total = 0 then serveWrite src 0x83 idx sub [] p
      else (.ok (0x83, []), p.map fun y => y.onSession src fun s => { s with seg := some { idx := idx, sub := sub, total := total, t := y.now } })
    else (.error (lengthAbort l.row, 0), p)

/-- Change the segmented write of a session. -/
def Sys.setSeg (src : Src) (w : Option SegWrite) (y : Sys) : Sys := y.onSession src fun s => { s with seg := w }

/-- WRITE_SEG (R446): the next segment, the one last accepted again, or the end of the transfer with abort 0x0008. An object that is not
listed is none of the transfer's (R469). -/
def serveSeg (src : Src) (idx sub off : Nat) (b : List Byte) (p : Full) : Ans × Full :=
  let y := p.2.2
  match (y.session src).bind Session.seg with
  | none => (.error (if (locate y.part.dies idx sub).isNone then 1 else 8, 0), p)
  | some w =>
    let ack : Option (Nat × Nat) → Ans := fun e => match e with
      | some e => .error e
      | none => .ok (0x84, [])
    if (locate y.part.dies idx sub).isNone then (.error (1, 0), p)
    else if w.idx ≠ idx ∨ w.sub ≠ sub then (.error (8, 0), p.map (Sys.setSeg src none))
    else if w.last = some off then (ack (w.done.getD none), p.map (Sys.setSeg src (some { w with t := y.now })))
    else if off ≠ w.data.length ∨ w.total < off + b.length ∨ w.done.isSome then (.error (8, 0), p.map (Sys.setSeg src none))
    else
      let w := { w with data := w.data ++ b, last := some off, t := y.now }
      if w.data.length < w.total then (ack none, p.map (Sys.setSeg src (some w)))
      else
        let r := writeObject src idx sub w.data p
        (ack r.1, r.2.map (Sys.setSeg src (some { w with done := some r.1 })))

/-- DESCRIBE (R443, R526). -/
def serveDescribe (idx sub : Nat) (p : Full) : Ans × Full :=
  match describeObject p.2.2.part.dies idx sub with
  | .ok b => (.ok (0x87, b), p)
  | .error e => (.error (e, 0), p)

/-- A request to an object, by its transport. -/
def request (rq : Req) (cmd idx sub flags : Nat) (data : List Byte) (bytes : Nat) (serve : Full → Ans × Full) (p : Full) : Full :=
  let m : Msg := { cmd := cmd, seq := rq.seq % 256, idx := idx, sub := sub, flags := flags, data := data }
  if arrives rq.src bytes then arrive rq.src m (handle rq.src m serve) p else p

/-- A READ as it arrives: by hardware when its object is in the fast table. -/
def readRequest (rq : Req) (idx sub : Nat) (live : Bool) (p : Full) : Full :=
  let m : Msg := { cmd := 0x01, seq := rq.seq % 256, idx := idx, sub := sub, flags := if live then 1 else 0, data := [] }
  if arrives rq.src 0 then
    arrive rq.src m (fun p =>
      if p.2.2.isFast idx sub live then
        p.map fun y => (y.dropSnap rq.src).fastAnswer rq.src m (y.mirrored (idx, sub))
      else handle rq.src m (serveRead rq.src idx sub live) p) p
  else p

/-- A FAST_READ as it arrives. -/
def fastRequest (rq : Req) (first count : Nat) (p : Full) : Full :=
  let b : List Byte := [BitVec.ofNat 8 first, BitVec.ofNat 8 count]
  let m : Msg := { cmd := 0x06, seq := rq.seq % 256, idx := 0, sub := 0, flags := 0, data := b }
  if arrives rq.src 2 then
    arrive rq.src m (fun p =>
      if p.2.2.running then p.map fun y => y.fastAnswer rq.src m (y.fastBytes rq.src (first % 256) (count % 256))
      else handle rq.src m (fun p => (.error (0xB, 0), p)) p) p
  else p

/-- A WRITE of a value in one message. -/
def writeRequest (rq : Req) (idx sub : Nat) (b : List Byte) (p : Full) : Full :=
  request rq 0x02 idx sub 0 b b.length (serveWrite rq.src 0x82 idx sub b) p

/-- A write of a whole value, in one message or as the end of a segmented write (log entry 71). -/
def wholeWrite (rq : Req) (idx sub : Nat) (b : List Byte) (p : Full) : Full :=
  request rq 0x02 idx sub 0 b 0 (serveWrite rq.src 0x82 idx sub b) p

/-- The index of instance n of a table index with a stride; 0, which holds no object, when the stride holds no such instance (R470). -/
def strideIdx (base stride count n : Nat) : Nat := if n < count then base + stride * n else 0

/-! ### Forwarding (R434) -/

/-- The session whose request to a die has waited longest, with the time since. -/
def Sys.waitingFor (y : Sys) (d : Nat) : Option (Src × Nat) :=
  y.mgmt.sessions.foldl (fun (best : Option (Src × Nat)) (s : Session) =>
    match s.outst.find? fun (o : Outst) => !o.ready && o.die == d with
    | some o =>
      match best with
      | some b => if o.since < b.2 then some (s.src, o.since) else best
      | none => some (s.src, o.since)
    | none => best) none

/-- The first request in a queue that waits for a die is ready, with a response. -/
def readyFirst (d : Nat) (resp : Msg → Msg) : List Outst → List Outst
  | [] => []
  | o :: r => if !o.ready && o.die == d then { o with ready := true, resp := resp o.resp } :: r else o :: readyFirst d resp r

/-- FORWARD_RESPONSE (R25, R434): the die answers the request that has waited longest. -/
def Sys.forwardResponse (d : Nat) (y : Sys) : Sys :=
  match y.waitingFor d with
  | some (src, _) =>
    if y.reachable d then
      ({ y with mgmt := { y.mgmt with fwdFails := Tab.put (fun _ => 0) y.mgmt.fwdFails d 0 } }.onSession src fun s =>
        { s with outst := readyFirst d id s.outst }).release src
    else y
  | none => y

/-- A request that failed is answered with abort 0x000A, and so are its repeats. -/
def Session.fail (d : Nat) (s : Session) : Session :=
  let abort := fun (m : Msg) => answerTo m (.error (0xA, 0))
  match s.outst.find? fun (o : Outst) => !o.ready && o.die == d with
  | some o => { s with outst := readyFirst d abort s.outst,
                       stored := s.stored.map fun (r : Stored) => if r.req = o.req then { r with resp := abort r.resp } else r }
  | none => s

/-- FORWARD_TIMEOUT (R434): three failures in a row to one die lose it, and the package resets. -/
def Sys.forwardTimeout (d : Nat) (y : Sys) : Sys :=
  match y.waitingFor d with
  | some (src, t) =>
    if t + msU 5 ≤ y.now then
      let n := Tab.find (fun _ => 0) y.mgmt.fwdFails d + 1
      let y := { y with mgmt := { y.mgmt with fwdFails := Tab.put (fun _ => 0) y.mgmt.fwdFails d n } }
      let y := ((y.onSession src (Session.fail d)).bump Ob.MgmtFwdFail 1).raise 0x0104 0 d
      let y := if n = 3 then
          ({ y with mgmt := { y.mgmt with lost := d :: y.mgmt.lost } }.raise 0x0105 0 d).wantReset 5
        else y
      y.release src
    else y
  | none => y

/-! ### Timers and transports -/

/-- SESSION_EXPIRY (R450). -/
def Sys.sessionExpiry (src : Src) (y : Sys) : Sys :=
  { y with mgmt := { y.mgmt with sessions := y.mgmt.sessions.filter fun (s : Session) => !(s.src == src && s.expired y.now) } }

/-- SEGMENT_TIMEOUT (R446). -/
def Sys.segmentTimeout (src : Src) (y : Sys) : Sys :=
  y.onSession src fun s => { s with seg := (s.trim y.now).seg }

/-- SNAPSHOT_RELEASE (R447). -/
def Sys.snapshotRelease (src : Src) (y : Sys) : Sys :=
  y.onSession src fun s => { s with snap := (s.trim y.now).snap }

/-- MGMT_LINK_CHANGE (R448). -/
def Sys.linkChange (up : Bool) (y : Sys) : Sys :=
  if y.beryl ∧ y.mgmt.linkUp ≠ up then
    { y with mgmt := { y.mgmt with linkUp := up } }.raise (if up then 0x0101 else 0x0102) 0 0
  else y

/-- CAN_BUS_OFF (R449). -/
def Sys.canBusOff (y : Sys) : Sys :=
  if y.beryl ∧ ¬y.mgmt.canOff then { y with mgmt := { y.mgmt with canOff := true } }.raise 0x0106 0 0 else y

/-- BUS_OFF_RECOVERY (R449). -/
def Sys.busOffRecovery (y : Sys) : Sys := { y with mgmt := { y.mgmt with canOff := false } }

/-- FAST_TABLE_UPDATE (R453): a die's Beryl refreshes the mirror values of its objects. -/
def fastUpdate (d : Nat) (p : Full) : Full :=
  if p.2.2.running && p.2.2.reachable d then p.map (Sys.mirrorThe (fun l => p.2.2.holder l == d) p.2.1) else p

end Sys2Proof.Machine
end

