-- ==== Sys2Proof/Machine/Requests.lean ====
section
/-! DEFINITION. The meanings of the commands that are management requests and of the timers and transports of D0's Beryl (R434, R442 to
R455). -/

namespace Sys2Proof.Machine

/-- Lift a change of the whole state. -/
def onAll (f : Full → Full) (m fl : List Host.Cell) (y : Sys) : Full := f (m, fl, y)

/-- READ (R443). -/
def execRead (dt : Nat) (rq : Req) (idx sub : Nat) (live : Bool) (s : State) : Res := actMem dt (onAll (readRequest rq idx sub live)) s

/-- WRITE (R443). -/
def execWrite (dt : Nat) (rq : Req) (idx sub : Nat) (data : List Byte) (s : State) : Res :=
  actMem dt (onAll (writeRequest rq idx sub data)) s

/-- WRITE_INIT (R446). -/
def execWriteInit (dt : Nat) (rq : Req) (idx sub total : Nat) (s : State) : Res :=
  actMem dt (onAll (request rq 0x03 idx sub 0 (leBytes 4 total) 4 (serveInit rq.src idx sub (total % 2 ^ 32)))) s

/-- WRITE_SEG (R446). -/
def execWriteSeg (dt : Nat) (rq : Req) (idx sub offset : Nat) (data : List Byte) (s : State) : Res :=
  actMem dt (onAll (request rq 0x04 idx sub 0 (leBytes 4 offset ++ data) (4 + data.length)
    (serveSeg rq.src idx sub (offset % 2 ^ 32) data))) s

/-- READ_SEG (R447). -/
def execReadSeg (dt : Nat) (rq : Req) (idx sub offset : Nat) (s : State) : Res :=
  actMem dt (onAll (request rq 0x05 idx sub 0 (leBytes 4 offset) 4 (serveReadSeg rq.src idx sub (offset % 2 ^ 32)))) s

/-- FAST_READ (R455). -/
def execFastRead (dt : Nat) (rq : Req) (first count : Nat) (s : State) : Res := actMem dt (onAll (fastRequest rq first count)) s

/-- DESCRIBE (R526). -/
def execDescribe (dt : Nat) (rq : Req) (idx sub : Nat) (s : State) : Res :=
  actMem dt (onAll (request rq 0x07 idx sub 0 [] 0 (serveDescribe idx sub))) s

/-- REGISTER_WRITE (R525): a WRITE of an object that has no behaviour of its own. -/
def execRegisterWrite (dt : Nat) (rq : Req) (idx sub : Nat) (data : List Byte) (s : State) : Res :=
  actMem dt (onAll (wholeWrite rq idx sub data)) s

/-- SHADOW_WRITE (R438): a WRITE of an RWS object. -/
def execShadowWrite (dt : Nat) (rq : Req) (idx sub : Nat) (data : List Byte) (s : State) : Res :=
  actMem dt (onAll (wholeWrite rq idx sub data)) s

/-- CH_CONTROL_START (R471, R472). -/
def execChControlStart (dt : Nat) (rq : Req) (ch : Nat) (s : State) : Res :=
  actMem dt (onAll (wholeWrite rq (strideIdx 0x2000 0x20 128 ch) 0x01 [1])) s

/-- CH_CONTROL_STOP (R66, R471). -/
def execChControlStop (dt : Nat) (rq : Req) (ch : Nat) (s : State) : Res :=
  actMem dt (onAll (wholeWrite rq (strideIdx 0x2000 0x20 128 ch) 0x01 [2])) s

/-- CH_COMMIT (R162, R438). -/
def execChCommit (dt : Nat) (rq : Req) (ch : Nat) (s : State) : Res :=
  actMem dt (onAll (wholeWrite rq (strideIdx 0x2000 0x20 128 ch) 0x05 [1])) s

/-- CX_COMMIT (R213). -/
def execCxCommit (dt : Nat) (rq : Req) (cx : Nat) (s : State) : Res :=
  actMem dt (onAll (wholeWrite rq (strideIdx 0x3000 8 32 cx) 0x11 [1])) s

/-- AU_COMMIT (R232). -/
def execAuCommit (dt : Nat) (rq : Req) (port : Nat) (s : State) : Res :=
  actMem dt (onAll (wholeWrite rq (strideIdx 0x3200 2 32 port) 0x14 [1])) s

/-- PORT_COMMIT (R289). -/
def execPortCommit (dt : Nat) (rq : Req) (port : Nat) (s : State) : Res :=
  actMem dt (onAll (wholeWrite rq (strideIdx 0x3300 2 96 port) 0x0A [1])) s

/-- CLK_COMMIT (R339). -/
def execClkCommit (dt : Nat) (rq : Req) (pll : Nat) (s : State) : Res :=
  actMem dt (onAll (wholeWrite rq (strideIdx 0x3800 1 6 pll) 0x07 [1])) s

/-- MEM_COMMIT (R384). -/
def execMemCommit (dt : Nat) (rq : Req) (s : State) : Res := actMem dt (onAll (wholeWrite rq 0x3600 0x04 [1])) s

/-- ENC_REFRESH_NOW (R121). -/
def execEncRefreshNow (dt : Nat) (rq : Req) (ch : Nat) (s : State) : Res :=
  actMem dt (onAll (wholeWrite rq (strideIdx 0x2009 0x20 128 ch) 0x11 [1])) s

/-- TB_STEP (R313). -/
def execTbStep (dt : Nat) (rq : Req) (tb : Nat) (delta : Int) (s : State) : Res :=
  actMem dt (onAll (wholeWrite rq (strideIdx 0x3500 2 8 tb) 0x10 (leBytes 8 (toUnsigned 8 delta)))) s

/-- TB_STEP_TO_MASTER (R313). -/
def execTbStepToMaster (dt : Nat) (rq : Req) (tb : Nat) (s : State) : Res :=
  actMem dt (onAll (wholeWrite rq (strideIdx 0x3500 2 8 tb) 0x11 [1])) s

/-- CLK_BAND_CAL (R329). -/
def execClkBandCal (dt : Nat) (rq : Req) (pll entry : Nat) (s : State) : Res :=
  actMem dt (onAll (wholeWrite rq (strideIdx 0x3800 1 6 pll) 0x06 (leBytes 1 entry))) s

/-- CLK_RETRY (R336). -/
def execClkRetry (dt : Nat) (rq : Req) (pll : Nat) (s : State) : Res :=
  actMem dt (onAll (wholeWrite rq (strideIdx 0x3800 1 6 pll) 0x0A [1])) s

/-- CLK_BAND_TABLE_WRITE (R328). -/
def execClkBandTableWrite (dt : Nat) (rq : Req) (pll : Nat) (data : List Byte) (s : State) : Res :=
  actMem dt (onAll (wholeWrite rq (strideIdx 0x3800 1 6 pll) 0x05 data)) s

/-- LN_SCAN_START (R365). -/
def execLnScanStart (dt : Nat) (rq : Req) (lane : Nat) (s : State) : Res :=
  actMem dt (onAll (wholeWrite rq (strideIdx 0x3900 1 96 lane) 0x28 [1])) s

/-- PORT_ENABLE (R348). -/
def execPortEnable (dt : Nat) (rq : Req) (port : Nat) (s : State) : Res :=
  actMem dt (onAll (wholeWrite rq (strideIdx 0x3300 2 96 port) 0x31 [1])) s

/-- PORT_DISABLE (R349). -/
def execPortDisable (dt : Nat) (rq : Req) (port : Nat) (s : State) : Res :=
  actMem dt (onAll (wholeWrite rq (strideIdx 0x3300 2 96 port) 0x31 [0])) s

/-- PORT_MODE_WRITE (R349). -/
def execPortModeWrite (dt : Nat) (rq : Req) (port mode : Nat) (s : State) : Res :=
  actMem dt (onAll (wholeWrite rq (strideIdx 0x3300 2 96 port) 0x30 (leBytes 1 mode))) s

/-- MEM_MIGRATE_NOW (R381). -/
def execMemMigrateNow (dt : Nat) (rq : Req) (rank : Nat) (s : State) : Res :=
  actMem dt (onAll (wholeWrite rq 0x3600 0x16 (leBytes 2 rank))) s

/-- ONYX_TRACE_CLEAR (R408). -/
def execOnyxTraceClear (dt : Nat) (rq : Req) (s : State) : Res := actMem dt (onAll (wholeWrite rq 0x3700 0x05 [1])) s

/-- DEV_RESET_REQ (R527). -/
def execDevResetReq (dt : Nat) (rq : Req) (value : Nat) (s : State) : Res :=
  actMem dt (onAll (wholeWrite rq 0x1005 0x01 (leBytes 1 value))) s

/-- SEC_ATTEST_NONCE (R466). -/
def execSecAttestNonce (dt : Nat) (rq : Req) (nonce : List Byte) (s : State) : Res :=
  actMem dt (onAll (wholeWrite rq 0x6000 0x06 nonce)) s

/-- REP_RANK_CLEAR (R507). -/
def execRepRankClear (dt : Nat) (rq : Req) (rank : Nat) (s : State) : Res :=
  actMem dt (onAll (wholeWrite rq 0x5078 0x01 (leBytes 2 rank))) s

/-- FAST_TABLE_WRITE (R452). -/
def execFastTableWrite (dt : Nat) (rq : Req) (data : List Byte) (s : State) : Res :=
  actMem dt (onAll (wholeWrite rq 0x1022 0x01 data)) s

/-- DIAG_WIN_ADDR_WRITE (R476). -/
def execDiagWinAddrWrite (dt : Nat) (rq : Req) (addr : Nat) (s : State) : Res :=
  actMem dt (onAll (wholeWrite rq 0x5001 0x01 (leBytes 8 addr))) s

/-- DIAG_WIN_WRITE (R476). -/
def execDiagWinWrite (dt : Nat) (rq : Req) (value : Nat) (s : State) : Res :=
  actMem dt (onAll (wholeWrite rq 0x5001 0x02 (leBytes 4 value))) s

/-- POL_MODE_WRITE (R296). -/
def execPolModeWrite (dt : Nat) (rq : Req) (pol mode : Nat) (s : State) : Res :=
  actMem dt (onAll (wholeWrite rq (if pol < 2048 then 0x3400 + pol / 8 else 0) (0x20 * (pol % 8) + 0x01) (leBytes 1 mode))) s

/-- UPD_BEGIN (R496). -/
def execUpdBegin (dt : Nat) (rq : Req) (total : Nat) (s : State) : Res :=
  actMem dt (onAll (wholeWrite rq 0x6020 0x01 (leBytes 4 total))) s

/-- UPD_CHUNK (R496). -/
def execUpdChunk (dt : Nat) (rq : Req) (data : List Byte) (s : State) : Res :=
  actMem dt (onAll (wholeWrite rq 0x6020 0x03 data)) s

/-- UPD_VERIFY (R496). -/
def execUpdVerify (dt : Nat) (rq : Req) (s : State) : Res := actMem dt (onAll (wholeWrite rq 0x6020 0x04 [1])) s

/-- UPD_ACTIVATE (R497). -/
def execUpdActivate (dt : Nat) (rq : Req) (s : State) : Res := actMem dt (onAll (wholeWrite rq 0x6020 0x05 [1])) s

/-- UPD_CONFIRM (R498). -/
def execUpdConfirm (dt : Nat) (rq : Req) (s : State) : Res := actMem dt (onAll (wholeWrite rq 0x6020 0x06 [1])) s

/-- DIAG_WIN_READ (R476). -/
def execDiagWinRead (dt : Nat) (rq : Req) (s : State) : Res := actMem dt (onAll (readRequest rq 0x5001 0x02 false)) s

/-- DIE_FAB_DEC_ADDR_READ (R415). -/
def execDieFabDecAddrRead (dt : Nat) (rq : Req) (die : Nat) (s : State) : Res :=
  actMem dt (onAll (readRequest rq 0x5041 (if die < 8 then die + 1 else 0xFF) false)) s

/-- FAST_TABLE_UPDATE (R453). -/
def execFastTableUpdate (dt die : Nat) (s : State) : Res := actMem dt (onAll (fastUpdate die)) s

/-- FORWARD_RESPONSE (R25). -/
def execForwardResponse (dt die : Nat) (s : State) : Res := act dt (Sys.forwardResponse die) s

/-- FORWARD_TIMEOUT (R434). -/
def execForwardTimeout (dt die : Nat) (s : State) : Res := act dt (Sys.forwardTimeout die) s

/-- SESSION_EXPIRY (R450). -/
def execSessionExpiry (dt : Nat) (src : Src) (s : State) : Res := act dt (Sys.sessionExpiry src) s

/-- SEGMENT_TIMEOUT (R446). -/
def execSegmentTimeout (dt : Nat) (src : Src) (s : State) : Res := act dt (Sys.segmentTimeout src) s

/-- SNAPSHOT_RELEASE (R447). -/
def execSnapshotRelease (dt : Nat) (src : Src) (s : State) : Res := act dt (Sys.snapshotRelease src) s

/-- MGMT_LINK_CHANGE (R448). -/
def execMgmtLinkChange (dt : Nat) (up : Bool) (s : State) : Res := act dt (Sys.linkChange up) s

/-- CAN_BUS_OFF (R449). -/
def execCanBusOff (dt : Nat) (s : State) : Res := act dt Sys.canBusOff s

/-- BUS_OFF_RECOVERY (R449). -/
def execBusOffRecovery (dt : Nat) (s : State) : Res := act dt Sys.busOffRecovery s

end Sys2Proof.Machine
end

