-- ==== Sys2Proof/Machine/Dispatch.lean ====
section
/-! DEFINITION. One arm for each command, each one call of its meaning. -/

namespace Sys2Proof.Machine

/-- A command's effect on everything but the queue. -/
def exec (i : Instr) (s : State) : Host.Outcome State Fault Refusal :=
  match i with
  | .read dt rq idx sub live => Sys2Proof.Machine.execRead dt rq idx sub live s
  | .write dt rq idx sub data => Sys2Proof.Machine.execWrite dt rq idx sub data s
  | .writeInit dt rq idx sub total => Sys2Proof.Machine.execWriteInit dt rq idx sub total s
  | .writeSeg dt rq idx sub offset data => Sys2Proof.Machine.execWriteSeg dt rq idx sub offset data s
  | .readSeg dt rq idx sub offset => Sys2Proof.Machine.execReadSeg dt rq idx sub offset s
  | .fastRead dt rq first count => Sys2Proof.Machine.execFastRead dt rq first count s
  | .describe dt rq idx sub => Sys2Proof.Machine.execDescribe dt rq idx sub s
  | .registerWrite dt rq idx sub data => Sys2Proof.Machine.execRegisterWrite dt rq idx sub data s
  | .shadowWrite dt rq idx sub data => Sys2Proof.Machine.execShadowWrite dt rq idx sub data s
  | .chControlStart dt rq ch => Sys2Proof.Machine.execChControlStart dt rq ch s
  | .chControlStop dt rq ch => Sys2Proof.Machine.execChControlStop dt rq ch s
  | .chCommit dt rq ch => Sys2Proof.Machine.execChCommit dt rq ch s
  | .cxCommit dt rq cx => Sys2Proof.Machine.execCxCommit dt rq cx s
  | .auCommit dt rq port => Sys2Proof.Machine.execAuCommit dt rq port s
  | .portCommit dt rq port => Sys2Proof.Machine.execPortCommit dt rq port s
  | .clkCommit dt rq pll => Sys2Proof.Machine.execClkCommit dt rq pll s
  | .memCommit dt rq => Sys2Proof.Machine.execMemCommit dt rq s
  | .encRefreshNow dt rq ch => Sys2Proof.Machine.execEncRefreshNow dt rq ch s
  | .tbStep dt rq tb delta => Sys2Proof.Machine.execTbStep dt rq tb delta s
  | .tbStepToMaster dt rq tb => Sys2Proof.Machine.execTbStepToMaster dt rq tb s
  | .clkBandCal dt rq pll entry => Sys2Proof.Machine.execClkBandCal dt rq pll entry s
  | .clkRetry dt rq pll => Sys2Proof.Machine.execClkRetry dt rq pll s
  | .clkBandTableWrite dt rq pll data => Sys2Proof.Machine.execClkBandTableWrite dt rq pll data s
  | .lnScanStart dt rq lane => Sys2Proof.Machine.execLnScanStart dt rq lane s
  | .portEnable dt rq port => Sys2Proof.Machine.execPortEnable dt rq port s
  | .portDisable dt rq port => Sys2Proof.Machine.execPortDisable dt rq port s
  | .portModeWrite dt rq port mode => Sys2Proof.Machine.execPortModeWrite dt rq port mode s
  | .memMigrateNow dt rq rank => Sys2Proof.Machine.execMemMigrateNow dt rq rank s
  | .onyxTraceClear dt rq => Sys2Proof.Machine.execOnyxTraceClear dt rq s
  | .devResetReq dt rq value => Sys2Proof.Machine.execDevResetReq dt rq value s
  | .secAttestNonce dt rq nonce => Sys2Proof.Machine.execSecAttestNonce dt rq nonce s
  | .repRankClear dt rq rank => Sys2Proof.Machine.execRepRankClear dt rq rank s
  | .fastTableWrite dt rq data => Sys2Proof.Machine.execFastTableWrite dt rq data s
  | .diagWinAddrWrite dt rq addr => Sys2Proof.Machine.execDiagWinAddrWrite dt rq addr s
  | .diagWinRead dt rq => Sys2Proof.Machine.execDiagWinRead dt rq s
  | .diagWinWrite dt rq value => Sys2Proof.Machine.execDiagWinWrite dt rq value s
  | .dieFabDecAddrRead dt rq die => Sys2Proof.Machine.execDieFabDecAddrRead dt rq die s
  | .polModeWrite dt rq pol mode => Sys2Proof.Machine.execPolModeWrite dt rq pol mode s
  | .remapWrite dt die master value => Sys2Proof.Machine.execRemapWrite dt die master value s
  | .updBegin dt rq total => Sys2Proof.Machine.execUpdBegin dt rq total s
  | .updChunk dt rq data => Sys2Proof.Machine.execUpdChunk dt rq data s
  | .chunkProgramComplete dt ok => Sys2Proof.Machine.execChunkProgramComplete dt ok s
  | .updVerify dt rq => Sys2Proof.Machine.execUpdVerify dt rq s
  | .updVerifyComplete dt => Sys2Proof.Machine.execUpdVerifyComplete dt s
  | .updActivate dt rq => Sys2Proof.Machine.execUpdActivate dt rq s
  | .updConfirm dt rq => Sys2Proof.Machine.execUpdConfirm dt rq s
  | .trialTimeout dt => Sys2Proof.Machine.execTrialTimeout dt s
  | .arm dt die slot => Sys2Proof.Machine.execArm dt die slot s
  | .cancel dt die slot => Sys2Proof.Machine.execCancel dt die slot s
  | .flagSet dt die flag setter => Sys2Proof.Machine.execFlagSet dt die flag setter s
  | .flagClear dt die flag setter => Sys2Proof.Machine.execFlagClear dt die flag setter s
  | .onyxCycle dt die => Sys2Proof.Machine.execOnyxCycle dt die s
  | .taskRunComplete dt die core cycles job => Sys2Proof.Machine.execTaskRunComplete dt die core cycles job s
  | .tokenPush dt die queue producer token => Sys2Proof.Machine.execTokenPush dt die queue producer token s
  | .tokenPop dt die queue => Sys2Proof.Machine.execTokenPop dt die queue s
  | .queueHoldLimit dt die queue => Sys2Proof.Machine.execQueueHoldLimit dt die queue s
  | .coreFault dt die core cause => Sys2Proof.Machine.execCoreFault dt die core cause s
  | .coreSelfTestComplete dt die phys pass => Sys2Proof.Machine.execCoreSelfTestComplete dt die phys pass s
  | .videoPacketRx dt pkt => Sys2Proof.Machine.execVideoPacketRx dt pkt s
  | .audioPacketRx dt pkt => Sys2Proof.Machine.execAudioPacketRx dt pkt s
  | .ancPacketRx dt pkt => Sys2Proof.Machine.execAncPacketRx dt pkt s
  | .settleEnd dt flow => Sys2Proof.Machine.execSettleEnd dt flow s
  | .frameBoundary dt ch => Sys2Proof.Machine.execFrameBoundary dt ch s
  | .rowStart dt die pipe row => Sys2Proof.Machine.execRowStart dt die pipe row s
  | .ctuCoded dt die pipe bytes intra blocks => Sys2Proof.Machine.execCtuCoded dt die pipe bytes intra blocks s
  | .guardCheck dt die pipe => Sys2Proof.Machine.execGuardCheck dt die pipe s
  | .rowCoded dt die pipe data recon => Sys2Proof.Machine.execRowCoded dt die pipe data recon s
  | .rowDeadline dt ch row coreData => Sys2Proof.Machine.execRowDeadline dt ch row coreData s
  | .pipelineFailure dt die phys => Sys2Proof.Machine.execPipelineFailure dt die phys s
  | .stripMirrorArrival dt ch half row => Sys2Proof.Machine.execStripMirrorArrival dt ch half row s
  | .repairCopyRow dt ch buffer row => Sys2Proof.Machine.execRepairCopyRow dt ch buffer row s
  | .confidenceCheckComplete dt ch frame row col decodes => Sys2Proof.Machine.execConfidenceCheckComplete dt ch frame row col decodes s
  | .confidenceHoldRelease dt ch frame => Sys2Proof.Machine.execConfidenceHoldRelease dt ch frame s
  | .rotation dt => Sys2Proof.Machine.execRotation dt s
  | .selfTestComplete dt die phys pass => Sys2Proof.Machine.execSelfTestComplete dt die phys pass s
  | .layerPacketRx dt pkt => Sys2Proof.Machine.execLayerPacketRx dt pkt s
  | .decodePictureComplete dt layer ok => Sys2Proof.Machine.execDecodePictureComplete dt layer ok s
  | .decodeOverrun dt layer => Sys2Proof.Machine.execDecodeOverrun dt layer s
  | .layerFrameComplete dt layer => Sys2Proof.Machine.execLayerFrameComplete dt layer s
  | .contextFrameBoundary dt cx => Sys2Proof.Machine.execContextFrameBoundary dt cx s
  | .rowLockedJudgement dt layer => Sys2Proof.Machine.execRowLockedJudgement dt layer s
  | .lineDeadline dt cx line lost => Sys2Proof.Machine.execLineDeadline dt cx line lost s
  | .packetLaunch dt port => Sys2Proof.Machine.execPacketLaunch dt port s
  | .packetEnqueue dt port queue bytes => Sys2Proof.Machine.execPacketEnqueue dt port queue bytes s
  | .txFrameComplete dt port => Sys2Proof.Machine.execTxFrameComplete dt port s
  | .calendarSlot dt die => Sys2Proof.Machine.execCalendarSlot dt die s
  | .gateOpening dt port => Sys2Proof.Machine.execGateOpening dt port s
  | .portCommitBoundary dt port => Sys2Proof.Machine.execPortCommitBoundary dt port s
  | .genericNack dt hdr ssrc srcMac fci => Sys2Proof.Machine.execGenericNack dt hdr ssrc srcMac fci s
  | .signatureComplete dt ch => Sys2Proof.Machine.execSignatureComplete dt ch s
  | .frameClockEdge dt port slots => Sys2Proof.Machine.execFrameClockEdge dt port slots s
  | .audioBufferFetch dt port => Sys2Proof.Machine.execAudioBufferFetch dt port s
  | .sync dt m twoStep => Sys2Proof.Machine.execSync dt m twoStep s
  | .followUp dt m => Sys2Proof.Machine.execFollowUp dt m s
  | .delayResp dt m tb => Sys2Proof.Machine.execDelayResp dt m tb s
  | .announce dt m => Sys2Proof.Machine.execAnnounce dt m s
  | .delayReq dt tb port => Sys2Proof.Machine.execDelayReq dt tb port s
  | .tsqExpiry dt port => Sys2Proof.Machine.execTsqExpiry dt port s
  | .announceReceiptTimeout dt tb => Sys2Proof.Machine.execAnnounceReceiptTimeout dt tb s
  | .syncTimeout dt tb => Sys2Proof.Machine.execSyncTimeout dt tb s
  | .mapChange dt tb => Sys2Proof.Machine.execMapChange dt tb s
  | .stepInstant dt tb => Sys2Proof.Machine.execStepInstant dt tb s
  | .stepSwitchPoint dt who => Sys2Proof.Machine.execStepSwitchPoint dt who s
  | .ppsOutPulse dt => Sys2Proof.Machine.execPpsOutPulse dt s
  | .ppsInEdge dt => Sys2Proof.Machine.execPpsInEdge dt s
  | .pllLockLost dt die pll => Sys2Proof.Machine.execPllLockLost dt die pll s
  | .pllRefLost dt die pll ref => Sys2Proof.Machine.execPllRefLost dt die pll ref s
  | .relockSettleEnd dt die pll => Sys2Proof.Machine.execRelockSettleEnd dt die pll s
  | .referenceReturn dt die pll ref => Sys2Proof.Machine.execReferenceReturn dt die pll ref s
  | .lockAchieved dt die pll => Sys2Proof.Machine.execLockAchieved dt die pll s
  | .lockAttemptTimeout dt die pll => Sys2Proof.Machine.execLockAttemptTimeout dt die pll s
  | .lockConfirmed dt die pll => Sys2Proof.Machine.execLockConfirmed dt die pll s
  | .islandSwitchBack dt die pll island => Sys2Proof.Machine.execIslandSwitchBack dt die pll island s
  | .bandCalRunComplete dt found => Sys2Proof.Machine.execBandCalRunComplete dt found s
  | .clkCommitBoundary dt pll => Sys2Proof.Machine.execClkCommitBoundary dt pll s
  | .memCommitBoundary dt => Sys2Proof.Machine.execMemCommitBoundary dt s
  | .refclkSysLost dt die => Sys2Proof.Machine.execRefclkSysLost dt die s
  | .signalDetect dt lane => Sys2Proof.Machine.execSignalDetect dt lane s
  | .autoNegotiationPage dt port mode fecSame => Sys2Proof.Machine.execAutoNegotiationPage dt port mode fecSame s
  | .anegTimeout dt port => Sys2Proof.Machine.execAnegTimeout dt port s
  | .trainingDone dt lane partnerAsks tapHigh partnerGrants fir snr => Sys2Proof.Machine.execTrainingDone dt lane partnerAsks tapHigh partnerGrants fir snr s
  | .trainingTimeout dt lane => Sys2Proof.Machine.execTrainingTimeout dt lane s
  | .trainingRetry dt port => Sys2Proof.Machine.execTrainingRetry dt port s
  | .alignmentLock dt port => Sys2Proof.Machine.execAlignmentLock dt port s
  | .alignmentHeld dt port => Sys2Proof.Machine.execAlignmentHeld dt port s
  | .signalDetectLoss dt lane => Sys2Proof.Machine.execSignalDetectLoss dt lane s
  | .alignmentLoss dt port => Sys2Proof.Machine.execAlignmentLoss dt port s
  | .uncorrectableWindow dt port codewords bad => Sys2Proof.Machine.execUncorrectableWindow dt port codewords bad s
  | .frameRx dt port frame => Sys2Proof.Machine.execFrameRx dt port frame s
  | .arpRequest dt port target sender => Sys2Proof.Machine.execArpRequest dt port target sender s
  | .neighbourSolicitation dt port target sender => Sys2Proof.Machine.execNeighbourSolicitation dt port target sender s
  | .echoRequest dt port target sender data => Sys2Proof.Machine.execEchoRequest dt port target sender data s
  | .fecSecond dt port received corrected uncorrected symbols => Sys2Proof.Machine.execFecSecond dt port received corrected uncorrected symbols s
  | .eyeScanPointDone dt lane eligible mismatches => Sys2Proof.Machine.execEyeScanPointDone dt lane eligible mismatches s
  | .budgetEpoch dt die => Sys2Proof.Machine.execBudgetEpoch dt die s
  | .fabricRequest dt die rq => Sys2Proof.Machine.execFabricRequest dt die rq s
  | .flitCrcError dt die bridge dir group wire replays => Sys2Proof.Machine.execFlitCrcError dt die bridge dir group wire replays s
  | .wireErrorSecond dt die bridge dir group wire errors => Sys2Proof.Machine.execWireErrorSecond dt die bridge dir group wire errors s
  | .masterReset dt die master => Sys2Proof.Machine.execMasterReset dt die master s
  | .isolationEnd dt die master => Sys2Proof.Machine.execIsolationEnd dt die master s
  | .mr4Poll dt die ctrl codes => Sys2Proof.Machine.execMr4Poll dt die ctrl codes s
  | .wckOscillatorRead dt die ctrl => Sys2Proof.Machine.execWckOscillatorRead dt die ctrl s
  | .patrolScrub dt die ctrl errs => Sys2Proof.Machine.execPatrolScrub dt die ctrl errs s
  | .migrationCopyBurst dt die ctrl errs => Sys2Proof.Machine.execMigrationCopyBurst dt die ctrl errs s
  | .dramTrainingComplete dt die failed => Sys2Proof.Machine.execDramTrainingComplete dt die failed s
  | .thermalSample dt die temps => Sys2Proof.Machine.execThermalSample dt die temps s
  | .thermalShutdownEnd dt => Sys2Proof.Machine.execThermalShutdownEnd dt s
  | .voltageSample dt die mv marginLow => Sys2Proof.Machine.execVoltageSample dt die mv marginLow s
  | .domainFault dt die dom => Sys2Proof.Machine.execDomainFault dt die dom s
  | .logRecord dt => Sys2Proof.Machine.execLogRecord dt s
  | .logFlashWrite dt => Sys2Proof.Machine.execLogFlashWrite dt s
  | .persistentFlashWrite dt => Sys2Proof.Machine.execPersistentFlashWrite dt s
  | .repairMapWrite dt => Sys2Proof.Machine.execRepairMapWrite dt s
  | .fastTableUpdate dt die => Sys2Proof.Machine.execFastTableUpdate dt die s
  | .forwardResponse dt die => Sys2Proof.Machine.execForwardResponse dt die s
  | .forwardTimeout dt die => Sys2Proof.Machine.execForwardTimeout dt die s
  | .sessionExpiry dt src => Sys2Proof.Machine.execSessionExpiry dt src s
  | .segmentTimeout dt src => Sys2Proof.Machine.execSegmentTimeout dt src s
  | .snapshotRelease dt src => Sys2Proof.Machine.execSnapshotRelease dt src s
  | .mgmtLinkChange dt up => Sys2Proof.Machine.execMgmtLinkChange dt up s
  | .canBusOff dt => Sys2Proof.Machine.execCanBusOff dt s
  | .anchorWatchdog dt => Sys2Proof.Machine.execAnchorWatchdog dt s
  | .powerOnReset dt => Sys2Proof.Machine.execPowerOnReset dt s
  | .powerOnRelease dt => Sys2Proof.Machine.execPowerOnRelease dt s
  | .systemReset dt pin => Sys2Proof.Machine.execSystemReset dt pin s
  | .systemResetRelease dt => Sys2Proof.Machine.execSystemResetRelease dt s
  | .sramSelfTestComplete dt die bad => Sys2Proof.Machine.execSramSelfTestComplete dt die bad s
  | .imageVerifyComplete dt => Sys2Proof.Machine.execImageVerifyComplete dt s
  | .bootComplete dt badPipes badCores => Sys2Proof.Machine.execBootComplete dt badPipes badCores s
  | .busOffRecovery dt => Sys2Proof.Machine.execBusOffRecovery dt s
  | .domainRegulationReached dt die dom => Sys2Proof.Machine.execDomainRegulationReached dt die dom s
  | .fastExitBurstEnd dt lane => Sys2Proof.Machine.execFastExitBurstEnd dt lane s

end Sys2Proof.Machine
end

