-- ==== Sys2Proof/Safety.lean ====
section
/-! DEFINITION. What counts as a well-kept state and a safe run, in the terms statements use: both byte tables in canonical form, so
that equal contents are equal data; a command that completes; and a management request that is served, that is, one that reaches
Beryl, is no repeat, finds room in its session, is admitted in the present phase, and whose object's die answers (R434, R435,
R449 to R451). -/

namespace Sys2Proof.Machine

/-- Package memory is in canonical form. -/
abbrev Memory.wf (m : List Host.Cell) : Prop := Tab.canon memDflt m = true

/-- The flash is in canonical form. -/
abbrev Flash.wf (m : List Host.Cell) : Prop := Tab.canon flashDflt m = true

/-- Both byte tables of a state are in canonical form. -/
def State.Inv (s : State) : Prop := Memory.wf s.mem ∧ Flash.wf s.flash

/-- A command completes: it answers a next state. -/
def Completes (i : Instr) (s : State) : Prop := ∃ t, exec i s = .next t

/-- The message of a request about an object (R442, R443). -/
def reqMsg (cmd : Nat) (rq : Req) (idx sub flags : Nat) (b : List Byte) : Msg :=
  { cmd := cmd, seq := rq.seq % 256, idx := idx, sub := sub, flags := flags, data := b }

/-- The message of a WRITE of bytes to an object. -/
abbrev writeMsg (rq : Req) (idx sub : Nat) (b : List Byte) : Msg := reqMsg 0x02 rq idx sub 0 b

/-- A request whose payload has `bytes` bytes, arriving `dt` after the command before it, reaches D0's Beryl and finds `z`: the state
after the time passed, what timed out went, and its session was opened or refreshed. -/
structure Reaches (dt : Nat) (src : Src) (bytes : Nat) (s : State) (z : Sys) : Prop where
  arrives : arrives src bytes = true
  hears : (s.sys.elapse dt).hears src = true
  opens : (s.sys.elapse dt).trimmed.finishStops.openSession src = some z

/-- A request `m` that reaches D0's Beryl is served, and acts on `z`: it is no repeat, its session has room, it is admitted in the present
phase, and the die that answers for its object can. -/
structure Serves (dt : Nat) (src : Src) (m : Msg) (bytes : Nat) (s : State) (z : Sys) : Prop extends Reaches dt src bytes s z where
  noRepeat : ∀ w ∈ z.session src, ∀ r ∈ w.stored, ¬(r.req = m ∧ z.now < r.t + secU 1)
  room : ∀ w ∈ z.session src, (w.outst.filter fun (o : Outst) => !o.turned).length < 8
  admits : z.admits m = true
  reach : z.reachable (z.dieFor src m) = true

/-- The normal response to a write (R443). -/
def written (m : Msg) : Msg := answerTo m (.ok (0x82, []))

/-- `y`, the effect of a request `m` that was served on `z`, with its response in the session's queue: it leaves at once when D0 holds
the object and nothing waits before it, and waits for the object's die otherwise (R434, R450). -/
def Sys.reply (z : Sys) (src : Src) (m resp : Msg) (y : Sys) : Sys :=
  y.queueUp src { req := m, resp := resp, die := z.dieFor src m, since := z.now, ready := z.dieFor src m == 0 }

/-- Command `c` completes with the block's state `w`; package memory, the flash and the queue of commands stay as they were. -/
abbrev Does (c : Instr) (s : State) (w : Sys) : Prop := exec c s = .next { s with sys := w }

/-- Command `c` is answered as a request `m` that was served on `z`, with effect `y` and answer `a`. Package memory, the flash and the
queue of commands stay as they were. -/
def Answered (c : Instr) (s : State) (z : Sys) (src : Src) (m : Msg) (a : Ans) (y : Sys) : Prop :=
  exec c s = .next { s with sys := z.reply src m (answerTo m a) y }

/-- Command `c` is answered as a WRITE of `b` to an object that was served on `z`, with effect `y` and a normal response. Package memory,
the flash and the queue of commands stay as they were. -/
def Wrote (c : Instr) (s : State) (z : Sys) (rq : Req) (idx sub : Nat) (b : List Byte) (y : Sys) : Prop :=
  exec c s = .next { s with sys := z.reply rq.src (writeMsg rq idx sub b) (written (writeMsg rq idx sub b)) y }

/-- `y` is `z` with a commit accepted (R213): the set of its shadows waits for the boundary `at_`, in place of one that waited for the
same boundary; its state object reads 1; no other live value and no shadow has changed. -/
def Accepted (z : Sys) (key : Nat) (own : Nat → Bool) (at_ : Int) (y : Sys) : Prop :=
  y.pend = (z.pend.filter fun (q : Pend) => !(q.key == key && q.at_ == at_)) ++
      [{ key := key, set := z.commitSet key own, at_ := at_, seq := z.now }] ∧
    y.nat (key + 1) = 1 ∧ (∀ k, k ≠ key + 1 → y.val k = z.val k) ∧ y.shadow = z.shadow

/-- Command `c` is answered as a WRITE of 1 to a commit object that was refused (R215, R444): abort 6 with the reason, state object 2,
the reason in the next object, and the event; no pending set, shadow or other live value has changed. -/
def RefusedCommit (c : Instr) (s : State) (z : Sys) (rq : Req) (idx sub key reason event die arg : Nat) : Prop :=
  ∃ y, exec c s =
      .next { s with sys := z.reply rq.src (writeMsg rq idx sub [1]) (answerTo (writeMsg rq idx sub [1]) (.error (6, reason))) y } ∧
    y.nat (key + 1) = 2 ∧ y.nat (key + 2) = reason ∧ (∀ k, k ≠ key + 1 → k ≠ key + 2 → y.val k = z.val k) ∧
    y.evs.raised = z.evs.raised ++ [{ code := event, die := die, arg := arg, t := z.now }] ∧ y.pend = z.pend ∧ y.shadow = z.shadow

/-- Port p has nothing timed to send, and the head `h` of queue `q` is the next frame it sends (R272, R274, R279, R287): its class is the
highest that has a packet, is open, owes nothing, and the frame ends within the window and before every launch. -/
structure Sys.HeadGoes (y : Sys) (p n : Nat) (q : Queue) (h : Waiting) : Prop where
  up : y.portUp p = true
  idle : (y.port p).wireFree ≤ y.now
  noneDue : y.dueTimed p = []
  class_ : n < 8
  highest : ∀ m < 8, n < m → y.headOf p m = none
  noDebt : ¬((y.cls p n).shaped y.now = true ∧ ((y.cls p n).count y.now < 0 ∨ y.inDebt p n = true))
  head : y.headOf p n = some (q, h)
  window : ∃ e, y.gateNow p n = (true, e) ∧ y.fitsWindow p h.pkt.bytes e = true
  clear : y.protects p h.pkt.bytes = true

/-- `z` is `y` but for a packet `x` put last into queue `q`, and what other parts a statement names: nothing was sent, and no live value changed. -/
def Queued (y : Sys) (q : Queue) (x : Waiting) (z : Sys) : Prop :=
  z.live = y.live ∧ z.out = y.out ∧ z.net.ports = y.net.ports ∧
    z.net.queues = y.net.queues.map fun o => if o.die = q.die ∧ o.num = q.num then { o with pkts := o.pkts ++ [x], lastF := x.f } else o

/-- The objects whose write does more than set a value, by table index and subindex (R525): those the chapters give a behaviour of its
own, policer rates, time-base settings and the persistent objects. -/
def Loc.plain (l : Loc) (key : Nat) : Bool :=
  !([0x1005, 0x1022, 0x3280, 0x3721, 0x5001, 0x5078, 0x6000, 0x6020] : List Nat).contains l.base &&
    !([(0x2000, 0x01), (0x2000, 0x05), (0x2009, 0x11), (0x3000, 0x11), (0x3200, 0x14), (0x3300, 0x08), (0x3300, 0x0A), (0x3300, 0x30),
       (0x3300, 0x31), (0x3300, 0x36), (0x3400, 0x01), (0x3400, 0x03), (0x3400, 0x04), (0x3400, 0x05), (0x3400, 0x06), (0x3500, 0x10),
       (0x3500, 0x11), (0x3600, 0x04), (0x3600, 0x16), (0x3700, 0x05), (0x3800, 0x05), (0x3800, 0x06), (0x3800, 0x07), (0x3800, 0x0A),
       (0x3900, 0x03), (0x3900, 0x28)] : List (Nat × Nat)).contains (l.base, l.sub) &&
    !(l.base == 0x3500 && decide (l.sub ≤ 9)) && !persistentKeys.contains key

end Sys2Proof.Machine
end

