-- ==== Sys2Proof/Certificates/Slice0/Obligations.lean ====
section
/-! DEFINITION. Statements for the provers: what the spec's numbered rules say the commands do. -/

section
open Sys2Proof Sys2Proof.Machine

/-! ### The queue, reset and the byte tables -/

/-- A step takes the command at the front of the queue and runs it with the queue's rest; with none waiting it leaves the state alone. -/
def Obligations.StepRunsFront : Prop :=
  (∀ (c : Instr) (rest : List Instr) (s : State), step { s with pending := c :: rest } = exec c { s with pending := rest }) ∧
    ∀ s : State, s.pending = [] → step s = .next s

/-- Every command leaves the queue alone, and a step shortens it by the command it ran (log entry 9). -/
def Obligations.ExecKeepsQueue : Prop :=
  (∀ (c : Instr) (s t : State), exec c s = .next t → t.pending = s.pending) ∧
    ∀ s t : State, step s = .next t → t.pending = s.pending.tail

/-- No command ends in a fault or a refusal: every command completes on every state. -/
def Obligations.EveryCommandCompletes : Prop :=
  ∀ (c : Instr) (s : State), Completes c s

/-- Right after reset both byte tables have their canonical form. -/
def Obligations.ResetInv : Prop :=
  State.reset.Inv

/-- Every step keeps the canonical form of package memory and of the flash. -/
def Obligations.StepKeepsInv : Prop :=
  ∀ s t : State, s.Inv → step s = .next t → t.Inv

/-- Package memory changes only by requests of the fabric, served, deferred to an epoch or held by an isolation, and by a reset: after
every other command each byte of it reads as before.

The flash changes only by the log, the update path, the choice of the image and the resets, and by the writes that activate and
confirm an image: after every command that is neither one of these nor a management request each byte of it reads as before. -/
def Obligations.BytesFrame : Prop :=
  (∀ (c : Instr) (s t : State), exec c s = .next t →
      match c with
      | .fabricRequest .. | .budgetEpoch .. | .isolationEnd .. | .systemReset .. | .powerOnReset .. => True
      | _ => ∀ a, Tab.find memDflt t.mem a = Tab.find memDflt s.mem a) ∧
  (∀ (c : Instr) (s t : State), exec c s = .next t →
      match c with
      | .logFlashWrite .. | .chunkProgramComplete .. | .imageVerifyComplete .. | .trialTimeout .. | .systemReset .. | .powerOnReset .. => True
      | .write .. | .writeInit .. | .writeSeg .. | .registerWrite .. | .shadowWrite .. | .updActivate .. | .updConfirm .. => True
      | _ => ∀ a, Tab.find flashDflt t.flash a = Tab.find flashDflt s.flash a)

/-! ### Management writes -/

/-- REGISTER_WRITE, and WRITE of the same object in one message: the live value is the value written, and nothing else changes but
the session (R525).

SHADOW_WRITE, and WRITE of an RWS object: the shadow is the value written and the live value stays (R438).

Readings and choices of the model it rests on: log entry 71. -/
def Obligations.ValueWrites : Prop :=
  (∀ (dt : Nat) (rq : Req) (idx sub : Nat) (b : List Byte) (s : State) (z : Sys) (l : Loc) (v : Val),
      locate z.part.dies idx sub = some l → l.plain (objKey idx sub) = true → l.row.acc = .rw ∨ l.row.acc = .wo → decodeVal l.row b = .ok v →
      z.valueBarred (objKey idx sub) l v = false →
      (Serves dt rq.src (writeMsg rq idx sub b) 0 s z →
        Wrote (.registerWrite dt rq idx sub b) s z rq idx sub b (z.setVal (objKey idx sub) v)) ∧
      (Serves dt rq.src (writeMsg rq idx sub b) b.length s z →
        Wrote (.write dt rq idx sub b) s z rq idx sub b (z.setVal (objKey idx sub) v))) ∧
  (∀ (dt : Nat) (rq : Req) (idx sub : Nat) (b : List Byte) (s : State) (z : Sys) (l : Loc) (v : Val),
      locate z.part.dies idx sub = some l → l.plain (objKey idx sub) = true → l.row.acc = .rws → decodeVal l.row b = .ok v →
      z.valueBarred (objKey idx sub) l v = false →
      (Serves dt rq.src (writeMsg rq idx sub b) 0 s z →
        ∃ y, Wrote (.shadowWrite dt rq idx sub b) s z rq idx sub b y ∧ y = z.setShadow (objKey idx sub) v ∧
          y.shadowVal (objKey idx sub) = v ∧ ∀ k, y.val k = z.val k) ∧
      (Serves dt rq.src (writeMsg rq idx sub b) b.length s z →
        Wrote (.write dt rq idx sub b) s z rq idx sub b (z.setShadow (objKey idx sub) v)))

/-- A write of a reserved or read-only object, of the wrong length or out of range is answered with its abort and changes nothing but
the session (R436, R437, R444, R469).

Readings and choices of the model it rests on: log entry 71. -/
def Obligations.WriteAborts : Prop :=
  ∀ (dt : Nat) (rq : Req) (idx sub : Nat) (b : List Byte) (s : State) (z : Sys) (e : Nat),
    Serves dt rq.src (writeMsg rq idx sub b) 0 s z →
    (locate z.part.dies idx sub = none ∧ e = 1 ∨
      (∃ l, locate z.part.dies idx sub = some l ∧ (l.row.acc = .ro ∨ l.row.acc = .const) ∧ e = 2) ∨
      (∃ l, locate z.part.dies idx sub = some l ∧ l.row.acc ≠ .ro ∧ l.row.acc ≠ .const ∧ l.base ≠ 0x6020 ∧
        lengthOk l.row b.length = false ∧ e = if l.row.ty.size.isSome then 3 else 4) ∨
      (∃ l n, locate z.part.dies idx sub = some l ∧ l.row.acc ≠ .ro ∧ l.row.acc ≠ .const ∧ l.base ≠ 0x6020 ∧
        lengthOk l.row b.length = true ∧ l.row.ty.size = some n ∧
        l.row.rng.admits (if l.row.ty.signed then toSigned n (leNat b) else leNat b) = false ∧ e = 4)) →
    exec (.registerWrite dt rq idx sub b) s =
      .next { s with sys := z.reply rq.src (writeMsg rq idx sub b) (answerTo (writeMsg rq idx sub b) (.error (e, 0))) z }

/-! ### Commits -/

/-- PORT_COMMIT, CLK_COMMIT and MEM_COMMIT whose checks pass: the set waits for its boundary (R289, R339, R384).

AU_COMMIT and CX_COMMIT whose ports have a mode and whose checks pass: the set waits for the first frame-clock edge, or the first
frame boundary, at least 250 µs ahead (R213, R232).

Readings and choices of the model it rests on: log entries 34, 36 and 71. -/
def Obligations.CommitsPend : Prop :=
  ((∀ (dt : Nat) (rq : Req) (p : Nat) (s : State) (z : Sys), p < 96 → p < 12 * z.part.dies →
      Serves dt rq.src (writeMsg rq (strideIdx 0x3300 2 96 p) 0x0A [1]) 0 s z →
      firstFail (z.portCommitChecks p (z.checkVal (portOwns p))) = none →
      ∃ y, Wrote (.portCommit dt rq p) s z rq (strideIdx 0x3300 2 96 p) 0x0A [1] y ∧
        Accepted z (Ob.PortCommit p) (portOwns p) (z.portX p (z.checkVal (portOwns p))) y) ∧
    (∀ (dt : Nat) (rq : Req) (p : Nat) (s : State) (z : Sys), p < 6 →
      Serves dt rq.src (writeMsg rq (strideIdx 0x3800 1 6 p) 0x07 [1]) 0 s z → firstFail (z.clkChecks p) = none →
      ∃ y, Wrote (.clkCommit dt rq p) s z rq (strideIdx 0x3800 1 6 p) 0x07 [1] y ∧
        Accepted z (Ob.ClkCommit p) (clkOwns p) (z.now + usU 250 : Nat) y) ∧
    (∀ (dt : Nat) (rq : Req) (s : State) (z : Sys), Serves dt rq.src (writeMsg rq 0x3600 0x04 [1]) 0 s z → firstFail z.memChecks = none →
      ∃ y, Wrote (.memCommit dt rq) s z rq 0x3600 0x04 [1] y ∧ Accepted z Ob.MemCommit memOwns (z.now + usU 250 : Nat) y)) ∧
  ((∀ (dt : Nat) (rq : Req) (a : Nat) (s : State) (z : Sys), a < 32 → a < 4 * z.part.dies →
      Serves dt rq.src (writeMsg rq (strideIdx 0x3200 2 32 a) 0x14 [1]) 0 s z →
      ((auOutLegs (z.checkVal (auOwns a)) a).all fun l => decide (l.port < 12 * z.part.dies) && z.nat (Ob.PortMode l.port) != 0) = true →
      firstFail (z.auChecks a (z.checkVal (auOwns a))) = none →
      ∃ y, Wrote (.auCommit dt rq a) s z rq (strideIdx 0x3200 2 32 a) 0x14 [1] y ∧
        Accepted z (Ob.AuCommit a) (auOwns a) (tickTime z.auHz (frameFrom z.auHz (z.auNow a + usU 250))) y) ∧
    (∀ (dt : Nat) (rq : Req) (c : Nat) (s : State) (z : Sys), c < 32 → c < 4 * z.part.dies →
      Serves dt rq.src (writeMsg rq (strideIdx 0x3000 8 32 c) 0x11 [1]) 0 s z → (z.cxCommit c).1 = none →
      ∃ y, Wrote (.cxCommit dt rq c) s z rq (strideIdx 0x3000 8 32 c) 0x11 [1] y ∧
        Accepted z (Ob.CxCommit c) (z.cxOwns c) (z.cxApplyAt c) y))

/-- A commit of a port, a PLL or the memory whose check fails is refused with the number of the first check that fails (R215, R290,
R340, R384).

Readings and choices of the model it rests on: log entries 34, 35 and 71. -/
def Obligations.CommitsRefuse : Prop :=
  (∀ (dt : Nat) (rq : Req) (p r : Nat) (s : State) (z : Sys), p < 96 → p < 12 * z.part.dies →
    Serves dt rq.src (writeMsg rq (strideIdx 0x3300 2 96 p) 0x0A [1]) 0 s z →
    firstFail (z.portCommitChecks p (z.checkVal (portOwns p))) = some r →
    RefusedCommit (.portCommit dt rq p) s z rq (strideIdx 0x3300 2 96 p) 0x0A (Ob.PortCommit p) r 0x1002 (p / 12) p) ∧
  (∀ (dt : Nat) (rq : Req) (p r : Nat) (s : State) (z : Sys), p < 6 →
    Serves dt rq.src (writeMsg rq (strideIdx 0x3800 1 6 p) 0x07 [1]) 0 s z → firstFail (z.clkChecks p) = some r →
    RefusedCommit (.clkCommit dt rq p) s z rq (strideIdx 0x3800 1 6 p) 0x07 (Ob.ClkCommit p) r 0x0309 0 p) ∧
  (∀ (dt r : Nat) (rq : Req) (s : State) (z : Sys), Serves dt rq.src (writeMsg rq 0x3600 0x04 [1]) 0 s z → firstFail z.memChecks = some r →
    RefusedCommit (.memCommit dt rq) s z rq 0x3600 0x04 Ob.MemCommit r 0x0608 0 0)

/-! ### Channels by management -/

/-- CH_CONTROL_START of a stopped channel whose checks all pass: it starts at its first frame boundary at least 250 µs ahead, with the
configuration as it stands, and EV_CH_PLACED is raised (R65, R471, R472).

Readings and choices of the model it rests on: log entries 37, 38 and 71. -/
def Obligations.ChannelStarts : Prop :=
  ∀ (dt : Nat) (rq : Req) (c : Nat) (s : State) (z : Sys), c < 128 → c < 16 * z.part.dies →
    Serves dt rq.src (writeMsg rq (strideIdx 0x2000 0x20 128 c) 0x01 [1]) 0 s z →
    (z.finishStops.chan c).run = 0 → (z.finishStops.tryStart c).1 = none →
    ∃ y, Wrote (.chControlStart dt rq c) s z rq (strideIdx 0x2000 0x20 128 c) 0x01 [1] y ∧
      (y.chan c).run = 1 ∧ (y.chan c).cfg = z.finishStops.snapshot c ∧
      (y.chan c).firstK = firstFrom (z.finishStops.startFig c).rn (z.finishStops.startFig c).rd
        (z.finishStops.tbNow (z.finishStops.startFig c).tb + usU 250) ∧
      (y.chan c).nextK = (y.chan c).firstK ∧
      { code := 0x1102, die := (y.chan c).die, arg := c, t := z.finishStops.now } ∈ y.evs.raised

/-- CH_CONTROL_STOP: a running channel stops at its first frame boundary at least 250 µs ahead that it has not begun, a starting one at
its first boundary; a channel that is stopped or stops already stays as it is. Nothing else changes (R66, R473).

Readings and choices of the model it rests on: log entries 37 and 71. -/
def Obligations.ChannelStops : Prop :=
  ∀ (dt : Nat) (rq : Req) (c : Nat) (s : State) (z : Sys), c < 128 → c < 16 * z.part.dies →
    Serves dt rq.src (writeMsg rq (strideIdx 0x2000 0x20 128 c) 0x01 [2]) 0 s z →
    Wrote (.chControlStop dt rq c) s z rq (strideIdx 0x2000 0x20 128 c) 0x01 [2]
      (if (z.finishStops.chan c).run = 1 then
        z.finishStops.setChan c { z.finishStops.chan c with run := 3, stopK := some (z.finishStops.chan c).firstK }
      else if (z.finishStops.chan c).run = 2 then
        z.finishStops.setChan c { z.finishStops.chan c with
          run := 3
          stopK := some (max (z.finishStops.chan c).nextK (firstFrom (z.finishStops.fig c).rn (z.finishStops.fig c).rd
            (z.finishStops.frameNow c false + usU 250))) }
      else z.finishStops)

/-- ENC_REFRESH_NOW asks a channel that is not stopped for a new refresh cycle at its first frame boundary at least 250 µs ahead, beside
what was asked before, and changes nothing else (R121).

Readings and choices of the model it rests on: log entry 71. -/
def Obligations.RefreshesAsked : Prop :=
  ∀ (dt : Nat) (rq : Req) (c : Nat) (s : State) (z : Sys), c < 128 → c < 16 * z.part.dies →
    Serves dt rq.src (writeMsg rq (strideIdx 0x2009 0x20 128 c) 0x11 [1]) 0 s z →
    Wrote (.encRefreshNow dt rq c) s z rq (strideIdx 0x2009 0x20 128 c) 0x11 [1]
      (if (z.chan c).run = 0 then z
      else z.setChan c { z.chan c with restarts := (z.chan c).restarts ++ [z.frameNow c false + usU 250] })

/-- CH_COMMIT of a channel that is not stopped, its bitrate checked: the bitrate waits for the first frame boundary at least 250 µs ahead
that has not begun, in place of an earlier commit (R162, R440).

Readings and choices of the model it rests on: log entries 34 and 71. -/
def Obligations.BitratePends : Prop :=
  ∀ (dt : Nat) (rq : Req) (c b : Nat) (k : Int) (s : State) (z : Sys), c < 128 → c < 16 * z.part.dies →
    Serves dt rq.src (writeMsg rq (strideIdx 0x2000 0x20 128 c) 0x05 [1]) 0 s z →
    (z.finishStops.chan c).run ≠ 0 → b = (z.finishStops.shadowVal (Ob.RcBitrate c)).nat →
    firstFail (z.finishStops.bitrateChecks c b) = none →
    k = max (z.finishStops.chan c).nextK
      (firstFrom (z.finishStops.fig c).rn (z.finishStops.fig c).rd (z.finishStops.frameNow c false + usU 250)) →
    ∃ y, Wrote (.chCommit dt rq c) s z rq (strideIdx 0x2000 0x20 128 c) 0x05 [1] y ∧ y.nat (Ob.ChCommitState c) = 1 ∧
      (y.chan c).nextBitrate =
        (if b = (z.finishStops.chan c).bitrate then none else some (b, (z.finishStops.fig c).boundary k)) ∧
      (y.pend.filter fun (q : Pend) => q.key == Ob.ChCommit c).map (fun (q : Pend) => q.at_) = [(z.finishStops.fig c).boundary k]

/-! ### Clocks, time bases and lanes by management -/

/-- TB_STEP and TB_STEP_TO_MASTER that the base accepts: the step stands for the instant 250 µs ahead on the base, and TbStepInstant
reads it as the base will then read (R313).

Readings and choices of the model it rests on: log entry 71. -/
def Obligations.StepsStand : Prop :=
  (∀ (dt : Nat) (rq : Req) (b : Nat) (delta : Int) (s : State) (z : Sys), b < 8 → -2 ^ 63 ≤ delta → delta < 2 ^ 63 →
    Serves dt rq.src (writeMsg rq (strideIdx 0x3500 2 8 b) 0x10 (leBytes 8 (toUnsigned 8 delta))) 0 s z →
    (z.tb b).waiting = [] → (z.consumers b = [] ∨ delta.natAbs ≤ secU 3600) →
    Wrote (.tbStep dt rq b delta) s z rq (strideIdx 0x3500 2 8 b) 0x10 (leBytes 8 (toUnsigned 8 delta))
      ((z.setTb b { z.tb b with step := some (z.tbNow b + usU 250, delta) }).setInt (Ob.TbStepInstant b)
        (time96 (z.tbNow b + usU 250 + delta)))) ∧
  ∀ (dt : Nat) (rq : Req) (b : Nat) (o : Int) (s : State) (z : Sys), b < 8 →
    Serves dt rq.src (writeMsg rq (strideIdx 0x3500 2 8 b) 0x11 [1]) 0 s z →
    (z.tb b).judged = some o → (z.tb b).waiting = [] → (z.consumers b = [] ∨ o.natAbs ≤ secU 3600) →
    Wrote (.tbStepToMaster dt rq b) s z rq (strideIdx 0x3500 2 8 b) 0x11 [1]
      ((z.setTb b { z.tb b with step := some (z.tbNow b + usU 250, -o) }).setInt (Ob.TbStepInstant b)
        (time96 (z.tbNow b + usU 250 + -o)))

/-- CLK_BAND_CAL queues a calibration run behind the one under way, unless it already waits (R329); CLK_BAND_TABLE_WRITE stores the
software bits of every entry when no held entry changes (R327, R328).

CLK_RETRY: on every die where the PLL has failed a lock attempt starts at once, on its reference, when that is present (R336).

Readings and choices of the model it rests on: log entry 71. -/
def Obligations.BandsAndRetries : Prop :=
  ((∀ (dt : Nat) (rq : Req) (p e : Nat) (s : State) (z : Sys), p < 6 → e < 32 →
      Serves dt rq.src (writeMsg rq (strideIdx 0x3800 1 6 p) 0x06 (leBytes 1 e)) 0 s z →
      ¬(4 ≤ p ∧ z.lanePllUsed p = true) → z.clk.run.isSome = true → z.clk.queue.contains (p, e) = false →
      Wrote (.clkBandCal dt rq p e) s z rq (strideIdx 0x3800 1 6 p) 0x06 (leBytes 1 e)
        { z with clk := { z.clk with queue := z.clk.queue ++ [(p, e)] } }) ∧
    (∀ (dt : Nat) (rq : Req) (p e : Nat) (s : State) (z : Sys), p < 6 → e < 32 →
      Serves dt rq.src (writeMsg rq (strideIdx 0x3800 1 6 p) 0x06 (leBytes 1 e)) 0 s z →
      ¬(4 ≤ p ∧ z.lanePllUsed p = true) → z.clk.run = none → z.clk.queue = [] →
      Wrote (.clkBandCal dt rq p e) s z rq (strideIdx 0x3800 1 6 p) 0x06 (leBytes 1 e)
        (({ z with clk := { z.clk with queue := [], run := some (p, e, 0) } } : Sys).pllBypass 0 p 6)) ∧
    ∀ (dt : Nat) (rq : Req) (p : Nat) (data : List Byte) (s : State) (z : Sys), p < 6 → data.length = 256 →
      Serves dt rq.src (writeMsg rq (strideIdx 0x3800 1 6 p) 0x05 data) 0 s z →
      (∀ e ∈ z.entriesHeld p, e < 32 → entryOf data e = z.entryShown p e) →
      ∃ y, Wrote (.clkBandTableWrite dt rq p data) s z rq (strideIdx 0x3800 1 6 p) 0x05 data y ∧
        y.bytes (Ob.ClkBandTable p) = ((List.range 32).flatMap fun e => leBytes 8 (entryWritable (entryOf data e))) ∧
        (∀ k, k ≠ Ob.ClkBandTable p → y.val k = z.val k) ∧
        ∀ e < 32, entryWritable (entryOf data e) ≠ entryWritable (entryOf (z.bytes (Ob.ClkBandTable p)) e) → 0 < z.part.dies →
          y.calOk p e = false) ∧
  (∀ (dt : Nat) (rq : Req) (p : Nat) (s : State) (z : Sys), p < 6 →
      Serves dt rq.src (writeMsg rq (strideIdx 0x3800 1 6 p) 0x0A [1]) 0 s z →
      ∃ y, Wrote (.clkRetry dt rq p) s z rq (strideIdx 0x3800 1 6 p) 0x0A [1] y ∧ (∀ k, y.val k = z.val k) ∧
        ∀ d < z.part.dies,
          ((z.pll d p).st = 8 → (z.pll d p).refs.contains (z.nat (Ob.ClkRefSel p)) = true →
            y.pll d p = { z.pll d p with fails := 0, st := 4, attempt := some z.now, lockedAt := none, settleAt := none,
                                         ref := z.nat (Ob.ClkRefSel p), entry := z.nat (Ob.ClkBandSelect p), alt := false }) ∧
          ((z.pll d p).st ≠ 8 → y.pll d p = z.pll d p))

/-- PORT_MODE_WRITE of a mode that no reservation exceeds, or of no mode to a port that nothing names (R349), and POL_MODE_WRITE, which
fills the buckets of a policer whose mode changes (R296).

Readings and choices of the model it rests on: log entries 66 and 71. -/
def Obligations.ModesWritten : Prop :=
  (∀ (dt : Nat) (rq : Req) (p m : Nat) (s : State) (z : Sys), p < 96 → p < 12 * z.part.dies → m < 10 →
    Serves dt rq.src (writeMsg rq (strideIdx 0x3300 2 96 p) 0x30 (leBytes 1 m)) 0 s z →
    ¬((m = 0 ∧ z.portNamed p = true) ∨ (modeRate m : Rat) < z.reservedBut p none none none) →
    Wrote (.portModeWrite dt rq p m) s z rq (strideIdx 0x3300 2 96 p) 0x30 (leBytes 1 m) (z.setInt (Ob.PortMode p) m)) ∧
  ∀ (dt : Nat) (rq : Req) (q m : Nat) (s : State) (z : Sys), q < 2048 → q < 256 * z.part.dies → m < 3 →
    Serves dt rq.src (writeMsg rq (0x3400 + q / 8) (0x20 * (q % 8) + 0x01) (leBytes 1 m)) 0 s z →
    ∃ y, Wrote (.polModeWrite dt rq q m) s z rq (0x3400 + q / 8) (0x20 * (q % 8) + 0x01) (leBytes 1 m) y ∧ y.nat (Ob.PolMode q) = m ∧
      (∀ k, k ≠ Ob.PolMode q → y.val k = z.val k) ∧
      y.pol q = if z.nat (Ob.PolMode q) = m then z.pol q
        else { z.pol q with tc := (z.nat (Ob.PolCbs q) * 65536 : Nat), tp := (z.nat (Ob.PolPeakBurst q) * 65536 : Nat), at_ := z.now }

/-! ### Reads, segments and the hardware path -/

/-- READ of an object software answers: its value in the size of its type, or the length and a snapshot where that is more than one
message holds; READ_SEG gives the part of the snapshot, and DESCRIBE the type, the access and the size (R436, R443, R447, R526).

Readings and choices of the model it rests on: log entry 19. -/
def Obligations.ReadsAnswer : Prop :=
  (∀ (dt : Nat) (rq : Req) (idx sub : Nat) (live : Bool) (s : State) (z : Sys) (l : Loc) (b : List Byte),
    Serves dt rq.src (reqMsg 0x01 rq idx sub (if live then 1 else 0) []) 0 s z → locate z.part.dies idx sub = some l →
    l.row.acc ≠ .wo → l.base ≠ 0x5001 → l.base ≠ 0x5041 → z.isFast idx sub live = false →
    b = encodeVal l.row.ty ((z.dropSnap rq.src).readVal s.flash l (objKey idx sub) live) →
    (b.length ≤ payloadLimit rq.src →
      Answered (.read dt rq idx sub live) s z rq.src (reqMsg 0x01 rq idx sub (if live then 1 else 0) []) (.ok (0x81, b)) (z.dropSnap rq.src)) ∧
    (payloadLimit rq.src < b.length →
      Answered (.read dt rq idx sub live) s z rq.src (reqMsg 0x01 rq idx sub (if live then 1 else 0) []) (.ok (0x84, leBytes 4 b.length))
        (z.onSession rq.src fun x => { x with snap := some { idx := idx, sub := sub, data := b, t := z.now } }))) ∧
  (∀ (dt : Nat) (rq : Req) (idx sub off : Nat) (s : State) (z : Sys) (n : Snap), off < 2 ^ 32 →
    Serves dt rq.src (reqMsg 0x05 rq idx sub 0 (leBytes 4 off)) 4 s z → (z.session rq.src).bind Session.snap = some n →
    n.idx = idx → n.sub = sub → (locate z.part.dies idx sub).isSome = true →
    Answered (.readSeg dt rq idx sub off) s z rq.src (reqMsg 0x05 rq idx sub 0 (leBytes 4 off))
      (.ok (0x85, (n.data.drop off).take (payloadLimit rq.src)))
      (z.onSession rq.src fun x => { x with snap := some { n with t := z.now } })) ∧
  ∀ (dt : Nat) (rq : Req) (idx sub : Nat) (s : State) (z : Sys) (l : Loc),
    Serves dt rq.src (reqMsg 0x07 rq idx sub 0 []) 0 s z → locate z.part.dies idx sub = some l →
    Answered (.describe dt rq idx sub) s z rq.src (reqMsg 0x07 rq idx sub 0 [])
      (.ok (0x87, [BitVec.ofNat 8 l.row.ty.code, BitVec.ofNat 8 l.row.acc.code] ++ leBytes 4 (l.row.ty.size.getD l.row.size))) z

/-- WRITE_INIT opens a segmented write of an object that can be written and whose length rule the total meets; each WRITE_SEG at the
place the last one ended adds its bytes; and the one that completes the value writes it as one WRITE would (R446).

Readings and choices of the model it rests on: log entries 19 and 20. -/
def Obligations.SegmentsWrite : Prop :=
  (∀ (dt : Nat) (rq : Req) (idx sub total : Nat) (s : State) (z : Sys) (l : Loc), 0 < total → total < 2 ^ 32 →
    Serves dt rq.src (reqMsg 0x03 rq idx sub 0 (leBytes 4 total)) 4 s z → locate z.part.dies idx sub = some l →
    l.row.acc ≠ .ro → l.row.acc ≠ .const → initOk l total = true →
    Answered (.writeInit dt rq idx sub total) s z rq.src (reqMsg 0x03 rq idx sub 0 (leBytes 4 total)) (.ok (0x83, []))
      (z.setSeg rq.src (some { idx := idx, sub := sub, total := total, t := z.now }))) ∧
  (∀ (dt : Nat) (rq : Req) (idx sub off : Nat) (b : List Byte) (s : State) (z : Sys) (w : SegWrite), off < 2 ^ 32 →
    Serves dt rq.src (reqMsg 0x04 rq idx sub 0 (leBytes 4 off ++ b)) (4 + b.length) s z →
    (z.session rq.src).bind Session.seg = some w → w.idx = idx → w.sub = sub → (locate z.part.dies idx sub).isSome = true → w.done = none → w.last ≠ some off → off = w.data.length →
    off + b.length < w.total →
    Answered (.writeSeg dt rq idx sub off b) s z rq.src (reqMsg 0x04 rq idx sub 0 (leBytes 4 off ++ b)) (.ok (0x84, []))
      (z.setSeg rq.src (some { w with data := w.data ++ b, last := some off, t := z.now }))) ∧
  ∀ (dt : Nat) (rq : Req) (idx sub off : Nat) (b : List Byte) (s : State) (z : Sys) (w : SegWrite) (r : FullRes), off < 2 ^ 32 →
    Serves dt rq.src (reqMsg 0x04 rq idx sub 0 (leBytes 4 off ++ b)) (4 + b.length) s z →
    (z.session rq.src).bind Session.seg = some w → w.idx = idx → w.sub = sub → (locate z.part.dies idx sub).isSome = true → w.done = none → w.last ≠ some off → off = w.data.length →
    off + b.length = w.total → r = writeObject rq.src idx sub (w.data ++ b) (s.mem, s.flash, z) →
    exec (.writeSeg dt rq idx sub off b) s = .next { s with
      mem := r.2.1, flash := r.2.2.1,
      sys := z.reply rq.src (reqMsg 0x04 rq idx sub 0 (leBytes 4 off ++ b))
        (answerTo (reqMsg 0x04 rq idx sub 0 (leBytes 4 off ++ b)) (match r.1 with | some e => .error e | none => .ok (0x84, [])))
        (r.2.2.2.setSeg rq.src (some { w with data := w.data ++ b, last := some off, t := z.now, done := some r.1 })) }

/-- A READ of a live value of the fast table, and FAST_READ, are answered by hardware: the response leaves at once with mirrored values,
FastAnswers counts it, and the session's queue and store stay (R453 to R455).

FAST_TABLE_WRITE of entries that may stand replaces the table as a whole and fills the mirror; FAST_TABLE_UPDATE refreshes the mirror
of the objects a die holds, and touches no object and no session (R452, R453).

Readings and choices of the model it rests on: log entries 19 and 23. -/
def Obligations.FastPath : Prop :=
  ((∀ (dt : Nat) (rq : Req) (idx sub : Nat) (s : State) (z : Sys), Reaches dt rq.src 0 s z → z.isFast idx sub false = true →
      ∃ y, exec (.read dt rq idx sub false) s = .next { s with sys := y } ∧
        y.out = z.out ++ [.response rq.src (reqMsg 0x81 rq idx sub 0 (z.mirrored (idx, sub)))] ∧
        y.nat Ob.FastAnswers = (z.nat Ob.FastAnswers + 1) % wrapOf z.part.dies Ob.FastAnswers ∧ (∀ k, k ≠ Ob.FastAnswers → y.val k = z.val k) ∧
        y.mgmt = (z.dropSnap rq.src).mgmt) ∧
    ∀ (dt : Nat) (rq : Req) (first count : Nat) (s : State) (z : Sys), Reaches dt rq.src 2 s z → z.running = true → first < 256 → count < 256 →
      ∃ y, exec (.fastRead dt rq first count) s = .next { s with sys := y } ∧
        y.out = z.out ++ [.response rq.src (reqMsg 0x86 rq 0 0 0 (z.fastBytes rq.src first count))] ∧
        y.nat Ob.FastAnswers = (z.nat Ob.FastAnswers + 1) % wrapOf z.part.dies Ob.FastAnswers ∧ (∀ k, k ≠ Ob.FastAnswers → y.val k = z.val k) ∧ y.mgmt = z.mgmt) ∧
  ((∀ (dt : Nat) (rq : Req) (b : List Byte) (s : State) (z : Sys), b.length = 1024 →
      Serves dt rq.src (writeMsg rq 0x1022 0x01 b) 0 s z → ((List.range 256).all fun i => fastOk z.part.dies (fastEntry b i)) = true →
      ∃ y, Wrote (.fastTableWrite dt rq b) s z rq 0x1022 0x01 b y ∧ y.bytes Ob.FastTable = b ∧ y.mgmt.sessions = z.mgmt.sessions ∧
        (∀ k, k ≠ Ob.FastTable → y.val k = z.val k) ∧
        y.mgmt.mirror = ((z.setBytes Ob.FastTable b).fastEntries.filterMap id).foldl (fun m e => match locate z.part.dies e.1 e.2 with
          | some l => Tab.put (fun _ => .int 0) m (objKey e.1 e.2) (y.readVal s.flash l (objKey e.1 e.2) true)
          | none => m) []) ∧
    ∀ (dt d : Nat) (s : State), (s.sys.elapse dt).running = true → (s.sys.elapse dt).reachable d = true →
      ∃ y, exec (.fastTableUpdate dt d) s = .next { s with sys := y } ∧
        y = { s.sys.elapse dt with mgmt := { s.sys.mgmt with mirror := y.mgmt.mirror } } ∧
        ∀ idx sub l, (s.sys.elapse dt).fastEntries.contains (some (idx, sub)) = true → locate s.sys.part.dies idx sub = some l →
          (s.sys.elapse dt).holder l = d →
          Tab.find (fun _ => .int 0) y.mgmt.mirror (objKey idx sub) = (s.sys.elapse dt).readVal s.flash l (objKey idx sub) true)

/-- DIAG_WIN_ADDR_WRITE of a multiple of 4 sets the session's window address; DIAG_WIN_READ gives the four bytes kept there, lowest
address first; DIAG_WIN_WRITE to a register or flag address is done as the register does it, counted and raised (R476).

DIE_FAB_DEC_ADDR_READ gives the address of a die's first decode error and clears it; nothing else of a die changes (R415).

Readings and choices of the model it rests on: log entries 15 and 24. -/
def Obligations.WindowAndDecodeAddress : Prop :=
  ((∀ (dt : Nat) (rq : Req) (a : Nat) (s : State) (z : Sys), a < 2 ^ 64 → a % 4 = 0 →
      Serves dt rq.src (writeMsg rq 0x5001 0x01 (leBytes 8 a)) 0 s z →
      Wrote (.diagWinAddrWrite dt rq a) s z rq 0x5001 0x01 (leBytes 8 a) (z.onSession rq.src fun x => { x with winAddr := a })) ∧
    (∀ (dt : Nat) (rq : Req) (d o k : Nat) (s : State) (z : Sys),
      Serves dt rq.src (reqMsg 0x01 rq 0x5001 0x02 0 []) 0 s z → z.winPlace (z.winAddr rq.src) = some (d, o) → winBad o = false →
      targetOf o ≠ 7 → targetOf o ≠ 8 → keptAt (z.die d).remap d o = some k →
      ¬((targetOf o = 5 ∨ targetOf o = 6) ∧ z.dramSound d o = false) → z.isFast 0x5001 0x02 false = false →
      Answered (.diagWinRead dt rq) s z rq.src (reqMsg 0x01 rq 0x5001 0x02 0 [])
        (.ok (0x81, leBytes 4 (leNat (loadBytes memDflt s.mem k 4)))) (z.dropSnap rq.src)) ∧
    ∀ (dt : Nat) (rq : Req) (w d o : Nat) (s : State) (z : Sys), w < 2 ^ 32 →
      Serves dt rq.src (writeMsg rq 0x5001 0x02 (leBytes 4 w)) 0 s z → z.winPlace (z.winAddr rq.src) = some (d, o) →
      targetOf o = 7 ∨ targetOf o = 8 → winBad o = false →
      ∃ y, Wrote (.diagWinWrite dt rq w) s z rq 0x5001 0x02 (leBytes 4 w) y ∧
        y.nat Ob.DiagWinWrites = ((z.regWrite d o w 17).nat Ob.DiagWinWrites + 1) % wrapOf (z.regWrite d o w 17).part.dies Ob.DiagWinWrites ∧
        (∀ k, k ≠ Ob.DiagWinWrites → y.val k = (z.regWrite d o w 17).val k) ∧
        y.dies = (z.regWrite d o w 17).dies ∧ y.shadow = (z.regWrite d o w 17).shadow ∧
        y.evs.raised = (z.regWrite d o w 17).evs.raised ++
          [{ code := 0x0108, die := d, arg := z.winAddr rq.src, t := (z.regWrite d o w 17).now }]) ∧
  (∀ (dt : Nat) (rq : Req) (d : Nat) (s : State) (z : Sys), d < 8 → d < z.part.dies →
      Serves dt rq.src (reqMsg 0x01 rq 0x5041 (d + 1) 0 []) 0 s z → z.isFast 0x5041 (d + 1) false = false →
      ∃ y, Answered (.dieFabDecAddrRead dt rq d) s z rq.src (reqMsg 0x01 rq 0x5041 (d + 1) 0 [])
          (.ok (0x81, leBytes 8 (z.die d).fab.decAddr)) y ∧
        y = (z.dropSnap rq.src).onDie d fun x => { x with fab := { x.fab with decAddr := 0 } })

/-! ### Ports, lanes, memory and the update path by management -/

/-- PORT_ENABLE of a disabled port that passes its checks: it takes its mode, medium and FEC as they stand and gets its two queues; it
waits in link state 1 while its lanes' quad does not run on its PLL, and otherwise each lane begins its fast-exit burst, or trains at once
where that has no length (R269, R348, R355,
R356). PORT_DISABLE turns its lanes off at once and frees its queues (R269, R349, R361).

Readings and choices of the model it rests on: log entry 71. -/
def Obligations.PortsSwitch : Prop :=
  (∀ (dt : Nat) (rq : Req) (p : Nat) (s : State) (z : Sys), p < 96 → p < 12 * z.part.dies →
    Serves dt rq.src (writeMsg rq (strideIdx 0x3300 2 96 p) 0x31 [1]) 0 s z → z.portEnabled p = false →
    firstFail (z.portChecks p) = none →
    ∃ y, Wrote (.portEnable dt rq p) s z rq (strideIdx 0x3300 2 96 p) 0x31 [1] y ∧ y.nat (Ob.PortEnable p) = 1 ∧
      (y.port p).mode = z.nat (Ob.PortMode p) ∧ (y.port p).medium = z.nat (Ob.PortMedium p) ∧ (y.port p).aneg = z.nat (Ob.PortAneg p) ∧
      (y.port p).fec25 = z.nat (Ob.PortFec25 p) ∧ (y.port p).maxFrame = z.nat (Ob.PortMaxFrame p) ∧
      (∃ a b, y.net.queues = z.net.queues ++
        [{ die := portDie p, num := a, port := p, owner := .port p, kind := 3, cls := z.nat (Ob.PortPtpClass p), timed := false, weight := 1000 },
         { die := portDie p, num := b, port := p, owner := .port p, kind := 4, cls := z.nat (Ob.PortCtlClass p), timed := false,
           weight := 1000 }]) ∧
      (z.quadRuns p = false →
        (y.port p).st = 1 ∧ (∀ l, y.lane l = z.lane l) ∧ ∀ k, k ≠ Ob.PortEnable p → y.val k = z.val k) ∧
      (z.quadRuns p = true → ∀ i < modeLanes (z.nat (Ob.PortMode p)),
        (z.nat (Ob.LnBurstLen (p + i)) ≠ 0 → (y.port p).st = 1 ∧ (y.lane (p + i)).st = 1 ∧
          (y.lane (p + i)).burstEnd = some (z.now + usU (z.nat (Ob.LnBurstLen (p + i))))) ∧
        (z.nat (Ob.LnBurstLen (p + i)) = 0 → (y.lane (p + i)).st = if z.nat (Ob.PortMedium p) = 1 then 3 else 2))) ∧
  ∀ (dt : Nat) (rq : Req) (p : Nat) (s : State) (z : Sys), p < 96 → p < 12 * z.part.dies →
    Serves dt rq.src (writeMsg rq (strideIdx 0x3300 2 96 p) 0x31 [0]) 0 s z → z.portEnabled p = true →
    ∃ y, Wrote (.portDisable dt rq p) s z rq (strideIdx 0x3300 2 96 p) 0x31 [0] y ∧ y.nat (Ob.PortEnable p) = 0 ∧
      (y.port p).st = 0 ∧ (∀ i < modeLanes (z.port p).mode, (y.lane (p + i)).st = 0) ∧
      ∀ q ∈ y.net.queues, ¬(q.port = p ∧ (q.kind = 3 ∨ q.kind = 4))

/-- LN_SCAN_START of a lane that runs and scans nothing, with settings the margin scanner can take, starts at its first point (R365);
MEM_MIGRATE_NOW of a healthy rank starts its migration when the spare is free and its controller migrates nothing (R381).

Readings and choices of the model it rests on: log entries 12 and 71. -/
def Obligations.ScansAndMigrations : Prop :=
  (∀ (dt : Nat) (rq : Req) (l : Nat) (s : State) (z : Sys), l < 96 → l < 12 * z.part.dies →
    Serves dt rq.src (writeMsg rq (strideIdx 0x3900 1 96 l) 0x28 [1]) 0 s z →
    (z.lane l).scan = none → (z.lane l).st = 4 →
    z.int (Ob.LnScanPhaseMin l) ≤ z.int (Ob.LnScanPhaseMax l) → z.int (Ob.LnScanVoltMin l) ≤ z.int (Ob.LnScanVoltMax l) →
    -32 ≤ z.int (Ob.LnScanPhaseMin l) → z.int (Ob.LnScanPhaseMax l) ≤ 31 → -64 ≤ z.int (Ob.LnScanVoltMin l) →
    z.int (Ob.LnScanVoltMax l) ≤ 63 → 16 ≤ z.nat (Ob.LnScanDwell l) → z.nat (Ob.LnScanDwell l) ≤ 34 → z.nat (Ob.LnScanEye l) = 1 →
    ∃ y n, Wrote (.lnScanStart dt rq l) s z rq (strideIdx 0x3900 1 96 l) 0x28 [1] y ∧
      n = stepsIn (z.int (Ob.LnScanPhaseMin l)) (z.int (Ob.LnScanPhaseMax l)) (z.nat (Ob.LnScanPhaseStep l)) *
        stepsIn (z.int (Ob.LnScanVoltMin l)) (z.int (Ob.LnScanVoltMax l)) (z.nat (Ob.LnScanVoltStep l)) ∧
      y.lane l = { z.lane l with scan := some (0, n), recs := [] } ∧ (∀ j, j ≠ l → y.lane j = z.lane j) ∧
      y.nat (Ob.LnScanState l) = 1 ∧ y.nat (Ob.LnScanPoints l) = 0 ∧
      ∀ k, k ≠ Ob.LnScanState l → k ≠ Ob.LnScanPoints l → y.val k = z.val k) ∧
  ∀ (dt : Nat) (rq : Req) (d m k : Nat) (s : State) (z : Sys), d < z.part.dies → d < 8 → m < 2 → k < 2 →
    Serves dt rq.src (writeMsg rq 0x3600 0x16 (leBytes 2 (256 * d + 16 * m + k))) 0 s z →
    ((z.die d).dram.rank m k).st = 1 → ((z.die d).dram.rank m 2).st = 2 → ((z.die d).dram.ctrl m).src = none →
    ((z.die d).dram.ctrl m).waiting = [] → z.rateChanging = false →
    Wrote (.memMigrateNow dt rq (256 * d + 16 * m + k)) s z rq 0x3600 0x16 (leBytes 2 (256 * d + 16 * m + k)) (z.migrateStart d m k)

/-- Writes of 1 to OnyxTraceClear and DevResetReq, of a nonce and of RepRankClear: each die's trace memory and its loss counter are
cleared; a reset is due, with cause 2 unless one is due already; the attestation report over the nonce stands; the rank's record goes
at the next reset (R408, R466, R486, R507, R527).

Readings and choices of the model it rests on: log entries 71 and 86. -/
def Obligations.DeviceWrites : Prop :=
  (∀ (dt : Nat) (rq : Req) (s : State) (z : Sys), Serves dt rq.src (writeMsg rq 0x3700 0x05 [1]) 0 s z →
    ∃ y, Wrote (.onyxTraceClear dt rq) s z rq 0x3700 0x05 [1] y ∧
      ∀ d < z.part.dies, y.onyx d = { z.onyx d with trace := [], traceCount := 0, traceStopped := false } ∧ y.nat (Ob.DieTraceLost d) = 0) ∧
  (∀ (dt : Nat) (rq : Req) (s : State) (z : Sys), Serves dt rq.src (writeMsg rq 0x1005 0x01 (leBytes 1 1)) 0 s z →
    ∃ y, Wrote (.devResetReq dt rq 1) s z rq 0x1005 0x01 (leBytes 1 1) y ∧
      y = { z with power := { z.power with resetDue := some (z.power.resetDue.getD 2) } }) ∧
  (∀ (dt : Nat) (rq : Req) (n : List Byte) (s : State) (z : Sys), n.length = 32 →
    Serves dt rq.src (writeMsg rq 0x6000 0x06 n) 0 s z →
    Wrote (.secAttestNonce dt rq n) s z rq 0x6000 0x06 n { z with mgmt := { z.mgmt with attest := z.report n s.flash } }) ∧
  ∀ (dt : Nat) (rq : Req) (d m k : Nat) (s : State) (z : Sys), d < z.part.dies → d < 8 → m < 2 → k < 3 →
    Serves dt rq.src (writeMsg rq 0x5078 0x01 (leBytes 2 (256 * d + 16 * m + k))) 0 s z →
    Wrote (.repRankClear dt rq (256 * d + 16 * m + k)) s z rq 0x5078 0x01 (leBytes 2 (256 * d + 16 * m + k))
      { z with upd := { z.upd with rankClear := z.upd.rankClear ++ [6 * d + 3 * m + k] } }

/-- The writes of the update path: UPD_BEGIN opens a transfer, UPD_CHUNK hands over the next bytes, UPD_VERIFY asks for the verification,
UPD_ACTIVATE of a verified image makes its slot active on trial and asks for a reset, and UPD_CONFIRM within the trial ends it (R496 to
R498).

CHUNK_PROGRAM_COMPLETE stores the chunk behind the bytes before it, in erased sectors of the other slot, and the transfer waits for
the next; UPD_VERIFY_COMPLETE marks an image that passes every check of R492 verified, and reports the
first check that fails otherwise; TRIAL_TIMEOUT of a trial not confirmed in
its time makes the previous slot active again and asks for a reset (R496, R498).

Readings and choices of the model it rests on: log entries 6, 27 and 71. -/
def Obligations.UpdatesRun : Prop :=
  ((∀ (dt : Nat) (rq : Req) (n : Nat) (s : State) (z : Sys), 4097 ≤ n → n ≤ 28311552 →
      Serves dt rq.src (writeMsg rq 0x6020 0x01 (leBytes 4 n)) 0 s z →
      Wrote (.updBegin dt rq n) s z rq 0x6020 0x01 (leBytes 4 n)
        { z with upd := { z.upd with st := 1, total := n, offset := 0, chunk := none, cause := 0 } }) ∧
    (∀ (dt : Nat) (rq : Req) (b : List Byte) (s : State) (z : Sys), b ≠ [] → b.length ≤ 65536 →
      Serves dt rq.src (writeMsg rq 0x6020 0x03 b) 0 s z → z.upd.chunk = none → z.upd.offset + b.length ≤ z.upd.total →
      Wrote (.updChunk dt rq b) s z rq 0x6020 0x03 b { z with upd := { z.upd with st := 2, chunk := some b } }) ∧
    (∀ (dt : Nat) (rq : Req) (s : State) (z : Sys), Serves dt rq.src (writeMsg rq 0x6020 0x04 [1]) 0 s z →
      Wrote (.updVerify dt rq) s z rq 0x6020 0x04 [1] { z with upd := { z.upd with st := 3 } }) ∧
    (∀ (dt : Nat) (rq : Req) (s : State) (z : Sys), Serves dt rq.src (writeMsg rq 0x6020 0x05 [1]) 0 s z → z.upd.st = 4 →
      ∃ y, exec (.updActivate dt rq) s = .next { s with
          flash := selAppend s.flash fun r => { r with active := z.otherSlot, previous := z.power.boot.slot, trial := 1, attempts := 0 }
          sys := z.reply rq.src (writeMsg rq 0x6020 0x05 [1]) (written (writeMsg rq 0x6020 0x05 [1])) y } ∧
        y.power = { z.power with resetDue := some (z.power.resetDue.getD 8) } ∧ y.upd = z.upd ∧ y.live = z.live ∧
        y.evs.raised = z.evs.raised ++ [{ code := 0x1204, die := 0, arg := z.otherSlot, t := z.now }]) ∧
    ∀ (dt t svn : Nat) (rq : Req) (s : State) (z : Sys), Serves dt rq.src (writeMsg rq 0x6020 0x06 [1]) 0 s z →
      z.upd.trialFrom = some t → z.now ≤ t + secU trialLen → svn = imgSvn s.flash z.power.boot.slot →
      ∃ y, exec (.updConfirm dt rq) s = .next { s with
          flash := selAppend s.flash fun r => { r with trial := 0 }
          sys := z.reply rq.src (writeMsg rq 0x6020 0x06 [1]) (written (writeMsg rq 0x6020 0x06 [1])) y } ∧
        y.upd = { z.upd with st := if z.upd.st = 6 then 0 else z.upd.st, trialFrom := none } ∧ y.live = z.live ∧
        y.part = (if z.part.minSvn < svn ∧ z.part.svnRaises < 64 then { z.part with minSvn := svn, svnRaises := z.part.svnRaises + 1 }
          else z.part) ∧
        y.evs.raised = z.evs.raised ++ [{ code := 0x1205, die := 0, arg := svn, t := z.now }]) ∧
  ((∀ (dt : Nat) (b : List Byte) (s : State), s.sys.upd.chunk = some b → s.sys.upd.st = 2 →
      ∃ fl, exec (.chunkProgramComplete dt true) s = .next { s with
          flash := fl
          sys := { s.sys.elapse dt with upd := { s.sys.upd with st := 1, offset := s.sys.upd.offset + b.length, chunk := none } } } ∧
        (∀ i < b.length, Tab.find flashDflt fl (slotBase s.sys.otherSlot + s.sys.upd.offset + i) = b.getD i 0) ∧
        ∀ a, a < slotBase s.sys.otherSlot + s.sys.upd.offset → Tab.find flashDflt fl a = Tab.find flashDflt s.flash a) ∧
    (∀ (dt : Nat) (s : State), s.sys.upd.st = 3 → 4096 + imgBody s.flash s.sys.otherSlot ≤ s.sys.upd.offset →
      ∃ y, Does (.updVerifyComplete dt) s y ∧ y.live = s.sys.live ∧
        (firstFail (imgChecks s.sys.part s.flash s.sys.otherSlot) = none →
          y.upd = { s.sys.upd with st := 4, cause := 0 } ∧
          y.evs.raised = s.sys.evs.raised ++ [{ code := 0x1202, die := 0, arg := s.sys.otherSlot, t := s.sys.now + dt }]) ∧
        ∀ c, firstFail (imgChecks s.sys.part s.flash s.sys.otherSlot) = some c → y.upd.st = 5 ∧ y.upd.offset = s.sys.upd.offset ∧
          y.evs.raised = s.sys.evs.raised ++ [{ code := 0x1203, die := 0, arg := y.upd.cause, t := s.sys.now + dt }] ∧
          if c = 7 then 1 ≤ y.upd.cause ∧ y.upd.cause ≤ 6 else y.upd.cause = c) ∧
    ∀ (dt t : Nat) (s : State), s.sys.upd.trialFrom = some t → t + secU trialLen ≤ s.sys.now + dt →
      ∃ y, exec (.trialTimeout dt) s = .next { s with
          flash := selAppend s.flash fun r => { r with active := r.previous, trial := 0 }
          sys := y } ∧
        y.upd = { s.sys.upd with trialFrom := none } ∧ y.power.resetDue = some (s.sys.power.resetDue.getD 8) ∧
        y.power.boot.rollback = true ∧ y.live = s.sys.live)

/-! ### Sessions, forwarding and the log -/

/-- FORWARD_RESPONSE readies the oldest request that waits for a die, and the responses that are ready from the front of its session's
queue leave in order; FORWARD_TIMEOUT after 5 ms aborts it with 0x000A, counts it, and raises its event (R25, R434, R450).

Readings and choices of the model it rests on: log entries 17 and 18. -/
def Obligations.ForwardsEnd : Prop :=
  (∀ (dt d t : Nat) (src : Src) (x : Session) (s : State), s.sys.waitingFor d = some (src, t) → s.sys.session src = some x →
    s.sys.reachable d = true →
    ∃ w, Does (.forwardResponse dt d) s w ∧
      w.out = (((readyFirst d id x.outst).takeWhile fun (o : Outst) => o.ready).map fun (o : Outst) => Out.response src o.resp) ∧
      (w.session src).map (fun (x : Session) => x.outst) =
        some ((readyFirst d id x.outst).drop ((readyFirst d id x.outst).takeWhile fun (o : Outst) => o.ready).length) ∧
      Tab.find (fun _ => 0) w.mgmt.fwdFails d = 0 ∧ w.live = s.sys.live ∧ w.evs = s.sys.evs) ∧
  ∀ (dt d t n : Nat) (src : Src) (x : Session) (o : Outst) (rest : List Outst) (s : State), s.sys.waitingFor d = some (src, t) →
    s.sys.session src = some x → x.outst = o :: rest → o.ready = false → o.die = d →
    t + msU 5 ≤ s.sys.now + dt → n = Tab.find (fun _ => 0) s.sys.mgmt.fwdFails d + 1 →
    ∃ w, Does (.forwardTimeout dt d) s w ∧
      (∃ more, w.out = .response src (answerTo o.resp (.error (0xA, 0))) :: more) ∧
      Tab.find (fun _ => 0) w.mgmt.fwdFails d = n ∧
      w.nat Ob.MgmtFwdFail = (s.sys.nat Ob.MgmtFwdFail + 1) % wrapOf s.sys.part.dies Ob.MgmtFwdFail ∧
      w.evs.raised = s.sys.evs.raised ++ [{ code := 0x0104, die := 0, arg := d, t := s.sys.now + dt }] ++
        (if n = 3 then [{ code := 0x0105, die := 0, arg := d, t := s.sys.now + dt }] else []) ∧
      w.mgmt.lost = (if n = 3 then d :: s.sys.mgmt.lost else s.sys.mgmt.lost) ∧
      w.power.resetDue = (if n = 3 then some (s.sys.power.resetDue.getD 5) else s.sys.power.resetDue)

/-- The timers of a session: SESSION_EXPIRY forgets a UDP session 60 s after its last request, SEGMENT_TIMEOUT a segmented write and
SNAPSHOT_RELEASE a snapshot 1 s after their last message; each leaves everything else of every session as it was (R446, R447, R450).

MGMT_LINK_CHANGE, CAN_BUS_OFF and BUS_OFF_RECOVERY change the state of the transport, and the first two raise their event
(R448, R449).

Readings and choices of the model it rests on: log entries 20 and 22. -/
def Obligations.SessionsAndTransports : Prop :=
  ((∀ (dt : Nat) (src : Src) (s : State),
      Does (.sessionExpiry dt src) s { s.sys.elapse dt with mgmt := { s.sys.mgmt with
        sessions := s.sys.mgmt.sessions.filter fun (x : Session) =>
          !(x.src == src && x.isUdp && decide (x.last + secU 60 ≤ s.sys.now + dt)) } }) ∧
    (∀ (dt : Nat) (src : Src) (x : Session) (g : SegWrite) (s : State), s.sys.session src = some x → x.seg = some g →
      g.t + secU 1 ≤ s.sys.now + dt →
      ∃ w, Does (.segmentTimeout dt src) s w ∧ w.session src = some { x with seg := none } ∧
        (∀ a, a ≠ src → w.session a = s.sys.session a) ∧ w.live = s.sys.live ∧ w.out = []) ∧
    ∀ (dt : Nat) (src : Src) (x : Session) (n : Snap) (s : State), s.sys.session src = some x → x.snap = some n →
      n.t + secU 1 ≤ s.sys.now + dt →
      ∃ w, Does (.snapshotRelease dt src) s w ∧ w.session src = some { x with snap := none } ∧
        (∀ a, a ≠ src → w.session a = s.sys.session a) ∧ w.live = s.sys.live ∧ w.out = []) ∧
  ((∀ (dt : Nat) (up : Bool) (s : State), s.sys.beryl = true → s.sys.mgmt.linkUp ≠ up →
      Does (.mgmtLinkChange dt up) s { s.sys.elapse dt with
        mgmt := { s.sys.mgmt with linkUp := up }
        evs := { s.sys.evs with raised := s.sys.evs.raised ++
          [{ code := if up then 0x0101 else 0x0102, die := 0, arg := 0, t := s.sys.now + dt }] } }) ∧
    (∀ (dt : Nat) (s : State), s.sys.beryl = true → s.sys.mgmt.canOff = false →
      Does (.canBusOff dt) s { s.sys.elapse dt with
        mgmt := { s.sys.mgmt with canOff := true }
        evs := { s.sys.evs with raised := s.sys.evs.raised ++ [{ code := 0x0106, die := 0, arg := 0, t := s.sys.now + dt }] } }) ∧
    ∀ (dt : Nat) (s : State), Does (.busOffRecovery dt) s { s.sys.elapse dt with mgmt := { s.sys.mgmt with canOff := false } })

/-- LOG_RECORD gives the event raised first its record, with the next sequence number, in a ring that has room, and in a full ring counts
it as lost; LOG_FLASH_WRITE puts a record at the log's position, 32 bytes of its own, and moves the position on (R459, R460).

PERSISTENT_FLASH_WRITE and REPAIR_MAP_WRITE, due and with no update chunk in progress, bring the flash's copies up to the present:
the persistent objects, and the repair map with its next sequence number (R475, R491, R499, R501).

Readings and choices of the model it rests on: log entries 25 and 26. -/
def Obligations.LogAndCopies : Prop :=
  ((∀ (dt : Nat) (e : Ev) (r : List Ev) (s : State), s.sys.evs.raised = e :: r → s.sys.evs.lost = 0 → s.sys.evs.ring.length < 4096 →
      ∃ w x, Does (.logRecord dt) s w ∧ w.evs.raised = r ∧ w.evs.ring = s.sys.evs.ring ++ [x] ∧ x.code = e.code ∧ x.die = e.die ∧
        x.seq = s.sys.evs.nextSeq ∧ w.evs.nextSeq = (s.sys.evs.nextSeq + 1) % 2 ^ 32 ∧ x.uptime = e.t / msU 1 ∧
        x.count = min 255 (Tab.find (fun _ => 0) s.sys.evs.suppressed (e.code * 8 + e.die)) ∧
        (argStated.contains e.code = true → x.arg = e.arg % 2 ^ 48) ∧ w.live = s.sys.live) ∧
    (∀ (dt : Nat) (e : Ev) (r : List Ev) (s : State), s.sys.evs.raised = e :: r → 4096 ≤ s.sys.evs.ring.length →
      Does (.logRecord dt) s { s.sys.elapse dt with evs := { s.sys.evs with raised := r, lost := s.sys.evs.lost + 1 } }) ∧
    ∀ (dt : Nat) (r : LogRec) (s : State), s.sys.evs.ring = [r] → s.sys.evs.pos % 2048 ≠ 0 →
      exec (.logFlashWrite dt) s = .next { s with
        flash := storeBytes flashDflt s.flash (logAt s.sys.evs.pos) r.bytes
        sys := { s.sys.elapse dt with evs := { s.sys.evs with ring := [], pos := (s.sys.evs.pos + 1) % logSlots } } }) ∧
  ((∀ (dt : Nat) (s : State), s.sys.mgmt.persistDue = true → s.sys.upd.chunk = none →
      Does (.persistentFlashWrite dt) s { s.sys.elapse dt with
        upd := { s.sys.upd with persist := s.sys.live.filter fun e => persistentKeys.contains e.1 }
        mgmt := { s.sys.mgmt with persistDue := false } }) ∧
    ∀ (dt : Nat) (s : State), s.sys.mgmt.mapDue = true → s.sys.upd.chunk = none →
      Does (.repairMapWrite dt) s { s.sys.elapse dt with
        upd := { s.sys.upd with rep := { s.sys.upd.rep with seq := (s.sys.upd.rep.seq + 1) % 2 ^ 32 }
                                flashRep := { s.sys.upd.rep with seq := (s.sys.upd.rep.seq + 1) % 2 ^ 32 } }
        mgmt := { s.sys.mgmt with mapDue := false } })

/-! ### Resets, boot, sensors and power -/

/-- POWER_ON_RESET, and SYSTEM_RESET by the pin or by a cause that is due: memory is cleared, what reset clears is cleared, the persistent
objects and the fuses stay, and the cause is kept (R475, R486, R487).

POWER_ON_RELEASE, and SYSTEM_RESET_RELEASE 100 µs after the cause ended, with REFCLK_SYS running for 1 ms: the clocks start at 0 and
every die begins to boot (R301, R338, R486, R494); ANCHOR_WATCHDOG and REFCLK_SYS_LOST make a system reset due (R32, R338).

Readings and choices of the model it rests on: log entries 7, 26, 28 and 29. -/
def Obligations.ResetsRun : Prop :=
  ((∀ (dt : Nat) (s : State), ∃ t, exec (.powerOnReset dt) s = .next t ∧ t.mem = [] ∧ t.pending = s.pending ∧
      t.sys.power = { phase := .powerOn, refStopped := s.sys.power.refStopped } ∧ t.sys.live = t.sys.upd.persist ∧ t.sys.shadow = [] ∧
      t.sys.pend = [] ∧ t.sys.chans = [] ∧ t.sys.dies = [] ∧ t.sys.part = s.sys.part ∧
      ((∀ e ∈ s.sys.upd.persist, persistentKeys.contains e.1 = true) →
        ∀ k, persistentKeys.contains k = false → t.sys.val k = dfltVal s.sys.part k)) ∧
    ∀ (dt c : Nat) (pin : Bool) (s : State), s.sys.power.phase ≠ .powerOn → (if pin then some 1 else s.sys.power.resetDue) = some c →
      ∃ t, exec (.systemReset dt pin) s = .next t ∧ t.mem = [] ∧ t.pending = s.pending ∧
        t.sys.power = { phase := .sysReset (s.sys.now + dt), refStopped := s.sys.power.refStopped
                        boot := { cause := c, rollback := s.sys.power.boot.rollback } } ∧
        t.sys.live = (s.sys.live.filter fun e => persistentKeys.contains e.1) ∧ t.sys.shadow = [] ∧ t.sys.pend = [] ∧ t.sys.chans = [] ∧
        t.sys.dies = [] ∧ t.sys.part = s.sys.part ∧ t.sys.mgmt = {} ∧ t.sys.net = {} ∧ t.sys.opal = {} ∧ t.sys.aus = [] ∧ t.sys.jas = {}) ∧
  ((∀ (dt : Nat) (s : State), s.sys.power.phase = .powerOn →
      ∃ ds, Does (.powerOnRelease dt) s { s.sys with
        now := 0, out := [.pins false], dies := ds, power := { s.sys.power with phase := .booting } }) ∧
    (∀ (dt t : Nat) (s : State), s.sys.power.phase = .sysReset t → t + usU 100 ≤ s.sys.now + dt →
      (∀ r ∈ s.sys.power.refStopped, r + msU 1 ≤ s.sys.now + dt) →
      ∃ ds, Does (.systemResetRelease dt) s { s.sys with
        now := 0, out := [.pins false], dies := ds, power := { s.sys.power with phase := .booting, refStopped := [] } }) ∧
    (∀ (dt : Nat) (s : State), Does (.anchorWatchdog dt) s { s.sys.elapse dt with
      power := { s.sys.power with resetDue := some (s.sys.power.resetDue.getD 3) } }) ∧
    ∀ (dt d : Nat) (s : State), Does (.refclkSysLost dt d) s { s.sys.elapse dt with
      power := { s.sys.power with refStopped := s.sys.power.refStopped ++ [s.sys.now + dt],
                                  resetDue := some (s.sys.power.resetDue.getD 4) }
      evs := { s.sys.evs with raised := s.sys.evs.raised ++ [{ code := 0x0308, die := d, arg := d, t := s.sys.now + dt }] } })

/-- At boot: SRAM_SELF_TEST_COMPLETE gives failing rows spares, within their number; DRAM_TRAINING_COMPLETE gives each rank its state and
half; IMAGE_VERIFY_COMPLETE runs the active image when it is valid, else the other one when that is; and BOOT_COMPLETE, all dies done, ends the boot (R374, R494, R495,
R506).

Readings and choices of the model it rests on: log entries 27 and 28. -/
def Obligations.Boots : Prop :=
  (∀ (dt d : Nat) (bad rows : List Nat) (s : State), s.sys.power.phase = .booting → d < s.sys.part.dies →
    s.sys.power.boot.sramDone.contains d = false → (s.sys.upd.rep.suspectRows.filter fun e => e.1 == d) = [] →
    (s.sys.upd.rep.rows.filter fun e => e.1 == d) = [] → rows = (slotsOf bad).filter (fun r => decide (r < 24576)) → rows.length ≤ 384 →
    ∃ w, Does (.sramSelfTestComplete dt d bad) s w ∧ w.power.boot.sramDone = s.sys.power.boot.sramDone ++ [d] ∧
      (w.die d).sramLost = 0 ∧ (w.die d).mappedOut = (s.sys.die d).mappedOut ∧
      w.upd.rep.rows = s.sys.upd.rep.rows ++ rows.map fun k => (d, k)) ∧
  (∀ (dt d m : Nat) (failed : List (Nat × Nat × Nat)) (l : List (Nat × Option Nat)) (s : State), s.sys.power.phase = .booting →
    d < s.sys.part.dies → s.sys.power.boot.trained.contains d = false → m < 2 →
    rankOutcome (fun k => Tab.find (fun _ => 0) s.sys.upd.rep.ranks (6 * d + 3 * m + k) == 0 &&
      !failed.any fun f => f.1 == m && f.2.1 == k && s.sys.trainRates.contains f.2.2) = some l →
    ∃ w, Does (.dramTrainingComplete dt d failed) s w ∧ w.power.boot.trained = s.sys.power.boot.trained ++ [d] ∧
      ∀ k < 3, some (((w.die d).dram.rank m k).st, ((w.die d).dram.rank m k).serves) = l[k]?) ∧
  (∀ (dt : Nat) (a : Nat) (s : State), s.sys.power.phase = .booting → s.sys.power.boot.imageDone = false → (selNow s.flash).trial ≠ 1 →
    a = (selNow s.flash).active →
    ∃ w, Does (.imageVerifyComplete dt) s w ∧
      (∀ slot, slot = (if imgValid s.sys.part s.flash a = true then a else 1 - a) → imgValid s.sys.part s.flash slot = true →
        w.power = { s.sys.power with boot := { s.sys.power.boot with
          imageDone := true, slot := slot, fwVersion := imgFw s.flash slot, otherSlot := slot != a, trial := false } } ∧
        ∀ d < s.sys.part.dies, (s.sys.die d).mappedOut = false → (w.die d).remap = true) ∧
      (imgValid s.sys.part s.flash a = false → imgValid s.sys.part s.flash (1 - a) = false → w = s.sys.elapse dt)) ∧
  ∀ (dt : Nat) (badPipes badCores : List (Nat × Nat)) (s : State), s.sys.power.phase = .booting → (s.sys.die 0).mappedOut = false → s.sys.power.boot.imageDone = true →
    (∀ d < s.sys.part.dies, (s.sys.die d).mappedOut = true ∨
      (s.sys.power.boot.sramDone.contains d = true ∧ s.sys.power.boot.trained.contains d = true)) →
    ∃ w, Does (.bootComplete dt badPipes badCores) s w ∧ w.power.phase = .running ∧ w.part.provisioned = true ∧
      { code := 0x0109, die := 0, arg := 0, t := s.sys.now + dt } ∈ w.evs.raised

/-- THERMAL_SAMPLE of a running part: within its limits the readings are kept and the clock stays; above the limit the pipeline
clock leaves its bound only with a count and an event; at the trip temperature the package goes
dark; THERMAL_SHUTDOWN_END after 10 s of cool makes a reset due (R457, R500). VOLTAGE_SAMPLE keeps the readings and
the rails within their bounds, and a low margin counts and raises its event once (R33, R34, R458).

DOMAIN_REGULATION_REACHED puts a domain that is wanted in service; DOMAIN_FAULT turns a domain off, raises its event, and while the
package boots maps the die out (R483 to R485, R506).

Readings and choices of the model it rests on: log entries 28, 30, 31 and 118. -/
def Obligations.SensorsAndDomains : Prop :=
  ((∀ (dt d : Nat) (temps : List Int) (hot : Int) (s : State), s.sys.power.phase = .running → hot = temps.foldl max (-640) →
      hot < s.sys.int Ob.SensTripTemp * 16 → hot ≤ s.sys.int Ob.SensLimitTemp * 16 → (s.sys.die d).sens.clock16 = 16 →
      ∃ w, Does (.thermalSample dt d temps) s w ∧ (w.die d).sens.temps = temps ∧ (w.die d).sens.clock16 = 16 ∧ w.power = s.sys.power ∧
        (w.die d).sens.warned = (decide (s.sys.int Ob.SensWarnTemp * 16 < hot) ||
          (s.sys.die d).sens.warned && decide (s.sys.int Ob.SensWarnTemp * 16 - 32 < hot)) ∧
        w.evs.raised = s.sys.evs.raised ++ (if s.sys.int Ob.SensWarnTemp * 16 < hot ∧ (s.sys.die d).sens.warned = false then
          [{ code := 0x0201, die := d, arg := d, t := s.sys.now + dt }] else [])) ∧
    (∀ (dt d : Nat) (temps : List Int) (hot : Int) (s : State), s.sys.power.phase = .running → hot = temps.foldl max (-640) →
      hot < s.sys.int Ob.SensTripTemp * 16 → s.sys.int Ob.SensLimitTemp * 16 < hot →
      ∃ w, Does (.thermalSample dt d temps) s w ∧ 1 ≤ (w.die d).sens.clock16 ∧ (w.die d).sens.clock16 ≤ 16 ∧
        (w.die d).sens.thermOver = decide ((w.die d).sens.clock16 < clockBound) ∧
        ((w.die d).sens.thermOver = true → (s.sys.die d).sens.thermOver = false →
          { code := 0x0211, die := d, arg := d, t := s.sys.now + dt } ∈ w.evs.raised ∧
          w.nat Ob.OvrThermCount = (s.sys.nat Ob.OvrThermCount + 1) % wrapOf s.sys.part.dies Ob.OvrThermCount)) ∧
    (∀ (dt d : Nat) (temps : List Int) (s : State), s.sys.power.phase = .running →
      s.sys.int Ob.SensTripTemp * 16 ≤ temps.foldl max (-640) →
      ∃ w, Does (.thermalSample dt d temps) s w ∧ w.power.phase = .thermal none ∧ w.chans = [] ∧ w.pend = [] ∧ w.net = {} ∧
        w.live = s.sys.live ∧ { code := 0x0202, die := d, arg := d, t := s.sys.now + dt } ∈ w.evs.raised ∧
        ∀ e < s.sys.part.dies, (w.die e).domains = [0]) ∧
    (∀ (dt t : Nat) (s : State), s.sys.power.phase = .thermal (some t) → t + secU 10 ≤ s.sys.now + dt →
      Does (.thermalShutdownEnd dt) s { s.sys.elapse dt with
        power := { s.sys.power with resetDue := some (s.sys.power.resetDue.getD 7) } }) ∧
    ∀ (dt d : Nat) (mv : List Nat) (low : Bool) (s : State),
      ∃ w l, Does (.voltageSample dt d mv low) s w ∧ (w.die d).sens.mv = mv ∧ (w.die d).sens.voltOver = low ∧
        (low = true → (s.sys.die d).sens.voltOver = false →
          w.evs.raised = s.sys.evs.raised ++ l ++ [{ code := 0x0210, die := d, arg := d, t := s.sys.now + dt }] ∧
          w.nat Ob.OvrVoltCount = (s.sys.nat Ob.OvrVoltCount + 1) % wrapOf s.sys.part.dies Ob.OvrVoltCount) ∧
        (low = false → ∀ i < 4, i < (s.sys.die d).sens.rails.length → railBounds.1 ≤ (w.die d).sens.rails.getD i 0 ∧
          (w.die d).sens.rails.getD i 0 ≤ railBounds.2) ∧
        ∀ k, k ≠ Ob.OvrVoltCount → w.val k = s.sys.val k) ∧
  ((∀ (dt d i : Nat) (s : State), ((s.sys.die d).domPending.any fun e => e.1 == i) = true → s.sys.domainWanted d i = true → i < 48 →
      ∃ ds, Does (.domainRegulationReached dt d i) s { s.sys.elapse dt with dies := ds } ∧
        (Tab.find (fun _ => {}) ds d).domains.contains i = true ∧
        ((Tab.find (fun _ => {}) ds d).domPending.any fun e => e.1 == i) = false) ∧
    (∀ (dt d i : Nat) (s : State), (s.sys.die d).domainUp i = true → s.sys.power.phase = .booting →
      ∃ w, Does (.domainFault dt d i) s w ∧ (w.die d).mappedOut = true ∧ (w.die d).domainUp i = false ∧ w.live = s.sys.live ∧
        (∀ e, e ≠ d → w.die e = s.sys.die e) ∧
        w.evs.raised = s.sys.evs.raised ++ [{ code := 0x0204, die := d, arg := i, t := s.sys.now + dt },
          { code := 0x110B, die := d, arg := d, t := s.sys.now + dt }]) ∧
    ∀ (dt d i : Nat) (s : State), (s.sys.die d).domainUp i = true → s.sys.power.phase ≠ .booting → i = 0 ∨ i = 26 ∨ (32 ≤ i ∧ i ≤ 35) →
      ∃ w, Does (.domainFault dt d i) s w ∧ w.live = s.sys.live ∧ (w.die d).domainUp i = false ∧
        w.evs.raised = s.sys.evs.raised ++ [{ code := 0x0204, die := d, arg := i, t := s.sys.now + dt }])

/-! ### DRAM and the fabric -/

/-- The commands of a memory controller: MR4_POLL notes the hottest code and counts a controller that turns hot, WCK_OSCILLATOR_READ
corrects the timing of a controller in service, PATROL_SCRUB reads the next burst against 64 bytes of the pool and
MIGRATION_COPY_BURST copies one against 128, within the rate of the epoch (R372, R375, R377, R378, R382, R383).

BUDGET_EPOCH with no migration to switch and no request deferred renews the credits of each holder with its share of the grant, on top
of what it overdrew, and gives the pool what no share takes (R372, R426, R428).

Readings and choices of the model it rests on: log entries 14 and 32. -/
def Obligations.ControllersAndBudgets : Prop :=
  ((∀ (dt d m : Nat) (codes : List Nat) (hot : Bool) (s : State), hot = codes.any (fun c => decide (16 < c)) →
      ∃ w, Does (.mr4Poll dt d m codes) s w ∧
        (w.die d).dram.ctrl m = { (s.sys.die d).dram.ctrl m with hotNow := hot, refresh := codes.foldl max 0 } ∧
        (∀ n, n ≠ m → (w.die d).dram.ctrl n = (s.sys.die d).dram.ctrl n) ∧
        if hot = true ∧ ((s.sys.die d).dram.ctrl m).hotNow = false then
          w.nat Ob.MemHotCount = (s.sys.nat Ob.MemHotCount + 1) % wrapOf s.sys.part.dies Ob.MemHotCount ∧
            w.evs.raised = s.sys.evs.raised ++ [{ code := 0x0609, die := d, arg := m, t := s.sys.now + dt }]
        else w.live = s.sys.live ∧ w.evs = s.sys.evs) ∧
    (∀ (dt d m h : Nat) (s : State), h < 2 → ((s.sys.die d).dram.serving m h).isSome = true →
      ∃ w, Does (.wckOscillatorRead dt d m) s w ∧ w.live = s.sys.live ∧ w.evs = s.sys.evs ∧
        (w.die d).dram.ctrl m = { (s.sys.die d).dram.ctrl m with corrections := ((s.sys.die d).dram.ctrl m).corrections + 1 }) ∧
    (∀ (dt d m k e : Nat) (s : State), (s.sys.die d).dram.serving m (((s.sys.die d).dram.ctrl m).scrubAt / 2 ^ 32) = some k →
      64 ≤ Tab.find (fun _ => 0) (s.sys.die d).fab.pools m →
      ∃ w, Does (.patrolScrub dt d m e) s w ∧
        ((w.die d).dram.ctrl m).scrubAt = (((s.sys.die d).dram.ctrl m).scrubAt + 64) % 2 ^ 33 ∧
        Tab.find (fun _ => 0) (w.die d).fab.pools m = Tab.find (fun _ => 0) (s.sys.die d).fab.pools m - 64 ∧
        (e = 0 → w.live = s.sys.live ∧ w.evs = s.sys.evs) ∧
        (1 ≤ e → e ≤ 3 → w.nat (Ob.DieRankCe (6 * d + 3 * m + k)) =
          (s.sys.nat (Ob.DieRankCe (6 * d + 3 * m + k)) + 1) % wrapOf s.sys.part.dies (Ob.DieRankCe (6 * d + 3 * m + k))) ∧
        (4 ≤ e → w.nat (Ob.DieRankUe (6 * d + 3 * m + k)) =
          (s.sys.nat (Ob.DieRankUe (6 * d + 3 * m + k)) + 1) % wrapOf s.sys.part.dies (Ob.DieRankUe (6 * d + 3 * m + k)))) ∧
    ∀ (dt d m k : Nat) (s : State), ((s.sys.die d).dram.ctrl m).src = some k → ((s.sys.die d).dram.ctrl m).copyAt < 2 ^ 32 →
      128 ≤ Tab.find (fun _ => 0) (s.sys.die d).fab.pools m →
      ((s.sys.die d).dram.ctrl m).copied + 64 ≤ s.sys.nat Ob.MemMigrateRate * (s.sys.die d).fab.epochLen →
      ∃ w, Does (.migrationCopyBurst dt d m 0) s w ∧ w.live = s.sys.live ∧ w.evs = s.sys.evs ∧
        (w.die d).dram.ctrl m = { (s.sys.die d).dram.ctrl m with
          copyAt := ((s.sys.die d).dram.ctrl m).copyAt + 64, copied := ((s.sys.die d).dram.ctrl m).copied + 64 } ∧
        Tab.find (fun _ => 0) (w.die d).fab.pools m = Tab.find (fun _ => 0) (s.sys.die d).fab.pools m - 128) ∧
  (∀ (dt d : Nat) (s : State), (s.sys.die d).fab.deferred = [] → ((s.sys.die d).dram.ctrl 0).src = none →
      ((s.sys.die d).dram.ctrl 1).src = none →
      ∃ w, Does (.budgetEpoch dt d) s w ∧ w.live = s.sys.live ∧ w.evs = s.sys.evs ∧ (w.die d).fab.epochAt = s.sys.now + dt ∧
        (w.die d).fab.epochLen = s.sys.nat Ob.FabEpoch ∧ (w.die d).fab.defHolders = [] ∧
        ∀ m < 2, ∀ g, g = grantBytes (s.sys.die d).dram.mts (s.sys.nat Ob.FabEpoch) ((s.sys.die d).dram.ctrl m).hotNow →
          (∀ h < 22, Tab.find (fun _ => 0) (w.die d).fab.credits (32 * m + h) =
            (g * s.sys.share h / 1000 : Nat) + min (Tab.find (fun _ => 0) (s.sys.die d).fab.credits (32 * m + h)) 0) ∧
          Tab.find (fun _ => 0) (w.die d).fab.pools m =
            (g : Int) - (((List.range 22).map fun h => g * s.sys.share h / 1000).foldl (· + ·) 0 : Nat) ∧
          Tab.find (fun _ => 0) (w.die d).fab.grants m = 0)

/-- A request that reaches on-chip SRAM of its own die is served: a write stores its bytes at its address and changes nothing else, a read
that meets no error changes nothing (R412, R413). A write that reaches DRAM on a holder's credit stores its bytes, and is charged 64
bytes for each burst it touches (R427).

A request of a master in isolation waits; one whose address no die holds is answered by DEF, counted, and its address kept when none is
kept yet; one to DRAM that neither credit nor pool can pay waits for the next epoch (R415, R419, R427 to R429). Memory stays.

Readings and choices of the model it rests on: log entries 79 and 84. -/
def Obligations.FabricRequests : Prop :=
  ((∀ (dt d o : Nat) (rq : FabReq) (s : State), d < s.sys.part.dies → d < 8 → rq.addr = dieBase d + o → 0x10000000 ≤ o → o < 0x11800000 →
      (s.sys.die d).fab.isolated.contains rq.master = false → reaches rq.master (targetOf o) = true →
      (∀ b, rq.wdata = some b → exec (.fabricRequest dt d rq) s =
        .next { s with mem := storeBytes memDflt s.mem rq.addr b, sys := s.sys.elapse dt }) ∧
      (rq.wdata = none → (∀ e ∈ rq.errs, e = 0) → Does (.fabricRequest dt d rq) s (s.sys.elapse dt))) ∧
    ∀ (dt d o h m : Nat) (b : List Byte) (c : Int) (rq : FabReq) (s : State), d < s.sys.part.dies → d < 8 → rq.addr = dieBase d + o →
      0x40000000000 ≤ o → o < 0x40400000000 → m = dramCtrl (o - 0x40000000000) → (s.sys.die d).fab.isolated.contains rq.master = false →
      reaches rq.master (targetOf o) = true → s.sys.holderOf d rq = some h →
      c = Tab.find (fun _ => 0) (s.sys.die d).fab.credits (32 * m + h) → 0 < c → rq.wdata = some b →
      ((s.sys.die d).dram.serving m (dramLoc (dramC (o - 0x40000000000))).1).isSome = true →
      ∃ w, exec (.fabricRequest dt d rq) s = .next { s with mem := storeBytes memDflt s.mem rq.addr b, sys := w } ∧
        Tab.find (fun _ => 0) (w.die d).fab.credits (32 * m + h) = c - chargeOf rq ∧
        Tab.find (fun _ => 0) (w.die d).fab.grants m = Tab.find (fun _ => 0) (s.sys.die d).fab.grants m + chargeOf rq ∧
        (∀ k, k ≠ Ob.MemParaCount → w.val k = s.sys.val k) ∧ w.evs = s.sys.evs) ∧
  ((∀ (dt d : Nat) (rq : FabReq) (s : State), (s.sys.die d).fab.isolated.contains rq.master = true →
      ∃ w, Does (.fabricRequest dt d rq) s w ∧ (w.die d).fab = { (s.sys.die d).fab with held := (s.sys.die d).fab.held ++ [rq] } ∧
        w.live = s.sys.live ∧ w.evs = s.sys.evs ∧ ∀ e, e ≠ d → w.die e = s.sys.die e) ∧
    (∀ (dt d : Nat) (rq : FabReq) (s : State), (s.sys.die d).fab.isolated.contains rq.master = false →
      2 ^ 46 ≤ rq.addr ∨ s.sys.part.dies ≤ bits rq.addr 45 43 →
      ∃ w, Does (.fabricRequest dt d rq) s w ∧
        w.nat (Ob.DieFabDecErr d) = (s.sys.nat (Ob.DieFabDecErr d) + 1) % wrapOf s.sys.part.dies (Ob.DieFabDecErr d) ∧
        (∀ k, k ≠ Ob.DieFabDecErr d → w.val k = s.sys.val k) ∧
        (w.die d).fab.decAddr = (if (s.sys.die d).fab.decAddr = 0 then 2 ^ 63 + rq.master * 2 ^ 48 + rq.addr % 2 ^ 48
          else (s.sys.die d).fab.decAddr)) ∧
    ∀ (dt d o m h : Nat) (rq : FabReq) (s : State), d < s.sys.part.dies → d < 8 → rq.addr = dieBase d + o → 0x40000000000 ≤ o →
      o < 0x40400000000 → m = dramCtrl (o - 0x40000000000) → (s.sys.die d).fab.isolated.contains rq.master = false →
      reaches rq.master (targetOf o) = true → s.sys.holderOf d rq = some h →
      Tab.find (fun _ => 0) (s.sys.die d).fab.credits (32 * m + h) ≤ 0 → Tab.find (fun _ => 0) (s.sys.die d).fab.pools m < chargeOf rq →
      ∃ w, Does (.fabricRequest dt d rq) s w ∧ (w.die d).fab.deferred = (s.sys.die d).fab.deferred ++ [rq] ∧
        (w.die d).fab.defHolders.contains h = true ∧ (w.die d).fab.credits = (s.sys.die d).fab.credits ∧
        (w.die d).fab.pools = (s.sys.die d).fab.pools ∧ ∀ k, k ≠ Ob.DieFabDefers d → w.val k = s.sys.val k)

/-- A wire that fails, by three failed replays of a flit or by its errors of a second, takes the next spare of its group (R421, R422);
MASTER_RESET discards what the master has waiting and isolates it, ISOLATION_END ends that; REMAP_WRITE by a core cluster or Beryl
sets the remap bit of its die and no other (R418 to R420).

Readings and choices of the model it rests on: log entries 29 and 78. -/
def Obligations.BridgesAndMasters : Prop :=
  (∀ (dt d b g v n : Nat) (dir : Nat) (l : Nat × Nat × Nat) (s : State), s.sys.bridgeSt d b ≠ 0 → l = linkName s.sys.part.dies d b dir →
    (s.sys.upd.rep.wires.filter fun e => (e.1, e.2.1, e.2.2.1, e.2.2.2.1) == (l.1, l.2.1, l.2.2, g)).length < 2 →
    (∀ e ∈ s.sys.upd.rep.wires, e ≠ (l.1, l.2.1, l.2.2, g, v)) →
    (3 ≤ n → ∃ w, Does (.flitCrcError dt d b dir g v n) s w ∧ w.upd.rep.wires = s.sys.upd.rep.wires ++ [(l.1, l.2.1, l.2.2, g, v)] ∧
      w.evs.raised = s.sys.evs.raised ++ [{ code := 0x0703, die := d, arg := b, t := s.sys.now + dt }] ∧ w.live = s.sys.live) ∧
    (n < 3 → Does (.flitCrcError dt d b dir g v n) s (s.sys.elapse dt)) ∧
    (s.sys.nat Ob.FabWireErrMax < n → ∃ w, Does (.wireErrorSecond dt d b dir g v n) s w ∧
      w.upd.rep.wires = s.sys.upd.rep.wires ++ [(l.1, l.2.1, l.2.2, g, v)] ∧
      w.evs.raised = s.sys.evs.raised ++ [{ code := 0x0703, die := d, arg := b, t := s.sys.now + dt }] ∧ w.live = s.sys.live)) ∧
  (∀ (dt d m : Nat) (s : State),
    ∃ w, Does (.masterReset dt d m) s w ∧ (∀ q ∈ (w.die d).fab.deferred ++ (w.die d).fab.held, q.master ≠ m) ∧
      (w.die d).fab.isolated.contains m = true ∧
      (∀ q ∈ (s.sys.die d).fab.deferred, q.master ≠ m → q ∈ (w.die d).fab.deferred) ∧
      w.nat (Ob.DieResetDrains d) = (if ((s.sys.die d).fab.deferred ++ (s.sys.die d).fab.held).any (fun q => q.master == m) then
        (s.sys.nat (Ob.DieResetDrains d) + 1) % wrapOf s.sys.part.dies (Ob.DieResetDrains d) else s.sys.nat (Ob.DieResetDrains d))) ∧
  (∀ (dt d m : Nat) (s : State), (s.sys.die d).fab.isolated.contains m = true → (∀ q ∈ (s.sys.die d).fab.held, q.master ≠ m) →
    ∃ w, Does (.isolationEnd dt d m) s w ∧ (w.die d).fab.isolated = ((s.sys.die d).fab.isolated.filter fun k => k != m) ∧
      (w.die d).fab.held = (s.sys.die d).fab.held ∧ w.live = s.sys.live ∧ w.evs = s.sys.evs) ∧
  ∀ (dt d m : Nat) (v : Bool) (s : State), (11 ≤ m ∧ m ≤ 14) ∨ m = 17 →
    ∃ w, Does (.remapWrite dt d m v) s w ∧ w.die d = { s.sys.die d with remap := v } ∧ (∀ e, e ≠ d → w.die e = s.sys.die e) ∧
      w.live = s.sys.live ∧ w.shadow = s.sys.shadow

/-! ### Clocks -/

/-- A PLL whose islands run on it and that loses lock, or the reference it runs on, puts them on bypass at once, settles for 200 µs, counts
and raises the loss (R331, R332). Its relock: at the end of the settle an attempt begins on the selected reference; a lock within
150 µs, held for 100 µs, ends it, and one that is late fails it; a reference that returns starts the settle again (R334, R336).

ISLAND_SWITCH_BACK of the last island of a PLL that is neither a pipeline's nor a lane's ends the bypass and its count of nanoseconds
(R335, R341); BAND_CAL_RUN_COMPLETE keeps the result of a die and moves the run on (R329); and at its boundary a set of a PLL or of the
memory becomes live (R339, R385).

Readings and choices of the model it rests on: log entry 76. -/
def Obligations.PllsAndClocks : Prop :=
  ((∀ (dt d p : Nat) (s : State), p < 6 → d < s.sys.part.dies → (s.sys.pll d p).st = 0 ∨ (s.sys.pll d p).st = 1 ∨ (s.sys.pll d p).st = 5 →
      ∃ w l, Does (.pllLockLost dt d p) s w ∧
        w.pll d p = { s.sys.pll d p with st := 2, islands := s.sys.islandsOf d p, attempt := none, lockedAt := none,
                                         settleAt := some (s.sys.now + dt + usU 200)
                                         bypassFrom := some ((s.sys.pll d p).bypassFrom.getD (s.sys.now + dt)) } ∧
        w.nat (Ob.ClkLockLossCount p) = (s.sys.nat (Ob.ClkLockLossCount p) + 1) % wrapOf s.sys.part.dies (Ob.ClkLockLossCount p) ∧
        w.evs.raised = s.sys.evs.raised ++ l ++ [{ code := 0x0301, die := d, arg := p, t := s.sys.now + dt }]) ∧
    (∀ (dt d p r : Nat) (s : State), p < 6 → d < s.sys.part.dies → (s.sys.pll d p).ref = r →
      (s.sys.pll d p).st = 0 ∨ (s.sys.pll d p).st = 1 ∨ (s.sys.pll d p).st = 4 ∨ (s.sys.pll d p).st = 5 →
      ∃ w l, Does (.pllRefLost dt d p r) s w ∧ (w.pll d p).st = 3 ∧ (w.pll d p).refs.contains r = false ∧
        (w.pll d p).settleAt = some (s.sys.now + dt + usU 200) ∧ (w.pll d p).attempt = none ∧
        w.nat (Ob.ClkRefLossCount p) = (s.sys.nat (Ob.ClkRefLossCount p) + 1) % wrapOf s.sys.part.dies (Ob.ClkRefLossCount p) ∧
        w.evs.raised = s.sys.evs.raised ++ l ++ [{ code := 0x0302, die := d, arg := p, t := s.sys.now + dt }]) ∧
    (∀ (dt d p t : Nat) (s : State), (s.sys.pll d p).settleAt = some t → t ≤ s.sys.now + dt →
      (s.sys.pll d p).refs.contains (s.sys.nat (Ob.ClkRefSel p)) = true →
      ∃ w, Does (.relockSettleEnd dt d p) s w ∧ w.live = s.sys.live ∧ w.evs = s.sys.evs ∧
        w.pll d p = { s.sys.pll d p with st := 4, attempt := some (s.sys.now + dt), lockedAt := none, settleAt := none
                                         ref := s.sys.nat (Ob.ClkRefSel p), entry := s.sys.nat (Ob.ClkBandSelect p), alt := false }) ∧
    (∀ (dt d p r : Nat) (s : State), (s.sys.pll d p).refs.contains r = false → (s.sys.pll d p).st = 2 ∨ (s.sys.pll d p).st = 3 →
      (s.sys.pll d p).settleAt = none →
      ∃ w, Does (.referenceReturn dt d p r) s w ∧ w.live = s.sys.live ∧
        w.pll d p = { s.sys.pll d p with refs := (s.sys.pll d p).refs ++ [r], settleAt := some (s.sys.now + dt + usU 200) }) ∧
    (∀ (dt d p t : Nat) (s : State), (s.sys.pll d p).st = 4 → (s.sys.pll d p).attempt = some t → (s.sys.pll d p).lockedAt = none →
      (s.sys.now + dt ≤ t + usU 150 →
        ∃ w, Does (.lockAchieved dt d p) s w ∧ w.live = s.sys.live ∧ w.pll d p = { s.sys.pll d p with lockedAt := some (s.sys.now + dt) }) ∧
      (t + usU 150 ≤ s.sys.now + dt →
        ∃ w, Does (.lockAttemptTimeout dt d p) s w ∧ w.live = s.sys.live ∧ (w.pll d p).fails = (s.sys.pll d p).fails + 1 ∧
          (7 ≤ (s.sys.pll d p).fails → (w.pll d p).st = 8 ∧ (w.pll d p).attempt = none ∧
            w.evs.raised = s.sys.evs.raised ++ [{ code := 0x0305, die := d, arg := p, t := s.sys.now + dt }]) ∧
          ((s.sys.pll d p).fails < 7 → (s.sys.pll d p).refs.contains (s.sys.nat (Ob.ClkRefSel p)) = true →
            (w.pll d p).st = 4 ∧ (w.pll d p).attempt = some (s.sys.now + dt) ∧ w.evs = s.sys.evs))) ∧
    ∀ (dt d p t : Nat) (s : State), (s.sys.pll d p).st = 4 → (s.sys.pll d p).lockedAt = some t → t + usU 100 ≤ s.sys.now + dt →
      ∃ w, Does (.lockConfirmed dt d p) s w ∧
        w.pll d p = { s.sys.pll d p with st := 5, fails := 0, attempt := none, lockedAt := none } ∧
        w.nat (Ob.ClkRelockCount p) = (s.sys.nat (Ob.ClkRelockCount p) + 1) % wrapOf s.sys.part.dies (Ob.ClkRelockCount p) ∧
        w.evs.raised = s.sys.evs.raised ++ [{ code := 0x0303, die := d, arg := p, t := s.sys.now + dt }]) ∧
  ((∀ (dt d p i : Nat) (s : State), p = 0 ∨ p = 3 → (s.sys.pll d p).st = 5 → (s.sys.pll d p).islands = [i] →
      ∃ w, Does (.islandSwitchBack dt d p i) s w ∧ w.live = s.sys.live ∧
        w.pll d p = { s.sys.pll d p with islands := [], st := if (s.sys.pll d p).alt then 1 else 0, bypassFrom := none
                                         bypassNs := (s.sys.pll d p).bypassNs + match (s.sys.pll d p).bypassFrom with
                                           | some t => nsOf (s.sys.now + dt - t)
                                           | none => 0 } ∧
        w.evs.raised = s.sys.evs.raised ++ [{ code := 0x0304, die := d, arg := p, t := s.sys.now + dt }]) ∧
    (∀ (dt d i : Nat) (s : State), (s.sys.pll d 1).st = 5 → (s.sys.pll d 1).islands.contains i = true → i < 5 →
      (s.sys.elapse dt).pipeBusy d i = false →
      ∃ w, Does (.islandSwitchBack dt d 1 i) s w ∧ w.live = s.sys.live ∧
        (w.pll d 1).islands = ((s.sys.pll d 1).islands.filter fun k => k != i)) ∧
    (∀ (dt p e d a b : Nat) (s : State), p < 4 → s.sys.clk.run = some (p, e, d) → d + 1 < s.sys.part.dies → (s.sys.pll d p).fails < 8 →
      (s.sys.pll d p).refs.contains (if (s.sys.pll d p).alt then (s.sys.pll d p).ref else s.sys.nat (Ob.ClkRefSel p)) = true →
      ∃ w, Does (.bandCalRunComplete dt (some (a, b))) s w ∧ w.cal d p e = some (a % 16, b % 256) ∧ w.clk.run = some (p, e, d + 1) ∧
        (w.pll d p).st = 5 ∧ (w.pll (d + 1) p).st = 6 ∧ w.live = s.sys.live ∧ w.evs = s.sys.evs) ∧
    (∀ (dt p e d a b : Nat) (s : State), s.sys.clk.run = some (p, e, d) → s.sys.part.dies ≤ d + 1 → s.sys.clk.queue = [] →
      (s.sys.pll d p).fails < 8 →
      (s.sys.pll d p).refs.contains (if (s.sys.pll d p).alt then (s.sys.pll d p).ref else s.sys.nat (Ob.ClkRefSel p)) = true →
      ∃ w, Does (.bandCalRunComplete dt (some (a, b))) s w ∧ w.cal d p e = some (a % 16, b % 256) ∧ w.clk.run = none ∧
        (w.pll d p).st = 5 ∧ w.live = s.sys.live ∧
        w.evs.raised = s.sys.evs.raised ++ [{ code := 0x0306, die := 0, arg := p * 256 + e, t := s.sys.now + dt }]) ∧
    (∀ (dt p k : Nat) (v : Val) (q : Pend) (s : State), p < 4 → s.sys.duePend (Ob.ClkCommit p) (s.sys.now + dt : Nat) = [q] →
      q.set = [(k, v)] → clkOwns p k = true → (s.sys.pend.filter fun (o : Pend) => o.key == Ob.ClkCommit p) = [q] →
      ∃ w, Does (.clkCommitBoundary dt p) s w ∧ w.val k = v ∧ w.nat (Ob.ClkCommit p + 1) = 0 ∧ w.shadowVal k = s.sys.shadowVal k ∧
        (∀ o ∈ w.pend, o.key ≠ Ob.ClkCommit p) ∧ ∀ j, j ≠ k → j ≠ Ob.ClkCommit p + 1 → w.val j = s.sys.val j) ∧
    ∀ (dt r : Nat) (q : Pend) (s : State), s.sys.duePend Ob.MemCommit (s.sys.now + dt : Nat) = [q] → q.set = [(Ob.MemRate, .int r)] →
      (s.sys.pend.filter fun (o : Pend) => o.key == Ob.MemCommit) = [q] → s.sys.val Ob.MemRate ≠ .int r →
      ∃ w, Does (.memCommitBoundary dt) s w ∧ w.nat Ob.MemRate = r ∧ w.nat (Ob.MemCommit + 1) = 0 ∧
        (∀ d < s.sys.part.dies, (s.sys.die d).mappedOut = false → (w.die d).dram.next = some r ∧
          (s.sys.pllGood d 2 = true → (w.die d).dram.bypass = true ∧ ((w.pll d 2).st = 3 ∨ (w.pll d 2).st = 4))))

/-! ### Jasper -/

/-- A one-step SYNC, and the FOLLOW_UP of a two-step one, from the selected master of a base give it a servo sample: the offset is half the
difference of the two one-way differences, the path delay half their sum, unless the delay filter turns it away (R307). A two-step
SYNC waits for its FOLLOW_UP.

DELAY_REQ on a port of a base that has a master is put into the port's PTP queue, an interval after the one before; when it starts it
is stamped, and the stamp enters the port's time-stamp queue while that holds fewer than 32 entries less than a second old, and is
counted as lost otherwise. DELAY_RESP takes the matching entry out and gives the slave-to-master difference; TSQ_EXPIRY drops and counts
entries a second old (R303 to R307).

Readings and choices of the model it rests on: log entries 10, 73 and 103. -/
def Obligations.ServoSamples : Prop :=
  ((∀ (dt b : Nat) (m : PtpMsg) (ms sm : Int) (s : State), b ∈ s.sys.tbFrom m → (s.sys.tb b).sm = some sm →
      ms = (s.sys.tb b).map.read (s.sys.now + dt : Nat) - m.time - m.corr →
      (s.sys.tb b).delays = [] ∨ (ms + sm) / 2 ≤ median (s.sys.tb b).delays + usU 1 →
      ∃ w, Does (.sync dt m false) s w ∧ w.int (Ob.TbOffset b) = (ms - sm) / 2 ∧
        w.int (Ob.TbMeanPathDelay b) = max ((ms + sm) / 2) 0 ∧ (w.tb b).lastSync = s.sys.now + dt ∧
        w.nat (Ob.TbSyncRx b) = (s.sys.nat (Ob.TbSyncRx b) + 1) % wrapOf s.sys.part.dies (Ob.TbSyncRx b) ∧
        ∀ c, c ∉ s.sys.tbFrom m → w.tb c = s.sys.tb c) ∧
    (∀ (dt b : Nat) (m : PtpMsg) (s : State), b ∈ s.sys.tbFrom m →
      ∃ w, Does (.sync dt m true) s w ∧ w.tb b = { s.sys.tb b with masterMac := m.srcMac, masterIp := m.srcIp, syncWait := some (m, s.sys.now + dt) } ∧
        w.live = s.sys.live ∧ w.evs = s.sys.evs) ∧
    ∀ (dt b at_ : Nat) (m a : PtpMsg) (ms sm : Int) (s : State), b ∈ s.sys.tbFrom m → (s.sys.tb b).syncWait = some (a, at_) →
      a.seq = m.seq → a.port = m.port → (s.sys.tb b).sm = some sm →
      ms = (s.sys.tb b).map.read at_ - m.time - a.corr - m.corr →
      (s.sys.tb b).delays = [] ∨ (ms + sm) / 2 ≤ median (s.sys.tb b).delays + usU 1 →
      ∃ w, Does (.followUp dt m) s w ∧ w.int (Ob.TbOffset b) = (ms - sm) / 2 ∧
        w.int (Ob.TbMeanPathDelay b) = max ((ms + sm) / 2) 0 ∧ (w.tb b).syncWait = none ∧ (w.tb b).lastSync = s.sys.now + dt) ∧
  ((∀ (dt b p : Nat) (uni v6 : Bool) (q : Queue) (y : Sys) (s : State), y = s.sys.elapse dt → y.portUp p = true →
      y.tbCfg b (Ob.TbRefMode b) = 1 → (y.tbPorts b).contains p = true → (y.tb b).master.isSome = true →
      (∀ a, (y.tb b).drAt = some a → a + pow2Sec (y.tbCfg b (Ob.TbLogDelayReq b)) ≤ y.now) →
      (uni = true ↔ y.tbCfg b (Ob.TbDelayUnicast b) = 1) →
      v6 = (if uni then isV6 (y.tb b).masterIp else y.ownAddr (some p) false == 0) → y.ownAddr (some p) v6 ≠ 0 →
      y.net.queues.find? (fun q => q.port == p && q.kind == 3) = some q → q.pkts.length < 64 → y.gate p = none →
      ∃ (z : Sys) (x : Waiting), Does (.delayReq dt b p) s (z.choose p) ∧ Queued y q x z ∧
        x.pkt.carry = .ptp b ((y.tb b).drSeq % 65536) (if uni then some (y.tb b).masterMac else none) ∧ x.pkt.cls = q.cls ∧
        (uni = true → x.pkt.dest = (y.tb b).masterIp) ∧ z.tb b = { y.tb b with drSeq := (y.tb b).drSeq + 1, drAt := some y.now }) ∧
    (∀ (dt p n b seq : Nat) (u : Option Nat) (c : Instr) (q : Queue) (h : Waiting) (keep : List Tsq) (y : Sys) (s : State),
      y = s.sys.elapse dt → c = .packetLaunch dt p ∨ c = .txFrameComplete dt p ∨ c = .gateOpening dt p → y.HeadGoes p n q h →
      h.pkt.carry = .ptp b seq u → keep = (y.tsq p).filter (fun e => decide (y.now < e.t + secU 1)) →
      (keep.length < 32 → ∃ w e, Does c s w ∧ w.out = [.packet p h.pkt] ∧ w.tsq p = keep ++ [e] ∧ e.id = seq ∧ e.tb = b ∧ e.t = y.now ∧
        e.stamp = y.tbNow b ∧ e.ovf = Tab.find (fun _ => false) y.jas.ovf p) ∧
      (32 ≤ keep.length → ∃ w, Does c s w ∧ w.out = [.packet p h.pkt] ∧ w.tsq p = keep ∧
        w.nat (Ob.TsqOverflow p) = (y.nat (Ob.TsqOverflow p) + 1) % wrapOf y.part.dies (Ob.TsqOverflow p))) ∧
    (∀ (dt b : Nat) (m : PtpMsg) (e : Tsq) (s : State), (s.sys.tbFrom m).contains b = true →
      (s.sys.tsq m.port).find? (fun x => x.id == m.seq && x.tb == b) = some e →
      ∃ w, Does (.delayResp dt m b) s w ∧ w.tb b = { s.sys.tb b with sm := some (m.time - e.stamp - m.corr) } ∧
        w.tsq m.port = ((s.sys.tsq m.port).filter fun x => !(x.id == m.seq && x.tb == b)) ∧ w.live = s.sys.live ∧ w.evs = s.sys.evs) ∧
    ∀ (dt p n : Nat) (keep : List Tsq) (s : State), keep = (s.sys.tsq p).filter (fun e => decide (s.sys.now + dt < e.t + secU 1)) →
      n = (s.sys.tsq p).length - keep.length →
      ∃ w, Does (.tsqExpiry dt p) s w ∧ w.tsq p = keep ∧
        w.nat (Ob.TsqExpired p) = (s.sys.nat (Ob.TsqExpired p) + n) % wrapOf s.sys.part.dies (Ob.TsqExpired p) ∧
        ∀ k, k ≠ Ob.TsqExpired p → w.val k = s.sys.val k)

/-- ANNOUNCE is noted with the masters the base knows; a base in LOCKED or SLEW that has no qualified master left, or has had no accepted
Sync for four intervals, enters HOLDOVER (R307, R311).

Readings and choices of the model it rests on: log entries 11 and 74. -/
def Obligations.MastersAndHoldover : Prop :=
  (∀ (dt b : Nat) (m : AnnounceMsg) (s : State), b < 8 → s.sys.portUp m.port = true → s.sys.tbHears b m.port m.domain = true →
    ∃ w f, Does (.announce dt m) s w ∧ f ∈ (w.tb b).foreigns ∧ f.ds = m ∧ f.heard.head? = some (s.sys.now + dt) ∧
      (∀ g ∈ (s.sys.tb b).foreigns, ¬(g.ds.clock = m.clock ∧ g.ds.portNum = m.portNum ∧ g.ds.port = m.port) → g ∈ (w.tb b).foreigns)) ∧
  (∀ (dt b : Nat) (s : State), s.sys.tbCfg b (Ob.TbRefMode b) = 1 → (s.sys.elapse dt).bestMaster b = none →
    (s.sys.tb b).st = 1 ∨ (s.sys.tb b).st = 3 →
    ∃ w f, Does (.announceReceiptTimeout dt b) s w ∧ (w.tb b).master = none ∧ (w.tb b).st = 2 ∧ (w.tb b).judging = true ∧
      (w.tb b).nextPpb = some f ∧ w.live = s.sys.live ∧
      w.evs.raised = s.sys.evs.raised ++ [{ code := 0x0402, die := 0, arg := b, t := s.sys.now + dt }]) ∧
  ∀ (dt b : Nat) (s : State), (s.sys.tb b).lastSync + 4 * pow2Sec (s.sys.tbCfg b (Ob.TbLogSync b)) ≤ s.sys.now + dt →
    (s.sys.tb b).st = 1 ∨ (s.sys.tb b).st = 3 →
    ∃ w, Does (.syncTimeout dt b) s w ∧ (w.tb b).st = 2 ∧ (w.tb b).master = (s.sys.tb b).master ∧ w.live = s.sys.live ∧
      w.evs.raised = s.sys.evs.raised ++ [{ code := 0x0402, die := 0, arg := b, t := s.sys.now + dt }]

/-- MAP_CHANGE applies a computed rate from now on without a jump; STEP_INSTANT at X moves the base by Δ, keeps the old view for the
consumers other than ports, and ends a SLEW; STEP_SWITCH_POINT brings a channel at its boundary onto the stepped base (R302, R314 to
R316). PPS_OUT_PULSE within 10 ns of a whole second raises the pin, and PPS_IN_EDGE is counted (R321, R322).

Readings and choices of the model it rests on: log entries 61, 74 and 75. -/
def Obligations.MapsAndSteps : Prop :=
  (∀ (dt b : Nat) (f : Int) (s : State), (s.sys.tb b).nextPpb = some f →
    ∃ w, Does (.mapChange dt b) s w ∧ (w.tb b).map.read (s.sys.now + dt : Nat) = (s.sys.tb b).map.read (s.sys.now + dt : Nat) ∧
      (w.tb b).map.ppb = f ∧ (w.tb b).nextPpb = none ∧ w.live = s.sys.live ∧ w.evs = s.sys.evs) ∧
  (∀ (dt b : Nat) (x delta : Int) (s : State), (s.sys.tb b).step = some (x, delta) → atOrAfter ((s.sys.elapse dt).tbNow b) x = true →
    ∃ w, Does (.stepInstant dt b) s w ∧ (∀ u, (w.tb b).map.read u = (s.sys.tb b).map.read u + delta) ∧ (w.tb b).step = none ∧
      (w.tb b).old = some (s.sys.tb b).map ∧
      (∀ c, c ∈ (w.tb b).waiting ↔ c ∈ s.sys.consumers b ∧ ∀ p, c ≠ .port p) ∧
      (w.tb b).st = (if (s.sys.tb b).st = 3 then 2 else (s.sys.tb b).st) ∧
      ((s.sys.tb b).st = 3 → (w.tb b).nextPpb = some ((s.sys.elapse dt).holdFreq b)) ∧
      w.nat (Ob.TbStepsApplied b) = (s.sys.nat (Ob.TbStepsApplied b) + 1) % wrapOf s.sys.part.dies (Ob.TbStepsApplied b) ∧
      w.evs.raised = s.sys.evs.raised ++ [{ code := 0x0404, die := 0, arg := b, t := s.sys.now + dt }]) ∧
  (∀ (dt n b : Nat) (y : Sys) (s : State), y = s.sys.elapse dt →
    (List.range 8).find? (fun b => (y.tb b).old.isSome && (y.tb b).waiting.contains (.ch n)) = some b →
    atOrAfter (y.frameNow n false) ((y.fig n).boundary (y.chan n).nextK) = true → (y.chan n).cx = none →
    ∃ w, Does (.stepSwitchPoint dt (.ch n)) s w ∧ (w.tb b).waiting = ((y.tb b).waiting.filter fun v => v != .ch n) ∧
      (w.chan n).nextK = firstFrom (y.fig n).rn (y.fig n).rd ((y.fig n).boundary (y.chan n).nextK + y.stepDelta b) ∧
      (w.chan n).refK = (w.chan n).nextK ∧ (w.chan n).ageShift = y.stepDelta b ∧
      (∀ fr ∈ (w.chan n).frames, fr.old = true) ∧ (∀ m, m ≠ n → w.chan m = y.chan m) ∧ w.live = s.sys.live) ∧
  (∀ (dt : Nat) (r : Int) (s : State), r = (s.sys.elapse dt).tbNow (s.sys.nat Ob.PpsOutBase) % secU 1 → s.sys.flag Ob.PpsOutEnable = true →
    r ≤ nsU 10 ∨ (secU 1 : Int) - nsU 10 ≤ r →
    Does (.ppsOutPulse dt) s { s.sys.elapse dt with
      jas := { s.sys.jas with ppsFall := some (s.sys.now + dt + msU (s.sys.nat Ob.PpsOutWidth)) }, out := [.pps true] }) ∧
  ∀ (dt : Nat) (s : State), ∃ w, Does (.ppsInEdge dt) s w ∧ w.jas = { s.sys.jas with ppsIn := s.sys.now + dt } ∧
    w.nat Ob.PpsInCount = (s.sys.nat Ob.PpsInCount + 1) % wrapOf s.sys.part.dies Ob.PpsInCount ∧
    ∀ k, k ≠ Ob.PpsInCount → w.val k = s.sys.val k

/-! ### Lanes and ports -/

/-- Bring-up: SIGNAL_DETECT, the end of a burst (which moves its lane on, and the port with its last lane), a page that agrees, the end of training on the last lane and 1 ms of alignment each
move their port on as R355 to R359 say, up to link state 5 and its event; ANEG_TIMEOUT raises its event once per enable.

Going down: the loss of a lane's signal detect, a third alignment loss within a second, and a window with more than 1 % of bad
codewords take a port that is up into retraining, counted and with its event (R355, R359, R360); a training that takes 3 s sends every
lane idle for 100 ms, after which TRAINING_RETRY starts the burst again (R358).

Readings and choices of the model it rests on: log entry 77. -/
def Obligations.LinksChange : Prop :=
  ((∀ (dt l : Nat) (s : State), ∃ w, Does (.signalDetect dt l) s w ∧ w.lane l = { s.sys.lane l with sd := true } ∧
      (∀ k, k ≠ l → w.lane k = s.sys.lane k) ∧ w.live = s.sys.live ∧ w.evs = s.sys.evs) ∧
    (∀ (dt l p e : Nat) (s : State), (s.sys.lane l).burstEnd = some e → e ≤ s.sys.now + dt → (s.sys.lane l).st = 1 → s.sys.lanePort l = some p →
      ∃ w, Does (.fastExitBurstEnd dt l) s w ∧ (w.lane l).st = (if (s.sys.port p).medium = 1 then 3 else 2) ∧
        (w.lane l).since = s.sys.now + dt ∧ (∀ k, k ≠ l → w.lane k = s.sys.lane k) ∧
        ((∀ k ∈ s.sys.portLanes p, k ≠ l → (s.sys.lane k).st ≠ 1) → (w.port p).retrain = false ∧
          (w.port p).st = (if (s.sys.port p).aneg = 1 ∧ (s.sys.port p).retrain = false then 2 else 3)) ∧
        ((∃ k ∈ s.sys.portLanes p, k ≠ l ∧ (s.sys.lane k).st = 1) → w.port p = s.sys.port p)) ∧
    (∀ (dt p : Nat) (s : State), (s.sys.port p).st = 2 →
      ∃ w, Does (.autoNegotiationPage dt p (s.sys.port p).mode true) s w ∧ w.port p = { s.sys.port p with st := 3 } ∧
        w.live = s.sys.live ∧ w.evs = s.sys.evs) ∧
    (∀ (dt p : Nat) (s : State), (s.sys.port p).st = 2 → (s.sys.lane p).since + msU 500 ≤ s.sys.now + dt →
      ∃ w, Does (.anegTimeout dt p) s w ∧ w.port p = { s.sys.port p with anegRaised := true } ∧
        w.evs.raised = s.sys.evs.raised ++ (if (s.sys.port p).anegRaised then [] else
          [{ code := 0x0504, die := portDie p, arg := p, t := s.sys.now + dt }])) ∧
    (∀ (dt l p fir snr : Nat) (asks tap grants : Bool) (s : State), s.sys.lanePort l = some p → (s.sys.port p).st = 3 → (s.sys.lane l).st = 2 →
      ∃ w, Does (.trainingDone dt l asks tap grants fir snr) s w ∧ (w.lane l).st = 4 ∧ w.nat (Ob.LnTxFirLive l) = fir ∧
        w.nat (Ob.LnSnr l) = snr ∧ w.nat (Ob.LnTrainCount l) = (s.sys.nat (Ob.LnTrainCount l) + 1) % wrapOf s.sys.part.dies (Ob.LnTrainCount l) ∧
        w.nat (Ob.LnPrecodeState l) = (if modePam4 (s.sys.port p).mode && asks then 2 else 0) +
          (if modePam4 (s.sys.port p).mode && (s.sys.nat (Ob.LnPrecodeReq l) == 1 || (s.sys.nat (Ob.LnPrecodeReq l) == 2 && tap)) && grants
            then 1 else 0) ∧
        ((∀ k ∈ s.sys.portLanes p, k ≠ l → (s.sys.lane k).st = 4) → (w.port p).st = 4)) ∧
    (∀ (dt p : Nat) (s : State), (s.sys.port p).st = 4 →
      ∃ w, Does (.alignmentLock dt p) s w ∧ w.port p = { s.sys.port p with alignedAt := some (s.sys.now + dt) } ∧ w.live = s.sys.live) ∧
    ∀ (dt p t : Nat) (s : State), (s.sys.port p).st = 4 → (s.sys.port p).alignedAt = some t → t + msU 1 ≤ s.sys.now + dt →
      ∃ w, Does (.alignmentHeld dt p) s w ∧ w.port p = { s.sys.port p with st := 5, trainRaised := false } ∧ w.live = s.sys.live ∧
        w.evs.raised = s.sys.evs.raised ++ [{ code := 0x0501, die := portDie p, arg := p, t := s.sys.now + dt }]) ∧
  ((∀ (dt l p : Nat) (c : Instr) (s : State), s.sys.lanePort l = some p → l ∈ s.sys.portLanes p → (s.sys.port p).st = 5 →
      (∃ q ∈ s.sys.portLanes p, s.sys.nat (Ob.LnBurstLen q) ≠ 0) →
      c = .signalDetectLoss dt l ∨ (∃ n bad, c = .uncorrectableWindow dt p n bad ∧ (s.sys.port p).fec = true ∧ n < 100 * bad) ∨
        (c = .alignmentLoss dt p ∧ 2 ≤ ((s.sys.port p).losses.filter fun t => decide (s.sys.now + dt < t + secU 1)).length) →
      ∃ w a b, Does c s w ∧ (w.port p).st = 6 ∧ (w.port p).retrain = true ∧
          (∀ k ∈ s.sys.portLanes p, s.sys.nat (Ob.LnBurstLen k) ≠ 0 → (w.lane k).st = 1) ∧
        w.nat (Ob.PortLinkDowns p) = (s.sys.nat (Ob.PortLinkDowns p) + 1) % wrapOf s.sys.part.dies (Ob.PortLinkDowns p) ∧
        w.evs.raised = s.sys.evs.raised ++ a ++ [{ code := 0x0502, die := portDie p, arg := p, t := s.sys.now + dt }] ++ b) ∧
    (∀ (dt p : Nat) (s : State), (s.sys.port p).st = 5 → (∀ l ∈ s.sys.portLanes p, (s.sys.lane l).sd = true) →
      ((s.sys.port p).losses.filter fun t => decide (s.sys.now + dt < t + secU 1)).length < 2 →
      ∃ w, Does (.alignmentLoss dt p) s w ∧ (w.port p).st = 4 ∧ (∀ l, w.lane l = s.sys.lane l) ∧
        (w.port p).losses = (s.sys.now + dt) :: (s.sys.port p).losses.filter fun t => decide (s.sys.now + dt < t + secU 1)) ∧
    (∀ (dt l p : Nat) (s : State), s.sys.lanePort l = some p → (s.sys.port p).st = 3 → (s.sys.lane l).st = 2 →
      (s.sys.lane l).since + secU 3 ≤ s.sys.now + dt →
      ∃ w, Does (.trainingTimeout dt l) s w ∧ (∀ k ∈ s.sys.portLanes p, (w.lane k).st = 5) ∧
        w.port p = { s.sys.port p with trainRaised := true, wait100 := some (s.sys.now + dt + msU 100) } ∧
        w.evs.raised = s.sys.evs.raised ++ (if (s.sys.port p).trainRaised then [] else
          [{ code := 0x0503, die := portDie p, arg := l, t := s.sys.now + dt }]) ∧
        w.nat (Ob.LnTrainFails l) = (s.sys.nat (Ob.LnTrainFails l) + 1) % wrapOf s.sys.part.dies (Ob.LnTrainFails l)) ∧
    ∀ (dt p t : Nat) (s : State), (s.sys.port p).wait100 = some t → t ≤ s.sys.now + dt →
      (∃ q ∈ s.sys.portLanes p, s.sys.nat (Ob.LnBurstLen q) ≠ 0) →
      ∃ w, Does (.trainingRetry dt p) s w ∧ (w.port p).wait100 = none ∧ (w.port p).st = (s.sys.port p).st ∧
        ∀ k ∈ s.sys.portLanes p, s.sys.nat (Ob.LnBurstLen k) ≠ 0 →
          (w.lane k).st = 1 ∧ (w.lane k).burstEnd = some (s.sys.now + dt + usU (s.sys.nat (Ob.LnBurstLen k))))

/-- FRAME_RX on a port that is up counts the frame by length, FCS, control and destination, and once; ARP, neighbour
solicitations and echo requests for its own address are answered, by a network port through its control queue (R269, R351 to R353). FEC_SECOND counts codewords and symbol errors, and an eye scan point
adds its record (R353, R354, R365).

Readings and choices of the model it rests on: log entries 12 and 73. -/
def Obligations.PortsReceive : Prop :=
  (∀ (dt p k : Nat) (f : EthFrame) (s : State), s.sys.portUp p = true →
    k = (if f.bytes < 64 ∨ (s.sys.port p).maxFrame + (if f.tagged then 4 else 0) < f.bytes then Ob.PortRxLenErr p
      else if f.fecBad = true ∨ f.fcsOk = false then Ob.PortRxFcsErr p
      else if f.etherType = 0x8808 ∨ s.sys.macTakes p f.dst = false then Ob.PortRxCtlDiscard p else Ob.PortRxFrames p) →
    ∃ w, Does (.frameRx dt p f) s w ∧ w.nat k = (s.sys.nat k + 1) % wrapOf s.sys.part.dies k ∧ (∀ j, j ≠ k → w.val j = s.sys.val j) ∧
      w.evs = s.sys.evs ∧ w.net = s.sys.net) ∧
  (∀ (dt target sender : Nat) (data : List Byte) (s : State), s.sys.canAnswer none = true → target ≠ 0 →
    (target = s.sys.ownAddr none false →
      Does (.arpRequest dt none target sender) s ((s.sys.elapse dt).emit (.control 0 target sender []))) ∧
    (target = s.sys.ownAddr none true →
      Does (.neighbourSolicitation dt none target sender) s ((s.sys.elapse dt).emit (.control 1 target sender []))) ∧
    (target = s.sys.ownAddr none (decide (2 ^ 32 ≤ target)) →
      Does (.echoRequest dt none target sender data) s ((s.sys.elapse dt).emit (.control 2 target sender data)))) ∧
  (∀ (dt p kind target sender : Nat) (v6 : Bool) (data : List Byte) (c : Instr) (q : Queue) (y : Sys) (s : State), y = s.sys.elapse dt →
    y.portUp p = true → target ≠ 0 → target = y.ownAddr (some p) v6 →
    (c = .arpRequest dt (some p) target sender ∧ v6 = false ∧ kind = 0 ∧ data = []) ∨
      (c = .neighbourSolicitation dt (some p) target sender ∧ v6 = true ∧ kind = 1 ∧ data = []) ∨
      (c = .echoRequest dt (some p) target sender data ∧ v6 = decide (2 ^ 32 ≤ target) ∧ kind = 2) →
    y.net.queues.find? (fun q => q.port == p && q.kind == 4) = some q → q.pkts.length < 64 → y.gate p = none →
    ∃ (z : Sys) (x : Waiting), Does c s (z.choose p) ∧ Queued y q x z ∧ x.pkt.carry = .control kind target data ∧ x.pkt.cls = q.cls ∧
      x.pkt.dest = (if v6 then sender else 0xFFFF00000000 + sender)) ∧
  (∀ (dt l i n eligible mismatches : Nat) (s : State), (s.sys.lane l).scan = some (i, n) →
    ∃ w, Does (.eyeScanPointDone dt l eligible mismatches) s w ∧
      w.lane l = { s.sys.lane l with scan := if n ≤ i + 1 then none else some (i + 1, n)
                                     recs := (s.sys.lane l).recs ++ [eligible / 1024 % 2 ^ 26 * 2 ^ 38 + mismatches % 2 ^ 38] } ∧
      w.nat (Ob.LnScanPoints l) = i + 1 ∧
      (n ≤ i + 1 → w.nat (Ob.LnScanState l) = 2 ∧
        w.evs.raised = s.sys.evs.raised ++ [{ code := 0x0507, die := portDie l, arg := l, t := s.sys.now + dt }])) ∧
  ∀ (dt p received corrected bad n : Nat) (symbols : List Nat) (s : State), s.sys.portEnabled p = true → (s.sys.port p).fec = true →
    n = symbols.foldl (· + ·) 0 →
    ∃ w, Does (.fecSecond dt p received corrected bad symbols) s w ∧
      w.nat (Ob.FecCorrectedCw p) = (s.sys.nat (Ob.FecCorrectedCw p) + corrected) % wrapOf s.sys.part.dies (Ob.FecCorrectedCw p) ∧
      w.nat (Ob.FecUncorrectedCw p) = (s.sys.nat (Ob.FecUncorrectedCw p) + bad) % wrapOf s.sys.part.dies (Ob.FecUncorrectedCw p) ∧
      w.nat (Ob.FecSymbolErrors p) = (s.sys.nat (Ob.FecSymbolErrors p) + n) % wrapOf s.sys.part.dies (Ob.FecSymbolErrors p) ∧
      w.nat (Ob.FecSer p) = (if received = 0 then 0 else n * 10 ^ 12 / received)

/-! ### Sending -/

/-- PACKET_LAUNCH, TX_FRAME_COMPLETE and GATE_OPENING make the port choose (R272): the first timed packet that is due starts; with none due,
the head of the highest class that is open, out of debt, in its window and clear of timed launches; and with the link down the due
timed packets are discarded (R274, R275, R277, R287).

Readings and choices of the model it rests on: log entry 69. -/
def Obligations.PortsChoose : Prop :=
  ∀ (dt p : Nat) (c : Instr) (y : Sys) (s : State), y = s.sys.elapse dt → c = .packetLaunch dt p ∨ c = .txFrameComplete dt p ∨ c = .gateOpening dt p →
    (∀ k, y.portUp p = true → (y.port p).wireFree ≤ y.now → y.firstTimed p (y.dueTimed p) = some k →
      ∃ w, Does c s w ∧ w.out = [.packet p k] ∧ (w.port p).wireFree = y.now + y.wireTime p k.bytes ∧
        (w.port p).timed = (y.port p).timed.erase k ∧ w.net.queues = y.net.queues ∧
        w.nat (Ob.PortTxFrames p) = (y.nat (Ob.PortTxFrames p) + 1) % wrapOf y.part.dies (Ob.PortTxFrames p)) ∧
    (∀ (n : Nat) (q : Queue) (h : Waiting), y.HeadGoes p n q h →
      ∃ w, Does c s w ∧ w.out = [.packet p h.pkt] ∧ (w.port p).wireFree = y.now + y.wireTime p h.pkt.bytes ∧
        (w.port p).timed = (y.port p).timed ∧ (w.cls p n).v = max (y.cls p n).v h.f ∧
        ((y.cls p n).shaped y.now = true → (w.cls p n).tokens = (y.cls p n).count y.now - (y.counted p h.pkt.bytes * 65536 : Nat)) ∧
        (∀ m, q.owner = .ch m → q.kind = 2 → w.nat (Ob.RtxSent m) = (y.nat (Ob.RtxSent m) + 1) % wrapOf y.part.dies (Ob.RtxSent m)) ∧
        w.nat (Ob.PortTxFrames p) = (y.nat (Ob.PortTxFrames p) + 1) % wrapOf y.part.dies (Ob.PortTxFrames p)) ∧
    (∀ k, y.portUp p = false → y.dueTimed p = [k] →
      ∃ w, Does c s w ∧ w.out = [] ∧ (w.port p).timed = (y.port p).timed.erase k ∧
        w.nat (Ob.PortDownDrop p) = (y.nat (Ob.PortDownDrop p) + 1) % wrapOf y.part.dies (Ob.PortDownDrop p))

/-- An untimed packet that arrives enters its queue with its start and finish tags while the link is up and the queue holds fewer than 64;
otherwise it is dropped and counted; then the port chooses (R270, R277, R279). CALENDAR_SLOT takes the entries whose slot has started
off the wheel and lets their port choose; one that was parked is entered again (R278).

Readings and choices of the model it rests on: log entry 69. -/
def Obligations.PacketsArrive : Prop :=
  (∀ (dt p num bytes : Nat) (q : Queue) (y : Sys) (s : State), y = s.sys.elapse dt →
    y.net.queues.find? (fun q => q.die == portDie p && q.num == num && q.port == p && !q.timed) = some q →
    (y.portUp p = true → q.pkts.length < 64 → y.gate p = none →
      ∃ (z : Sys) (x : Waiting), Does (.packetEnqueue dt p num bytes) s (z.choose p) ∧ x.pkt.bytes = bytes ∧ x.s = max (y.cls p q.cls).v q.lastF ∧
        x.f = x.s + y.counted p bytes * 65536 / max 1 q.weight ∧ z.live = y.live ∧ z.out = [] ∧
        z.net.queues = y.net.queues.map fun o => if o.die = q.die ∧ o.num = q.num then { o with pkts := o.pkts ++ [x], lastF := x.f } else o) ∧
    (y.portUp p = true → 64 ≤ q.pkts.length →
      ∃ z : Sys, Does (.packetEnqueue dt p num bytes) s (z.choose p) ∧ z.net = y.net ∧
        z.nat (Ob.PortQueueDrop p) = (y.nat (Ob.PortQueueDrop p) + 1) % wrapOf y.part.dies (Ob.PortQueueDrop p) ∧
        ∀ k, k ≠ Ob.PortQueueDrop p → z.val k = y.val k) ∧
    (y.portUp p = false →
      ∃ z : Sys, Does (.packetEnqueue dt p num bytes) s (z.choose p) ∧ z.net = y.net ∧
        z.nat (Ob.PortDownDrop p) = (y.nat (Ob.PortDownDrop p) + 1) % wrapOf y.part.dies (Ob.PortDownDrop p) ∧
        ∀ k, k ≠ Ob.PortDownDrop p → z.val k = y.val k)) ∧
  (∀ (dt d p : Nat) (y : Sys) (s : State), y = s.sys.elapse dt →
    (∃ e ∈ y.net.wheel, e.die = d ∧ e.slot ≤ y.now ∧ e.port = p) →
    (∀ e ∈ y.net.wheel, e.die = d → e.slot ≤ y.now → e.port = p ∧ y.slotFor d e.at_ ≤ y.now) →
    ∃ z : Sys, Does (.calendarSlot dt d) s (z.choose p) ∧
      z = { y with net := { y.net with wheel := y.net.wheel.filter fun e => !(e.die == d && decide (e.slot ≤ (y.now : Int))) } }) ∧
  ∀ (dt d : Nat) (e : WheelEnt) (y : Sys) (s : State), y = s.sys.elapse dt →
    y.net.wheel.filter (fun e => e.die == d && decide (e.slot ≤ (y.now : Int))) = [e] → (y.now : Int) < y.slotFor d e.at_ →
    ∃ w, Does (.calendarSlot dt d) s w ∧ w.out = [] ∧ w.live = y.live ∧ ∃ o ∈ w.net.wheel, o.port = e.port ∧ o.cls = e.cls ∧ o.at_ = e.at_ ∧
      o.slot = (if (y.now : Int) + nsU 262080 < e.at_ then y.farSlot (portDie e.port) else y.slotFor (portDie e.port) e.at_)

/-- GENERIC_NACK to the one running channel whose leg it addresses, once launches that are due have been made: a packet still in the store is resent through its retransmission queue
against the channel's tokens, and one that is not is counted as missed (R263 to R266). At its boundary a set of a port becomes live, is
counted, and raises its event, and then the port chooses (R289).

Readings and choices of the model it rests on: log entries 72 and 115. -/
def Obligations.ResendsAndBoundaries : Prop :=
  (∀ (dt n a ssrc mac : Nat) (h : PktHdr) (l : OutLeg) (y : Sys) (s : State), y = (s.sys.elapse dt).choose h.port →
    (s.sys.elapse dt).portUp h.port = true → y.activeChans = [n] → (chOutLegs (y.cfg n) n).find? (fun l => l.port == h.port && h.dst == y.legAddr l) = some l →
    (y.cfg n (Ob.OutRtcpUdp n)).nat = h.udp → (y.cfg n (Ob.OutSsrc n)).nat = ssrc → (y.chan n).rtxK ≠ 0 → a < 65536 →
    y.requested (portDie h.port) + 1 ≤ 1024 →
    (y.rtxFind n (portDie l.port) a = none →
      ∃ z : Sys, Does (.genericNack dt h ssrc mac [(a, 0)]) s (z.choose h.port) ∧
        z.nat (Ob.RtxNackRx n) = (y.nat (Ob.RtxNackRx n) + 1) % wrapOf y.part.dies (Ob.RtxNackRx n) ∧
        z.nat (Ob.RtxMiss n) = (y.nat (Ob.RtxMiss n) + 1) % wrapOf y.part.dies (Ob.RtxMiss n) ∧ z.net = y.net ∧ z.chans = y.chans) ∧
    (∀ (e : RtxSlot) (q : Queue) (need : Int), y.rtxFind n (portDie l.port) a = some e →
      need = (y.counted l.port (rtpBytes e.pkt.carry + { l with dst := h.src, udp := h.srcUdp }.around) * 65536 : Nat) → need ≤ y.rtxTokens n →
      y.net.queues.find? (fun q => q.port == l.port && q.owner == .ch n && q.kind == 2) = some q → q.port = l.port →
      q.pkts.length < 64 → y.gate l.port = none →
      ∃ z : Sys, Does (.genericNack dt h ssrc mac [(a, 0)]) s (z.choose h.port) ∧
        z.nat (Ob.RtxNackRx n) = (y.nat (Ob.RtxNackRx n) + 1) % wrapOf y.part.dies (Ob.RtxNackRx n) ∧
        (z.chan n).tokens = y.rtxTokens n - need ∧
        ∃ o ∈ z.net.queues, o.num = q.num ∧ ∃ x ∈ o.pkts, x.pkt.seq = e.pkt.seq ∧ x.pkt.carry = e.pkt.carry ∧ x.pkt.dest = h.src ∧
          x.pkt.udp = h.srcUdp ∧ x.pkt.dscp = l.dscp ∧ x.pkt.src = y.legAddr l)) ∧
  ∀ (dt p k : Nat) (v : Val) (q : Pend) (y : Sys) (s : State), p < 96 → y = s.sys.elapse dt → y.pend = [q] → q.key = Ob.PortCommit p →
    q.set = [(k, v)] → portOwns p k = true → atOrAfter (y.tbNow (y.ofSet q.set (Ob.PortTimeBase p)).nat) q.at_ = true →
    ∃ z : Sys, Does (.portCommitBoundary dt p) s (z.tbSettle.choose p) ∧ z.val k = v ∧ z.pend = [] ∧ z.nat (Ob.PortCommitState p) = 0 ∧
      z.nat (Ob.PortCommitCount p) = (y.nat (Ob.PortCommitCount p) + 1) % wrapOf y.part.dies (Ob.PortCommitCount p) ∧
      z.nat (Ob.GclApplied p) = time96 q.at_ ∧ { code := 0x1001, die := portDie p, arg := p, t := y.now } ∈ z.evs.raised

/-! ### Onyx -/

/-- ARM makes an idle descriptor wait and is counted as ignored on any other; CANCEL, FLAG_SET and FLAG_CLEAR wait for the next cycle (R396,
R398, R399).

ONYX_CYCLE applies clears before sets and leaves the flags that mirror token queues alone; a waiting task whose condition holds becomes
ready, and starts at once on the lowest idle core its class and its pin allow; a cancelled one ends; with no idle core a ready task of a
level at or above `OnyxPreemptLevel` pre-empts; and a class without credit waits (R395, R397, R399 to R402, R430).

Readings and choices of the model it rests on: log entry 80. -/
def Obligations.TasksTakeTurns : Prop :=
  (∀ (dt d k f who : Nat) (o : Onyx) (y : Sys) (s : State), y = s.sys.elapse dt → o = y.onyx d →
      ((o.task k).st = 0 → ∃ w, Does (.arm dt d k) s w ∧ (w.onyx d).task k = { o.task k with st := 1 } ∧
        (∀ j, j ≠ k → (w.onyx d).task j = o.task j) ∧ (w.onyx d).flags = o.flags ∧ (w.onyx d).ready = o.ready ∧
        (y.flag Ob.OnyxTraceEnable = false → w.live = y.live ∧ w.evs = y.evs)) ∧
      ((o.task k).st ≠ 0 → ∃ w, Does (.arm dt d k) s w ∧ w.onyx d = o ∧
        w.nat (Ob.DieCmdIgnored d) = (y.nat (Ob.DieCmdIgnored d) + 1) % wrapOf y.part.dies (Ob.DieCmdIgnored d) ∧
        ∀ j, j ≠ Ob.DieCmdIgnored d → w.val j = y.val j) ∧
      (∃ w, Does (.cancel dt d k) s w ∧ w.onyx d = { o with cancels := o.cancels ++ [k] } ∧ w.live = y.live ∧ w.evs = y.evs) ∧
      (∃ w, Does (.flagSet dt d f who) s w ∧ w.onyx d = { o with sets := o.sets ++ [(f, who)] } ∧ w.live = y.live ∧ w.evs = y.evs) ∧
      ∃ w, Does (.flagClear dt d f who) s w ∧ w.onyx d = { o with clears := o.clears ++ [(f, who)] } ∧ w.live = y.live ∧ w.evs = y.evs) ∧
  (∀ (dt d : Nat) (o : Onyx) (y : Sys) (s : State), y = s.sys.elapse dt → o = y.onyx d →
      (o.tasks = [] → o.cancels = [] → o.ready = [] →
        ∃ w, Does (.onyxCycle dt d) s w ∧ (w.onyx d).sets = [] ∧ (w.onyx d).clears = [] ∧
          ∀ f < 0x300, ((w.onyx d).flagSet f = true ↔
            (∃ who, (f, who) ∈ o.sets) ∨ (o.flagSet f = true ∧ ∀ who, (f, who) ∉ o.clears))) ∧
      (∀ (k : Nat) (t : Task), o.tasks = [(k, t)] → t.st = 1 → o.sets = [] → o.clears = [] → o.ready = [] →
        (∀ i, o.cancels = [] → o.cond t = true → y.classOk d t.cls = true → o.idleCore t = some i →
          ∃ w, Does (.onyxCycle dt d) s w ∧ (w.onyx d).task k = { t with st := 3 } ∧ (w.onyx d).ready = [] ∧
            (w.onyx d).core i = { o.core i with
              banks := (o.core i).banks.set 0 (some k), run := 0, args := (o.core i).args.set 0 (bits t.desc 31 0) } ∧
            (∀ j, j ≠ i → (w.onyx d).core j = o.core j) ∧
            (w.onyx d).flags = if t.consume then o.flags.filter fun f => !t.waits.contains f else o.flags) ∧
        (o.cancels = [] → o.cond t = false → ∃ w, Does (.onyxCycle dt d) s w ∧ w.onyx d = o ∧ w.live = y.live ∧ w.evs = y.evs) ∧
        (o.cancels = [k] → ∃ w, Does (.onyxCycle dt d) s w ∧ (w.onyx d).task k = { t with st := 0 } ∧ (w.onyx d).ready = [] ∧
          (w.onyx d).cancels = [] ∧ (w.onyx d).flags = o.flags ∧ ∀ j, (w.onyx d).core j = o.core j)) ∧
      ∀ (k : Nat) (t : Task), t = o.task k → t.st = 2 → (∀ j, (o.task j).st ≠ 1) → o.sets = [] → o.clears = [] → o.cancels = [] →
        o.ready = [(t.prio, k)] →
        (∀ (i v : Nat), y.classOk d t.cls = true → o.idleCore t = none → y.nat Ob.OnyxPreemptLevel ≤ t.prio → o.victim t = some i →
          (o.core i).running = some v →
          ∃ w, Does (.onyxCycle dt d) s w ∧ (w.onyx d).task v = { o.task v with st := 4 } ∧ (w.onyx d).task k = { t with st := 3 } ∧
            (w.onyx d).core i =
              { o.core i with banks := (o.core i).banks.set (1 - (o.core i).run) (some k), run := 1 - (o.core i).run
                              args := (o.core i).args.set (1 - (o.core i).run) (bits t.desc 31 0) } ∧
            (w.onyx d).ready = [] ∧ w.nat (Ob.DiePreempts d) = (y.nat (Ob.DiePreempts d) + 1) % wrapOf y.part.dies (Ob.DiePreempts d)) ∧
        (y.classOk d t.cls = false →
          ∃ w, Does (.onyxCycle dt d) s w ∧ (w.onyx d).task k = t ∧ (w.onyx d).ready = o.ready ∧
            (w.onyx d).deferred.contains t.cls = true ∧ ∀ j, (w.onyx d).core j = o.core j))

/-- TASK_RUN_COMPLETE ends the task of a core: it waits again where its descriptor rearms, charges its class with the cycles of its run (those of a
firmware task are at most its longest run, R392), sets its done flag, and the
core resumes the task pre-empted on it when none is ready. A core that runs nothing completes nothing. A core that fails leaves
service: the lowest spare takes its number, its task starts again at the head of its level, and it is tested; a core that passes is a
spare, unless it has failed three times (R397, R403, R407, R430, R505).

Readings and choices of the model it rests on: log entries 80, 94 and 104. -/
def Obligations.RunsEnd : Prop :=
  (∀ (dt d i n : Nat) (o : Onyx) (y : Sys) (s : State), y = s.sys.elapse dt → o = y.onyx d →
    ((o.core i).running = none → Does (.taskRunComplete dt d i n .plain) s y) ∧
    (∀ (k m : Nat) (t : Task), (o.core i).running = some k → t = o.task k → (o.core i).banks.length = 2 → (o.core i).run < 2 →
      m = (match t.role with
        | some r => min n r.1.longest
        | none => n) →
      (((o.core i).banks.getD (1 - (o.core i).run) none) = none →
        ∃ w, Does (.taskRunComplete dt d i n .plain) s w ∧
          (w.onyx d).task k = { t with st := if t.rearm then 1 else 0, faulted := false } ∧ ((w.onyx d).core i).banks.all Option.isNone = true ∧
          (w.onyx d).sets = (if t.doneEn then o.sets ++ [(t.doneFlag, k)] else o.sets) ∧
          Tab.find (fun _ => 0) (w.onyx d).credit t.cls = Tab.find (fun _ => 0) o.credit t.cls - m) ∧
      (∀ v, v ≠ k → (o.core i).banks.getD (1 - (o.core i).run) none = some v → o.ready = [] →
        ∃ w, Does (.taskRunComplete dt d i n .plain) s w ∧ (w.onyx d).task v = { o.task v with st := 3 } ∧
          ((w.onyx d).core i).running = some v))) ∧
  (∀ (dt d i cause p : Nat) (o : Onyx) (y : Sys) (s : State), y = s.sys.elapse dt → o = y.onyx d →
    ((o.core i).phys = none → Does (.coreFault dt d i cause) s y) ∧
    ((o.core i).phys = some p →
      (∀ b ∈ (o.core i).banks, b = none) → ∃ w, Does (.coreFault dt d i cause) s w ∧
        (o.spares = [] → ((w.onyx d).core i).phys = none) ∧
        (∀ q, o.spares = [q] → ((w.onyx d).core i).phys = some q ∧ (w.onyx d).spares = [] ∧
          { code := 0x1108, die := d, arg := i, t := y.now } ∈ w.evs.raised) ∧
        (w.onyx d).testing = o.testing ++ [p] ∧ Tab.find (fun _ => 0) (w.onyx d).faults p = Tab.find (fun _ => 0) o.faults p + 1 ∧
        w.nat (Ob.DieCoreFaults d) = (y.nat (Ob.DieCoreFaults d) + 1) % wrapOf y.part.dies (Ob.DieCoreFaults d) ∧
        { code := 0x0801, die := d, arg := i, t := y.now } ∈ w.evs.raised ∧ ∀ j, (w.onyx d).task j = o.task j) ∧
    (∀ k, (o.core i).phys = some p → (o.core i).banks = [some k, none] → (o.task k).faulted = false →
      ∃ w, Does (.coreFault dt d i cause) s w ∧ (w.onyx d).task k = { o.task k with st := 2, faulted := true } ∧
        (w.onyx d).ready = ((o.task k).prio, k) :: o.ready)) ∧
  ∀ (dt d p : Nat) (pass : Bool) (o : Onyx) (y : Sys) (s : State), y = s.sys.elapse dt → o = y.onyx d →
    (o.testing.contains p = false → Does (.coreSelfTestComplete dt d p pass) s y) ∧
    (o.testing.contains p = true → pass = true → Tab.find (fun _ => 0) o.faults p < 3 →
      ∃ w, Does (.coreSelfTestComplete dt d p pass) s w ∧ w.live = y.live ∧ w.evs = y.evs ∧ w.upd = y.upd ∧
        w.onyx d = { o with testing := o.testing.filter fun q => q != p, spares := o.spares ++ [p] }) ∧
    (o.testing.contains p = true → pass = false → ∃ w, Does (.coreSelfTestComplete dt d p pass) s w ∧
      w.upd.rep.cores = y.upd.rep.cores ++ [(d, p)] ∧ (w.onyx d).spares = o.spares ∧
      w.nat (Ob.DieSelfTestFails d) = (y.nat (Ob.DieSelfTestFails d) + 1) % wrapOf y.part.dies (Ob.DieSelfTestFails d) ∧
      w.evs.raised = y.evs.raised ++ [{ code := 0x1109, die := d, arg := p, t := y.now }])

/-- TOKEN_PUSH enters a queue that has room, and holds its producer when it has none; TOKEN_POP takes the oldest token, which lets a held
push in, and reads as an error when there is none; QUEUE_HOLD_LIMIT reports a hold of more than 10 µs (R405, R406).

Readings and choices of the model it rests on: log entry 13. -/
def Obligations.TokenQueues : Prop :=
  ∀ (dt d q who tok : Nat) (x : TokQ) (y : Sys) (s : State), y = s.sys.elapse dt → x = (y.onyx d).queue q →
    (x.held = none → x.tokens.length < queueDepth d q →
      ∃ w, Does (.tokenPush dt d q who tok) s w ∧ (w.onyx d).queue q = { x with tokens := x.tokens ++ [tok] } ∧ w.live = y.live ∧
        w.evs = y.evs ∧ ∀ r, r ≠ q → (w.onyx d).queue r = (y.onyx d).queue r) ∧
    (x.held = none → queueDepth d q ≤ x.tokens.length →
      ∃ w, Does (.tokenPush dt d q who tok) s w ∧
        (w.onyx d).queue q = { x with held := some (who, tok, y.now, ((y.onyx d).core who).run) } ∧
        (who < 30 → ((w.onyx d).core who).stalled = true) ∧
        w.nat (Ob.DieQueueHolds d) = (y.nat (Ob.DieQueueHolds d) + 1) % wrapOf y.part.dies (Ob.DieQueueHolds d)) ∧
    (x.tokens = [] → ∃ w, Does (.tokenPop dt d q) s w ∧ (w.onyx d).queue q = { x with errBit := true } ∧ w.live = y.live ∧ w.evs = y.evs) ∧
    (∀ (h : Nat) (r : List Nat), x.tokens = h :: r → x.held = none →
      ∃ w, Does (.tokenPop dt d q) s w ∧ (w.onyx d).queue q = { x with tokens := r, errBit := false } ∧ w.live = y.live ∧ w.evs = y.evs) ∧
    (∀ (h p t at_ bank : Nat) (r : List Nat), x.tokens = h :: r → x.held = some (p, t, at_, bank) → r.length < queueDepth d q →
      30 ≤ p ∨ ((y.onyx d).core p).run = bank →
      ∃ w, Does (.tokenPop dt d q) s w ∧ (w.onyx d).queue q = { x with held := none, tokens := r ++ [t], errBit := false } ∧
        (p < 30 → ((w.onyx d).core p).stalled = false)) ∧
    ∀ p t at_ bank, x.held = some (p, t, at_, bank) → at_ + usU 10 < y.now → y.recent 0x0802 d = false →
      ∃ w, Does (.queueHoldLimit dt d q) s w ∧ w.live = y.live ∧ w.onyx d = y.onyx d ∧
        w.evs.raised = y.evs.raised ++ [{ code := 0x0802, die := d, arg := q, t := y.now }]

/-! ### Audio ports -/

/-- FRAME_CLOCK_EDGE ends the frame before it and begins the next, on pins whose frame sync and bit clock follow their settings. An input
port appends a word for each of its enabled slots to the block's buffer, opens a buffer when the block ends, and discards the frame and
counts it when all its buffers wait; an output port plays the next frame of its buffer on its slots, each word from the top behind the
data offset, and counts a frame whose buffer is a substitute (R222, R224, R228 to R230, R235 to R238). AUDIO_BUFFER_FETCH takes the next
block (R237).

Readings and choices of the model it rests on: log entries 63, 64 and 117. -/
def Obligations.FrameClockRuns : Prop :=
  ∀ (dt p : Nat) (slots : List Int) (a : Au) (y : Sys) (s : State), y = s.sys.elapse dt → a = y.au p → a.on = true → a.gap = false →
    y.pend = [] →
    (atOrAfter (y.auNow p) (tickTime y.auHz a.nextF) = true → y.stepWaits (.audio p) = false →
      (∀ (b : AuBuf) (row : List Nat), y.nat (Ob.AuDirection p) = 0 → y.nat (Ob.AuOutMode p) = 0 → a.cur = some b →
        row = (auSlots y.val p).map (fun j => cutWord (y.nat (Ob.AuSampleBits p)) (leftWord (y.nat (Ob.AuSlotWidth p))
          (slots.getD j 0 % 2 ^ y.nat (Ob.AuSlotWidth p)).toNat)) →
        (b.frame + b.count + 1 ≠ a.curEnd →
          ∃ w, Does (.frameClockEdge dt p slots) s w ∧
            w.au p = ({ a with nextF := a.nextF + 1, lastEdge := y.now, toSend := [], affected := false
                               cur := some { b with words := b.words ++ row, count := b.count + 1 } } : Au) ∧
            w.out = [.tdm p (y.flag (Ob.AuBclkInvert p)) (auSync y.val p) none] ∧ w.evs = y.evs ∧
            w.nat (Ob.AuFramesDone p) = (y.nat (Ob.AuFramesDone p) + 1) % wrapOf y.part.dies (Ob.AuFramesDone p) ∧
            ∀ k, k ≠ Ob.AuFramesDone p → w.val k = y.val k) ∧
        (b.frame + b.count + 1 = a.curEnd → y.auReaders p = [] → a.ring.length < y.nat (Ob.AuRingBuffers p) →
          ∃ w c, Does (.frameClockEdge dt p slots) s w ∧ (w.au p).cur = some c ∧
            c = { frame := a.nextF, mask := y.nat (Ob.AuSlotMask p), layoutChg := a.lastMask != some (y.nat (Ob.AuSlotMask p))
                  xrun := a.overrun, discont := a.discont, idx := a.bufIdx } ∧
            (w.au p).ring = a.ring ∧ (w.au p).nextF = a.nextF + 1 ∧ (w.au p).bufIdx = (a.bufIdx + 1) % max 1 (y.nat (Ob.AuRingBuffers p)) ∧
            (w.au p).curEnd = blockEnd (blockFrames y.val y.auHz p) a.nextF)) ∧
      (y.nat (Ob.AuDirection p) = 0 → a.cur = none → y.nat (Ob.AuRingBuffers p) ≤ a.ring.length →
        ∃ w, Does (.frameClockEdge dt p slots) s w ∧ (w.au p).ring = a.ring ∧ (w.au p).overrun = true ∧
          w.nat (Ob.AuOverrunFrames p) = (y.nat (Ob.AuOverrunFrames p) + 1) % wrapOf y.part.dies (Ob.AuOverrunFrames p) ∧
          (a.affected = false → w.evs.raised = y.evs.raised ++ [{ code := 0x0E02, die := p / 4, arg := p, t := y.now }])) ∧
      (∀ (b : AuBuf) (wd o : Nat), y.nat (Ob.AuDirection p) = 1 → a.nextF < a.curEnd → a.play = some b →
        wd = y.nat (Ob.AuSlotWidth p) → o = y.nat (Ob.AuDataOffset p) →
        (b.xrun = false →
          ∃ w l, Does (.frameClockEdge dt p slots) s w ∧ w.out = [.tdm p (y.flag (Ob.AuBclkInvert p)) (auSync y.val p) (some l)] ∧
            (∀ i j v m : Nat, (auSlots y.val p)[i]? = some j → j < y.nat (Ob.AuSlots p) → (b.frameWords a.pos)[i]? = some v → m < wd →
              o + j * wd + m < y.nat (Ob.AuSlots p) * wd → l[o + j * wd + m]? = some (some (bit v (31 - m)))) ∧
            (w.au p).play = some b ∧ (w.au p).pos = a.pos + 1 ∧ (w.au p).nextF = a.nextF + 1 ∧ w.evs = y.evs ∧
            ∀ k, k ≠ Ob.AuFramesDone p → w.val k = y.val k) ∧
        (b.xrun = true →
          ∃ w l, Does (.frameClockEdge dt p slots) s w ∧ w.out = [.tdm p (y.flag (Ob.AuBclkInvert p)) (auSync y.val p) (some l)] ∧
            (∀ j m : Nat, (auSlots y.val p).contains j = true → j < y.nat (Ob.AuSlots p) → m < wd →
              o + j * wd + m < y.nat (Ob.AuSlots p) * wd → l[o + j * wd + m]? =
                some (some (bit (if y.nat (Ob.AuSubst p) = 0 then 0 else Tab.find (fun _ => 0) a.last j) (31 - m)))) ∧
            w.nat (Ob.AuUnderrunFrames p) = (y.nat (Ob.AuUnderrunFrames p) + 1) % wrapOf y.part.dies (Ob.AuUnderrunFrames p) ∧
            (a.affected = false → w.evs.raised = y.evs.raised ++ [{ code := 0x0E01, die := p / 4, arg := p, t := y.now }])))) ∧
    (y.nat (Ob.AuDirection p) = 1 → y.nat (Ob.AuEnable p) = 1 → atOrAfter (y.auNow p) (tickTime y.auHz a.curEnd - usU 20) = true →
      (∀ b ∈ a.next, b.frame ≠ a.curEnd) →
      ∃ w, Does (.audioBufferFetch dt p) s w ∧ (∀ b ∈ a.next, b ∈ (w.au p).next) ∧
        (y.audSettle (y.nat (Ob.AuChannel p)) (y.nat (Ob.AuSourceFlow p))).auBlock y.val p a.curEnd
          (blockEnd (blockFrames y.val y.auHz p) a.curEnd) ∈ (w.au p).next)

/-! ### Ingest -/

/-- A video packet that one leg of one running channel takes is judged and merged: one of bad form, early or late is counted and dropped; one
of another time stamp than its frame's is counted and reported once in a frame; a repeated sequence number is counted; and a new one
puts its segments into their rows (R78 to R82, R88, R530). The leg's policer decides first: a red packet is counted and dropped (R292 to R295).

An audio packet on time supplies its samples at their ticks, and any other supplies none; an ANC packet of a new sequence number joins
the frame of its time stamp, is late once row 0 of that frame has settled, and waits while no frame has it, or is late once that frame is over; a repeat changes nothing
(R94, R95).

Readings and choices of the model it rests on: log entries 63, 65, 66, 99 and 100. -/
def Obligations.PacketsMerge : Prop :=
  (∀ (dt n g : Nat) (leg : Leg) (p : VideoPkt) (y : Sys) (s : State), y = s.sys.elapse dt → y.portUp p.hdr.port = true →
      n < 64 → y.activeChans = [n] → (y.chan n).cx = none → (∀ l < 16 * y.part.dies, y.lyFlow l = none) →
      (∀ c < 4 * y.part.dies, ∀ g ∈ (y.cx c).frames, ∀ x ∈ g.shown, x.locked ≠ 4) →
      legsHit (y.cfg n) (Ob.IngPortA n) (y.cfgN n (Ob.IngLegMode n) = 1) p.hdr = [(g, leg)] →
      (leg.pol = 0xFFFF →
        (p.segs.isEmpty || !(p.segs.all fun x => segOk (y.fig n) 0 (y.cfgN n (Ob.IngDepth n)) x)) = true →
        Does (.videoPacketRx dt p) s (y.bump (Ob.IngMalformedCount n) 1)) ∧
      (∀ cd : Cand, leg.pol = 0xFFFF → p.segs ≠ [] → (p.segs.all fun x => segOk (y.fig n) 0 (y.cfgN n (Ob.IngDepth n)) x) = true →
        (judge (y.chCands n p) = some (cd, 1) → Does (.videoPacketRx dt p) s (y.bump (Ob.IngEarlyCount n) 1)) ∧
        (judge (y.chCands n p) = some (cd, 2) → Does (.videoPacketRx dt p) s (y.bump (Ob.IngLateCount n) 1)) ∧
        ∀ fr : Frame, judge (y.chCands n p) = some (cd, 0) → (y.chan n).frames.find? (fun fr => fr.k == cd.k) = some fr →
          (fr.ts = some (p.rtpTs % 2 ^ 32) → ((y.chan n).usedNear cd.k).contains (seq32 p) = false → g = 0 →
            ∃ w gr, Does (.videoPacketRx dt p) s w ∧ (w.chan n).frames.find? (fun fr => fr.k == cd.k) = some gr ∧
              gr.used = (seq32 p, firstRow p.segs) :: fr.used ∧ gr.legA = fr.legA + 1 ∧
              (∀ x ∈ p.segs, x ∈ (gr.row (x.line / 64)).segs) ∧ (∀ r, ∀ x ∈ (fr.row r).segs, x ∈ (gr.row r).segs) ∧
              w.nat (Ob.IngPktA n) = (y.nat (Ob.IngPktA n) + 1) % wrapOf y.part.dies (Ob.IngPktA n) ∧
              ∀ k, k ≠ Ob.IngPktA n → w.val k = y.val k) ∧
          (fr.ts = some (p.rtpTs % 2 ^ 32) → ((y.chan n).usedNear cd.k).contains (seq32 p) = true → g = 1 →
            ∃ w gr, Does (.videoPacketRx dt p) s w ∧ (w.chan n).frames.find? (fun fr => fr.k == cd.k) = some gr ∧
              gr = { fr with legB := fr.legB + 1 } ∧
              w.nat (Ob.IngPktB n) = (y.nat (Ob.IngPktB n) + 1) % wrapOf y.part.dies (Ob.IngPktB n) ∧
              w.nat (Ob.IngDupCount n) = (y.nat (Ob.IngDupCount n) + 1) % wrapOf y.part.dies (Ob.IngDupCount n)) ∧
          (∀ ts, fr.ts = some ts → ts ≠ p.rtpTs % 2 ^ 32 → (y.chan n).received.find? (fun fr => fr.k == cd.k) = some fr →
            fr.raised.contains 0x0906 = false →
            ∃ w, Does (.videoPacketRx dt p) s w ∧
              w.nat (Ob.IngTsMismatchCount n) = (y.nat (Ob.IngTsMismatchCount n) + 1) % wrapOf y.part.dies (Ob.IngTsMismatchCount n) ∧
              (∀ k, k ≠ Ob.IngTsMismatchCount n → w.val k = y.val k) ∧
              w.evs.raised = y.evs.raised ++ [{ code := 0x0906, die := y.ingDie n, arg := n, t := y.now }])) ∧
      (leg.pol ≠ 0xFFFF → y.nat (Ob.PolMode leg.pol) = 1 → y.flag (Ob.PolColorAware leg.pol) = false →
        (y.polNow leg.pol).tp < (p.hdr.bytes * 65536 : Nat) →
        ∃ w, Does (.videoPacketRx dt p) s w ∧ w.chans = y.chans ∧
          w.nat (Ob.PolGreenPkts leg.pol + 2) =
            (y.nat (Ob.PolGreenPkts leg.pol + 2) + 1) % wrapOf y.part.dies (Ob.PolGreenPkts leg.pol + 2) ∧
          w.nat (Ob.PolGreenBytes leg.pol + 2) =
            (y.nat (Ob.PolGreenBytes leg.pol + 2) + p.hdr.bytes) % wrapOf y.part.dies (Ob.PolGreenBytes leg.pol + 2))) ∧
  ((∀ (dt n f g : Nat) (leg : Leg) (p : AudioPkt) (hz : Nat) (m due : Int) (y z : Sys) (s : State), y = s.sys.elapse dt →
      y.portUp p.hdr.port = true → y.activeChans = [n] → f < 4 → y.cfgN n (Ob.IngAudMode n f) ≠ 0 →
      (∀ j < 4, j ≠ f → y.cfgN n (Ob.IngAudMode n j) = 0) → z = y.audSettle n f →
      legsHit (y.cfg n) (Ob.IngAudPortA n f) (y.cfgN n (Ob.IngAudMode n f) = 2) p.hdr = [(g, leg)] → leg.pol = 0xFFFF →
      hz = y.audHz n f → m = mediaTick hz (y.frameNow n false) (p.rtpTs % 2 ^ 32) →
      due = tickTime hz (m + p.samples.length - 1) + nsU (y.cfgN n (Ob.IngAudOffset n f)) →
      (p.samples ≠ [] → due - (y.fig n).skew ≤ y.frameNow n false → y.frameNow n false ≤ due + usU 8 →
        ∃ w, Does (.audioPacketRx dt p) s w ∧ w.live = z.live ∧ w.evs = z.evs ∧
          ∀ (i : Nat) (x : List Int), p.samples[i]? = some x →
            (Tab.find (fun _ => []) (w.chan n).audioGot f).find? (fun e => e.1 == m + i) = some (m + i, x)) ∧
      (y.frameNow n false < due - (y.fig n).skew ∨ due + usU 8 < y.frameNow n false → Does (.audioPacketRx dt p) s z)) ∧
    ∀ (dt n g : Nat) (leg : Leg) (p : AncPkt) (a : AncData) (y : Sys) (s : State), y = s.sys.elapse dt →
      y.portUp p.hdr.port = true → y.activeChans = [n] → y.cfgN n (Ob.IngAncMode n) ≠ 0 →
      legsHit (y.cfg n) (Ob.IngAncPortA n) (y.cfgN n (Ob.IngAncMode n) = 2) p.hdr = [(g, leg)] → leg.pol = 0xFFFF →
      ((∃ t, (t, p.seq) ∈ (y.chan n).ancUsed ∧ y.now < t + 2 * (y.fig n).period_) → Does (.ancPacketRx dt p) s y) ∧
      ((y.chan n).ancUsed = [] → p.anc = [a] → y.ancKept n a = true →
        ((∀ fr ∈ (y.chan n).received, fr.ts ≠ some (p.rtpTs % 2 ^ 32)) →
          ((y.chan n).tsOver (p.rtpTs % 2 ^ 32) = false →
            ∃ w, Does (.ancPacketRx dt p) s w ∧ (y.now, p.rtpTs % 2 ^ 32, a) ∈ (w.chan n).ancWait ∧ w.live = y.live ∧ w.evs = y.evs) ∧
          ((y.chan n).tsOver (p.rtpTs % 2 ^ 32) = true →
            ∃ w, Does (.ancPacketRx dt p) s w ∧ (w.chan n).ancLate = (y.chan n).ancLate + 1 ∧ w.live = y.live)) ∧
        ∀ fr : Frame, (y.chan n).frames.find? (fun fr => fr.ts == some (p.rtpTs % 2 ^ 32)) = some fr →
          (fr.settledRows = 0 → ∃ w, Does (.ancPacketRx dt p) s w ∧ w.live = y.live ∧ w.evs = y.evs ∧
            ∃ gr ∈ (w.chan n).frames, gr.k = fr.k ∧ gr.anc = fr.anc ++ [a]) ∧
          (0 < fr.settledRows → ∃ w, Does (.ancPacketRx dt p) s w ∧ (w.chan n).ancLate = (y.chan n).ancLate + 1 ∧
            ∀ gr ∈ (w.chan n).frames, gr.k = fr.k → ∃ h ∈ (y.chan n).frames, gr.anc = h.anc)))

/-- SETTLE_END settles the next row of the oldest frame once its end has come: the CTUs that miss a pixel are concealed and counted, a gap of
the sequence numbers of the row is counted once, and the last row of a frame with no packet loses the source. For a layer's flow it
moves on by a row (R82, R86, R90, R91, R96). Before the end nothing happens.

Readings and choices of the model it rests on: log entries 66, 101 and 102. -/
def Obligations.RowsSettle : Prop :=
  (∀ (dt n r : Nat) (fr : Frame) (f : Fig) (y : Sys) (s : State), y = s.sys.elapse dt → f = y.fig n →
    (∀ j < 4, y.cfgN n (Ob.IngAudMode n j) = 0) → (y.chan n).cx = none →
    (y.chan n).frames.find? (fun fr => decide (fr.settledRows < f.rows)) = some fr → r = fr.settledRows →
    (∀ h ∈ (y.chan n).frames, h.k = fr.k → h = fr) →
    (atOrAfter (y.frameNow n fr.old) (fr.origin + f.slotEnd r + nsU 9500) = false → Does (.settleEnd dt (.ch n)) s y) ∧
    (atOrAfter (y.frameNow n fr.old) (fr.origin + f.slotEnd r + nsU 9500) = true →
      ((fr.used.filter fun u => u.2 == r) = [] → r + 1 ≠ f.rows →
        ∃ w gr, Does (.settleEnd dt (.ch n)) s w ∧ gr ∈ (w.chan n).frames ∧ gr.k = fr.k ∧ gr.settledRows = r + 1 ∧
          (gr.row r).settled = true ∧ (gr.row r).conceal = fr.missing f r ∧
          (fr.missing f r = [] → w.live = y.live ∧ w.evs = y.evs) ∧
          (fr.missing f r ≠ [] → w.nat (Ob.IngSubstCtuCount n) =
            (y.nat (Ob.IngSubstCtuCount n) + (fr.missing f r).length) % wrapOf y.part.dies (Ob.IngSubstCtuCount n))) ∧
      (∀ q d, (fr.used.filter fun u => u.2 == r) = [(q, r)] → d = backTo ((y.chan n).usedLast.toList ++ (y.chan n).usedNear fr.k) q → r + 1 ≠ f.rows → 1 < d →
        d < 2 ^ 31 → gapCounted (y.chan n).gaps ((q + 2 ^ 32 - d) % 2 ^ 32) q = false →
        ∃ w, Does (.settleEnd dt (.ch n)) s w ∧
          w.nat (Ob.IngSeqGapCount n) = (y.nat (Ob.IngSeqGapCount n) + (d - 1)) % wrapOf y.part.dies (Ob.IngSeqGapCount n)) ∧
      (fr.used = [] → r + 1 = f.rows → fr.legA = 0 → fr.legB = 0 → y.cfgN n (Ob.IngLegMode n) = 0 → (y.chan n).noSource = false →
        ∃ w, Does (.settleEnd dt (.ch n)) s w ∧ (w.chan n).noSource = true ∧
          w.nat (Ob.IngSourceLostFrames n) = (y.nat (Ob.IngSourceLostFrames n) + 1) % wrapOf y.part.dies (Ob.IngSourceLostFrames n) ∧
          { code := 0x0902, die := y.ingDie n, arg := n, t := y.now } ∈ w.evs.raised))) ∧
  ∀ (dt l c : Nat) (fr : LyFrame) (f : Fig) (y : Sys) (s : State), y = s.sys.elapse dt → y.lyFlow l = some c → f = lyFig y.val l c →
    (y.ly l).frames.find? (fun fr => decide (fr.settledRows < f.rows)) = some fr →
    atOrAfter (y.cxNow c) (f.boundary fr.k + f.off + f.slotEnd fr.settledRows + nsU 9500) = true → y.nat (Ob.LyIngLegMode l) = 0 →
    ∃ w, Does (.settleEnd dt (.layer l)) s w ∧ w.live = y.live ∧ w.evs = y.evs ∧
      (w.ly l).frames = (y.ly l).frames.map fun h => if h.k = fr.k then { h with settledRows := h.settledRows + 1 } else h

/-! ### Channels at work -/

/-- A boundary that has not come, and one at or after a stop, begins no frame. One that comes to a channel in service begins the next:
its instants, number and byte budget follow the boundary, its refresh band the place in the cycle, a refresh that was asked for goes back
to band 0 and is counted, and a starting channel is running from then on. A bitrate that waits applies there where it may (R46, R117,
R118, R120, R121, R136, R163, R471).

Readings and choices of the model it rests on: log entry 54. -/
def Obligations.FramesBegin : Prop :=
  ∀ (dt n : Nat) (k : Int) (c : Chan) (f : Fig) (y : Sys) (s : State), y = (s.sys.elapse dt).finishStops → c = y.chan n → f = y.fig n →
    k = c.nextK →
    (atOrAfter (y.frameNow n false) (f.boundary k) = false ∨ c.run = 0 ∨ (∃ e, c.stopK = some e ∧ e ≤ k) →
      Does (.frameBoundary dt n) s y) ∧
    (atOrAfter (y.frameNow n false) (f.boundary k) = true → c.run = 1 ∨ c.run = 2 → c.stopK = none → y.stepWaits (.ch n) = false →
      c.handover = [] → c.move = none → c.oldDies = [] → c.frozen = false → y.unserved n = false → y.needsRepair n = false →
      f.mode = 1 → c.frameNo ≠ 0 → c.poc + 1 < 2 ^ 30 →
      (y.pend = [] → c.restarts = [] →
        ∃ w fr, Does (.frameBoundary dt n) s w ∧ (w.chan n).frames.getLast? = some fr ∧ fr.k = k ∧ fr.boundary = f.boundary k ∧
          fr.origin = f.boundary k + f.off ∧ fr.n = c.frameNo ∧ fr.poc = c.poc + 1 ∧ fr.band = f.bandAt c.cyclePos ∧
          fr.budget = budgetOf c.bitrate f.rn f.rd (k - c.refK).toNat ∧ (w.chan n).nextK = k + 1 ∧
          (w.chan n).frameNo = c.frameNo + 1 ∧ (w.chan n).cyclePos = (c.cyclePos + 1) % max 1 f.cycle ∧ (w.chan n).run = 2 ∧
          w.live = y.live ∧ w.evs.raised = (if c.run = 1 then
            y.evs.raised ++ [{ code := 0x1105, die := c.die, arg := n, t := y.now }] else y.evs.raised)) ∧
      (∀ t, y.pend = [] → t ∈ c.restarts → atOrAfter (f.boundary k) t = true →
        ∃ w fr, Does (.frameBoundary dt n) s w ∧ (w.chan n).frames.getLast? = some fr ∧ fr.band = f.bandAt 0 ∧
          (w.chan n).restarts = (c.restarts.filter fun t => !atOrAfter (f.boundary k) t) ∧ { code := 0x0A04, die := c.die, arg := n, t := y.now } ∈ w.evs.raised ∧
          w.nat (Ob.EncRefreshRestarts n) = (y.nat (Ob.EncRefreshRestarts n) + 1) % wrapOf y.part.dies (Ob.EncRefreshRestarts n)) ∧
      ∀ (q : Pend) (b : Nat) (x : Int), y.pend = [q] → q.key = Ob.ChCommit n → q.set = [(Ob.RcBitrate n, .int b)] →
        atOrAfter (f.boundary k) q.at_ = true → c.nextBitrate = some (b, x) → f.hrd = 0 → c.restarts = [] →
        ∃ w fr, Does (.frameBoundary dt n) s w ∧ (w.chan n).frames.getLast? = some fr ∧ (w.chan n).bitrate = b ∧
          fr.budget = budgetOf b f.rn f.rd 0 ∧ w.pend = [] ∧ w.nat (Ob.RcBitrate n) = b ∧ w.nat (Ob.ChCommitState n) = 0 ∧
          { code := 0x0B03, die := c.die, arg := n, t := y.now } ∈ w.evs.raised ∧
          w.nat (Ob.RcBitrateChanges n) = (y.nat (Ob.RcBitrateChanges n) + 1) % wrapOf y.part.dies (Ob.RcBitrateChanges n))

/-- The commands of a coding pipeline act on the row it codes. ROW_START starts the next row in order, with 4,730 cycles for its first CTU,
fewer where the row has fewer lines, and 600 more after another stream, and declares the frame's prefix with its first row; CTU_CODED keeps a
CTU that fits the allowance and replaces one that does not, and records a CTU of an intra picture or of the band as intra; GUARD_CHECK
floor-codes the rest of a row that would miss a deadline; ROW_CODED ends a row whose data are the bytes of its CTUs, with the header the
cores write, its row report and its sample check, and with one column fills it up to its least count (R50 to R54, R61, R117, R129, R131,
R138, R142, R153, R158, R528). With nothing to code nothing happens.

What no pipeline will code the cores supply when its deadline comes: ROW_DEADLINE takes the data of one floor-coded slice for each column
that is owed, writes its header, and counts the row (R44, R62, R122, R128). SIGNATURE_COMPLETE makes the signature under way ready (R259).

Readings and choices of the model it rests on: log entries 46, 48, 49, 51 and 97. -/
def Obligations.RowsAreCoded : Prop :=
  (∀ (dt d phys : Nat) (y : Sys) (s : State), y = s.sys.elapse dt →
      (∀ row, (∀ a, y.nextColumn d phys = some a → a.row ≠ row) → Does (.rowStart dt d phys row) s y) ∧
      (∀ (a : At) (fr : Frame) (was : Nat), y.nextColumn d phys = some a → (y.chan a.ch).frame a.k = some fr →
        was = Tab.find (fun _ => 0) (y.die d).lastCh phys →
        ∃ w gr, Does (.rowStart dt d phys a.row) s w ∧ (w.chan a.ch).frame a.k = some gr ∧ ((gr.row a.row).col a.col).started = true ∧
          ((gr.row a.row).col a.col).need = ceilDiv (4730 * min 64 ((y.fig a.ch).ht - 64 * a.row)) 64 + (if was = 0 ∨ was = a.ch + 1 then 0 else 600) ∧
          ((gr.row a.row).col a.col).at_ = y.now ∧
          (y.begun a.ch fr = false → fr.prefixDone = false → gr.prefixLen = fr.declared (y.fig a.ch)) ∧
          (y.begun a.ch fr = false → w.int (Ob.RefLastPoc a.ch) = fr.poc) ∧ Tab.find (fun _ => 0) (w.die d).lastCh phys = a.ch + 1) ∧
      (y.current d phys = none → (∀ bytes intra blocks, Does (.ctuCoded dt d phys bytes intra blocks) s y) ∧ Does (.guardCheck dt d phys) s y ∧
        ∀ l r, Does (.rowCoded dt d phys l r) s y) ∧
      ∀ (a : At) (fr : Frame) (x : Col) (f : Fig), y.current d phys = some a → (y.chan a.ch).frame a.k = some fr →
        x = (fr.row a.row).col a.col → f = y.fig a.ch →
        (∀ (bytes : Nat) (intra : Bool) (blocks : List Block), x.ctu < f.ctus → x.used + bytes + fr.phiRest f a.row a.col (x.ctu + 1) ≤ x.allow →
          ∃ w gr z, Does (.ctuCoded dt d phys bytes intra blocks) s w ∧ (w.chan a.ch).frame a.k = some gr ∧ z = (gr.row a.row).col a.col ∧
            z.fallbacks = x.fallbacks ∧ z.used ≤ x.allow ∧
            (z.ctu = x.ctu + 1 ∧ z.used = x.used + bytes ∨ z.deadline = true ∧ z.ctu = f.ctus ∧ x.used + bytes ≤ z.used) ∧
            (fr.floorIntra f a.row (a.col * f.ctus + x.ctu) = true → (fr.row a.row).skip.contains (a.col * f.ctus + x.ctu) = false →
              ∀ b ∈ (y.chan a.ch).bufs, b.frame = fr.n → b.recon = true → ∃ h ∈ (w.chan a.ch).bufs, h.frame = fr.n ∧
                ∃ e, Tab.find (fun _ => none) h.recs (a.row * f.rowCtus + (a.col * f.ctus + x.ctu)) = some e ∧ e.code.isIntra = true ∧
                  e.floor = false)) ∧
        (∀ (bytes : Nat) (intra : Bool) (blocks : List Block), x.ctu < f.ctus → x.allow < x.used + bytes + fr.phiRest f a.row a.col (x.ctu + 1) →
          ∃ w gr z, Does (.ctuCoded dt d phys bytes intra blocks) s w ∧ (w.chan a.ch).frame a.k = some gr ∧ z = (gr.row a.row).col a.col ∧
            (z.ctu = x.ctu + 1 ∧ z.used ≤ x.used + fr.phi f a.row (a.col * f.ctus + x.ctu) ∨ z.deadline = true ∧ z.ctu = f.ctus) ∧
            z.used ≤ x.used + fr.phiRest f a.row a.col x.ctu ∧ z.fallbacks = x.fallbacks + 1 ∧
            w.nat (Ob.RcFallbackCtus a.ch) = (y.nat (Ob.RcFallbackCtus a.ch) + 1) % wrapOf y.part.dies (Ob.RcFallbackCtus a.ch)) ∧
        (∀ left : Nat, x.ctu < f.ctus → x.deadline = false → y.checksOn d phys a = true →
          left = x.need - (x.cycles + cyclesIn (y.pipeHz d phys) (y.now - x.at_)) →
          (y.checkFails d phys a (left + 4 * (f.ctus - x.ctu - 1) + 60) = false → Does (.guardCheck dt d phys) s y) ∧
          (y.checkFails d phys a (left + 4 * (f.ctus - x.ctu - 1) + 60) = true →
            ∃ w gr z, Does (.guardCheck dt d phys) s w ∧ (w.chan a.ch).frame a.k = some gr ∧ z = (gr.row a.row).col a.col ∧
              z = { x with deadline := true, ctu := f.ctus, floors := x.floors + (f.ctus - x.ctu), used := z.used } ∧
              z.used ≤ x.used + fr.phiRest f a.row a.col x.ctu ∧
              w.nat (Ob.EncFloorCtusDeadline a.ch) =
                (y.nat (Ob.EncFloorCtusDeadline a.ch) + (f.ctus - x.ctu)) % wrapOf y.part.dies (Ob.EncFloorCtusDeadline a.ch))) ∧
        (f.ctus ≤ x.ctu ∨ x.deadline = true ∨ y.checksOn d phys a = false → Does (.guardCheck dt d phys) s y) ∧
        ∀ (l head : List Byte) (recon : Planes), head = fr.sliceHead f a.row a.col x.rowQp →
          (x.ctu < f.ctus ∨ x.used ≠ f.sliceHdr + l.length → Does (.rowCoded dt d phys l recon) s y) ∧
          (f.ctus ≤ x.ctu → x.used = f.sliceHdr + l.length →
            ∃ w gr, Does (.rowCoded dt d phys l recon) s w ∧ (w.chan a.ch).frame a.k = some gr ∧
              ((gr.row a.row).col a.col) = { x with done := true, slice := head ++ l, report := some (Report.mk l.length x.rowQp x.floors
                (sliceChecksum recon) (y.columnAge a)) } ∧
              (y.sampled d fr.n a.row a.col f.tiles = true → ∃ k ∈ (w.chan a.ch).checks, k.frame = fr.n ∧ k.row = a.row ∧ k.col = a.col ∧
                k.sum = sliceChecksum recon ∧ k.die = d ∧ k.pipe = phys) ∧
              (f.tiles = 1 → a.col = 0 → a.row + 1 ≠ f.rows → ∀ c, c = gr.before f a.row + (head ++ l).length →
                (gr.row a.row).total = c + (if c < gr.lo f a.row then max 3 (gr.lo f a.row - c) else 0)))) ∧
  ((∀ (dt n : Nat) (l : List (List Byte)) (y : Sys) (s : State), y = s.sys.elapse dt →
      (∀ row, (∀ e, y.coreRow n = some e → e.2 ≠ row) → Does (.rowDeadline dt n row l) s y) ∧
      (∀ (fr : Frame) (r : Nat) (f : Fig), y.coreRow n = some (fr, r) → f = y.fig n →
        ¬(l.length = (fr.owed f r).length ∧ ((fr.owed f r).zip l).all (fun e => decide (e.2.length ≤ fr.phiRest f r e.1 0)) = true) →
        Does (.rowDeadline dt n r l) s y) ∧
      (∀ (fr : Frame) (r : Nat) (f : Fig), y.coreRow n = some (fr, r) → f = y.fig n → l.length = (fr.owed f r).length →
        (∀ h ∈ (y.chan n).frames, h.k = fr.k → h = fr) →
        ((fr.owed f r).zip l).all (fun e => decide (e.2.length ≤ fr.phiRest f r e.1 0)) = true →
        ∃ w gr, Does (.rowDeadline dt n r l) s w ∧ (w.chan n).frame fr.k = some gr ∧ (gr.row r).supplied = true ∧
          (∀ e ∈ (fr.owed f r).zip l, ((gr.row r).col e.1).done = true ∧ ((gr.row r).col e.1).floors = f.ctus ∧
            ((gr.row r).col e.1).slice = fr.sliceHead f r e.1 (y.coreQp n ((fr.row r).col e.1)) ++ e.2) ∧
          (fr.frozen = false → w.nat (Ob.EncFloorRowsCore n) =
            (y.nat (Ob.EncFloorRowsCore n) + 1) % wrapOf y.part.dies (Ob.EncFloorRowsCore n)) ∧
          (fr.frozen = true → w.nat (Ob.EncFloorRowsCore n) = y.nat (Ob.EncFloorRowsCore n)))) ∧
    ∀ (dt n : Nat) (s : State), ∃ w, Does (.signatureComplete dt n) s w ∧
      (w.chan n).sig = (s.sys.chan n).sig.map (fun g => { g with ready := true }) ∧ w.live = s.sys.live ∧ w.evs = s.sys.evs)

/-! ### Pipelines, checks and repairs -/

/-- A pipeline that fails gives its position to the free pipeline, and the cores supply the columns it left undone; ROTATION moves the
position served longest to the free pipeline at the first boundary of its stream at least 250 µs later, and at once with no stream;
SELF_TEST_COMPLETE makes a pipeline that passed the free one, or gives it to a position that has none, and maps out one that failed
(R62, R99, R128, R502 to R504).

Readings and choices of the model it rests on: log entries 53, 54 and 55. -/
def Obligations.PipelinesServe : Prop :=
  (∀ (dt d p q inc : Nat) (x : Die) (y : Sys) (s : State), y = s.sys.elapse dt → x = y.die d →
    (x.pipeSt.getD p 3 = 3 → Does (.pipelineFailure dt d p) s y) ∧
    (x.pipeSt.getD p 3 ≠ 3 → x.leaving = none → (List.range 4).find? (fun q => x.map.getD q 15 == p) = some q →
      x.freePipe = some inc →
      ∃ w, Does (.pipelineFailure dt d p) s w ∧ { code := 0x0A02, die := d, arg := p, t := y.now } ∈ w.evs.raised ∧
        (w.die d).passed.contains p = false ∧
        (y.chansAt d q = [] → (∀ n ∈ y.activeChans, ∀ h ∈ (y.chan n).handover, ¬(h.1 = d ∧ h.2.1 = q)) →
          (w.die d).map = x.map.set q inc ∧ (w.die d).leaving = none) ∧
        (∀ n, y.chansAt d q = [n] → (w.die d).leaving = some (q, inc, p) ∧
          (w.chan n).handover = (y.chan n).handover ++ [(d, q, (y.fig n).boundary
            (max (y.chan n).nextK (firstFrom (y.fig n).rn (y.fig n).rd (y.frameNow n false))))]) ∧
        ∀ (n col r : Nat) (fr : Frame), y.activeChans = [n] → fr ∈ (y.chan n).frames → r < (y.fig n).rows →
          ((y.chan n).pipesAt fr.k)[col]? = some (d, q) → y.pipeOf n fr.k d q = p → ((fr.row r).col col).done = false →
          ∃ gr ∈ (w.chan n).frames, gr.k = fr.k ∧ ((gr.row r).col col).failed = true)) ∧
  (∀ (dt d inc pos : Nat) (x : Die) (y : Sys) (s : State), y = s.sys.elapse dt → x = y.die d →
    (y.nat Ob.RotPeriod = 0 → Does (.rotation dt) s y) ∧
    (y.nat Ob.RotPeriod ≠ 0 → y.running = true → y.dieList.filter (fun d => !(y.die d).mappedOut) = [d] → x.leaving = none →
      x.freePipe = some inc → x.oldest = some pos → y.clocksGood d = true →
      ∃ w, Does (.rotation dt) s w ∧ w.nat (Ob.RotCount d) = (y.nat (Ob.RotCount d) + 1) % wrapOf y.part.dies (Ob.RotCount d) ∧
        (y.chansAt d pos = [] → (∀ n ∈ y.activeChans, ∀ h ∈ (y.chan n).handover, ¬(h.1 = d ∧ h.2.1 = pos)) →
          (∀ n ∈ y.activeChans, ∀ fr ∈ (y.chan n).frames, (d, pos) ∉ (y.chan n).pipesAt fr.k) → (w.die d).map = x.map.set pos inc ∧ (w.die d).leaving = none) ∧
        ∀ n, y.chansAt d pos = [n] → (w.die d).leaving = some (pos, inc, x.map.getD pos 15) ∧
          (w.die d).map = x.map ∧ (w.chan n).handover = (y.chan n).handover ++ [(d, pos, (y.fig n).boundary
            (max (y.chan n).nextK (firstFrom (y.fig n).rn (y.fig n).rd (y.frameNow n false + usU 250))))])) ∧
  ∀ (dt d p : Nat) (x : Die) (y : Sys) (s : State), y = s.sys.elapse dt → x = y.die d →
    (x.pipeSt.getD p 3 ≠ 1 ∨ y.pllGood d 1 = false → ∀ ok, Does (.selfTestComplete dt d p ok) s y) ∧
    (x.pipeSt.getD p 3 = 1 → y.pllGood d 1 = true →
      (∃ w, Does (.selfTestComplete dt d p true) s w ∧ (w.die d).passed.contains p = true ∧
        (w.die d).tested = x.tested.set p y.now ∧ (w.die d).pipeSt = x.pipeSt.set p (if x.mism.contains p then 2 else 0) ∧
        w.live = y.live ∧ ((∀ q < 4, x.map.getD q 15 ≠ 15) → (w.die d).map = x.map ∧ w.evs = y.evs) ∧
        ∀ q, (List.range 4).find? (fun q => x.map.getD q 15 == 15) = some q → (w.die d).map = x.map.set q p ∧
          w.evs.raised = y.evs.raised ++ [{ code := 0x0A01, die := d, arg := q, t := y.now }]) ∧
      ∃ w, Does (.selfTestComplete dt d p false) s w ∧ (w.die d).pipeSt = x.pipeSt.set p 3 ∧
        w.upd.rep.pipes = y.upd.rep.pipes ++ [(d, p)] ∧ { code := 0x1107, die := d, arg := p, t := y.now } ∈ w.evs.raised ∧
        w.nat (Ob.DieSelfTestFails d) = (y.nat (Ob.DieSelfTestFails d) + 1) % wrapOf y.part.dies (Ob.DieSelfTestFails d))

/-- A sampled slice is checked once: DP0's checksums are of its decodes' samples, an encoder fault and a difference of DP0 are reported, and
checks still open at the release are abandoned and counted. A strip of a pair of dies that arrives is noted with its row, and a row of a
repair copy with its buffer, on the old die and after the move (R59, R108, R127, R129, R131, R132, R174, R175).

Readings and choices of the model it rests on: log entry 56. -/
def Obligations.ChecksAndCopies : Prop :=
  (∀ (dt n k row col : Nat) (decodes : Decodes) (c : Chan) (y : Sys) (s : State) (mine : Check → Bool), y = s.sys.elapse dt →
    c = y.chan n → mine = (fun g => g.frame == k && g.row == row && g.col == col) →
    (c.checks.find? mine = none → Does (.confidenceCheckComplete dt n k row col decodes) s y) ∧
    (∀ g, c.checks.find? mine = some g → ∃ w, Does (.confidenceCheckComplete dt n k row col decodes) s w ∧
      (w.chan n).checks = (c.checks.filter fun g => !mine g) ∧
      w.nat (Ob.EncConfRowsChecked n) = (y.nat (Ob.EncConfRowsChecked n) + 1) % wrapOf y.part.dies (Ob.EncConfRowsChecked n) ∧
      (sliceChecksum decodes.first = g.sum ∨ sliceChecksum decodes.second = g.sum → w.evs = y.evs) ∧
      (sliceChecksum decodes.first ≠ g.sum → sliceChecksum decodes.second ≠ g.sum → sliceChecksum decodes.second ≠ sliceChecksum decodes.first →
        w.evs.raised = y.evs.raised ++ [{ code := 0x0A06, die := g.die, arg := n, t := y.now }]) ∧
      (sliceChecksum decodes.first ≠ g.sum → sliceChecksum decodes.second = sliceChecksum decodes.first →
        { code := 0x0A05, die := g.die, arg := n, t := y.now } ∈ w.evs.raised ∧
        w.nat (Ob.EncConfMismatch n) = (y.nat (Ob.EncConfMismatch n) + 1) % wrapOf y.part.dies (Ob.EncConfMismatch n) ∧
        (c.run ≠ 0 → (w.chan n).restarts = c.restarts ++ [y.frameNow n false + usU 250])))) ∧
  (∀ (dt n k : Nat) (fr : Frame) (c : Chan) (f : Fig) (y : Sys) (s : State), y = s.sys.elapse dt → c = y.chan n → f = y.fig n →
    c.frames.find? (fun fr => fr.n == k) = some fr →
    (atOrAfter (y.frameNow n fr.old) (fr.origin + f.deadline (f.rows - 1) + f.period_) = false →
      Does (.confidenceHoldRelease dt n k) s y) ∧
    (atOrAfter (y.frameNow n fr.old) (fr.origin + f.deadline (f.rows - 1) + f.period_) = true →
      ∃ w, Does (.confidenceHoldRelease dt n k) s w ∧ (w.chan n).checks = (c.checks.filter fun g => g.frame != k) ∧
        (∀ b ∈ (w.chan n).bufs, confHold k ∉ b.holds) ∧
        ∀ o, o = (c.checks.filter fun g => g.frame == k).length → o ≠ 0 →
          w.nat (Ob.RefConfAbandoned n) = (y.nat (Ob.RefConfAbandoned n) + o) % wrapOf y.part.dies (Ob.RefConfAbandoned n) ∧
          w.evs.raised = y.evs.raised ++ [{ code := 0x0C06, die := c.die, arg := n, t := y.now }])) ∧
  (∀ (dt n half row : Nat) (fr : Frame) (y : Sys) (s : State), y = s.sys.elapse dt →
    ((y.fig n).pair = false → Does (.stripMirrorArrival dt n half row) s y) ∧
    ((y.fig n).pair = true → (∀ g ∈ (y.chan n).frames, (g.row row).stripOk.contains half = true ∨ g.rowFinal (y.fig n) half row = false) →
      Does (.stripMirrorArrival dt n half row) s y) ∧
    ((y.fig n).pair = true → (y.chan n).frames.find? (fun fr => !(fr.row row).stripOk.contains half && fr.rowFinal (y.fig n) half row) = some fr →
      ∃ w, Does (.stripMirrorArrival dt n half row) s w ∧ w.live = y.live ∧ w.evs = y.evs ∧
        (∀ b ∈ (w.chan n).bufs, stripHold half row ∉ b.holds) ∧
        ∃ gr ∈ (w.chan n).frames, gr.k = fr.k ∧ (gr.row row).stripOk = (fr.row row).stripOk ++ [half] ∧
          (gr.row row).stripMv = (fr.row row).stripMv ++ (if (y.fig n).tool 1 then [(half, y.stripMotion n fr half row)] else []))) ∧
  ∀ (dt n i row : Nat) (b : Buf) (y : Sys) (s : State), y = s.sys.elapse dt →
    (if (y.chan n).oldBufs = [] then (y.chan n).bufs else (y.chan n).oldBufs)[i]? = some b →
    (b.holds.contains 1 = false ∨ (y.fig n).rows ≤ row ∨ b.copied.contains row = true → Does (.repairCopyRow dt n i row) s y) ∧
    (b.holds.contains 1 = true → row < (y.fig n).rows → b.copied.contains row = false → b.copied.length + 1 < (y.fig n).rows →
      (∀ fr ∈ (y.chan n).frames, fr.n = b.frame → fr.rowFinal (y.fig n) 0 row = true ∧ fr.rowFinal (y.fig n) 1 row = true) →
      ∃ w, Does (.repairCopyRow dt n i row) s w ∧ w.live = y.live ∧ w.evs = y.evs ∧
        ((y.chan n).oldBufs ≠ [] → (w.chan n).oldBufs[i]? = some { b with copied := b.copied ++ [row] }) ∧
        ((y.chan n).oldBufs = [] → (y.chan n).oldDies = [] → (w.chan n).bufs[i]? = some { b with copied := b.copied ++ [row] }))

/-! ### Layers and contexts -/

/-- LAYER_PACKET_RX takes each packet of the stream a layer decodes once: the last of an access unit queues it for DP0, which waits for an
entry point it supports and then gives it a buffer of its pool, and an access unit cut short is damaged. DECODE_PICTURE_COMPLETE marks a
sound picture for reference and makes it available to Opal when it is output, and discards a damaged one, which is then missing;
DECODE_OVERRUN discards one that takes two frame periods; LAYER_FRAME_COMPLETE completes the frame of a flow layer whose rows have all
settled (R172, R173, R178, R179, R181, R183, R185, R195).

Readings and choices of the model it rests on: log entries 59, 66, 105, 106 and 107. -/
def Obligations.LayersFeed : Prop :=
  (∀ (dt l c g e : Nat) (leg : Leg) (p : LayerPkt) (x : Ly) (y : Sys) (s : State), y = s.sys.elapse dt → x = y.ly l →
    l < 16 * y.part.dies → y.lyDec l = some c → (∀ j, j ≠ l → y.lyDec j = none) → y.portUp p.hdr.port = true →
    legsHit y.val (Ob.DecPortA l) (y.nat (Ob.DecLegMode l) = 1) p.hdr = [(g, leg)] → leg.pol = 0xFFFF → e = extendSeq x.ext p.seq →
    (y.layerTakes l p = false → Does (.layerPacketRx dt p) s y) ∧
    (y.layerTakes l p = true → y.nat (Ob.DecLegMode l) = 0 →
      (x.seen.contains e = true → ∃ w, Does (.layerPacketRx dt p) s w ∧ (w.ly l).queue = x.queue ∧ (w.ly l).pool = x.pool ∧
        w.live = y.live ∧ w.evs = y.evs) ∧
      (x.seen.contains e = false → (p.begins && x.open_) = false →
        (p.complete = none → ∃ w, Does (.layerPacketRx dt p) s w ∧ (w.ly l).open_ = true ∧ (w.ly l).seen.contains e = true ∧
          (w.ly l).queue = x.queue ∧ (w.ly l).pool = x.pool ∧ w.live = y.live ∧ w.evs = y.evs) ∧
        (∀ pic, p.complete = some pic → x.queue ≠ [] → ∃ w u, Does (.layerPacketRx dt p) s w ∧ (w.ly l).queue = x.queue ++ [u] ∧
          u.pic = pic ∧ u.at_ = y.now ∧ (pic.damaged = true → u.damaged = true) ∧ w.live = y.live ∧ w.evs = y.evs) ∧
        (∀ pic, p.complete = some pic → x.queue = [] → y.nat (Ob.DecState l) = 1 → isEntry pic = true → y.decSupported l pic = true →
          (∀ b ∈ x.pool, b.out = false) → (∃ b ∈ x.pool, b.free = true) →
          ∃ w u, Does (.layerPacketRx dt p) s w ∧ (w.ly l).queue = [u] ∧ u.pic = pic ∧ w.nat (Ob.DecState l) = 3 ∧
            (w.ly l).recovery.isSome = true ∧ ∃ b ∈ (w.ly l).pool, b.recon = true ∧ b.poc = pic.poc) ∧
        (∀ pic, p.complete = some pic → x.queue = [] → y.nat (Ob.DecState l) = 1 → isEntry pic = true → y.decSupported l pic = false →
          ∃ w, Does (.layerPacketRx dt p) s w ∧ (w.ly l).queue = [] ∧ w.nat (Ob.DecState l) = 1 ∧ w.nat (Ob.DecStopCause l) = 2 ∧
            (∀ b ∈ (w.ly l).pool, b.mark = 0 ∧ b.avail = false) ∧
            w.nat (Ob.DecStops l) = (y.nat (Ob.DecStops l) + 1) % wrapOf y.part.dies (Ob.DecStops l) ∧
            w.evs.raised = y.evs.raised ++ [{ code := 0x0C05, die := l / 16, arg := l, t := y.now }]) ∧
        ∀ pic, p.complete = some pic → x.queue = [] → y.nat (Ob.DecState l) = 1 → isEntry pic = false →
          ∃ w, Does (.layerPacketRx dt p) s w ∧ (w.ly l).queue = [] ∧ w.live = y.live ∧ w.evs = y.evs) ∧
      (x.seen.contains e = false → p.begins = true → x.open_ = true → p.complete = none →
        ∃ w, Does (.layerPacketRx dt p) s w ∧ w.nat (Ob.DecPicsDamaged l) = (y.nat (Ob.DecPicsDamaged l) + 1) % wrapOf y.part.dies (Ob.DecPicsDamaged l) ∧
          w.evs.raised = y.evs.raised ++ [{ code := 0x0C03, die := l / 16, arg := l, t := y.now }]))) ∧
  (∀ (dt l c : Nat) (u : DecUnit) (x : Ly) (y : Sys) (s : State), y = s.sys.elapse dt → x = y.ly l → y.lyDec l = some c → x.queue = [u] →
    (y.decTurn l u = false → ∀ ok, Does (.decodePictureComplete dt l ok) s y) ∧
    (∀ ok, y.decTurn l u = true → ok = false ∨ u.damaged = true ∨ (∀ b ∈ x.pool, b.recon = false) →
      ∃ w, Does (.decodePictureComplete dt l ok) s w ∧ (w.ly l).queue = [] ∧ (w.ly l).frames = x.frames ∧
        (∀ b ∈ (w.ly l).pool, b.recon = false) ∧ u.pic.poc ∈ (w.ly l).missing ∧
        w.nat (Ob.DecPicsDamaged l) = (y.nat (Ob.DecPicsDamaged l) + 1) % wrapOf y.part.dies (Ob.DecPicsDamaged l) ∧
        w.evs.raised = y.evs.raised ++ [{ code := 0x0C03, die := l / 16, arg := l, t := y.now }]) ∧
    (∀ b : DecBuf, y.decTurn l u = true → u.damaged = false → (x.pool.filter fun b => b.recon) = [b] → b.poc = u.pic.poc →
      (∀ b ∈ x.pool, b.out = false) →
      ∃ w, Does (.decodePictureComplete dt l true) s w ∧ (w.ly l).queue = [] ∧ (w.ly l).hasRef u.pic.poc = true ∧
        w.nat (Ob.DecPicsDecoded l) = (y.nat (Ob.DecPicsDecoded l) + 1) % wrapOf y.part.dies (Ob.DecPicsDecoded l) ∧
        ((∀ r, x.recovery = some r → r ≤ u.pic.poc) → u.pic.output = true → u.pic.kind ≠ .rasl → u.pic.reorder = 0 →
          (∃ fr ∈ (w.ly l).complete, fr.decoded = true ∧ fr.age = some u.age ∧ fr.wd = u.pic.width ∧ fr.ht = u.pic.height ∧
            fr.done = some (y.cxNow c)) ∧
          (y.nat (Ob.DecState l) = 3 → w.nat (Ob.DecState l) = 2) ∧
          (x.resync = true → { code := 0x0C04, die := l / 16, arg := l, t := y.now } ∈ w.evs.raised)) ∧
        ((∃ r, x.recovery = some r ∧ u.pic.poc < r) ∨ u.pic.output = false →
          (w.ly l).frames = x.frames ∧ w.nat (Ob.DecState l) = y.nat (Ob.DecState l) ∧ w.evs = y.evs ∧ ∀ b ∈ (w.ly l).pool, b.out = false)) ∧
    (y.now < u.at_ + 2 * lyPeriod y.val l → Does (.decodeOverrun dt l) s y) ∧
    (u.at_ + 2 * lyPeriod y.val l ≤ y.now → ∃ w, Does (.decodeOverrun dt l) s w ∧ (w.ly l).queue = [] ∧
      (∀ b ∈ (w.ly l).pool, b.recon = false) ∧ u.pic.poc ∈ (w.ly l).missing ∧
      w.nat (Ob.DecPicsDamaged l) = (y.nat (Ob.DecPicsDamaged l) + 1) % wrapOf y.part.dies (Ob.DecPicsDamaged l) ∧
      w.evs.raised = y.evs.raised ++ [{ code := 0x0C03, die := l / 16, arg := l, t := y.now },
        { code := 0x0C07, die := l / 16, arg := l, t := y.now }])) ∧
  ∀ (dt l c : Nat) (fr : LyFrame) (y : Sys) (s : State), y = s.sys.elapse dt → y.lyFlow l = some c →
    (y.ly l).frames.find? (fun fr => fr.done.isNone) = some fr →
    (fr.settledRows ≠ (lyFig y.val l c).rows → Does (.layerFrameComplete dt l) s y) ∧
    (fr.settledRows = (lyFig y.val l c).rows → ∃ w, Does (.layerFrameComplete dt l) s w ∧ w.live = y.live ∧ w.evs = y.evs ∧
      (w.ly l).frames = (y.ly l).frames.map fun h => if h.k = fr.k then { h with done := some (y.cxNow c) } else h)

/-- CONTEXT_FRAME_BOUNDARY begins the next frame of a context that is on, once its boundary has come: each layer it draws is judged at
the boundary, and one that is not ready keeps its last frame, hatched beyond its grace; a set that waits makes a context begin (R189, R190,
R196, R208, R211, R216). ROW_LOCKED_JUDGEMENT judges a row-locked layer at its own limit (R197), and LINE_DEADLINE sends the next line
as composed, counts one that lost pixels, and marks the layers it lost as stale (R191, R192).

Readings and choices of the model it rests on: log entries 36, 67, 109 and 111. -/
def Obligations.ContextsCompose : Prop :=
  (∀ (dt c : Nat) (x : Cx) (f : Fig) (b : Int) (y : Sys) (s : State), c < 32 → y = s.sys.elapse dt → x = y.cx c → f = cxFig y.val c →
    b = f.boundary x.nextK → y.pend = [] →
    (x.on = false → Does (.contextFrameBoundary dt c) s y) ∧
    (x.on = true → atOrAfter (y.cxNow c) b = false ∨ y.stepWaits (y.cxConsumer c) = true → Does (.contextFrameBoundary dt c) s y) ∧
    (x.on = true → atOrAfter (y.cxNow c) b = true → y.stepWaits (y.cxConsumer c) = false → y.flag (Ob.CxEnable c) = true →
      (y.drawnOf y.val c = [] →
        ∃ w fr, Does (.contextFrameBoundary dt c) s w ∧ (w.cx c).frames.getLast? = some fr ∧ fr.k = x.nextK ∧ fr.boundary = b ∧
          fr.origin = b + f.off ∧ fr.shown = [] ∧ (w.cx c).nextK = x.nextK + 1 ∧ fr.count = w.nat (Ob.CxFrameCount c) ∧
          w.nat (Ob.CxFrameCount c) = (y.nat (Ob.CxFrameCount c) + 1) % wrapOf y.part.dies (Ob.CxFrameCount c) ∧
          (∀ k, k ≠ Ob.CxFrameCount c → w.val k = y.val k) ∧ w.evs = y.evs) ∧
      ∀ l, y.drawnOf y.val c = [l] → y.nat (Ob.LySource l) = 1 → y.nat (Ob.LyTiming l) = 0 →
        (∀ h : LyFrame, newestDone (y.ly l).complete (some b) = some h →
          0 ≤ tdiff (h.done.getD 0) (b - lyPeriod y.val l - usU (y.nat (Ob.LyLateTol l))) →
          ∃ w fr, Does (.contextFrameBoundary dt c) s w ∧ (w.cx c).frames.getLast? = some fr ∧
            fr.shown = [{ ly := l, frame := some h }] ∧ w.nat (Ob.LyState l) = 1 ∧ (w.ly l).m = 0 ∧
            (0 < (y.ly l).m → w.evs.raised = y.evs.raised ++ [{ code := 0x0D02, die := c / 4, arg := l, t := y.now }])) ∧
        (newestDone (y.ly l).complete (some b) = none →
          ∃ w fr, Does (.contextFrameBoundary dt c) s w ∧ (w.cx c).frames.getLast? = some fr ∧ (w.ly l).m = (y.ly l).m + 1 ∧
            w.nat (Ob.LyNotReadyFrames l) = (y.nat (Ob.LyNotReadyFrames l) + 1) % wrapOf y.part.dies (Ob.LyNotReadyFrames l) ∧
            ((y.ly l).m < y.nat (Ob.LyGrace l) → w.nat (Ob.LyState l) = 2 ∧
              fr.shown = if (y.ly l).content then [{ ly := l, frame := (y.ly l).shown }] else []) ∧
            (y.nat (Ob.LyGrace l) ≤ (y.ly l).m → w.nat (Ob.LyState l) = 3 ∧
              fr.shown = [{ ly := l, frame := if (y.ly l).content then (y.ly l).shown else none, hatched := true }]) ∧
            ((y.ly l).m = y.nat (Ob.LyGrace l) → { code := 0x0D01, die := c / 4, arg := l, t := y.now } ∈ w.evs.raised)))) ∧
  (∀ (dt c : Nat) (q : Pend) (y : Sys) (s : State), c < 32 → y = s.sys.elapse dt → (y.cx c).on = false → y.pend = [q] →
    q.key = Ob.CxCommit c → q.set = [(Ob.CxEnable c, .int 1)] → atOrAfter (y.cxNow c) q.at_ = true → y.drawnOf y.val c = [] →
    ∃ w, Does (.contextFrameBoundary dt c) s w ∧ (w.cx c).on = true ∧ w.flag (Ob.CxEnable c) = true ∧ w.pend = [] ∧
      w.nat (Ob.CxCommitState c) = 0 ∧ { code := 0x0D03, die := c / 4, arg := c, t := y.now } ∈ w.evs.raised ∧
      w.nat (Ob.CxCommitCount c) = (y.nat (Ob.CxCommitCount c) + 1) % wrapOf y.part.dies (Ob.CxCommitCount c)) ∧
  (∀ (dt l c : Nat) (fr : CxFrame) (f : Fig) (y : Sys) (s : State), y = s.sys.elapse dt → c = y.nat (Ob.LyContext l) →
    (y.cx c).frames.find? (fun fr => fr.shown.any fun x => x.ly == l && x.locked == 1) = some fr → f = cxFig (y.cxSet fr) c →
    (atOrAfter (y.cxFrameNow c fr) (fr.origin + f.slotEnd 0 + usU 8) = false → Does (.rowLockedJudgement dt l) s y) ∧
    (atOrAfter (y.cxFrameNow c fr) (fr.origin + f.slotEnd 0 + usU 8) = true →
      (∀ h, (y.ly l).frames.find? (fun g => g.k == fr.k && g.row0) = some h →
        ∃ w gr, Does (.rowLockedJudgement dt l) s w ∧ gr ∈ (w.cx c).frames ∧ gr.k = fr.k ∧
          { ly := l, frame := some h, locked := 2 } ∈ gr.shown ∧ w.nat (Ob.LyState l) = 1 ∧ (w.ly l).m = 0) ∧
      ((y.ly l).frames.find? (fun g => g.k == fr.k && g.row0) = none →
        ∃ w, Does (.rowLockedJudgement dt l) s w ∧ (w.ly l).m = (y.ly l).m + 1 ∧
          w.nat (Ob.LyNotReadyFrames l) = (y.nat (Ob.LyNotReadyFrames l) + 1) % wrapOf y.part.dies (Ob.LyNotReadyFrames l)))) ∧
  ∀ (dt c : Nat) (lost : List (Nat × Nat)) (fr : CxFrame) (f : Fig) (y : Sys) (s : State), y = s.sys.elapse dt →
    (y.cx c).frames.find? (y.cxOpen c) = some fr → f = cxFig (y.cxSet fr) c →
    (atOrAfter (y.cxFrameNow c fr) (fr.origin + dueAt f.wd f.ht f.rn f.rd fr.next (f.wd - 1) + usU 14) = false →
      Does (.lineDeadline dt c fr.next lost) s y) ∧
    (atOrAfter (y.cxFrameNow c fr) (fr.origin + dueAt f.wd f.ht f.rn f.rd fr.next (f.wd - 1) + usU 14) = true →
      ∃ w gr, Does (.lineDeadline dt c fr.next lost) s w ∧
        w.out = y.out ++ [.line c fr.next (composeLine (y.cxSet fr) c (y.cxPick fr) fr lost fr.next)] ∧
        gr ∈ (w.cx c).frames ∧ gr.k = fr.k ∧ gr.next = fr.next + 1 ∧
        (∀ sh ∈ fr.shown, ∀ x < f.wd, lostAt lost x = true → insideDst (y.cxSet fr) sh.ly x fr.next = true →
          bit gr.stale (sh.ly % 16) = true) ∧
        ((∀ x < f.wd, lostAt lost x = false) → w.live = y.live ∧ w.evs = y.evs) ∧
        ((∃ x < f.wd, lostAt lost x = true) →
          w.nat (Ob.CxLateLines c) = (y.nat (Ob.CxLateLines c) + 1) % wrapOf y.part.dies (Ob.CxLateLines c) ∧
          (fr.late = false → w.evs.raised = y.evs.raised ++ [{ code := 0x0D06, die := c / 4, arg := c, t := y.now }])))

/-! ### Rules stated whole -/

/-- R469: an index and subindex that no table lists, or of a resource the variant does not have, answers every command with abort 0x0001,
and no object changes. A READ gives up the snapshot of an earlier one (R447). -/
def Obligations.UnlistedObjectsAbort : Prop :=
  ∀ (dt : Nat) (rq : Req) (idx sub n : Nat) (b : List Byte) (s : State) (z : Sys), locate z.part.dies idx sub = none →
    (∀ live, Serves dt rq.src (reqMsg 0x01 rq idx sub (if live then 1 else 0) []) 0 s z →
      Answered (.read dt rq idx sub live) s z rq.src (reqMsg 0x01 rq idx sub (if live then 1 else 0) []) (.error (1, 0))
        (z.dropSnap rq.src)) ∧
    (Serves dt rq.src (writeMsg rq idx sub b) b.length s z →
      Answered (.write dt rq idx sub b) s z rq.src (writeMsg rq idx sub b) (.error (1, 0)) z) ∧
    (Serves dt rq.src (reqMsg 0x03 rq idx sub 0 (leBytes 4 n)) 4 s z →
      Answered (.writeInit dt rq idx sub n) s z rq.src (reqMsg 0x03 rq idx sub 0 (leBytes 4 n)) (.error (1, 0)) z) ∧
    (Serves dt rq.src (reqMsg 0x04 rq idx sub 0 (leBytes 4 n ++ b)) (4 + b.length) s z →
      ∃ y, Answered (.writeSeg dt rq idx sub n b) s z rq.src (reqMsg 0x04 rq idx sub 0 (leBytes 4 n ++ b)) (.error (1, 0)) y ∧
        (∀ k, y.val k = z.val k) ∧ ∀ k, y.shadowVal k = z.shadowVal k) ∧
    (Serves dt rq.src (reqMsg 0x05 rq idx sub 0 (leBytes 4 n)) 4 s z →
      ∃ y, Answered (.readSeg dt rq idx sub n) s z rq.src (reqMsg 0x05 rq idx sub 0 (leBytes 4 n)) (.error (1, 0)) y ∧
        (∀ k, y.val k = z.val k) ∧ ∀ k, y.shadowVal k = z.shadowVal k) ∧
    (Serves dt rq.src (reqMsg 0x07 rq idx sub 0 []) 0 s z →
      Answered (.describe dt rq idx sub) s z rq.src (reqMsg 0x07 rq idx sub 0 []) (.error (1, 0)) z)

/-- R527: a write of 0 to a write-only BOOL, and to DevResetReq, is accepted and does nothing; a write to DevResetReq of a value other than
0 and 1 is refused with abort 0x0004. -/
def Obligations.ZeroWritesDoNothing : Prop :=
  ∀ (dt : Nat) (rq : Req) (idx sub v : Nat) (l : Loc) (s : State) (z : Sys),
    (locate z.part.dies idx sub = some l → l.row.acc = .wo → l.row.ty = .bool →
      (Serves dt rq.src (writeMsg rq idx sub [0]) 1 s z → Wrote (.write dt rq idx sub [0]) s z rq idx sub [0] z) ∧
      (Serves dt rq.src (writeMsg rq idx sub [0]) 0 s z → Wrote (.registerWrite dt rq idx sub [0]) s z rq idx sub [0] z)) ∧
    (Serves dt rq.src (writeMsg rq 0x1005 0x01 [0]) 0 s z → Wrote (.devResetReq dt rq 0) s z rq 0x1005 0x01 [0] z) ∧
    (1 < v → v < 256 → Serves dt rq.src (writeMsg rq 0x1005 0x01 (leBytes 1 v)) 0 s z →
      Answered (.devResetReq dt rq v) s z rq.src (writeMsg rq 0x1005 0x01 (leBytes 1 v)) (.error (4, 0)) z)

/-- R226: a write to AuTimeBase or AuFrameRate while any audio port of the package is enabled is refused with the "value out of range"
abort, and changes nothing. -/
def Obligations.FrameClockStands : Prop :=
  ∀ (dt p sub : Nat) (v : Byte) (rq : Req) (s : State) (z : Sys), p < 4 * z.part.dies → z.flag (Ob.AuEnable p) = true → sub = 1 ∨ sub = 2 →
    (Serves dt rq.src (writeMsg rq 0x3280 sub [v]) 1 s z →
      Answered (.write dt rq 0x3280 sub [v]) s z rq.src (writeMsg rq 0x3280 sub [v]) (.error (4, 0)) z) ∧
    (Serves dt rq.src (writeMsg rq 0x3280 sub [v]) 0 s z →
      Answered (.registerWrite dt rq 0x3280 sub [v]) s z rq.src (writeMsg rq 0x3280 sub [v]) (.error (4, 0)) z)

/-- R157: a start with RcQpMin greater than RcQpMax is refused with the "value out of range" abort, and a write of either outside 0 to 63 is
refused and keeps the value. -/
def Obligations.QpBoundsChecked : Prop :=
  (∀ (dt c : Nat) (rq : Req) (s : State) (z : Sys), c < 128 → c < 16 * z.part.dies →
    Serves dt rq.src (writeMsg rq (strideIdx 0x2000 0x20 128 c) 0x01 [1]) 0 s z → (z.finishStops.chan c).run = 0 →
    (z.finishStops.startVal c (Ob.RcQpMax c)).nat < (z.finishStops.startVal c (Ob.RcQpMin c)).nat →
    ∃ y, Answered (.chControlStart dt rq c) s z rq.src (writeMsg rq (strideIdx 0x2000 0x20 128 c) 0x01 [1]) (.error (4, 0)) y ∧
      y.chans = z.finishStops.chans ∧ y.evs = z.finishStops.evs ∧
      ∀ k, k ≠ Ob.ChStartCheck c → y.val k = z.finishStops.val k) ∧
  ∀ (dt c sub : Nat) (v : Byte) (rq : Req) (s : State) (z : Sys), c < 128 → c < 16 * z.part.dies → sub = 2 ∨ sub = 3 → 63 < v.toNat →
    (Serves dt rq.src (writeMsg rq (strideIdx 0x200B 0x20 128 c) sub [v]) 1 s z →
      Answered (.write dt rq (strideIdx 0x200B 0x20 128 c) sub [v]) s z rq.src (writeMsg rq (strideIdx 0x200B 0x20 128 c) sub [v])
        (.error (4, 0)) z) ∧
    (Serves dt rq.src (writeMsg rq (strideIdx 0x200B 0x20 128 c) sub [v]) 0 s z →
      Answered (.registerWrite dt rq (strideIdx 0x200B 0x20 128 c) sub [v]) s z rq.src
        (writeMsg rq (strideIdx 0x200B 0x20 128 c) sub [v]) (.error (4, 0)) z)

end
end

