-- ==== Sys2Proof/Laws/Table.lean ====
section
/-! SUPPORT. Laws of tables: read after write, and that every table operation keeps the one canonical form, so that package memory
and the flash keep it under every write. -/

namespace Sys2Proof

variable {α : Type}

theorem Tab.find_erase_self (d : Nat → α) (t : Tab α) (k : Nat) : Tab.find d (Tab.erase k t) k = d k := by
  induction t with
  | nil => rfl
  | cons e t ih =>
    obtain ⟨i, v⟩ := e
    by_cases h : k = i
    · subst h; simp [Tab.erase, ih]
    · simp [Tab.erase, Tab.find, h, Ne.symm h, ih]

theorem Tab.find_erase_other (d : Nat → α) (t : Tab α) {j k : Nat} (h : j ≠ k) : Tab.find d (Tab.erase k t) j = Tab.find d t j := by
  induction t with
  | nil => rfl
  | cons e t ih =>
    obtain ⟨i, v⟩ := e
    by_cases hk : k = i
    · subst hk; simp [Tab.erase, Tab.find, Ne.symm h, ih]
    · simp [Tab.erase, Tab.find, hk, ih]

theorem Tab.find_insert_self (d : Nat → α) (t : Tab α) (k : Nat) (v : α) : Tab.find d (Tab.insert k v t) k = v := by
  induction t with
  | nil => simp [Tab.insert, Tab.find]
  | cons e t ih =>
    obtain ⟨i, w⟩ := e
    by_cases h1 : k < i
    · simp [Tab.insert, Tab.find, h1]
    · by_cases h2 : k = i
      · simp [Tab.insert, Tab.find, h2]
      · simp [Tab.insert, Tab.find, h1, h2, Ne.symm h2, ih]

theorem Tab.find_insert_other (d : Nat → α) (t : Tab α) {j k : Nat} (v : α) (h : j ≠ k) :
    Tab.find d (Tab.insert k v t) j = Tab.find d t j := by
  induction t with
  | nil => simp [Tab.insert, Tab.find, Ne.symm h]
  | cons e t ih =>
    obtain ⟨i, w⟩ := e
    by_cases h1 : k < i
    · simp [Tab.insert, Tab.find, h1, Ne.symm h]
    · by_cases h2 : k = i
      · subst h2; simp [Tab.insert, Tab.find, Ne.symm h]
      · simp [Tab.insert, Tab.find, h1, h2, ih]

variable [DecidableEq α]

/-- A read of the number just written gives the value written. -/
theorem Tab.find_put_self (d : Nat → α) (t : Tab α) (k : Nat) (v : α) : Tab.find d (Tab.put d t k v) k = v := by
  unfold Tab.put
  split
  · next h => rw [Tab.find_erase_self, h]
  · exact Tab.find_insert_self ..

/-- A write leaves every other number alone. -/
theorem Tab.find_put_other (d : Nat → α) (t : Tab α) {j k : Nat} (v : α) (h : j ≠ k) :
    Tab.find d (Tab.put d t k v) j = Tab.find d t j := by
  unfold Tab.put
  split
  · exact Tab.find_erase_other d t h
  · exact Tab.find_insert_other d t v h

theorem Tab.above_erase (t : Tab α) (i k : Nat) (h : Tab.above i t = true) (d : Nat → α) (hc : Tab.canon d t = true) :
    Tab.above i (Tab.erase k t) = true := by
  induction t generalizing i with
  | nil => rfl
  | cons e t ih =>
    obtain ⟨j, w⟩ := e
    simp only [Tab.canon, Bool.and_eq_true] at hc
    simp only [Tab.above, decide_eq_true_eq] at h
    by_cases hk : k = j
    · simp only [Tab.erase, hk, if_true]
      rw [← hk]
      refine ih i ?_ hc.2
      cases t with
      | nil => rfl
      | cons e t => obtain ⟨j', w'⟩ := e; simp [Tab.above] at hc ⊢; omega
    · simp [Tab.erase, hk, Tab.above, h]

theorem Tab.canon_erase (d : Nat → α) (t : Tab α) (k : Nat) (h : Tab.canon d t = true) : Tab.canon d (Tab.erase k t) = true := by
  induction t with
  | nil => rfl
  | cons e t ih =>
    obtain ⟨i, v⟩ := e
    simp only [Tab.canon, Bool.and_eq_true] at h
    by_cases hk : k = i
    · simp only [Tab.erase, hk, if_true]
      rw [← hk]; exact ih h.2
    · simp only [Tab.erase, hk, if_false, Tab.canon, Bool.and_eq_true]
      exact ⟨⟨Tab.above_erase t i k h.1.1 d h.2, h.1.2⟩, ih h.2⟩

omit [DecidableEq α] in
theorem Tab.above_insert (t : Tab α) (i k : Nat) (v : α) (h : Tab.above i t = true) (hk : i < k) :
    Tab.above i (Tab.insert k v t) = true := by
  cases t with
  | nil => simp [Tab.insert, Tab.above, hk]
  | cons e t =>
    obtain ⟨j, w⟩ := e
    simp only [Tab.above, decide_eq_true_eq] at h
    simp only [Tab.insert]
    split
    · simp [Tab.above, hk]
    · split <;> simp [Tab.above, hk, h]

theorem Tab.canon_insert (d : Nat → α) (t : Tab α) (k : Nat) (v : α) (hv : v ≠ d k) (h : Tab.canon d t = true) :
    Tab.canon d (Tab.insert k v t) = true := by
  induction t with
  | nil => simp [Tab.insert, Tab.canon, Tab.above, hv]
  | cons e t ih =>
    obtain ⟨i, w⟩ := e
    simp only [Tab.canon, Bool.and_eq_true] at h
    by_cases h1 : k < i
    · simp only [Tab.insert, h1, if_true]
      unfold Tab.canon
      simp only [Bool.and_eq_true, decide_eq_true_eq]
      refine ⟨⟨by simp [Tab.above, h1], hv⟩, ?_⟩
      simp only [Tab.canon, Bool.and_eq_true]
      exact h
    · by_cases h2 : k = i
      · subst h2
        simp only [Tab.insert, h1, if_true, if_false, Tab.canon, Bool.and_eq_true, decide_eq_true_eq]
        exact ⟨⟨h.1.1, hv⟩, h.2⟩
      · simp only [Tab.insert, h1, h2, if_false, Tab.canon, Bool.and_eq_true]
        exact ⟨⟨Tab.above_insert t i k v h.1.1 (by omega), h.1.2⟩, ih h.2⟩

/-- A write keeps the canonical form. -/
theorem Tab.canon_put (d : Nat → α) (t : Tab α) (k : Nat) (v : α) (h : Tab.canon d t = true) : Tab.canon d (Tab.put d t k v) = true := by
  unfold Tab.put
  split
  · exact Tab.canon_erase d t k h
  · next hv => exact Tab.canon_insert d t k v hv h

/-- So does a change of one entry. -/
theorem Tab.canon_modify (d : Nat → α) (t : Tab α) (k : Nat) (f : α → α) (h : Tab.canon d t = true) :
    Tab.canon d (Tab.modify d t k f) = true := Tab.canon_put d t k _ h

theorem Tab.above_filter (d : Nat → α) (t : Tab α) (i : Nat) (p : Nat × α → Bool) (h : Tab.above i t = true) (hc : Tab.canon d t = true) :
    Tab.above i (t.filter p) = true := by
  induction t generalizing i with
  | nil => rfl
  | cons e t ih =>
    obtain ⟨j, w⟩ := e
    simp only [Tab.canon, Bool.and_eq_true] at hc
    simp only [Tab.above, decide_eq_true_eq] at h
    by_cases hp : p (j, w) = true
    · simp [List.filter, hp, Tab.above, h]
    · simp only [List.filter, hp]
      refine ih i ?_ hc.2
      cases t with
      | nil => rfl
      | cons e t => obtain ⟨j', w'⟩ := e; simp [Tab.above] at hc ⊢; omega

/-- Unlisting entries keeps the canonical form. -/
theorem Tab.canon_filter (d : Nat → α) (t : Tab α) (p : Nat × α → Bool) (h : Tab.canon d t = true) :
    Tab.canon d (t.filter p) = true := by
  induction t with
  | nil => rfl
  | cons e t ih =>
    obtain ⟨i, v⟩ := e
    simp only [Tab.canon, Bool.and_eq_true] at h
    by_cases hp : p (i, v) = true
    · simp only [List.filter, hp, Tab.canon, Bool.and_eq_true]
      exact ⟨⟨Tab.above_filter d t i p h.1.1 h.2, h.1.2⟩, ih h.2⟩
    · simp only [List.filter, hp]
      exact ih h.2

end Sys2Proof

namespace Sys2Proof.Machine

/-- Storing bytes keeps the canonical form. -/
theorem canon_storeBytes (d : Nat → Byte) (m : List Host.Cell) (a : Nat) (bs : List Byte) (h : Tab.canon d m = true) :
    Tab.canon d (storeBytes d m a bs) = true := by
  induction bs generalizing m a with
  | nil => exact h
  | cons b bs ih => exact ih _ _ (Tab.canon_put d m a b h)

/-- So does clearing a range. -/
theorem canon_clearBytes (d : Nat → Byte) (m : List Host.Cell) (a n : Nat) (h : Tab.canon d m = true) :
    Tab.canon d (clearBytes m a n) = true := Tab.canon_filter d m _ h

/-- A byte outside the stored range reads as before. -/
theorem find_storeBytes_other (d : Nat → Byte) (m : List Host.Cell) (a : Nat) (bs : List Byte) (j : Nat)
    (h : j < a ∨ a + bs.length ≤ j) : Tab.find d (storeBytes d m a bs) j = Tab.find d m j := by
  induction bs generalizing m a with
  | nil => rfl
  | cons b bs ih =>
    simp only [List.length_cons] at h
    rw [storeBytes, ih _ _ (by omega), Tab.find_put_other _ _ _ (by omega)]

/-- A stored byte reads as stored. -/
theorem find_storeBytes (d : Nat → Byte) (m : List Host.Cell) (a : Nat) (bs : List Byte) (i : Nat) (h : i < bs.length) :
    Tab.find d (storeBytes d m a bs) (a + i) = bs[i] := by
  induction bs generalizing m a i with
  | nil => simp at h
  | cons b bs ih =>
    cases i with
    | zero => rw [storeBytes, find_storeBytes_other _ _ _ _ _ (by omega), Nat.add_zero, Tab.find_put_self]; rfl
    | succ i => rw [storeBytes, show a + (i + 1) = a + 1 + i by omega, ih _ _ _ (by simpa using h)]; rfl

end Sys2Proof.Machine
end

