-- ==== Sys2Proof/Laws/Canon.lean ====
section
/-! SUPPORT. Every operation on package memory and on the flash keeps the canonical form, and which operations leave them alone. -/

namespace Sys2Proof.Machine

/-! ### The flash -/

theorem canon_selAppend (f : List Host.Cell) (g : SelRec → SelRec) (h : Flash.wf f) : Flash.wf (selAppend f g) := by
  unfold selAppend selWrite
  refine canon_storeBytes _ _ _ _ ?_
  split
  · exact canon_clearBytes _ _ _ _ h
  · exact h

theorem canon_flashRecord (r : LogRec) (p : List Host.Cell × Sys) (h : Flash.wf p.1) : Flash.wf (flashRecord r p).1 := by
  unfold flashRecord
  refine canon_storeBytes _ _ _ _ ?_
  split
  · exact canon_clearBytes _ _ _ _ h
  · exact h

theorem canon_flushLog (p : List Host.Cell × Sys) (h : Flash.wf p.1) : Flash.wf (flushLog p).1 := by
  unfold flushLog
  generalize p.2.evs.ring = l
  generalize hq : (p.1, ({ p.2 with evs := { p.2.evs with ring := [] } } : Sys)) = q
  have hf : Flash.wf q.1 := by rw [← hq]; exact h
  clear hq
  induction l generalizing q with
  | nil => exact hf
  | cons r l ih => exact ih _ (canon_flashRecord r q hf)

theorem canon_saveAll (p : List Host.Cell × Sys) (h : Flash.wf p.1) : Flash.wf (saveAll p).1 := canon_flushLog _ h

theorem canon_fallBack (p : List Host.Cell × Sys) (h : Flash.wf p.1) : Flash.wf (fallBack p).1 := by
  unfold fallBack
  dsimp only
  exact canon_selAppend _ _ h

theorem canon_imageVerified (p : List Host.Cell × Sys) (h : Flash.wf p.1) : Flash.wf (imageVerified p).1 := by
  unfold imageVerified
  repeat' first | with_reducible exact h | with_reducible exact canon_selAppend _ _ h | with_reducible exact canon_fallBack _ h | with_reducible exact canon_fallBack _ (canon_selAppend _ _ h) | split | dsimp only

theorem bootComplete_flash (a b : List (Nat × Nat)) (p : List Host.Cell × Sys) : (bootComplete a b p).1 = p.1 := by
  unfold bootComplete
  repeat' first | rfl | split | dsimp only

theorem canon_clearSectors (l : List Nat) (f : List Host.Cell) (h : Flash.wf f) :
    Flash.wf (l.foldl (fun f s => clearBytes f s 65536) f) := by
  induction l generalizing f with
  | nil => exact h
  | cons a l ih => exact ih _ (canon_clearBytes _ _ _ _ h)

theorem canon_chunkDone (ok : Bool) (p : List Host.Cell × Sys) (h : Flash.wf p.1) : Flash.wf (chunkDone ok p).1 := by
  unfold chunkDone
  dsimp only
  split
  · exact h
  · split <;> exact canon_storeBytes _ _ _ _ (canon_clearSectors _ _ h)

theorem updVerified_flash (p : List Host.Cell × Sys) : (updVerified p).1 = p.1 := by
  unfold updVerified
  repeat' first | rfl | split | dsimp only

theorem canon_trialOver (p : List Host.Cell × Sys) (h : Flash.wf p.1) : Flash.wf (trialOver p).1 := by
  unfold trialOver
  repeat' first | with_reducible exact h | with_reducible exact canon_fallBack _ h | split

theorem canon_updActivate (p : List Host.Cell × Sys) (h : Flash.wf p.1) : Flash.wf (updActivate p).1 := by
  unfold updActivate
  dsimp only
  split
  · dsimp only
    exact canon_selAppend _ _ h
  · dsimp only
    exact h

theorem canon_updConfirm (p : List Host.Cell × Sys) (h : Flash.wf p.1) : Flash.wf (updConfirm p).1 := by
  unfold updConfirm
  repeat' first | with_reducible exact h | with_reducible exact canon_selAppend _ _ h | split | dsimp only

/-! ### Package memory -/

theorem canon_memCleared (m : List Host.Cell) : Memory.wf (memCleared m) := by
  have : memCleared m = [] := by simp [memCleared]
  rw [this]; rfl

theorem canon_serveDram (d m o : Nat) (rq : FabReq) (r : List Host.Cell × Sys) (h : Memory.wf r.1) : Memory.wf (serveDram d m o rq r).1 := by
  unfold serveDram
  repeat' first | with_reducible exact h | with_reducible exact canon_storeBytes _ _ _ _ h | split | dsimp only

theorem canon_serveAt (d : Nat) (rq : FabReq) (r : List Host.Cell × Sys) (h : Memory.wf r.1) : Memory.wf (serveAt d rq r).1 := by
  unfold serveAt
  repeat' first | with_reducible exact h | with_reducible exact canon_storeBytes _ _ _ _ h | with_reducible exact canon_serveDram _ _ _ _ _ h | split | dsimp only

theorem canon_fabRequest (d : Nat) (rq : FabReq) (r : List Host.Cell × Sys) (h : Memory.wf r.1) : Memory.wf (fabRequest d rq r).1 := by
  unfold fabRequest
  repeat' first | with_reducible exact h | with_reducible exact canon_serveAt _ _ _ h | split | dsimp only

theorem canon_foldReq (f : FabReq → List Host.Cell × Sys → List Host.Cell × Sys) (hf : ∀ q r, Memory.wf r.1 → Memory.wf (f q r).1)
    (l : List FabReq) (r : List Host.Cell × Sys) (h : Memory.wf r.1) : Memory.wf (l.foldl (fun r q => f q r) r).1 := by
  induction l generalizing r with
  | nil => exact h
  | cons q l ih => exact ih _ (hf q r h)

theorem canon_budgetEpoch (d : Nat) (r : List Host.Cell × Sys) (h : Memory.wf r.1) : Memory.wf (budgetEpoch d r).1 := by
  unfold budgetEpoch
  exact canon_foldReq (serveAt d) (canon_serveAt d) _ _ h

theorem canon_isolationEnd (d m : Nat) (r : List Host.Cell × Sys) (h : Memory.wf r.1) : Memory.wf (isolationEnd d m r).1 := by
  unfold isolationEnd
  dsimp only
  split
  · exact canon_foldReq (fabRequest d) (canon_fabRequest d) _ _ h
  · exact h

/-! ### Management requests -/

/-- Package memory is left alone and the flash keeps its form. -/
def Full.Keeps (p q : Full) : Prop := q.1 = p.1 ∧ (Flash.wf p.2.1 → Flash.wf q.2.1)

theorem Full.Keeps.refl (p : Full) : p.Keeps p := ⟨rfl, id⟩
theorem Full.Keeps.trans {p q r : Full} (h : p.Keeps q) (k : q.Keeps r) : p.Keeps r := ⟨k.1.trans h.1, k.2 ∘ h.2⟩
theorem Full.keeps_map (f : Sys → Sys) (p : Full) : p.Keeps (p.map f) := ⟨rfl, id⟩
theorem keeps_plain (f : Sys → WriteRes) (p : Full) : p.Keeps (plainWrite f p).2 := ⟨rfl, id⟩
theorem keeps_flashWrite (f : List Host.Cell × Sys → List Host.Cell × WriteRes) (hf : ∀ q, Flash.wf q.1 → Flash.wf (f q).1) (p : Full) :
    p.Keeps (flashWrite f p).2 := ⟨rfl, hf p.2⟩

theorem keeps_writeValue (src : Src) (key : Nat) (l : Loc) (v : Val) (p : Full) : p.Keeps (writeValue src key l v p).2 := by
  unfold writeValue
  dsimp only
  split <;> repeat' first
    | with_reducible exact keeps_plain _ _
    | with_reducible exact Full.Keeps.refl _
    | with_reducible exact Full.keeps_map _ _
    | with_reducible exact keeps_flashWrite _ canon_updActivate _
    | with_reducible exact keeps_flashWrite _ canon_updConfirm _
    | split

theorem keeps_writeObject (src : Src) (idx sub : Nat) (b : List Byte) (p : Full) : p.Keeps (writeObject src idx sub b p).2 := by
  unfold writeObject
  repeat' first | with_reducible exact Full.Keeps.refl _ | with_reducible exact keeps_writeValue _ _ _ _ _ | split

/-- The index a table index comes from, where it is the update path's. -/
theorem base_update {dies idx sub : Nat} {l : Loc} (h : locate dies idx sub = some l) (hb : l.base = 0x6020) :
    idx = 0x6020 ∧ l.sub = sub := by
  have e : l.base = (splitIndex dies idx sub).1 ∧ (l.sub = (splitIndex dies idx sub).2.2.1 ∨ l.sub = 0 ∧ sub = 0) := by
    unfold locate at h
    dsimp only at h
    split at h
    · next h0 =>
      split at h
      · cases h
      · cases h; exact ⟨rfl, Or.inr ⟨rfl, h0⟩⟩
    · split at h
      · cases h
      · split at h
        · cases h; exact ⟨rfl, Or.inl rfl⟩
        · cases h
  rw [hb] at e
  have hi : idx = 0x6020 := by
    have := e.1
    unfold splitIndex at this
    repeat' split at this
    all_goals dsimp only at this
    all_goals omega
  subst hi
  refine ⟨rfl, ?_⟩
  rcases e.2 with h2 | ⟨h2, h3⟩
  · rw [h2]
    unfold splitIndex
    simp (disch := omega) only [if_neg]
  · rw [h2, h3]

/-- Only the writes that activate and confirm an image touch the flash. -/
theorem writeObject_flash (src : Src) (idx sub : Nat) (b : List Byte) (p : Full) (h : idx ≠ 0x6020 ∨ sub ≠ 5 ∧ sub ≠ 6) :
    (writeObject src idx sub b p).2.2.1 = p.2.1 := by
  have hv : ∀ (l : Loc) (v : Val), ¬(l.base = 0x6020 ∧ (l.sub = 5 ∨ l.sub = 6)) →
      (writeValue src (objKey idx sub) l v p).2.2.1 = p.2.1 := by
    intro l v hl
    obtain ⟨base, inst, s, row⟩ := l
    have hp : ∀ f : Sys → WriteRes, (plainWrite f p).2.2.1 = p.2.1 := fun f => rfl
    have hm : ∀ f : Sys → Sys, (p.map f).2.1 = p.2.1 := fun f => rfl
    unfold writeValue
    dsimp only
    split <;> repeat' first
      | with_reducible exact hp _
      | with_reducible exact hm _
      | with_reducible rfl
      | exact absurd ⟨rfl, Or.inl rfl⟩ hl
      | exact absurd ⟨rfl, Or.inr rfl⟩ hl
      | split
  unfold writeObject
  cases hw : writableAt p.2.2.part.dies idx sub with
  | error e => rfl
  | ok l =>
    have hl : locate p.2.2.part.dies idx sub = some l := by
      unfold writableAt at hw
      split at hw
      · cases hw
      · next l' e => split at hw
                     · cases hw
                     · cases hw; exact e
    dsimp only
    split
    · rfl
    · split
      · rfl
      · refine hv l _ ?_
        rintro ⟨h1, h2⟩
        obtain ⟨h3, h4⟩ := base_update hl h1
        omega

theorem keeps_winRead (a : Nat) (p : Full) : p.Keeps (winRead a p).2 := by
  unfold winRead
  repeat' first | with_reducible exact Full.Keeps.refl _ | with_reducible exact Full.keeps_map _ _ | split | dsimp only

theorem keeps_readObject (src : Src) (idx sub : Nat) (live : Bool) (p : Full) : p.Keeps (readObject src idx sub live p).2 := by
  unfold readObject
  repeat' first | with_reducible exact Full.Keeps.refl _ | with_reducible exact Full.keeps_map _ _ | with_reducible exact keeps_winRead _ _ | split | dsimp only

theorem keeps_handle (src : Src) (m : Msg) (serve : Full → Ans × Full) (hs : ∀ p : Full, p.Keeps (serve p).2) (p : Full) :
    p.Keeps (handle src m serve p) := by
  unfold handle
  repeat' first | with_reducible exact Full.Keeps.refl _ | with_reducible exact Full.keeps_map _ _ | with_reducible exact (hs p).trans (Full.keeps_map _ _) | split | dsimp only

theorem keeps_arrive (src : Src) (m : Msg) (serve : Full → Full) (hs : ∀ p : Full, p.Keeps (serve p)) (p : Full) :
    p.Keeps (arrive src m serve p) := by
  unfold arrive
  split
  · dsimp only
    split
    · next z _ => exact ⟨(hs (p.1, p.2.1, z)).1, (hs (p.1, p.2.1, z)).2⟩
    · exact ⟨rfl, id⟩
  · exact Full.Keeps.refl _

theorem keeps_request (rq : Req) (cmd idx sub flags : Nat) (data : List Byte) (bytes : Nat) (serve : Full → Ans × Full)
    (hs : ∀ p : Full, p.Keeps (serve p).2) (p : Full) : p.Keeps (request rq cmd idx sub flags data bytes serve p) := by
  unfold request
  dsimp only
  split
  · exact keeps_arrive _ _ _ (keeps_handle _ _ _ hs) _
  · exact Full.Keeps.refl _

theorem keeps_serveWrite (src : Src) (cmd idx sub : Nat) (b : List Byte) (p : Full) : p.Keeps (serveWrite src cmd idx sub b p).2 := by
  unfold serveWrite
  dsimp only
  split <;> exact keeps_writeObject _ _ _ _ _

theorem keeps_serveRead (src : Src) (idx sub : Nat) (live : Bool) (p : Full) : p.Keeps (serveRead src idx sub live p).2 := by
  have h := (Full.keeps_map (Sys.dropSnap src) p).trans (keeps_readObject src idx sub live _)
  unfold serveRead
  dsimp only
  split
  · exact h
  · split
    · exact h
    · exact h.trans (Full.keeps_map _ _)

theorem keeps_serveInit (src : Src) (idx sub total : Nat) (p : Full) : p.Keeps (serveInit src idx sub total p).2 := by
  unfold serveInit
  repeat' first | with_reducible exact Full.Keeps.refl _ | with_reducible exact Full.keeps_map _ _ | with_reducible exact keeps_serveWrite _ _ _ _ _ _ | split

theorem keeps_serveSeg (src : Src) (idx sub off : Nat) (b : List Byte) (p : Full) : p.Keeps (serveSeg src idx sub off b p).2 := by
  unfold serveSeg
  repeat' first | with_reducible exact Full.Keeps.refl _ | with_reducible exact Full.keeps_map _ _ | with_reducible exact (keeps_writeObject _ _ _ _ _).trans (Full.keeps_map _ _) | split | dsimp only

theorem keeps_serveReadSeg (src : Src) (idx sub off : Nat) (p : Full) : p.Keeps (serveReadSeg src idx sub off p).2 := by
  unfold serveReadSeg
  repeat' first | with_reducible exact Full.Keeps.refl _ | with_reducible exact Full.keeps_map _ _ | split

theorem keeps_serveDescribe (idx sub : Nat) (p : Full) : p.Keeps (serveDescribe idx sub p).2 := by
  unfold serveDescribe
  repeat' first | with_reducible exact Full.Keeps.refl _ | split

theorem keeps_readRequest (rq : Req) (idx sub : Nat) (live : Bool) (p : Full) : p.Keeps (readRequest rq idx sub live p) := by
  unfold readRequest
  dsimp only
  split
  · refine keeps_arrive _ _ _ (fun q => ?_) _
    split
    · exact Full.keeps_map _ _
    · exact keeps_handle _ _ _ (keeps_serveRead _ _ _ _) _
  · exact Full.Keeps.refl _

theorem keeps_fastRequest (rq : Req) (first count : Nat) (p : Full) : p.Keeps (fastRequest rq first count p) := by
  unfold fastRequest
  dsimp only
  split
  · refine keeps_arrive _ _ _ (fun q => ?_) _
    split
    · exact Full.keeps_map _ _
    · exact keeps_handle _ _ _ (fun q => Full.Keeps.refl _) _
  · exact Full.Keeps.refl _

theorem keeps_writeRequest (rq : Req) (idx sub : Nat) (b : List Byte) (p : Full) : p.Keeps (writeRequest rq idx sub b p) :=
  keeps_request _ _ _ _ _ _ _ _ (keeps_serveWrite _ _ _ _ _) _

theorem keeps_wholeWrite (rq : Req) (idx sub : Nat) (b : List Byte) (p : Full) : p.Keeps (wholeWrite rq idx sub b p) :=
  keeps_request _ _ _ _ _ _ _ _ (keeps_serveWrite _ _ _ _ _) _

theorem keeps_fastUpdate (d : Nat) (p : Full) : p.Keeps (fastUpdate d p) := by
  unfold fastUpdate
  split
  · exact Full.keeps_map _ _
  · exact Full.Keeps.refl _

/-- A request whose service leaves the flash alone leaves it alone. -/
theorem handle_flash (src : Src) (m : Msg) (serve : Full → Ans × Full) (hs : ∀ p : Full, (serve p).2.2.1 = p.2.1) (p : Full) :
    (handle src m serve p).2.1 = p.2.1 := by
  have hm : ∀ (q : Full) (f : Sys → Sys), (q.map f).2.1 = q.2.1 := fun q f => rfl
  unfold handle
  repeat' first
    | with_reducible rfl
    | with_reducible exact hm _ _
    | with_reducible exact (hm _ _).trans (hs _)
    | split
    | dsimp only

theorem arrive_flash (src : Src) (m : Msg) (serve : Full → Full) (hs : ∀ p : Full, (serve p).2.1 = p.2.1) (p : Full) :
    (arrive src m serve p).2.1 = p.2.1 := by
  unfold arrive
  split
  · dsimp only
    split
    · next z _ => exact hs (p.1, p.2.1, z)
    · rfl
  · rfl

theorem request_flash (rq : Req) (cmd idx sub flags : Nat) (data : List Byte) (bytes : Nat) (serve : Full → Ans × Full)
    (hs : ∀ p : Full, (serve p).2.2.1 = p.2.1) (p : Full) : (request rq cmd idx sub flags data bytes serve p).2.1 = p.2.1 := by
  unfold request
  dsimp only
  split
  · exact arrive_flash _ _ _ (handle_flash _ _ _ hs) _
  · rfl

theorem wholeWrite_flash (rq : Req) (idx sub : Nat) (b : List Byte) (p : Full) (h : idx ≠ 0x6020 ∨ sub ≠ 5 ∧ sub ≠ 6) :
    (wholeWrite rq idx sub b p).2.1 = p.2.1 := by
  refine request_flash _ _ _ _ _ _ _ _ (fun q => ?_) _
  have e : (serveWrite rq.src 0x82 idx sub b q).2 = (writeObject rq.src idx sub b q).2 := by
    unfold serveWrite
    dsimp only
    split <;> rfl
  rw [e, writeObject_flash _ _ _ _ _ h]

theorem winRead_flash (a : Nat) (p : Full) : (winRead a p).2.2.1 = p.2.1 := by
  have hm : ∀ (q : Full) (f : Sys → Sys), (q.map f).2.1 = q.2.1 := fun q f => rfl
  unfold winRead
  repeat' first | with_reducible rfl | with_reducible exact hm _ _ | split | dsimp only

theorem readObject_flash (src : Src) (idx sub : Nat) (live : Bool) (p : Full) : (readObject src idx sub live p).2.2.1 = p.2.1 := by
  have hm : ∀ (q : Full) (f : Sys → Sys), (q.map f).2.1 = q.2.1 := fun q f => rfl
  unfold readObject
  repeat' first | with_reducible rfl | with_reducible exact hm _ _ | with_reducible exact winRead_flash _ _ | split | dsimp only

end Sys2Proof.Machine
end

