-- ==== Sys2Proof/Laws/State.lean ====
section
/-! SUPPORT. Laws of the state's updates: one lemma per field per update, what each reader of a unit or an object gives after
each writer, and what the lifts `act` and `actMem` leave alone. -/

namespace Sys2Proof.Machine

/-! ### The lifts -/

theorem act_eq (dt : Nat) (f : Sys → Sys) (s : State) : act dt f s = .next { s with sys := f (s.sys.elapse dt) } := rfl

theorem actMem_eq (dt : Nat) (f : List Host.Cell → List Host.Cell → Sys → List Host.Cell × List Host.Cell × Sys) (s : State) :
    actMem dt f s = .next { s with mem := (f s.mem s.flash (s.sys.elapse dt)).1, flash := (f s.mem s.flash (s.sys.elapse dt)).2.1,
                                   sys := (f s.mem s.flash (s.sys.elapse dt)).2.2 } := rfl

/-- A command lifted by `act` completes and leaves package memory, the flash and the queue alone. -/
theorem act_next {dt : Nat} {f : Sys → Sys} {s t : State} (h : act dt f s = .next t) :
    t.mem = s.mem ∧ t.flash = s.flash ∧ t.pending = s.pending ∧ t.sys = f (s.sys.elapse dt) := by
  cases h; exact ⟨rfl, rfl, rfl, rfl⟩

/-- A command lifted by `actMem` completes and leaves the queue alone. -/
theorem actMem_next {dt : Nat} {f : List Host.Cell → List Host.Cell → Sys → List Host.Cell × List Host.Cell × Sys} {s t : State}
    (h : actMem dt f s = .next t) : t.pending = s.pending ∧ (t.mem, t.flash, t.sys) = f s.mem s.flash (s.sys.elapse dt) := by
  cases h; exact ⟨rfl, rfl⟩

/-! ### Fields after updates -/

@[simp] theorem Sys.elapse_part (y : Sys) (dt : Nat) : (y.elapse dt).part = y.part := rfl
@[simp] theorem Sys.elapse_power (y : Sys) (dt : Nat) : (y.elapse dt).power = y.power := rfl
@[simp] theorem Sys.elapse_live (y : Sys) (dt : Nat) : (y.elapse dt).live = y.live := rfl
@[simp] theorem Sys.elapse_shadow (y : Sys) (dt : Nat) : (y.elapse dt).shadow = y.shadow := rfl
@[simp] theorem Sys.elapse_pend (y : Sys) (dt : Nat) : (y.elapse dt).pend = y.pend := rfl
@[simp] theorem Sys.elapse_evs (y : Sys) (dt : Nat) : (y.elapse dt).evs = y.evs := rfl
@[simp] theorem Sys.elapse_mgmt (y : Sys) (dt : Nat) : (y.elapse dt).mgmt = y.mgmt := rfl
@[simp] theorem Sys.elapse_clk (y : Sys) (dt : Nat) : (y.elapse dt).clk = y.clk := rfl
@[simp] theorem Sys.elapse_jas (y : Sys) (dt : Nat) : (y.elapse dt).jas = y.jas := rfl
@[simp] theorem Sys.elapse_net (y : Sys) (dt : Nat) : (y.elapse dt).net = y.net := rfl
@[simp] theorem Sys.elapse_opal (y : Sys) (dt : Nat) : (y.elapse dt).opal = y.opal := rfl
@[simp] theorem Sys.elapse_aus (y : Sys) (dt : Nat) : (y.elapse dt).aus = y.aus := rfl
@[simp] theorem Sys.elapse_chans (y : Sys) (dt : Nat) : (y.elapse dt).chans = y.chans := rfl
@[simp] theorem Sys.elapse_dies (y : Sys) (dt : Nat) : (y.elapse dt).dies = y.dies := rfl
@[simp] theorem Sys.elapse_upd (y : Sys) (dt : Nat) : (y.elapse dt).upd = y.upd := rfl
@[simp] theorem Sys.elapse_free (y : Sys) (dt : Nat) : (y.elapse dt).free = y.free := rfl
@[simp] theorem Sys.fresh_part (y : Sys)  : (y.fresh).part = y.part := rfl
@[simp] theorem Sys.fresh_now (y : Sys)  : (y.fresh).now = y.now := rfl
@[simp] theorem Sys.fresh_power (y : Sys)  : (y.fresh).power = y.power := rfl
@[simp] theorem Sys.fresh_live (y : Sys)  : (y.fresh).live = y.live := rfl
@[simp] theorem Sys.fresh_shadow (y : Sys)  : (y.fresh).shadow = y.shadow := rfl
@[simp] theorem Sys.fresh_pend (y : Sys)  : (y.fresh).pend = y.pend := rfl
@[simp] theorem Sys.fresh_evs (y : Sys)  : (y.fresh).evs = y.evs := rfl
@[simp] theorem Sys.fresh_mgmt (y : Sys)  : (y.fresh).mgmt = y.mgmt := rfl
@[simp] theorem Sys.fresh_clk (y : Sys)  : (y.fresh).clk = y.clk := rfl
@[simp] theorem Sys.fresh_jas (y : Sys)  : (y.fresh).jas = y.jas := rfl
@[simp] theorem Sys.fresh_net (y : Sys)  : (y.fresh).net = y.net := rfl
@[simp] theorem Sys.fresh_opal (y : Sys)  : (y.fresh).opal = y.opal := rfl
@[simp] theorem Sys.fresh_aus (y : Sys)  : (y.fresh).aus = y.aus := rfl
@[simp] theorem Sys.fresh_chans (y : Sys)  : (y.fresh).chans = y.chans := rfl
@[simp] theorem Sys.fresh_dies (y : Sys)  : (y.fresh).dies = y.dies := rfl
@[simp] theorem Sys.fresh_upd (y : Sys)  : (y.fresh).upd = y.upd := rfl
@[simp] theorem Sys.fresh_out (y : Sys)  : (y.fresh).out = y.out := rfl
@[simp] theorem Sys.emit_part (y : Sys) (o : Out) : (y.emit o).part = y.part := rfl
@[simp] theorem Sys.emit_now (y : Sys) (o : Out) : (y.emit o).now = y.now := rfl
@[simp] theorem Sys.emit_power (y : Sys) (o : Out) : (y.emit o).power = y.power := rfl
@[simp] theorem Sys.emit_live (y : Sys) (o : Out) : (y.emit o).live = y.live := rfl
@[simp] theorem Sys.emit_shadow (y : Sys) (o : Out) : (y.emit o).shadow = y.shadow := rfl
@[simp] theorem Sys.emit_pend (y : Sys) (o : Out) : (y.emit o).pend = y.pend := rfl
@[simp] theorem Sys.emit_evs (y : Sys) (o : Out) : (y.emit o).evs = y.evs := rfl
@[simp] theorem Sys.emit_mgmt (y : Sys) (o : Out) : (y.emit o).mgmt = y.mgmt := rfl
@[simp] theorem Sys.emit_clk (y : Sys) (o : Out) : (y.emit o).clk = y.clk := rfl
@[simp] theorem Sys.emit_jas (y : Sys) (o : Out) : (y.emit o).jas = y.jas := rfl
@[simp] theorem Sys.emit_net (y : Sys) (o : Out) : (y.emit o).net = y.net := rfl
@[simp] theorem Sys.emit_opal (y : Sys) (o : Out) : (y.emit o).opal = y.opal := rfl
@[simp] theorem Sys.emit_aus (y : Sys) (o : Out) : (y.emit o).aus = y.aus := rfl
@[simp] theorem Sys.emit_chans (y : Sys) (o : Out) : (y.emit o).chans = y.chans := rfl
@[simp] theorem Sys.emit_dies (y : Sys) (o : Out) : (y.emit o).dies = y.dies := rfl
@[simp] theorem Sys.emit_upd (y : Sys) (o : Out) : (y.emit o).upd = y.upd := rfl
@[simp] theorem Sys.emit_free (y : Sys) (o : Out) : (y.emit o).free = y.free := rfl
@[simp] theorem Sys.setDie_part (y : Sys) (d : Nat) (x : Die) : (y.setDie d x).part = y.part := rfl
@[simp] theorem Sys.setDie_now (y : Sys) (d : Nat) (x : Die) : (y.setDie d x).now = y.now := rfl
@[simp] theorem Sys.setDie_power (y : Sys) (d : Nat) (x : Die) : (y.setDie d x).power = y.power := rfl
@[simp] theorem Sys.setDie_live (y : Sys) (d : Nat) (x : Die) : (y.setDie d x).live = y.live := rfl
@[simp] theorem Sys.setDie_shadow (y : Sys) (d : Nat) (x : Die) : (y.setDie d x).shadow = y.shadow := rfl
@[simp] theorem Sys.setDie_pend (y : Sys) (d : Nat) (x : Die) : (y.setDie d x).pend = y.pend := rfl
@[simp] theorem Sys.setDie_evs (y : Sys) (d : Nat) (x : Die) : (y.setDie d x).evs = y.evs := rfl
@[simp] theorem Sys.setDie_mgmt (y : Sys) (d : Nat) (x : Die) : (y.setDie d x).mgmt = y.mgmt := rfl
@[simp] theorem Sys.setDie_clk (y : Sys) (d : Nat) (x : Die) : (y.setDie d x).clk = y.clk := rfl
@[simp] theorem Sys.setDie_jas (y : Sys) (d : Nat) (x : Die) : (y.setDie d x).jas = y.jas := rfl
@[simp] theorem Sys.setDie_net (y : Sys) (d : Nat) (x : Die) : (y.setDie d x).net = y.net := rfl
@[simp] theorem Sys.setDie_opal (y : Sys) (d : Nat) (x : Die) : (y.setDie d x).opal = y.opal := rfl
@[simp] theorem Sys.setDie_aus (y : Sys) (d : Nat) (x : Die) : (y.setDie d x).aus = y.aus := rfl
@[simp] theorem Sys.setDie_chans (y : Sys) (d : Nat) (x : Die) : (y.setDie d x).chans = y.chans := rfl
@[simp] theorem Sys.setDie_upd (y : Sys) (d : Nat) (x : Die) : (y.setDie d x).upd = y.upd := rfl
@[simp] theorem Sys.setDie_free (y : Sys) (d : Nat) (x : Die) : (y.setDie d x).free = y.free := rfl
@[simp] theorem Sys.setDie_out (y : Sys) (d : Nat) (x : Die) : (y.setDie d x).out = y.out := rfl
@[simp] theorem Sys.onDie_part (y : Sys) (d : Nat) (f : Die → Die) : (y.onDie d f).part = y.part := rfl
@[simp] theorem Sys.onDie_now (y : Sys) (d : Nat) (f : Die → Die) : (y.onDie d f).now = y.now := rfl
@[simp] theorem Sys.onDie_power (y : Sys) (d : Nat) (f : Die → Die) : (y.onDie d f).power = y.power := rfl
@[simp] theorem Sys.onDie_live (y : Sys) (d : Nat) (f : Die → Die) : (y.onDie d f).live = y.live := rfl
@[simp] theorem Sys.onDie_shadow (y : Sys) (d : Nat) (f : Die → Die) : (y.onDie d f).shadow = y.shadow := rfl
@[simp] theorem Sys.onDie_pend (y : Sys) (d : Nat) (f : Die → Die) : (y.onDie d f).pend = y.pend := rfl
@[simp] theorem Sys.onDie_evs (y : Sys) (d : Nat) (f : Die → Die) : (y.onDie d f).evs = y.evs := rfl
@[simp] theorem Sys.onDie_mgmt (y : Sys) (d : Nat) (f : Die → Die) : (y.onDie d f).mgmt = y.mgmt := rfl
@[simp] theorem Sys.onDie_clk (y : Sys) (d : Nat) (f : Die → Die) : (y.onDie d f).clk = y.clk := rfl
@[simp] theorem Sys.onDie_jas (y : Sys) (d : Nat) (f : Die → Die) : (y.onDie d f).jas = y.jas := rfl
@[simp] theorem Sys.onDie_net (y : Sys) (d : Nat) (f : Die → Die) : (y.onDie d f).net = y.net := rfl
@[simp] theorem Sys.onDie_opal (y : Sys) (d : Nat) (f : Die → Die) : (y.onDie d f).opal = y.opal := rfl
@[simp] theorem Sys.onDie_aus (y : Sys) (d : Nat) (f : Die → Die) : (y.onDie d f).aus = y.aus := rfl
@[simp] theorem Sys.onDie_chans (y : Sys) (d : Nat) (f : Die → Die) : (y.onDie d f).chans = y.chans := rfl
@[simp] theorem Sys.onDie_upd (y : Sys) (d : Nat) (f : Die → Die) : (y.onDie d f).upd = y.upd := rfl
@[simp] theorem Sys.onDie_free (y : Sys) (d : Nat) (f : Die → Die) : (y.onDie d f).free = y.free := rfl
@[simp] theorem Sys.onDie_out (y : Sys) (d : Nat) (f : Die → Die) : (y.onDie d f).out = y.out := rfl
@[simp] theorem Sys.setChan_part (y : Sys) (n : Nat) (x : Chan) : (y.setChan n x).part = y.part := rfl
@[simp] theorem Sys.setChan_now (y : Sys) (n : Nat) (x : Chan) : (y.setChan n x).now = y.now := rfl
@[simp] theorem Sys.setChan_power (y : Sys) (n : Nat) (x : Chan) : (y.setChan n x).power = y.power := rfl
@[simp] theorem Sys.setChan_live (y : Sys) (n : Nat) (x : Chan) : (y.setChan n x).live = y.live := rfl
@[simp] theorem Sys.setChan_shadow (y : Sys) (n : Nat) (x : Chan) : (y.setChan n x).shadow = y.shadow := rfl
@[simp] theorem Sys.setChan_pend (y : Sys) (n : Nat) (x : Chan) : (y.setChan n x).pend = y.pend := rfl
@[simp] theorem Sys.setChan_evs (y : Sys) (n : Nat) (x : Chan) : (y.setChan n x).evs = y.evs := rfl
@[simp] theorem Sys.setChan_mgmt (y : Sys) (n : Nat) (x : Chan) : (y.setChan n x).mgmt = y.mgmt := rfl
@[simp] theorem Sys.setChan_clk (y : Sys) (n : Nat) (x : Chan) : (y.setChan n x).clk = y.clk := rfl
@[simp] theorem Sys.setChan_jas (y : Sys) (n : Nat) (x : Chan) : (y.setChan n x).jas = y.jas := rfl
@[simp] theorem Sys.setChan_net (y : Sys) (n : Nat) (x : Chan) : (y.setChan n x).net = y.net := rfl
@[simp] theorem Sys.setChan_opal (y : Sys) (n : Nat) (x : Chan) : (y.setChan n x).opal = y.opal := rfl
@[simp] theorem Sys.setChan_aus (y : Sys) (n : Nat) (x : Chan) : (y.setChan n x).aus = y.aus := rfl
@[simp] theorem Sys.setChan_dies (y : Sys) (n : Nat) (x : Chan) : (y.setChan n x).dies = y.dies := rfl
@[simp] theorem Sys.setChan_upd (y : Sys) (n : Nat) (x : Chan) : (y.setChan n x).upd = y.upd := rfl
@[simp] theorem Sys.setChan_free (y : Sys) (n : Nat) (x : Chan) : (y.setChan n x).free = y.free := rfl
@[simp] theorem Sys.setChan_out (y : Sys) (n : Nat) (x : Chan) : (y.setChan n x).out = y.out := rfl
@[simp] theorem Sys.onChan_part (y : Sys) (n : Nat) (f : Chan → Chan) : (y.onChan n f).part = y.part := rfl
@[simp] theorem Sys.onChan_now (y : Sys) (n : Nat) (f : Chan → Chan) : (y.onChan n f).now = y.now := rfl
@[simp] theorem Sys.onChan_power (y : Sys) (n : Nat) (f : Chan → Chan) : (y.onChan n f).power = y.power := rfl
@[simp] theorem Sys.onChan_live (y : Sys) (n : Nat) (f : Chan → Chan) : (y.onChan n f).live = y.live := rfl
@[simp] theorem Sys.onChan_shadow (y : Sys) (n : Nat) (f : Chan → Chan) : (y.onChan n f).shadow = y.shadow := rfl
@[simp] theorem Sys.onChan_pend (y : Sys) (n : Nat) (f : Chan → Chan) : (y.onChan n f).pend = y.pend := rfl
@[simp] theorem Sys.onChan_evs (y : Sys) (n : Nat) (f : Chan → Chan) : (y.onChan n f).evs = y.evs := rfl
@[simp] theorem Sys.onChan_mgmt (y : Sys) (n : Nat) (f : Chan → Chan) : (y.onChan n f).mgmt = y.mgmt := rfl
@[simp] theorem Sys.onChan_clk (y : Sys) (n : Nat) (f : Chan → Chan) : (y.onChan n f).clk = y.clk := rfl
@[simp] theorem Sys.onChan_jas (y : Sys) (n : Nat) (f : Chan → Chan) : (y.onChan n f).jas = y.jas := rfl
@[simp] theorem Sys.onChan_net (y : Sys) (n : Nat) (f : Chan → Chan) : (y.onChan n f).net = y.net := rfl
@[simp] theorem Sys.onChan_opal (y : Sys) (n : Nat) (f : Chan → Chan) : (y.onChan n f).opal = y.opal := rfl
@[simp] theorem Sys.onChan_aus (y : Sys) (n : Nat) (f : Chan → Chan) : (y.onChan n f).aus = y.aus := rfl
@[simp] theorem Sys.onChan_dies (y : Sys) (n : Nat) (f : Chan → Chan) : (y.onChan n f).dies = y.dies := rfl
@[simp] theorem Sys.onChan_upd (y : Sys) (n : Nat) (f : Chan → Chan) : (y.onChan n f).upd = y.upd := rfl
@[simp] theorem Sys.onChan_free (y : Sys) (n : Nat) (f : Chan → Chan) : (y.onChan n f).free = y.free := rfl
@[simp] theorem Sys.onChan_out (y : Sys) (n : Nat) (f : Chan → Chan) : (y.onChan n f).out = y.out := rfl
@[simp] theorem Sys.setCx_part (y : Sys) (n : Nat) (x : Cx) : (y.setCx n x).part = y.part := rfl
@[simp] theorem Sys.setCx_now (y : Sys) (n : Nat) (x : Cx) : (y.setCx n x).now = y.now := rfl
@[simp] theorem Sys.setCx_power (y : Sys) (n : Nat) (x : Cx) : (y.setCx n x).power = y.power := rfl
@[simp] theorem Sys.setCx_live (y : Sys) (n : Nat) (x : Cx) : (y.setCx n x).live = y.live := rfl
@[simp] theorem Sys.setCx_shadow (y : Sys) (n : Nat) (x : Cx) : (y.setCx n x).shadow = y.shadow := rfl
@[simp] theorem Sys.setCx_pend (y : Sys) (n : Nat) (x : Cx) : (y.setCx n x).pend = y.pend := rfl
@[simp] theorem Sys.setCx_evs (y : Sys) (n : Nat) (x : Cx) : (y.setCx n x).evs = y.evs := rfl
@[simp] theorem Sys.setCx_mgmt (y : Sys) (n : Nat) (x : Cx) : (y.setCx n x).mgmt = y.mgmt := rfl
@[simp] theorem Sys.setCx_clk (y : Sys) (n : Nat) (x : Cx) : (y.setCx n x).clk = y.clk := rfl
@[simp] theorem Sys.setCx_jas (y : Sys) (n : Nat) (x : Cx) : (y.setCx n x).jas = y.jas := rfl
@[simp] theorem Sys.setCx_net (y : Sys) (n : Nat) (x : Cx) : (y.setCx n x).net = y.net := rfl
@[simp] theorem Sys.setCx_aus (y : Sys) (n : Nat) (x : Cx) : (y.setCx n x).aus = y.aus := rfl
@[simp] theorem Sys.setCx_chans (y : Sys) (n : Nat) (x : Cx) : (y.setCx n x).chans = y.chans := rfl
@[simp] theorem Sys.setCx_dies (y : Sys) (n : Nat) (x : Cx) : (y.setCx n x).dies = y.dies := rfl
@[simp] theorem Sys.setCx_upd (y : Sys) (n : Nat) (x : Cx) : (y.setCx n x).upd = y.upd := rfl
@[simp] theorem Sys.setCx_free (y : Sys) (n : Nat) (x : Cx) : (y.setCx n x).free = y.free := rfl
@[simp] theorem Sys.setCx_out (y : Sys) (n : Nat) (x : Cx) : (y.setCx n x).out = y.out := rfl
@[simp] theorem Sys.onCx_part (y : Sys) (n : Nat) (f : Cx → Cx) : (y.onCx n f).part = y.part := rfl
@[simp] theorem Sys.onCx_now (y : Sys) (n : Nat) (f : Cx → Cx) : (y.onCx n f).now = y.now := rfl
@[simp] theorem Sys.onCx_power (y : Sys) (n : Nat) (f : Cx → Cx) : (y.onCx n f).power = y.power := rfl
@[simp] theorem Sys.onCx_live (y : Sys) (n : Nat) (f : Cx → Cx) : (y.onCx n f).live = y.live := rfl
@[simp] theorem Sys.onCx_shadow (y : Sys) (n : Nat) (f : Cx → Cx) : (y.onCx n f).shadow = y.shadow := rfl
@[simp] theorem Sys.onCx_pend (y : Sys) (n : Nat) (f : Cx → Cx) : (y.onCx n f).pend = y.pend := rfl
@[simp] theorem Sys.onCx_evs (y : Sys) (n : Nat) (f : Cx → Cx) : (y.onCx n f).evs = y.evs := rfl
@[simp] theorem Sys.onCx_mgmt (y : Sys) (n : Nat) (f : Cx → Cx) : (y.onCx n f).mgmt = y.mgmt := rfl
@[simp] theorem Sys.onCx_clk (y : Sys) (n : Nat) (f : Cx → Cx) : (y.onCx n f).clk = y.clk := rfl
@[simp] theorem Sys.onCx_jas (y : Sys) (n : Nat) (f : Cx → Cx) : (y.onCx n f).jas = y.jas := rfl
@[simp] theorem Sys.onCx_net (y : Sys) (n : Nat) (f : Cx → Cx) : (y.onCx n f).net = y.net := rfl
@[simp] theorem Sys.onCx_aus (y : Sys) (n : Nat) (f : Cx → Cx) : (y.onCx n f).aus = y.aus := rfl
@[simp] theorem Sys.onCx_chans (y : Sys) (n : Nat) (f : Cx → Cx) : (y.onCx n f).chans = y.chans := rfl
@[simp] theorem Sys.onCx_dies (y : Sys) (n : Nat) (f : Cx → Cx) : (y.onCx n f).dies = y.dies := rfl
@[simp] theorem Sys.onCx_upd (y : Sys) (n : Nat) (f : Cx → Cx) : (y.onCx n f).upd = y.upd := rfl
@[simp] theorem Sys.onCx_free (y : Sys) (n : Nat) (f : Cx → Cx) : (y.onCx n f).free = y.free := rfl
@[simp] theorem Sys.onCx_out (y : Sys) (n : Nat) (f : Cx → Cx) : (y.onCx n f).out = y.out := rfl
@[simp] theorem Sys.setLy_part (y : Sys) (n : Nat) (x : Ly) : (y.setLy n x).part = y.part := rfl
@[simp] theorem Sys.setLy_now (y : Sys) (n : Nat) (x : Ly) : (y.setLy n x).now = y.now := rfl
@[simp] theorem Sys.setLy_power (y : Sys) (n : Nat) (x : Ly) : (y.setLy n x).power = y.power := rfl
@[simp] theorem Sys.setLy_live (y : Sys) (n : Nat) (x : Ly) : (y.setLy n x).live = y.live := rfl
@[simp] theorem Sys.setLy_shadow (y : Sys) (n : Nat) (x : Ly) : (y.setLy n x).shadow = y.shadow := rfl
@[simp] theorem Sys.setLy_pend (y : Sys) (n : Nat) (x : Ly) : (y.setLy n x).pend = y.pend := rfl
@[simp] theorem Sys.setLy_evs (y : Sys) (n : Nat) (x : Ly) : (y.setLy n x).evs = y.evs := rfl
@[simp] theorem Sys.setLy_mgmt (y : Sys) (n : Nat) (x : Ly) : (y.setLy n x).mgmt = y.mgmt := rfl
@[simp] theorem Sys.setLy_clk (y : Sys) (n : Nat) (x : Ly) : (y.setLy n x).clk = y.clk := rfl
@[simp] theorem Sys.setLy_jas (y : Sys) (n : Nat) (x : Ly) : (y.setLy n x).jas = y.jas := rfl
@[simp] theorem Sys.setLy_net (y : Sys) (n : Nat) (x : Ly) : (y.setLy n x).net = y.net := rfl
@[simp] theorem Sys.setLy_aus (y : Sys) (n : Nat) (x : Ly) : (y.setLy n x).aus = y.aus := rfl
@[simp] theorem Sys.setLy_chans (y : Sys) (n : Nat) (x : Ly) : (y.setLy n x).chans = y.chans := rfl
@[simp] theorem Sys.setLy_dies (y : Sys) (n : Nat) (x : Ly) : (y.setLy n x).dies = y.dies := rfl
@[simp] theorem Sys.setLy_upd (y : Sys) (n : Nat) (x : Ly) : (y.setLy n x).upd = y.upd := rfl
@[simp] theorem Sys.setLy_free (y : Sys) (n : Nat) (x : Ly) : (y.setLy n x).free = y.free := rfl
@[simp] theorem Sys.setLy_out (y : Sys) (n : Nat) (x : Ly) : (y.setLy n x).out = y.out := rfl
@[simp] theorem Sys.onLy_part (y : Sys) (n : Nat) (f : Ly → Ly) : (y.onLy n f).part = y.part := rfl
@[simp] theorem Sys.onLy_now (y : Sys) (n : Nat) (f : Ly → Ly) : (y.onLy n f).now = y.now := rfl
@[simp] theorem Sys.onLy_power (y : Sys) (n : Nat) (f : Ly → Ly) : (y.onLy n f).power = y.power := rfl
@[simp] theorem Sys.onLy_live (y : Sys) (n : Nat) (f : Ly → Ly) : (y.onLy n f).live = y.live := rfl
@[simp] theorem Sys.onLy_shadow (y : Sys) (n : Nat) (f : Ly → Ly) : (y.onLy n f).shadow = y.shadow := rfl
@[simp] theorem Sys.onLy_pend (y : Sys) (n : Nat) (f : Ly → Ly) : (y.onLy n f).pend = y.pend := rfl
@[simp] theorem Sys.onLy_evs (y : Sys) (n : Nat) (f : Ly → Ly) : (y.onLy n f).evs = y.evs := rfl
@[simp] theorem Sys.onLy_mgmt (y : Sys) (n : Nat) (f : Ly → Ly) : (y.onLy n f).mgmt = y.mgmt := rfl
@[simp] theorem Sys.onLy_clk (y : Sys) (n : Nat) (f : Ly → Ly) : (y.onLy n f).clk = y.clk := rfl
@[simp] theorem Sys.onLy_jas (y : Sys) (n : Nat) (f : Ly → Ly) : (y.onLy n f).jas = y.jas := rfl
@[simp] theorem Sys.onLy_net (y : Sys) (n : Nat) (f : Ly → Ly) : (y.onLy n f).net = y.net := rfl
@[simp] theorem Sys.onLy_aus (y : Sys) (n : Nat) (f : Ly → Ly) : (y.onLy n f).aus = y.aus := rfl
@[simp] theorem Sys.onLy_chans (y : Sys) (n : Nat) (f : Ly → Ly) : (y.onLy n f).chans = y.chans := rfl
@[simp] theorem Sys.onLy_dies (y : Sys) (n : Nat) (f : Ly → Ly) : (y.onLy n f).dies = y.dies := rfl
@[simp] theorem Sys.onLy_upd (y : Sys) (n : Nat) (f : Ly → Ly) : (y.onLy n f).upd = y.upd := rfl
@[simp] theorem Sys.onLy_free (y : Sys) (n : Nat) (f : Ly → Ly) : (y.onLy n f).free = y.free := rfl
@[simp] theorem Sys.onLy_out (y : Sys) (n : Nat) (f : Ly → Ly) : (y.onLy n f).out = y.out := rfl
@[simp] theorem Sys.setAu_part (y : Sys) (n : Nat) (x : Au) : (y.setAu n x).part = y.part := rfl
@[simp] theorem Sys.setAu_now (y : Sys) (n : Nat) (x : Au) : (y.setAu n x).now = y.now := rfl
@[simp] theorem Sys.setAu_power (y : Sys) (n : Nat) (x : Au) : (y.setAu n x).power = y.power := rfl
@[simp] theorem Sys.setAu_live (y : Sys) (n : Nat) (x : Au) : (y.setAu n x).live = y.live := rfl
@[simp] theorem Sys.setAu_shadow (y : Sys) (n : Nat) (x : Au) : (y.setAu n x).shadow = y.shadow := rfl
@[simp] theorem Sys.setAu_pend (y : Sys) (n : Nat) (x : Au) : (y.setAu n x).pend = y.pend := rfl
@[simp] theorem Sys.setAu_evs (y : Sys) (n : Nat) (x : Au) : (y.setAu n x).evs = y.evs := rfl
@[simp] theorem Sys.setAu_mgmt (y : Sys) (n : Nat) (x : Au) : (y.setAu n x).mgmt = y.mgmt := rfl
@[simp] theorem Sys.setAu_clk (y : Sys) (n : Nat) (x : Au) : (y.setAu n x).clk = y.clk := rfl
@[simp] theorem Sys.setAu_jas (y : Sys) (n : Nat) (x : Au) : (y.setAu n x).jas = y.jas := rfl
@[simp] theorem Sys.setAu_net (y : Sys) (n : Nat) (x : Au) : (y.setAu n x).net = y.net := rfl
@[simp] theorem Sys.setAu_opal (y : Sys) (n : Nat) (x : Au) : (y.setAu n x).opal = y.opal := rfl
@[simp] theorem Sys.setAu_chans (y : Sys) (n : Nat) (x : Au) : (y.setAu n x).chans = y.chans := rfl
@[simp] theorem Sys.setAu_dies (y : Sys) (n : Nat) (x : Au) : (y.setAu n x).dies = y.dies := rfl
@[simp] theorem Sys.setAu_upd (y : Sys) (n : Nat) (x : Au) : (y.setAu n x).upd = y.upd := rfl
@[simp] theorem Sys.setAu_free (y : Sys) (n : Nat) (x : Au) : (y.setAu n x).free = y.free := rfl
@[simp] theorem Sys.setAu_out (y : Sys) (n : Nat) (x : Au) : (y.setAu n x).out = y.out := rfl
@[simp] theorem Sys.onAu_part (y : Sys) (n : Nat) (f : Au → Au) : (y.onAu n f).part = y.part := rfl
@[simp] theorem Sys.onAu_now (y : Sys) (n : Nat) (f : Au → Au) : (y.onAu n f).now = y.now := rfl
@[simp] theorem Sys.onAu_power (y : Sys) (n : Nat) (f : Au → Au) : (y.onAu n f).power = y.power := rfl
@[simp] theorem Sys.onAu_live (y : Sys) (n : Nat) (f : Au → Au) : (y.onAu n f).live = y.live := rfl
@[simp] theorem Sys.onAu_shadow (y : Sys) (n : Nat) (f : Au → Au) : (y.onAu n f).shadow = y.shadow := rfl
@[simp] theorem Sys.onAu_pend (y : Sys) (n : Nat) (f : Au → Au) : (y.onAu n f).pend = y.pend := rfl
@[simp] theorem Sys.onAu_evs (y : Sys) (n : Nat) (f : Au → Au) : (y.onAu n f).evs = y.evs := rfl
@[simp] theorem Sys.onAu_mgmt (y : Sys) (n : Nat) (f : Au → Au) : (y.onAu n f).mgmt = y.mgmt := rfl
@[simp] theorem Sys.onAu_clk (y : Sys) (n : Nat) (f : Au → Au) : (y.onAu n f).clk = y.clk := rfl
@[simp] theorem Sys.onAu_jas (y : Sys) (n : Nat) (f : Au → Au) : (y.onAu n f).jas = y.jas := rfl
@[simp] theorem Sys.onAu_net (y : Sys) (n : Nat) (f : Au → Au) : (y.onAu n f).net = y.net := rfl
@[simp] theorem Sys.onAu_opal (y : Sys) (n : Nat) (f : Au → Au) : (y.onAu n f).opal = y.opal := rfl
@[simp] theorem Sys.onAu_chans (y : Sys) (n : Nat) (f : Au → Au) : (y.onAu n f).chans = y.chans := rfl
@[simp] theorem Sys.onAu_dies (y : Sys) (n : Nat) (f : Au → Au) : (y.onAu n f).dies = y.dies := rfl
@[simp] theorem Sys.onAu_upd (y : Sys) (n : Nat) (f : Au → Au) : (y.onAu n f).upd = y.upd := rfl
@[simp] theorem Sys.onAu_free (y : Sys) (n : Nat) (f : Au → Au) : (y.onAu n f).free = y.free := rfl
@[simp] theorem Sys.onAu_out (y : Sys) (n : Nat) (f : Au → Au) : (y.onAu n f).out = y.out := rfl
@[simp] theorem Sys.setPort_part (y : Sys) (n : Nat) (x : Port) : (y.setPort n x).part = y.part := rfl
@[simp] theorem Sys.setPort_now (y : Sys) (n : Nat) (x : Port) : (y.setPort n x).now = y.now := rfl
@[simp] theorem Sys.setPort_power (y : Sys) (n : Nat) (x : Port) : (y.setPort n x).power = y.power := rfl
@[simp] theorem Sys.setPort_live (y : Sys) (n : Nat) (x : Port) : (y.setPort n x).live = y.live := rfl
@[simp] theorem Sys.setPort_shadow (y : Sys) (n : Nat) (x : Port) : (y.setPort n x).shadow = y.shadow := rfl
@[simp] theorem Sys.setPort_pend (y : Sys) (n : Nat) (x : Port) : (y.setPort n x).pend = y.pend := rfl
@[simp] theorem Sys.setPort_evs (y : Sys) (n : Nat) (x : Port) : (y.setPort n x).evs = y.evs := rfl
@[simp] theorem Sys.setPort_mgmt (y : Sys) (n : Nat) (x : Port) : (y.setPort n x).mgmt = y.mgmt := rfl
@[simp] theorem Sys.setPort_clk (y : Sys) (n : Nat) (x : Port) : (y.setPort n x).clk = y.clk := rfl
@[simp] theorem Sys.setPort_jas (y : Sys) (n : Nat) (x : Port) : (y.setPort n x).jas = y.jas := rfl
@[simp] theorem Sys.setPort_opal (y : Sys) (n : Nat) (x : Port) : (y.setPort n x).opal = y.opal := rfl
@[simp] theorem Sys.setPort_aus (y : Sys) (n : Nat) (x : Port) : (y.setPort n x).aus = y.aus := rfl
@[simp] theorem Sys.setPort_chans (y : Sys) (n : Nat) (x : Port) : (y.setPort n x).chans = y.chans := rfl
@[simp] theorem Sys.setPort_dies (y : Sys) (n : Nat) (x : Port) : (y.setPort n x).dies = y.dies := rfl
@[simp] theorem Sys.setPort_upd (y : Sys) (n : Nat) (x : Port) : (y.setPort n x).upd = y.upd := rfl
@[simp] theorem Sys.setPort_free (y : Sys) (n : Nat) (x : Port) : (y.setPort n x).free = y.free := rfl
@[simp] theorem Sys.setPort_out (y : Sys) (n : Nat) (x : Port) : (y.setPort n x).out = y.out := rfl
@[simp] theorem Sys.onPort_part (y : Sys) (n : Nat) (f : Port → Port) : (y.onPort n f).part = y.part := rfl
@[simp] theorem Sys.onPort_now (y : Sys) (n : Nat) (f : Port → Port) : (y.onPort n f).now = y.now := rfl
@[simp] theorem Sys.onPort_power (y : Sys) (n : Nat) (f : Port → Port) : (y.onPort n f).power = y.power := rfl
@[simp] theorem Sys.onPort_live (y : Sys) (n : Nat) (f : Port → Port) : (y.onPort n f).live = y.live := rfl
@[simp] theorem Sys.onPort_shadow (y : Sys) (n : Nat) (f : Port → Port) : (y.onPort n f).shadow = y.shadow := rfl
@[simp] theorem Sys.onPort_pend (y : Sys) (n : Nat) (f : Port → Port) : (y.onPort n f).pend = y.pend := rfl
@[simp] theorem Sys.onPort_evs (y : Sys) (n : Nat) (f : Port → Port) : (y.onPort n f).evs = y.evs := rfl
@[simp] theorem Sys.onPort_mgmt (y : Sys) (n : Nat) (f : Port → Port) : (y.onPort n f).mgmt = y.mgmt := rfl
@[simp] theorem Sys.onPort_clk (y : Sys) (n : Nat) (f : Port → Port) : (y.onPort n f).clk = y.clk := rfl
@[simp] theorem Sys.onPort_jas (y : Sys) (n : Nat) (f : Port → Port) : (y.onPort n f).jas = y.jas := rfl
@[simp] theorem Sys.onPort_opal (y : Sys) (n : Nat) (f : Port → Port) : (y.onPort n f).opal = y.opal := rfl
@[simp] theorem Sys.onPort_aus (y : Sys) (n : Nat) (f : Port → Port) : (y.onPort n f).aus = y.aus := rfl
@[simp] theorem Sys.onPort_chans (y : Sys) (n : Nat) (f : Port → Port) : (y.onPort n f).chans = y.chans := rfl
@[simp] theorem Sys.onPort_dies (y : Sys) (n : Nat) (f : Port → Port) : (y.onPort n f).dies = y.dies := rfl
@[simp] theorem Sys.onPort_upd (y : Sys) (n : Nat) (f : Port → Port) : (y.onPort n f).upd = y.upd := rfl
@[simp] theorem Sys.onPort_free (y : Sys) (n : Nat) (f : Port → Port) : (y.onPort n f).free = y.free := rfl
@[simp] theorem Sys.onPort_out (y : Sys) (n : Nat) (f : Port → Port) : (y.onPort n f).out = y.out := rfl
@[simp] theorem Sys.setLane_part (y : Sys) (n : Nat) (x : Lane) : (y.setLane n x).part = y.part := rfl
@[simp] theorem Sys.setLane_now (y : Sys) (n : Nat) (x : Lane) : (y.setLane n x).now = y.now := rfl
@[simp] theorem Sys.setLane_power (y : Sys) (n : Nat) (x : Lane) : (y.setLane n x).power = y.power := rfl
@[simp] theorem Sys.setLane_live (y : Sys) (n : Nat) (x : Lane) : (y.setLane n x).live = y.live := rfl
@[simp] theorem Sys.setLane_shadow (y : Sys) (n : Nat) (x : Lane) : (y.setLane n x).shadow = y.shadow := rfl
@[simp] theorem Sys.setLane_pend (y : Sys) (n : Nat) (x : Lane) : (y.setLane n x).pend = y.pend := rfl
@[simp] theorem Sys.setLane_evs (y : Sys) (n : Nat) (x : Lane) : (y.setLane n x).evs = y.evs := rfl
@[simp] theorem Sys.setLane_mgmt (y : Sys) (n : Nat) (x : Lane) : (y.setLane n x).mgmt = y.mgmt := rfl
@[simp] theorem Sys.setLane_clk (y : Sys) (n : Nat) (x : Lane) : (y.setLane n x).clk = y.clk := rfl
@[simp] theorem Sys.setLane_jas (y : Sys) (n : Nat) (x : Lane) : (y.setLane n x).jas = y.jas := rfl
@[simp] theorem Sys.setLane_opal (y : Sys) (n : Nat) (x : Lane) : (y.setLane n x).opal = y.opal := rfl
@[simp] theorem Sys.setLane_aus (y : Sys) (n : Nat) (x : Lane) : (y.setLane n x).aus = y.aus := rfl
@[simp] theorem Sys.setLane_chans (y : Sys) (n : Nat) (x : Lane) : (y.setLane n x).chans = y.chans := rfl
@[simp] theorem Sys.setLane_dies (y : Sys) (n : Nat) (x : Lane) : (y.setLane n x).dies = y.dies := rfl
@[simp] theorem Sys.setLane_upd (y : Sys) (n : Nat) (x : Lane) : (y.setLane n x).upd = y.upd := rfl
@[simp] theorem Sys.setLane_free (y : Sys) (n : Nat) (x : Lane) : (y.setLane n x).free = y.free := rfl
@[simp] theorem Sys.setLane_out (y : Sys) (n : Nat) (x : Lane) : (y.setLane n x).out = y.out := rfl
@[simp] theorem Sys.onLane_part (y : Sys) (n : Nat) (f : Lane → Lane) : (y.onLane n f).part = y.part := rfl
@[simp] theorem Sys.onLane_now (y : Sys) (n : Nat) (f : Lane → Lane) : (y.onLane n f).now = y.now := rfl
@[simp] theorem Sys.onLane_power (y : Sys) (n : Nat) (f : Lane → Lane) : (y.onLane n f).power = y.power := rfl
@[simp] theorem Sys.onLane_live (y : Sys) (n : Nat) (f : Lane → Lane) : (y.onLane n f).live = y.live := rfl
@[simp] theorem Sys.onLane_shadow (y : Sys) (n : Nat) (f : Lane → Lane) : (y.onLane n f).shadow = y.shadow := rfl
@[simp] theorem Sys.onLane_pend (y : Sys) (n : Nat) (f : Lane → Lane) : (y.onLane n f).pend = y.pend := rfl
@[simp] theorem Sys.onLane_evs (y : Sys) (n : Nat) (f : Lane → Lane) : (y.onLane n f).evs = y.evs := rfl
@[simp] theorem Sys.onLane_mgmt (y : Sys) (n : Nat) (f : Lane → Lane) : (y.onLane n f).mgmt = y.mgmt := rfl
@[simp] theorem Sys.onLane_clk (y : Sys) (n : Nat) (f : Lane → Lane) : (y.onLane n f).clk = y.clk := rfl
@[simp] theorem Sys.onLane_jas (y : Sys) (n : Nat) (f : Lane → Lane) : (y.onLane n f).jas = y.jas := rfl
@[simp] theorem Sys.onLane_opal (y : Sys) (n : Nat) (f : Lane → Lane) : (y.onLane n f).opal = y.opal := rfl
@[simp] theorem Sys.onLane_aus (y : Sys) (n : Nat) (f : Lane → Lane) : (y.onLane n f).aus = y.aus := rfl
@[simp] theorem Sys.onLane_chans (y : Sys) (n : Nat) (f : Lane → Lane) : (y.onLane n f).chans = y.chans := rfl
@[simp] theorem Sys.onLane_dies (y : Sys) (n : Nat) (f : Lane → Lane) : (y.onLane n f).dies = y.dies := rfl
@[simp] theorem Sys.onLane_upd (y : Sys) (n : Nat) (f : Lane → Lane) : (y.onLane n f).upd = y.upd := rfl
@[simp] theorem Sys.onLane_free (y : Sys) (n : Nat) (f : Lane → Lane) : (y.onLane n f).free = y.free := rfl
@[simp] theorem Sys.onLane_out (y : Sys) (n : Nat) (f : Lane → Lane) : (y.onLane n f).out = y.out := rfl
@[simp] theorem Sys.setPol_part (y : Sys) (n : Nat) (x : Pol) : (y.setPol n x).part = y.part := rfl
@[simp] theorem Sys.setPol_now (y : Sys) (n : Nat) (x : Pol) : (y.setPol n x).now = y.now := rfl
@[simp] theorem Sys.setPol_power (y : Sys) (n : Nat) (x : Pol) : (y.setPol n x).power = y.power := rfl
@[simp] theorem Sys.setPol_live (y : Sys) (n : Nat) (x : Pol) : (y.setPol n x).live = y.live := rfl
@[simp] theorem Sys.setPol_shadow (y : Sys) (n : Nat) (x : Pol) : (y.setPol n x).shadow = y.shadow := rfl
@[simp] theorem Sys.setPol_pend (y : Sys) (n : Nat) (x : Pol) : (y.setPol n x).pend = y.pend := rfl
@[simp] theorem Sys.setPol_evs (y : Sys) (n : Nat) (x : Pol) : (y.setPol n x).evs = y.evs := rfl
@[simp] theorem Sys.setPol_mgmt (y : Sys) (n : Nat) (x : Pol) : (y.setPol n x).mgmt = y.mgmt := rfl
@[simp] theorem Sys.setPol_clk (y : Sys) (n : Nat) (x : Pol) : (y.setPol n x).clk = y.clk := rfl
@[simp] theorem Sys.setPol_jas (y : Sys) (n : Nat) (x : Pol) : (y.setPol n x).jas = y.jas := rfl
@[simp] theorem Sys.setPol_opal (y : Sys) (n : Nat) (x : Pol) : (y.setPol n x).opal = y.opal := rfl
@[simp] theorem Sys.setPol_aus (y : Sys) (n : Nat) (x : Pol) : (y.setPol n x).aus = y.aus := rfl
@[simp] theorem Sys.setPol_chans (y : Sys) (n : Nat) (x : Pol) : (y.setPol n x).chans = y.chans := rfl
@[simp] theorem Sys.setPol_dies (y : Sys) (n : Nat) (x : Pol) : (y.setPol n x).dies = y.dies := rfl
@[simp] theorem Sys.setPol_upd (y : Sys) (n : Nat) (x : Pol) : (y.setPol n x).upd = y.upd := rfl
@[simp] theorem Sys.setPol_free (y : Sys) (n : Nat) (x : Pol) : (y.setPol n x).free = y.free := rfl
@[simp] theorem Sys.setPol_out (y : Sys) (n : Nat) (x : Pol) : (y.setPol n x).out = y.out := rfl
@[simp] theorem Sys.setTb_part (y : Sys) (n : Nat) (x : Tb) : (y.setTb n x).part = y.part := rfl
@[simp] theorem Sys.setTb_now (y : Sys) (n : Nat) (x : Tb) : (y.setTb n x).now = y.now := rfl
@[simp] theorem Sys.setTb_power (y : Sys) (n : Nat) (x : Tb) : (y.setTb n x).power = y.power := rfl
@[simp] theorem Sys.setTb_live (y : Sys) (n : Nat) (x : Tb) : (y.setTb n x).live = y.live := rfl
@[simp] theorem Sys.setTb_shadow (y : Sys) (n : Nat) (x : Tb) : (y.setTb n x).shadow = y.shadow := rfl
@[simp] theorem Sys.setTb_pend (y : Sys) (n : Nat) (x : Tb) : (y.setTb n x).pend = y.pend := rfl
@[simp] theorem Sys.setTb_evs (y : Sys) (n : Nat) (x : Tb) : (y.setTb n x).evs = y.evs := rfl
@[simp] theorem Sys.setTb_mgmt (y : Sys) (n : Nat) (x : Tb) : (y.setTb n x).mgmt = y.mgmt := rfl
@[simp] theorem Sys.setTb_clk (y : Sys) (n : Nat) (x : Tb) : (y.setTb n x).clk = y.clk := rfl
@[simp] theorem Sys.setTb_net (y : Sys) (n : Nat) (x : Tb) : (y.setTb n x).net = y.net := rfl
@[simp] theorem Sys.setTb_opal (y : Sys) (n : Nat) (x : Tb) : (y.setTb n x).opal = y.opal := rfl
@[simp] theorem Sys.setTb_aus (y : Sys) (n : Nat) (x : Tb) : (y.setTb n x).aus = y.aus := rfl
@[simp] theorem Sys.setTb_chans (y : Sys) (n : Nat) (x : Tb) : (y.setTb n x).chans = y.chans := rfl
@[simp] theorem Sys.setTb_dies (y : Sys) (n : Nat) (x : Tb) : (y.setTb n x).dies = y.dies := rfl
@[simp] theorem Sys.setTb_upd (y : Sys) (n : Nat) (x : Tb) : (y.setTb n x).upd = y.upd := rfl
@[simp] theorem Sys.setTb_free (y : Sys) (n : Nat) (x : Tb) : (y.setTb n x).free = y.free := rfl
@[simp] theorem Sys.setTb_out (y : Sys) (n : Nat) (x : Tb) : (y.setTb n x).out = y.out := rfl
@[simp] theorem Sys.onTb_part (y : Sys) (n : Nat) (f : Tb → Tb) : (y.onTb n f).part = y.part := rfl
@[simp] theorem Sys.onTb_now (y : Sys) (n : Nat) (f : Tb → Tb) : (y.onTb n f).now = y.now := rfl
@[simp] theorem Sys.onTb_power (y : Sys) (n : Nat) (f : Tb → Tb) : (y.onTb n f).power = y.power := rfl
@[simp] theorem Sys.onTb_live (y : Sys) (n : Nat) (f : Tb → Tb) : (y.onTb n f).live = y.live := rfl
@[simp] theorem Sys.onTb_shadow (y : Sys) (n : Nat) (f : Tb → Tb) : (y.onTb n f).shadow = y.shadow := rfl
@[simp] theorem Sys.onTb_pend (y : Sys) (n : Nat) (f : Tb → Tb) : (y.onTb n f).pend = y.pend := rfl
@[simp] theorem Sys.onTb_evs (y : Sys) (n : Nat) (f : Tb → Tb) : (y.onTb n f).evs = y.evs := rfl
@[simp] theorem Sys.onTb_mgmt (y : Sys) (n : Nat) (f : Tb → Tb) : (y.onTb n f).mgmt = y.mgmt := rfl
@[simp] theorem Sys.onTb_clk (y : Sys) (n : Nat) (f : Tb → Tb) : (y.onTb n f).clk = y.clk := rfl
@[simp] theorem Sys.onTb_net (y : Sys) (n : Nat) (f : Tb → Tb) : (y.onTb n f).net = y.net := rfl
@[simp] theorem Sys.onTb_opal (y : Sys) (n : Nat) (f : Tb → Tb) : (y.onTb n f).opal = y.opal := rfl
@[simp] theorem Sys.onTb_aus (y : Sys) (n : Nat) (f : Tb → Tb) : (y.onTb n f).aus = y.aus := rfl
@[simp] theorem Sys.onTb_chans (y : Sys) (n : Nat) (f : Tb → Tb) : (y.onTb n f).chans = y.chans := rfl
@[simp] theorem Sys.onTb_dies (y : Sys) (n : Nat) (f : Tb → Tb) : (y.onTb n f).dies = y.dies := rfl
@[simp] theorem Sys.onTb_upd (y : Sys) (n : Nat) (f : Tb → Tb) : (y.onTb n f).upd = y.upd := rfl
@[simp] theorem Sys.onTb_free (y : Sys) (n : Nat) (f : Tb → Tb) : (y.onTb n f).free = y.free := rfl
@[simp] theorem Sys.onTb_out (y : Sys) (n : Nat) (f : Tb → Tb) : (y.onTb n f).out = y.out := rfl
@[simp] theorem Sys.setPll_part (y : Sys) (d p : Nat) (x : Pll) : (y.setPll d p x).part = y.part := rfl
@[simp] theorem Sys.setPll_now (y : Sys) (d p : Nat) (x : Pll) : (y.setPll d p x).now = y.now := rfl
@[simp] theorem Sys.setPll_power (y : Sys) (d p : Nat) (x : Pll) : (y.setPll d p x).power = y.power := rfl
@[simp] theorem Sys.setPll_live (y : Sys) (d p : Nat) (x : Pll) : (y.setPll d p x).live = y.live := rfl
@[simp] theorem Sys.setPll_shadow (y : Sys) (d p : Nat) (x : Pll) : (y.setPll d p x).shadow = y.shadow := rfl
@[simp] theorem Sys.setPll_pend (y : Sys) (d p : Nat) (x : Pll) : (y.setPll d p x).pend = y.pend := rfl
@[simp] theorem Sys.setPll_evs (y : Sys) (d p : Nat) (x : Pll) : (y.setPll d p x).evs = y.evs := rfl
@[simp] theorem Sys.setPll_mgmt (y : Sys) (d p : Nat) (x : Pll) : (y.setPll d p x).mgmt = y.mgmt := rfl
@[simp] theorem Sys.setPll_jas (y : Sys) (d p : Nat) (x : Pll) : (y.setPll d p x).jas = y.jas := rfl
@[simp] theorem Sys.setPll_net (y : Sys) (d p : Nat) (x : Pll) : (y.setPll d p x).net = y.net := rfl
@[simp] theorem Sys.setPll_opal (y : Sys) (d p : Nat) (x : Pll) : (y.setPll d p x).opal = y.opal := rfl
@[simp] theorem Sys.setPll_aus (y : Sys) (d p : Nat) (x : Pll) : (y.setPll d p x).aus = y.aus := rfl
@[simp] theorem Sys.setPll_chans (y : Sys) (d p : Nat) (x : Pll) : (y.setPll d p x).chans = y.chans := rfl
@[simp] theorem Sys.setPll_dies (y : Sys) (d p : Nat) (x : Pll) : (y.setPll d p x).dies = y.dies := rfl
@[simp] theorem Sys.setPll_upd (y : Sys) (d p : Nat) (x : Pll) : (y.setPll d p x).upd = y.upd := rfl
@[simp] theorem Sys.setPll_free (y : Sys) (d p : Nat) (x : Pll) : (y.setPll d p x).free = y.free := rfl
@[simp] theorem Sys.setPll_out (y : Sys) (d p : Nat) (x : Pll) : (y.setPll d p x).out = y.out := rfl
@[simp] theorem Sys.onPll_part (y : Sys) (d p : Nat) (f : Pll → Pll) : (y.onPll d p f).part = y.part := rfl
@[simp] theorem Sys.onPll_now (y : Sys) (d p : Nat) (f : Pll → Pll) : (y.onPll d p f).now = y.now := rfl
@[simp] theorem Sys.onPll_power (y : Sys) (d p : Nat) (f : Pll → Pll) : (y.onPll d p f).power = y.power := rfl
@[simp] theorem Sys.onPll_live (y : Sys) (d p : Nat) (f : Pll → Pll) : (y.onPll d p f).live = y.live := rfl
@[simp] theorem Sys.onPll_shadow (y : Sys) (d p : Nat) (f : Pll → Pll) : (y.onPll d p f).shadow = y.shadow := rfl
@[simp] theorem Sys.onPll_pend (y : Sys) (d p : Nat) (f : Pll → Pll) : (y.onPll d p f).pend = y.pend := rfl
@[simp] theorem Sys.onPll_evs (y : Sys) (d p : Nat) (f : Pll → Pll) : (y.onPll d p f).evs = y.evs := rfl
@[simp] theorem Sys.onPll_mgmt (y : Sys) (d p : Nat) (f : Pll → Pll) : (y.onPll d p f).mgmt = y.mgmt := rfl
@[simp] theorem Sys.onPll_jas (y : Sys) (d p : Nat) (f : Pll → Pll) : (y.onPll d p f).jas = y.jas := rfl
@[simp] theorem Sys.onPll_net (y : Sys) (d p : Nat) (f : Pll → Pll) : (y.onPll d p f).net = y.net := rfl
@[simp] theorem Sys.onPll_opal (y : Sys) (d p : Nat) (f : Pll → Pll) : (y.onPll d p f).opal = y.opal := rfl
@[simp] theorem Sys.onPll_aus (y : Sys) (d p : Nat) (f : Pll → Pll) : (y.onPll d p f).aus = y.aus := rfl
@[simp] theorem Sys.onPll_chans (y : Sys) (d p : Nat) (f : Pll → Pll) : (y.onPll d p f).chans = y.chans := rfl
@[simp] theorem Sys.onPll_dies (y : Sys) (d p : Nat) (f : Pll → Pll) : (y.onPll d p f).dies = y.dies := rfl
@[simp] theorem Sys.onPll_upd (y : Sys) (d p : Nat) (f : Pll → Pll) : (y.onPll d p f).upd = y.upd := rfl
@[simp] theorem Sys.onPll_free (y : Sys) (d p : Nat) (f : Pll → Pll) : (y.onPll d p f).free = y.free := rfl
@[simp] theorem Sys.onPll_out (y : Sys) (d p : Nat) (f : Pll → Pll) : (y.onPll d p f).out = y.out := rfl
@[simp] theorem Sys.setVal_part (y : Sys) (k : Nat) (v : Val) : (y.setVal k v).part = y.part := rfl
@[simp] theorem Sys.setVal_now (y : Sys) (k : Nat) (v : Val) : (y.setVal k v).now = y.now := rfl
@[simp] theorem Sys.setVal_power (y : Sys) (k : Nat) (v : Val) : (y.setVal k v).power = y.power := rfl
@[simp] theorem Sys.setVal_shadow (y : Sys) (k : Nat) (v : Val) : (y.setVal k v).shadow = y.shadow := rfl
@[simp] theorem Sys.setVal_pend (y : Sys) (k : Nat) (v : Val) : (y.setVal k v).pend = y.pend := rfl
@[simp] theorem Sys.setVal_evs (y : Sys) (k : Nat) (v : Val) : (y.setVal k v).evs = y.evs := rfl
@[simp] theorem Sys.setVal_mgmt (y : Sys) (k : Nat) (v : Val) : (y.setVal k v).mgmt = y.mgmt := rfl
@[simp] theorem Sys.setVal_clk (y : Sys) (k : Nat) (v : Val) : (y.setVal k v).clk = y.clk := rfl
@[simp] theorem Sys.setVal_jas (y : Sys) (k : Nat) (v : Val) : (y.setVal k v).jas = y.jas := rfl
@[simp] theorem Sys.setVal_net (y : Sys) (k : Nat) (v : Val) : (y.setVal k v).net = y.net := rfl
@[simp] theorem Sys.setVal_opal (y : Sys) (k : Nat) (v : Val) : (y.setVal k v).opal = y.opal := rfl
@[simp] theorem Sys.setVal_aus (y : Sys) (k : Nat) (v : Val) : (y.setVal k v).aus = y.aus := rfl
@[simp] theorem Sys.setVal_chans (y : Sys) (k : Nat) (v : Val) : (y.setVal k v).chans = y.chans := rfl
@[simp] theorem Sys.setVal_dies (y : Sys) (k : Nat) (v : Val) : (y.setVal k v).dies = y.dies := rfl
@[simp] theorem Sys.setVal_upd (y : Sys) (k : Nat) (v : Val) : (y.setVal k v).upd = y.upd := rfl
@[simp] theorem Sys.setVal_free (y : Sys) (k : Nat) (v : Val) : (y.setVal k v).free = y.free := rfl
@[simp] theorem Sys.setVal_out (y : Sys) (k : Nat) (v : Val) : (y.setVal k v).out = y.out := rfl
@[simp] theorem Sys.setInt_part (y : Sys) (k : Nat) (i : Int) : (y.setInt k i).part = y.part := rfl
@[simp] theorem Sys.setInt_now (y : Sys) (k : Nat) (i : Int) : (y.setInt k i).now = y.now := rfl
@[simp] theorem Sys.setInt_power (y : Sys) (k : Nat) (i : Int) : (y.setInt k i).power = y.power := rfl
@[simp] theorem Sys.setInt_shadow (y : Sys) (k : Nat) (i : Int) : (y.setInt k i).shadow = y.shadow := rfl
@[simp] theorem Sys.setInt_pend (y : Sys) (k : Nat) (i : Int) : (y.setInt k i).pend = y.pend := rfl
@[simp] theorem Sys.setInt_evs (y : Sys) (k : Nat) (i : Int) : (y.setInt k i).evs = y.evs := rfl
@[simp] theorem Sys.setInt_mgmt (y : Sys) (k : Nat) (i : Int) : (y.setInt k i).mgmt = y.mgmt := rfl
@[simp] theorem Sys.setInt_clk (y : Sys) (k : Nat) (i : Int) : (y.setInt k i).clk = y.clk := rfl
@[simp] theorem Sys.setInt_jas (y : Sys) (k : Nat) (i : Int) : (y.setInt k i).jas = y.jas := rfl
@[simp] theorem Sys.setInt_net (y : Sys) (k : Nat) (i : Int) : (y.setInt k i).net = y.net := rfl
@[simp] theorem Sys.setInt_opal (y : Sys) (k : Nat) (i : Int) : (y.setInt k i).opal = y.opal := rfl
@[simp] theorem Sys.setInt_aus (y : Sys) (k : Nat) (i : Int) : (y.setInt k i).aus = y.aus := rfl
@[simp] theorem Sys.setInt_chans (y : Sys) (k : Nat) (i : Int) : (y.setInt k i).chans = y.chans := rfl
@[simp] theorem Sys.setInt_dies (y : Sys) (k : Nat) (i : Int) : (y.setInt k i).dies = y.dies := rfl
@[simp] theorem Sys.setInt_upd (y : Sys) (k : Nat) (i : Int) : (y.setInt k i).upd = y.upd := rfl
@[simp] theorem Sys.setInt_free (y : Sys) (k : Nat) (i : Int) : (y.setInt k i).free = y.free := rfl
@[simp] theorem Sys.setInt_out (y : Sys) (k : Nat) (i : Int) : (y.setInt k i).out = y.out := rfl
@[simp] theorem Sys.setBytes_part (y : Sys) (k : Nat) (b : List Byte) : (y.setBytes k b).part = y.part := rfl
@[simp] theorem Sys.setBytes_now (y : Sys) (k : Nat) (b : List Byte) : (y.setBytes k b).now = y.now := rfl
@[simp] theorem Sys.setBytes_power (y : Sys) (k : Nat) (b : List Byte) : (y.setBytes k b).power = y.power := rfl
@[simp] theorem Sys.setBytes_shadow (y : Sys) (k : Nat) (b : List Byte) : (y.setBytes k b).shadow = y.shadow := rfl
@[simp] theorem Sys.setBytes_pend (y : Sys) (k : Nat) (b : List Byte) : (y.setBytes k b).pend = y.pend := rfl
@[simp] theorem Sys.setBytes_evs (y : Sys) (k : Nat) (b : List Byte) : (y.setBytes k b).evs = y.evs := rfl
@[simp] theorem Sys.setBytes_mgmt (y : Sys) (k : Nat) (b : List Byte) : (y.setBytes k b).mgmt = y.mgmt := rfl
@[simp] theorem Sys.setBytes_clk (y : Sys) (k : Nat) (b : List Byte) : (y.setBytes k b).clk = y.clk := rfl
@[simp] theorem Sys.setBytes_jas (y : Sys) (k : Nat) (b : List Byte) : (y.setBytes k b).jas = y.jas := rfl
@[simp] theorem Sys.setBytes_net (y : Sys) (k : Nat) (b : List Byte) : (y.setBytes k b).net = y.net := rfl
@[simp] theorem Sys.setBytes_opal (y : Sys) (k : Nat) (b : List Byte) : (y.setBytes k b).opal = y.opal := rfl
@[simp] theorem Sys.setBytes_aus (y : Sys) (k : Nat) (b : List Byte) : (y.setBytes k b).aus = y.aus := rfl
@[simp] theorem Sys.setBytes_chans (y : Sys) (k : Nat) (b : List Byte) : (y.setBytes k b).chans = y.chans := rfl
@[simp] theorem Sys.setBytes_dies (y : Sys) (k : Nat) (b : List Byte) : (y.setBytes k b).dies = y.dies := rfl
@[simp] theorem Sys.setBytes_upd (y : Sys) (k : Nat) (b : List Byte) : (y.setBytes k b).upd = y.upd := rfl
@[simp] theorem Sys.setBytes_free (y : Sys) (k : Nat) (b : List Byte) : (y.setBytes k b).free = y.free := rfl
@[simp] theorem Sys.setBytes_out (y : Sys) (k : Nat) (b : List Byte) : (y.setBytes k b).out = y.out := rfl
@[simp] theorem Sys.bump_part (y : Sys) (k n : Nat) : (y.bump k n).part = y.part := rfl
@[simp] theorem Sys.bump_now (y : Sys) (k n : Nat) : (y.bump k n).now = y.now := rfl
@[simp] theorem Sys.bump_power (y : Sys) (k n : Nat) : (y.bump k n).power = y.power := rfl
@[simp] theorem Sys.bump_shadow (y : Sys) (k n : Nat) : (y.bump k n).shadow = y.shadow := rfl
@[simp] theorem Sys.bump_pend (y : Sys) (k n : Nat) : (y.bump k n).pend = y.pend := rfl
@[simp] theorem Sys.bump_evs (y : Sys) (k n : Nat) : (y.bump k n).evs = y.evs := rfl
@[simp] theorem Sys.bump_mgmt (y : Sys) (k n : Nat) : (y.bump k n).mgmt = y.mgmt := rfl
@[simp] theorem Sys.bump_clk (y : Sys) (k n : Nat) : (y.bump k n).clk = y.clk := rfl
@[simp] theorem Sys.bump_jas (y : Sys) (k n : Nat) : (y.bump k n).jas = y.jas := rfl
@[simp] theorem Sys.bump_net (y : Sys) (k n : Nat) : (y.bump k n).net = y.net := rfl
@[simp] theorem Sys.bump_opal (y : Sys) (k n : Nat) : (y.bump k n).opal = y.opal := rfl
@[simp] theorem Sys.bump_aus (y : Sys) (k n : Nat) : (y.bump k n).aus = y.aus := rfl
@[simp] theorem Sys.bump_chans (y : Sys) (k n : Nat) : (y.bump k n).chans = y.chans := rfl
@[simp] theorem Sys.bump_dies (y : Sys) (k n : Nat) : (y.bump k n).dies = y.dies := rfl
@[simp] theorem Sys.bump_upd (y : Sys) (k n : Nat) : (y.bump k n).upd = y.upd := rfl
@[simp] theorem Sys.bump_free (y : Sys) (k n : Nat) : (y.bump k n).free = y.free := rfl
@[simp] theorem Sys.bump_out (y : Sys) (k n : Nat) : (y.bump k n).out = y.out := rfl
@[simp] theorem Sys.setShadow_part (y : Sys) (k : Nat) (v : Val) : (y.setShadow k v).part = y.part := rfl
@[simp] theorem Sys.setShadow_now (y : Sys) (k : Nat) (v : Val) : (y.setShadow k v).now = y.now := rfl
@[simp] theorem Sys.setShadow_power (y : Sys) (k : Nat) (v : Val) : (y.setShadow k v).power = y.power := rfl
@[simp] theorem Sys.setShadow_live (y : Sys) (k : Nat) (v : Val) : (y.setShadow k v).live = y.live := rfl
@[simp] theorem Sys.setShadow_pend (y : Sys) (k : Nat) (v : Val) : (y.setShadow k v).pend = y.pend := rfl
@[simp] theorem Sys.setShadow_evs (y : Sys) (k : Nat) (v : Val) : (y.setShadow k v).evs = y.evs := rfl
@[simp] theorem Sys.setShadow_mgmt (y : Sys) (k : Nat) (v : Val) : (y.setShadow k v).mgmt = y.mgmt := rfl
@[simp] theorem Sys.setShadow_clk (y : Sys) (k : Nat) (v : Val) : (y.setShadow k v).clk = y.clk := rfl
@[simp] theorem Sys.setShadow_jas (y : Sys) (k : Nat) (v : Val) : (y.setShadow k v).jas = y.jas := rfl
@[simp] theorem Sys.setShadow_net (y : Sys) (k : Nat) (v : Val) : (y.setShadow k v).net = y.net := rfl
@[simp] theorem Sys.setShadow_opal (y : Sys) (k : Nat) (v : Val) : (y.setShadow k v).opal = y.opal := rfl
@[simp] theorem Sys.setShadow_aus (y : Sys) (k : Nat) (v : Val) : (y.setShadow k v).aus = y.aus := rfl
@[simp] theorem Sys.setShadow_chans (y : Sys) (k : Nat) (v : Val) : (y.setShadow k v).chans = y.chans := rfl
@[simp] theorem Sys.setShadow_dies (y : Sys) (k : Nat) (v : Val) : (y.setShadow k v).dies = y.dies := rfl
@[simp] theorem Sys.setShadow_upd (y : Sys) (k : Nat) (v : Val) : (y.setShadow k v).upd = y.upd := rfl
@[simp] theorem Sys.setShadow_free (y : Sys) (k : Nat) (v : Val) : (y.setShadow k v).free = y.free := rfl
@[simp] theorem Sys.setShadow_out (y : Sys) (k : Nat) (v : Val) : (y.setShadow k v).out = y.out := rfl
@[simp] theorem Sys.raise_part (y : Sys) (c d a : Nat) : (y.raise c d a).part = y.part := rfl
@[simp] theorem Sys.raise_now (y : Sys) (c d a : Nat) : (y.raise c d a).now = y.now := rfl
@[simp] theorem Sys.raise_power (y : Sys) (c d a : Nat) : (y.raise c d a).power = y.power := rfl
@[simp] theorem Sys.raise_live (y : Sys) (c d a : Nat) : (y.raise c d a).live = y.live := rfl
@[simp] theorem Sys.raise_shadow (y : Sys) (c d a : Nat) : (y.raise c d a).shadow = y.shadow := rfl
@[simp] theorem Sys.raise_pend (y : Sys) (c d a : Nat) : (y.raise c d a).pend = y.pend := rfl
@[simp] theorem Sys.raise_mgmt (y : Sys) (c d a : Nat) : (y.raise c d a).mgmt = y.mgmt := rfl
@[simp] theorem Sys.raise_clk (y : Sys) (c d a : Nat) : (y.raise c d a).clk = y.clk := rfl
@[simp] theorem Sys.raise_jas (y : Sys) (c d a : Nat) : (y.raise c d a).jas = y.jas := rfl
@[simp] theorem Sys.raise_net (y : Sys) (c d a : Nat) : (y.raise c d a).net = y.net := rfl
@[simp] theorem Sys.raise_opal (y : Sys) (c d a : Nat) : (y.raise c d a).opal = y.opal := rfl
@[simp] theorem Sys.raise_aus (y : Sys) (c d a : Nat) : (y.raise c d a).aus = y.aus := rfl
@[simp] theorem Sys.raise_chans (y : Sys) (c d a : Nat) : (y.raise c d a).chans = y.chans := rfl
@[simp] theorem Sys.raise_dies (y : Sys) (c d a : Nat) : (y.raise c d a).dies = y.dies := rfl
@[simp] theorem Sys.raise_upd (y : Sys) (c d a : Nat) : (y.raise c d a).upd = y.upd := rfl
@[simp] theorem Sys.raise_free (y : Sys) (c d a : Nat) : (y.raise c d a).free = y.free := rfl
@[simp] theorem Sys.raise_out (y : Sys) (c d a : Nat) : (y.raise c d a).out = y.out := rfl
@[simp] theorem Sys.raiseLimited_part (y : Sys) (c k d a : Nat) : (y.raiseLimited c k d a).part = y.part := by unfold Sys.raiseLimited; split <;> rfl
@[simp] theorem Sys.raiseLimited_now (y : Sys) (c k d a : Nat) : (y.raiseLimited c k d a).now = y.now := by unfold Sys.raiseLimited; split <;> rfl
@[simp] theorem Sys.raiseLimited_power (y : Sys) (c k d a : Nat) : (y.raiseLimited c k d a).power = y.power := by unfold Sys.raiseLimited; split <;> rfl
@[simp] theorem Sys.raiseLimited_live (y : Sys) (c k d a : Nat) : (y.raiseLimited c k d a).live = y.live := by unfold Sys.raiseLimited; split <;> rfl
@[simp] theorem Sys.raiseLimited_shadow (y : Sys) (c k d a : Nat) : (y.raiseLimited c k d a).shadow = y.shadow := by unfold Sys.raiseLimited; split <;> rfl
@[simp] theorem Sys.raiseLimited_pend (y : Sys) (c k d a : Nat) : (y.raiseLimited c k d a).pend = y.pend := by unfold Sys.raiseLimited; split <;> rfl
@[simp] theorem Sys.raiseLimited_mgmt (y : Sys) (c k d a : Nat) : (y.raiseLimited c k d a).mgmt = y.mgmt := by unfold Sys.raiseLimited; split <;> rfl
@[simp] theorem Sys.raiseLimited_clk (y : Sys) (c k d a : Nat) : (y.raiseLimited c k d a).clk = y.clk := by unfold Sys.raiseLimited; split <;> rfl
@[simp] theorem Sys.raiseLimited_jas (y : Sys) (c k d a : Nat) : (y.raiseLimited c k d a).jas = y.jas := by unfold Sys.raiseLimited; split <;> rfl
@[simp] theorem Sys.raiseLimited_net (y : Sys) (c k d a : Nat) : (y.raiseLimited c k d a).net = y.net := by unfold Sys.raiseLimited; split <;> rfl
@[simp] theorem Sys.raiseLimited_opal (y : Sys) (c k d a : Nat) : (y.raiseLimited c k d a).opal = y.opal := by unfold Sys.raiseLimited; split <;> rfl
@[simp] theorem Sys.raiseLimited_aus (y : Sys) (c k d a : Nat) : (y.raiseLimited c k d a).aus = y.aus := by unfold Sys.raiseLimited; split <;> rfl
@[simp] theorem Sys.raiseLimited_chans (y : Sys) (c k d a : Nat) : (y.raiseLimited c k d a).chans = y.chans := by unfold Sys.raiseLimited; split <;> rfl
@[simp] theorem Sys.raiseLimited_dies (y : Sys) (c k d a : Nat) : (y.raiseLimited c k d a).dies = y.dies := by unfold Sys.raiseLimited; split <;> rfl
@[simp] theorem Sys.raiseLimited_upd (y : Sys) (c k d a : Nat) : (y.raiseLimited c k d a).upd = y.upd := by unfold Sys.raiseLimited; split <;> rfl
@[simp] theorem Sys.raiseLimited_free (y : Sys) (c k d a : Nat) : (y.raiseLimited c k d a).free = y.free := by unfold Sys.raiseLimited; split <;> rfl
@[simp] theorem Sys.raiseLimited_out (y : Sys) (c k d a : Nat) : (y.raiseLimited c k d a).out = y.out := by unfold Sys.raiseLimited; split <;> rfl
@[simp] theorem Sys.elapse_now' (y : Sys) (dt : Nat) : (y.elapse dt).now = y.now + dt := rfl
@[simp] theorem Sys.elapse_out' (y : Sys) (dt : Nat) : (y.elapse dt).out = [] := rfl
@[simp] theorem Sys.emit_out' (y : Sys) (o : Out) : (y.emit o).out = y.out ++ [o] := rfl
@[simp] theorem Sys.fresh_free' (y : Sys) : y.fresh.free = y.free + 1 := rfl
@[simp] theorem Sys.raise_raised (y : Sys) (c d a : Nat) : (y.raise c d a).evs.raised = y.evs.raised ++ [{ code := c, die := d, arg := a, t := y.now }] := rfl

/-! ### Units and objects after updates -/

@[simp] theorem Sys.elapse_die_read (y : Sys) (dt : Nat) (d' : Nat) : (y.elapse dt).die d' = y.die d' := rfl
@[simp] theorem Sys.elapse_chan_read (y : Sys) (dt : Nat) (n' : Nat) : (y.elapse dt).chan n' = y.chan n' := rfl
@[simp] theorem Sys.elapse_cx_read (y : Sys) (dt : Nat) (n' : Nat) : (y.elapse dt).cx n' = y.cx n' := rfl
@[simp] theorem Sys.elapse_ly_read (y : Sys) (dt : Nat) (n' : Nat) : (y.elapse dt).ly n' = y.ly n' := rfl
@[simp] theorem Sys.elapse_au_read (y : Sys) (dt : Nat) (n' : Nat) : (y.elapse dt).au n' = y.au n' := rfl
@[simp] theorem Sys.elapse_port_read (y : Sys) (dt : Nat) (n' : Nat) : (y.elapse dt).port n' = y.port n' := rfl
@[simp] theorem Sys.elapse_lane_read (y : Sys) (dt : Nat) (n' : Nat) : (y.elapse dt).lane n' = y.lane n' := rfl
@[simp] theorem Sys.elapse_pol_read (y : Sys) (dt : Nat) (n' : Nat) : (y.elapse dt).pol n' = y.pol n' := rfl
@[simp] theorem Sys.elapse_tb_read (y : Sys) (dt : Nat) (n' : Nat) : (y.elapse dt).tb n' = y.tb n' := rfl
@[simp] theorem Sys.elapse_pll_read (y : Sys) (dt : Nat) (d' p' : Nat) : (y.elapse dt).pll d' p' = y.pll d' p' := rfl
@[simp] theorem Sys.elapse_val_read (y : Sys) (dt : Nat) (k' : Nat) : (y.elapse dt).val k' = y.val k' := rfl
@[simp] theorem Sys.elapse_int_read (y : Sys) (dt : Nat) (k' : Nat) : (y.elapse dt).int k' = y.int k' := rfl
@[simp] theorem Sys.elapse_nat_read (y : Sys) (dt : Nat) (k' : Nat) : (y.elapse dt).nat k' = y.nat k' := rfl
@[simp] theorem Sys.elapse_bytes_read (y : Sys) (dt : Nat) (k' : Nat) : (y.elapse dt).bytes k' = y.bytes k' := rfl
@[simp] theorem Sys.elapse_flag_read (y : Sys) (dt : Nat) (k' : Nat) : (y.elapse dt).flag k' = y.flag k' := rfl
@[simp] theorem Sys.fresh_die_read (y : Sys)  (d' : Nat) : (y.fresh).die d' = y.die d' := rfl
@[simp] theorem Sys.fresh_chan_read (y : Sys)  (n' : Nat) : (y.fresh).chan n' = y.chan n' := rfl
@[simp] theorem Sys.fresh_cx_read (y : Sys)  (n' : Nat) : (y.fresh).cx n' = y.cx n' := rfl
@[simp] theorem Sys.fresh_ly_read (y : Sys)  (n' : Nat) : (y.fresh).ly n' = y.ly n' := rfl
@[simp] theorem Sys.fresh_au_read (y : Sys)  (n' : Nat) : (y.fresh).au n' = y.au n' := rfl
@[simp] theorem Sys.fresh_port_read (y : Sys)  (n' : Nat) : (y.fresh).port n' = y.port n' := rfl
@[simp] theorem Sys.fresh_lane_read (y : Sys)  (n' : Nat) : (y.fresh).lane n' = y.lane n' := rfl
@[simp] theorem Sys.fresh_pol_read (y : Sys)  (n' : Nat) : (y.fresh).pol n' = y.pol n' := rfl
@[simp] theorem Sys.fresh_tb_read (y : Sys)  (n' : Nat) : (y.fresh).tb n' = y.tb n' := rfl
@[simp] theorem Sys.fresh_pll_read (y : Sys)  (d' p' : Nat) : (y.fresh).pll d' p' = y.pll d' p' := rfl
@[simp] theorem Sys.fresh_val_read (y : Sys)  (k' : Nat) : (y.fresh).val k' = y.val k' := rfl
@[simp] theorem Sys.fresh_int_read (y : Sys)  (k' : Nat) : (y.fresh).int k' = y.int k' := rfl
@[simp] theorem Sys.fresh_nat_read (y : Sys)  (k' : Nat) : (y.fresh).nat k' = y.nat k' := rfl
@[simp] theorem Sys.fresh_bytes_read (y : Sys)  (k' : Nat) : (y.fresh).bytes k' = y.bytes k' := rfl
@[simp] theorem Sys.fresh_flag_read (y : Sys)  (k' : Nat) : (y.fresh).flag k' = y.flag k' := rfl
@[simp] theorem Sys.emit_die_read (y : Sys) (o : Out) (d' : Nat) : (y.emit o).die d' = y.die d' := rfl
@[simp] theorem Sys.emit_chan_read (y : Sys) (o : Out) (n' : Nat) : (y.emit o).chan n' = y.chan n' := rfl
@[simp] theorem Sys.emit_cx_read (y : Sys) (o : Out) (n' : Nat) : (y.emit o).cx n' = y.cx n' := rfl
@[simp] theorem Sys.emit_ly_read (y : Sys) (o : Out) (n' : Nat) : (y.emit o).ly n' = y.ly n' := rfl
@[simp] theorem Sys.emit_au_read (y : Sys) (o : Out) (n' : Nat) : (y.emit o).au n' = y.au n' := rfl
@[simp] theorem Sys.emit_port_read (y : Sys) (o : Out) (n' : Nat) : (y.emit o).port n' = y.port n' := rfl
@[simp] theorem Sys.emit_lane_read (y : Sys) (o : Out) (n' : Nat) : (y.emit o).lane n' = y.lane n' := rfl
@[simp] theorem Sys.emit_pol_read (y : Sys) (o : Out) (n' : Nat) : (y.emit o).pol n' = y.pol n' := rfl
@[simp] theorem Sys.emit_tb_read (y : Sys) (o : Out) (n' : Nat) : (y.emit o).tb n' = y.tb n' := rfl
@[simp] theorem Sys.emit_pll_read (y : Sys) (o : Out) (d' p' : Nat) : (y.emit o).pll d' p' = y.pll d' p' := rfl
@[simp] theorem Sys.emit_val_read (y : Sys) (o : Out) (k' : Nat) : (y.emit o).val k' = y.val k' := rfl
@[simp] theorem Sys.emit_int_read (y : Sys) (o : Out) (k' : Nat) : (y.emit o).int k' = y.int k' := rfl
@[simp] theorem Sys.emit_nat_read (y : Sys) (o : Out) (k' : Nat) : (y.emit o).nat k' = y.nat k' := rfl
@[simp] theorem Sys.emit_bytes_read (y : Sys) (o : Out) (k' : Nat) : (y.emit o).bytes k' = y.bytes k' := rfl
@[simp] theorem Sys.emit_flag_read (y : Sys) (o : Out) (k' : Nat) : (y.emit o).flag k' = y.flag k' := rfl
@[simp] theorem Sys.setDie_chan_read (y : Sys) (d : Nat) (x : Die) (n' : Nat) : (y.setDie d x).chan n' = y.chan n' := rfl
@[simp] theorem Sys.setDie_cx_read (y : Sys) (d : Nat) (x : Die) (n' : Nat) : (y.setDie d x).cx n' = y.cx n' := rfl
@[simp] theorem Sys.setDie_ly_read (y : Sys) (d : Nat) (x : Die) (n' : Nat) : (y.setDie d x).ly n' = y.ly n' := rfl
@[simp] theorem Sys.setDie_au_read (y : Sys) (d : Nat) (x : Die) (n' : Nat) : (y.setDie d x).au n' = y.au n' := rfl
@[simp] theorem Sys.setDie_port_read (y : Sys) (d : Nat) (x : Die) (n' : Nat) : (y.setDie d x).port n' = y.port n' := rfl
@[simp] theorem Sys.setDie_lane_read (y : Sys) (d : Nat) (x : Die) (n' : Nat) : (y.setDie d x).lane n' = y.lane n' := rfl
@[simp] theorem Sys.setDie_pol_read (y : Sys) (d : Nat) (x : Die) (n' : Nat) : (y.setDie d x).pol n' = y.pol n' := rfl
@[simp] theorem Sys.setDie_tb_read (y : Sys) (d : Nat) (x : Die) (n' : Nat) : (y.setDie d x).tb n' = y.tb n' := rfl
@[simp] theorem Sys.setDie_pll_read (y : Sys) (d : Nat) (x : Die) (d' p' : Nat) : (y.setDie d x).pll d' p' = y.pll d' p' := rfl
@[simp] theorem Sys.setDie_val_read (y : Sys) (d : Nat) (x : Die) (k' : Nat) : (y.setDie d x).val k' = y.val k' := rfl
@[simp] theorem Sys.setDie_int_read (y : Sys) (d : Nat) (x : Die) (k' : Nat) : (y.setDie d x).int k' = y.int k' := rfl
@[simp] theorem Sys.setDie_nat_read (y : Sys) (d : Nat) (x : Die) (k' : Nat) : (y.setDie d x).nat k' = y.nat k' := rfl
@[simp] theorem Sys.setDie_bytes_read (y : Sys) (d : Nat) (x : Die) (k' : Nat) : (y.setDie d x).bytes k' = y.bytes k' := rfl
@[simp] theorem Sys.setDie_flag_read (y : Sys) (d : Nat) (x : Die) (k' : Nat) : (y.setDie d x).flag k' = y.flag k' := rfl
@[simp] theorem Sys.onDie_chan_read (y : Sys) (d : Nat) (f : Die → Die) (n' : Nat) : (y.onDie d f).chan n' = y.chan n' := rfl
@[simp] theorem Sys.onDie_cx_read (y : Sys) (d : Nat) (f : Die → Die) (n' : Nat) : (y.onDie d f).cx n' = y.cx n' := rfl
@[simp] theorem Sys.onDie_ly_read (y : Sys) (d : Nat) (f : Die → Die) (n' : Nat) : (y.onDie d f).ly n' = y.ly n' := rfl
@[simp] theorem Sys.onDie_au_read (y : Sys) (d : Nat) (f : Die → Die) (n' : Nat) : (y.onDie d f).au n' = y.au n' := rfl
@[simp] theorem Sys.onDie_port_read (y : Sys) (d : Nat) (f : Die → Die) (n' : Nat) : (y.onDie d f).port n' = y.port n' := rfl
@[simp] theorem Sys.onDie_lane_read (y : Sys) (d : Nat) (f : Die → Die) (n' : Nat) : (y.onDie d f).lane n' = y.lane n' := rfl
@[simp] theorem Sys.onDie_pol_read (y : Sys) (d : Nat) (f : Die → Die) (n' : Nat) : (y.onDie d f).pol n' = y.pol n' := rfl
@[simp] theorem Sys.onDie_tb_read (y : Sys) (d : Nat) (f : Die → Die) (n' : Nat) : (y.onDie d f).tb n' = y.tb n' := rfl
@[simp] theorem Sys.onDie_pll_read (y : Sys) (d : Nat) (f : Die → Die) (d' p' : Nat) : (y.onDie d f).pll d' p' = y.pll d' p' := rfl
@[simp] theorem Sys.onDie_val_read (y : Sys) (d : Nat) (f : Die → Die) (k' : Nat) : (y.onDie d f).val k' = y.val k' := rfl
@[simp] theorem Sys.onDie_int_read (y : Sys) (d : Nat) (f : Die → Die) (k' : Nat) : (y.onDie d f).int k' = y.int k' := rfl
@[simp] theorem Sys.onDie_nat_read (y : Sys) (d : Nat) (f : Die → Die) (k' : Nat) : (y.onDie d f).nat k' = y.nat k' := rfl
@[simp] theorem Sys.onDie_bytes_read (y : Sys) (d : Nat) (f : Die → Die) (k' : Nat) : (y.onDie d f).bytes k' = y.bytes k' := rfl
@[simp] theorem Sys.onDie_flag_read (y : Sys) (d : Nat) (f : Die → Die) (k' : Nat) : (y.onDie d f).flag k' = y.flag k' := rfl
@[simp] theorem Sys.setChan_die_read (y : Sys) (n : Nat) (x : Chan) (d' : Nat) : (y.setChan n x).die d' = y.die d' := rfl
@[simp] theorem Sys.setChan_cx_read (y : Sys) (n : Nat) (x : Chan) (n' : Nat) : (y.setChan n x).cx n' = y.cx n' := rfl
@[simp] theorem Sys.setChan_ly_read (y : Sys) (n : Nat) (x : Chan) (n' : Nat) : (y.setChan n x).ly n' = y.ly n' := rfl
@[simp] theorem Sys.setChan_au_read (y : Sys) (n : Nat) (x : Chan) (n' : Nat) : (y.setChan n x).au n' = y.au n' := rfl
@[simp] theorem Sys.setChan_port_read (y : Sys) (n : Nat) (x : Chan) (n' : Nat) : (y.setChan n x).port n' = y.port n' := rfl
@[simp] theorem Sys.setChan_lane_read (y : Sys) (n : Nat) (x : Chan) (n' : Nat) : (y.setChan n x).lane n' = y.lane n' := rfl
@[simp] theorem Sys.setChan_pol_read (y : Sys) (n : Nat) (x : Chan) (n' : Nat) : (y.setChan n x).pol n' = y.pol n' := rfl
@[simp] theorem Sys.setChan_tb_read (y : Sys) (n : Nat) (x : Chan) (n' : Nat) : (y.setChan n x).tb n' = y.tb n' := rfl
@[simp] theorem Sys.setChan_pll_read (y : Sys) (n : Nat) (x : Chan) (d' p' : Nat) : (y.setChan n x).pll d' p' = y.pll d' p' := rfl
@[simp] theorem Sys.setChan_val_read (y : Sys) (n : Nat) (x : Chan) (k' : Nat) : (y.setChan n x).val k' = y.val k' := rfl
@[simp] theorem Sys.setChan_int_read (y : Sys) (n : Nat) (x : Chan) (k' : Nat) : (y.setChan n x).int k' = y.int k' := rfl
@[simp] theorem Sys.setChan_nat_read (y : Sys) (n : Nat) (x : Chan) (k' : Nat) : (y.setChan n x).nat k' = y.nat k' := rfl
@[simp] theorem Sys.setChan_bytes_read (y : Sys) (n : Nat) (x : Chan) (k' : Nat) : (y.setChan n x).bytes k' = y.bytes k' := rfl
@[simp] theorem Sys.setChan_flag_read (y : Sys) (n : Nat) (x : Chan) (k' : Nat) : (y.setChan n x).flag k' = y.flag k' := rfl
@[simp] theorem Sys.onChan_die_read (y : Sys) (n : Nat) (f : Chan → Chan) (d' : Nat) : (y.onChan n f).die d' = y.die d' := rfl
@[simp] theorem Sys.onChan_cx_read (y : Sys) (n : Nat) (f : Chan → Chan) (n' : Nat) : (y.onChan n f).cx n' = y.cx n' := rfl
@[simp] theorem Sys.onChan_ly_read (y : Sys) (n : Nat) (f : Chan → Chan) (n' : Nat) : (y.onChan n f).ly n' = y.ly n' := rfl
@[simp] theorem Sys.onChan_au_read (y : Sys) (n : Nat) (f : Chan → Chan) (n' : Nat) : (y.onChan n f).au n' = y.au n' := rfl
@[simp] theorem Sys.onChan_port_read (y : Sys) (n : Nat) (f : Chan → Chan) (n' : Nat) : (y.onChan n f).port n' = y.port n' := rfl
@[simp] theorem Sys.onChan_lane_read (y : Sys) (n : Nat) (f : Chan → Chan) (n' : Nat) : (y.onChan n f).lane n' = y.lane n' := rfl
@[simp] theorem Sys.onChan_pol_read (y : Sys) (n : Nat) (f : Chan → Chan) (n' : Nat) : (y.onChan n f).pol n' = y.pol n' := rfl
@[simp] theorem Sys.onChan_tb_read (y : Sys) (n : Nat) (f : Chan → Chan) (n' : Nat) : (y.onChan n f).tb n' = y.tb n' := rfl
@[simp] theorem Sys.onChan_pll_read (y : Sys) (n : Nat) (f : Chan → Chan) (d' p' : Nat) : (y.onChan n f).pll d' p' = y.pll d' p' := rfl
@[simp] theorem Sys.onChan_val_read (y : Sys) (n : Nat) (f : Chan → Chan) (k' : Nat) : (y.onChan n f).val k' = y.val k' := rfl
@[simp] theorem Sys.onChan_int_read (y : Sys) (n : Nat) (f : Chan → Chan) (k' : Nat) : (y.onChan n f).int k' = y.int k' := rfl
@[simp] theorem Sys.onChan_nat_read (y : Sys) (n : Nat) (f : Chan → Chan) (k' : Nat) : (y.onChan n f).nat k' = y.nat k' := rfl
@[simp] theorem Sys.onChan_bytes_read (y : Sys) (n : Nat) (f : Chan → Chan) (k' : Nat) : (y.onChan n f).bytes k' = y.bytes k' := rfl
@[simp] theorem Sys.onChan_flag_read (y : Sys) (n : Nat) (f : Chan → Chan) (k' : Nat) : (y.onChan n f).flag k' = y.flag k' := rfl
@[simp] theorem Sys.setCx_die_read (y : Sys) (n : Nat) (x : Cx) (d' : Nat) : (y.setCx n x).die d' = y.die d' := rfl
@[simp] theorem Sys.setCx_chan_read (y : Sys) (n : Nat) (x : Cx) (n' : Nat) : (y.setCx n x).chan n' = y.chan n' := rfl
@[simp] theorem Sys.setCx_ly_read (y : Sys) (n : Nat) (x : Cx) (n' : Nat) : (y.setCx n x).ly n' = y.ly n' := rfl
@[simp] theorem Sys.setCx_au_read (y : Sys) (n : Nat) (x : Cx) (n' : Nat) : (y.setCx n x).au n' = y.au n' := rfl
@[simp] theorem Sys.setCx_port_read (y : Sys) (n : Nat) (x : Cx) (n' : Nat) : (y.setCx n x).port n' = y.port n' := rfl
@[simp] theorem Sys.setCx_lane_read (y : Sys) (n : Nat) (x : Cx) (n' : Nat) : (y.setCx n x).lane n' = y.lane n' := rfl
@[simp] theorem Sys.setCx_pol_read (y : Sys) (n : Nat) (x : Cx) (n' : Nat) : (y.setCx n x).pol n' = y.pol n' := rfl
@[simp] theorem Sys.setCx_tb_read (y : Sys) (n : Nat) (x : Cx) (n' : Nat) : (y.setCx n x).tb n' = y.tb n' := rfl
@[simp] theorem Sys.setCx_pll_read (y : Sys) (n : Nat) (x : Cx) (d' p' : Nat) : (y.setCx n x).pll d' p' = y.pll d' p' := rfl
@[simp] theorem Sys.setCx_val_read (y : Sys) (n : Nat) (x : Cx) (k' : Nat) : (y.setCx n x).val k' = y.val k' := rfl
@[simp] theorem Sys.setCx_int_read (y : Sys) (n : Nat) (x : Cx) (k' : Nat) : (y.setCx n x).int k' = y.int k' := rfl
@[simp] theorem Sys.setCx_nat_read (y : Sys) (n : Nat) (x : Cx) (k' : Nat) : (y.setCx n x).nat k' = y.nat k' := rfl
@[simp] theorem Sys.setCx_bytes_read (y : Sys) (n : Nat) (x : Cx) (k' : Nat) : (y.setCx n x).bytes k' = y.bytes k' := rfl
@[simp] theorem Sys.setCx_flag_read (y : Sys) (n : Nat) (x : Cx) (k' : Nat) : (y.setCx n x).flag k' = y.flag k' := rfl
@[simp] theorem Sys.onCx_die_read (y : Sys) (n : Nat) (f : Cx → Cx) (d' : Nat) : (y.onCx n f).die d' = y.die d' := rfl
@[simp] theorem Sys.onCx_chan_read (y : Sys) (n : Nat) (f : Cx → Cx) (n' : Nat) : (y.onCx n f).chan n' = y.chan n' := rfl
@[simp] theorem Sys.onCx_ly_read (y : Sys) (n : Nat) (f : Cx → Cx) (n' : Nat) : (y.onCx n f).ly n' = y.ly n' := rfl
@[simp] theorem Sys.onCx_au_read (y : Sys) (n : Nat) (f : Cx → Cx) (n' : Nat) : (y.onCx n f).au n' = y.au n' := rfl
@[simp] theorem Sys.onCx_port_read (y : Sys) (n : Nat) (f : Cx → Cx) (n' : Nat) : (y.onCx n f).port n' = y.port n' := rfl
@[simp] theorem Sys.onCx_lane_read (y : Sys) (n : Nat) (f : Cx → Cx) (n' : Nat) : (y.onCx n f).lane n' = y.lane n' := rfl
@[simp] theorem Sys.onCx_pol_read (y : Sys) (n : Nat) (f : Cx → Cx) (n' : Nat) : (y.onCx n f).pol n' = y.pol n' := rfl
@[simp] theorem Sys.onCx_tb_read (y : Sys) (n : Nat) (f : Cx → Cx) (n' : Nat) : (y.onCx n f).tb n' = y.tb n' := rfl
@[simp] theorem Sys.onCx_pll_read (y : Sys) (n : Nat) (f : Cx → Cx) (d' p' : Nat) : (y.onCx n f).pll d' p' = y.pll d' p' := rfl
@[simp] theorem Sys.onCx_val_read (y : Sys) (n : Nat) (f : Cx → Cx) (k' : Nat) : (y.onCx n f).val k' = y.val k' := rfl
@[simp] theorem Sys.onCx_int_read (y : Sys) (n : Nat) (f : Cx → Cx) (k' : Nat) : (y.onCx n f).int k' = y.int k' := rfl
@[simp] theorem Sys.onCx_nat_read (y : Sys) (n : Nat) (f : Cx → Cx) (k' : Nat) : (y.onCx n f).nat k' = y.nat k' := rfl
@[simp] theorem Sys.onCx_bytes_read (y : Sys) (n : Nat) (f : Cx → Cx) (k' : Nat) : (y.onCx n f).bytes k' = y.bytes k' := rfl
@[simp] theorem Sys.onCx_flag_read (y : Sys) (n : Nat) (f : Cx → Cx) (k' : Nat) : (y.onCx n f).flag k' = y.flag k' := rfl
@[simp] theorem Sys.setLy_die_read (y : Sys) (n : Nat) (x : Ly) (d' : Nat) : (y.setLy n x).die d' = y.die d' := rfl
@[simp] theorem Sys.setLy_chan_read (y : Sys) (n : Nat) (x : Ly) (n' : Nat) : (y.setLy n x).chan n' = y.chan n' := rfl
@[simp] theorem Sys.setLy_cx_read (y : Sys) (n : Nat) (x : Ly) (n' : Nat) : (y.setLy n x).cx n' = y.cx n' := rfl
@[simp] theorem Sys.setLy_au_read (y : Sys) (n : Nat) (x : Ly) (n' : Nat) : (y.setLy n x).au n' = y.au n' := rfl
@[simp] theorem Sys.setLy_port_read (y : Sys) (n : Nat) (x : Ly) (n' : Nat) : (y.setLy n x).port n' = y.port n' := rfl
@[simp] theorem Sys.setLy_lane_read (y : Sys) (n : Nat) (x : Ly) (n' : Nat) : (y.setLy n x).lane n' = y.lane n' := rfl
@[simp] theorem Sys.setLy_pol_read (y : Sys) (n : Nat) (x : Ly) (n' : Nat) : (y.setLy n x).pol n' = y.pol n' := rfl
@[simp] theorem Sys.setLy_tb_read (y : Sys) (n : Nat) (x : Ly) (n' : Nat) : (y.setLy n x).tb n' = y.tb n' := rfl
@[simp] theorem Sys.setLy_pll_read (y : Sys) (n : Nat) (x : Ly) (d' p' : Nat) : (y.setLy n x).pll d' p' = y.pll d' p' := rfl
@[simp] theorem Sys.setLy_val_read (y : Sys) (n : Nat) (x : Ly) (k' : Nat) : (y.setLy n x).val k' = y.val k' := rfl
@[simp] theorem Sys.setLy_int_read (y : Sys) (n : Nat) (x : Ly) (k' : Nat) : (y.setLy n x).int k' = y.int k' := rfl
@[simp] theorem Sys.setLy_nat_read (y : Sys) (n : Nat) (x : Ly) (k' : Nat) : (y.setLy n x).nat k' = y.nat k' := rfl
@[simp] theorem Sys.setLy_bytes_read (y : Sys) (n : Nat) (x : Ly) (k' : Nat) : (y.setLy n x).bytes k' = y.bytes k' := rfl
@[simp] theorem Sys.setLy_flag_read (y : Sys) (n : Nat) (x : Ly) (k' : Nat) : (y.setLy n x).flag k' = y.flag k' := rfl
@[simp] theorem Sys.onLy_die_read (y : Sys) (n : Nat) (f : Ly → Ly) (d' : Nat) : (y.onLy n f).die d' = y.die d' := rfl
@[simp] theorem Sys.onLy_chan_read (y : Sys) (n : Nat) (f : Ly → Ly) (n' : Nat) : (y.onLy n f).chan n' = y.chan n' := rfl
@[simp] theorem Sys.onLy_cx_read (y : Sys) (n : Nat) (f : Ly → Ly) (n' : Nat) : (y.onLy n f).cx n' = y.cx n' := rfl
@[simp] theorem Sys.onLy_au_read (y : Sys) (n : Nat) (f : Ly → Ly) (n' : Nat) : (y.onLy n f).au n' = y.au n' := rfl
@[simp] theorem Sys.onLy_port_read (y : Sys) (n : Nat) (f : Ly → Ly) (n' : Nat) : (y.onLy n f).port n' = y.port n' := rfl
@[simp] theorem Sys.onLy_lane_read (y : Sys) (n : Nat) (f : Ly → Ly) (n' : Nat) : (y.onLy n f).lane n' = y.lane n' := rfl
@[simp] theorem Sys.onLy_pol_read (y : Sys) (n : Nat) (f : Ly → Ly) (n' : Nat) : (y.onLy n f).pol n' = y.pol n' := rfl
@[simp] theorem Sys.onLy_tb_read (y : Sys) (n : Nat) (f : Ly → Ly) (n' : Nat) : (y.onLy n f).tb n' = y.tb n' := rfl
@[simp] theorem Sys.onLy_pll_read (y : Sys) (n : Nat) (f : Ly → Ly) (d' p' : Nat) : (y.onLy n f).pll d' p' = y.pll d' p' := rfl
@[simp] theorem Sys.onLy_val_read (y : Sys) (n : Nat) (f : Ly → Ly) (k' : Nat) : (y.onLy n f).val k' = y.val k' := rfl
@[simp] theorem Sys.onLy_int_read (y : Sys) (n : Nat) (f : Ly → Ly) (k' : Nat) : (y.onLy n f).int k' = y.int k' := rfl
@[simp] theorem Sys.onLy_nat_read (y : Sys) (n : Nat) (f : Ly → Ly) (k' : Nat) : (y.onLy n f).nat k' = y.nat k' := rfl
@[simp] theorem Sys.onLy_bytes_read (y : Sys) (n : Nat) (f : Ly → Ly) (k' : Nat) : (y.onLy n f).bytes k' = y.bytes k' := rfl
@[simp] theorem Sys.onLy_flag_read (y : Sys) (n : Nat) (f : Ly → Ly) (k' : Nat) : (y.onLy n f).flag k' = y.flag k' := rfl
@[simp] theorem Sys.setAu_die_read (y : Sys) (n : Nat) (x : Au) (d' : Nat) : (y.setAu n x).die d' = y.die d' := rfl
@[simp] theorem Sys.setAu_chan_read (y : Sys) (n : Nat) (x : Au) (n' : Nat) : (y.setAu n x).chan n' = y.chan n' := rfl
@[simp] theorem Sys.setAu_cx_read (y : Sys) (n : Nat) (x : Au) (n' : Nat) : (y.setAu n x).cx n' = y.cx n' := rfl
@[simp] theorem Sys.setAu_ly_read (y : Sys) (n : Nat) (x : Au) (n' : Nat) : (y.setAu n x).ly n' = y.ly n' := rfl
@[simp] theorem Sys.setAu_port_read (y : Sys) (n : Nat) (x : Au) (n' : Nat) : (y.setAu n x).port n' = y.port n' := rfl
@[simp] theorem Sys.setAu_lane_read (y : Sys) (n : Nat) (x : Au) (n' : Nat) : (y.setAu n x).lane n' = y.lane n' := rfl
@[simp] theorem Sys.setAu_pol_read (y : Sys) (n : Nat) (x : Au) (n' : Nat) : (y.setAu n x).pol n' = y.pol n' := rfl
@[simp] theorem Sys.setAu_tb_read (y : Sys) (n : Nat) (x : Au) (n' : Nat) : (y.setAu n x).tb n' = y.tb n' := rfl
@[simp] theorem Sys.setAu_pll_read (y : Sys) (n : Nat) (x : Au) (d' p' : Nat) : (y.setAu n x).pll d' p' = y.pll d' p' := rfl
@[simp] theorem Sys.setAu_val_read (y : Sys) (n : Nat) (x : Au) (k' : Nat) : (y.setAu n x).val k' = y.val k' := rfl
@[simp] theorem Sys.setAu_int_read (y : Sys) (n : Nat) (x : Au) (k' : Nat) : (y.setAu n x).int k' = y.int k' := rfl
@[simp] theorem Sys.setAu_nat_read (y : Sys) (n : Nat) (x : Au) (k' : Nat) : (y.setAu n x).nat k' = y.nat k' := rfl
@[simp] theorem Sys.setAu_bytes_read (y : Sys) (n : Nat) (x : Au) (k' : Nat) : (y.setAu n x).bytes k' = y.bytes k' := rfl
@[simp] theorem Sys.setAu_flag_read (y : Sys) (n : Nat) (x : Au) (k' : Nat) : (y.setAu n x).flag k' = y.flag k' := rfl
@[simp] theorem Sys.onAu_die_read (y : Sys) (n : Nat) (f : Au → Au) (d' : Nat) : (y.onAu n f).die d' = y.die d' := rfl
@[simp] theorem Sys.onAu_chan_read (y : Sys) (n : Nat) (f : Au → Au) (n' : Nat) : (y.onAu n f).chan n' = y.chan n' := rfl
@[simp] theorem Sys.onAu_cx_read (y : Sys) (n : Nat) (f : Au → Au) (n' : Nat) : (y.onAu n f).cx n' = y.cx n' := rfl
@[simp] theorem Sys.onAu_ly_read (y : Sys) (n : Nat) (f : Au → Au) (n' : Nat) : (y.onAu n f).ly n' = y.ly n' := rfl
@[simp] theorem Sys.onAu_port_read (y : Sys) (n : Nat) (f : Au → Au) (n' : Nat) : (y.onAu n f).port n' = y.port n' := rfl
@[simp] theorem Sys.onAu_lane_read (y : Sys) (n : Nat) (f : Au → Au) (n' : Nat) : (y.onAu n f).lane n' = y.lane n' := rfl
@[simp] theorem Sys.onAu_pol_read (y : Sys) (n : Nat) (f : Au → Au) (n' : Nat) : (y.onAu n f).pol n' = y.pol n' := rfl
@[simp] theorem Sys.onAu_tb_read (y : Sys) (n : Nat) (f : Au → Au) (n' : Nat) : (y.onAu n f).tb n' = y.tb n' := rfl
@[simp] theorem Sys.onAu_pll_read (y : Sys) (n : Nat) (f : Au → Au) (d' p' : Nat) : (y.onAu n f).pll d' p' = y.pll d' p' := rfl
@[simp] theorem Sys.onAu_val_read (y : Sys) (n : Nat) (f : Au → Au) (k' : Nat) : (y.onAu n f).val k' = y.val k' := rfl
@[simp] theorem Sys.onAu_int_read (y : Sys) (n : Nat) (f : Au → Au) (k' : Nat) : (y.onAu n f).int k' = y.int k' := rfl
@[simp] theorem Sys.onAu_nat_read (y : Sys) (n : Nat) (f : Au → Au) (k' : Nat) : (y.onAu n f).nat k' = y.nat k' := rfl
@[simp] theorem Sys.onAu_bytes_read (y : Sys) (n : Nat) (f : Au → Au) (k' : Nat) : (y.onAu n f).bytes k' = y.bytes k' := rfl
@[simp] theorem Sys.onAu_flag_read (y : Sys) (n : Nat) (f : Au → Au) (k' : Nat) : (y.onAu n f).flag k' = y.flag k' := rfl
@[simp] theorem Sys.setPort_die_read (y : Sys) (n : Nat) (x : Port) (d' : Nat) : (y.setPort n x).die d' = y.die d' := rfl
@[simp] theorem Sys.setPort_chan_read (y : Sys) (n : Nat) (x : Port) (n' : Nat) : (y.setPort n x).chan n' = y.chan n' := rfl
@[simp] theorem Sys.setPort_cx_read (y : Sys) (n : Nat) (x : Port) (n' : Nat) : (y.setPort n x).cx n' = y.cx n' := rfl
@[simp] theorem Sys.setPort_ly_read (y : Sys) (n : Nat) (x : Port) (n' : Nat) : (y.setPort n x).ly n' = y.ly n' := rfl
@[simp] theorem Sys.setPort_au_read (y : Sys) (n : Nat) (x : Port) (n' : Nat) : (y.setPort n x).au n' = y.au n' := rfl
@[simp] theorem Sys.setPort_lane_read (y : Sys) (n : Nat) (x : Port) (n' : Nat) : (y.setPort n x).lane n' = y.lane n' := rfl
@[simp] theorem Sys.setPort_pol_read (y : Sys) (n : Nat) (x : Port) (n' : Nat) : (y.setPort n x).pol n' = y.pol n' := rfl
@[simp] theorem Sys.setPort_tb_read (y : Sys) (n : Nat) (x : Port) (n' : Nat) : (y.setPort n x).tb n' = y.tb n' := rfl
@[simp] theorem Sys.setPort_pll_read (y : Sys) (n : Nat) (x : Port) (d' p' : Nat) : (y.setPort n x).pll d' p' = y.pll d' p' := rfl
@[simp] theorem Sys.setPort_val_read (y : Sys) (n : Nat) (x : Port) (k' : Nat) : (y.setPort n x).val k' = y.val k' := rfl
@[simp] theorem Sys.setPort_int_read (y : Sys) (n : Nat) (x : Port) (k' : Nat) : (y.setPort n x).int k' = y.int k' := rfl
@[simp] theorem Sys.setPort_nat_read (y : Sys) (n : Nat) (x : Port) (k' : Nat) : (y.setPort n x).nat k' = y.nat k' := rfl
@[simp] theorem Sys.setPort_bytes_read (y : Sys) (n : Nat) (x : Port) (k' : Nat) : (y.setPort n x).bytes k' = y.bytes k' := rfl
@[simp] theorem Sys.setPort_flag_read (y : Sys) (n : Nat) (x : Port) (k' : Nat) : (y.setPort n x).flag k' = y.flag k' := rfl
@[simp] theorem Sys.onPort_die_read (y : Sys) (n : Nat) (f : Port → Port) (d' : Nat) : (y.onPort n f).die d' = y.die d' := rfl
@[simp] theorem Sys.onPort_chan_read (y : Sys) (n : Nat) (f : Port → Port) (n' : Nat) : (y.onPort n f).chan n' = y.chan n' := rfl
@[simp] theorem Sys.onPort_cx_read (y : Sys) (n : Nat) (f : Port → Port) (n' : Nat) : (y.onPort n f).cx n' = y.cx n' := rfl
@[simp] theorem Sys.onPort_ly_read (y : Sys) (n : Nat) (f : Port → Port) (n' : Nat) : (y.onPort n f).ly n' = y.ly n' := rfl
@[simp] theorem Sys.onPort_au_read (y : Sys) (n : Nat) (f : Port → Port) (n' : Nat) : (y.onPort n f).au n' = y.au n' := rfl
@[simp] theorem Sys.onPort_lane_read (y : Sys) (n : Nat) (f : Port → Port) (n' : Nat) : (y.onPort n f).lane n' = y.lane n' := rfl
@[simp] theorem Sys.onPort_pol_read (y : Sys) (n : Nat) (f : Port → Port) (n' : Nat) : (y.onPort n f).pol n' = y.pol n' := rfl
@[simp] theorem Sys.onPort_tb_read (y : Sys) (n : Nat) (f : Port → Port) (n' : Nat) : (y.onPort n f).tb n' = y.tb n' := rfl
@[simp] theorem Sys.onPort_pll_read (y : Sys) (n : Nat) (f : Port → Port) (d' p' : Nat) : (y.onPort n f).pll d' p' = y.pll d' p' := rfl
@[simp] theorem Sys.onPort_val_read (y : Sys) (n : Nat) (f : Port → Port) (k' : Nat) : (y.onPort n f).val k' = y.val k' := rfl
@[simp] theorem Sys.onPort_int_read (y : Sys) (n : Nat) (f : Port → Port) (k' : Nat) : (y.onPort n f).int k' = y.int k' := rfl
@[simp] theorem Sys.onPort_nat_read (y : Sys) (n : Nat) (f : Port → Port) (k' : Nat) : (y.onPort n f).nat k' = y.nat k' := rfl
@[simp] theorem Sys.onPort_bytes_read (y : Sys) (n : Nat) (f : Port → Port) (k' : Nat) : (y.onPort n f).bytes k' = y.bytes k' := rfl
@[simp] theorem Sys.onPort_flag_read (y : Sys) (n : Nat) (f : Port → Port) (k' : Nat) : (y.onPort n f).flag k' = y.flag k' := rfl
@[simp] theorem Sys.setLane_die_read (y : Sys) (n : Nat) (x : Lane) (d' : Nat) : (y.setLane n x).die d' = y.die d' := rfl
@[simp] theorem Sys.setLane_chan_read (y : Sys) (n : Nat) (x : Lane) (n' : Nat) : (y.setLane n x).chan n' = y.chan n' := rfl
@[simp] theorem Sys.setLane_cx_read (y : Sys) (n : Nat) (x : Lane) (n' : Nat) : (y.setLane n x).cx n' = y.cx n' := rfl
@[simp] theorem Sys.setLane_ly_read (y : Sys) (n : Nat) (x : Lane) (n' : Nat) : (y.setLane n x).ly n' = y.ly n' := rfl
@[simp] theorem Sys.setLane_au_read (y : Sys) (n : Nat) (x : Lane) (n' : Nat) : (y.setLane n x).au n' = y.au n' := rfl
@[simp] theorem Sys.setLane_port_read (y : Sys) (n : Nat) (x : Lane) (n' : Nat) : (y.setLane n x).port n' = y.port n' := rfl
@[simp] theorem Sys.setLane_pol_read (y : Sys) (n : Nat) (x : Lane) (n' : Nat) : (y.setLane n x).pol n' = y.pol n' := rfl
@[simp] theorem Sys.setLane_tb_read (y : Sys) (n : Nat) (x : Lane) (n' : Nat) : (y.setLane n x).tb n' = y.tb n' := rfl
@[simp] theorem Sys.setLane_pll_read (y : Sys) (n : Nat) (x : Lane) (d' p' : Nat) : (y.setLane n x).pll d' p' = y.pll d' p' := rfl
@[simp] theorem Sys.setLane_val_read (y : Sys) (n : Nat) (x : Lane) (k' : Nat) : (y.setLane n x).val k' = y.val k' := rfl
@[simp] theorem Sys.setLane_int_read (y : Sys) (n : Nat) (x : Lane) (k' : Nat) : (y.setLane n x).int k' = y.int k' := rfl
@[simp] theorem Sys.setLane_nat_read (y : Sys) (n : Nat) (x : Lane) (k' : Nat) : (y.setLane n x).nat k' = y.nat k' := rfl
@[simp] theorem Sys.setLane_bytes_read (y : Sys) (n : Nat) (x : Lane) (k' : Nat) : (y.setLane n x).bytes k' = y.bytes k' := rfl
@[simp] theorem Sys.setLane_flag_read (y : Sys) (n : Nat) (x : Lane) (k' : Nat) : (y.setLane n x).flag k' = y.flag k' := rfl
@[simp] theorem Sys.onLane_die_read (y : Sys) (n : Nat) (f : Lane → Lane) (d' : Nat) : (y.onLane n f).die d' = y.die d' := rfl
@[simp] theorem Sys.onLane_chan_read (y : Sys) (n : Nat) (f : Lane → Lane) (n' : Nat) : (y.onLane n f).chan n' = y.chan n' := rfl
@[simp] theorem Sys.onLane_cx_read (y : Sys) (n : Nat) (f : Lane → Lane) (n' : Nat) : (y.onLane n f).cx n' = y.cx n' := rfl
@[simp] theorem Sys.onLane_ly_read (y : Sys) (n : Nat) (f : Lane → Lane) (n' : Nat) : (y.onLane n f).ly n' = y.ly n' := rfl
@[simp] theorem Sys.onLane_au_read (y : Sys) (n : Nat) (f : Lane → Lane) (n' : Nat) : (y.onLane n f).au n' = y.au n' := rfl
@[simp] theorem Sys.onLane_port_read (y : Sys) (n : Nat) (f : Lane → Lane) (n' : Nat) : (y.onLane n f).port n' = y.port n' := rfl
@[simp] theorem Sys.onLane_pol_read (y : Sys) (n : Nat) (f : Lane → Lane) (n' : Nat) : (y.onLane n f).pol n' = y.pol n' := rfl
@[simp] theorem Sys.onLane_tb_read (y : Sys) (n : Nat) (f : Lane → Lane) (n' : Nat) : (y.onLane n f).tb n' = y.tb n' := rfl
@[simp] theorem Sys.onLane_pll_read (y : Sys) (n : Nat) (f : Lane → Lane) (d' p' : Nat) : (y.onLane n f).pll d' p' = y.pll d' p' := rfl
@[simp] theorem Sys.onLane_val_read (y : Sys) (n : Nat) (f : Lane → Lane) (k' : Nat) : (y.onLane n f).val k' = y.val k' := rfl
@[simp] theorem Sys.onLane_int_read (y : Sys) (n : Nat) (f : Lane → Lane) (k' : Nat) : (y.onLane n f).int k' = y.int k' := rfl
@[simp] theorem Sys.onLane_nat_read (y : Sys) (n : Nat) (f : Lane → Lane) (k' : Nat) : (y.onLane n f).nat k' = y.nat k' := rfl
@[simp] theorem Sys.onLane_bytes_read (y : Sys) (n : Nat) (f : Lane → Lane) (k' : Nat) : (y.onLane n f).bytes k' = y.bytes k' := rfl
@[simp] theorem Sys.onLane_flag_read (y : Sys) (n : Nat) (f : Lane → Lane) (k' : Nat) : (y.onLane n f).flag k' = y.flag k' := rfl
@[simp] theorem Sys.setPol_die_read (y : Sys) (n : Nat) (x : Pol) (d' : Nat) : (y.setPol n x).die d' = y.die d' := rfl
@[simp] theorem Sys.setPol_chan_read (y : Sys) (n : Nat) (x : Pol) (n' : Nat) : (y.setPol n x).chan n' = y.chan n' := rfl
@[simp] theorem Sys.setPol_cx_read (y : Sys) (n : Nat) (x : Pol) (n' : Nat) : (y.setPol n x).cx n' = y.cx n' := rfl
@[simp] theorem Sys.setPol_ly_read (y : Sys) (n : Nat) (x : Pol) (n' : Nat) : (y.setPol n x).ly n' = y.ly n' := rfl
@[simp] theorem Sys.setPol_au_read (y : Sys) (n : Nat) (x : Pol) (n' : Nat) : (y.setPol n x).au n' = y.au n' := rfl
@[simp] theorem Sys.setPol_port_read (y : Sys) (n : Nat) (x : Pol) (n' : Nat) : (y.setPol n x).port n' = y.port n' := rfl
@[simp] theorem Sys.setPol_lane_read (y : Sys) (n : Nat) (x : Pol) (n' : Nat) : (y.setPol n x).lane n' = y.lane n' := rfl
@[simp] theorem Sys.setPol_tb_read (y : Sys) (n : Nat) (x : Pol) (n' : Nat) : (y.setPol n x).tb n' = y.tb n' := rfl
@[simp] theorem Sys.setPol_pll_read (y : Sys) (n : Nat) (x : Pol) (d' p' : Nat) : (y.setPol n x).pll d' p' = y.pll d' p' := rfl
@[simp] theorem Sys.setPol_val_read (y : Sys) (n : Nat) (x : Pol) (k' : Nat) : (y.setPol n x).val k' = y.val k' := rfl
@[simp] theorem Sys.setPol_int_read (y : Sys) (n : Nat) (x : Pol) (k' : Nat) : (y.setPol n x).int k' = y.int k' := rfl
@[simp] theorem Sys.setPol_nat_read (y : Sys) (n : Nat) (x : Pol) (k' : Nat) : (y.setPol n x).nat k' = y.nat k' := rfl
@[simp] theorem Sys.setPol_bytes_read (y : Sys) (n : Nat) (x : Pol) (k' : Nat) : (y.setPol n x).bytes k' = y.bytes k' := rfl
@[simp] theorem Sys.setPol_flag_read (y : Sys) (n : Nat) (x : Pol) (k' : Nat) : (y.setPol n x).flag k' = y.flag k' := rfl
@[simp] theorem Sys.setTb_die_read (y : Sys) (n : Nat) (x : Tb) (d' : Nat) : (y.setTb n x).die d' = y.die d' := rfl
@[simp] theorem Sys.setTb_chan_read (y : Sys) (n : Nat) (x : Tb) (n' : Nat) : (y.setTb n x).chan n' = y.chan n' := rfl
@[simp] theorem Sys.setTb_cx_read (y : Sys) (n : Nat) (x : Tb) (n' : Nat) : (y.setTb n x).cx n' = y.cx n' := rfl
@[simp] theorem Sys.setTb_ly_read (y : Sys) (n : Nat) (x : Tb) (n' : Nat) : (y.setTb n x).ly n' = y.ly n' := rfl
@[simp] theorem Sys.setTb_au_read (y : Sys) (n : Nat) (x : Tb) (n' : Nat) : (y.setTb n x).au n' = y.au n' := rfl
@[simp] theorem Sys.setTb_port_read (y : Sys) (n : Nat) (x : Tb) (n' : Nat) : (y.setTb n x).port n' = y.port n' := rfl
@[simp] theorem Sys.setTb_lane_read (y : Sys) (n : Nat) (x : Tb) (n' : Nat) : (y.setTb n x).lane n' = y.lane n' := rfl
@[simp] theorem Sys.setTb_pol_read (y : Sys) (n : Nat) (x : Tb) (n' : Nat) : (y.setTb n x).pol n' = y.pol n' := rfl
@[simp] theorem Sys.setTb_pll_read (y : Sys) (n : Nat) (x : Tb) (d' p' : Nat) : (y.setTb n x).pll d' p' = y.pll d' p' := rfl
@[simp] theorem Sys.setTb_val_read (y : Sys) (n : Nat) (x : Tb) (k' : Nat) : (y.setTb n x).val k' = y.val k' := rfl
@[simp] theorem Sys.setTb_int_read (y : Sys) (n : Nat) (x : Tb) (k' : Nat) : (y.setTb n x).int k' = y.int k' := rfl
@[simp] theorem Sys.setTb_nat_read (y : Sys) (n : Nat) (x : Tb) (k' : Nat) : (y.setTb n x).nat k' = y.nat k' := rfl
@[simp] theorem Sys.setTb_bytes_read (y : Sys) (n : Nat) (x : Tb) (k' : Nat) : (y.setTb n x).bytes k' = y.bytes k' := rfl
@[simp] theorem Sys.setTb_flag_read (y : Sys) (n : Nat) (x : Tb) (k' : Nat) : (y.setTb n x).flag k' = y.flag k' := rfl
@[simp] theorem Sys.onTb_die_read (y : Sys) (n : Nat) (f : Tb → Tb) (d' : Nat) : (y.onTb n f).die d' = y.die d' := rfl
@[simp] theorem Sys.onTb_chan_read (y : Sys) (n : Nat) (f : Tb → Tb) (n' : Nat) : (y.onTb n f).chan n' = y.chan n' := rfl
@[simp] theorem Sys.onTb_cx_read (y : Sys) (n : Nat) (f : Tb → Tb) (n' : Nat) : (y.onTb n f).cx n' = y.cx n' := rfl
@[simp] theorem Sys.onTb_ly_read (y : Sys) (n : Nat) (f : Tb → Tb) (n' : Nat) : (y.onTb n f).ly n' = y.ly n' := rfl
@[simp] theorem Sys.onTb_au_read (y : Sys) (n : Nat) (f : Tb → Tb) (n' : Nat) : (y.onTb n f).au n' = y.au n' := rfl
@[simp] theorem Sys.onTb_port_read (y : Sys) (n : Nat) (f : Tb → Tb) (n' : Nat) : (y.onTb n f).port n' = y.port n' := rfl
@[simp] theorem Sys.onTb_lane_read (y : Sys) (n : Nat) (f : Tb → Tb) (n' : Nat) : (y.onTb n f).lane n' = y.lane n' := rfl
@[simp] theorem Sys.onTb_pol_read (y : Sys) (n : Nat) (f : Tb → Tb) (n' : Nat) : (y.onTb n f).pol n' = y.pol n' := rfl
@[simp] theorem Sys.onTb_pll_read (y : Sys) (n : Nat) (f : Tb → Tb) (d' p' : Nat) : (y.onTb n f).pll d' p' = y.pll d' p' := rfl
@[simp] theorem Sys.onTb_val_read (y : Sys) (n : Nat) (f : Tb → Tb) (k' : Nat) : (y.onTb n f).val k' = y.val k' := rfl
@[simp] theorem Sys.onTb_int_read (y : Sys) (n : Nat) (f : Tb → Tb) (k' : Nat) : (y.onTb n f).int k' = y.int k' := rfl
@[simp] theorem Sys.onTb_nat_read (y : Sys) (n : Nat) (f : Tb → Tb) (k' : Nat) : (y.onTb n f).nat k' = y.nat k' := rfl
@[simp] theorem Sys.onTb_bytes_read (y : Sys) (n : Nat) (f : Tb → Tb) (k' : Nat) : (y.onTb n f).bytes k' = y.bytes k' := rfl
@[simp] theorem Sys.onTb_flag_read (y : Sys) (n : Nat) (f : Tb → Tb) (k' : Nat) : (y.onTb n f).flag k' = y.flag k' := rfl
@[simp] theorem Sys.setPll_die_read (y : Sys) (d p : Nat) (x : Pll) (d' : Nat) : (y.setPll d p x).die d' = y.die d' := rfl
@[simp] theorem Sys.setPll_chan_read (y : Sys) (d p : Nat) (x : Pll) (n' : Nat) : (y.setPll d p x).chan n' = y.chan n' := rfl
@[simp] theorem Sys.setPll_cx_read (y : Sys) (d p : Nat) (x : Pll) (n' : Nat) : (y.setPll d p x).cx n' = y.cx n' := rfl
@[simp] theorem Sys.setPll_ly_read (y : Sys) (d p : Nat) (x : Pll) (n' : Nat) : (y.setPll d p x).ly n' = y.ly n' := rfl
@[simp] theorem Sys.setPll_au_read (y : Sys) (d p : Nat) (x : Pll) (n' : Nat) : (y.setPll d p x).au n' = y.au n' := rfl
@[simp] theorem Sys.setPll_port_read (y : Sys) (d p : Nat) (x : Pll) (n' : Nat) : (y.setPll d p x).port n' = y.port n' := rfl
@[simp] theorem Sys.setPll_lane_read (y : Sys) (d p : Nat) (x : Pll) (n' : Nat) : (y.setPll d p x).lane n' = y.lane n' := rfl
@[simp] theorem Sys.setPll_pol_read (y : Sys) (d p : Nat) (x : Pll) (n' : Nat) : (y.setPll d p x).pol n' = y.pol n' := rfl
@[simp] theorem Sys.setPll_tb_read (y : Sys) (d p : Nat) (x : Pll) (n' : Nat) : (y.setPll d p x).tb n' = y.tb n' := rfl
@[simp] theorem Sys.setPll_val_read (y : Sys) (d p : Nat) (x : Pll) (k' : Nat) : (y.setPll d p x).val k' = y.val k' := rfl
@[simp] theorem Sys.setPll_int_read (y : Sys) (d p : Nat) (x : Pll) (k' : Nat) : (y.setPll d p x).int k' = y.int k' := rfl
@[simp] theorem Sys.setPll_nat_read (y : Sys) (d p : Nat) (x : Pll) (k' : Nat) : (y.setPll d p x).nat k' = y.nat k' := rfl
@[simp] theorem Sys.setPll_bytes_read (y : Sys) (d p : Nat) (x : Pll) (k' : Nat) : (y.setPll d p x).bytes k' = y.bytes k' := rfl
@[simp] theorem Sys.setPll_flag_read (y : Sys) (d p : Nat) (x : Pll) (k' : Nat) : (y.setPll d p x).flag k' = y.flag k' := rfl
@[simp] theorem Sys.onPll_die_read (y : Sys) (d p : Nat) (f : Pll → Pll) (d' : Nat) : (y.onPll d p f).die d' = y.die d' := rfl
@[simp] theorem Sys.onPll_chan_read (y : Sys) (d p : Nat) (f : Pll → Pll) (n' : Nat) : (y.onPll d p f).chan n' = y.chan n' := rfl
@[simp] theorem Sys.onPll_cx_read (y : Sys) (d p : Nat) (f : Pll → Pll) (n' : Nat) : (y.onPll d p f).cx n' = y.cx n' := rfl
@[simp] theorem Sys.onPll_ly_read (y : Sys) (d p : Nat) (f : Pll → Pll) (n' : Nat) : (y.onPll d p f).ly n' = y.ly n' := rfl
@[simp] theorem Sys.onPll_au_read (y : Sys) (d p : Nat) (f : Pll → Pll) (n' : Nat) : (y.onPll d p f).au n' = y.au n' := rfl
@[simp] theorem Sys.onPll_port_read (y : Sys) (d p : Nat) (f : Pll → Pll) (n' : Nat) : (y.onPll d p f).port n' = y.port n' := rfl
@[simp] theorem Sys.onPll_lane_read (y : Sys) (d p : Nat) (f : Pll → Pll) (n' : Nat) : (y.onPll d p f).lane n' = y.lane n' := rfl
@[simp] theorem Sys.onPll_pol_read (y : Sys) (d p : Nat) (f : Pll → Pll) (n' : Nat) : (y.onPll d p f).pol n' = y.pol n' := rfl
@[simp] theorem Sys.onPll_tb_read (y : Sys) (d p : Nat) (f : Pll → Pll) (n' : Nat) : (y.onPll d p f).tb n' = y.tb n' := rfl
@[simp] theorem Sys.onPll_val_read (y : Sys) (d p : Nat) (f : Pll → Pll) (k' : Nat) : (y.onPll d p f).val k' = y.val k' := rfl
@[simp] theorem Sys.onPll_int_read (y : Sys) (d p : Nat) (f : Pll → Pll) (k' : Nat) : (y.onPll d p f).int k' = y.int k' := rfl
@[simp] theorem Sys.onPll_nat_read (y : Sys) (d p : Nat) (f : Pll → Pll) (k' : Nat) : (y.onPll d p f).nat k' = y.nat k' := rfl
@[simp] theorem Sys.onPll_bytes_read (y : Sys) (d p : Nat) (f : Pll → Pll) (k' : Nat) : (y.onPll d p f).bytes k' = y.bytes k' := rfl
@[simp] theorem Sys.onPll_flag_read (y : Sys) (d p : Nat) (f : Pll → Pll) (k' : Nat) : (y.onPll d p f).flag k' = y.flag k' := rfl
@[simp] theorem Sys.setVal_die_read (y : Sys) (k : Nat) (v : Val) (d' : Nat) : (y.setVal k v).die d' = y.die d' := rfl
@[simp] theorem Sys.setVal_chan_read (y : Sys) (k : Nat) (v : Val) (n' : Nat) : (y.setVal k v).chan n' = y.chan n' := rfl
@[simp] theorem Sys.setVal_cx_read (y : Sys) (k : Nat) (v : Val) (n' : Nat) : (y.setVal k v).cx n' = y.cx n' := rfl
@[simp] theorem Sys.setVal_ly_read (y : Sys) (k : Nat) (v : Val) (n' : Nat) : (y.setVal k v).ly n' = y.ly n' := rfl
@[simp] theorem Sys.setVal_au_read (y : Sys) (k : Nat) (v : Val) (n' : Nat) : (y.setVal k v).au n' = y.au n' := rfl
@[simp] theorem Sys.setVal_port_read (y : Sys) (k : Nat) (v : Val) (n' : Nat) : (y.setVal k v).port n' = y.port n' := rfl
@[simp] theorem Sys.setVal_lane_read (y : Sys) (k : Nat) (v : Val) (n' : Nat) : (y.setVal k v).lane n' = y.lane n' := rfl
@[simp] theorem Sys.setVal_pol_read (y : Sys) (k : Nat) (v : Val) (n' : Nat) : (y.setVal k v).pol n' = y.pol n' := rfl
@[simp] theorem Sys.setVal_tb_read (y : Sys) (k : Nat) (v : Val) (n' : Nat) : (y.setVal k v).tb n' = y.tb n' := rfl
@[simp] theorem Sys.setVal_pll_read (y : Sys) (k : Nat) (v : Val) (d' p' : Nat) : (y.setVal k v).pll d' p' = y.pll d' p' := rfl
@[simp] theorem Sys.setInt_die_read (y : Sys) (k : Nat) (i : Int) (d' : Nat) : (y.setInt k i).die d' = y.die d' := rfl
@[simp] theorem Sys.setInt_chan_read (y : Sys) (k : Nat) (i : Int) (n' : Nat) : (y.setInt k i).chan n' = y.chan n' := rfl
@[simp] theorem Sys.setInt_cx_read (y : Sys) (k : Nat) (i : Int) (n' : Nat) : (y.setInt k i).cx n' = y.cx n' := rfl
@[simp] theorem Sys.setInt_ly_read (y : Sys) (k : Nat) (i : Int) (n' : Nat) : (y.setInt k i).ly n' = y.ly n' := rfl
@[simp] theorem Sys.setInt_au_read (y : Sys) (k : Nat) (i : Int) (n' : Nat) : (y.setInt k i).au n' = y.au n' := rfl
@[simp] theorem Sys.setInt_port_read (y : Sys) (k : Nat) (i : Int) (n' : Nat) : (y.setInt k i).port n' = y.port n' := rfl
@[simp] theorem Sys.setInt_lane_read (y : Sys) (k : Nat) (i : Int) (n' : Nat) : (y.setInt k i).lane n' = y.lane n' := rfl
@[simp] theorem Sys.setInt_pol_read (y : Sys) (k : Nat) (i : Int) (n' : Nat) : (y.setInt k i).pol n' = y.pol n' := rfl
@[simp] theorem Sys.setInt_tb_read (y : Sys) (k : Nat) (i : Int) (n' : Nat) : (y.setInt k i).tb n' = y.tb n' := rfl
@[simp] theorem Sys.setInt_pll_read (y : Sys) (k : Nat) (i : Int) (d' p' : Nat) : (y.setInt k i).pll d' p' = y.pll d' p' := rfl
@[simp] theorem Sys.setBytes_die_read (y : Sys) (k : Nat) (b : List Byte) (d' : Nat) : (y.setBytes k b).die d' = y.die d' := rfl
@[simp] theorem Sys.setBytes_chan_read (y : Sys) (k : Nat) (b : List Byte) (n' : Nat) : (y.setBytes k b).chan n' = y.chan n' := rfl
@[simp] theorem Sys.setBytes_cx_read (y : Sys) (k : Nat) (b : List Byte) (n' : Nat) : (y.setBytes k b).cx n' = y.cx n' := rfl
@[simp] theorem Sys.setBytes_ly_read (y : Sys) (k : Nat) (b : List Byte) (n' : Nat) : (y.setBytes k b).ly n' = y.ly n' := rfl
@[simp] theorem Sys.setBytes_au_read (y : Sys) (k : Nat) (b : List Byte) (n' : Nat) : (y.setBytes k b).au n' = y.au n' := rfl
@[simp] theorem Sys.setBytes_port_read (y : Sys) (k : Nat) (b : List Byte) (n' : Nat) : (y.setBytes k b).port n' = y.port n' := rfl
@[simp] theorem Sys.setBytes_lane_read (y : Sys) (k : Nat) (b : List Byte) (n' : Nat) : (y.setBytes k b).lane n' = y.lane n' := rfl
@[simp] theorem Sys.setBytes_pol_read (y : Sys) (k : Nat) (b : List Byte) (n' : Nat) : (y.setBytes k b).pol n' = y.pol n' := rfl
@[simp] theorem Sys.setBytes_tb_read (y : Sys) (k : Nat) (b : List Byte) (n' : Nat) : (y.setBytes k b).tb n' = y.tb n' := rfl
@[simp] theorem Sys.setBytes_pll_read (y : Sys) (k : Nat) (b : List Byte) (d' p' : Nat) : (y.setBytes k b).pll d' p' = y.pll d' p' := rfl
@[simp] theorem Sys.bump_die_read (y : Sys) (k n : Nat) (d' : Nat) : (y.bump k n).die d' = y.die d' := rfl
@[simp] theorem Sys.bump_chan_read (y : Sys) (k n : Nat) (n' : Nat) : (y.bump k n).chan n' = y.chan n' := rfl
@[simp] theorem Sys.bump_cx_read (y : Sys) (k n : Nat) (n' : Nat) : (y.bump k n).cx n' = y.cx n' := rfl
@[simp] theorem Sys.bump_ly_read (y : Sys) (k n : Nat) (n' : Nat) : (y.bump k n).ly n' = y.ly n' := rfl
@[simp] theorem Sys.bump_au_read (y : Sys) (k n : Nat) (n' : Nat) : (y.bump k n).au n' = y.au n' := rfl
@[simp] theorem Sys.bump_port_read (y : Sys) (k n : Nat) (n' : Nat) : (y.bump k n).port n' = y.port n' := rfl
@[simp] theorem Sys.bump_lane_read (y : Sys) (k n : Nat) (n' : Nat) : (y.bump k n).lane n' = y.lane n' := rfl
@[simp] theorem Sys.bump_pol_read (y : Sys) (k n : Nat) (n' : Nat) : (y.bump k n).pol n' = y.pol n' := rfl
@[simp] theorem Sys.bump_tb_read (y : Sys) (k n : Nat) (n' : Nat) : (y.bump k n).tb n' = y.tb n' := rfl
@[simp] theorem Sys.bump_pll_read (y : Sys) (k n : Nat) (d' p' : Nat) : (y.bump k n).pll d' p' = y.pll d' p' := rfl
@[simp] theorem Sys.setShadow_die_read (y : Sys) (k : Nat) (v : Val) (d' : Nat) : (y.setShadow k v).die d' = y.die d' := rfl
@[simp] theorem Sys.setShadow_chan_read (y : Sys) (k : Nat) (v : Val) (n' : Nat) : (y.setShadow k v).chan n' = y.chan n' := rfl
@[simp] theorem Sys.setShadow_cx_read (y : Sys) (k : Nat) (v : Val) (n' : Nat) : (y.setShadow k v).cx n' = y.cx n' := rfl
@[simp] theorem Sys.setShadow_ly_read (y : Sys) (k : Nat) (v : Val) (n' : Nat) : (y.setShadow k v).ly n' = y.ly n' := rfl
@[simp] theorem Sys.setShadow_au_read (y : Sys) (k : Nat) (v : Val) (n' : Nat) : (y.setShadow k v).au n' = y.au n' := rfl
@[simp] theorem Sys.setShadow_port_read (y : Sys) (k : Nat) (v : Val) (n' : Nat) : (y.setShadow k v).port n' = y.port n' := rfl
@[simp] theorem Sys.setShadow_lane_read (y : Sys) (k : Nat) (v : Val) (n' : Nat) : (y.setShadow k v).lane n' = y.lane n' := rfl
@[simp] theorem Sys.setShadow_pol_read (y : Sys) (k : Nat) (v : Val) (n' : Nat) : (y.setShadow k v).pol n' = y.pol n' := rfl
@[simp] theorem Sys.setShadow_tb_read (y : Sys) (k : Nat) (v : Val) (n' : Nat) : (y.setShadow k v).tb n' = y.tb n' := rfl
@[simp] theorem Sys.setShadow_pll_read (y : Sys) (k : Nat) (v : Val) (d' p' : Nat) : (y.setShadow k v).pll d' p' = y.pll d' p' := rfl
@[simp] theorem Sys.setShadow_val_read (y : Sys) (k : Nat) (v : Val) (k' : Nat) : (y.setShadow k v).val k' = y.val k' := rfl
@[simp] theorem Sys.setShadow_int_read (y : Sys) (k : Nat) (v : Val) (k' : Nat) : (y.setShadow k v).int k' = y.int k' := rfl
@[simp] theorem Sys.setShadow_nat_read (y : Sys) (k : Nat) (v : Val) (k' : Nat) : (y.setShadow k v).nat k' = y.nat k' := rfl
@[simp] theorem Sys.setShadow_bytes_read (y : Sys) (k : Nat) (v : Val) (k' : Nat) : (y.setShadow k v).bytes k' = y.bytes k' := rfl
@[simp] theorem Sys.setShadow_flag_read (y : Sys) (k : Nat) (v : Val) (k' : Nat) : (y.setShadow k v).flag k' = y.flag k' := rfl
@[simp] theorem Sys.raise_die_read (y : Sys) (c d a : Nat) (d' : Nat) : (y.raise c d a).die d' = y.die d' := rfl
@[simp] theorem Sys.raise_chan_read (y : Sys) (c d a : Nat) (n' : Nat) : (y.raise c d a).chan n' = y.chan n' := rfl
@[simp] theorem Sys.raise_cx_read (y : Sys) (c d a : Nat) (n' : Nat) : (y.raise c d a).cx n' = y.cx n' := rfl
@[simp] theorem Sys.raise_ly_read (y : Sys) (c d a : Nat) (n' : Nat) : (y.raise c d a).ly n' = y.ly n' := rfl
@[simp] theorem Sys.raise_au_read (y : Sys) (c d a : Nat) (n' : Nat) : (y.raise c d a).au n' = y.au n' := rfl
@[simp] theorem Sys.raise_port_read (y : Sys) (c d a : Nat) (n' : Nat) : (y.raise c d a).port n' = y.port n' := rfl
@[simp] theorem Sys.raise_lane_read (y : Sys) (c d a : Nat) (n' : Nat) : (y.raise c d a).lane n' = y.lane n' := rfl
@[simp] theorem Sys.raise_pol_read (y : Sys) (c d a : Nat) (n' : Nat) : (y.raise c d a).pol n' = y.pol n' := rfl
@[simp] theorem Sys.raise_tb_read (y : Sys) (c d a : Nat) (n' : Nat) : (y.raise c d a).tb n' = y.tb n' := rfl
@[simp] theorem Sys.raise_pll_read (y : Sys) (c d a : Nat) (d' p' : Nat) : (y.raise c d a).pll d' p' = y.pll d' p' := rfl
@[simp] theorem Sys.raise_val_read (y : Sys) (c d a : Nat) (k' : Nat) : (y.raise c d a).val k' = y.val k' := rfl
@[simp] theorem Sys.raise_int_read (y : Sys) (c d a : Nat) (k' : Nat) : (y.raise c d a).int k' = y.int k' := rfl
@[simp] theorem Sys.raise_nat_read (y : Sys) (c d a : Nat) (k' : Nat) : (y.raise c d a).nat k' = y.nat k' := rfl
@[simp] theorem Sys.raise_bytes_read (y : Sys) (c d a : Nat) (k' : Nat) : (y.raise c d a).bytes k' = y.bytes k' := rfl
@[simp] theorem Sys.raise_flag_read (y : Sys) (c d a : Nat) (k' : Nat) : (y.raise c d a).flag k' = y.flag k' := rfl
@[simp] theorem Sys.raiseLimited_die_read (y : Sys) (c k d a : Nat) (d' : Nat) : (y.raiseLimited c k d a).die d' = y.die d' := by unfold Sys.raiseLimited; split <;> rfl
@[simp] theorem Sys.raiseLimited_chan_read (y : Sys) (c k d a : Nat) (n' : Nat) : (y.raiseLimited c k d a).chan n' = y.chan n' := by unfold Sys.raiseLimited; split <;> rfl
@[simp] theorem Sys.raiseLimited_cx_read (y : Sys) (c k d a : Nat) (n' : Nat) : (y.raiseLimited c k d a).cx n' = y.cx n' := by unfold Sys.raiseLimited; split <;> rfl
@[simp] theorem Sys.raiseLimited_ly_read (y : Sys) (c k d a : Nat) (n' : Nat) : (y.raiseLimited c k d a).ly n' = y.ly n' := by unfold Sys.raiseLimited; split <;> rfl
@[simp] theorem Sys.raiseLimited_au_read (y : Sys) (c k d a : Nat) (n' : Nat) : (y.raiseLimited c k d a).au n' = y.au n' := by unfold Sys.raiseLimited; split <;> rfl
@[simp] theorem Sys.raiseLimited_port_read (y : Sys) (c k d a : Nat) (n' : Nat) : (y.raiseLimited c k d a).port n' = y.port n' := by unfold Sys.raiseLimited; split <;> rfl
@[simp] theorem Sys.raiseLimited_lane_read (y : Sys) (c k d a : Nat) (n' : Nat) : (y.raiseLimited c k d a).lane n' = y.lane n' := by unfold Sys.raiseLimited; split <;> rfl
@[simp] theorem Sys.raiseLimited_pol_read (y : Sys) (c k d a : Nat) (n' : Nat) : (y.raiseLimited c k d a).pol n' = y.pol n' := by unfold Sys.raiseLimited; split <;> rfl
@[simp] theorem Sys.raiseLimited_tb_read (y : Sys) (c k d a : Nat) (n' : Nat) : (y.raiseLimited c k d a).tb n' = y.tb n' := by unfold Sys.raiseLimited; split <;> rfl
@[simp] theorem Sys.raiseLimited_pll_read (y : Sys) (c k d a : Nat) (d' p' : Nat) : (y.raiseLimited c k d a).pll d' p' = y.pll d' p' := by unfold Sys.raiseLimited; split <;> rfl
@[simp] theorem Sys.raiseLimited_val_read (y : Sys) (c k d a : Nat) (k' : Nat) : (y.raiseLimited c k d a).val k' = y.val k' := by unfold Sys.raiseLimited; split <;> rfl
@[simp] theorem Sys.raiseLimited_int_read (y : Sys) (c k d a : Nat) (k' : Nat) : (y.raiseLimited c k d a).int k' = y.int k' := by unfold Sys.raiseLimited; split <;> rfl
@[simp] theorem Sys.raiseLimited_nat_read (y : Sys) (c k d a : Nat) (k' : Nat) : (y.raiseLimited c k d a).nat k' = y.nat k' := by unfold Sys.raiseLimited; split <;> rfl
@[simp] theorem Sys.raiseLimited_bytes_read (y : Sys) (c k d a : Nat) (k' : Nat) : (y.raiseLimited c k d a).bytes k' = y.bytes k' := by unfold Sys.raiseLimited; split <;> rfl
@[simp] theorem Sys.raiseLimited_flag_read (y : Sys) (c k d a : Nat) (k' : Nat) : (y.raiseLimited c k d a).flag k' = y.flag k' := by unfold Sys.raiseLimited; split <;> rfl

@[simp] theorem Sys.setDie_self (y : Sys) (n : Nat) (x : Die) : (y.setDie n x).die n = x := Tab.find_put_self ..
theorem Sys.setDie_other (y : Sys) (n m : Nat) (x : Die) (h : m ≠ n) : (y.setDie n x).die m = y.die m := Tab.find_put_other _ _ _ h
@[simp] theorem Sys.onDie_self (y : Sys) (n : Nat) (f : Die → Die) : (y.onDie n f).die n = f (y.die n) := Tab.find_put_self ..
theorem Sys.onDie_other (y : Sys) (n m : Nat) (f : Die → Die) (h : m ≠ n) : (y.onDie n f).die m = y.die m := Tab.find_put_other _ _ _ h
@[simp] theorem Sys.setChan_self (y : Sys) (n : Nat) (x : Chan) : (y.setChan n x).chan n = x := Tab.find_put_self ..
theorem Sys.setChan_other (y : Sys) (n m : Nat) (x : Chan) (h : m ≠ n) : (y.setChan n x).chan m = y.chan m := Tab.find_put_other _ _ _ h
@[simp] theorem Sys.onChan_self (y : Sys) (n : Nat) (f : Chan → Chan) : (y.onChan n f).chan n = f (y.chan n) := Tab.find_put_self ..
theorem Sys.onChan_other (y : Sys) (n m : Nat) (f : Chan → Chan) (h : m ≠ n) : (y.onChan n f).chan m = y.chan m := Tab.find_put_other _ _ _ h
@[simp] theorem Sys.setCx_self (y : Sys) (n : Nat) (x : Cx) : (y.setCx n x).cx n = x := Tab.find_put_self ..
theorem Sys.setCx_other (y : Sys) (n m : Nat) (x : Cx) (h : m ≠ n) : (y.setCx n x).cx m = y.cx m := Tab.find_put_other _ _ _ h
@[simp] theorem Sys.onCx_self (y : Sys) (n : Nat) (f : Cx → Cx) : (y.onCx n f).cx n = f (y.cx n) := Tab.find_put_self ..
theorem Sys.onCx_other (y : Sys) (n m : Nat) (f : Cx → Cx) (h : m ≠ n) : (y.onCx n f).cx m = y.cx m := Tab.find_put_other _ _ _ h
@[simp] theorem Sys.setLy_self (y : Sys) (n : Nat) (x : Ly) : (y.setLy n x).ly n = x := Tab.find_put_self ..
theorem Sys.setLy_other (y : Sys) (n m : Nat) (x : Ly) (h : m ≠ n) : (y.setLy n x).ly m = y.ly m := Tab.find_put_other _ _ _ h
@[simp] theorem Sys.onLy_self (y : Sys) (n : Nat) (f : Ly → Ly) : (y.onLy n f).ly n = f (y.ly n) := Tab.find_put_self ..
theorem Sys.onLy_other (y : Sys) (n m : Nat) (f : Ly → Ly) (h : m ≠ n) : (y.onLy n f).ly m = y.ly m := Tab.find_put_other _ _ _ h
@[simp] theorem Sys.setAu_self (y : Sys) (n : Nat) (x : Au) : (y.setAu n x).au n = x := Tab.find_put_self ..
theorem Sys.setAu_other (y : Sys) (n m : Nat) (x : Au) (h : m ≠ n) : (y.setAu n x).au m = y.au m := Tab.find_put_other _ _ _ h
@[simp] theorem Sys.onAu_self (y : Sys) (n : Nat) (f : Au → Au) : (y.onAu n f).au n = f (y.au n) := Tab.find_put_self ..
theorem Sys.onAu_other (y : Sys) (n m : Nat) (f : Au → Au) (h : m ≠ n) : (y.onAu n f).au m = y.au m := Tab.find_put_other _ _ _ h
@[simp] theorem Sys.setPort_self (y : Sys) (n : Nat) (x : Port) : (y.setPort n x).port n = x := Tab.find_put_self ..
theorem Sys.setPort_other (y : Sys) (n m : Nat) (x : Port) (h : m ≠ n) : (y.setPort n x).port m = y.port m := Tab.find_put_other _ _ _ h
@[simp] theorem Sys.onPort_self (y : Sys) (n : Nat) (f : Port → Port) : (y.onPort n f).port n = f (y.port n) := Tab.find_put_self ..
theorem Sys.onPort_other (y : Sys) (n m : Nat) (f : Port → Port) (h : m ≠ n) : (y.onPort n f).port m = y.port m := Tab.find_put_other _ _ _ h
@[simp] theorem Sys.setLane_self (y : Sys) (n : Nat) (x : Lane) : (y.setLane n x).lane n = x := Tab.find_put_self ..
theorem Sys.setLane_other (y : Sys) (n m : Nat) (x : Lane) (h : m ≠ n) : (y.setLane n x).lane m = y.lane m := Tab.find_put_other _ _ _ h
@[simp] theorem Sys.onLane_self (y : Sys) (n : Nat) (f : Lane → Lane) : (y.onLane n f).lane n = f (y.lane n) := Tab.find_put_self ..
theorem Sys.onLane_other (y : Sys) (n m : Nat) (f : Lane → Lane) (h : m ≠ n) : (y.onLane n f).lane m = y.lane m := Tab.find_put_other _ _ _ h
@[simp] theorem Sys.setPol_self (y : Sys) (n : Nat) (x : Pol) : (y.setPol n x).pol n = x := Tab.find_put_self ..
theorem Sys.setPol_other (y : Sys) (n m : Nat) (x : Pol) (h : m ≠ n) : (y.setPol n x).pol m = y.pol m := Tab.find_put_other _ _ _ h
@[simp] theorem Sys.setTb_self (y : Sys) (n : Nat) (x : Tb) : (y.setTb n x).tb n = x := Tab.find_put_self ..
theorem Sys.setTb_other (y : Sys) (n m : Nat) (x : Tb) (h : m ≠ n) : (y.setTb n x).tb m = y.tb m := Tab.find_put_other _ _ _ h
@[simp] theorem Sys.onTb_self (y : Sys) (n : Nat) (f : Tb → Tb) : (y.onTb n f).tb n = f (y.tb n) := Tab.find_put_self ..
theorem Sys.onTb_other (y : Sys) (n m : Nat) (f : Tb → Tb) (h : m ≠ n) : (y.onTb n f).tb m = y.tb m := Tab.find_put_other _ _ _ h
@[simp] theorem Sys.setPll_self (y : Sys) (d p : Nat) (x : Pll) : (y.setPll d p x).pll d p = x := Tab.find_put_self ..
@[simp] theorem Sys.onPll_self (y : Sys) (d p : Nat) (f : Pll → Pll) : (y.onPll d p f).pll d p = f (y.pll d p) := Tab.find_put_self ..
theorem Sys.setPll_other (y : Sys) (d p e q : Nat) (x : Pll) (h : 8 * e + q ≠ 8 * d + p) : (y.setPll d p x).pll e q = y.pll e q :=
  Tab.find_put_other _ _ _ h
@[simp] theorem Sys.setVal_self (y : Sys) (k : Nat) (v : Val) : (y.setVal k v).val k = v := Tab.find_put_self ..
theorem Sys.setVal_other (y : Sys) (k j : Nat) (v : Val) (h : j ≠ k) : (y.setVal k v).val j = y.val j := Tab.find_put_other _ _ _ h
@[simp] theorem Sys.setInt_self (y : Sys) (k : Nat) (i : Int) : (y.setInt k i).int k = i := by
  simp [Sys.int, Sys.setInt, Val.toInt]
@[simp] theorem Sys.setInt_nat (y : Sys) (k n : Nat) : (y.setInt k n).nat k = n := by
  simp [Sys.nat, Sys.setInt, Val.nat, Val.toInt]
theorem Sys.setInt_other (y : Sys) (k j : Nat) (i : Int) (h : j ≠ k) : (y.setInt k i).val j = y.val j := Sys.setVal_other _ _ _ _ h
@[simp] theorem Sys.setBytes_self (y : Sys) (k : Nat) (b : List Byte) : (y.setBytes k b).bytes k = b := by
  simp [Sys.bytes, Sys.setBytes, Val.toBytes]
/-- A counter counts and wraps at its width. -/
@[simp] theorem Sys.bump_nat (y : Sys) (k n : Nat) : (y.bump k n).nat k = (y.nat k + n) % wrapOf y.part.dies k := by
  unfold Sys.bump; rw [Sys.setInt_nat]
theorem Sys.bump_other (y : Sys) (k n j : Nat) (h : j ≠ k) : (y.bump k n).val j = y.val j := Sys.setVal_other _ _ _ _ h
@[simp] theorem Sys.setShadow_self (y : Sys) (k : Nat) (v : Val) : (y.setShadow k v).shadowVal k = v := Tab.find_put_self ..
/-- `cond` and `each` in their two cases. -/
@[simp] theorem Sys.cond_true (f : Sys → Sys) (y : Sys) : y.cond true f = f y := rfl
@[simp] theorem Sys.cond_false (f : Sys → Sys) (y : Sys) : y.cond false f = y := rfl
@[simp] theorem Sys.each_nil {α : Type} (f : α → Sys → Sys) (y : Sys) : y.each [] f = y := rfl
@[simp] theorem Sys.each_cons {α : Type} (a : α) (l : List α) (f : α → Sys → Sys) (y : Sys) : y.each (a :: l) f = (f a y).each l f := rfl
/-- What every change of a list keeps, the whole keeps. -/
theorem Sys.each_keeps {α β : Type} (g : Sys → β) (f : α → Sys → Sys) (h : ∀ a y, g (f a y) = g y) (l : List α) (y : Sys) :
    g (y.each l f) = g y := by
  induction l generalizing y with
  | nil => rfl
  | cons a l ih => rw [Sys.each_cons, ih, h]
/-- A rate-limited event that was not raised within the second is raised (R524). -/
theorem Sys.raiseLimited_fresh (y : Sys) (c k d a : Nat) (h : y.recent c k = false) :
    (y.raiseLimited c k d a).evs.raised = y.evs.raised ++ [{ code := c, die := d, arg := a, t := y.now }] := by
  simp [Sys.raiseLimited, h, Sys.raise]
/-- One that was is not. -/
theorem Sys.raiseLimited_recent (y : Sys) (c k d a : Nat) (h : y.recent c k = true) :
    (y.raiseLimited c k d a).evs.raised = y.evs.raised := by
  simp [Sys.raiseLimited, h]
/-- A list of events is only ever added to. -/
theorem Sys.raiseLimited_prefix (y : Sys) (c k d a : Nat) : y.evs.raised <+: (y.raiseLimited c k d a).evs.raised := by
  cases h : y.recent c k
  · rw [Sys.raiseLimited_fresh _ _ _ _ _ h]; exact ⟨_, rfl⟩
  · rw [Sys.raiseLimited_recent _ _ _ _ _ h]

end Sys2Proof.Machine
end

