-- ==== Sys2Proof/Laws/Frames.lean ====
section
/-! SUPPORT. What the larger shared operations leave alone. -/

namespace Sys2Proof.Machine

/-- Changes that reach only the dies. -/
def Sys.OnlyDies (f : Sys → Sys) : Prop := ∀ y, ∃ ds, f y = { y with dies := ds }

theorem onlyDies_turn (d n : Nat) : Sys.OnlyDies (Sys.domainTurn d n) := by
  induction n with
  | zero => exact fun y => ⟨y.dies, rfl⟩
  | succ n ih =>
    intro y
    unfold Sys.domainTurn
    dsimp only
    split
    · exact ⟨y.dies, rfl⟩
    · split
      · exact ⟨y.dies, rfl⟩
      · obtain ⟨ds, h⟩ := ih (y.setDie d _)
        exact ⟨ds, h⟩

theorem onlyDies_powerDie (d : Nat) : Sys.OnlyDies (Sys.powerDie d) := by
  intro y
  obtain ⟨ds, h⟩ := onlyDies_turn d 4 (y.setDie d _)
  exact ⟨ds, h⟩

theorem onlyDies_each {α : Type} (f : α → Sys → Sys) (h : ∀ a, Sys.OnlyDies (f a)) (l : List α) : Sys.OnlyDies fun y => y.each l f := by
  induction l with
  | nil => exact fun y => ⟨y.dies, rfl⟩
  | cons a l ih =>
    intro y
    obtain ⟨ds, e⟩ := h a y
    obtain ⟨ds', e'⟩ := ih (f a y)
    refine ⟨ds', ?_⟩
    show (f a y).each l f = _
    dsimp only at e'
    rw [e', e]

/-- Powering domains changes nothing but the dies (R483). -/
theorem onlyDies_powerAll : Sys.OnlyDies Sys.powerAll := fun y => onlyDies_each _ onlyDies_powerDie _ y

/-- `y` is `z` but for the dies and the layers: what taking and returning memory of layers changes (R216). -/
def Sys.SameButLayers (z y : Sys) : Prop := ∃ ds op, y = { z with dies := ds, opal := op }

theorem Sys.SameButLayers.refl (z : Sys) : z.SameButLayers z := ⟨z.dies, z.opal, rfl⟩
theorem Sys.SameButLayers.trans {x y z : Sys} (h : x.SameButLayers y) (k : y.SameButLayers z) : x.SameButLayers z := by
  obtain ⟨a, b, rfl⟩ := h
  obtain ⟨c, d, rfl⟩ := k
  exact ⟨c, d, rfl⟩

theorem sameLayers_each {α : Type} (f : α → Sys → Sys) (h : ∀ (a : α) (y : Sys), y.SameButLayers (f a y)) (l : List α) (y : Sys) :
    y.SameButLayers (y.each l f) := by
  induction l generalizing y with
  | nil => exact .refl y
  | cons a l ih => exact (h a y).trans (ih _)

theorem sameLayers_onDie (d : Nat) (f : Die → Die) (y : Sys) : y.SameButLayers (y.onDie d f) := ⟨(y.onDie d f).dies, y.opal, rfl⟩
theorem sameLayers_setLy (l : Nat) (x : Ly) (y : Sys) : y.SameButLayers (y.setLy l x) := ⟨y.dies, (y.setLy l x).opal, rfl⟩
theorem sameLayers_dropRuns (d o : Nat) (y : Sys) : y.SameButLayers (y.dropRuns d o) :=
  .trans (sameLayers_onDie _ _ _) (sameLayers_onDie _ _ _)

theorem sameLayers_release (d : Nat) (gone : Nat → Bool) (y : Sys) : y.SameButLayers (y.lyRelease d gone) := by
  refine sameLayers_each _ (fun l y => ?_) _ y
  dsimp only
  split
  · exact .refl y
  · refine Sys.SameButLayers.trans ?_ (sameLayers_setLy l _ _)
    exact sameLayers_each (α := Nat × Nat × Nat) (fun e y => y.dropRuns d e.1) (fun e y => sameLayers_dropRuns d e.1 y) _ y

theorem sameLayers_takeRuns (d own : Nat) (sizes : List Nat) (y z : Sys) (h : y.takeRuns d own sizes = some z) : y.SameButLayers z := by
  unfold Sys.takeRuns at h
  dsimp only at h
  split at h
  · cases h; exact sameLayers_onDie _ _ _
  · unfold Sys.heapAlloc at h
    cases hh : heapTake own sizes (y.die d).heap with
    | none => rw [hh] at h; cases h
    | some x => rw [hh] at h; cases h; exact sameLayers_onDie _ _ _

theorem sameLayers_reserve (g : Nat → Val) (c kind seq : Nat) (y z : Sys) (h : y.lyReserve g c kind seq = some z) : y.SameButLayers z := by
  unfold Sys.lyReserve at h
  have key : ∀ (l : List Nat) (r : Option Sys), (∀ x, r = some x → y.SameButLayers x) → ∀ z, l.foldl (fun (r : Option Sys) l => r.bind fun y =>
      let sizes := y.lyWant g l c kind
      let b := sizes.foldl (· + ·) 0
      let x := y.ly l
      if b = 0 ∨ lyHolds x kind = b then some y
      else
        let own := ((List.range 32).map fun j => owner kind (l + 128 * j)).find? fun o => !x.heaps.any fun e => e.1 == o
        own.bind fun o => (y.takeRuns (l / 16) o sizes).map fun y => y.onLy l fun x => { x with heaps := x.heaps ++ [(o, b, seq + 2)] }) r = some z →
      y.SameButLayers z := by
    intro l
    induction l with
    | nil => intro r hr z hz; exact hr z hz
    | cons a l ih =>
      intro r hr z hz
      refine ih _ (fun x hx => ?_) z hz
      cases r with
      | none => cases hx
      | some w =>
        have hw := hr w rfl
        dsimp only [Option.bind] at hx
        split at hx
        · cases hx; exact hw
        · split at hx
          · cases hx
          · next o ho =>
            obtain ⟨v, ht, rfl⟩ := Option.map_eq_some_iff.mp hx
            exact (hw.trans (sameLayers_takeRuns _ _ _ _ _ ht)).trans (sameLayers_setLy _ _ _)
  exact key _ _ (fun x hx => by cases hx; exact .refl y) z h

end Sys2Proof.Machine
end

