-- ==== Sys2Proof/Laws/Requests.lean ====
section
/-! SUPPORT. Laws of management requests: what a served request does, said once, and where the objects of the special writes lie. -/

namespace Sys2Proof.Machine

/-- A served request runs its service on the state as it arrives, and the answer takes its place in the session. -/
theorem request_served {dt : Nat} {rq : Req} {cmd idx sub flags : Nat} {data : List Byte} {bytes : Nat} {serve : Full → Ans × Full}
    {s : State} {z : Sys}
    (h : Serves dt rq.src { cmd := cmd, seq := rq.seq % 256, idx := idx, sub := sub, flags := flags, data := data } bytes s z) :
    request rq cmd idx sub flags data bytes serve (s.mem, s.flash, s.sys.elapse dt) =
      (serve (s.mem, s.flash, z)).2.map (z.reply rq.src { cmd := cmd, seq := rq.seq % 256, idx := idx, sub := sub, flags := flags, data := data }
        (answerTo { cmd := cmd, seq := rq.seq % 256, idx := idx, sub := sub, flags := flags, data := data } (serve (s.mem, s.flash, z)).1)) := by
  generalize hm : ({ cmd := cmd, seq := rq.seq % 256, idx := idx, sub := sub, flags := flags, data := data } : Msg) = m at h ⊢
  have hr : (((z.session rq.src).getD { src := rq.src }).stored.find? fun (r : Stored) => r.req == m && decide (z.now < r.t + secU 1)) = none := by
    rw [List.find?_eq_none]
    intro r hr
    cases hs : z.session rq.src with
    | none => rw [hs] at hr; cases hr
    | some w =>
      rw [hs] at hr
      have := h.noRepeat w hs r hr
      simpa using this
  have hq : ¬8 ≤ (((z.session rq.src).getD { src := rq.src }).outst.filter fun (o : Outst) => !o.turned).length := by
    cases hs : z.session rq.src with
    | none => simp
    | some w => exact Nat.not_le.mpr (h.room w hs)
  simp only [request, hm, h.arrives, if_true, arrive, h.hears, h.opens, handle, hr, hq, if_false, h.admits, Bool.not_true,
    Bool.false_eq_true, h.reach, Full.map, Sys.reply]

/-- A served write does what `writeObject` does, and its answer is queued. -/
theorem wholeWrite_served {dt : Nat} {rq : Req} {idx sub : Nat} {b : List Byte} {s : State} {z : Sys}
    (h : Serves dt rq.src (writeMsg rq idx sub b) 0 s z) :
    actMem dt (onAll (wholeWrite rq idx sub b)) s =
      let r := writeObject rq.src idx sub b (s.mem, s.flash, z)
      let a : Ans := match r.1 with
        | none => .ok (0x82, [])
        | some e => .error e
      .next { s with mem := r.2.1, flash := r.2.2.1,
                     sys := z.reply rq.src (writeMsg rq idx sub b) (answerTo (writeMsg rq idx sub b) a) r.2.2.2 } := by
  have e : wholeWrite rq idx sub b (s.mem, s.flash, s.sys.elapse dt) = _ := request_served h
  simp only [actMem, onAll]
  rw [e]
  simp only [Full.map, serveWrite, writeMsg]
  cases (writeObject rq.src idx sub b (s.mem, s.flash, z)).1 <;> rfl

/-- A write that leaves package memory and the flash alone and is accepted with effect `y`. -/
theorem wholeWrite_done {dt : Nat} {rq : Req} {idx sub : Nat} {b : List Byte} {s : State} {z y : Sys}
    (h : Serves dt rq.src (writeMsg rq idx sub b) 0 s z)
    (hw : writeObject rq.src idx sub b (s.mem, s.flash, z) = (none, (s.mem, s.flash, y))) :
    actMem dt (onAll (wholeWrite rq idx sub b)) s =
      .next { s with sys := z.reply rq.src (writeMsg rq idx sub b) (written (writeMsg rq idx sub b)) y } := by
  rw [wholeWrite_served h, hw]; rfl

/-- Where a write leads once its object is found and its bytes make a value. -/
theorem writeObject_value {src : Src} {idx sub : Nat} {b : List Byte} {m fl : List Host.Cell} {z : Sys} {l : Loc} {v : Val}
    (hl : locate z.part.dies idx sub = some l) (ha : l.row.acc ≠ .ro ∧ l.row.acc ≠ .const) (hv : decodeWrite l b = .ok v)
    (hb : z.valueBarred (objKey idx sub) l v = false) :
    writeObject src idx sub b (m, fl, z) = writeValue src (objKey idx sub) l v (m, fl, z) := by
  unfold writeObject writableAt
  rw [show (m, fl, z).2.2 = z from rfl, hl]
  simp only [ha.1, ha.2, or_self, if_false, hv, hb, Bool.false_eq_true]

theorem ObjRow.span_plain (r : ObjRow) (base dies : Nat) (h : perDie base = false) : r.span base dies = r.cnt := by
  simp [ObjRow.span, h]

/-- The row that covers a subindex does not depend on the variant where the index is not one entry for each die. -/
theorem rowFor_plain (base dies sub : Nat) (h : perDie base = false) (rows : List ObjRow) :
    rowFor base dies sub rows = rowFor base 0 sub rows := by
  induction rows with
  | nil => rfl
  | cons r rs ih => simp only [rowFor, ObjRow.span_plain _ _ _ h, ih]

/-- Find an object of an index that is split into instances. -/
theorem locate_at {dies idx sub base inst inner limit : Nat} {row : ObjRow} (hs : splitIndex dies idx sub = (base, inst, inner, limit))
    (h0 : sub ≠ 0) (h1 : inner ≠ 0) (hi : inst < limit) (hp : perDie base = false)
    (hr : rowFor base 0 inner (rowsOf base) = some row) : locate dies idx sub = some ⟨base, inst, inner, row⟩ := by
  unfold locate
  simp only [hs, h0, if_false, h1, or_false, Nat.not_le.mpr hi, rowFor_plain base dies inner hp, hr]

theorem split_port (dies p sub : Nat) (h : p < 96) : splitIndex dies (strideIdx 0x3300 2 96 p) sub = (0x3300, p, sub, 12 * dies) := by
  unfold strideIdx splitIndex
  simp (disch := omega) only [if_pos, if_neg, Prod.mk.injEq, and_true]
  omega

theorem split_chan (dies c sub k : Nat) (h : c < 128) (hk : k < 32) (h7 : k ≠ 7) :
    splitIndex dies (strideIdx (0x2000 + k) 0x20 128 c) sub = (0x2000 + k, c, sub, 16 * dies) := by
  unfold strideIdx splitIndex
  simp (disch := omega) only [if_pos, if_neg, Prod.mk.injEq, and_true]
  omega

theorem split_cx (dies c sub : Nat) (h : c < 32) : splitIndex dies (strideIdx 0x3000 8 32 c) sub = (0x3000, c, sub, 4 * dies) := by
  unfold strideIdx splitIndex
  simp (disch := omega) only [if_pos, if_neg, Prod.mk.injEq, and_true]
  omega

theorem split_au (dies a sub : Nat) (h : a < 32) : splitIndex dies (strideIdx 0x3200 2 32 a) sub = (0x3200, a, sub, 4 * dies) := by
  unfold strideIdx splitIndex
  simp (disch := omega) only [if_pos, if_neg, Prod.mk.injEq, and_true]
  omega

theorem split_tb (dies b sub : Nat) (h : b < 8) : splitIndex dies (strideIdx 0x3500 2 8 b) sub = (0x3500, b, sub, 8) := by
  unfold strideIdx splitIndex
  simp (disch := omega) only [if_pos, if_neg, Prod.mk.injEq, and_true]
  omega

theorem split_pll (dies p sub : Nat) (h : p < 6) : splitIndex dies (strideIdx 0x3800 1 6 p) sub = (0x3800, p, sub, 6) := by
  unfold strideIdx splitIndex
  simp (disch := omega) only [if_pos, if_neg, Prod.mk.injEq, and_true, true_and]
  omega

theorem split_lane (dies l sub : Nat) (h : l < 96) : splitIndex dies (strideIdx 0x3900 1 96 l) sub = (0x3900, l, sub, 12 * dies) := by
  unfold strideIdx splitIndex
  simp (disch := omega) only [if_pos, if_neg, Prod.mk.injEq, and_true, true_and]
  omega

theorem split_pol (dies q sub : Nat) (h : q < 2048) (h1 : 1 ≤ sub) (h2 : sub < 32) :
    splitIndex dies (if q < 2048 then 0x3400 + q / 8 else 0) (0x20 * (q % 8) + sub) = (0x3400, q, sub, 256 * dies) := by
  unfold splitIndex
  simp (disch := omega) only [if_pos, if_neg, Prod.mk.injEq, and_true, true_and]
  omega

end Sys2Proof.Machine
end

