-- ==== Sys2Proof/Laws/Writes.lean ====
section
/-! SUPPORT. Where each special write leads: one law per object, from the bytes of the write to the operation it runs. -/

namespace Sys2Proof.Machine

theorem leNat_leBytes (n v : Nat) : leNat (leBytes n v) = v % 256 ^ n := by
  induction n generalizing v with
  | zero => simp [leBytes, leNat, Nat.mod_one]
  | succ n ih =>
    rw [leBytes, leNat, ih, BitVec.toNat_ofNat, show 256 ^ (n + 1) = 256 * 256 ^ n from Nat.pow_succ', show (2 : Nat) ^ 8 = 256 from rfl, Nat.mod_mul]

theorem leBytes_length (n v : Nat) : (leBytes n v).length = n := by
  induction n generalizing v with
  | zero => rfl
  | succ n ih => simp [leBytes, ih]

theorem rowFor_small {base sub : Nat} {r : ObjRow} (rows : List ObjRow) (h : ∀ x ∈ rows, x.cnt < 8)
    (hr : rowFor base 0 sub rows = some r) (dies : Nat) : rowFor base dies sub rows = some r := by
  induction rows with
  | nil => cases hr
  | cons x xs ih =>
    have hx : ∀ d, x.span base d = x.cnt := fun d => by
      have := h x (List.mem_cons_self ..)
      simp only [ObjRow.span]; rw [if_neg]; omega
    simp only [rowFor, hx] at hr ⊢
    split
    · next hc => rw [if_pos hc] at hr; exact hr
    · next hc => rw [if_neg hc] at hr; exact ih (fun y hy => h y (List.mem_cons_of_mem _ hy)) hr

theorem not_barred {z : Sys} {key : Nat} {l : Loc} {v : Val} (h1 : l.base ≠ 0x3300 ∨ l.sub ≠ 0x36) (h2 : key ≠ Ob.SensLimitTemp) :
    z.valueBarred key l v = false := by
  simp only [Sys.valueBarred, Bool.or_eq_false_iff, Bool.and_eq_false_iff, beq_eq_false_iff_ne]
  exact ⟨Or.inl h1, Or.inl h2⟩

section
variable {src : Src} {m fl : List Host.Cell} {z : Sys}

theorem write_chStart (c : Nat) (hp : c < 128) (hd : c < 16 * z.part.dies) :
    writeObject src (strideIdx 0x2000 0x20 128 c) 0x01 [1] (m, fl, z) = plainWrite (Sys.chControl c 1) (m, fl, z) := by
  have hl : locate z.part.dies (strideIdx 0x2000 0x20 128 c) 0x01 = some ⟨0x2000, c, 0x01, ⟨1, 1, .u8, .wo, .n 0, .oneOf [1, 2], 1⟩⟩ := locate_at (split_chan _ _ _ 0x0 hp (by decide) (by decide)) (by decide) (by decide) hd (by decide) rfl
  have hv' : decodeWrite ⟨0x2000, c, 0x01, ⟨1, 1, .u8, .wo, .n 0, .oneOf [1, 2], 1⟩⟩ [1] = .ok (.int 1) := rfl
  have hk : objKey (strideIdx 0x2000 0x20 128 c) 0x01 ≠ Ob.SensLimitTemp := by
    simp only [objKey, Ob.SensLimitTemp, strideIdx, hp, if_true]
    omega
  rw [writeObject_value hl ⟨nofun, nofun⟩ hv' (not_barred (Or.inr (show (0x01 : Nat) ≠ 0x36 by decide)) hk)]
  rfl

theorem write_chStop (c : Nat) (hp : c < 128) (hd : c < 16 * z.part.dies) :
    writeObject src (strideIdx 0x2000 0x20 128 c) 0x01 [2] (m, fl, z) = plainWrite (Sys.chControl c 2) (m, fl, z) := by
  have hl : locate z.part.dies (strideIdx 0x2000 0x20 128 c) 0x01 = some ⟨0x2000, c, 0x01, ⟨1, 1, .u8, .wo, .n 0, .oneOf [1, 2], 1⟩⟩ := locate_at (split_chan _ _ _ 0x0 hp (by decide) (by decide)) (by decide) (by decide) hd (by decide) rfl
  have hv' : decodeWrite ⟨0x2000, c, 0x01, ⟨1, 1, .u8, .wo, .n 0, .oneOf [1, 2], 1⟩⟩ [2] = .ok (.int 2) := rfl
  have hk : objKey (strideIdx 0x2000 0x20 128 c) 0x01 ≠ Ob.SensLimitTemp := by
    simp only [objKey, Ob.SensLimitTemp, strideIdx, hp, if_true]
    omega
  rw [writeObject_value hl ⟨nofun, nofun⟩ hv' (not_barred (Or.inr (show (0x01 : Nat) ≠ 0x36 by decide)) hk)]
  rfl

theorem write_chCommit (c : Nat) (hp : c < 128) (hd : c < 16 * z.part.dies) :
    writeObject src (strideIdx 0x2000 0x20 128 c) 0x05 [1] (m, fl, z) = plainWrite (Sys.chCommit c) (m, fl, z) := by
  have hl : locate z.part.dies (strideIdx 0x2000 0x20 128 c) 0x05 = some ⟨0x2000, c, 0x05, ⟨5, 1, .bool, .wo, .n 0, .any, 1⟩⟩ := locate_at (split_chan _ _ _ 0x0 hp (by decide) (by decide)) (by decide) (by decide) hd (by decide) rfl
  have hv' : decodeWrite ⟨0x2000, c, 0x05, ⟨5, 1, .bool, .wo, .n 0, .any, 1⟩⟩ [1] = .ok (.int 1) := rfl
  have hk : objKey (strideIdx 0x2000 0x20 128 c) 0x05 ≠ Ob.SensLimitTemp := by
    simp only [objKey, Ob.SensLimitTemp, strideIdx, hp, if_true]
    omega
  rw [writeObject_value hl ⟨nofun, nofun⟩ hv' (not_barred (Or.inr (show (0x05 : Nat) ≠ 0x36 by decide)) hk)]
  rfl

theorem write_refreshNow (c : Nat) (hp : c < 128) (hd : c < 16 * z.part.dies) :
    writeObject src (strideIdx 0x2009 0x20 128 c) 0x11 [1] (m, fl, z) = plainWrite (Sys.refreshNow c) (m, fl, z) := by
  have hl : locate z.part.dies (strideIdx 0x2009 0x20 128 c) 0x11 = some ⟨0x2009, c, 0x11, ⟨17, 1, .bool, .wo, .n 0, .any, 1⟩⟩ := locate_at (split_chan _ _ _ 0x9 hp (by decide) (by decide)) (by decide) (by decide) hd (by decide) rfl
  have hv' : decodeWrite ⟨0x2009, c, 0x11, ⟨17, 1, .bool, .wo, .n 0, .any, 1⟩⟩ [1] = .ok (.int 1) := rfl
  have hk : objKey (strideIdx 0x2009 0x20 128 c) 0x11 ≠ Ob.SensLimitTemp := by
    simp only [objKey, Ob.SensLimitTemp, strideIdx, hp, if_true]
    omega
  rw [writeObject_value hl ⟨nofun, nofun⟩ hv' (not_barred (Or.inr (show (0x11 : Nat) ≠ 0x36 by decide)) hk)]
  rfl

theorem write_cxCommit (c : Nat) (hp : c < 32) (hd : c < 4 * z.part.dies) :
    writeObject src (strideIdx 0x3000 8 32 c) 0x11 [1] (m, fl, z) = plainWrite (Sys.cxCommitWrite c) (m, fl, z) := by
  have hl : locate z.part.dies (strideIdx 0x3000 8 32 c) 0x11 = some ⟨0x3000, c, 0x11, ⟨17, 1, .bool, .wo, .n 0, .any, 1⟩⟩ := locate_at (split_cx _ _ _ hp) (by decide) (by decide) hd (by decide) rfl
  have hv' : decodeWrite ⟨0x3000, c, 0x11, ⟨17, 1, .bool, .wo, .n 0, .any, 1⟩⟩ [1] = .ok (.int 1) := rfl
  have hk : objKey (strideIdx 0x3000 8 32 c) 0x11 ≠ Ob.SensLimitTemp := by
    simp only [objKey, Ob.SensLimitTemp, strideIdx, hp, if_true]
    omega
  rw [writeObject_value hl ⟨nofun, nofun⟩ hv' (not_barred (Or.inr (show (0x11 : Nat) ≠ 0x36 by decide)) hk)]
  rfl

theorem write_auCommit (a : Nat) (hp : a < 32) (hd : a < 4 * z.part.dies) :
    writeObject src (strideIdx 0x3200 2 32 a) 0x14 [1] (m, fl, z) = plainWrite (Sys.auCommitWrite a) (m, fl, z) := by
  have hl : locate z.part.dies (strideIdx 0x3200 2 32 a) 0x14 = some ⟨0x3200, a, 0x14, ⟨20, 1, .bool, .wo, .n 0, .any, 1⟩⟩ := locate_at (split_au _ _ _ hp) (by decide) (by decide) hd (by decide) rfl
  have hv' : decodeWrite ⟨0x3200, a, 0x14, ⟨20, 1, .bool, .wo, .n 0, .any, 1⟩⟩ [1] = .ok (.int 1) := rfl
  have hk : objKey (strideIdx 0x3200 2 32 a) 0x14 ≠ Ob.SensLimitTemp := by
    simp only [objKey, Ob.SensLimitTemp, strideIdx, hp, if_true]
    omega
  rw [writeObject_value hl ⟨nofun, nofun⟩ hv' (not_barred (Or.inr (show (0x14 : Nat) ≠ 0x36 by decide)) hk)]
  rfl

theorem write_portCommit (p : Nat) (hp : p < 96) (hd : p < 12 * z.part.dies) :
    writeObject src (strideIdx 0x3300 2 96 p) 0x0A [1] (m, fl, z) = plainWrite (Sys.portCommit p) (m, fl, z) := by
  have hl : locate z.part.dies (strideIdx 0x3300 2 96 p) 0x0A = some ⟨0x3300, p, 0x0A, ⟨10, 1, .bool, .wo, .n 0, .any, 1⟩⟩ := locate_at (split_port _ _ _ hp) (by decide) (by decide) hd (by decide) rfl
  have hv' : decodeWrite ⟨0x3300, p, 0x0A, ⟨10, 1, .bool, .wo, .n 0, .any, 1⟩⟩ [1] = .ok (.int 1) := rfl
  have hk : objKey (strideIdx 0x3300 2 96 p) 0x0A ≠ Ob.SensLimitTemp := by
    simp only [objKey, Ob.SensLimitTemp, strideIdx, hp, if_true]
    omega
  rw [writeObject_value hl ⟨nofun, nofun⟩ hv' (not_barred (Or.inr (show (0x0A : Nat) ≠ 0x36 by decide)) hk)]
  rfl

theorem write_clkCommit (p : Nat) (hp : p < 6) :
    writeObject src (strideIdx 0x3800 1 6 p) 0x07 [1] (m, fl, z) = plainWrite (Sys.clkCommit p) (m, fl, z) := by
  have hl : locate z.part.dies (strideIdx 0x3800 1 6 p) 0x07 = some ⟨0x3800, p, 0x07, ⟨7, 1, .bool, .wo, .n 0, .any, 1⟩⟩ := locate_at (split_pll _ _ _ hp) (by decide) (by decide) hp (by decide) rfl
  have hv' : decodeWrite ⟨0x3800, p, 0x07, ⟨7, 1, .bool, .wo, .n 0, .any, 1⟩⟩ [1] = .ok (.int 1) := rfl
  have hk : objKey (strideIdx 0x3800 1 6 p) 0x07 ≠ Ob.SensLimitTemp := by
    simp only [objKey, Ob.SensLimitTemp, strideIdx, hp, if_true]
    omega
  rw [writeObject_value hl ⟨nofun, nofun⟩ hv' (not_barred (Or.inr (show (0x07 : Nat) ≠ 0x36 by decide)) hk)]
  rfl

theorem write_memCommit  :
    writeObject src 0x3600 0x04 [1] (m, fl, z) = plainWrite (Sys.memCommit) (m, fl, z) := by
  have hl : locate z.part.dies 0x3600 0x04 = some ⟨0x3600, 0, 0x04, ⟨4, 1, .bool, .wo, .n 0, .any, 1⟩⟩ := locate_at rfl (by decide) (by decide) (Nat.zero_lt_one) (by decide) rfl
  have hv' : decodeWrite ⟨0x3600, 0, 0x04, ⟨4, 1, .bool, .wo, .n 0, .any, 1⟩⟩ [1] = .ok (.int 1) := rfl
  have hk : objKey 0x3600 0x04 ≠ Ob.SensLimitTemp := by decide
  rw [writeObject_value hl ⟨nofun, nofun⟩ hv' (not_barred (Or.inr (show (0x04 : Nat) ≠ 0x36 by decide)) hk)]
  rfl

theorem write_tbStep (b : Nat) (delta : Int) (hp : b < 8) (hv : -2 ^ 63 ≤ delta ∧ delta < 2 ^ 63) :
    writeObject src (strideIdx 0x3500 2 8 b) 0x10 (leBytes 8 (toUnsigned 8 delta)) (m, fl, z) = plainWrite (Sys.tbStepWrite b delta) (m, fl, z) := by
  have hl : locate z.part.dies (strideIdx 0x3500 2 8 b) 0x10 = some ⟨0x3500, b, 0x10, ⟨16, 1, .i64, .wo, .n 0, .any, 8⟩⟩ := locate_at (split_tb _ _ _ hp) (by decide) (by decide) hp (by decide) rfl
  have hv' : decodeWrite ⟨0x3500, b, 0x10, ⟨16, 1, .i64, .wo, .n 0, .any, 8⟩⟩ (leBytes 8 (toUnsigned 8 delta)) = .ok (.int delta) := by
    simp only [decodeWrite, decodeVal, lengthOk, Ty.size, leBytes_length, leNat_leBytes, Rng.admits, Ty.signed, toSigned, toUnsigned]
    rw [if_neg (by decide), if_pos (by decide)]
    simp only [reduceCtorEq, false_and, if_false, if_true]
    congr 2
    split <;> omega
  have hk : objKey (strideIdx 0x3500 2 8 b) 0x10 ≠ Ob.SensLimitTemp := by
    simp only [objKey, Ob.SensLimitTemp, strideIdx, hp, if_true]
    omega
  rw [writeObject_value hl ⟨nofun, nofun⟩ hv' (not_barred (Or.inr (show (0x10 : Nat) ≠ 0x36 by decide)) hk)]
  rfl

theorem write_tbToMaster (b : Nat) (hp : b < 8) :
    writeObject src (strideIdx 0x3500 2 8 b) 0x11 [1] (m, fl, z) = plainWrite (Sys.tbToMaster b) (m, fl, z) := by
  have hl : locate z.part.dies (strideIdx 0x3500 2 8 b) 0x11 = some ⟨0x3500, b, 0x11, ⟨17, 1, .bool, .wo, .n 0, .any, 1⟩⟩ := locate_at (split_tb _ _ _ hp) (by decide) (by decide) hp (by decide) rfl
  have hv' : decodeWrite ⟨0x3500, b, 0x11, ⟨17, 1, .bool, .wo, .n 0, .any, 1⟩⟩ [1] = .ok (.int 1) := rfl
  have hk : objKey (strideIdx 0x3500 2 8 b) 0x11 ≠ Ob.SensLimitTemp := by
    simp only [objKey, Ob.SensLimitTemp, strideIdx, hp, if_true]
    omega
  rw [writeObject_value hl ⟨nofun, nofun⟩ hv' (not_barred (Or.inr (show (0x11 : Nat) ≠ 0x36 by decide)) hk)]
  rfl

theorem write_bandCal (p : Nat) (e : Nat) (hp : p < 6) (hv : e < 32) :
    writeObject src (strideIdx 0x3800 1 6 p) 0x06 (leBytes 1 e) (m, fl, z) = plainWrite (Sys.bandCal p e) (m, fl, z) := by
  have hl : locate z.part.dies (strideIdx 0x3800 1 6 p) 0x06 = some ⟨0x3800, p, 0x06, ⟨6, 1, .u8, .wo, .n 0, .span 0 31 1, 1⟩⟩ := locate_at (split_pll _ _ _ hp) (by decide) (by decide) hp (by decide) rfl
  have hv' : decodeWrite ⟨0x3800, p, 0x06, ⟨6, 1, .u8, .wo, .n 0, .span 0 31 1, 1⟩⟩ (leBytes 1 e) = .ok (.int e) := by
    simp only [decodeWrite, decodeVal, lengthOk, Ty.size, leBytes_length, leNat_leBytes, Rng.admits, Ty.signed]
    rw [if_neg (by decide), if_pos (by decide)]
    simp only [reduceCtorEq, false_and, if_false, Bool.false_eq_true]
    rw [Nat.mod_eq_of_lt (by omega), if_pos (by simp; omega)]
  have hk : objKey (strideIdx 0x3800 1 6 p) 0x06 ≠ Ob.SensLimitTemp := by
    simp only [objKey, Ob.SensLimitTemp, strideIdx, hp, if_true]
    omega
  rw [writeObject_value hl ⟨nofun, nofun⟩ hv' (not_barred (Or.inr (show (0x06 : Nat) ≠ 0x36 by decide)) hk)]
  rfl

theorem write_clkRetry (p : Nat) (hp : p < 6) :
    writeObject src (strideIdx 0x3800 1 6 p) 0x0A [1] (m, fl, z) = plainWrite (Sys.clkRetry p) (m, fl, z) := by
  have hl : locate z.part.dies (strideIdx 0x3800 1 6 p) 0x0A = some ⟨0x3800, p, 0x0A, ⟨10, 1, .bool, .wo, .n 0, .any, 1⟩⟩ := locate_at (split_pll _ _ _ hp) (by decide) (by decide) hp (by decide) rfl
  have hv' : decodeWrite ⟨0x3800, p, 0x0A, ⟨10, 1, .bool, .wo, .n 0, .any, 1⟩⟩ [1] = .ok (.int 1) := rfl
  have hk : objKey (strideIdx 0x3800 1 6 p) 0x0A ≠ Ob.SensLimitTemp := by
    simp only [objKey, Ob.SensLimitTemp, strideIdx, hp, if_true]
    omega
  rw [writeObject_value hl ⟨nofun, nofun⟩ hv' (not_barred (Or.inr (show (0x0A : Nat) ≠ 0x36 by decide)) hk)]
  rfl

theorem write_bandTable (p : Nat) (data : List Byte) (hp : p < 6) (hv : data.length = 256) :
    writeObject src (strideIdx 0x3800 1 6 p) 0x05 data (m, fl, z) = plainWrite (Sys.bandTableWrite p data) (m, fl, z) := by
  have hl : locate z.part.dies (strideIdx 0x3800 1 6 p) 0x05 = some ⟨0x3800, p, 0x05, ⟨5, 1, .domain, .rw, .special, .any, 256⟩⟩ := locate_at (split_pll _ _ _ hp) (by decide) (by decide) hp (by decide) rfl
  have hv' : decodeWrite ⟨0x3800, p, 0x05, ⟨5, 1, .domain, .rw, .special, .any, 256⟩⟩ data = .ok (.bytes data) := by simp [decodeWrite, decodeVal, lengthOk, Ty.size, hv]
  have hk : objKey (strideIdx 0x3800 1 6 p) 0x05 ≠ Ob.SensLimitTemp := by
    simp only [objKey, Ob.SensLimitTemp, strideIdx, hp, if_true]
    omega
  rw [writeObject_value hl ⟨nofun, nofun⟩ hv' (not_barred (Or.inr (show (0x05 : Nat) ≠ 0x36 by decide)) hk)]
  rfl

theorem write_scanStart (l : Nat) (hp : l < 96) (hd : l < 12 * z.part.dies) :
    writeObject src (strideIdx 0x3900 1 96 l) 0x28 [1] (m, fl, z) = plainWrite (Sys.scanStart l) (m, fl, z) := by
  have hl : locate z.part.dies (strideIdx 0x3900 1 96 l) 0x28 = some ⟨0x3900, l, 0x28, ⟨40, 1, .bool, .wo, .n 0, .any, 1⟩⟩ := locate_at (split_lane _ _ _ hp) (by decide) (by decide) hd (by decide) rfl
  have hv' : decodeWrite ⟨0x3900, l, 0x28, ⟨40, 1, .bool, .wo, .n 0, .any, 1⟩⟩ [1] = .ok (.int 1) := rfl
  have hk : objKey (strideIdx 0x3900 1 96 l) 0x28 ≠ Ob.SensLimitTemp := by
    simp only [objKey, Ob.SensLimitTemp, strideIdx, hp, if_true]
    omega
  rw [writeObject_value hl ⟨nofun, nofun⟩ hv' (not_barred (Or.inr (show (0x28 : Nat) ≠ 0x36 by decide)) hk)]
  rfl

theorem write_portEnable (p : Nat) (hp : p < 96) (hd : p < 12 * z.part.dies) :
    writeObject src (strideIdx 0x3300 2 96 p) 0x31 [1] (m, fl, z) = plainWrite (Sys.portEnableWrite p 1) (m, fl, z) := by
  have hl : locate z.part.dies (strideIdx 0x3300 2 96 p) 0x31 = some ⟨0x3300, p, 0x31, ⟨49, 1, .bool, .rw, .n 0, .any, 1⟩⟩ := locate_at (split_port _ _ _ hp) (by decide) (by decide) hd (by decide) rfl
  have hv' : decodeWrite ⟨0x3300, p, 0x31, ⟨49, 1, .bool, .rw, .n 0, .any, 1⟩⟩ [1] = .ok (.int 1) := rfl
  have hk : objKey (strideIdx 0x3300 2 96 p) 0x31 ≠ Ob.SensLimitTemp := by
    simp only [objKey, Ob.SensLimitTemp, strideIdx, hp, if_true]
    omega
  rw [writeObject_value hl ⟨nofun, nofun⟩ hv' (not_barred (Or.inr (show (0x31 : Nat) ≠ 0x36 by decide)) hk)]
  rfl

theorem write_portDisable (p : Nat) (hp : p < 96) (hd : p < 12 * z.part.dies) :
    writeObject src (strideIdx 0x3300 2 96 p) 0x31 [0] (m, fl, z) = plainWrite (Sys.portEnableWrite p 0) (m, fl, z) := by
  have hl : locate z.part.dies (strideIdx 0x3300 2 96 p) 0x31 = some ⟨0x3300, p, 0x31, ⟨49, 1, .bool, .rw, .n 0, .any, 1⟩⟩ := locate_at (split_port _ _ _ hp) (by decide) (by decide) hd (by decide) rfl
  have hv' : decodeWrite ⟨0x3300, p, 0x31, ⟨49, 1, .bool, .rw, .n 0, .any, 1⟩⟩ [0] = .ok (.int 0) := rfl
  have hk : objKey (strideIdx 0x3300 2 96 p) 0x31 ≠ Ob.SensLimitTemp := by
    simp only [objKey, Ob.SensLimitTemp, strideIdx, hp, if_true]
    omega
  rw [writeObject_value hl ⟨nofun, nofun⟩ hv' (not_barred (Or.inr (show (0x31 : Nat) ≠ 0x36 by decide)) hk)]
  rfl

theorem write_portMode (p : Nat) (v : Nat) (hp : p < 96) (hd : p < 12 * z.part.dies) (hv : v < 10) :
    writeObject src (strideIdx 0x3300 2 96 p) 0x30 (leBytes 1 v) (m, fl, z) = plainWrite (Sys.portModeWrite p v) (m, fl, z) := by
  have hl : locate z.part.dies (strideIdx 0x3300 2 96 p) 0x30 = some ⟨0x3300, p, 0x30, ⟨48, 1, .u8, .rw, .n 0, .span 0 9 1, 1⟩⟩ := locate_at (split_port _ _ _ hp) (by decide) (by decide) hd (by decide) rfl
  have hv' : decodeWrite ⟨0x3300, p, 0x30, ⟨48, 1, .u8, .rw, .n 0, .span 0 9 1, 1⟩⟩ (leBytes 1 v) = .ok (.int v) := by
    simp only [decodeWrite, decodeVal, lengthOk, Ty.size, leBytes_length, leNat_leBytes, Rng.admits, Ty.signed]
    rw [if_neg (by decide), if_pos (by decide)]
    simp only [reduceCtorEq, false_and, if_false, Bool.false_eq_true]
    rw [Nat.mod_eq_of_lt (by omega), if_pos (by simp; omega)]
  have hk : objKey (strideIdx 0x3300 2 96 p) 0x30 ≠ Ob.SensLimitTemp := by
    simp only [objKey, Ob.SensLimitTemp, strideIdx, hp, if_true]
    omega
  rw [writeObject_value hl ⟨nofun, nofun⟩ hv' (not_barred (Or.inr (show (0x30 : Nat) ≠ 0x36 by decide)) hk)]
  rfl

theorem write_migrateNow (v : Nat) (hv : v < 65536) :
    writeObject src 0x3600 0x16 (leBytes 2 v) (m, fl, z) = plainWrite (Sys.migrateNow v) (m, fl, z) := by
  have hl : locate z.part.dies 0x3600 0x16 = some ⟨0x3600, 0, 0x16, ⟨22, 1, .u16, .wo, .n 0, .any, 2⟩⟩ := locate_at rfl (by decide) (by decide) (Nat.zero_lt_one) (by decide) rfl
  have hv' : decodeWrite ⟨0x3600, 0, 0x16, ⟨22, 1, .u16, .wo, .n 0, .any, 2⟩⟩ (leBytes 2 v) = .ok (.int v) := by
    simp only [decodeWrite, decodeVal, lengthOk, Ty.size, leBytes_length, leNat_leBytes, Rng.admits, Ty.signed]
    rw [if_neg (by decide), if_pos (by decide)]
    simp only [reduceCtorEq, false_and, if_false, Bool.false_eq_true]
    rw [Nat.mod_eq_of_lt (by omega)]
    rfl
  have hk : objKey 0x3600 0x16 ≠ Ob.SensLimitTemp := by decide
  rw [writeObject_value hl ⟨nofun, nofun⟩ hv' (not_barred (Or.inr (show (0x16 : Nat) ≠ 0x36 by decide)) hk)]
  rfl

theorem write_traceClear  :
    writeObject src 0x3700 0x05 [1] (m, fl, z) = plainWrite (Sys.traceClear) (m, fl, z) := by
  have hl : locate z.part.dies 0x3700 0x05 = some ⟨0x3700, 0, 0x05, ⟨5, 1, .bool, .wo, .n 0, .any, 1⟩⟩ := locate_at rfl (by decide) (by decide) (Nat.zero_lt_one) (by decide) rfl
  have hv' : decodeWrite ⟨0x3700, 0, 0x05, ⟨5, 1, .bool, .wo, .n 0, .any, 1⟩⟩ [1] = .ok (.int 1) := rfl
  have hk : objKey 0x3700 0x05 ≠ Ob.SensLimitTemp := by decide
  rw [writeObject_value hl ⟨nofun, nofun⟩ hv' (not_barred (Or.inr (show (0x05 : Nat) ≠ 0x36 by decide)) hk)]
  rfl

theorem write_resetReq  :
    writeObject src 0x1005 0x01 (leBytes 1 1) (m, fl, z) = plainWrite (Sys.resetReq 1) (m, fl, z) := by
  have hl : locate z.part.dies 0x1005 0x01 = some ⟨0x1005, 0, 0x01, ⟨1, 1, .u8, .wo, .n 0, .oneOf [0, 1], 1⟩⟩ := locate_at rfl (by decide) (by decide) (Nat.zero_lt_one) (by decide) rfl
  have hv' : decodeWrite ⟨0x1005, 0, 0x01, ⟨1, 1, .u8, .wo, .n 0, .oneOf [0, 1], 1⟩⟩ (leBytes 1 1) = .ok (.int 1) := rfl
  have hk : objKey 0x1005 0x01 ≠ Ob.SensLimitTemp := by decide
  rw [writeObject_value hl ⟨nofun, nofun⟩ hv' (not_barred (Or.inr (show (0x01 : Nat) ≠ 0x36 by decide)) hk)]
  rfl

theorem write_nonce (data : List Byte) (hv : data.length = 32) :
    writeObject src 0x6000 0x06 data (m, fl, z) = plainWrite (Sys.nonceWrite data fl) (m, fl, z) := by
  have hl : locate z.part.dies 0x6000 0x06 = some ⟨0x6000, 0, 0x06, ⟨6, 1, .ostr, .wo, .rep 0 0, .any, 32⟩⟩ := locate_at rfl (by decide) (by decide) (Nat.zero_lt_one) (by decide) rfl
  have hv' : decodeWrite ⟨0x6000, 0, 0x06, ⟨6, 1, .ostr, .wo, .rep 0 0, .any, 32⟩⟩ data = .ok (.bytes data) := by simp [decodeWrite, decodeVal, lengthOk, Ty.size, hv]
  have hk : objKey 0x6000 0x06 ≠ Ob.SensLimitTemp := by decide
  rw [writeObject_value hl ⟨nofun, nofun⟩ hv' (not_barred (Or.inr (show (0x06 : Nat) ≠ 0x36 by decide)) hk)]
  rfl

theorem write_rankClear (v : Nat) (hv : v < 65536) :
    writeObject src 0x5078 0x01 (leBytes 2 v) (m, fl, z) = plainWrite (Sys.rankClear v) (m, fl, z) := by
  have hl : locate z.part.dies 0x5078 0x01 = some ⟨0x5078, 0, 0x01, ⟨1, 1, .u16, .wo, .n 0, .any, 2⟩⟩ := by
    have hr := rowFor_small (base := 0x5078) (sub := 1) (rowsOf 0x5078) (by decide) rfl z.part.dies
    unfold locate
    simp only [show splitIndex z.part.dies 0x5078 1 = (0x5078, 0, 1, 1) from rfl, hr]
    rfl
  have hv' : decodeWrite ⟨0x5078, 0, 0x01, ⟨1, 1, .u16, .wo, .n 0, .any, 2⟩⟩ (leBytes 2 v) = .ok (.int v) := by
    simp only [decodeWrite, decodeVal, lengthOk, Ty.size, leBytes_length, leNat_leBytes, Rng.admits, Ty.signed]
    rw [if_neg (by decide), if_pos (by decide)]
    simp only [reduceCtorEq, false_and, if_false, Bool.false_eq_true]
    rw [Nat.mod_eq_of_lt (by omega)]
    rfl
  have hk : objKey 0x5078 0x01 ≠ Ob.SensLimitTemp := by decide
  rw [writeObject_value hl ⟨nofun, nofun⟩ hv' (not_barred (Or.inr (show (0x01 : Nat) ≠ 0x36 by decide)) hk)]
  rfl

theorem write_fastTable (data : List Byte) (hv : data.length = 1024) :
    writeObject src 0x1022 0x01 data (m, fl, z) = plainWrite (Sys.fastWrite data fl) (m, fl, z) := by
  have hl : locate z.part.dies 0x1022 0x01 = some ⟨0x1022, 0, 0x01, ⟨1, 1, .domain, .rw, .special, .any, 1024⟩⟩ := locate_at rfl (by decide) (by decide) (Nat.zero_lt_one) (by decide) rfl
  have hv' : decodeWrite ⟨0x1022, 0, 0x01, ⟨1, 1, .domain, .rw, .special, .any, 1024⟩⟩ data = .ok (.bytes data) := by simp [decodeWrite, decodeVal, lengthOk, Ty.size, hv]
  have hk : objKey 0x1022 0x01 ≠ Ob.SensLimitTemp := by decide
  rw [writeObject_value hl ⟨nofun, nofun⟩ hv' (not_barred (Or.inr (show (0x01 : Nat) ≠ 0x36 by decide)) hk)]
  rfl

theorem write_updBegin (v : Nat) (hv : 4097 ≤ v ∧ v ≤ 28311552) :
    writeObject src 0x6020 0x01 (leBytes 4 v) (m, fl, z) = plainWrite (Sys.updBegin v) (m, fl, z) := by
  have hl : locate z.part.dies 0x6020 0x01 = some ⟨0x6020, 0, 0x01, ⟨1, 1, .u32, .wo, .n 0, .span 4097 28311552 1, 4⟩⟩ := locate_at rfl (by decide) (by decide) (Nat.zero_lt_one) (by decide) rfl
  have hv' : decodeWrite ⟨0x6020, 0, 0x01, ⟨1, 1, .u32, .wo, .n 0, .span 4097 28311552 1, 4⟩⟩ (leBytes 4 v) = .ok (.int v) := by
    simp only [decodeWrite, decodeVal, lengthOk, Ty.size, leBytes_length, leNat_leBytes, Rng.admits, Ty.signed]
    rw [if_neg (by decide), if_pos (by decide)]
    simp only [reduceCtorEq, false_and, if_false, Bool.false_eq_true]
    rw [Nat.mod_eq_of_lt (by omega), if_pos (by simp; omega)]
  have hk : objKey 0x6020 0x01 ≠ Ob.SensLimitTemp := by decide
  rw [writeObject_value hl ⟨nofun, nofun⟩ hv' (not_barred (Or.inr (show (0x01 : Nat) ≠ 0x36 by decide)) hk)]
  rfl

theorem write_updChunk (data : List Byte) (hv : data.length ≤ 65536) :
    writeObject src 0x6020 0x03 data (m, fl, z) = plainWrite (Sys.updChunk data) (m, fl, z) := by
  have hl : locate z.part.dies 0x6020 0x03 = some ⟨0x6020, 0, 0x03, ⟨3, 1, .domain, .wo, .rep 0 0, .any, 65536⟩⟩ := locate_at rfl (by decide) (by decide) (Nat.zero_lt_one) (by decide) rfl
  have hv' : decodeWrite ⟨0x6020, 0, 0x03, ⟨3, 1, .domain, .wo, .rep 0 0, .any, 65536⟩⟩ data = .ok (.bytes data) := by simp [decodeWrite, hv]
  have hk : objKey 0x6020 0x03 ≠ Ob.SensLimitTemp := by decide
  rw [writeObject_value hl ⟨nofun, nofun⟩ hv' (not_barred (Or.inr (show (0x03 : Nat) ≠ 0x36 by decide)) hk)]
  rfl

theorem write_updVerify  :
    writeObject src 0x6020 0x04 [1] (m, fl, z) = plainWrite (Sys.updVerify) (m, fl, z) := by
  have hl : locate z.part.dies 0x6020 0x04 = some ⟨0x6020, 0, 0x04, ⟨4, 1, .bool, .wo, .n 0, .any, 1⟩⟩ := locate_at rfl (by decide) (by decide) (Nat.zero_lt_one) (by decide) rfl
  have hv' : decodeWrite ⟨0x6020, 0, 0x04, ⟨4, 1, .bool, .wo, .n 0, .any, 1⟩⟩ [1] = .ok (.int 1) := rfl
  have hk : objKey 0x6020 0x04 ≠ Ob.SensLimitTemp := by decide
  rw [writeObject_value hl ⟨nofun, nofun⟩ hv' (not_barred (Or.inr (show (0x04 : Nat) ≠ 0x36 by decide)) hk)]
  rfl

theorem write_updActivate  :
    writeObject src 0x6020 0x05 [1] (m, fl, z) = flashWrite updActivate (m, fl, z) := by
  have hl : locate z.part.dies 0x6020 0x05 = some ⟨0x6020, 0, 0x05, ⟨5, 1, .bool, .wo, .n 0, .any, 1⟩⟩ := locate_at rfl (by decide) (by decide) (Nat.zero_lt_one) (by decide) rfl
  have hv' : decodeWrite ⟨0x6020, 0, 0x05, ⟨5, 1, .bool, .wo, .n 0, .any, 1⟩⟩ [1] = .ok (.int 1) := rfl
  have hk : objKey 0x6020 0x05 ≠ Ob.SensLimitTemp := by decide
  rw [writeObject_value hl ⟨nofun, nofun⟩ hv' (not_barred (Or.inr (show (0x05 : Nat) ≠ 0x36 by decide)) hk)]
  rfl

theorem write_updConfirm  :
    writeObject src 0x6020 0x06 [1] (m, fl, z) = flashWrite updConfirm (m, fl, z) := by
  have hl : locate z.part.dies 0x6020 0x06 = some ⟨0x6020, 0, 0x06, ⟨6, 1, .bool, .wo, .n 0, .any, 1⟩⟩ := locate_at rfl (by decide) (by decide) (Nat.zero_lt_one) (by decide) rfl
  have hv' : decodeWrite ⟨0x6020, 0, 0x06, ⟨6, 1, .bool, .wo, .n 0, .any, 1⟩⟩ [1] = .ok (.int 1) := rfl
  have hk : objKey 0x6020 0x06 ≠ Ob.SensLimitTemp := by decide
  rw [writeObject_value hl ⟨nofun, nofun⟩ hv' (not_barred (Or.inr (show (0x06 : Nat) ≠ 0x36 by decide)) hk)]
  rfl

theorem write_polMode (q : Nat) (v : Nat) (hp : q < 2048) (hd : q < 256 * z.part.dies) (hv : v < 3) :
    writeObject src (if q < 2048 then 0x3400 + q / 8 else 0) (0x20 * (q % 8) + 0x01) (leBytes 1 v) (m, fl, z) = plainWrite (Sys.polModeWrite q v) (m, fl, z) := by
  have hl : locate z.part.dies (if q < 2048 then 0x3400 + q / 8 else 0) (0x20 * (q % 8) + 0x01) = some ⟨0x3400, q, 0x01, ⟨1, 1, .u8, .rw, .n 0, .oneOf [0, 1, 2], 1⟩⟩ := locate_at (split_pol _ _ 0x01 hp (by decide) (by decide)) (by omega) (by decide) hd (by decide) rfl
  have hv' : decodeWrite ⟨0x3400, q, 0x01, ⟨1, 1, .u8, .rw, .n 0, .oneOf [0, 1, 2], 1⟩⟩ (leBytes 1 v) = .ok (.int v) := by
    simp only [decodeWrite, decodeVal, lengthOk, Ty.size, leBytes_length, leNat_leBytes, Rng.admits, Ty.signed]
    rw [if_neg (by decide), if_pos (by decide)]
    simp only [reduceCtorEq, false_and, if_false, Bool.false_eq_true]
    rw [Nat.mod_eq_of_lt (by omega), if_pos (by simp; omega)]
  have hk : objKey (if q < 2048 then 0x3400 + q / 8 else 0) (0x20 * (q % 8) + 0x01) ≠ Ob.SensLimitTemp := by
    simp only [objKey, Ob.SensLimitTemp, hp, if_true]
    omega
  rw [writeObject_value hl ⟨nofun, nofun⟩ hv' (not_barred (Or.inr (show (0x01 : Nat) ≠ 0x36 by decide)) hk)]
  rfl

theorem write_winAddr (v : Nat) (hv : v < 2 ^ 64) :
    writeObject src 0x5001 0x01 (leBytes 8 v) (m, fl, z) = (if v % 4 = 0 then (none, Full.map (Sys.onSession src fun s => { s with winAddr := v }) (m, fl, z)) else plainWrite (abortWith 4) (m, fl, z)) := by
  have hl : locate z.part.dies 0x5001 0x01 = some ⟨0x5001, 0, 0x01, ⟨1, 1, .u64, .rw, .n 0, .any, 8⟩⟩ := locate_at rfl (by decide) (by decide) (Nat.zero_lt_one) (by decide) rfl
  have hv' : decodeWrite ⟨0x5001, 0, 0x01, ⟨1, 1, .u64, .rw, .n 0, .any, 8⟩⟩ (leBytes 8 v) = .ok (.int v) := by
    simp only [decodeWrite, decodeVal, lengthOk, Ty.size, leBytes_length, leNat_leBytes, Rng.admits, Ty.signed]
    rw [if_neg (by decide), if_pos (by decide)]
    simp only [reduceCtorEq, false_and, if_false, Bool.false_eq_true]
    rw [Nat.mod_eq_of_lt (by omega)]
    rfl
  have hk : objKey 0x5001 0x01 ≠ Ob.SensLimitTemp := by decide
  rw [writeObject_value hl ⟨nofun, nofun⟩ hv' (not_barred (Or.inr (show (0x01 : Nat) ≠ 0x36 by decide)) hk)]
  rfl

theorem write_winData (v : Nat) (hv : v < 2 ^ 32) :
    writeObject src 0x5001 0x02 (leBytes 4 v) (m, fl, z) = plainWrite (Sys.winWrite (z.winAddr src) v) (m, fl, z) := by
  have hl : locate z.part.dies 0x5001 0x02 = some ⟨0x5001, 0, 0x02, ⟨2, 1, .u32, .rw, .n 0, .any, 4⟩⟩ := locate_at rfl (by decide) (by decide) (Nat.zero_lt_one) (by decide) rfl
  have hv' : decodeWrite ⟨0x5001, 0, 0x02, ⟨2, 1, .u32, .rw, .n 0, .any, 4⟩⟩ (leBytes 4 v) = .ok (.int v) := by
    simp only [decodeWrite, decodeVal, lengthOk, Ty.size, leBytes_length, leNat_leBytes, Rng.admits, Ty.signed]
    rw [if_neg (by decide), if_pos (by decide)]
    simp only [reduceCtorEq, false_and, if_false, Bool.false_eq_true]
    rw [Nat.mod_eq_of_lt (by omega)]
    rfl
  have hk : objKey 0x5001 0x02 ≠ Ob.SensLimitTemp := by decide
  rw [writeObject_value hl ⟨nofun, nofun⟩ hv' (not_barred (Or.inr (show (0x02 : Nat) ≠ 0x36 by decide)) hk)]
  rfl

end

end Sys2Proof.Machine
end

