-- ==== Sys2Proof/Machine/Package.lean ====
section
/-! DEFINITION. The package: ball positions, signals and rails of the balls, dissipation and its bounds (R509 to R514, R518, R521 to R523). They
are figures that no command reads; nothing here changes State. -/

namespace Sys2Proof.Machine

/-! ### Outlines (R509, R510) -/

/-- The outline of a package: body and lid contact in tenths of a millimetre, balls a side, height and its tolerance in hundredths of a
millimetre, mass in grams, thermal design power and greatest dissipation in tenths of a watt (R509, R521), mounting force in newtons (R522). -/
structure Outline where
  body : Nat
  grid : Nat
  height : Nat
  heightTol : Nat
  lid : Nat
  mass : Nat
  tdp : Nat
  greatest : Nat
  force : Nat × Nat
deriving DecidableEq, Repr

/-- The outline of the package with so many dies (R509, R521, R522). -/
def outline (dies : Nat) : Outline :=
  if dies = 2 then ⟨550, 52, 490, 25, 490, 48, 975, 1050, (180, 300)⟩
  else if dies = 4 then ⟨700, 68, 510, 25, 640, 82, 1950, 2100, (300, 500)⟩
  else ⟨925, 92, 530, 30, 860, 150, 3900, 4200, (500, 800)⟩

/-! ### Where each ball lies (R511 to R514) -/

/-- Rows and columns of a die's region (R511). -/
def dieRegion (dies : Nat) : Nat × Nat := if dies = 2 then (26, 52) else if dies = 4 then (34, 34) else (46, 23)

/-- The ball, row and column, of local position i of die d (R510, R511). -/
def ballOf (dies d i : Nat) : Nat × Nat :=
  let (h, w) := dieRegion dies
  let a := i / w + 1
  (if d % 2 = 0 then a else 2 * h + 1 - a, w * (d / 2) + i % w + 1)

/-- A signal of a die (R512). A lane's pins are TXP, TXN, RXP, RXN, numbered from 0, and a clock's P and N; a DRAM channel's pins follow R512's order. -/
inductive Signal where
  | lane (l pin : Nat)
  | refLane (quad pin : Nat)
  | refSys (pin : Nat)
  | dram (ctrl chan pin : Nat)
  | dramReset (ctrl : Nat)
  | dramZq (ctrl : Nat)
  | audio (port pin : Nat)
  | system (pin : Nat)
  | diode (pin : Nat)
deriving DecidableEq, Repr

/-- The system group in its order (R512). -/
def systemPins : List String :=
  ["PWRON_N", "SYSRST_N", "TCK", "TMS", "TDI", "TDO", "TRST_N", "PPS_IN", "PPS_OUT", "CAN_TXD", "CAN_RXD", "MGMT_PHY_RST_N", "MDC",
   "MDIO", "RGMII_TXC", "RGMII_TX_CTL", "RGMII_TXD0", "RGMII_TXD1", "RGMII_TXD2", "RGMII_TXD3", "RGMII_RXC", "RGMII_RX_CTL",
   "RGMII_RXD0", "RGMII_RXD1", "RGMII_RXD2", "RGMII_RXD3", "OSPI_CLK", "OSPI_CS_N", "OSPI_DQS"] ++
  ["OSPI_DQ0", "OSPI_DQ1", "OSPI_DQ2", "OSPI_DQ3", "OSPI_DQ4", "OSPI_DQ5", "OSPI_DQ6", "OSPI_DQ7"]

/-- The pins of one DRAM channel in their order (R512). -/
def dramPins : List String :=
  ["DQ0", "DQ1", "DQ2", "DQ3", "DQ4", "DQ5", "DQ6", "DQ7", "DQ8", "DQ9", "DQ10", "DQ11", "DQ12", "DQ13", "DQ14", "DQ15", "DMI0", "DMI1",
   "RDQS0_T", "RDQS0_C", "RDQS1_T", "RDQS1_C", "WCK0_T", "WCK0_C", "WCK1_T", "WCK1_C"] ++
  ["CA0", "CA1", "CA2", "CA3", "CA4", "CA5", "CA6", "CK_T", "CK_C", "CS0", "CS1", "CS2"]

/-- The signal at an offset within a controller's group: four channels, then RESET_N and ZQ (R512). -/
def dramSignal (m o : Nat) : Signal :=
  if o < 152 then .dram m (o / 38) (o % 38) else if o = 152 then .dramReset m else .dramZq m

/-- The signal that local position i carries on die d, none where it carries a supply (R512). -/
def signalAt (d i : Nat) : Option Signal :=
  if i < 48 then some (.lane (12 * d + i / 4) (i % 4))
  else if i < 54 then some (.refLane ((i - 48) / 2) (i % 2))
  else if i < 56 then some (.refSys (i - 54))
  else if i < 210 then some (dramSignal 0 (i - 56))
  else if i < 364 then some (dramSignal 1 (i - 210))
  else if i < 376 then some (.audio (4 * d + (i - 364) / 3) ((i - 364) % 3))
  else if i < 413 then some (.system (i - 376))
  else if i < 415 then some (.diode (i - 413))
  else none

/-- Whether a signal of a die is connected: the system group is so on D0 alone (R513). -/
def Signal.connected (d : Nat) : Signal → Bool
  | .system _ => d == 0
  | _ => true

/-- A supply (R480, R514). -/
inductive Rail where
  | vss
  | vddAo
  | vddio18
  | vdda18
  | vinCore
  | vddSer
  | vddhSer
  | vddDphy
  | vddqDdr
deriving DecidableEq, Repr

/-- The supply at local position i, none where it carries a signal (R514). -/
def railAt (i : Nat) : Option Rail :=
  if i < 415 then none
  else if (i - 415) % 2 = 0 then some .vss
  else
    let j := (i - 416) / 2
    let r := j % 16
    some (if r < 10 then .vinCore
      else if r < 12 then .vddDphy
      else if r = 12 then .vddqDdr
      else if r = 13 then .vddhSer
      else if r = 14 then .vddSer
      else if j / 16 % 3 = 0 then .vddio18
      else if j / 16 % 3 = 1 then .vddAo
      else .vdda18)

/-- The limits of a supply at the balls: nominal in millivolts, tolerance in thousandths, and the greatest current and load step of a die in
milliamperes (R515). -/
def Rail.limits : Rail → Nat × Nat × Nat × Nat
  | .vss => (0, 0, 0, 0)
  | .vddAo => (800, 30, 500, 200)
  | .vddio18 => (1800, 50, 300, 200)
  | .vdda18 => (1800, 30, 400, 100)
  | .vinCore => (900, 30, 62000, 20000)
  | .vddSer => (900, 30, 2500, 1000)
  | .vddhSer => (1200, 30, 2000, 800)
  | .vddDphy => (1050, 30, 3000, 1500)
  | .vddqDdr => (500, 30, 2000, 1000)

/-- The range a supply may have without damage, in millivolts (R520). -/
def Rail.absolute : Rail → Int × Int
  | .vss => (0, 0)
  | .vddAo => (-300, 950)
  | .vinCore | .vddSer => (-300, 1050)
  | .vddDphy => (-300, 1200)
  | .vddhSer => (-300, 1400)
  | .vddqDdr => (-300, 650)
  | .vddio18 | .vdda18 => (-300, 2100)

/-! ### Power and cooling (R521, R522) -/

/-- What a die is doing: junction in °C; the pixel rate of each pipeline position, the decode rate of DP0 and Opal's composed rate in Gpixel/s; the
rate of each lane in Gb/s, 0 when idle; the share of its grant that each controller uses; and the content factor, 1 for the worst content. -/
structure DieLoad where
  tj : Rat
  pipes : List Rat
  decode : Rat
  compose : Rat
  lanes : List Rat
  grants : List Rat
  content : Rat
deriving DecidableEq, Repr

/-- The watts of a lane by its rate (R521). -/
def laneWatts (rate : Rat) : Rat :=
  if rate = 10625 / 100 then 50 / 100
  else if rate = 53125 / 1000 then 32 / 100
  else if rate = 2578125 / 100000 then 22 / 100
  else if rate = 103125 / 10000 then 12 / 100
  else 2 / 100

/-- The watts of a die without its base (R521). -/
def DieLoad.working (x : DieLoad) : Rat :=
  (x.pipes.map fun r => 6 * (r * 100 / 104) * x.content).sum + 4 * (x.decode * 10 / 21) * x.content +
    3 * (x.compose * 100 / 416) * x.content + (x.lanes.map laneWatts).sum + (x.grants.map fun g => 7 / 2 * g).sum

/-- A die's dissipation in watts (R521). -/
def DieLoad.watts (x : DieLoad) : Rat :=
  85 / 10 + (if 100 ≤ x.tj then 4 / 100 * (x.tj - 100) else 0) + x.working

/-- The junction for a lid temperature: 0.12 °C above it for each watt of the die (R521, R522). -/
def DieLoad.junction (x : DieLoad) (lid : Rat) : Rat := lid + 12 / 100 * x.watts

/-- The hottest the board may let the lid become, in degrees Celsius, by the temperature grade (R522). -/
def lidLimit (extended : Bool) : Nat := if extended then 90 else 85

end Sys2Proof.Machine
end

