-- ==== Sys2Proof/WellFormed.lean ====
section
/-! DEFINITION. Well-formed commands: every number that names a unit lies in the range the largest variant has (R2, R9), and
a request's fields fit the message header (R442) and one message (R445). A command that names a unit the ordered variant
lacks is well-formed; it finds nothing there. -/

namespace Sys2Proof

/-- A request's session and SEQ fit (R442, R450): a CAN node is 1 to 127, a port has 16 bits, SEQ has 8. -/
def Req.wf (rq : Req) : Bool :=
  decide (rq.seq < 256) &&
    match rq.src with
    | .udp a p => decide (a < 2 ^ 128) && decide (p < 65536)
    | .can n => decide (1 ≤ n) && decide (n ≤ 127)

/-- Whether a command's operands are in range. -/
def Instr.wf : Instr → Bool
  | .read _ rq idx sub _ => rq.wf && decide (idx < 65536) && decide (sub < 256)
  | .write _ rq idx sub data => rq.wf && decide (idx < 65536) && decide (sub < 256) && decide (data.length ≤ 1400)
  | .writeInit _ rq idx sub _ => rq.wf && decide (idx < 65536) && decide (sub < 256)
  | .writeSeg _ rq idx sub _ data => rq.wf && decide (idx < 65536) && decide (sub < 256) && decide (data.length ≤ 1400)
  | .readSeg _ rq idx sub _ => rq.wf && decide (idx < 65536) && decide (sub < 256)
  | .fastRead _ rq _ _ => rq.wf
  | .describe _ rq idx sub => rq.wf && decide (idx < 65536) && decide (sub < 256)
  | .registerWrite _ rq idx sub data => rq.wf && decide (idx < 65536) && decide (sub < 256) && decide (data.length ≤ 1400)
  | .shadowWrite _ rq idx sub data => rq.wf && decide (idx < 65536) && decide (sub < 256) && decide (data.length ≤ 1400)
  | .chControlStart _ rq ch => rq.wf && decide (ch < 128)
  | .chControlStop _ rq ch => rq.wf && decide (ch < 128)
  | .chCommit _ rq ch => rq.wf && decide (ch < 128)
  | .cxCommit _ rq cx => rq.wf && decide (cx < 32)
  | .auCommit _ rq port => rq.wf && decide (port < 32)
  | .portCommit _ rq port => rq.wf && decide (port < 96)
  | .clkCommit _ rq pll => rq.wf && decide (pll < 6)
  | .memCommit _ rq => rq.wf
  | .encRefreshNow _ rq ch => rq.wf && decide (ch < 128)
  | .tbStep _ rq tb _ => rq.wf && decide (tb < 8)
  | .tbStepToMaster _ rq tb => rq.wf && decide (tb < 8)
  | .clkBandCal _ rq pll entry => rq.wf && decide (pll < 6) && decide (entry < 32)
  | .clkRetry _ rq pll => rq.wf && decide (pll < 6)
  | .clkBandTableWrite _ rq pll _ => rq.wf && decide (pll < 6)
  | .lnScanStart _ rq lane => rq.wf && decide (lane < 96)
  | .portEnable _ rq port => rq.wf && decide (port < 96)
  | .portDisable _ rq port => rq.wf && decide (port < 96)
  | .portModeWrite _ rq port _ => rq.wf && decide (port < 96)
  | .memMigrateNow _ rq _ => rq.wf
  | .onyxTraceClear _ rq => rq.wf
  | .devResetReq _ rq _ => rq.wf
  | .secAttestNonce _ rq _ => rq.wf
  | .repRankClear _ rq _ => rq.wf
  | .fastTableWrite _ rq _ => rq.wf
  | .diagWinAddrWrite _ rq _ => rq.wf
  | .diagWinRead _ rq => rq.wf
  | .diagWinWrite _ rq _ => rq.wf
  | .dieFabDecAddrRead _ rq die => rq.wf && decide (die < 8)
  | .polModeWrite _ rq pol _ => rq.wf && decide (pol < 2048)
  | .remapWrite _ die master _ => decide (die < 8) && decide (master < 22)
  | .updBegin _ rq _ => rq.wf
  | .updChunk _ rq _ => rq.wf
  | .chunkProgramComplete .. => true
  | .updVerify _ rq => rq.wf
  | .updVerifyComplete .. => true
  | .updActivate _ rq => rq.wf
  | .updConfirm _ rq => rq.wf
  | .trialTimeout .. => true
  | .arm _ die slot => decide (die < 8) && decide (slot < 4096)
  | .cancel _ die slot => decide (die < 8) && decide (slot < 4096)
  | .flagSet _ die flag _ => decide (die < 8) && decide (flag < 1024)
  | .flagClear _ die flag _ => decide (die < 8) && decide (flag < 1024)
  | .onyxCycle _ die => decide (die < 8)
  | .taskRunComplete _ die core _ _ => decide (die < 8) && decide (core < 30)
  | .tokenPush _ die queue _ _ => decide (die < 8) && decide (queue < 256)
  | .tokenPop _ die queue => decide (die < 8) && decide (queue < 256)
  | .queueHoldLimit _ die queue => decide (die < 8) && decide (queue < 256)
  | .coreFault _ die core _ => decide (die < 8) && decide (core < 30)
  | .coreSelfTestComplete _ die phys _ => decide (die < 8) && decide (phys < 32)
  | .videoPacketRx .. => true
  | .audioPacketRx .. => true
  | .ancPacketRx .. => true
  | .settleEnd .. => true
  | .frameBoundary _ ch => decide (ch < 128)
  | .rowStart _ die pipe _ => decide (die < 8) && decide (pipe < 5)
  | .ctuCoded _ die pipe _ _ _ => decide (die < 8) && decide (pipe < 5)
  | .guardCheck _ die pipe => decide (die < 8) && decide (pipe < 5)
  | .rowCoded _ die pipe _ _ => decide (die < 8) && decide (pipe < 5)
  | .rowDeadline _ ch _ _ => decide (ch < 128)
  | .pipelineFailure _ die phys => decide (die < 8) && decide (phys < 5)
  | .stripMirrorArrival _ ch half _ => decide (ch < 128) && decide (half < 2)
  | .repairCopyRow _ ch _ _ => decide (ch < 128)
  | .confidenceCheckComplete _ ch _ _ _ _ => decide (ch < 128)
  | .confidenceHoldRelease _ ch _ => decide (ch < 128)
  | .rotation .. => true
  | .selfTestComplete _ die phys _ => decide (die < 8) && decide (phys < 5)
  | .layerPacketRx .. => true
  | .decodePictureComplete _ layer _ => decide (layer < 128)
  | .decodeOverrun _ layer => decide (layer < 128)
  | .layerFrameComplete _ layer => decide (layer < 128)
  | .contextFrameBoundary _ cx => decide (cx < 32)
  | .rowLockedJudgement _ layer => decide (layer < 128)
  | .lineDeadline _ cx _ _ => decide (cx < 32)
  | .packetLaunch _ port => decide (port < 96)
  | .packetEnqueue _ port queue _ => decide (port < 96) && decide (queue < 1024)
  | .txFrameComplete _ port => decide (port < 96)
  | .calendarSlot _ die => decide (die < 8)
  | .gateOpening _ port => decide (port < 96)
  | .portCommitBoundary _ port => decide (port < 96)
  | .genericNack .. => true
  | .signatureComplete _ ch => decide (ch < 128)
  | .frameClockEdge _ port _ => decide (port < 32)
  | .audioBufferFetch _ port => decide (port < 32)
  | .sync .. => true
  | .followUp .. => true
  | .delayResp _ _ tb => decide (tb < 8)
  | .announce .. => true
  | .delayReq _ tb port => decide (tb < 8) && decide (port < 96)
  | .tsqExpiry _ port => decide (port < 96)
  | .announceReceiptTimeout _ tb => decide (tb < 8)
  | .syncTimeout _ tb => decide (tb < 8)
  | .mapChange _ tb => decide (tb < 8)
  | .stepInstant _ tb => decide (tb < 8)
  | .stepSwitchPoint .. => true
  | .ppsOutPulse .. => true
  | .ppsInEdge .. => true
  | .pllLockLost _ die pll => decide (die < 8) && decide (pll < 6)
  | .pllRefLost _ die pll ref => decide (die < 8) && decide (pll < 6) && decide (ref < 4)
  | .relockSettleEnd _ die pll => decide (die < 8) && decide (pll < 6)
  | .referenceReturn _ die pll ref => decide (die < 8) && decide (pll < 6) && decide (ref < 4)
  | .lockAchieved _ die pll => decide (die < 8) && decide (pll < 6)
  | .lockAttemptTimeout _ die pll => decide (die < 8) && decide (pll < 6)
  | .lockConfirmed _ die pll => decide (die < 8) && decide (pll < 6)
  | .islandSwitchBack _ die pll _ => decide (die < 8) && decide (pll < 6)
  | .bandCalRunComplete .. => true
  | .clkCommitBoundary _ pll => decide (pll < 6)
  | .memCommitBoundary .. => true
  | .refclkSysLost _ die => decide (die < 8)
  | .signalDetect _ lane => decide (lane < 96)
  | .autoNegotiationPage _ port _ _ => decide (port < 96)
  | .anegTimeout _ port => decide (port < 96)
  | .trainingDone _ lane _ _ _ _ _ => decide (lane < 96)
  | .trainingTimeout _ lane => decide (lane < 96)
  | .trainingRetry _ port => decide (port < 96)
  | .alignmentLock _ port => decide (port < 96)
  | .alignmentHeld _ port => decide (port < 96)
  | .signalDetectLoss _ lane => decide (lane < 96)
  | .alignmentLoss _ port => decide (port < 96)
  | .uncorrectableWindow _ port _ _ => decide (port < 96)
  | .frameRx _ port _ => decide (port < 96)
  | .arpRequest .. => true
  | .neighbourSolicitation .. => true
  | .echoRequest .. => true
  | .fecSecond _ port _ _ _ _ => decide (port < 96)
  | .eyeScanPointDone _ lane _ _ => decide (lane < 96)
  | .budgetEpoch _ die => decide (die < 8)
  | .fabricRequest _ die _ => decide (die < 8)
  | .flitCrcError _ die bridge dir group _ _ => decide (die < 8) && decide (bridge < 4) && decide (dir < 2) && decide (group < 8)
  | .wireErrorSecond _ die bridge dir group _ _ => decide (die < 8) && decide (bridge < 4) && decide (dir < 2) && decide (group < 8)
  | .masterReset _ die master => decide (die < 8) && decide (master < 22)
  | .isolationEnd _ die master => decide (die < 8) && decide (master < 22)
  | .mr4Poll _ die ctrl _ => decide (die < 8) && decide (ctrl < 2)
  | .wckOscillatorRead _ die ctrl => decide (die < 8) && decide (ctrl < 2)
  | .patrolScrub _ die ctrl _ => decide (die < 8) && decide (ctrl < 2)
  | .migrationCopyBurst _ die ctrl _ => decide (die < 8) && decide (ctrl < 2)
  | .dramTrainingComplete _ die _ => decide (die < 8)
  | .thermalSample _ die _ => decide (die < 8)
  | .thermalShutdownEnd .. => true
  | .voltageSample _ die _ _ => decide (die < 8)
  | .domainFault _ die dom => decide (die < 8) && decide (dom < 48)
  | .logRecord .. => true
  | .logFlashWrite .. => true
  | .persistentFlashWrite .. => true
  | .repairMapWrite .. => true
  | .fastTableUpdate _ die => decide (die < 8)
  | .forwardResponse _ die => decide (die < 8)
  | .forwardTimeout _ die => decide (die < 8)
  | .sessionExpiry .. => true
  | .segmentTimeout .. => true
  | .snapshotRelease .. => true
  | .mgmtLinkChange .. => true
  | .canBusOff .. => true
  | .anchorWatchdog .. => true
  | .powerOnReset .. => true
  | .powerOnRelease .. => true
  | .systemReset .. => true
  | .systemResetRelease .. => true
  | .sramSelfTestComplete _ die _ => decide (die < 8)
  | .imageVerifyComplete .. => true
  | .bootComplete .. => true
  | .busOffRecovery .. => true
  | .domainRegulationReached _ die dom => decide (die < 8) && decide (dom < 48)
  | .fastExitBurstEnd _ lane => decide (lane < 96)

end Sys2Proof
end

