-- ==== Sys2Proof/Tests/Slice0.lean ====
section
/-! SUPPORT. Tests of the model: ill-formed commands refused, words of the table decoded, results the spec gives, and for every statement
with hypotheses a state and operands that meet them all, clause by clause. -/

namespace Sys2Proof.Tests
open Sys2Proof.Machine
set_option Elab.async false

/-! ### States and requests to test with -/

/-- Whether a request is served. -/
def servesB (dt : Nat) (src : Src) (m : Msg) (bytes : Nat) (s : State) : Bool :=
  arrives src bytes && (s.sys.elapse dt).hears src &&
    match (s.sys.elapse dt).trimmed.finishStops.openSession src with
    | none => false
    | some z =>
      (match z.session src with
        | none => true
        | some w => (w.stored.all fun r => !(r.req == m && decide (z.now < r.t + secU 1))) &&
            decide ((w.outst.filter fun (o : Outst) => !o.turned).length < 8)) &&
        z.admits m && z.reachable (z.dieFor src m)

/-- The state a request finds. -/
def opened (dt : Nat) (src : Src) (s : State) : Sys := ((s.sys.elapse dt).trimmed.finishStops.openSession src).getD s.sys

theorem serves_of {dt : Nat} {src : Src} {m : Msg} {bytes : Nat} {s : State} (h : servesB dt src m bytes s = true) :
    Serves dt src m bytes s (opened dt src s) := by
  unfold servesB at h
  simp only [Bool.and_eq_true] at h
  obtain ⟨⟨h1, h2⟩, h3⟩ := h
  unfold opened
  split at h3
  · exact absurd h3 (by decide)
  · next z e =>
    simp only [Bool.and_eq_true] at h3
    obtain ⟨⟨h4, h5⟩, h6⟩ := h3
    rw [e]
    refine ⟨⟨h1, h2, e⟩, ?_, ?_, h5, h6⟩
    · intro w hw r hr ⟨a, b⟩
      rw [Option.mem_def] at hw
      simp only [Option.getD_some] at hw
      rw [hw] at h4
      simp only [Bool.and_eq_true, List.all_eq_true] at h4
      have := h4.1 r hr
      simp only [Option.getD_some] at b
      simp [a, b] at this
    · intro w hw
      rw [Option.mem_def] at hw
      simp only [Option.getD_some] at hw
      rw [hw] at h4
      simp only [Bool.and_eq_true, decide_eq_true_eq] at h4
      exact h4.2

theorem located {d i j : Nat} (P : Loc → Prop) [DecidablePred P]
    (h : (match locate d i j with | some l => decide (P l) | none => false) = true) : ∃ l, locate d i j = some l ∧ P l := by
  split at h
  · next l e => exact ⟨l, e, of_decide_eq_true h⟩
  · exact absurd h (by decide)

/-- A requester, and the part after boot. -/
def rq : Req := { src := .can 127, seq := 0 }
def up : State := { State.reset with sys := { State.reset.sys with power := { State.reset.sys.power with phase := .running } } }

/-- The part after boot, with a change; and what a request then finds. -/
def on (f : Sys → Sys) : State := { up with sys := f up.sys }
def zOf (f : Sys → Sys) : Sys := opened 0 rq.src (on f)

/-- A part of two dies whose memory is trained at every rate, whose PLLs run, and whose first band entries are calibrated. -/
def pair (y : Sys) : Sys :=
  { y with
    part := { y.part with dies := 2 }
    clk := { y.clk with
      cal := [(0, some (1, 2)), (32, some (1, 2)), (64, some (1, 2)), (96, some (1, 2)), (128, some (1, 2)), (160, some (1, 2)),
              (256, some (1, 2)), (288, some (1, 2)), (320, some (1, 2)), (352, some (1, 2)), (384, some (1, 2)), (416, some (1, 2))]
      plls := [0, 1, 2, 3, 4, 5, 8, 9, 10, 11, 12, 13].map fun k => (k, { st := 0, bypassFrom := none }) }
    dies := [0, 1].map fun d => (d, { remap := true, dram := { bypass := false, ranks := [0, 1].flatMap fun m =>
      [(3 * m, { st := 1, serves := some 0, trained := [0, 5, 6] }), (3 * m + 1, { st := 1, serves := some 1, trained := [0, 5, 6] }),
       (3 * m + 2, { st := 2, trained := [0, 5, 6] })] } }) }

/-- Settings, live and shadow. -/
def sets (l : List (Nat × Nat)) (y : Sys) : Sys := l.foldl (fun y e => (y.setInt e.1 e.2).setShadow e.1 (.int e.2)) y

/-- Channel 0 with a small raster, a large bitrate and the longest latency. -/
def small (y : Sys) : Sys :=
  sets [(Ob.RcBitrate 0, 704000000), (Ob.IngVidWidth 0, 1280), (Ob.IngVidHeight 0, 720), (Ob.IngRateNum 0, 24), (Ob.ChLatencyRows 0, 16)]
    (pair y)

/-- That channel, running on the first pipeline of the first die, its next boundary the sixth. -/
def live0 (run : Nat) (y : Sys) : Sys :=
  (small y).setChan 0
    { run := run, cfg := (small y).snapshot 0, die := 0, pipes := [(0, 0)], share := 1, nextK := 5, frameNo := 5, poc := 5, bitrate := 704000000 }

/-- Port 23, the last of two dies, in a mode of one lane with RS-FEC; and the same with the PLL of its lanes lost. -/
def mode1 (y : Sys) : Sys := sets [(Ob.PortMode 23, 8)] (pair y)
def mode1Lost (y : Sys) : Sys := ((mode1 y).setPll 1 4 { st := 2 }).setPll 1 5 { st := 2 }

/-- Port 23 enabled and up. -/
def upPort (y : Sys) : Sys := ((sets [(Ob.PortEnable 23, 1)] (mode1 y)).setPort 23 { st := 5, mode := 8 }).setLane 23 { st := 4, sd := true }

/-- The state a command finds. -/
def at_ (dt : Nat) (f : Sys → Sys) : Sys := (on f).sys.elapse dt

/-- The state after a command. -/
def after (c : Instr) (s : State) : Sys :=
  match exec c s with
  | .next t => t.sys
  | _ => s.sys

/-- A request that is served on that state. -/
def W (f : Sys → Sys) (m : Msg) (n : Nat) : Prop := Serves 0 rq.src m n (on f) (zOf f)

theorem both {f : Sys → Sys} {m : Msg} {n : Nat} {P : Prop} [Decidable P] (h : (servesB 0 rq.src m n (on f) && decide P) = true) :
    W f m n ∧ P := by
  simp only [Bool.and_eq_true, decide_eq_true_eq] at h
  exact ⟨serves_of h.1, h.2⟩

/-! ### The queue, reset and the byte tables -/

theorem witness_queue : State.reset.pending = [] ∧ (∃ t, exec (.canBusOff 0) up = .next t) ∧ ∃ t, step { up with pending := [.canBusOff 0] } = .next t :=
  ⟨rfl, ⟨_, rfl⟩, ⟨_, rfl⟩⟩

theorem witness_inv : State.reset.Inv ∧ ∃ t, step State.reset = .next t := ⟨⟨rfl, rfl⟩, ⟨_, rfl⟩⟩

/-! ### Management writes and commits -/

theorem witness_registerWrite : ∃ l, locate 8 0x3700 0x01 = some l ∧ l.plain (objKey 0x3700 0x01) = true ∧ l.row.acc = .rw ∧
    decodeVal l.row [7] = .ok (.int 7) ∧ (zOf id).valueBarred (objKey 0x3700 0x01) l (.int 7) = false ∧
    servesB 0 rq.src (writeMsg rq 0x3700 0x01 [7]) 0 (on id) = true ∧ servesB 0 rq.src (writeMsg rq 0x3700 0x01 [7]) 1 (on id) = true ∧
    (after (.registerWrite 0 rq 0x3700 0x01 [7]) (on id)).nat Ob.OnyxPreemptLevel = 7 := located _ (by decide +kernel)

theorem witness_shadowWrite : ∃ l, locate 8 0x3300 0x02 = some l ∧ l.plain (objKey 0x3300 0x02) = true ∧ l.row.acc = .rws ∧
    decodeVal l.row (leBytes 4 100000) = .ok (.int 100000) ∧ (zOf id).valueBarred (objKey 0x3300 0x02) l (.int 100000) = false ∧
    servesB 0 rq.src (writeMsg rq 0x3300 0x02 (leBytes 4 100000)) 0 (on id) = true ∧
    servesB 0 rq.src (writeMsg rq 0x3300 0x02 (leBytes 4 100000)) 4 (on id) = true ∧
    (after (.shadowWrite 0 rq 0x3300 0x02 (leBytes 4 100000)) (on id)).nat (Ob.PortGuard 0) = 100 ∧
    (after (.shadowWrite 0 rq 0x3300 0x02 (leBytes 4 100000)) (on id)).shadowVal (Ob.PortGuard 0) = .int 100000 :=
  located _ (by decide +kernel)

theorem witness_writeAborts : servesB 0 rq.src (writeMsg rq 0x2002 0x01 [0]) 0 (on id) = true ∧ locate 8 0x2002 0x01 = none ∧
    servesB 0 rq.src (writeMsg rq 0x1000 0x03 [0]) 0 (on id) = true ∧ (∃ l, locate 8 0x1000 0x03 = some l ∧ l.row.acc = .const) ∧
    servesB 0 rq.src (writeMsg rq 0x3700 0x01 [1, 0]) 0 (on id) = true ∧
    (∃ l, locate 8 0x3700 0x01 = some l ∧ l.row.acc = .rw ∧ l.base ≠ 0x6020 ∧ lengthOk l.row 2 = false) ∧
    servesB 0 rq.src (writeMsg rq 0x3700 0x01 [8]) 0 (on id) = true ∧
    ∃ l, locate 8 0x3700 0x01 = some l ∧ l.row.acc = .rw ∧ l.base ≠ 0x6020 ∧ lengthOk l.row 1 = true ∧ l.row.ty.size = some 1 ∧
      l.row.rng.admits (8 : Nat) = false :=
  ⟨by decide +kernel, by decide +kernel, by decide +kernel, located _ (by decide +kernel), by decide +kernel,
   located _ (by decide +kernel), by decide +kernel, located _ (by decide +kernel)⟩

theorem witness_portCommit : W id (writeMsg rq (strideIdx 0x3300 2 96 95) 0x0A [1]) 0 ∧
    firstFail ((zOf id).portCommitChecks 95 ((zOf id).checkVal (portOwns 95))) = none := both (by decide +kernel)

/-- A class rate above the port's. -/
def fastClass (y : Sys) : Sys := y.setShadow (Ob.PortClassRate 0 7) (.int 1000000)

theorem witness_portCommit_refused : W fastClass (writeMsg rq (strideIdx 0x3300 2 96 0) 0x0A [1]) 0 ∧
    firstFail ((zOf fastClass).portCommitChecks 0 ((zOf fastClass).checkVal (portOwns 0))) = some 0x1023 := both (by decide +kernel)

theorem witness_clkCommit : W pair (writeMsg rq (strideIdx 0x3800 1 6 5) 0x07 [1]) 0 ∧ firstFail ((zOf pair).clkChecks 5) = none :=
  both (by decide +kernel)

theorem witness_clkCommit_refused : W id (writeMsg rq (strideIdx 0x3800 1 6 0) 0x07 [1]) 0 ∧ firstFail ((zOf id).clkChecks 0) = some 0x0320 :=
  both (by decide +kernel)

theorem witness_memCommit : W pair (writeMsg rq 0x3600 0x04 [1]) 0 ∧ firstFail (zOf pair).memChecks = none := both (by decide +kernel)

/-- A memory rate that is not enabled. -/
def otherRate (y : Sys) : Sys := y.setShadow Ob.MemRate (.int 3)

theorem witness_memCommit_refused : W otherRate (writeMsg rq 0x3600 0x04 [1]) 0 ∧ firstFail (zOf otherRate).memChecks = some 0x0620 :=
  both (by decide +kernel)

theorem witness_auCommit : W id (writeMsg rq (strideIdx 0x3200 2 32 31) 0x14 [1]) 0 ∧
    ((auOutLegs ((zOf id).checkVal (auOwns 31)) 31).all fun l => decide (l.port < 12 * (zOf id).part.dies) &&
      (zOf id).nat (Ob.PortMode l.port) != 0) = true ∧
    firstFail ((zOf id).auChecks 31 ((zOf id).checkVal (auOwns 31))) = none := both (by decide +kernel)

theorem witness_cxCommit : W id (writeMsg rq (strideIdx 0x3000 8 32 31) 0x11 [1]) 0 ∧ ((zOf id).cxCommit 31).1 = none :=
  both (by decide +kernel)

/-! ### A bitrate that carries every prefix and slice header the free values can give -/

theorem searchUp_le (ok : Nat → Bool) (s : Nat) : ∀ n x, searchUp ok s n x ≤ x + n * s
  | 0, x => by simp [searchUp]
  | n + 1, x => by
    unfold searchUp
    split
    · omega
    · have := searchUp_le ok s n (x + s)
      rw [Nat.add_mul]; omega

theorem foldl_max_le {B : Nat} : ∀ (l : List Nat) (a : Nat), a ≤ B → (∀ x ∈ l, x ≤ B) → l.foldl max a ≤ B
  | [], _, h, _ => h
  | x :: l, a, h, hl => by
    simp only [List.foldl_cons]
    exact foldl_max_le l _ (Nat.max_le.2 ⟨h, hl x (by simp)⟩) fun y hy => hl y (by simp [hy])

theorem foldl_map_max_le {B : Nat} (g : List Nat → Nat) : ∀ (l : List (List Nat)) (a : Nat), a ≤ B → (∀ x ∈ l, g x ≤ B) →
    l.foldl (fun m p => max m (g p)) a ≤ B
  | [], _, h, _ => h
  | x :: l, a, h, hl => by
    simp only [List.foldl_cons]
    exact foldl_map_max_le g l _ (Nat.max_le.2 ⟨h, hl x (by simp)⟩) fun y hy => hl y (by simp [hy])

theorem foldl_add_le {B : Nat} : ∀ (l : List Nat) (a : Nat), (∀ x ∈ l, x ≤ B) → l.foldl (· + ·) a ≤ a + l.length * B
  | [], _, _ => by simp
  | x :: l, a, hl => by
    simp only [List.foldl_cons, List.length_cons]
    have h1 := foldl_add_le l (a + x) fun y hy => hl y (by simp [hy])
    have h2 := hl x (by simp)
    rw [Nat.add_mul]; omega

theorem units_length (f : Fig) : f.units.length ≤ 11 := by
  unfold Fig.units
  simp only [List.flatten_cons, List.flatten_nil, List.length_append, List.length_cons, List.length_nil]
  (repeat' split) <;> simp

theorem prefixMax_lt (f : Fig) : f.prefixMax < 2 ^ 20 := by
  have h1 := foldl_add_le (B := 65535) (f.units.map f.unitMax) 0 fun x hx => by
    obtain ⟨u, -, rfl⟩ := List.mem_map.1 hx
    exact Nat.le_of_lt_succ (Nat.mod_lt _ (by decide))
  rw [List.length_map] at h1
  have h2 := Nat.mul_le_mul_right 65535 (units_length f)
  have h3 : f.ancRoom < 2 ^ 18 := by
    unfold Fig.ancRoom
    split
    · decide
    · exact Nat.mod_lt _ (by decide)
  have h4 : (if f.sig = 0 then 0 else sigMax) ≤ sigMax := by split <;> simp
  have h5 : tagMax + sigMax < 3000 := by decide
  unfold Fig.prefixMax
  omega

/-- A bound of `minRate` from one of the rows' intra CTUs. -/
theorem minRate_le (f : Fig) (B R A : Nat) (hb : ∀ r < f.rows, f.bandCtus (f.bandAt 0) r ≤ B) (hw : f.rowCtus ≤ B)
    (hR : R = 32 * B + 8 * f.rowCtus + f.tiles * 65536)
    (hA : max (max (R * f.ht / (f.ht - 64 * (f.rows - 1))) (2 ^ 20 + f.rows * R + 1)) ((2 ^ 20 + R) * f.ht / (64 * f.lat)) ≤ A) :
    f.minRate false ≤ (8 * (A + 8192) * f.rn + f.rd * 64) / (f.rd * 64) * 64 + 8192 * 64 := by
  have hp := prefixMax_lt f
  have hs : f.sliceHdr < 2 ^ 16 := Nat.mod_lt _ (by decide)
  have row : ∀ i ≤ B, f.floorRow i ≤ R := by
    intro i hi
    have : f.tiles * f.sliceHdr ≤ f.tiles * 65536 := Nat.mul_le_mul_left _ (by omega)
    unfold Fig.floorRow
    omega
  have pics : ∀ p ∈ f.floorPictures false, p.length = f.rows ∧ ∀ x ∈ p, x ≤ R := by
    intro p hp'
    unfold Fig.floorPictures at hp'
    have whole : ∀ q ∈ [List.replicate f.rows (f.floorRow f.rowCtus)], q.length = f.rows ∧ ∀ x ∈ q, x ≤ R := by
      intro q hq
      rw [List.mem_singleton] at hq
      subst hq
      refine ⟨by simp, fun x hx => ?_⟩
      rw [List.eq_of_mem_replicate hx]
      exact row _ hw
    have band : ∀ q ∈ [(List.range f.rows).map fun r => f.floorRow (f.bandCtus (f.bandAt 0) r)], q.length = f.rows ∧ ∀ x ∈ q, x ≤ R := by
      intro q hq
      rw [List.mem_singleton] at hq
      subst hq
      refine ⟨by simp, fun x hx => ?_⟩
      rw [List.mem_map] at hx
      obtain ⟨r, hr, rfl⟩ := hx
      exact row _ (hb r (List.mem_range.1 hr))
    rw [List.mem_append] at hp'
    obtain h | h := hp'
    · split at h
      · exact whole p h
      · simp at h
    · split at h
      · simp at h
      · exact band p h
  unfold Fig.minRate
  refine Nat.le_trans (searchUp_le _ _ _ _) (Nat.add_le_add_right ?_ _)
  refine Nat.mul_le_mul_right _ ?_
  unfold ceilDiv
  refine Nat.div_le_div_right ?_
  have hF : ∀ F1, F1 ≤ A → ∀ ok, searchUp ok 1 8192 F1 ≤ A + 8192 := fun F1 h ok =>
    Nat.le_trans (searchUp_le _ _ _ _) (by omega)
  have key := hF (max (max ((((f.floorPictures false).flatMap id).foldl max 1 - 1) * f.ht / (f.ht - 64 * (f.rows - 1)))
    ((f.floorPictures false).foldl (fun m p => max m (p.foldl (· + ·) f.prefixMax)) 1))
    ((f.floorPictures false).foldl (fun m p => max m ((f.prefixMax + p.headD 0) * f.ht / (64 * f.lat))) 0)) ?_
    (f.budgetOk (f.floorPictures false))
  · have := Nat.mul_le_mul_right f.rn (Nat.mul_le_mul_left 8 key)
    omega
  · refine Nat.le_trans ?_ hA
    refine Nat.max_le.2 ⟨Nat.max_le.2 ⟨?_, ?_⟩, ?_⟩
    · refine Nat.le_trans (Nat.div_le_div_right (Nat.mul_le_mul_right _ ?_)) (Nat.le_trans (Nat.le_max_left _ _) (Nat.le_max_left _ _))
      have := foldl_max_le (B := R + 1) ((f.floorPictures false).flatMap id) 1 (by omega) (by
        intro x hx
        rw [List.mem_flatMap] at hx
        obtain ⟨p, hp1, hp2⟩ := hx
        exact Nat.le_succ_of_le ((pics p hp1).2 x hp2))
      omega
    · refine Nat.le_trans ?_ (Nat.le_trans (Nat.le_max_right _ _) (Nat.le_max_left _ _))
      refine foldl_map_max_le (fun p => p.foldl (· + ·) f.prefixMax) _ _ (Nat.le_add_left 1 _) fun p hp1 => ?_
      have := foldl_add_le p f.prefixMax (pics p hp1).2
      rw [(pics p hp1).1] at this
      omega
    · refine Nat.le_trans ?_ (Nat.le_max_right _ _)
      refine foldl_map_max_le (fun p => (f.prefixMax + p.headD 0) * f.ht / (64 * f.lat)) _ _ (Nat.zero_le _) fun p hp1 => ?_
      refine Nat.div_le_div_right (Nat.mul_le_mul_right _ ?_)
      have : p.headD 0 ≤ R := by
        cases p with
        | nil => simp
        | cons x l => exact (pics _ hp1).2 x (by simp)
      omega

theorem small_rate (f : Fig) (hb : ∀ r < f.rows, f.bandCtus (f.bandAt 0) r ≤ 20) (hw : f.rowCtus = 20) (ht : f.tiles = 1) (hh : f.ht = 720)
    (hr : f.rows = 12) (hl : f.lat = 16) (hn : f.rn = 24) (hd : f.rd = 1) : f.minRate false ≤ 704000000 := by
  refine Nat.le_trans (minRate_le f 20 66336 2985120 hb (by omega) (by rw [hw, ht]) ?_) ?_
  · rw [hh, hr, hl]; decide
  · rw [hn, hd]; decide

theorem small_check2 : (zOf small).finishStops.check2 0 ((zOf small).finishStops.startFig 0) = true := by
  unfold Sys.check2
  rw [Bool.and_eq_true, Bool.and_eq_true, decide_eq_true_eq]
  refine ⟨⟨by decide +kernel, Nat.le_trans (small_rate _ ?_ ?_ ?_ ?_ ?_ ?_ ?_ ?_) ?_⟩, ?_⟩ <;> decide +kernel

theorem witness_channelStarts : W small (writeMsg rq (strideIdx 0x2000 0x20 128 0) 0x01 [1]) 0 ∧
    ((zOf small).finishStops.chan 0).run = 0 ∧ ((zOf small).finishStops.tryStart 0).1 = none := by
  refine ⟨serves_of (by decide +kernel), by decide +kernel, ?_⟩
  unfold Sys.tryStart
  dsimp only
  rw [small_check2]
  decide +kernel

theorem witness_stops : (W (live0 2) (writeMsg rq (strideIdx 0x2000 0x20 128 0) 0x01 [2]) 0 ∧ ((zOf (live0 2)).finishStops.chan 0).run = 2) ∧
    (W (live0 1) (writeMsg rq (strideIdx 0x2000 0x20 128 0) 0x01 [2]) 0 ∧ ((zOf (live0 1)).finishStops.chan 0).run = 1) ∧
    W (live0 2) (writeMsg rq (strideIdx 0x2009 0x20 128 0) 0x11 [1]) 0 ∧ ((zOf (live0 2)).chan 0).run ≠ 0 :=
  ⟨both (by decide +kernel), both (by decide +kernel), both (by decide +kernel)⟩

theorem witness_bitrate : W (live0 2) (writeMsg rq (strideIdx 0x2000 0x20 128 0) 0x05 [1]) 0 ∧
    ((zOf (live0 2)).finishStops.chan 0).run ≠ 0 ∧ ((zOf (live0 2)).finishStops.shadowVal (Ob.RcBitrate 0)).nat = 704000000 ∧
    firstFail ((zOf (live0 2)).finishStops.bitrateChecks 0 704000000) = none := by
  refine ⟨serves_of (by decide +kernel), by decide +kernel, by decide +kernel, ?_⟩
  unfold Sys.bitrateChecks
  dsimp only
  rw [decide_eq_true (small_rate { (zOf (live0 2)).finishStops.fig 0 with rate := 704000000 } (by decide +kernel) (by decide +kernel)
    (by decide +kernel) (by decide +kernel) (by decide +kernel) (by decide +kernel) (by decide +kernel) (by decide +kernel))]
  decide +kernel

theorem witness_tbStep : W (live0 2) (writeMsg rq (strideIdx 0x3500 2 8 7) 0x10 (leBytes 8 (toUnsigned 8 (-2 ^ 63)))) 0 ∧
    ((zOf (live0 2)).tb 7).waiting = [] ∧ (zOf (live0 2)).consumers 7 = [] := both (by decide +kernel)

theorem witness_tbStep_bounded : W (live0 2) (writeMsg rq (strideIdx 0x3500 2 8 0) 0x10 (leBytes 8 (toUnsigned 8 (secU 3600)))) 0 ∧
    ((zOf (live0 2)).tb 0).waiting = [] ∧ (zOf (live0 2)).consumers 0 ≠ [] := both (by decide +kernel)

/-- TB7 with an offset judged against its master. -/
def judged (y : Sys) : Sys := y.setTb 7 { y.tb 7 with judged := some 65536000 }

theorem witness_tbStepToMaster : W judged (writeMsg rq (strideIdx 0x3500 2 8 7) 0x11 [1]) 0 ∧
    ((zOf judged).tb 7).judged = some 65536000 ∧ ((zOf judged).tb 7).waiting = [] ∧ (zOf judged).consumers 7 = [] :=
  both (by decide +kernel)

/-- A calibration run under way. -/
def calRun (y : Sys) : Sys := { pair y with clk := { (pair y).clk with run := some (1, 2, 0) } }

theorem witness_bandCal : (W calRun (writeMsg rq (strideIdx 0x3800 1 6 5) 0x06 (leBytes 1 31)) 0 ∧
      (zOf calRun).lanePllUsed 5 = false ∧ (zOf calRun).clk.run.isSome = true ∧ (zOf calRun).clk.queue.contains (5, 31) = false) ∧
    (W pair (writeMsg rq (strideIdx 0x3800 1 6 0) 0x06 (leBytes 1 31)) 0 ∧ (zOf pair).clk.run = none ∧ (zOf pair).clk.queue = []) ∧
    W pair (writeMsg rq (strideIdx 0x3800 1 6 3) 0x05 ((zOf pair).bandTableShown 3)) 0 ∧ ((zOf pair).bandTableShown 3).length = 256 ∧
      ∀ e ∈ (zOf pair).entriesHeld 3, e < 32 → entryOf ((zOf pair).bandTableShown 3) e = (zOf pair).entryShown 3 e :=
  ⟨both (by decide +kernel), both (by decide +kernel), both (by decide +kernel)⟩

/-- A PLL that has failed. -/
def failed1 (y : Sys) : Sys := (pair y).setPll 1 1 { st := 8, fails := 8 }

theorem witness_clkRetry : W failed1 (writeMsg rq (strideIdx 0x3800 1 6 1) 0x0A [1]) 0 ∧ ((zOf failed1).pll 1 1).st = 8 ∧
    ((zOf failed1).pll 1 1).refs.contains ((zOf failed1).nat (Ob.ClkRefSel 1)) = true ∧ ((zOf failed1).pll 0 1).st ≠ 8 ∧
    ((after (.clkRetry 0 rq 1) (on failed1)).pll 1 1).st = 4 := both (by decide +kernel)

theorem witness_modes : (W id (writeMsg rq (strideIdx 0x3300 2 96 95) 0x30 (leBytes 1 9)) 0 ∧
      ¬(((9 : Nat) = 0 ∧ (zOf id).portNamed 95 = true) ∨ (modeRate 9 : Rat) < (zOf id).reservedBut 95 none none none)) ∧
    (W id (writeMsg rq (strideIdx 0x3300 2 96 95) 0x30 (leBytes 1 0)) 0 ∧
      ¬(((0 : Nat) = 0 ∧ (zOf id).portNamed 95 = true) ∨ (modeRate 0 : Rat) < (zOf id).reservedBut 95 none none none)) ∧
    W id (writeMsg rq (0x3400 + 2047 / 8) (0x20 * (2047 % 8) + 0x01) (leBytes 1 2)) 0 ∧
      (after (.polModeWrite 0 rq 2047 2) (on id)).nat (Ob.PolMode 2047) = 2 :=
  ⟨both (by decide +kernel), both (by decide +kernel), both (by decide +kernel)⟩

/-! ### Reads and segments -/

theorem witness_read : ∃ l, locate 8 0x2FE3 0x01 = some l ∧ l.row.acc ≠ .wo ∧ l.base ≠ 0x5001 ∧ l.base ≠ 0x5041 ∧
    (zOf id).isFast 0x2FE3 0x01 false = false ∧
    (servesB 0 rq.src (reqMsg 0x01 rq 0x2FE3 0x01 0 []) 0 (on id) &&
      servesB 0 rq.src (reqMsg 0x01 rq 0x2FE3 0x01 1 []) 0 (on id)) = true ∧
    (encodeVal l.row.ty (((zOf id).dropSnap rq.src).readVal [] l (objKey 0x2FE3 0x01) false)).length ≤ payloadLimit rq.src :=
  located _ (by decide +kernel)

theorem witness_read_long : ∃ l, locate 8 0x3800 0x05 = some l ∧ l.row.acc ≠ .wo ∧ l.base ≠ 0x5001 ∧ l.base ≠ 0x5041 ∧
    (zOf pair).isFast 0x3800 0x05 false = false ∧ servesB 0 rq.src (reqMsg 0x01 rq 0x3800 0x05 0 []) 0 (on pair) = true ∧
    payloadLimit rq.src < (encodeVal l.row.ty (((zOf pair).dropSnap rq.src).readVal [] l (objKey 0x3800 0x05) false)).length :=
  located _ (by decide +kernel)

/-- The requester's session with a snapshot of the band table of CLK_SYS. -/
def snapped (y : Sys) : Sys :=
  { y with mgmt := { y.mgmt with sessions := [{ src := rq.src, snap := some { idx := 0x3800, sub := 5, data := List.replicate 256 7, t := 0 } }] } }

theorem witness_readSeg : W snapped (reqMsg 0x05 rq 0x3800 5 0 (leBytes 4 255)) 4 ∧
    ((zOf snapped).session rq.src).bind Session.snap = some { idx := 0x3800, sub := 5, data := List.replicate 256 7, t := 0 } ∧
    (locate 8 0x3800 5).isSome = true := both (by decide +kernel)

theorem witness_describe : W id (reqMsg 0x07 rq 0x1000 0x01 0 []) 0 ∧ (locate 8 0x1000 0x01).isSome = true := both (by decide +kernel)

theorem witness_writeInit : ∃ l, locate 8 0x1022 0x01 = some l ∧ l.row.acc ≠ .ro ∧ l.row.acc ≠ .const ∧ initOk l 1024 = true ∧
    servesB 0 rq.src (reqMsg 0x03 rq 0x1022 0x01 0 (leBytes 4 1024)) 4 (on id) = true := located _ (by decide +kernel)

/-- The requester's session in a segmented write of four bytes, two of them there. -/
def seg : SegWrite := { idx := 0x3300, sub := 2, total := 4, data := [1, 0], last := some 0, t := 0 }
def segging (y : Sys) : Sys := { y with mgmt := { y.mgmt with sessions := [{ src := rq.src, seg := some seg }] } }

theorem witness_writeSeg : (W segging (reqMsg 0x04 rq 0x3300 2 0 (leBytes 4 2 ++ [0])) (4 + [(0 : Byte)].length) ∧
      ((zOf segging).session rq.src).bind Session.seg = some seg ∧ (locate 8 0x3300 2).isSome = true ∧ seg.done = none ∧ seg.last ≠ some 2 ∧
      2 = seg.data.length ∧ 2 + [(0 : Byte)].length < seg.total) ∧
    W segging (reqMsg 0x04 rq 0x3300 2 0 (leBytes 4 2 ++ [0, 0])) (4 + [(0 : Byte), 0].length) ∧
      ((zOf segging).session rq.src).bind Session.seg = some seg ∧ 2 + [(0 : Byte), 0].length = seg.total ∧
      (after (.writeSeg 0 rq 0x3300 2 2 [0, 0]) (on segging)).shadowVal (Ob.PortGuard 0) = .int 1 :=
  ⟨both (by decide +kernel), both (by decide +kernel)⟩

/-! ### The hardware path and the window -/

/-- A fast table of one object. -/
def fast (y : Sys) : Sys := y.setBytes Ob.FastTable (leBytes 4 0x37000100 ++ List.replicate 1020 0)

theorem witness_fast : (∃ x : Nat × Nat, x = (0x3700, 1) ∧ (zOf fast).isFast x.1 x.2 false = true ∧
      servesB 0 rq.src (reqMsg 0x01 rq x.1 x.2 0 []) 0 (on fast) = true) ∧
    (zOf id).running = true ∧ servesB 0 rq.src (reqMsg 0x06 rq 0 0 0 [255, 255]) 2 (on id) = true :=
  ⟨⟨_, rfl, by decide +kernel, by decide +kernel⟩, by decide +kernel, by decide +kernel⟩

theorem witness_fastTable : (W id (writeMsg rq 0x1022 0x01 (leBytes 4 0x37000100 ++ List.replicate 1020 0)) 0 ∧
      (leBytes 4 0x37000100 ++ List.replicate 1020 0 : List Byte).length = 1024 ∧
      ((List.range 256).all fun i => fastOk (zOf id).part.dies (fastEntry (leBytes 4 0x37000100 ++ List.replicate 1020 0) i)) = true) ∧
    ((on fast).sys.elapse 0).running = true ∧ ((on fast).sys.elapse 0).reachable 0 = true ∧
    ((on fast).sys.elapse 0).fastEntries.contains (some (0x3700, 1)) = true ∧
    ∃ l, locate 8 0x3700 1 = some l ∧ ((on fast).sys.elapse 0).holder l = 0 :=
  ⟨both (by decide +kernel), by decide +kernel, by decide +kernel, by decide +kernel, located _ (by decide +kernel)⟩

/-- The requester's session with its window at an address. -/
def window (a : Nat) (y : Sys) : Sys := { pair y with mgmt := { y.mgmt with sessions := [{ src := rq.src, winAddr := a }] } }

theorem witness_window : W id (writeMsg rq 0x5001 0x01 (leBytes 8 (2 ^ 64 - 4))) 0 ∧
    (W (window (dieBase 1 + 0x117FFFFC)) (reqMsg 0x01 rq 0x5001 0x02 0 []) 0 ∧
      (zOf (window (dieBase 1 + 0x117FFFFC))).winPlace ((zOf (window (dieBase 1 + 0x117FFFFC))).winAddr rq.src) = some (1, 0x117FFFFC) ∧
      winBad 0x117FFFFC = false ∧ targetOf 0x117FFFFC ≠ 7 ∧ targetOf 0x117FFFFC ≠ 8 ∧ targetOf 0x117FFFFC ≠ 5 ∧ targetOf 0x117FFFFC ≠ 6 ∧
      keptAt ((zOf (window (dieBase 1 + 0x117FFFFC))).die 1).remap 1 0x117FFFFC ≠ none ∧
      (zOf (window (dieBase 1 + 0x117FFFFC))).isFast 0x5001 0x02 false = false) ∧
    W (window (dieBase 1 + 0x40000000000)) (reqMsg 0x01 rq 0x5001 0x02 0 []) 0 ∧
      (zOf (window (dieBase 1 + 0x40000000000))).winPlace ((zOf (window (dieBase 1 + 0x40000000000))).winAddr rq.src) = some (1, 0x40000000000) ∧
      winBad 0x40000000000 = false ∧ targetOf 0x40000000000 = 5 ∧ (zOf (window (dieBase 1 + 0x40000000000))).dramSound 1 0x40000000000 = true ∧
      keptAt ((zOf (window (dieBase 1 + 0x40000000000))).die 1).remap 1 0x40000000000 ≠ none :=
  ⟨serves_of (by decide +kernel), both (by decide +kernel), both (by decide +kernel)⟩

theorem witness_windowWrite : (W (window (dieBase 1 + 0x20151000)) (writeMsg rq 0x5001 0x02 (leBytes 4 (2 ^ 32 - 1))) 0 ∧
      (zOf (window (dieBase 1 + 0x20151000))).winPlace ((zOf (window (dieBase 1 + 0x20151000))).winAddr rq.src) = some (1, 0x20151000) ∧
      targetOf 0x20151000 = 7 ∧ winBad 0x20151000 = false) ∧
    W pair (reqMsg 0x01 rq 0x5041 (1 + 1) 0 []) 0 ∧ (zOf pair).isFast 0x5041 (1 + 1) false = false :=
  ⟨both (by decide +kernel), both (by decide +kernel)⟩

/-! ### Ports, lanes, memory and the update path by management -/

theorem witness_portEnable : (W mode1 (writeMsg rq (strideIdx 0x3300 2 96 23) 0x31 [1]) 0 ∧ (zOf mode1).portEnabled 23 = false ∧
      firstFail ((zOf mode1).portChecks 23) = none ∧ (zOf mode1).quadRuns 23 = true ∧
      0 < modeLanes ((zOf mode1).nat (Ob.PortMode 23)) ∧ (zOf mode1).nat (Ob.LnBurstLen (23 + 0)) ≠ 0 ∧
      ((after (.portEnable 0 rq 23) (on mode1)).lane 23).st = 1) ∧
    W mode1Lost (writeMsg rq (strideIdx 0x3300 2 96 23) 0x31 [1]) 0 ∧ (zOf mode1Lost).portEnabled 23 = false ∧
      firstFail ((zOf mode1Lost).portChecks 23) = none ∧
      (zOf mode1Lost).quadRuns 23 = false ∧
      ((after (.portEnable 0 rq 23) (on mode1Lost)).lane 23).st = 0 := ⟨both (by decide +kernel), both (by decide +kernel)⟩

/-- Port 23 with no burst, on an optical module. -/
def noBurst (y : Sys) : Sys := sets [(Ob.LnBurstLen 23, 0), (Ob.PortMedium 23, 1)] (mode1 y)

theorem witness_portEnable_noBurst : W noBurst (writeMsg rq (strideIdx 0x3300 2 96 23) 0x31 [1]) 0 ∧ (zOf noBurst).portEnabled 23 = false ∧
    firstFail ((zOf noBurst).portChecks 23) = none ∧ (zOf noBurst).quadRuns 23 = true ∧
    (zOf noBurst).nat (Ob.LnBurstLen (23 + 0)) = 0 ∧ ((after (.portEnable 0 rq 23) (on noBurst)).lane 23).st = 3 := both (by decide +kernel)

theorem witness_portDisable : W upPort (writeMsg rq (strideIdx 0x3300 2 96 23) 0x31 [0]) 0 ∧ (zOf upPort).portEnabled 23 = true ∧
    ((after (.portDisable 0 rq 23) (on upPort)).port 23).st = 0 := both (by decide +kernel)

theorem witness_lnScan : W upPort (writeMsg rq (strideIdx 0x3900 1 96 23) 0x28 [1]) 0 ∧ ((zOf upPort).lane 23).scan = none ∧
    ((zOf upPort).lane 23).st = 4 ∧ (zOf upPort).int (Ob.LnScanPhaseMin 23) ≤ (zOf upPort).int (Ob.LnScanPhaseMax 23) ∧
    (zOf upPort).int (Ob.LnScanVoltMin 23) ≤ (zOf upPort).int (Ob.LnScanVoltMax 23) ∧ -32 ≤ (zOf upPort).int (Ob.LnScanPhaseMin 23) ∧
    (zOf upPort).int (Ob.LnScanPhaseMax 23) ≤ 31 ∧ -64 ≤ (zOf upPort).int (Ob.LnScanVoltMin 23) ∧
    (zOf upPort).int (Ob.LnScanVoltMax 23) ≤ 63 ∧ 16 ≤ (zOf upPort).nat (Ob.LnScanDwell 23) ∧ (zOf upPort).nat (Ob.LnScanDwell 23) ≤ 34 ∧
    (zOf upPort).nat (Ob.LnScanEye 23) = 1 := both (by decide +kernel)

theorem witness_migrate : W pair (writeMsg rq 0x3600 0x16 (leBytes 2 (256 * 1 + 16 * 1 + 1))) 0 ∧ (((zOf pair).die 1).dram.rank 1 1).st = 1 ∧
    (((zOf pair).die 1).dram.rank 1 2).st = 2 ∧ (((zOf pair).die 1).dram.ctrl 1).src = none ∧ (((zOf pair).die 1).dram.ctrl 1).waiting = [] ∧
    (zOf pair).rateChanging = false := both (by decide +kernel)

theorem witness_deviceWrites : W pair (writeMsg rq 0x3700 0x05 [1]) 0 ∧ W pair (writeMsg rq 0x1005 0x01 (leBytes 1 1)) 0 ∧
    (W pair (writeMsg rq 0x6000 0x06 (List.replicate 32 9)) 0 ∧ (List.replicate 32 (9 : Byte)).length = 32) ∧
    W pair (writeMsg rq 0x5078 0x01 (leBytes 2 (256 * 1 + 16 * 1 + 2))) 0 :=
  ⟨serves_of (by decide +kernel), serves_of (by decide +kernel), both (by decide +kernel), serves_of (by decide +kernel)⟩

/-- An update transfer in its state; and a trial that began at the start. -/
def upd (st : Nat) (chunk : Option (List Byte)) (y : Sys) : Sys := { y with upd := { y.upd with st := st, total := 4097, offset := 4096, chunk := chunk } }
def trial (y : Sys) : Sys := { y with upd := { y.upd with st := 6, trialFrom := some 0 } }

theorem witness_updateWrites : (W id (writeMsg rq 0x6020 0x01 (leBytes 4 28311552)) 0 ∧ W id (writeMsg rq 0x6020 0x01 (leBytes 4 4097)) 0) ∧
    (W (upd 1 none) (writeMsg rq 0x6020 0x03 [5]) 0 ∧ (zOf (upd 1 none)).upd.chunk = none ∧
      (zOf (upd 1 none)).upd.offset + [(5 : Byte)].length ≤ (zOf (upd 1 none)).upd.total) ∧
    W (upd 1 none) (writeMsg rq 0x6020 0x04 [1]) 0 ∧ (W (upd 4 none) (writeMsg rq 0x6020 0x05 [1]) 0 ∧ (zOf (upd 4 none)).upd.st = 4) ∧
    W trial (writeMsg rq 0x6020 0x06 [1]) 0 ∧ (zOf trial).upd.trialFrom = some 0 ∧ (zOf trial).now ≤ 0 + secU trialLen :=
  ⟨⟨serves_of (by decide +kernel), serves_of (by decide +kernel)⟩, both (by decide +kernel), serves_of (by decide +kernel),
   both (by decide +kernel), both (by decide +kernel)⟩

/-- A flash whose other slot has a body of no bytes. -/
def emptyBody (s : State) : State := { s with flash := storeBytes flashDflt [] (slotBase s.sys.otherSlot + 16) [0, 0, 0, 0] }

theorem witness_updateProceeds : ((on (upd 2 (some [5]))).sys.upd.chunk = some [5] ∧ (on (upd 2 (some [5]))).sys.upd.st = 2) ∧
    ((emptyBody (on (upd 3 none))).sys.upd.st = 3 ∧ 4096 + imgBody (emptyBody (on (upd 3 none))).flash (on (upd 3 none)).sys.otherSlot = 4096 ∧
      (on (upd 3 none)).sys.upd.offset = 4096 ∧
      firstFail (imgChecks up.sys.part (emptyBody (on (upd 3 none))).flash (on (upd 3 none)).sys.otherSlot) = some 7) ∧
    (on trial).sys.upd.trialFrom = some 0 ∧ 0 + secU trialLen ≤ (on trial).sys.now + secU 600 := by decide +kernel

/-! ### Sessions, forwarding and the log -/

/-- A session with one request that waits for die 7. -/
def msg : Msg := { cmd := 1, seq := 0, idx := 0x2FE0, sub := 2, flags := 0, data := [] }
def waits (ready : Bool) : Outst := { req := msg, resp := { msg with cmd := 0x81 }, die := 7, since := 0, ready := ready }
def forwarding (fails : Nat) (y : Sys) : Sys :=
  { y with mgmt := { y.mgmt with sessions := [{ src := rq.src, outst := [waits false, waits true] }], fwdFails := [(7, fails)] } }

theorem witness_forward : (on (forwarding 2)).sys.waitingFor 7 = some (rq.src, 0) ∧
    (on (forwarding 2)).sys.session rq.src = some { src := rq.src, outst := waits false :: [waits true] } ∧
    (on (forwarding 2)).sys.reachable 7 = true ∧ (waits false).ready = false ∧ (waits false).die = 7 ∧
    0 + msU 5 ≤ (on (forwarding 2)).sys.now + msU 5 ∧ (3 : Nat) = Tab.find (fun _ => 0) (on (forwarding 2)).sys.mgmt.fwdFails 7 + 1 ∧
    (2 : Nat) = Tab.find (fun _ => 0) (on (forwarding 1)).sys.mgmt.fwdFails 7 + 1 ∧
    (after (.forwardTimeout (msU 5) 7) (on (forwarding 2))).mgmt.lost = [7] ∧
    (after (.forwardResponse 0 7) (on (forwarding 2))).out.length = 2 := by decide +kernel

/-- A session with a segmented write and a snapshot. -/
def timed (y : Sys) : Sys :=
  { y with mgmt := { y.mgmt with sessions := [{ src := rq.src, seg := some seg, snap := some { idx := 0x3800, sub := 5, data := [7], t := 0 } }] } }

theorem witness_sessionTimers : (on timed).sys.session rq.src =
      some { src := rq.src, seg := some seg, snap := some { idx := 0x3800, sub := 5, data := [7], t := 0 } } ∧
    seg.t + secU 1 ≤ (on timed).sys.now + secU 1 ∧ (0 : Nat) + secU 1 ≤ (on timed).sys.now + secU 1 := by decide +kernel

theorem witness_transports : up.sys.beryl = true ∧ up.sys.mgmt.linkUp ≠ true ∧ up.sys.mgmt.canOff = false := by decide +kernel

/-- An event raised, in a ring of so many records. -/
def ev : Ev := { code := 0x0103, die := 0, arg := 0, t := 0 }
def rec (n : Nat) : LogRec := { code := 0x0106, die := 0, tvalid := false, count := 0, seq := n, time := 0, uptime := 0, arg := 0 }
def raised (n : Nat) (y : Sys) : Sys := { y with evs := { y.evs with raised := [ev], ring := (List.range n).map rec } }
def posAt (n : Nat) (y : Sys) : Sys := { y with evs := { y.evs with ring := [rec 0], pos := n } }

theorem witness_log : ((on (raised 4095)).sys.evs.raised = [ev] ∧ (on (raised 4095)).sys.evs.lost = 0 ∧
      (on (raised 4095)).sys.evs.ring.length < 4096 ∧ argStated.contains ev.code = true) ∧
    ((on (raised 4096)).sys.evs.raised = [ev] ∧ 4096 ≤ (on (raised 4096)).sys.evs.ring.length) ∧
    (on (posAt 2047)).sys.evs.ring = [rec 0] ∧ (on (posAt 2047)).sys.evs.pos % 2048 ≠ 0 := by decide +kernel

/-- Copies due. -/
def due (y : Sys) : Sys := { y with mgmt := { y.mgmt with persistDue := true, mapDue := true } }

theorem witness_copies : (on due).sys.mgmt.persistDue = true ∧ (on due).sys.mgmt.mapDue = true ∧ (on due).sys.upd.chunk = none := by decide +kernel

/-! ### Resets, boot, sensors and power -/

/-- A state in a phase. -/
def inPhase (p : Phase) (y : Sys) : Sys := { y with power := { y.power with phase := p, refStopped := [0] } }

theorem witness_resets : (∀ e ∈ up.sys.upd.persist, persistentKeys.contains e.1 = true) ∧ persistentKeys.contains Ob.OnyxPreemptLevel = false ∧
    up.sys.power.phase ≠ .powerOn ∧ ((if true then some 1 else up.sys.power.resetDue) = some 1) ∧
    (on (inPhase .powerOn)).sys.power.phase = .powerOn ∧ (on (inPhase (.sysReset 0))).sys.power.phase = .sysReset 0 ∧
    0 + usU 100 ≤ (on (inPhase (.sysReset 0))).sys.now + msU 1 ∧
    (∀ r ∈ (on (inPhase (.sysReset 0))).sys.power.refStopped, r + msU 1 ≤ (on (inPhase (.sysReset 0))).sys.now + msU 1) := by decide +kernel

theorem witness_sram : State.reset.sys.power.phase = .booting ∧ 7 < State.reset.sys.part.dies ∧
    State.reset.sys.power.boot.sramDone.contains 7 = false ∧ (State.reset.sys.upd.rep.suspectRows.filter fun e => e.1 == 7) = [] ∧
    (State.reset.sys.upd.rep.rows.filter fun e => e.1 == 7) = [] ∧
    ((slotsOf (List.range 384)).filter (fun r => decide (r < 24576))).length ≤ 384 := by decide +kernel

theorem witness_boot_training : State.reset.sys.power.boot.trained.contains 7 = false ∧
    rankOutcome (fun k => Tab.find (fun _ => 0) State.reset.sys.upd.rep.ranks (6 * 7 + 3 * 1 + k) == 0 &&
      !([(1, 0, 6)] : List (Nat × Nat × Nat)).any fun f => f.1 == 1 && f.2.1 == k && State.reset.sys.trainRates.contains f.2.2) ≠ none ∧
    (after (.dramTrainingComplete 0 7 [(1, 0, 6)]) State.reset).power.boot.trained = [7] := by decide +kernel

theorem witness_image : State.reset.sys.power.phase = .booting ∧ State.reset.sys.power.boot.imageDone = false ∧
    (selNow State.reset.flash).trial ≠ 1 ∧ imgValid State.reset.sys.part State.reset.flash (selNow State.reset.flash).active = false ∧
    imgValid State.reset.sys.part State.reset.flash (1 - (selNow State.reset.flash).active) = false := by decide +kernel

/-- Every die of a pair has done its part of boot. -/
def booted (y : Sys) : Sys :=
  { y with part := { y.part with dies := 2 }
           power := { y.power with phase := .booting, boot := { y.power.boot with imageDone := true, sramDone := [0, 1], trained := [1, 0] } } }

theorem witness_boot : (on booted).sys.power.phase = .booting ∧ ((on booted).sys.die 0).mappedOut = false ∧
    (on booted).sys.power.boot.imageDone = true ∧
    ∀ d < (on booted).sys.part.dies, ((on booted).sys.die d).mappedOut = true ∨
      ((on booted).sys.power.boot.sramDone.contains d = true ∧ (on booted).sys.power.boot.trained.contains d = true) := by decide +kernel

theorem witness_sensors : (([16 * 110 - 1] : List Int).foldl max (-640) < up.sys.int Ob.SensTripTemp * 16 ∧
      ([0] : List Int).foldl max (-640) ≤ up.sys.int Ob.SensLimitTemp * 16 ∧ (up.sys.die 7).sens.clock16 = 16) ∧
    (up.sys.power.phase = .running ∧ up.sys.int Ob.SensTripTemp * 16 ≤ ([16 * 110] : List Int).foldl max (-640)) ∧
    ((on (inPhase (.thermal (some 0)))).sys.power.phase = .thermal (some 0) ∧ 0 + secU 10 ≤ (on (inPhase (.thermal (some 0)))).sys.now + secU 10) ∧
    (up.sys.int Ob.SensLimitTemp * 16 < ([16 * 110 - 1] : List Int).foldl max (-640) ∧ (up.sys.die 7).sens.thermOver = false) ∧
    (up.sys.die 7).sens.voltOver = false ∧ (up.sys.die 7).sens.rails.length = 4 ∧
    (after (.thermalSample 0 7 [16 * 110]) up).power.phase = .thermal none := by decide +kernel

/-- Domain 34 of die 7 coming up; domain 26 up. -/
def domains (y : Sys) : Sys := y.onDie 7 fun x => { x with domPending := [(34, 0)], domains := [0, 26] }

theorem witness_domains : (((on domains).sys.die 7).domPending.any fun e => e.1 == 34) = true ∧ (on domains).sys.domainWanted 7 34 = true ∧
    ((on (inPhase .booting ∘ domains)).sys.die 7).domainUp 26 = true ∧ (on (inPhase .booting ∘ domains)).sys.power.phase = .booting ∧
    ((on domains).sys.die 7).domainUp 26 = true ∧ (on domains).sys.power.phase ≠ .booting := by decide +kernel

/-! ### DRAM and the fabric -/

/-- The last controller of a pair with a pool of bytes, a migration from rank 1 under way, and its last holder with a credit. -/
def dram (pool credit : Int) (y : Sys) : Sys :=
  ((pair y).onDie 1 fun x => { x with fab := { x.fab with pools := [(0, pool), (1, pool)], credits := [(32 * 1 + 21, credit), (21, credit)] } }).onCtrl 1 1
    fun c => { c with src := some 1, copyAt := 2 ^ 32 - 64, scrubAt := 2 ^ 33 - 64 }

theorem witness_controllers : (true = ([17] : List Nat).any (fun c => decide (16 < c)) ∧ (((on (dram 128 0)).sys.die 1).dram.ctrl 1).hotNow = false) ∧
    (((on (dram 128 0)).sys.die 1).dram.serving 1 1).isSome = true ∧
    (((on (dram 128 0)).sys.die 1).dram.serving 1 ((((on (dram 128 0)).sys.die 1).dram.ctrl 1).scrubAt / 2 ^ 32) = some 1 ∧
      64 ≤ Tab.find (fun _ => 0) ((on (dram 64 0)).sys.die 1).fab.pools 1) ∧
    (((on (dram 128 0)).sys.die 1).dram.ctrl 1).src = some 1 ∧ (((on (dram 128 0)).sys.die 1).dram.ctrl 1).copyAt < 2 ^ 32 ∧
    128 ≤ Tab.find (fun _ => 0) ((on (dram 128 0)).sys.die 1).fab.pools 1 ∧
    (((on (dram 128 0)).sys.die 1).dram.ctrl 1).copied + 64 ≤ (on (dram 128 0)).sys.nat Ob.MemMigrateRate * ((on (dram 128 0)).sys.die 1).fab.epochLen ∧
    (after (.patrolScrub 0 1 1 4) (on (dram 64 0))).nat (Ob.DieRankUe (6 * 1 + 3 * 1 + 1)) = 1 := by decide +kernel

/-- A request of a core in class 7; and the last byte of DRAM. -/
def req (a : Nat) (w : Option (List Byte)) : FabReq :=
  { master := 11, cls := 7, carried := 0, copyRepair := false, addr := a, len := 1, wdata := w, fetch := false, errs := [] }
def top : Nat := 0x403FFFFFFFF

theorem witness_fabricServes : (1 < (on pair).sys.part.dies ∧ (req (dieBase 1 + 0x117FFFFF) (some [5])).addr = dieBase 1 + 0x117FFFFF ∧
      ((on pair).sys.die 1).fab.isolated.contains 11 = false ∧ reaches 11 (targetOf 0x117FFFFF) = true ∧
      ∀ e ∈ (req (dieBase 1 + 0x117FFFFF) none).errs, e = 0) ∧
    reaches 11 (targetOf top) = true ∧ (on (dram 0 1)).sys.holderOf 1 (req (dieBase 1 + top) (some [5])) = some 21 ∧
    Tab.find (fun _ => 0) ((on (dram 0 1)).sys.die 1).fab.credits (32 * dramCtrl (top - 0x40000000000) + 21) = 1 ∧
    (((on (dram 0 1)).sys.die 1).dram.serving (dramCtrl (top - 0x40000000000)) (dramLoc (dramC (top - 0x40000000000))).1).isSome = true := by decide +kernel

/-- Master 11 of die 1 in isolation, with nothing held. -/
def isolated (y : Sys) : Sys := (pair y).onDie 1 fun x => { x with fab := { x.fab with isolated := [11] } }

theorem witness_fabricTurnsAway : ((on isolated).sys.die 1).fab.isolated.contains 11 = true ∧
    (((on pair).sys.die 1).fab.isolated.contains 11 = false ∧ 2 ^ 46 ≤ (req (2 ^ 46) none).addr ∧
      (on pair).sys.part.dies ≤ bits (req (dieBase 2) none).addr 45 43) ∧
    Tab.find (fun _ => 0) ((on (dram 63 0)).sys.die 1).fab.credits (32 * dramCtrl (top - 0x40000000000) + 21) ≤ 0 ∧
    Tab.find (fun _ => 0) ((on (dram 63 0)).sys.die 1).fab.pools (dramCtrl (top - 0x40000000000)) < chargeOf (req (dieBase 1 + top) none) ∧
    (on (dram 63 0)).sys.holderOf 1 (req (dieBase 1 + top) none) = some 21 := by decide +kernel

theorem witness_budget : ((on pair).sys.die 1).fab.deferred = [] ∧ (((on pair).sys.die 1).dram.ctrl 0).src = none ∧
    (((on pair).sys.die 1).dram.ctrl 1).src = none := by decide +kernel

/-- A bridge of a pair in service, with one spare of its first group taken. -/
def spared (y : Sys) : Sys :=
  { pair y with upd := { y.upd with rep := { y.upd.rep with wires := [((linkName 2 0 0 0).1, (linkName 2 0 0 0).2.1, (linkName 2 0 0 0).2.2, 0, 3)] } } }

theorem witness_bridges : (on spared).sys.bridgeSt 0 0 ≠ 0 ∧ linkName 2 0 0 0 = linkName (on spared).sys.part.dies 0 0 0 ∧
    ((on spared).sys.upd.rep.wires.filter fun e =>
      (e.1, e.2.1, e.2.2.1, e.2.2.2.1) == ((linkName 2 0 0 0).1, (linkName 2 0 0 0).2.1, (linkName 2 0 0 0).2.2, 0)).length < 2 ∧
    (∀ e ∈ (on spared).sys.upd.rep.wires, e ≠ ((linkName 2 0 0 0).1, (linkName 2 0 0 0).2.1, (linkName 2 0 0 0).2.2, 0, 5)) ∧
    (on spared).sys.nat Ob.FabWireErrMax < (on spared).sys.nat Ob.FabWireErrMax + 1 ∧
    ((on isolated).sys.die 1).fab.isolated.contains 11 = true ∧ (∀ q ∈ ((on isolated).sys.die 1).fab.held, q.master ≠ 11) := by decide +kernel

/-! ### Clocks -/

/-- PLL 3 of die 1 in a state. -/
def pll (x : Pll) (y : Sys) : Sys := (pair y).setPll 1 3 x

theorem witness_lockLost : ((on pair).sys.pll 1 5).st = 0 ∧ 1 < (on pair).sys.part.dies ∧ ((on pair).sys.pll 1 5).ref = 0 ∧
    ((on (pll { st := 5 })).sys.pll 1 3).st = 5 ∧ ((on (pll { st := 1 })).sys.pll 1 3).st = 1 ∧
    ((on (pll { st := 4, ref := 3 })).sys.pll 1 3).st = 4 ∧ ((on (pll { st := 4, ref := 3 })).sys.pll 1 3).ref = 3 := by decide +kernel

theorem witness_relock : (((on (pll { st := 2, settleAt := some 5 })).sys.pll 1 3).settleAt = some 5 ∧
      5 ≤ (on (pll { st := 2, settleAt := some 5 })).sys.now + 5 ∧
      ((on (pll { st := 2, settleAt := some 5 })).sys.pll 1 3).refs.contains ((on (pll { st := 2, settleAt := some 5 })).sys.nat (Ob.ClkRefSel 3)) = true) ∧
    (((on (pll { st := 3, refs := [1] })).sys.pll 1 3).refs.contains 0 = false ∧ ((on (pll { st := 3, refs := [1] })).sys.pll 1 3).st = 3 ∧
      ((on (pll { st := 3, refs := [1] })).sys.pll 1 3).settleAt = none) ∧
    (((on (pll { st := 4, attempt := some 0, fails := 7 })).sys.pll 1 3).attempt = some 0 ∧
      ((on (pll { st := 4, attempt := some 0, fails := 7 })).sys.pll 1 3).lockedAt = none ∧
      (on (pll { st := 4, attempt := some 0, fails := 7 })).sys.now + usU 150 ≤ 0 + usU 150 ∧
      7 ≤ ((on (pll { st := 4, attempt := some 0, fails := 7 })).sys.pll 1 3).fails) ∧
    (((on (pll { st := 4, attempt := some 0, fails := 6 })).sys.pll 1 3).fails < 7 ∧
      ((on (pll { st := 4, attempt := some 0, fails := 6 })).sys.pll 1 3).refs.contains
        ((on (pll { st := 4, attempt := some 0, fails := 6 })).sys.nat (Ob.ClkRefSel 3)) = true) ∧
    ((on (pll { st := 4, lockedAt := some 0 })).sys.pll 1 3).lockedAt = some 0 ∧
      0 + usU 100 ≤ (on (pll { st := 4, lockedAt := some 0 })).sys.now + usU 100 := by decide +kernel

/-- A calibration run at a die; a set of a PLL, and of the memory, that waits. -/
def calAt (d : Nat) (y : Sys) : Sys := { pair y with clk := { (pair y).clk with run := some (3, 31, d) } }
def clkSet : Pend := { key := Ob.ClkCommit 3, set := [(Ob.ClkRefAlt 3, .int 1)], at_ := 0, seq := 0 }
def memSet : Pend := { key := Ob.MemCommit, set := [(Ob.MemRate, .int 5)], at_ := 0, seq := 0 }
def pending (p : Pend) (y : Sys) : Sys := { pair y with pend := [p] }

theorem witness_clocksSettle : (((on (pll { st := 5, islands := [0] })).sys.pll 1 3).st = 5 ∧
      ((on (pll { st := 5, islands := [0] })).sys.pll 1 3).islands = [0]) ∧
    (((on fun y => (pair y).setPll 1 1 { st := 5, islands := [0, 4] }).sys.pll 1 1).islands.contains 4 = true ∧
      (((on fun y => (pair y).setPll 1 1 { st := 5, islands := [0, 4] }).sys.elapse 0).pipeBusy 1 4 = false)) ∧
    ((on (calAt 0)).sys.clk.run = some (3, 31, 0) ∧ 0 + 1 < (on (calAt 0)).sys.part.dies ∧ ((on (calAt 0)).sys.pll 0 3).fails < 8 ∧
      ((on (calAt 0)).sys.pll 0 3).refs.contains
        (if ((on (calAt 0)).sys.pll 0 3).alt then ((on (calAt 0)).sys.pll 0 3).ref else (on (calAt 0)).sys.nat (Ob.ClkRefSel 3)) = true) ∧
    ((on (calAt 1)).sys.clk.run = some (3, 31, 1) ∧ (on (calAt 1)).sys.part.dies ≤ 1 + 1 ∧ (on (calAt 1)).sys.clk.queue = [] ∧
      ((on (calAt 1)).sys.pll 1 3).fails < 8 ∧ ((on (calAt 1)).sys.pll 1 3).refs.contains
        (if ((on (calAt 1)).sys.pll 1 3).alt then ((on (calAt 1)).sys.pll 1 3).ref else (on (calAt 1)).sys.nat (Ob.ClkRefSel 3)) = true) ∧
    ((on (pending clkSet)).sys.duePend (Ob.ClkCommit 3) ((on (pending clkSet)).sys.now + 0 : Nat) = [clkSet] ∧
      clkOwns 3 (Ob.ClkRefAlt 3) = true ∧
      ((on (pending clkSet)).sys.pend.filter fun (o : Pend) => o.key == Ob.ClkCommit 3) = [clkSet]) ∧
    (on (pending memSet)).sys.duePend Ob.MemCommit ((on (pending memSet)).sys.now + 0 : Nat) = [memSet] ∧
      ((on (pending memSet)).sys.pend.filter fun (o : Pend) => o.key == Ob.MemCommit) = [memSet] ∧
      (on (pending memSet)).sys.val Ob.MemRate ≠ .int 5 ∧ (on (pending memSet)).sys.pllGood 1 2 = true ∧
      1 < (on (pending memSet)).sys.part.dies ∧ ((on (pending memSet)).sys.die 1).mappedOut = false ∧
      ((after (.memCommitBoundary 0) (on (pending memSet))).die 1).dram.next = some 5 := by decide +kernel

/-! ### Jasper -/

/-- TB7 on port 23, which is up, with a master, a slave-to-master difference and a delay measured, and a Sync that waits. -/
def sy (m : Int) : PtpMsg := { port := 23, domain := 0, clock := 5, portNum := 1, seq := 7, time := m, corr := 0, srcMac := 9, srcIp := 0xFFFF0A000009 }
def master (f : Tb → Tb) (y : Sys) : Sys :=
  ((sets [(Ob.TbRefMode 7, 1), (Ob.TbPort1 7, 23), (Ob.TbDomain 7, 0)] (pair y)).setPort 23 { st := 5, mode := 8 }).setTb 7
    (f { y.tb 7 with st := 1, sm := some 100, delays := [0], master := some (5, 1), masterMac := 9, masterIp := 0xFFFF0A000009, syncWait := some (sy 0, 0) })

theorem witness_sync : 7 ∈ (on (master id)).sys.tbFrom (sy 0) ∧ ((on (master id)).sys.tb 7).sm = some 100 ∧
    (131072000 : Int) = ((on (master id)).sys.tb 7).map.read ((on (master id)).sys.now + 0 : Nat) - (sy (-131072000)).time - (sy 0).corr ∧
    (-100 + 100) / 2 ≤ median ((on (master id)).sys.tb 7).delays + usU 1 ∧ 0 ∉ (on (master id)).sys.tbFrom (sy 0) ∧
    (((on (master id)).sys.tb 7).syncWait = some (sy 0, 0) ∧ (sy 0).seq = (sy 1).seq ∧ (sy 0).port = (sy 1).port) ∧
    (on (master fun t => { t with delays := [] })).sys.tb 7 = { (on (master id)).sys.tb 7 with delays := [] } := by decide +kernel

/-- An entry of the time-stamp queue of port 23. -/
def stamp (t : Nat) : Tsq := { id := 7, tb := 7, ovf := false, t := t, stamp := 0 }
def stamps (n : Nat) (y : Sys) : Sys := { master id y with jas := { (master id y).jas with tsq := [(23, (List.range n).map stamp)] } }

/-- The PTP queue of port 23, a Delay_Req in it, and that port with its address. -/
def drPkt : Pkt := { owner := .port 23, bytes := 90, carry := .ptp 7 7 none }
def ptpQ (n : Nat) : Queue :=
  { die := 1, num := 1022, port := 23, owner := .port 23, kind := 3, cls := 7, timed := false, pkts := List.replicate n { pkt := drPkt, s := 0, f := 1 } }
def asks (q n : Nat) (y : Sys) : Sys :=
  { ((stamps n y).setBytes (Ob.PortIpv4 23) [10, 0, 0, 1]).setPort 23 { st := 5, mode := 8, classes := [(7, { tokens := 0, rate := 1000000 })] } with
    net := { (((stamps n y).setBytes (Ob.PortIpv4 23) [10, 0, 0, 1]).setPort 23
      { st := 5, mode := 8, classes := [(7, { tokens := 0, rate := 1000000 })] }).net with queues := [ptpQ q] } }

theorem witness_delayReq : (at_ 0 (asks 63 0)).portUp 23 = true ∧ (at_ 0 (asks 63 0)).tbCfg 7 (Ob.TbRefMode 7) = 1 ∧
    ((at_ 0 (asks 63 0)).tbPorts 7).contains 23 = true ∧ ((at_ 0 (asks 63 0)).tb 7).master.isSome = true ∧
    ((at_ 0 (asks 63 0)).tb 7).drAt = none ∧ (at_ 0 (asks 63 0)).tbCfg 7 (Ob.TbDelayUnicast 7) ≠ 1 ∧
    ((at_ 0 (asks 63 0)).ownAddr (some 23) false == 0) = false ∧ (at_ 0 (asks 63 0)).ownAddr (some 23) false ≠ 0 ∧
    (at_ 0 (asks 63 0)).net.queues.find? (fun q => q.port == 23 && q.kind == 3) = some (ptpQ 63) ∧ (ptpQ 63).pkts.length < 64 ∧
    (at_ 0 (asks 63 0)).gate 23 = none := by decide +kernel

theorem witness_stamps : (at_ 0 (asks 1 31)).HeadGoes 23 7 (ptpQ 1) { pkt := drPkt, s := 0, f := 1 } ∧
    (at_ 0 (asks 1 32)).HeadGoes 23 7 (ptpQ 1) { pkt := drPkt, s := 0, f := 1 } ∧
    (((at_ 0 (asks 1 31)).tsq 23).filter fun e => decide ((at_ 0 (asks 1 31)).now < e.t + secU 1)).length < 32 ∧
    32 ≤ (((at_ 0 (asks 1 32)).tsq 23).filter fun e => decide ((at_ 0 (asks 1 32)).now < e.t + secU 1)).length :=
  ⟨⟨by decide +kernel, by decide +kernel, by decide +kernel, by decide, by decide +kernel, by decide +kernel, by decide +kernel,
      ⟨none, by decide +kernel⟩, by decide +kernel⟩,
    ⟨by decide +kernel, by decide +kernel, by decide +kernel, by decide, by decide +kernel, by decide +kernel, by decide +kernel,
      ⟨none, by decide +kernel⟩, by decide +kernel⟩, by decide +kernel⟩

theorem witness_delays : ((on (stamps 31)).sys.tbFrom (sy 0)).contains 7 = true ∧
    ((on (stamps 31)).sys.tsq (sy 0).port).find? (fun x => x.id == (sy 0).seq && x.tb == 7) = some (stamp 0) ∧
    ((on (stamps 31)).sys.tsq 23).filter (fun e => decide ((on (stamps 31)).sys.now + secU 1 < e.t + secU 1)) = (List.range 30).map (fun n => stamp (n + 1)) := by
  decide +kernel

/-- An Announce message of that master. -/
def ann : AnnounceMsg :=
  { port := 23, domain := 0, clock := 5, portNum := 1, prio1 := 128, cls := 6, accuracy := 0x21, variance := 0, prio2 := 128, gm := 5, steps := 0,
    utcOffset := 37, smTlv := none }

theorem witness_masters : ((on (master id)).sys.portUp ann.port = true ∧ (on (master id)).sys.tbHears 7 ann.port ann.domain = true) ∧
    ((on (master id)).sys.tbCfg 7 (Ob.TbRefMode 7) = 1 ∧ ((on (master id)).sys.elapse 0).bestMaster 7 = none ∧ ((on (master id)).sys.tb 7).st = 1) ∧
    ((on (master id)).sys.tb 7).lastSync + 4 * pow2Sec ((on (master id)).sys.tbCfg 7 (Ob.TbLogSync 7)) ≤ (on (master id)).sys.now + secU 8 ∧
    ((on (master fun t => { t with st := 3 })).sys.tb 7).st = 3 := by decide +kernel

/-- TB7 with a rate computed, and a step at its present second. -/
def moved (y : Sys) : Sys := master (fun t => { t with nextPpb := some (-5), step := some (0, -(secU 1 : Int)) }) y

/-- Channel 0 at its boundary, waiting for a step of TB0. -/
def waiting (y : Sys) : Sys :=
  ((live0 2 y).setTb 0 { (live0 2 y).tb 0 with old := some {}, waiting := [.ch 0] }).setChan 0 { (live0 2 y).chan 0 with nextK := 0 }

theorem witness_steps : (((on moved).sys.tb 7).nextPpb = some (-5) ∧ ((on moved).sys.tb 7).step = some (0, -(secU 1 : Int)) ∧
      atOrAfter (((on moved).sys.elapse 0).tbNow 7) 0 = true) ∧
    ((List.range 8).find? (fun b => (((on waiting).sys.elapse 0).tb b).old.isSome && (((on waiting).sys.elapse 0).tb b).waiting.contains (.ch 0)) = some 0 ∧
      atOrAfter (((on waiting).sys.elapse 0).frameNow 0 false) ((((on waiting).sys.elapse 0).fig 0).boundary (((on waiting).sys.elapse 0).chan 0).nextK) = true ∧
      (((on waiting).sys.elapse 0).chan 0).cx = none) ∧
    (0 : Int) = ((on (sets [(Ob.PpsOutEnable, 1)])).sys.elapse 0).tbNow ((on (sets [(Ob.PpsOutEnable, 1)])).sys.nat Ob.PpsOutBase) % secU 1 ∧
      (on (sets [(Ob.PpsOutEnable, 1)])).sys.flag Ob.PpsOutEnable = true ∧ (0 : Int) ≤ nsU 10 := by decide +kernel

/-! ### Lanes and ports -/

/-- Port 23 and its lane in states. -/
def link (p : Port) (l : Lane) (y : Sys) : Sys := ((sets [(Ob.PortEnable 23, 1)] (mode1 y)).setPort 23 p).setLane 23 l

/-- Port 22 with two lanes in their bursts. -/
def twoLanes (y : Sys) : Sys :=
  (((sets [(Ob.PortMode 22, 2), (Ob.PortEnable 22, 1)] (pair y)).setPort 22 { st := 1, mode := 2 }).setLane 22 { st := 1, burstEnd := some 5 }).setLane 23
    { st := 1, burstEnd := some 9 }

theorem witness_burst : ((on (link { st := 1, mode := 8, aneg := 1 } { st := 1, burstEnd := some 5 })).sys.lane 23).burstEnd = some 5 ∧
    5 ≤ (on (link { st := 1, mode := 8, aneg := 1 } { st := 1, burstEnd := some 5 })).sys.now + 5 ∧
    (on (link { st := 1, mode := 8, aneg := 1 } { st := 1, burstEnd := some 5 })).sys.lanePort 23 = some 23 ∧
    (∀ k ∈ (on (link { st := 1, mode := 8, aneg := 1 } { st := 1, burstEnd := some 5 })).sys.portLanes 23, k ≠ 23 →
      ((on (link { st := 1, mode := 8, aneg := 1 } { st := 1, burstEnd := some 5 })).sys.lane k).st ≠ 1) ∧
    ((on twoLanes).sys.lane 22).burstEnd = some 5 ∧ ((on twoLanes).sys.lane 22).st = 1 ∧ (on twoLanes).sys.lanePort 22 = some 22 ∧
    (∃ k ∈ (on twoLanes).sys.portLanes 22, k ≠ 22 ∧ ((on twoLanes).sys.lane k).st = 1) ∧
    ((after (.fastExitBurstEnd 5 22) (on twoLanes)).lane 22).st = 2 ∧ ((after (.fastExitBurstEnd 5 22) (on twoLanes)).lane 23).st = 1 ∧
    ((after (.fastExitBurstEnd 5 23) (on (link { st := 1, mode := 8, aneg := 1 } { st := 1, burstEnd := some 5 }))).port 23).st = 2 := by decide +kernel

theorem witness_training : ((on (link { st := 2, mode := 8 } {})).sys.port 23).st = 2 ∧
    ((on (link { st := 2, mode := 8 } {})).sys.lane 23).since + msU 500 ≤ (on (link { st := 2, mode := 8 } {})).sys.now + msU 500 ∧
    ((on (link { st := 3, mode := 8 } { st := 2 })).sys.lanePort 23 = some 23 ∧ ((on (link { st := 3, mode := 8 } { st := 2 })).sys.lane 23).st = 2 ∧
      (∀ k ∈ (on (link { st := 3, mode := 8 } { st := 2 })).sys.portLanes 23, k ≠ 23 → ((on (link { st := 3, mode := 8 } { st := 2 })).sys.lane k).st = 4) ∧
      ((on (link { st := 3, mode := 8 } { st := 2 })).sys.lane 23).since + secU 3 ≤ (on (link { st := 3, mode := 8 } { st := 2 })).sys.now + secU 3) ∧
    ((on (link { st := 4, mode := 8, alignedAt := some 0 } { st := 4 })).sys.port 23).alignedAt = some 0 ∧
    0 + msU 1 ≤ (on (link { st := 4, mode := 8, alignedAt := some 0 } { st := 4 })).sys.now + msU 1 := by decide +kernel

theorem witness_down : (on upPort).sys.lanePort 23 = some 23 ∧ 23 ∈ (on upPort).sys.portLanes 23 ∧ ((on upPort).sys.port 23).st = 5 ∧
    (on upPort).sys.nat (Ob.LnBurstLen 23) ≠ 0 ∧ ((on upPort).sys.port 23).fec = true ∧ 99 < 100 * 1 ∧
    2 ≤ (((on (link { st := 5, mode := 8, losses := [0, 0] } { st := 4, sd := true })).sys.port 23).losses.filter fun t =>
      decide ((on upPort).sys.now + 0 < t + secU 1)).length ∧
    (∀ l ∈ (on upPort).sys.portLanes 23, ((on upPort).sys.lane l).sd = true) ∧
    (((on upPort).sys.port 23).losses.filter fun t => decide ((on upPort).sys.now + 0 < t + secU 1)).length < 2 ∧
    ((on (link { st := 3, mode := 8, wait100 := some 0 } { st := 5 })).sys.port 23).wait100 = some 0 ∧
    0 ≤ (on (link { st := 3, mode := 8, wait100 := some 0 } { st := 5 })).sys.now + 0 ∧
    ((after (.signalDetectLoss 0 23) (on upPort)).port 23).st = 6 := by decide +kernel

/-- A frame to the broadcast address. -/
def frame (n : Nat) (ok bad : Bool) (ty : Nat) : EthFrame :=
  { bytes := n, tagged := false, fcsOk := ok, fecBad := bad, dst := 0xFFFFFFFFFFFF, etherType := ty }

/-- Port 23 up, with an address of its own, and its lane at the last point but one of a scan. -/
def addressed (y : Sys) : Sys :=
  (((upPort y).setBytes (Ob.PortIpv4 23) [10, 0, 0, 1]).setBytes (Ob.PortIpv6 23) (List.replicate 16 0xFE)).setLane 23
    { st := 4, sd := true, scan := some (6, 8) }

theorem witness_receive : (on addressed).sys.portUp 23 = true ∧
    (after (.frameRx 0 23 (frame 63 true false 0x0800)) (on addressed)).nat (Ob.PortRxLenErr 23) = 1 ∧
    (after (.frameRx 0 23 (frame 64 false false 0x0800)) (on addressed)).nat (Ob.PortRxFcsErr 23) = 1 ∧
    (after (.frameRx 0 23 (frame 64 true false 0x8808)) (on addressed)).nat (Ob.PortRxCtlDiscard 23) = 1 ∧
    (after (.frameRx 0 23 (frame 9216 true false 0x0800)) (on addressed)).nat (Ob.PortRxFrames 23) = 1 ∧
    (after (.frameRx 0 23 (frame 9217 true false 0x0800)) (on addressed)).nat (Ob.PortRxLenErr 23) = 1 := by decide +kernel

/-- The control queue of port 23, and that port with it and its addresses. -/
def ctlQ : Queue := { die := 1, num := 1023, port := 23, owner := .port 23, kind := 4, cls := 7, timed := false }
def answering (y : Sys) : Sys := { addressed y with net := { (addressed y).net with queues := [ctlQ] } }

/-- The management port up, with its addresses. -/
def managed (y : Sys) : Sys :=
  { (y.setBytes Ob.MgmtIpv4 [10, 0, 0, 2]).setBytes Ob.MgmtIpv6 (List.replicate 16 0xFE) with mgmt := { y.mgmt with linkUp := true } }

theorem witness_control : (on managed).sys.canAnswer none = true ∧
    (∃ a, a = (on managed).sys.ownAddr none false ∧ a ≠ 0) ∧ (∃ a, a = (on managed).sys.ownAddr none true ∧ 2 ^ 32 ≤ a) ∧
    (at_ 0 answering).portUp 23 = true ∧ (0x0A000001 : Nat) = (at_ 0 answering).ownAddr (some 23) (decide (2 ^ 32 ≤ (0x0A000001 : Nat))) ∧
    (∃ a, a = (at_ 0 answering).ownAddr (some 23) true ∧ 2 ^ 32 ≤ a) ∧
    (at_ 0 answering).net.queues.find? (fun q => q.port == 23 && q.kind == 4) = some ctlQ ∧ ctlQ.pkts.length < 64 ∧ (at_ 0 answering).gate 23 = none ∧
    ((on addressed).sys.lane 23).scan = some (6, 8) ∧ ((on fun y => (addressed y).setLane 23 { scan := some (7, 8) }).sys.lane 23).scan = some (7, 8) ∧
    (on addressed).sys.portEnabled 23 = true ∧ ((on addressed).sys.port 23).fec = true :=
  ⟨by decide +kernel, ⟨_, rfl, by decide +kernel⟩, ⟨_, rfl, by decide +kernel⟩, by decide +kernel, by decide +kernel, ⟨_, rfl, by decide +kernel⟩, by decide +kernel⟩

/-! ### Sending -/

/-- A packet of a row, its launch at the start of TB0. -/
def pkt (n : Nat) : Pkt := { owner := .ch 0, frame := n, bytes := 1400, carry := .raw [] }

/-- Port 11 of die 0 up, with timed packets and, in class 7 whose shaper has no debt, an untimed queue of so many packets. -/
def sendQ (n : Nat) : Queue :=
  { die := 0, num := 1023, port := 11, owner := .port 11, kind := 4, cls := 7, timed := false, pkts := List.replicate n { pkt := pkt 9, s := 0, f := 1 } }
def sender (st : Nat) (timed : List Pkt) (n : Nat) (y : Sys) : Sys :=
  { (sets [(Ob.PortMode 11, 8), (Ob.PortEnable 11, 1)] (pair y)).setPort 11
      { st := st, mode := 8, timed := timed, classes := [(7, { tokens := 0, rate := 1000000, burst := 16384 })] } with
    net := { ((sets [(Ob.PortMode 11, 8), (Ob.PortEnable 11, 1)] (pair y)).setPort 11
      { st := st, mode := 8, timed := timed, classes := [(7, { tokens := 0, rate := 1000000, burst := 16384 })] }).net with queues := [sendQ n] } }


theorem witness_choose : ((at_ 0 (sender 5 [pkt 1, pkt 0] 1)).portUp 11 = true ∧ ((at_ 0 (sender 5 [pkt 1, pkt 0] 1)).port 11).wireFree ≤ 0 ∧
      (at_ 0 (sender 5 [pkt 1, pkt 0] 1)).firstTimed 11 ((at_ 0 (sender 5 [pkt 1, pkt 0] 1)).dueTimed 11) ≠ none) ∧
    (at_ 0 (sender 5 [] 1)).HeadGoes 11 7 (sendQ 1) { pkt := pkt 9, s := 0, f := 1 } ∧
    (at_ 0 (sender 4 [pkt 1] 1)).portUp 11 = false ∧ (at_ 0 (sender 4 [pkt 1] 1)).dueTimed 11 = [pkt 1] :=
  ⟨by decide +kernel,
    ⟨by decide +kernel, by decide +kernel, by decide +kernel, by decide, by decide +kernel, by decide +kernel, by decide +kernel,
      ⟨none, by decide +kernel⟩, by decide +kernel⟩, by decide +kernel⟩

theorem witness_enqueue : (at_ 0 (sender 5 [] 63)).net.queues.find? (fun q => q.die == portDie 11 && q.num == 1023 && q.port == 11 && !q.timed) = some (sendQ 63) ∧
    (at_ 0 (sender 5 [] 63)).portUp 11 = true ∧ (sendQ 63).pkts.length < 64 ∧ (at_ 0 (sender 5 [] 63)).gate 11 = none ∧
    (at_ 0 (sender 5 [] 64)).portUp 11 = true ∧ 64 ≤ (sendQ 64).pkts.length ∧ (at_ 0 (sender 4 [] 64)).portUp 11 = false := by decide +kernel

/-- A wheel entry of port 11, for the present slot or parked in it. -/
def went (t : Int) : WheelEnt := { die := 0, port := 11, cls := some 7, at_ := t, slot := 0 }
def wheel (t : Int) (y : Sys) : Sys := { sender 5 [pkt 1] 0 y with net := { (sender 5 [pkt 1] 0 y).net with wheel := [went t] } }

theorem witness_calendar : (∃ e ∈ (at_ 0 (wheel 0)).net.wheel, e.die = 0 ∧ e.slot ≤ (at_ 0 (wheel 0)).now ∧ e.port = 11) ∧
    (∀ e ∈ (at_ 0 (wheel 0)).net.wheel, e.die = 0 → e.slot ≤ (at_ 0 (wheel 0)).now → e.port = 11 ∧ (at_ 0 (wheel 0)).slotFor 0 e.at_ ≤ (at_ 0 (wheel 0)).now) ∧
    (at_ 0 (wheel (nsU 300000))).net.wheel.filter (fun e => e.die == 0 && decide (e.slot ≤ ((at_ 0 (wheel (nsU 300000))).now : Int))) = [went (nsU 300000)] ∧
    ((at_ 0 (wheel (nsU 300000))).now : Int) < (at_ 0 (wheel (nsU 300000))).slotFor 0 (went (nsU 300000)).at_ := by decide +kernel

/-- Channel 0 running, with a leg on port 11 and a packet in its retransmission store, and its retransmission queue there. -/
def rtxQ (n : Nat) : Queue :=
  { die := 0, num := 5, port := 11, owner := .ch 0, kind := 2, cls := 1, timed := false, pkts := List.replicate n { pkt := pkt 9, s := 0, f := 1 } }
def base (y : Sys) : Sys :=
  live0 2 (((sets [(Ob.PortMode 11, 8), (Ob.PortEnable 11, 1), (Ob.OutPortA 0, 11), (Ob.RtxDepth 0, 100), (Ob.OutSsrc 0, 77)] y).setBytes (Ob.PortIpv4 11)
    [10, 0, 0, 1]).setBytes (Ob.OutPortA 0 + 1)
    (List.replicate 10 0 ++ [255, 255, 239, 0, 0, 1]) |>.setPort 11 { st := 5, mode := 8, wireFree := 1 })
def rtx (n : Nat) (y : Sys) : Sys :=
  { (base y).setChan 0 { (base y).chan 0 with
      rtxK := 16, rtxEff := 100, tokens := 1048576000, rtx := [(0, [(15, { seq := 65535, launch := 0, pkt := { pkt 3 with seq := 65535 } })])] } with
    net := { (base y).net with queues := [rtxQ n] } }
def nack (udp : Nat) : PktHdr := { port := 11, src := 0xFFFF0A000009, dst := 0xFFFF0A000001, srcUdp := 9, udp := udp, vlan := 0, dscp := 0, bytes := 100 }

def rtxAt (n : Nat) : Sys := (at_ 0 (rtx n)).choose 11

theorem witness_nack : (at_ 0 (rtx 63)).portUp (nack 5005).port = true ∧ (rtxAt 63).activeChans = [0] ∧
    (∃ l, (chOutLegs ((rtxAt 63).cfg 0) 0).find? (fun l => l.port == (nack 5005).port && (nack 5005).dst == (rtxAt 63).legAddr l) = some l ∧ l.port = 11) ∧
    ((rtxAt 63).cfg 0 (Ob.OutRtcpUdp 0)).nat = (nack 5005).udp ∧ ((rtxAt 63).cfg 0 (Ob.OutSsrc 0)).nat = 77 ∧
    ((rtxAt 63).chan 0).rtxK ≠ 0 ∧ 65535 < 65536 ∧ (rtxAt 63).requested (portDie 11) + 1 ≤ 1024 ∧
    (rtxAt 63).rtxFind 0 (portDie 11) 65534 = none ∧
    (rtxAt 63).rtxFind 0 (portDie 11) 65535 = some { seq := 65535, launch := 0, pkt := { pkt 3 with seq := 65535 } } ∧
    1600 * 65536 ≤ (rtxAt 63).rtxTokens 0 ∧ rtpBytes (pkt 3).carry = 12 ∧
    (rtxAt 63).net.queues.find? (fun q => q.port == 11 && q.owner == .ch 0 && q.kind == 2) = some (rtxQ 63) ∧ (rtxQ 63).pkts.length < 64 ∧
    (rtxAt 63).gate 11 = none := by
  refine ⟨by decide +kernel, by decide +kernel, ⟨_, rfl, by decide +kernel⟩, ?_⟩
  decide +kernel

/-- A set of port 95 that waits. -/
def portSet : Pend := { key := Ob.PortCommit 95, set := [(Ob.PortGuard 95, .int 64)], at_ := 0, seq := 0 }

theorem witness_portBoundary : (at_ 0 fun y => { y with pend := [portSet] }).pend = [portSet] ∧ portOwns 95 (Ob.PortGuard 95) = true ∧
    atOrAfter ((at_ 0 fun y => { y with pend := [portSet] }).tbNow ((at_ 0 fun y => { y with pend := [portSet] }).ofSet portSet.set (Ob.PortTimeBase 95)).nat)
      portSet.at_ = true := by decide +kernel

/-! ### Onyx -/

/-- Onyx of die 1 of a pair. -/
def onyx (o : Onyx) (y : Sys) : Sys := (pair y).onOnyx 1 fun _ => o

/-- A task in slot 511: in a state, pinned to core 29, of a priority, waiting for flag 0 and consuming it. -/
def task (st prio : Nat) : Task := { desc := 2 ^ 123 + 2 ^ 121 + prio * 2 ^ 118 + 2 ^ 114 + 29 * 2 ^ 109 + 2 ^ 32, st := st }
def idle : Onyx := { tasks := [(510, task 0 0), (511, task 1 7)], flags := [0] }

theorem witness_arm : ((at_ 0 (onyx idle)).onyx 1) = idle ∧ (idle.task 510).st = 0 ∧ (idle.task 511).st ≠ 0 ∧
    (at_ 0 (onyx idle)).flag Ob.OnyxTraceEnable = false := by decide +kernel

/-- One task that waits, ready or cancelled; and one that is ready for a core that runs another. -/
def waitingTask (flags cancels : List Nat) : Onyx := { tasks := [(511, task 1 7)], flags := flags, cancels := cancels }
def readyTask (prio : Nat) : Onyx :=
  { tasks := [(510, task 3 0), (511, task 2 prio)], ready := [(prio, 511)], cores := [(29, { phys := some 29, banks := [some 510, none] })] }
def noCredit (y : Sys) : Sys := sets [(Ob.OnyxCycleShare 0, 999)] (onyx (readyTask 7) y)

theorem witness_cycle :
    ((at_ 0 (onyx { sets := [(5, 1)], clears := [(6, 1)] })).onyx 1).tasks = [] ∧
    ((waitingTask [0] []).cond (task 1 7) = true ∧ (at_ 0 (onyx (waitingTask [0] []))).classOk 1 (task 1 7).cls = true ∧
      (waitingTask [0] []).idleCore (task 1 7) = some 29 ∧ (at_ 0 (onyx (waitingTask [0] []))).onyx 1 = waitingTask [0] []) ∧
    ((waitingTask [] []).cond (task 1 7) = false ∧ (waitingTask [] [511]).cancels = [511]) ∧
    ((at_ 0 (onyx (readyTask 7))).onyx 1 = readyTask 7 ∧ (readyTask 7).task 511 = task 2 7 ∧ (readyTask 7).ready = [((task 2 7).prio, 511)] ∧
      (∀ j ∈ [510, 511], ((readyTask 7).task j).st ≠ 1) ∧ (at_ 0 (onyx (readyTask 7))).classOk 1 (task 2 7).cls = true ∧
      (readyTask 7).idleCore (task 2 7) = none ∧ (at_ 0 (onyx (readyTask 7))).nat Ob.OnyxPreemptLevel ≤ (task 2 7).prio ∧
      (readyTask 7).victim (task 2 7) = some 29 ∧ ((readyTask 7).core 29).running = some 510) ∧
    (at_ 0 noCredit).classOk 1 (task 2 7).cls = false ∧ (at_ 0 noCredit).onyx 1 = readyTask 7 := by decide +kernel

/-- A core that runs a task, alone or above a pre-empted one; spares and cores under test. -/
def runs (low : Option Nat) (spares testing : List Nat) (faults : Nat) : Onyx :=
  { tasks := [(510, task 4 0), (511, task 3 7)], cores := [(29, { phys := some 29, banks := [low, some 511], run := 1 }),
      (28, { phys := some 28, banks := [some 511, none] })], spares := spares, testing := testing, faults := [(31, faults)] }

theorem witness_runs : (((runs none [] [] 0).core 27).running = none ∧ (at_ 0 (onyx (runs none [] [] 0))).onyx 1 = runs none [] [] 0) ∧
    (((runs none [] [] 0).core 29).running = some 511 ∧ ((runs none [] [] 0).core 29).banks.length = 2 ∧ ((runs none [] [] 0).core 29).run < 2 ∧
      (((runs none [] [] 0).core 29).banks.getD (1 - ((runs none [] [] 0).core 29).run) none) = none) ∧
    ((((runs (some 510) [] [] 0).core 29).banks.getD (1 - ((runs (some 510) [] [] 0).core 29).run) none) = some 510 ∧
      (runs (some 510) [] [] 0).ready = []) ∧
    (((runs none [] [] 0).core 0).phys = some 0 ∧ (∀ b ∈ ((runs none [] [] 0).core 0).banks, b = none) ∧ (runs none [] [] 0).spares = [] ∧
      (runs none [31] [] 0).spares = [31] ∧ ((runs none [] [] 0).core 28).banks = [some 511, none] ∧ ((runs none [] [] 0).task 511).faulted = false ∧
      (({ cores := [(29, { phys := none })] } : Onyx).core 29).phys = none) ∧
    (runs none [] [30] 2).testing.contains 31 = false ∧ (runs none [] [31] 2).testing.contains 31 = true ∧
      Tab.find (fun _ => 0) (runs none [] [31] 2).faults 31 < 3 := by decide +kernel

theorem witness_queues (d q : Nat) : 0 < queueDepth d q ∧ queueDepth d q ≤ (List.replicate 64 7).length ∧
    (List.replicate (queueDepth d q - 1) 7).length < queueDepth d q := by
  have : Config.queueDepth d q % 64 < 64 := Nat.mod_lt _ (by decide)
  simp only [queueDepth, List.length_replicate]
  omega

/-- Queue 63 of die 1 with tokens and a held push of core 29. -/
def tokens (x : TokQ) : Onyx := { queues := [(63, x)] }

theorem witness_tokens : ((at_ 0 (onyx (tokens { tokens := [] }))).onyx 1).queue 63 = { tokens := [] } ∧
    ((at_ 0 (onyx (tokens { tokens := List.replicate 64 7 }))).onyx 1).queue 63 = { tokens := List.replicate 64 7 } ∧
    (∃ x, x = ((at_ 0 (onyx (tokens { tokens := [7], held := some (29, 8, 0, 0) }))).onyx 1).queue 63 ∧ x.tokens = [7] ∧ x.held = some (29, 8, 0, 0)) ∧
    ([] : List Nat).length < 1 ∧ (((at_ 0 (onyx (tokens { tokens := [7], held := some (29, 8, 0, 0) }))).onyx 1).core 29).run = 0 ∧
    0 + usU 10 < (at_ (usU 10 + 1) (onyx (tokens { tokens := [7], held := some (29, 8, 0, 0) }))).now ∧
    (at_ (usU 10 + 1) (onyx (tokens { tokens := [7], held := some (29, 8, 0, 0) }))).recent 0x0802 1 = false :=
  ⟨by decide +kernel, by decide +kernel, ⟨_, rfl, by decide +kernel, by decide +kernel⟩, by decide +kernel, by decide +kernel, by decide +kernel, by decide +kernel⟩

/-! ### Audio ports -/

/-- Audio port 7, the last of a pair, of two slots of 16 bits, in a direction and a state. -/
def audio (dir : Nat) (a : Au) (y : Sys) : Sys :=
  { sets [(Ob.AuDirection 7, dir), (Ob.AuSlots 7, 2), (Ob.AuSampleBits 7, 16), (Ob.AuSlotMask 7, 3), (Ob.AuEnable 7, 1), (Ob.AuRingBuffers 7, 4)] (pair y) with
    aus := [(7, a)] }
def buf (n : Nat) : AuBuf := { frame := 0, mask := 3, layoutChg := false, xrun := false, discont := false, idx := 0, count := n, words := List.replicate (2 * n) 65536 }
def input (n : Nat) (ring : Nat) (open_ : Bool) : Sys → Sys :=
  audio 0 { on := true, nextF := 0, curEnd := 48, cur := if open_ then some (buf n) else none, ring := List.replicate ring (buf 48) }
def output (xrun : Bool) : Sys → Sys := audio 1 { on := true, nextF := 0, curEnd := 1, play := some { buf 1 with xrun := xrun } }

theorem witness_frameClock : ((at_ 0 (input 46 4 true)).au 7).on = true ∧ ((at_ 0 (input 46 4 true)).au 7).gap = false ∧ (at_ 0 (input 46 4 true)).pend = [] ∧
    atOrAfter ((at_ 0 (input 46 4 true)).auNow 7) (tickTime (at_ 0 (input 46 4 true)).auHz 0) = true ∧ (at_ 0 (input 46 4 true)).stepWaits (.audio 7) = false ∧
    ((at_ 0 (input 46 4 true)).nat (Ob.AuDirection 7) = 0 ∧ (at_ 0 (input 46 4 true)).nat (Ob.AuOutMode 7) = 0 ∧
      ((at_ 0 (input 46 4 true)).au 7).cur = some (buf 46) ∧
      [0x80000000, 0] = (auSlots (at_ 0 (input 46 4 true)).val 7).map (fun j => cutWord ((at_ 0 (input 46 4 true)).nat (Ob.AuSampleBits 7))
        (leftWord ((at_ 0 (input 46 4 true)).nat (Ob.AuSlotWidth 7))
          (([-2 ^ 31, 255] : List Int).getD j 0 % 2 ^ (at_ 0 (input 46 4 true)).nat (Ob.AuSlotWidth 7)).toNat)) ∧
      (buf 46).frame + (buf 46).count + 1 ≠ ((at_ 0 (input 46 4 true)).au 7).curEnd) ∧
    ((buf 47).frame + (buf 47).count + 1 = ((at_ 0 (input 47 3 true)).au 7).curEnd ∧ (at_ 0 (input 47 3 true)).auReaders 7 = [] ∧
      ((at_ 0 (input 47 3 true)).au 7).ring.length < (at_ 0 (input 47 3 true)).nat (Ob.AuRingBuffers 7)) ∧
    (((at_ 0 (input 0 4 false)).au 7).cur = none ∧ (at_ 0 (input 0 4 false)).nat (Ob.AuRingBuffers 7) ≤ ((at_ 0 (input 0 4 false)).au 7).ring.length ∧
      ((at_ 0 (input 0 4 false)).au 7).affected = false) ∧
    ((at_ 0 (output false)).nat (Ob.AuDirection 7) = 1 ∧ ((at_ 0 (output false)).au 7).nextF < ((at_ 0 (output false)).au 7).curEnd ∧
      ((at_ 0 (output false)).au 7).play = some (buf 1) ∧ (auSlots (at_ 0 (output false)).val 7)[1]? = some 1 ∧ 1 < (at_ 0 (output false)).nat (Ob.AuSlots 7) ∧
      ((buf 1).frameWords ((at_ 0 (output false)).au 7).pos)[1]? = some 65536 ∧ ((at_ 0 (output true)).au 7).play = some { buf 1 with xrun := true } ∧
      (auSlots (at_ 0 (output true)).val 7).contains 1 = true ∧ ((at_ 0 (output true)).au 7).affected = false ∧
      (at_ 0 (output false)).nat (Ob.AuDataOffset 7) + 1 * (at_ 0 (output false)).nat (Ob.AuSlotWidth 7) + 15 <
        (at_ 0 (output false)).nat (Ob.AuSlots 7) * (at_ 0 (output false)).nat (Ob.AuSlotWidth 7)) ∧
    (at_ (usU 1) (output true)).nat (Ob.AuEnable 7) = 1 ∧
    atOrAfter ((at_ (usU 1) (output true)).auNow 7) (tickTime (at_ (usU 1) (output true)).auHz ((at_ (usU 1) (output true)).au 7).curEnd - usU 20) = true ∧
    ∀ b ∈ ((at_ (usU 1) (output true)).au 7).next, b.frame ≠ ((at_ (usU 1) (output true)).au 7).curEnd := by decide +kernel

/-! ### Ingest -/

/-- Channel 0 with flows on port 11, where the frame of boundary 0 has some packets. -/
def hdr (udp : Nat) : PktHdr := { port := 11, dst := 0xFFFFEF000001, udp := udp, src := 0xFFFF0A000009, srcUdp := 9, vlan := 0xFFFF, dscp := 0, bytes := 100 }
def ingest (extra : List (Nat × Nat)) (legs : List (Nat × Nat)) (frames : List Frame) (y : Sys) : Sys :=
  let z := live0 2 (legs.foldl (fun y e => y.setBytes (e.1 + 1) (List.replicate 10 0 ++ [255, 255, 239, 0, 0, 1]))
    (sets (extra ++ legs.flatMap fun e => [(e.1, 11), (e.1 + 2, e.2)]) y))
  (z.setPort 11 { st := 5, mode := 8 }).setChan 0 { z.chan 0 with frames := frames, nextK := 1, firstBoundary := some 0 }
def fr0 : Frame := { k := 0, boundary := 0, origin := 0, ts := some 7, used := [(1, 0)] }
def vid (udp seq ts : Nat) (segs : List Seg) : VideoPkt := { hdr := hdr udp, rtpTs := ts, seq := seq % 65536, extSeq := seq / 65536, segs := segs }
def seg0 (len : Nat) : Seg := { line := 0, off := 0, len := len, px := List.replicate 4 (1, 2, 3) }
def vid0 := ingest [] [(Ob.IngPortA 0, 5000)] [fr0]

theorem witness_video : ((at_ 0 vid0).portUp 11 = true ∧ (at_ 0 vid0).activeChans = [0] ∧ ((at_ 0 vid0).chan 0).cx = none ∧
      (∀ l < 16 * (at_ 0 vid0).part.dies, (at_ 0 vid0).lyFlow l = none) ∧
      (∀ c < 4 * (at_ 0 vid0).part.dies, ∀ g ∈ ((at_ 0 vid0).cx c).frames, ∀ x ∈ g.shown, x.locked ≠ 4) ∧
      (∃ leg, legsHit ((at_ 0 vid0).cfg 0) (Ob.IngPortA 0) ((at_ 0 vid0).cfgN 0 (Ob.IngLegMode 0) = 1) (hdr 5000) = [(0, leg)] ∧ leg.pol = 0xFFFF)) ∧
    (([] : List Seg).isEmpty || !(([] : List Seg).all fun x => segOk ((at_ 0 vid0).fig 0) 0 ((at_ 0 vid0).cfgN 0 (Ob.IngDepth 0)) x)) = true ∧
    ([seg0 10].all fun x => segOk ((at_ 0 vid0).fig 0) 0 ((at_ 0 vid0).cfgN 0 (Ob.IngDepth 0)) x) = true ∧
    ((judge ((at_ 0 vid0).chCands 0 (vid 5000 2 7 [seg0 10]))).map Prod.snd = some 0 ∧
      ((judge ((at_ 0 vid0).chCands 0 (vid 5000 2 7 [seg0 10]))).map fun c => c.1.k) = some 0 ∧
      ((at_ 0 vid0).chan 0).frames.find? (fun fr => fr.k == 0) = some fr0 ∧ fr0.ts = some ((vid 5000 2 7 [seg0 10]).rtpTs % 2 ^ 32) ∧
      (((at_ 0 vid0).chan 0).usedNear 0).contains (seq32 (vid 5000 2 7 [seg0 10])) = false ∧
      (((at_ 0 vid0).chan 0).usedNear 0).contains (seq32 (vid 5000 1 7 [seg0 10])) = true ∧ 7 ≠ (vid 5000 2 8 [seg0 10]).rtpTs % 2 ^ 32 ∧
      ((at_ 0 vid0).chan 0).received.find? (fun fr => fr.k == 0) = some fr0 ∧ fr0.raised.contains 0x0906 = false) := by
  refine ⟨⟨by decide +kernel, by decide +kernel, by decide +kernel, by decide +kernel, by decide +kernel, ⟨_, rfl, ?_⟩⟩, ?_⟩ <;> decide +kernel

/-- Before the only frame; after it, with no frame to come; and leg B alone, and a leg with an empty policer. -/
def vidEarly := ingest [] [(Ob.IngPortA 0, 5000)] [{ fr0 with k := 4, origin := secU 1 }]
def vidLate (y : Sys) : Sys := (vid0 y).setChan 0 { (vid0 y).chan 0 with stopK := some 1 }
def vidB := ingest [(Ob.IngLegMode 0, 1)] [(Ob.IngPortA 0 + 6, 5000)] [fr0]
def vidRed (y : Sys) : Sys :=
  { ingest [(Ob.IngPortA 0 + 5, 5), (Ob.PolMode 5, 1), (Ob.PolColorAware 5, 0)] [(Ob.IngPortA 0, 5000)] [fr0] y with
    net := { (ingest [(Ob.IngPortA 0 + 5, 5), (Ob.PolMode 5, 1), (Ob.PolColorAware 5, 0)] [(Ob.IngPortA 0, 5000)] [fr0] y).net with
      pols := [(5, { tc := 0, tp := 99 * 65536 })] } }

theorem witness_video_times : (judge ((at_ 0 fun y => (vidEarly y).setChan 0 { (vidEarly y).chan 0 with nextK := 5 }).chCands 0 (vid 5000 2 7 [seg0 10]))).map Prod.snd = some 1 ∧
    (judge ((at_ (msU 10) vidLate).chCands 0 (vid 5000 2 7 [seg0 10]))).map Prod.snd = some 2 ∧
    (∃ leg, legsHit ((at_ 0 vidB).cfg 0) (Ob.IngPortA 0) ((at_ 0 vidB).cfgN 0 (Ob.IngLegMode 0) = 1) (hdr 5000) = [(1, leg)] ∧ leg.pol = 0xFFFF) ∧
    (∃ leg, legsHit ((at_ 0 vidRed).cfg 0) (Ob.IngPortA 0) ((at_ 0 vidRed).cfgN 0 (Ob.IngLegMode 0) = 1) (hdr 5000) = [(0, leg)] ∧ leg.pol = 5) ∧
    (at_ 0 vidRed).nat (Ob.PolMode 5) = 1 ∧ (at_ 0 vidRed).flag (Ob.PolColorAware 5) = false ∧ ((at_ 0 vidRed).polNow 5).tp < ((hdr 5000).bytes * 65536 : Nat) := by
  refine ⟨by decide +kernel, by decide +kernel, ⟨_, rfl, ?_⟩, ⟨_, rfl, ?_⟩, ?_⟩ <;> decide +kernel

/-- Channel 0 with an audio flow and an ancillary flow on port 11. -/
def aud (t : Nat) : AudioPkt := { hdr := hdr 5002, rtpTs := t, seq := 0, samples := List.replicate 48 [1, 2] }
def aud0 := ingest [(Ob.IngAudMode 0 3, 1), (Ob.IngAudRate 0 3, 48), (Ob.IngAudPtime 0 3, 1000)] [(Ob.IngAudPortA 0 3, 5002)] [fr0]
def anc (seq ts : Nat) : AncPkt := { hdr := hdr 5004, rtpTs := ts, seq := seq, anc := [{ did := 0x61, sdid := 2, raw := [] }] }
def anc0 (used : List (Nat × Nat)) (rows : Nat) (y : Sys) : Sys :=
  let z := ingest [(Ob.IngAncMode 0, 1)] [(Ob.IngAncPortA 0, 5004)] [{ fr0 with settledRows := rows }] y
  z.setChan 0 { z.chan 0 with ancUsed := used }

/-- A frame of time stamp 6 has gone. -/
def ancGone (y : Sys) : Sys := (anc0 [] 0 y).setChan 0 { (anc0 [] 0 y).chan 0 with tsGone := some 6 }

theorem witness_audio : ((at_ (usU 980) aud0).portUp 11 = true ∧ (at_ (usU 980) aud0).activeChans = [0] ∧ (at_ (usU 980) aud0).cfgN 0 (Ob.IngAudMode 0 3) ≠ 0 ∧
      (∀ j < 4, j ≠ 3 → (at_ (usU 980) aud0).cfgN 0 (Ob.IngAudMode 0 j) = 0) ∧
      (∃ leg, legsHit ((at_ (usU 980) aud0).cfg 0) (Ob.IngAudPortA 0 3) ((at_ (usU 980) aud0).cfgN 0 (Ob.IngAudMode 0 3) = 2) (hdr 5002) = [(0, leg)] ∧ leg.pol = 0xFFFF)) ∧
    ((0 : Int) = mediaTick 48000 ((at_ (usU 980) aud0).frameNow 0 false) ((aud 0).rtpTs % 2 ^ 32) ∧
      tickTime 48000 (0 + (aud 0).samples.length - 1) + nsU ((at_ (usU 980) aud0).cfgN 0 (Ob.IngAudOffset 0 3)) - ((at_ (usU 980) aud0).fig 0).skew ≤
        (at_ (usU 980) aud0).frameNow 0 false ∧
      (at_ (usU 980) aud0).frameNow 0 false ≤
        tickTime 48000 (0 + (aud 0).samples.length - 1) + nsU ((at_ (usU 980) aud0).cfgN 0 (Ob.IngAudOffset 0 3)) + usU 8) ∧
    ((0 : Int) = mediaTick 48000 ((at_ (usU 990) aud0).frameNow 0 false) ((aud 0).rtpTs % 2 ^ 32) ∧
      tickTime 48000 (0 + (aud 0).samples.length - 1) + nsU ((at_ (usU 990) aud0).cfgN 0 (Ob.IngAudOffset 0 3)) + usU 8 < (at_ (usU 990) aud0).frameNow 0 false) := by
  refine ⟨⟨?_, ?_, ?_, ?_, ⟨_, rfl, ?_⟩⟩, ?_⟩ <;> decide +kernel

theorem witness_anc : ((at_ 0 (anc0 [] 0)).activeChans = [0] ∧ (at_ 0 (anc0 [] 0)).cfgN 0 (Ob.IngAncMode 0) ≠ 0 ∧
      (∃ leg, legsHit ((at_ 0 (anc0 [] 0)).cfg 0) (Ob.IngAncPortA 0) ((at_ 0 (anc0 [] 0)).cfgN 0 (Ob.IngAncMode 0) = 2) (hdr 5004) = [(0, leg)] ∧ leg.pol = 0xFFFF)) ∧
    (0, (anc 9 7).seq) ∈ ((at_ 0 (anc0 [(0, 9)] 0)).chan 0).ancUsed ∧ (at_ 0 (anc0 [(0, 9)] 0)).now < 0 + 2 * ((at_ 0 (anc0 [(0, 9)] 0)).fig 0).period_ ∧
    ((at_ 0 (anc0 [] 0)).chan 0).ancUsed = [] ∧ (at_ 0 (anc0 [] 0)).ancKept 0 { did := 0x61, sdid := 2, raw := [] } = true ∧
    (∀ fr ∈ ((at_ 0 (anc0 [] 0)).chan 0).received, fr.ts ≠ some ((anc 9 8).rtpTs % 2 ^ 32)) ∧
    ((at_ 0 (anc0 [] 0)).chan 0).tsOver ((anc 9 8).rtpTs % 2 ^ 32) = false ∧
    ((∀ fr ∈ ((at_ 0 (ancGone)).chan 0).received, fr.ts ≠ some ((anc 9 6).rtpTs % 2 ^ 32)) ∧ ((at_ 0 ancGone).chan 0).ancUsed = [] ∧
      ((at_ 0 ancGone).chan 0).tsOver ((anc 9 6).rtpTs % 2 ^ 32) = true) ∧
    ((at_ 0 (anc0 [] 0)).chan 0).frames.find? (fun fr => fr.ts == some ((anc 9 7).rtpTs % 2 ^ 32)) = some { fr0 with settledRows := 0 } ∧
    ((at_ 0 (anc0 [] 1)).chan 0).frames.find? (fun fr => fr.ts == some ((anc 9 7).rtpTs % 2 ^ 32)) = some { fr0 with settledRows := 1 } := by
  refine ⟨⟨?_, ?_, ⟨_, rfl, ?_⟩⟩, ?_⟩ <;> decide +kernel

/-- The last row of the frame with no packet at all; and row 1 with one packet whose number leaves a gap. -/
def settle (fr : Frame) := ingest [] [(Ob.IngPortA 0, 5000)] [fr]
def lastRow : Frame := { fr0 with used := [], settledRows := 11 }
def gapRow : Frame := { fr0 with used := [(5, 1), (1, 0)], settledRows := 1 }

theorem witness_settle : (∀ j < 4, (at_ (secU 1) (settle lastRow)).cfgN 0 (Ob.IngAudMode 0 j) = 0) ∧ ((at_ (secU 1) (settle lastRow)).chan 0).cx = none ∧
    ((at_ (secU 1) (settle lastRow)).chan 0).frames.find? (fun fr => decide (fr.settledRows < ((at_ (secU 1) (settle lastRow)).fig 0).rows)) = some lastRow ∧
    (∀ h ∈ ((at_ (secU 1) (settle lastRow)).chan 0).frames, h.k = lastRow.k → h = lastRow) ∧
    atOrAfter ((at_ 0 (settle lastRow)).frameNow 0 false) (lastRow.origin + ((at_ 0 (settle lastRow)).fig 0).slotEnd 11 + nsU 9500) = false ∧
    atOrAfter ((at_ (secU 1) (settle lastRow)).frameNow 0 false) (lastRow.origin + ((at_ (secU 1) (settle lastRow)).fig 0).slotEnd 11 + nsU 9500) = true ∧
    lastRow.used = [] ∧ 11 + 1 = ((at_ (secU 1) (settle lastRow)).fig 0).rows ∧ lastRow.legA = 0 ∧ lastRow.legB = 0 ∧
    (at_ (secU 1) (settle lastRow)).cfgN 0 (Ob.IngLegMode 0) = 0 ∧ ((at_ (secU 1) (settle lastRow)).chan 0).noSource = false ∧
    (fr0.used.filter fun u => u.2 == 1) = [] ∧ ({ fr0 with settledRows := 1 } : Frame).missing ((at_ (secU 1) (settle lastRow)).fig 0) 1 ≠ [] ∧
    (gapRow.used.filter fun u => u.2 == 1) = [(5, 1)] ∧ (4 : Nat) = backTo (((at_ (secU 1) (settle gapRow)).chan 0).usedLast.toList ++ ((at_ (secU 1) (settle gapRow)).chan 0).usedNear 0) 5 ∧
    gapCounted ((at_ (secU 1) (settle gapRow)).chan 0).gaps ((5 + 2 ^ 32 - 4) % 2 ^ 32) 5 = false := by decide +kernel

/-- A flow layer of a context that is on, with a frame that settles. -/
def layer (x : Ly) (y : Sys) : Sys :=
  (sets [(Ob.LyContext 31, 7), (Ob.LySource 31, 1), (Ob.CxEnable 7, 1), (Ob.LyIngLegMode 31, 0)] (pair y)).setLy 31 x

theorem witness_layerSettle : (at_ (secU 1) (layer { frames := [{ id := 0 }] })).lyFlow 31 = some 7 ∧
    ((at_ (secU 1) (layer { frames := [{ id := 0 }] })).ly 31).frames.find? (fun fr =>
      decide (fr.settledRows < (lyFig (at_ (secU 1) (layer { frames := [{ id := 0 }] })).val 31 7).rows)) = some { id := 0 } ∧
    atOrAfter ((at_ (secU 1) (layer { frames := [{ id := 0 }] })).cxNow 7)
      ((lyFig (at_ (secU 1) (layer { frames := [{ id := 0 }] })).val 31 7).boundary 0 + (lyFig (at_ (secU 1) (layer { frames := [{ id := 0 }] })).val 31 7).off +
        (lyFig (at_ (secU 1) (layer { frames := [{ id := 0 }] })).val 31 7).slotEnd 0 + nsU 9500) = true ∧
    (at_ (secU 1) (layer { frames := [{ id := 0 }] })).nat (Ob.LyIngLegMode 31) = 0 := by decide +kernel

/-! ### Channels at work -/

/-- Channel 0 with changes. -/
def chan0 (f : Chan → Chan) (y : Sys) : Sys := (live0 2 y).setChan 0 (f ((live0 2 y).chan 0))
def bounds (f : Chan → Chan) (p : List Pend) (y : Sys) : Sys := { chan0 (fun c => f { c with nextK := 24 }) y with pend := p }
def rateSet : Pend := { key := Ob.ChCommit 0, set := [(Ob.RcBitrate 0, .int 700000000)], at_ := secU 1, seq := 0 }

theorem witness_frame : (atOrAfter (((at_ 0 (bounds id [])).finishStops).frameNow 0 false) ((((at_ 0 (bounds id [])).finishStops).fig 0).boundary 24) = false) ∧
    ((((at_ 0 (bounds (fun c => { c with run := 0 }) [])).finishStops).chan 0).run = 0) ∧
    (atOrAfter (((at_ (secU 1) (bounds id [])).finishStops).frameNow 0 false) ((((at_ (secU 1) (bounds id [])).finishStops).fig 0).boundary 24) = true ∧
      (((at_ (secU 1) (bounds id [])).finishStops).chan 0).run = 2 ∧ (((at_ (secU 1) (bounds id [])).finishStops).chan 0).stopK = none ∧
      ((at_ (secU 1) (bounds id [])).finishStops).stepWaits (.ch 0) = false ∧ (((at_ (secU 1) (bounds id [])).finishStops).chan 0).handover = [] ∧
      (((at_ (secU 1) (bounds id [])).finishStops).chan 0).move = none ∧ (((at_ (secU 1) (bounds id [])).finishStops).chan 0).oldDies = [] ∧
      (((at_ (secU 1) (bounds id [])).finishStops).chan 0).frozen = false ∧ ((at_ (secU 1) (bounds id [])).finishStops).unserved 0 = false ∧
      ((at_ (secU 1) (bounds id [])).finishStops).needsRepair 0 = false ∧ (((at_ (secU 1) (bounds id [])).finishStops).fig 0).mode = 1 ∧
      (((at_ (secU 1) (bounds id [])).finishStops).chan 0).frameNo ≠ 0 ∧ (((at_ (secU 1) (bounds id [])).finishStops).chan 0).poc + 1 < 2 ^ 30 ∧
      ((at_ (secU 1) (bounds id [])).finishStops).pend = [] ∧ (((at_ (secU 1) (bounds id [])).finishStops).chan 0).restarts = []) ∧
    ((((at_ (secU 1) (bounds (fun c => { c with restarts := [secU 1] }) [])).finishStops).chan 0).restarts = [(secU 1 : Int)] ∧
      atOrAfter ((((at_ (secU 1) (bounds id [])).finishStops).fig 0).boundary 24) (secU 1) = true) ∧
    (((at_ (secU 1) (bounds (fun c => { c with nextBitrate := some (700000000, secU 1) }) [rateSet])).finishStops).pend = [rateSet] ∧
      atOrAfter ((((at_ (secU 1) (bounds id [])).finishStops).fig 0).boundary 24) rateSet.at_ = true ∧
      (((at_ (secU 1) (bounds (fun c => { c with nextBitrate := some (700000000, secU 1) }) [rateSet])).finishStops).chan 0).nextBitrate = some (700000000, (secU 1 : Int)) ∧
      ((at_ (secU 1) fun y => bounds (fun c => { c with nextBitrate := some (700000000, secU 1) }) [rateSet] (sets [(Ob.RcHrdSignal 0, 0)] y)).finishStops.fig 0).hrd = 0) ∧
    (((at_ (secU 1) (bounds (fun c => { c with run := 1 }) [])).finishStops).chan 0).run = 1 := by decide +kernel

/-- The frame of boundary 0 with its first row in a state; the same with its row settled and not begun. -/
def coding (x : Col) (fr : Frame → Frame) : Sys → Sys :=
  chan0 fun c => { c with frames := [fr { fr0 with settledRows := 1, budget := 3000000, rows := [(0, { settled := true, cols := [(0, x)] })] }] }

def running : Col := { started := true, ctu := 19, used := 100, allow := 5000, need := 4730 }
def atA : At := { ch := 0, k := 0, row := 0, col := 0 }

theorem witness_rows : (at_ (msU 5) (coding {} id)).nextColumn 0 0 = some atA ∧ (((at_ (msU 5) (coding {} id)).chan 0).frame 0).isSome = true ∧
    (at_ (msU 5) (coding {} id)).current 0 0 = none ∧ (at_ (msU 5) (coding running id)).nextColumn 0 0 = none ∧
    (at_ (msU 5) (coding running id)).current 0 0 = some atA ∧
    (((at_ (msU 5) (coding running id)).chan 0).frame 0).map (fun fr => (fr.row 0).col 0) = some running ∧
    ((at_ (msU 5) (coding running id)).fig 0).ctus = 20 ∧
    (((at_ (msU 5) (coding running id)).chan 0).frame 0).map (fun fr => decide (running.used + 4900 + fr.phiRest ((at_ (msU 5) (coding running id)).fig 0) 0 0 20 ≤ running.allow)) = some true ∧
    (((at_ (msU 5) (coding running id)).chan 0).frame 0).map (fun fr => decide (running.allow < running.used + 4901 + fr.phiRest ((at_ (msU 5) (coding running id)).fig 0) 0 0 20)) = some true ∧
    (running.deadline = false ∧ (at_ (usU 59270) (coding running id)).checksOn 0 0 atA = true ∧
      (at_ (usU 59270) (coding running id)).checkFails 0 0 atA 60 = false) ∧
    ((at_ (msU 60) (coding running id)).checksOn 0 0 atA = true ∧ (at_ (msU 60) (coding running id)).checkFails 0 0 atA 60 = true) ∧
    (at_ (msU 5) (coding running id)).checksOn 0 0 atA = false := by decide +kernel

/-- A row coded to its last CTU; a failed column whose deadline has come. -/
def ended : Col := { running with ctu := 20, used := 70000 }

theorem witness_rowCoded : (at_ (msU 5) (coding ended id)).current 0 0 = some atA ∧ 20 ≤ ended.ctu ∧
    ((at_ (msU 60) (coding { failed := true } id)).coreRow 0).map Prod.snd = some 0 ∧ (at_ (msU 5) (coding { failed := true } id)).coreRow 0 = none ∧
    ((at_ (msU 60) (coding { failed := true } id)).coreRow 0).map (fun e => (e.1.owed ((at_ (msU 60) (coding { failed := true } id)).fig 0) 0)) = some [0] ∧
    ((at_ (msU 60) (coding { failed := true } fun fr => { fr with frozen := true })).coreRow 0).map (fun e => e.1.frozen) = some true := by decide +kernel

theorem witness_coreSlice (fr : Frame) (r : Nat) : (([0] : List Nat).zip [([] : List Byte)]).all
    (fun e => decide (e.2.length ≤ fr.phiRest ((at_ (msU 60) (coding { failed := true } id)).fig 0) r e.1 0)) = true := by simp

theorem witness_rowEnds : ∃ l : List Byte, ended.used = ((at_ (msU 5) (coding ended id)).fig 0).sliceHdr + l.length := by
  refine ⟨List.replicate (70000 - ((at_ (msU 5) (coding ended id)).fig 0).sliceHdr) 0, ?_⟩
  have : ((at_ (msU 5) (coding ended id)).fig 0).sliceHdr < 2 ^ 16 := Nat.mod_lt _ (by decide)
  simp only [List.length_replicate]
  show 70000 = _
  omega

/-- The frame of boundary 0 as an IDR picture, in a buffer under reconstruction. -/
def intraFrame : Sys → Sys := fun y => let z := coding running (fun fr => { fr with kind := .idr }) y
  z.setChan 0 { z.chan 0 with bufs := [{ frame := 0, recon := true }] }

theorem witness_intra : (at_ (msU 5) intraFrame).current 0 0 = some atA ∧
    (((at_ (msU 5) intraFrame).chan 0).frame 0).map (fun fr => (fr.floorIntra ((at_ (msU 5) intraFrame).fig 0) 0 19, (fr.row 0).skip)) = some (true, []) ∧
    (∃ b ∈ ((at_ (msU 5) intraFrame).chan 0).bufs, b.frame = 0 ∧ b.recon = true) ∧ ((at_ (msU 5) (coding running id)).fig 0).tiles = 1 ∧
    ((at_ (msU 5) (coding running id)).fig 0).rows ≠ 1 := by decide +kernel

/-! ### Pipelines, checks and repairs -/

/-- Die 0 of a pair with its pipelines, and channel 0 running on its first position, or nowhere. -/
def pipes (f : Die → Die) (on_ : Bool) (y : Sys) : Sys :=
  (if on_ then coding {} id y else sets [(Ob.RotPeriod, 1)] (pair y)).onDie 0 f

theorem witness_pipelines : (((at_ 0 (pipes (fun x => { x with pipeSt := [3, 0, 0, 0, 0] }) true)).die 0).pipeSt.getD 0 3 = 3) ∧
    (((at_ 0 (pipes id true)).die 0).pipeSt.getD 0 3 ≠ 3 ∧ ((at_ 0 (pipes id true)).die 0).leaving = none ∧
      (List.range 4).find? (fun q => ((at_ 0 (pipes id true)).die 0).map.getD q 15 == 0) = some 0 ∧ ((at_ 0 (pipes id true)).die 0).freePipe = some 4 ∧
      (at_ 0 (pipes id true)).chansAt 0 0 = [0] ∧ ((at_ 0 (pipes id true)).chan 0).stopK = none ∧
      (at_ 0 (pipes id true)).activeChans = [0] ∧ ((at_ 0 (pipes id true)).chan 0).frames.length = 1 ∧
      (((at_ 0 (pipes id true)).chan 0).pipesAt 0)[0]? = some (0, 0) ∧ (at_ 0 (pipes id true)).pipeOf 0 0 0 0 = 0) ∧
    ((at_ 0 (pipes id false)).chansAt 0 0 = [] ∧ (at_ 0 (pipes id false)).activeChans = []) ∧
    (up.sys.nat Ob.RotPeriod = 0 ∨ (at_ 0 (pipes id false)).nat Ob.RotPeriod ≠ 0) := by decide +kernel

/-- Only die 0 has pipelines to rotate. -/
def alone (y : Sys) : Sys := (pipes id false y).onDie 1 fun x => { x with mappedOut := true }

theorem witness_rotation : (at_ 0 (sets [(Ob.RotPeriod, 0)])).nat Ob.RotPeriod = 0 ∧ (at_ 0 alone).nat Ob.RotPeriod ≠ 0 ∧ (at_ 0 alone).running = true ∧
    (at_ 0 alone).dieList.filter (fun d => !((at_ 0 alone).die d).mappedOut) = [0] ∧ ((at_ 0 alone).die 0).leaving = none ∧
    ((at_ 0 alone).die 0).freePipe = some 4 ∧ ((at_ 0 alone).die 0).oldest = some 0 ∧ (at_ 0 alone).clocksGood 0 = true ∧ (at_ 0 alone).chansAt 0 0 = [] := by
  decide +kernel

/-- The same with channel 0 on the position served longest. -/
def aloneBusy (y : Sys) : Sys := sets [(Ob.RotPeriod, 1)] ((pipes id true y).onDie 1 fun x => { x with mappedOut := true })

theorem witness_rotationBusy : (at_ 0 aloneBusy).nat Ob.RotPeriod ≠ 0 ∧ (at_ 0 aloneBusy).running = true ∧
    (at_ 0 aloneBusy).dieList.filter (fun d => !((at_ 0 aloneBusy).die d).mappedOut) = [0] ∧ ((at_ 0 aloneBusy).die 0).leaving = none ∧
    ((at_ 0 aloneBusy).die 0).freePipe = some 4 ∧ ((at_ 0 aloneBusy).die 0).oldest = some 0 ∧ (at_ 0 aloneBusy).clocksGood 0 = true ∧
    (at_ 0 aloneBusy).chansAt 0 0 = [0] := by decide +kernel

theorem witness_selfTest : ((at_ 0 (pipes id true)).die 0).pipeSt.getD 4 3 ≠ 1 ∧
    ((at_ 0 (pipes (fun x => { x with pipeSt := [0, 0, 0, 0, 1] }) true)).die 0).pipeSt.getD 4 3 = 1 ∧ (at_ 0 (pipes id true)).pllGood 0 1 = true ∧
    (∀ q < 4, ((at_ 0 (pipes id true)).die 0).map.getD q 15 ≠ 15) ∧
    (List.range 4).find? (fun q => ((at_ 0 (pipes (fun x => { x with map := [0, 1, 2, 15] }) true)).die 0).map.getD q 15 == 15) = some 3 := by decide +kernel

/-- Samples that differ by their first. -/
def planes (v : Nat) : Planes := { luma := [v], cb := [], cr := [] }

/-- Channel 0 with a check open on the first slice of frame 0, and a buffer copied by one row less than all but one. -/
def checked : Sys → Sys :=
  chan0 fun c => { c with frames := [fr0], checks := [{ frame := 0, row := 0, col := 0, sum := sliceChecksum (planes 1), die := 0, pos := 0, pipe := 0 }],
                          oldBufs := [{ frame := 99, holds := [1], copied := [1, 2, 3, 4, 5, 6, 7, 8, 9, 10] }, {}] }

/-- The same before the move. -/
def beforeMove : Sys → Sys :=
  chan0 fun c => { c with frames := [fr0], bufs := [{ frame := 99, holds := [1], copied := [1, 2, 3, 4, 5, 6, 7, 8, 9, 10] }] }

theorem witness_checks : ((at_ 0 checked).chan 0).checks.any (fun g => g.frame == 0 && g.row == 0 && g.col == 0) = true ∧
    ((at_ 0 checked).chan 0).checks.any (fun g => g.frame == 0 && g.row == 11 && g.col == 0) = false ∧
    ((at_ 0 checked).chan 0).frames.find? (fun fr => fr.n == 0) = some fr0 ∧
    atOrAfter ((at_ 0 checked).frameNow 0 fr0.old) (fr0.origin + ((at_ 0 checked).fig 0).deadline (((at_ 0 checked).fig 0).rows - 1) + ((at_ 0 checked).fig 0).period_) = false ∧
    atOrAfter ((at_ (secU 1) checked).frameNow 0 fr0.old)
      (fr0.origin + ((at_ (secU 1) checked).fig 0).deadline (((at_ (secU 1) checked).fig 0).rows - 1) + ((at_ (secU 1) checked).fig 0).period_) = true ∧
    (((at_ 0 checked).chan 0).checks.find? (fun g => g.frame == 0 && g.row == 0 && g.col == 0)).map Check.sum = some (sliceChecksum (planes 1)) ∧
    sliceChecksum (planes 2) ≠ sliceChecksum (planes 1) ∧ sliceChecksum (planes 3) ≠ sliceChecksum (planes 1) ∧
    sliceChecksum (planes 3) ≠ sliceChecksum (planes 2) ∧ ((at_ 0 checked).chan 0).run ≠ 0 ∧
    (((at_ 0 checked).chan 0).checks.filter fun g => g.frame == 0).length ≠ 0 ∧ ((at_ 0 checked).fig 0).pair = false ∧
    (∃ b, ((at_ 0 checked).chan 0).oldBufs[0]? = some b ∧ b.holds.contains 1 = true ∧ 0 < ((at_ 0 checked).fig 0).rows ∧ b.copied.contains 0 = false ∧
      b.copied.length + 1 < ((at_ 0 checked).fig 0).rows ∧ ∀ fr ∈ ((at_ 0 checked).chan 0).frames, fr.n ≠ b.frame) ∧
    (((at_ 0 beforeMove).chan 0).oldBufs = [] ∧ ((at_ 0 beforeMove).chan 0).oldDies = [] ∧ ((at_ 0 beforeMove).chan 0).bufs.length = 1) ∧
    ∃ b, ((at_ 0 checked).chan 0).oldBufs[1]? = some b ∧ b.holds.contains 1 = false := by
  refine ⟨?_, ?_, ?_, ?_, ?_, ?_, ?_, ?_, ?_, ?_, ?_, ?_, ⟨_, rfl, ?_⟩, ?_, ⟨_, rfl, ?_⟩⟩ <;> decide +kernel

/-- Channel 0 at 7680 × 4320 and 240 frames each second, on both dies of a pair, with the left half of rows 0 and 1 coded. -/
def wide (y : Sys) : Sys :=
  let z := sets [(Ob.IngVidWidth 0, 7680), (Ob.IngVidHeight 0, 4320), (Ob.IngRateNum 0, 240), (Ob.EncCodec 0, 1)] (pair y)
  z.setChan 0 { run := 2, cfg := z.snapshot 0, die := 0, pipes := [], frames :=
    [{ fr0 with rows := [0, 1].map fun r => (r, { cols := [(0, { done := true }), (1, { done := true }), (2, { done := true }), (3, { done := true })] }) }] }

theorem witness_strips : ((at_ 0 wide).fig 0).pair = true ∧
    (((at_ 0 wide).chan 0).frames.find? fun fr => !(fr.row 0).stripOk.contains 0 && fr.rowFinal ((at_ 0 wide).fig 0) 0 0).isSome = true ∧
    ∀ g ∈ ((at_ 0 wide).chan 0).frames, (g.row 1).stripOk.contains 0 = true ∨ g.rowFinal ((at_ 0 wide).fig 0) 0 1 = false := by decide +kernel

/-! ### Layers and contexts -/

/-- Layer 31 with a compressed source on port 11, its decoder in a state. -/
def pic (kind : PicKind) : CodedPic :=
  { codec := 0, kind := kind, poc := 0, refs := [], keep := [], longs := [], output := true, noPrior := false, reorder := 0, latency := 0,
    recoveryCnt := 0, width := 1280, height := 720, dpbMinus1 := 0, chroma := 1, depth := 10, vui := none, level := 93, tag := none, damaged := false }
def lpkt (seq : Nat) (begins : Bool) (c : Option CodedPic) : LayerPkt :=
  { hdr := hdr 5006, rtpTs := 0, seq := seq, form := 1, program := 0, firstVideo := true, streamType := 0x24, begins := begins, ccGap := false,
    complete := c }
def decoder (st : Nat) (x : Ly) (y : Sys) : Sys :=
  let z := (sets [(Ob.LyContext 31, 7), (Ob.LySource 31, 2), (Ob.DecSource 31, 1), (Ob.DecProgram 31, 0), (Ob.DecState 31, st), (Ob.DecPortA 31, 11), (Ob.DecPortA 31 + 2, 5006)]
    (pair y)).setBytes (Ob.DecPortA 31 + 1) (List.replicate 10 0 ++ [255, 255, 239, 0, 0, 1])
  (z.setPort 11 { st := 5, mode := 8 }).setLy 31 x
def unit (damaged : Bool) : DecUnit := { pic := pic .idr, age := 0, at_ := 0, damaged := damaged }

theorem witness_layers : ((at_ 0 (decoder 1 {})).lyDec 31 = some 7 ∧ (∀ j < 32, j ≠ 31 → (at_ 0 (decoder 1 {})).lyDec j = none) ∧
      (at_ 0 (decoder 1 {})).portUp 11 = true ∧
      ∃ leg, legsHit (at_ 0 (decoder 1 {})).val (Ob.DecPortA 31) ((at_ 0 (decoder 1 {})).nat (Ob.DecLegMode 31) = 1) (hdr 5006) = [(0, leg)] ∧ leg.pol = 0xFFFF) ∧
    ((at_ 0 (decoder 1 {})).layerTakes 31 (lpkt 0 true none) = true ∧ (at_ 0 (decoder 1 {})).layerTakes 31 { lpkt 0 true none with form := 2 } = false ∧
      (at_ 0 (decoder 1 {})).nat (Ob.DecLegMode 31) = 0) ∧
    ((at_ 0 (decoder 1 { ext := some 65534, seen := [65534, 65535] })).ly 31).seen.contains (extendSeq (some 65534) 65535) = true ∧
    ((at_ 0 (decoder 1 { ext := some 65535, seen := [65535] })).ly 31).seen.contains (extendSeq (some 65535) 0) = false ∧
    ((lpkt 0 false none).begins && true) = false ∧ ((at_ 0 (decoder 2 { queue := [unit false] })).ly 31).queue ≠ [] ∧
    ((at_ 0 (decoder 1 {})).nat (Ob.DecState 31) = 1 ∧ isEntry (pic .idr) = true ∧ isEntry (pic .other) = false ∧
      (at_ 0 (decoder 1 {})).decSupported 31 (pic .idr) = true ∧
      (at_ 0 (decoder 1 {})).decSupported 31 { pic .idr with width := 16000 } = false ∧ ((at_ 0 (decoder 1 {})).ly 31).queue = [] ∧
      (∀ b ∈ ((at_ 0 (decoder 1 { pool := [{}] })).ly 31).pool, b.out = false) ∧ ∃ b ∈ ((at_ 0 (decoder 1 { pool := [{}] })).ly 31).pool, b.free = true) ∧
    ((lpkt 0 true none).begins = true ∧ ((at_ 0 (decoder 1 { open_ := true })).ly 31).open_ = true) := by
  refine ⟨⟨?_, ?_, ?_, ⟨_, rfl, ?_⟩⟩, ?_⟩ <;> decide +kernel

/-- A decoder in whose pool a picture is reconstructed. -/
def decoding (x : Ly) : Sys → Sys := decoder 3 { x with pool := [{ poc := 0, recon := true }] }

theorem witness_decode : (at_ 0 (decoding { queue := [unit false], recovery := some 0, resync := true })).decTurn 31 (unit false) = true ∧
    ((at_ 0 (decoding { queue := [unit false], recovery := some 0, resync := true })).ly 31).queue = [unit false] ∧
    (((at_ 0 (decoding { queue := [unit false] })).ly 31).pool.filter fun b => b.recon) = [{ poc := (unit false).pic.poc, recon := true }] ∧
    (∀ b ∈ ((at_ 0 (decoding { queue := [unit false] })).ly 31).pool, b.out = false) ∧ (unit false).pic.output = true ∧ (unit false).pic.reorder = 0 ∧
    (unit false).pic.kind ≠ .rasl ∧ (at_ 0 (decoding { queue := [unit false] })).nat (Ob.DecState 31) = 3 ∧ (unit false).pic.poc < 1 ∧
    (at_ 0 (decoder 3 { queue := [unit true] })).decTurn 31 (unit true) = true ∧
    (at_ 0 fun y => (decoder 3 { queue := [{ unit false with at_ := 1 }] } y).setLy 30 { queue := [unit false] }).decTurn 31 { unit false with at_ := 1 } = false ∧
    (∀ r, (some 0 : Option Int) = some r → r ≤ (unit false).pic.poc) ∧
    (at_ 0 (decoder 3 { queue := [unit false] })).now < (unit false).at_ + 2 * lyPeriod (at_ 0 (decoder 3 { queue := [unit false] })).val 31 ∧
    (unit false).at_ + 2 * lyPeriod (at_ 0 (decoder 3 { queue := [unit false] })).val 31 ≤ (at_ (secU 1) (decoder 3 { queue := [unit false] })).now ∧
    ((at_ 0 (layer { frames := [{ id := 0 }] })).ly 31).frames.find? (fun fr => fr.done.isNone) = some { id := 0 } ∧
    (lyFig (at_ 0 (layer {})).val 31 7).rows ≠ 0 ∧
    ((at_ 0 (layer { frames := [{ id := 0, settledRows := (lyFig (at_ 0 (layer {})).val 31 7).rows }] })).ly 31).frames.find? (fun fr => fr.done.isNone) =
      some { id := 0, settledRows := (lyFig (at_ 0 (layer {})).val 31 7).rows } := by
  refine ⟨?_, ?_, ?_, ?_, ?_, ?_, ?_, ?_, ?_, ?_, ?_, ?_, ?_, ?_, ?_, ?_, ?_⟩
  case refine_12 => intro r h; simp at h; subst h; decide
  all_goals decide +kernel

/-- Context 7, on, with what layer 31 is; row-locked and with a line to send. -/
def ctx (on_ : Bool) (frames : List CxFrame) (drawn : Bool) (x : Ly) (y : Sys) : Sys :=
  let z := (sets [(Ob.CxEnable 7, if on_ then 1 else 0), (Ob.LyContext 31, if drawn then 7 else 255), (Ob.LySource 31, 1), (Ob.LyDstW 31, 64), (Ob.LyDstH 31, 64),
    (Ob.LyGrace 31, 2)] (pair y)).setLy 31 x
  { z with opal := { z.opal with cxs := [(7, { on := on_, frames := frames })] } }
def done31 : LyFrame := { id := 3, done := some (-611669333333) }
def cxOn : Pend := { key := Ob.CxCommit 7, set := [(Ob.CxEnable 7, .int 1)], at_ := 0, seq := 0 }

theorem witness_context : (at_ 0 (ctx true [] false {})).pend = [] ∧ ((at_ 0 (ctx false [] false {})).cx 7).on = false ∧
    (((at_ 0 (ctx true [] false {})).cx 7).on = true ∧ atOrAfter ((at_ 0 (ctx true [] false {})).cxNow 7) ((cxFig (at_ 0 (ctx true [] false {})).val 7).boundary 0) = true ∧
      (at_ 0 (ctx true [] false {})).stepWaits ((at_ 0 (ctx true [] false {})).cxConsumer 7) = false ∧ (at_ 0 (ctx true [] false {})).flag (Ob.CxEnable 7) = true ∧
      (at_ 0 (ctx true [] false {})).drawnOf (at_ 0 (ctx true [] false {})).val 7 = []) ∧
    ((at_ 0 (ctx true [] true { frames := [done31], m := 3 })).drawnOf (at_ 0 (ctx true [] true { frames := [done31], m := 3 })).val 7 = [31] ∧
      (at_ 0 (ctx true [] true {})).nat (Ob.LySource 31) = 1 ∧ (at_ 0 (ctx true [] true {})).nat (Ob.LyTiming 31) = 0 ∧
      newestDone ((at_ 0 (ctx true [] true { frames := [done31], m := 3 })).ly 31).complete (some 0) = some done31 ∧
      0 ≤ tdiff (done31.done.getD 0) (0 - lyPeriod (at_ 0 (ctx true [] true {})).val 31 - usU ((at_ 0 (ctx true [] true {})).nat (Ob.LyLateTol 31)))) ∧
    newestDone ((at_ 0 (ctx true [] true { m := 1 })).ly 31).complete (some 0) = none ∧ (1 : Nat) < (at_ 0 (ctx true [] true {})).nat (Ob.LyGrace 31) ∧
    (at_ 0 (ctx true [] true {})).nat (Ob.LyGrace 31) = 2 := by decide +kernel

theorem witness_contextSet : ((at_ 0 fun y => { ctx false [] false {} y with pend := [cxOn] }).cx 7).on = false ∧
    (at_ 0 fun y => { ctx false [] false {} y with pend := [cxOn] }).pend = [cxOn] ∧
    atOrAfter ((at_ 0 fun y => { ctx false [] false {} y with pend := [cxOn] }).cxNow 7) cxOn.at_ = true ∧
    (at_ 0 fun y => { ctx false [] false {} y with pend := [cxOn] }).drawnOf (at_ 0 fun y => { ctx false [] false {} y with pend := [cxOn] }).val 7 = [] := by
  decide +kernel

/-- A frame of context 7 that waits for row-locked layer 31. -/
def locked : CxFrame := { k := 0, boundary := 0, origin := 0, shown := [{ ly := 31, locked := 1 }] }

theorem witness_rowLocked : (at_ 0 (ctx true [locked] true {})).nat (Ob.LyContext 31) = 7 ∧
    ((at_ 0 (ctx true [locked] true {})).cx 7).frames.find? (fun fr => fr.shown.any fun x => x.ly == 31 && x.locked == 1) = some locked ∧
    atOrAfter ((at_ 0 (ctx true [locked] true {})).cxFrameNow 7 locked)
      (locked.origin + (cxFig ((at_ 0 (ctx true [locked] true {})).cxSet locked) 7).slotEnd 0 + usU 8) = false ∧
    atOrAfter ((at_ (secU 1) (ctx true [locked] true {})).cxFrameNow 7 locked)
      (locked.origin + (cxFig ((at_ (secU 1) (ctx true [locked] true {})).cxSet locked) 7).slotEnd 0 + usU 8) = true ∧
    ((at_ (secU 1) (ctx true [locked] true { frames := [{ id := 0, row0 := true }] })).ly 31).frames.find? (fun g => g.k == locked.k && g.row0) =
      some { id := 0, row0 := true } ∧
    ((at_ (secU 1) (ctx true [locked] true {})).ly 31).frames.find? (fun g => g.k == locked.k && g.row0) = none := by decide +kernel

/-- A frame of context 7 whose last line waits. -/
def lastLine : CxFrame := { k := 0, boundary := 0, origin := 0, next := 1079 }

theorem witness_line : ((at_ 0 (ctx true [lastLine] false {})).cx 7).frames.find? ((at_ 0 (ctx true [lastLine] false {})).cxOpen 7) = some lastLine ∧
    atOrAfter ((at_ 0 (ctx true [lastLine] false {})).cxFrameNow 7 lastLine) (lastLine.origin +
      dueAt (cxFig ((at_ 0 (ctx true [lastLine] false {})).cxSet lastLine) 7).wd (cxFig ((at_ 0 (ctx true [lastLine] false {})).cxSet lastLine) 7).ht
        (cxFig ((at_ 0 (ctx true [lastLine] false {})).cxSet lastLine) 7).rn (cxFig ((at_ 0 (ctx true [lastLine] false {})).cxSet lastLine) 7).rd 1079
        ((cxFig ((at_ 0 (ctx true [lastLine] false {})).cxSet lastLine) 7).wd - 1) + usU 14) = false ∧
    atOrAfter ((at_ (secU 1) (ctx true [lastLine] false {})).cxFrameNow 7 lastLine) (lastLine.origin +
      dueAt (cxFig ((at_ 0 (ctx true [lastLine] false {})).cxSet lastLine) 7).wd (cxFig ((at_ 0 (ctx true [lastLine] false {})).cxSet lastLine) 7).ht
        (cxFig ((at_ 0 (ctx true [lastLine] false {})).cxSet lastLine) 7).rn (cxFig ((at_ 0 (ctx true [lastLine] false {})).cxSet lastLine) 7).rd 1079
        ((cxFig ((at_ 0 (ctx true [lastLine] false {})).cxSet lastLine) 7).wd - 1) + usU 14) = true ∧
    (cxFig ((at_ 0 (ctx true [lastLine] false {})).cxSet lastLine) 7).wd = 1920 ∧ lastLine.late = false ∧
    (∀ x < 1920, lostAt [] x = false) ∧ (∃ x < 1920, lostAt [(1919, 1920)] x = true) := by decide +kernel

/-! ### Rules stated whole -/

theorem witness_unlisted : locate 8 0x2002 0x01 = none ∧ W id (reqMsg 0x01 rq 0x2002 0x01 0 []) 0 ∧ W id (reqMsg 0x01 rq 0x2002 0x01 1 []) 0 ∧
    W id (writeMsg rq 0x2002 0x01 [0]) 1 ∧ W id (reqMsg 0x03 rq 0x2002 0x01 0 (leBytes 4 1)) 4 ∧ W id (reqMsg 0x04 rq 0x2002 0x01 0 (leBytes 4 0 ++ [0])) (4 + 1) ∧
    W id (reqMsg 0x05 rq 0x2002 0x01 0 (leBytes 4 0)) 4 ∧ W id (reqMsg 0x07 rq 0x2002 0x01 0 []) 0 := by
  refine ⟨by decide +kernel, ?_, ?_, ?_, ?_, ?_, ?_, ?_⟩ <;> exact serves_of (by decide +kernel)

theorem witness_zero : (∃ l, locate 8 0x33BE 0x0A = some l ∧ l.row.acc = .wo ∧ l.row.ty = .bool ∧ servesB 0 rq.src (writeMsg rq 0x33BE 0x0A [0]) 1 (on id) = true ∧
      servesB 0 rq.src (writeMsg rq 0x33BE 0x0A [0]) 0 (on id) = true) ∧
    W id (writeMsg rq 0x1005 0x01 [0]) 0 ∧ W id (writeMsg rq 0x1005 0x01 (leBytes 1 2)) 0 ∧ W id (writeMsg rq 0x1005 0x01 (leBytes 1 255)) 0 :=
  ⟨located _ (by decide +kernel), serves_of (by decide +kernel), serves_of (by decide +kernel), serves_of (by decide +kernel)⟩

/-- An audio port that is enabled. -/
def heard (y : Sys) : Sys := sets [(Ob.AuEnable 31, 1)] y

theorem witness_frameClockStands : (31 < 4 * (zOf heard).part.dies ∧ (zOf heard).flag (Ob.AuEnable 31) = true) ∧ W heard (writeMsg rq 0x3280 1 [7]) 1 ∧
    W heard (writeMsg rq 0x3280 2 [96]) 1 ∧ W heard (writeMsg rq 0x3280 1 [0]) 0 ∧ W heard (writeMsg rq 0x3280 2 [48]) 0 := by
  refine ⟨by decide +kernel, ?_, ?_, ?_, ?_⟩ <;> exact serves_of (by decide +kernel)

/-- A channel whose least QP is above its greatest. -/
def crossed (y : Sys) : Sys := sets [(Ob.RcQpMin 127, 63), (Ob.RcQpMax 127, 62)] y

theorem witness_qp : (W crossed (writeMsg rq (strideIdx 0x2000 0x20 128 127) 0x01 [1]) 0 ∧ ((zOf crossed).finishStops.chan 127).run = 0 ∧
      ((zOf crossed).finishStops.startVal 127 (Ob.RcQpMax 127)).nat < ((zOf crossed).finishStops.startVal 127 (Ob.RcQpMin 127)).nat) ∧
    (W id (writeMsg rq (strideIdx 0x200B 0x20 128 127) 2 [64]) 1 ∧ 63 < (64 : Byte).toNat) ∧
    (W id (writeMsg rq (strideIdx 0x200B 0x20 128 127) 3 [255]) 0 ∧ 63 < (255 : Byte).toNat) :=
  ⟨both (by decide +kernel), both (by decide +kernel), both (by decide +kernel)⟩

/-! ### Well-formed commands -/


/-- A request's own fields are checked. -/
theorem test_wf_request : ([{ src := .udp (2 ^ 128) 0, seq := 0 }, { src := .udp 0 65536, seq := 0 }, { src := .can 0, seq := 0 },
    { src := .can 128, seq := 0 }, { src := .can 1, seq := 256 }] : List Req).all (fun r => !r.wf) = true ∧
    ([{ src := .udp (2 ^ 128 - 1) 65535, seq := 255 }, { src := .can 1, seq := 0 }, rq] : List Req).all Req.wf = true := by decide +kernel

/-- Each command, ill-formed by one operand just out of its range, is refused. -/
theorem test_wf_refused_1 : ([
    .read 0 { rq with seq := 256 } 0 0 false, .read 0 rq 65536 0 false, .read 0 rq 0 256 false, .write 0 { rq with seq := 256 } 0 0 [],
    .write 0 rq 65536 0 [], .write 0 rq 0 256 [], .write 0 rq 0 0 (List.replicate 1401 0), .writeInit 0 { rq with seq := 256 } 0 0 0,
    .writeInit 0 rq 65536 0 0, .writeInit 0 rq 0 256 0, .writeSeg 0 { rq with seq := 256 } 0 0 0 [], .writeSeg 0 rq 65536 0 0 [],
    .writeSeg 0 rq 0 256 0 [], .writeSeg 0 rq 0 0 0 (List.replicate 1401 0), .readSeg 0 { rq with seq := 256 } 0 0 0,
    .readSeg 0 rq 65536 0 0, .readSeg 0 rq 0 256 0, .fastRead 0 { rq with seq := 256 } 0 0, .describe 0 { rq with seq := 256 } 0 0,
    .describe 0 rq 65536 0, .describe 0 rq 0 256, .registerWrite 0 { rq with seq := 256 } 0 0 [], .registerWrite 0 rq 65536 0 [],
    .registerWrite 0 rq 0 256 [], .registerWrite 0 rq 0 0 (List.replicate 1401 0), .shadowWrite 0 { rq with seq := 256 } 0 0 [],
    .shadowWrite 0 rq 65536 0 [], .shadowWrite 0 rq 0 256 [], .shadowWrite 0 rq 0 0 (List.replicate 1401 0),
    .chControlStart 0 { rq with seq := 256 } 0, .chControlStart 0 rq 128, .chControlStop 0 { rq with seq := 256 } 0,
    .chControlStop 0 rq 128, .chCommit 0 { rq with seq := 256 } 0, .chCommit 0 rq 128, .cxCommit 0 { rq with seq := 256 } 0,
    .cxCommit 0 rq 32, .auCommit 0 { rq with seq := 256 } 0, .auCommit 0 rq 32, .portCommit 0 { rq with seq := 256 } 0] : List Instr).all (fun i => !i.wf) = true := by decide +kernel

theorem test_wf_refused_2 : ([
    .portCommit 0 rq 96, .clkCommit 0 { rq with seq := 256 } 0, .clkCommit 0 rq 6, .memCommit 0 { rq with seq := 256 },
    .encRefreshNow 0 { rq with seq := 256 } 0, .encRefreshNow 0 rq 128, .tbStep 0 { rq with seq := 256 } 0 0, .tbStep 0 rq 8 0,
    .tbStepToMaster 0 { rq with seq := 256 } 0, .tbStepToMaster 0 rq 8, .clkBandCal 0 { rq with seq := 256 } 0 0, .clkBandCal 0 rq 6 0,
    .clkBandCal 0 rq 0 32, .clkRetry 0 { rq with seq := 256 } 0, .clkRetry 0 rq 6, .clkBandTableWrite 0 { rq with seq := 256 } 0 [],
    .clkBandTableWrite 0 rq 6 [], .lnScanStart 0 { rq with seq := 256 } 0, .lnScanStart 0 rq 96, .portEnable 0 { rq with seq := 256 } 0,
    .portEnable 0 rq 96, .portDisable 0 { rq with seq := 256 } 0, .portDisable 0 rq 96, .portModeWrite 0 { rq with seq := 256 } 0 0,
    .portModeWrite 0 rq 96 0, .memMigrateNow 0 { rq with seq := 256 } 0, .onyxTraceClear 0 { rq with seq := 256 },
    .devResetReq 0 { rq with seq := 256 } 0, .secAttestNonce 0 { rq with seq := 256 } [], .repRankClear 0 { rq with seq := 256 } 0,
    .fastTableWrite 0 { rq with seq := 256 } [], .diagWinAddrWrite 0 { rq with seq := 256 } 0, .diagWinRead 0 { rq with seq := 256 },
    .diagWinWrite 0 { rq with seq := 256 } 0, .dieFabDecAddrRead 0 { rq with seq := 256 } 0, .dieFabDecAddrRead 0 rq 8,
    .polModeWrite 0 { rq with seq := 256 } 0 0, .polModeWrite 0 rq 2048 0, .remapWrite 0 8 0 false, .remapWrite 0 0 22 false] : List Instr).all (fun i => !i.wf) = true := by decide +kernel

theorem test_wf_refused_3 : ([
    .updBegin 0 { rq with seq := 256 } 0, .updChunk 0 { rq with seq := 256 } [], .updVerify 0 { rq with seq := 256 },
    .updActivate 0 { rq with seq := 256 }, .updConfirm 0 { rq with seq := 256 }, .arm 0 8 0, .arm 0 0 4096, .cancel 0 8 0,
    .cancel 0 0 4096, .flagSet 0 8 0 0, .flagSet 0 0 1024 0, .flagClear 0 8 0 0, .flagClear 0 0 1024 0, .onyxCycle 0 8,
    .taskRunComplete 0 8 0 0 .plain, .taskRunComplete 0 0 30 0 .plain, .tokenPush 0 8 0 0 0, .tokenPush 0 0 256 0 0, .tokenPop 0 8 0,
    .tokenPop 0 0 256, .queueHoldLimit 0 8 0, .queueHoldLimit 0 0 256, .coreFault 0 8 0 0, .coreFault 0 0 30 0,
    .coreSelfTestComplete 0 8 0 false, .coreSelfTestComplete 0 0 32 false, .frameBoundary 0 128, .rowStart 0 8 0 0, .rowStart 0 0 5 0,
    .ctuCoded 0 8 0 0 true [], .ctuCoded 0 0 5 0 true [], .guardCheck 0 8 0, .guardCheck 0 0 5, .rowCoded 0 8 0 [] (planes 0),
    .rowCoded 0 0 5 [] (planes 0), .rowDeadline 0 128 0 [], .pipelineFailure 0 8 0, .pipelineFailure 0 0 5, .stripMirrorArrival 0 128 0 0,
    .stripMirrorArrival 0 0 2 0] : List Instr).all (fun i => !i.wf) = true := by decide +kernel

theorem test_wf_refused_4 : ([
    .repairCopyRow 0 128 0 0, .confidenceCheckComplete 0 128 0 0 0 { first := planes 0, second := planes 0 }, .confidenceHoldRelease 0 128 0, .selfTestComplete 0 8 0 false,
    .selfTestComplete 0 0 5 false, .decodePictureComplete 0 128 false, .decodeOverrun 0 128, .layerFrameComplete 0 128,
    .contextFrameBoundary 0 32, .rowLockedJudgement 0 128, .lineDeadline 0 32 0 [], .packetLaunch 0 96, .packetEnqueue 0 96 0 0,
    .packetEnqueue 0 0 1024 0, .txFrameComplete 0 96, .calendarSlot 0 8, .gateOpening 0 96, .portCommitBoundary 0 96,
    .signatureComplete 0 128, .frameClockEdge 0 32 [], .audioBufferFetch 0 32, .delayResp 0 (sy 0) 8, .delayReq 0 8 0, .delayReq 0 0 96,
    .tsqExpiry 0 96, .announceReceiptTimeout 0 8, .syncTimeout 0 8, .mapChange 0 8, .stepInstant 0 8, .pllLockLost 0 8 0,
    .pllLockLost 0 0 6, .pllRefLost 0 8 0 0, .pllRefLost 0 0 6 0, .pllRefLost 0 0 0 4, .relockSettleEnd 0 8 0, .relockSettleEnd 0 0 6,
    .referenceReturn 0 8 0 0, .referenceReturn 0 0 6 0, .referenceReturn 0 0 0 4, .lockAchieved 0 8 0] : List Instr).all (fun i => !i.wf) = true := by decide +kernel

theorem test_wf_refused_5 : ([
    .lockAchieved 0 0 6, .lockAttemptTimeout 0 8 0, .lockAttemptTimeout 0 0 6, .lockConfirmed 0 8 0, .lockConfirmed 0 0 6,
    .islandSwitchBack 0 8 0 0, .islandSwitchBack 0 0 6 0, .clkCommitBoundary 0 6, .refclkSysLost 0 8, .signalDetect 0 96,
    .autoNegotiationPage 0 96 0 false, .anegTimeout 0 96, .trainingDone 0 96 false false false 0 0, .trainingTimeout 0 96,
    .trainingRetry 0 96, .alignmentLock 0 96, .alignmentHeld 0 96, .signalDetectLoss 0 96, .alignmentLoss 0 96,
    .uncorrectableWindow 0 96 0 0, .frameRx 0 96 (frame 64 true false 0), .fecSecond 0 96 0 0 0 [], .eyeScanPointDone 0 96 0 0,
    .budgetEpoch 0 8, .fabricRequest 0 8 (req 0 none), .flitCrcError 0 8 0 0 0 0 0, .flitCrcError 0 0 4 0 0 0 0,
    .flitCrcError 0 0 0 2 0 0 0, .flitCrcError 0 0 0 0 8 0 0, .wireErrorSecond 0 8 0 0 0 0 0, .wireErrorSecond 0 0 4 0 0 0 0,
    .wireErrorSecond 0 0 0 2 0 0 0, .wireErrorSecond 0 0 0 0 8 0 0, .masterReset 0 8 0, .masterReset 0 0 22, .isolationEnd 0 8 0,
    .isolationEnd 0 0 22, .mr4Poll 0 8 0 [], .mr4Poll 0 0 2 [], .wckOscillatorRead 0 8 0] : List Instr).all (fun i => !i.wf) = true := by decide +kernel

theorem test_wf_refused_6 : ([
    .wckOscillatorRead 0 0 2, .patrolScrub 0 8 0 0, .patrolScrub 0 0 2 0, .migrationCopyBurst 0 8 0 0, .migrationCopyBurst 0 0 2 0,
    .dramTrainingComplete 0 8 [], .thermalSample 0 8 [], .voltageSample 0 8 [] false, .domainFault 0 8 0, .domainFault 0 0 48,
    .fastTableUpdate 0 8, .forwardResponse 0 8, .forwardTimeout 0 8, .sramSelfTestComplete 0 8 [], .domainRegulationReached 0 8 0,
    .domainRegulationReached 0 0 48, .fastExitBurstEnd 0 96] : List Instr).all (fun i => !i.wf) = true := by decide +kernel

/-- Each command with its operands at the ends of their ranges is well-formed. -/
theorem test_wf_bounds_1 : ([
    .read 0 rq 65535 255 false, .write 0 rq 65535 255 (List.replicate 1400 0), .writeInit 0 rq 65535 255 0,
    .writeSeg 0 rq 65535 255 0 (List.replicate 1400 0), .readSeg 0 rq 65535 255 0, .fastRead 0 rq 0 0, .describe 0 rq 65535 255,
    .registerWrite 0 rq 65535 255 (List.replicate 1400 0), .shadowWrite 0 rq 65535 255 (List.replicate 1400 0), .chControlStart 0 rq 127,
    .chControlStop 0 rq 127, .chCommit 0 rq 127, .cxCommit 0 rq 31, .auCommit 0 rq 31, .portCommit 0 rq 95, .clkCommit 0 rq 5,
    .memCommit 0 rq, .encRefreshNow 0 rq 127, .tbStep 0 rq 7 0, .tbStepToMaster 0 rq 7, .clkBandCal 0 rq 5 31, .clkRetry 0 rq 5,
    .clkBandTableWrite 0 rq 5 [], .lnScanStart 0 rq 95, .portEnable 0 rq 95, .portDisable 0 rq 95, .portModeWrite 0 rq 95 0,
    .memMigrateNow 0 rq 0, .onyxTraceClear 0 rq, .devResetReq 0 rq 0, .secAttestNonce 0 rq [], .repRankClear 0 rq 0,
    .fastTableWrite 0 rq [], .diagWinAddrWrite 0 rq 0, .diagWinRead 0 rq, .diagWinWrite 0 rq 0, .dieFabDecAddrRead 0 rq 7,
    .polModeWrite 0 rq 2047 0, .remapWrite 0 7 21 false, .updBegin 0 rq 0] : List Instr).all (fun i => i.wf) = true := by decide +kernel

theorem test_wf_bounds_2 : ([
    .updChunk 0 rq [], .updVerify 0 rq, .updActivate 0 rq, .updConfirm 0 rq, .arm 0 7 4095, .cancel 0 7 4095, .flagSet 0 7 1023 0,
    .flagClear 0 7 1023 0, .onyxCycle 0 7, .taskRunComplete 0 7 29 0 .plain, .tokenPush 0 7 255 0 0, .tokenPop 0 7 255,
    .queueHoldLimit 0 7 255, .coreFault 0 7 29 0, .coreSelfTestComplete 0 7 31 false, .frameBoundary 0 127, .rowStart 0 7 4 0,
    .ctuCoded 0 7 4 0 true [], .guardCheck 0 7 4, .rowCoded 0 7 4 [] (planes 0), .rowDeadline 0 127 0 [], .pipelineFailure 0 7 4,
    .stripMirrorArrival 0 127 1 0, .repairCopyRow 0 127 0 0, .confidenceCheckComplete 0 127 0 0 0 { first := planes 0, second := planes 0 }, .confidenceHoldRelease 0 127 0,
    .selfTestComplete 0 7 4 false, .decodePictureComplete 0 127 false, .decodeOverrun 0 127, .layerFrameComplete 0 127,
    .contextFrameBoundary 0 31, .rowLockedJudgement 0 127, .lineDeadline 0 31 0 [], .packetLaunch 0 95, .packetEnqueue 0 95 1023 0,
    .txFrameComplete 0 95, .calendarSlot 0 7, .gateOpening 0 95, .portCommitBoundary 0 95, .signatureComplete 0 127] : List Instr).all (fun i => i.wf) = true := by decide +kernel

theorem test_wf_bounds_3 : ([
    .frameClockEdge 0 31 [], .audioBufferFetch 0 31, .delayResp 0 (sy 0) 7, .delayReq 0 7 95, .tsqExpiry 0 95, .announceReceiptTimeout 0 7,
    .syncTimeout 0 7, .mapChange 0 7, .stepInstant 0 7, .pllLockLost 0 7 5, .pllRefLost 0 7 5 3, .relockSettleEnd 0 7 5,
    .referenceReturn 0 7 5 3, .lockAchieved 0 7 5, .lockAttemptTimeout 0 7 5, .lockConfirmed 0 7 5, .islandSwitchBack 0 7 5 0,
    .clkCommitBoundary 0 5, .refclkSysLost 0 7, .signalDetect 0 95, .autoNegotiationPage 0 95 0 false, .anegTimeout 0 95,
    .trainingDone 0 95 false false false 0 0, .trainingTimeout 0 95, .trainingRetry 0 95, .alignmentLock 0 95, .alignmentHeld 0 95,
    .signalDetectLoss 0 95, .alignmentLoss 0 95, .uncorrectableWindow 0 95 0 0, .frameRx 0 95 (frame 64 true false 0),
    .fecSecond 0 95 0 0 0 [], .eyeScanPointDone 0 95 0 0, .budgetEpoch 0 7, .fabricRequest 0 7 (req 0 none), .flitCrcError 0 7 3 1 7 0 0,
    .wireErrorSecond 0 7 3 1 7 0 0, .masterReset 0 7 21, .isolationEnd 0 7 21, .mr4Poll 0 7 1 []] : List Instr).all (fun i => i.wf) = true := by decide +kernel

theorem test_wf_bounds_4 : ([
    .wckOscillatorRead 0 7 1, .patrolScrub 0 7 1 0, .migrationCopyBurst 0 7 1 0, .dramTrainingComplete 0 7 [], .thermalSample 0 7 [],
    .voltageSample 0 7 [] false, .domainFault 0 7 47, .fastTableUpdate 0 7, .forwardResponse 0 7, .forwardTimeout 0 7,
    .sramSelfTestComplete 0 7 [], .domainRegulationReached 0 7 47, .fastExitBurstEnd 0 95] : List Instr).all (fun i => i.wf) = true := by decide +kernel

/-! ### Results the spec works out -/

/-- The objects located in "Locating one resource's objects". -/
theorem test_locating : Ob.RcBitrate 127 = objKey 0x2FEB 0x01 ∧ Ob.CxCommit 27 = objKey 0x30D8 0x11 ∧ Ob.LyGrace 77 = objKey 0x319A 0x10 ∧
    Ob.DecState 77 = objKey 0x319B 0x48 ∧ Ob.AuSlotMask 29 = objKey 0x323A 0x0A ∧ Ob.PortMode 57 = objKey 0x3372 0x30 ∧
    Ob.PolCir 1234 = objKey 0x349A 0x43 ∧ strideIdx 0x3900 1 96 95 = 0x395F := by decide +kernel

/-- The frame, the lines and the bounds of CH020 at 8K120 (R136, R137, R139, R160). -/
def ch020 : Fig := { figOf (fun _ => .int 0) 20 with
  wd := 7680, ht := 4320, rn := 120, rd := 1, lat := 2, codec := 1, prof := 1, refs := 2, mode := 1, band := 2, rate := 200000000, guard := usU 8 }

theorem test_ch020_bytes : ch020.tiles = 4 ∧ ch020.ctus = 30 ∧ ch020.rows = 68 ∧ budgetOf 200000000 120 1 0 = 208333 ∧
    lineOf 208333 4320 68 0 = 3086 ∧ lineOf 208333 4320 68 1 = 6172 ∧ lineOf 208333 4320 68 20 = 64814 ∧ lineOf 208333 4320 68 66 = 206789 ∧
    ch020.cpb 200000000 = 51616 ∧ ch020.floorRow 2 = 64 + 944 + 4 * ch020.sliceHdr := by
  refine ⟨by decide +kernel, by decide +kernel, by decide +kernel, by decide +kernel, by decide +kernel, by decide +kernel, by decide +kernel,
    by decide +kernel, by decide +kernel, ?_⟩
  have : ch020.rowCtus = 120 := by decide +kernel
  have ht : ch020.tiles = 4 := by decide +kernel
  simp only [Fig.floorRow, this, ht]

/-- The instants of one 8K120 frame (R47 to R55), in whole nanoseconds. -/
theorem test_ch020_times : ch020.slotEnd 0 / 65536 = 123456 ∧ (ch020.slotEnd 0 + nsU 9500) / 65536 = 132956 ∧ ch020.buffered 0 / 65536 = 137456 ∧
    (ch020.deadline 0 - ch020.guard) / 65536 = 252913 ∧ ch020.deadline 0 / 65536 = 260913 ∧ (ch020.outSlot 0).1 / 65536 = 286913 ∧
    (ch020.outSlot 0).2 / 65536 = 410370 := by decide +kernel

/-- The buffer of a 4K picture, and the retransmission tags (R165, R279). -/
theorem test_buffers_and_tags : bufferBytes 3840 2160 3840 = 22740992 ∧ 1418 * 65536 / max 1 100 = 929300 ∧
    ({ tokens := -2910 * 65536, at_ := nsU 720, rate := 1000000000 } : Cls).eligible = nsU 24000 ∧
    ({ tokens := -2910 * 65536, at_ := nsU 720, rate := 1000000000 } : Cls).count (nsU 10000) = -1750 * 65536 := by decide +kernel

/-- The grant of a controller and what its shares leave (R371, R426). -/
theorem test_grant : grantBytes 9600 16 false = 921600 ∧ 921600 * up.sys.share 0 / 1000 = 92160 ∧
    921600 - ((List.range 22).map fun h => 921600 * up.sys.share h / 1000).foldl (· + ·) 0 = 260813 := by decide +kernel

/-- The PREEMPT record of the worked example, on die 0 (R409). -/
theorem test_trace : ((((on fun y => sets [(Ob.OnyxTraceEnable, 1), (Ob.OnyxTraceMask, 2 ^ 3)] { y with now := nsU 73016255636 }).sys.trace 0 3 7 0x2C5 3).onyx 0).trace) =
    [(0, 0x19CB1403001BA494)] := by decide +kernel

/-- The placements worked out for a ZP-PG2 (R39 to R41): CH000 at 4K120, CH001 at 1080p120, CH002 at 8K120 and CH003 at 8K60. -/
def fig (n wd ht rn : Nat) : Fig := { figOf (fun _ => .int 0) n with wd := wd, ht := ht, rn := rn, rd := 1, lat := 2, rate := 20000000 }
def placed (l : List (Nat × List (Nat × Nat) × Nat)) : Sys :=
  l.foldl (fun y e => y.setChan e.1 { run := 2, die := (e.2.1.head?.map Prod.fst).getD 0, pipes := e.2.1, share := e.2.2 }) (pair up.sys)
def place (y : Sys) (f : Fig) : Option (Nat × List (Nat × Nat)) := bestPlacement (y.placements f f.rate 0xFF (fun _ => true) none)

theorem test_placement : place (placed []) (fig 0 3840 2160 120) = some (0, [(0, 0)]) ∧
    place (placed [(0, [(0, 0)], 4)]) (fig 1 1920 1080 120) = some (0, [(0, 1)]) ∧
    place (placed [(0, [(0, 0)], 4), (1, [(0, 1)], 1)]) (fig 2 7680 4320 120) = some (1, [(1, 0), (1, 1), (1, 2), (1, 3)]) ∧
    place (placed [(0, [(0, 0)], 4), (1, [(0, 1)], 1), (2, [(1, 0), (1, 1), (1, 2), (1, 3)], 4)]) (fig 3 7680 4320 60) = some (0, [(0, 2), (0, 3)]) ∧
    place (placed [(0, [(0, 0)], 4), (1, [(0, 1)], 1), (2, [(1, 0), (1, 1), (1, 2), (1, 3)], 4), (3, [(0, 2), (0, 3)], 4)]) (fig 4 3840 2160 120) = none ∧
    place (placed [(0, [(0, 0)], 4), (1, [(0, 1)], 1), (2, [(1, 0), (1, 1), (1, 2), (1, 3)], 4), (3, [(0, 2), (0, 3)], 4)]) (fig 4 1920 1080 120) =
      some (0, [(0, 1)]) := by decide +kernel

/-- The messages of "A bitrate change over UDP" (R442 to R444). -/
theorem test_answers : (answerTo (reqMsg 0x02 { rq with seq := 0x31 } 0x24A0 0x05 0 [1]) (.error (6, 0x0B21))) =
      { cmd := 0xFF, seq := 0x31, idx := 0x24A0, sub := 5, flags := 0, data := [6, 0, 0x21, 0x0B] } ∧
    answerTo (reqMsg 0x02 { rq with seq := 0x30 } 0x24AB 0x01 0 [0, 0x0E, 0x27, 0x07]) (.ok (0x82, [])) =
      { cmd := 0x82, seq := 0x30, idx := 0x24AB, sub := 1, flags := 0, data := [] } ∧ leBytes 4 120000000 = [0, 0x0E, 0x27, 0x07] := by decide +kernel

/-- The check value of CRC-32C, whose polynomial and initial value are R129's, over "123456789"; and SHAKE256 of no bytes, as FIPS 202 gives it. -/
theorem test_digests : crc32c [0x31, 0x32, 0x33, 0x34, 0x35, 0x36, 0x37, 0x38, 0x39] = 0xE3069283 ∧
    crc16 [0x31, 0x32, 0x33, 0x34, 0x35, 0x36, 0x37, 0x38, 0x39] = 0x29B1 ∧ (shake256 []).take 8 = [0x46, 0xB9, 0xDD, 0x2B, 0x0B, 0xA8, 0x8D, 0x13] := by
  decide +kernel

/-- The middle eye of L04: 32 phases by 32 voltages, and what the eligible count reads (R364, R365). -/
theorem test_eye : stepsIn (-32) 30 2 * stepsIn (-64) 60 4 = 1024 ∧ 67108864 / 1024 = 65536 := by decide +kernel

/-- The raster of a wide layer, in its store: 2,025 blocks of 64 KiB (R195). -/
theorem test_store : blockUp (4 * 15360 * 2160) = 132710400 := by decide +kernel

/-- No word spells a command; a word leaves the queue alone. -/
theorem test_words : decodeTableWord 32 0 = none ∧ State.reset.withFetchWord 32 0 = State.reset := by decide +kernel

/-! ### The package (R511, R514, R521: the spec's worked examples) -/

theorem test_ball_of_L45 : ballOf 8 3 36 = (91, 37) ∧ ballOf 4 3 36 = (67, 37) ∧ signalAt 3 36 = some (.lane 45 0) := by decide

theorem test_ball_of_PWRON : [2, 4, 8].map (fun n => ballOf n 0 376) = [(8, 13), (12, 3), (17, 9)] ∧ signalAt 0 376 = some (.system 0) := by
  decide

theorem test_rails_of_PG8 : [Rail.vss, .vinCore, .vddDphy, .vddqDdr, .vddhSer, .vddSer, .vddio18, .vddAo, .vdda18].map
    (fun r => ((List.range 1058).filter fun i => railAt i == some r).length) = [322, 201, 40, 20, 20, 20, 7, 7, 6] := by decide +kernel

theorem test_greatest_dissipation : (DieLoad.watts ⟨100, [104 / 100, 104 / 100, 104 / 100, 104 / 100], 21 / 10, 416 / 100,
    List.replicate 12 (10625 / 100), [1, 1], 1⟩) = 105 / 2 := by decide +kernel

end Sys2Proof.Tests
end

/-! PROOFS. The QP bounds of a channel (05_rate_control.md, R157): what a refused write answers, how the bounds are stored, and the check of
a start that holds them in order. -/

namespace Sys2Proof.Machine

/-! ### Writes that are refused -/

/-- A served write that `writeObject` refuses is answered with that abort, in whatever command its bytes arrived. -/
theorem request_write_refused {dt : Nat} {rq : Req} {idx sub bytes : Nat} {b : List Byte} {s : State} {z y : Sys} {e : Nat × Nat}
    (h : Serves dt rq.src (writeMsg rq idx sub b) bytes s z)
    (hw : writeObject rq.src idx sub b (s.mem, s.flash, z) = (some e, (s.mem, s.flash, y))) :
    actMem dt (onAll (request rq 0x02 idx sub 0 b bytes (serveWrite rq.src 0x82 idx sub b))) s =
      .next { s with sys := z.reply rq.src (writeMsg rq idx sub b) (answerTo (writeMsg rq idx sub b) (.error e)) y } := by
  have hs : serveWrite rq.src 0x82 idx sub b (s.mem, s.flash, z) = (.error e, (s.mem, s.flash, y)) := by
    simp only [serveWrite, hw]
  rw [actMem_eq]
  simp only [onAll, request_served h, hs, Full.map]
  rfl

/-- A write whose bytes are no value of the object is refused before anything else happens. -/
theorem writeObject_undecodable {src : Src} {idx sub : Nat} {b : List Byte} {m fl : List Host.Cell} {z : Sys} {l : Loc} {e : Nat}
    (hl : locate z.part.dies idx sub = some l) (ha : l.row.acc ≠ .ro ∧ l.row.acc ≠ .const) (hv : decodeWrite l b = .error e) :
    writeObject src idx sub b (m, fl, z) = (some (e, 0), (m, fl, z)) := by
  have hw : writableAt z.part.dies idx sub = .ok l := by
    simp only [writableAt, hl, ha.1, ha.2, or_self, if_false]
  simp only [writeObject, hw, hv]

/-! ### RcQpMin and RcQpMax as objects -/

/-- A byte above the upper end of its object's range is no value of the object. -/
theorem decodeVal_u8_above {r : ObjRow} {lo hi step : Int} {v : Byte} (ht : r.ty = .u8) (hr : r.rng = .span lo hi step)
    (hv : hi < v.toNat) : decodeVal r [v] = .error 4 := by
  have hout : ¬((v.toNat : Int) ≤ hi) := Int.not_le.mpr hv
  simp [decodeVal, lengthOk, ht, hr, Ty.size, Ty.signed, leNat, Rng.admits, hout]

/-- RcQpMin and RcQpMax are writable bytes with the range 0 to 63. -/
theorem locate_qpBound {dies c sub : Nat} (hc : c < 128) (hd : c < 16 * dies) (hs : sub = 2 ∨ sub = 3) :
    ∃ row, locate dies (strideIdx 0x200B 0x20 128 c) sub = some ⟨0x200B, c, sub, row⟩ ∧
      row.ty = .u8 ∧ row.acc = .rw ∧ row.rng = .span 0 63 1 := by
  have hsplit := split_chan dies c sub 0x0B hc (by decide) (by decide)
  rcases hs with rfl | rfl
  · exact ⟨_, locate_at hsplit (by decide) (by decide) hd (by decide) rfl, rfl, rfl, rfl⟩
  · exact ⟨_, locate_at hsplit (by decide) (by decide) hd (by decide) rfl, rfl, rfl, rfl⟩

/-- A write of either QP bound above 63 is refused and changes nothing (R36, R157). -/
theorem write_qpBound_above {src : Src} {m fl : List Host.Cell} {z : Sys} {c sub : Nat} {v : Byte} (hc : c < 128)
    (hd : c < 16 * z.part.dies) (hs : sub = 2 ∨ sub = 3) (hv : 63 < v.toNat) :
    writeObject src (strideIdx 0x200B 0x20 128 c) sub [v] (m, fl, z) = (some (4, 0), (m, fl, z)) := by
  obtain ⟨row, hl, hty, hacc, hrng⟩ := locate_qpBound hc hd hs
  have hdec : decodeWrite ⟨0x200B, c, sub, row⟩ [v] = .error 4 := decodeVal_u8_above hty hrng (by exact_mod_cast hv)
  exact writeObject_undecodable hl (by simp [hacc]) hdec

/-! ### The check of a start -/

/-- Check 2 of a start fails when the QP bounds are out of order. -/
theorem Sys.check2_qpCrossed {y : Sys} {n : Nat} (f : Fig)
    (h : (y.startVal n (Ob.RcQpMax n)).nat < (y.startVal n (Ob.RcQpMin n)).nat) : y.check2 n f = false := by
  simp only [Sys.check2, decide_eq_false (Nat.not_le.mpr h), Bool.and_false]

/-- A start that fails check 2 is refused by it or by check 1, both with the "value out of range" abort (R472). -/
theorem Sys.tryStart_check2 {y : Sys} {n : Nat} (h : y.check2 n (y.startFig n) = false) :
    ∃ k, y.tryStart n = y.startRefused n k 4 := by
  cases h1 : y.check1 n (y.startFig n) with
  | false => exact ⟨1, by simp only [Sys.tryStart, firstFail, h1, Bool.false_eq_true, if_false]⟩
  | true => exact ⟨2, by simp only [Sys.tryStart, firstFail, h1, h, Bool.false_eq_true, if_true, if_false]⟩

/-- A start of a stopped channel whose QP bounds are out of order is refused, and only ChStartCheck is set. -/
theorem chControl_start_qpCrossed {z : Sys} {c : Nat} (hrun : (z.finishStops.chan c).run = 0)
    (h : (z.finishStops.startVal c (Ob.RcQpMax c)).nat < (z.finishStops.startVal c (Ob.RcQpMin c)).nat) :
    ∃ k : Nat, z.chControl c 1 = (some (4, 0), z.finishStops.setInt (Ob.ChStartCheck c) k) := by
  obtain ⟨k, hk⟩ := Sys.tryStart_check2 (Sys.check2_qpCrossed _ h)
  refine ⟨k, ?_⟩
  simp only [Sys.chControl, Sys.chStart, if_true, hrun, hk, Sys.startRefused, abortWith]

/-! ### The obligation -/

/-- Settles O59: a start with crossed bounds fails check 2, so check 1 or 2 refuses it and touches ChStartCheck alone; a byte above 63 is
outside the range of either object, so a write of it is refused where its value is read. -/
theorem qpBoundsChecked : Obligations.QpBoundsChecked := by
  refine ⟨?_, ?_⟩
  · intro dt c rq s z hc hd hserves hrun hcross
    obtain ⟨k, hk⟩ := chControl_start_qpCrossed hrun hcross
    have hw : writeObject rq.src (strideIdx 0x2000 0x20 128 c) 0x01 [1] (s.mem, s.flash, z) =
        (some (4, 0), (s.mem, s.flash, z.finishStops.setInt (Ob.ChStartCheck c) k)) := by
      rw [write_chStart c hc hd, plainWrite, hk]
    exact ⟨_, request_write_refused hserves hw, rfl, rfl, fun j hj => Sys.setInt_other _ _ j _ hj⟩
  · intro dt c sub v rq s z hc hd hsub hv
    have hw := write_qpBound_above (src := rq.src) (m := s.mem) (fl := s.flash) hc hd hsub hv
    exact ⟨fun hserves => request_write_refused hserves hw, fun hserves => request_write_refused hserves hw⟩

end Sys2Proof.Machine

/-! PROOFS. The package's frame clock (08_audio_ports.md, R226): AuTimeBase and AuFrameRate as objects, and what their write answers while an
audio port is enabled. -/

namespace Sys2Proof.Machine

/-- AuTimeBase and AuFrameRate are writable bytes, one of each in the package. -/
theorem locate_frameClock (dies : Nat) {sub : Nat} (hs : sub = 1 ∨ sub = 2) :
    ∃ row, locate dies 0x3280 sub = some ⟨0x3280, 0, sub, row⟩ ∧ row.ty = .u8 ∧ row.acc = .rw := by
  rcases hs with rfl | rfl
  · exact ⟨_, locate_at rfl (by decide) (by decide) Nat.zero_lt_one (by decide) rfl, rfl, rfl⟩
  · exact ⟨_, locate_at rfl (by decide) (by decide) Nat.zero_lt_one (by decide) rfl, rfl, rfl⟩

/-- A byte is the value of a U8 object when the object's range admits it, and out of range otherwise (R437, R525). -/
theorem decodeVal_u8 {r : ObjRow} (ht : r.ty = .u8) (v : Byte) :
    decodeVal r [v] = if r.rng.admits v.toNat then .ok (.int v.toNat) else .error 4 := by
  simp [decodeVal, lengthOk, ht, Ty.size, Ty.signed, leNat]

/-- The frame clock keeps its settings while an audio port of the package is enabled (R226). -/
theorem Sys.frameClockWrite_enabled {y : Sys} {p : Nat} (k v : Nat) (hp : p < 4 * y.part.dies) (hen : y.flag (Ob.AuEnable p) = true) :
    y.frameClockWrite k v = abortWith 4 y := by
  have hany : ((List.range (4 * y.part.dies)).any fun a => y.flag (Ob.AuEnable a) || (y.au a).on) = true :=
    List.any_eq_true.mpr ⟨p, List.mem_range.mpr hp, by rw [hen, Bool.true_or]⟩
  rw [Sys.frameClockWrite, if_pos hany]

/-- A value written to an object of the frame clock is a write of the frame clock (R226). -/
theorem writeValue_frameClock {src : Src} {key sub : Nat} {row : ObjRow} {v : Val} {f : Full} (hs : sub = 1 ∨ sub = 2) :
    writeValue src key ⟨0x3280, 0, sub, row⟩ v f = plainWrite (Sys.frameClockWrite key v.nat) f := by
  rcases hs with rfl | rfl <;> rfl

/-- While an audio port is enabled, a byte written to AuTimeBase or AuFrameRate is refused and changes nothing, be it within the object's
range or not (R226). -/
theorem write_frameClock_enabled {src : Src} {m fl : List Host.Cell} {z : Sys} {p sub : Nat} {v : Byte} (hp : p < 4 * z.part.dies)
    (hen : z.flag (Ob.AuEnable p) = true) (hs : sub = 1 ∨ sub = 2) :
    writeObject src 0x3280 sub [v] (m, fl, z) = (some (4, 0), (m, fl, z)) := by
  obtain ⟨row, hl, hty, hacc⟩ := locate_frameClock z.part.dies hs
  have hrw : row.acc ≠ .ro ∧ row.acc ≠ .const := by simp [hacc]
  by_cases hin : row.rng.admits v.toNat = true
  · have hdec : decodeWrite ⟨0x3280, 0, sub, row⟩ [v] = .ok (.int v.toNat) := (decodeVal_u8 hty v).trans (if_pos hin)
    have hkey : objKey 0x3280 sub ≠ Ob.SensLimitTemp := by
      simp only [objKey, Ob.SensLimitTemp]
      omega
    rw [writeObject_value hl hrw hdec (not_barred (Or.inl (show (0x3280 : Nat) ≠ 0x3300 by decide)) hkey), writeValue_frameClock hs, plainWrite,
      Sys.frameClockWrite_enabled _ _ hp hen, abortWith]
  · have hdec : decodeWrite ⟨0x3280, 0, sub, row⟩ [v] = .error 4 := (decodeVal_u8 hty v).trans (if_neg hin)
    exact writeObject_undecodable hl hrw hdec

/-- Settles O58: the write of an object of the frame clock looks at every audio port of the package, and one that is enabled refuses it; a
byte outside the object's range has been refused with the same abort before. -/
theorem frameClockStands : Obligations.FrameClockStands := by
  intro dt p sub v rq s z hp hen hsub
  have hw := write_frameClock_enabled (src := rq.src) (m := s.mem) (fl := s.flash) (v := v) hp hen hsub
  exact ⟨fun hserves => request_write_refused hserves hw, fun hserves => request_write_refused hserves hw⟩

end Sys2Proof.Machine

/-! PROOFS. Writes that do nothing (17_beryl_management.md, R527): which objects are write-only BOOLs, what a zero written to one of them
answers, and the values DevResetReq takes. -/

namespace Sys2Proof.Machine

/-! ### Writes that are accepted -/

/-- A served write that `writeObject` accepts, leaving package memory and the flash alone, gets a normal response, in whatever command its
bytes arrived. -/
theorem request_write_accepted {dt : Nat} {rq : Req} {idx sub bytes : Nat} {b : List Byte} {s : State} {z y : Sys}
    (h : Serves dt rq.src (writeMsg rq idx sub b) bytes s z)
    (hw : writeObject rq.src idx sub b (s.mem, s.flash, z) = (none, (s.mem, s.flash, y))) :
    actMem dt (onAll (request rq 0x02 idx sub 0 b bytes (serveWrite rq.src 0x82 idx sub b))) s =
      .next { s with sys := z.reply rq.src (writeMsg rq idx sub b) (written (writeMsg rq idx sub b)) y } := by
  have hs : serveWrite rq.src 0x82 idx sub b (s.mem, s.flash, z) = (.ok (0x82, []), (s.mem, s.flash, y)) := by
    simp only [serveWrite, hw]
  rw [actMem_eq]
  simp only [onAll, request_served h, hs, Full.map]
  rfl

/-- No object refuses a zero of its range: it is no group's MAC address and no temperature above a limit. -/
theorem Sys.valueBarred_zero (y : Sys) (key : Nat) (l : Loc) : y.valueBarred key l (.int 0) = false := by
  have hlimit : ¬((100 + 5 * y.part.grade : Nat) : Int) < 0 := by omega
  have hgroup : bit (((Val.int 0).toBytes.headD 0).toNat) 0 = false := rfl
  rw [Sys.valueBarred, hgroup, show (Val.int 0).toInt = 0 from rfl, decide_eq_false hlimit, Bool.and_false, Bool.and_false, Bool.or_false]

/-! ### The row an object is found by -/

/-- The row found for a subindex is one of the rows, and covers the subindex. -/
theorem rowFor_covers {base dies sub : Nat} {rows : List ObjRow} {r : ObjRow} (h : rowFor base dies sub rows = some r) :
    r ∈ rows ∧ r.sub ≤ sub ∧ sub < r.sub + r.span base dies := by
  induction rows with
  | nil => cases h
  | cons x xs ih =>
    rw [rowFor] at h
    split at h
    case isTrue hcov =>
      cases h
      exact ⟨List.mem_cons_self, hcov⟩
    case isFalse =>
      obtain ⟨hmem, hcov⟩ := ih h
      exact ⟨List.mem_cons_of_mem x hmem, hcov⟩

/-- The rows of a table index stand in the dictionary. -/
theorem mem_dictionary_of_mem_rowsOf {base : Nat} {r : ObjRow} (h : r ∈ rowsOf base) : ∃ e ∈ dictionary, e.1 = base ∧ r ∈ e.2 := by
  rw [rowsOf] at h
  split at h
  case h_1 e he => exact ⟨e, List.mem_of_find?_eq_some he, by simpa using List.find?_some he, h⟩
  case h_2 => cases h

/-- An object that is not the CONST at subindex 0 has the row of its table index that covers its subindex. -/
theorem locate_row {dies idx sub : Nat} {l : Loc} (h : locate dies idx sub = some l) (hc : l.row.acc ≠ .const) :
    rowFor l.base dies l.sub (rowsOf l.base) = some l.row := by
  unfold locate at h
  dsimp only at h
  split at h
  case isTrue =>
    split at h
    · cases h
    · cases h
      exact absurd rfl hc
  case isFalse =>
    split at h
    · cases h
    · split at h
      case h_1 r hr =>
        cases h
        exact hr
      case h_2 => cases h

/-! ### Write-only BOOLs -/

/-- The write-only BOOLs of the dictionary, by table index and subindex: the commits, and the commands that take no value. -/
def writeOnlyBools : List (Nat × Nat) :=
  [(0x2000, 0x05), (0x2009, 0x11), (0x3000, 0x11), (0x3200, 0x14), (0x3300, 0x0A), (0x3500, 0x11), (0x3600, 0x04), (0x3700, 0x05),
   (0x3800, 0x07), (0x3800, 0x0A), (0x3900, 0x28), (0x6020, 0x04), (0x6020, 0x05), (0x6020, 0x06)]

/-- Every write-only BOOL of the dictionary is listed, is a row of one subindex, and has no range but its type's. -/
theorem dictionary_writeOnlyBool : ∀ e ∈ dictionary, ∀ r ∈ e.2, r.acc = .wo → r.ty = .bool →
    (e.1, r.sub) ∈ writeOnlyBools ∧ r.cnt = 1 ∧ r.rng = .any := by
  decide

/-- A write-only BOOL, wherever it is found, is one of the list. -/
theorem locate_writeOnlyBool {dies idx sub : Nat} {l : Loc} (h : locate dies idx sub = some l) (hacc : l.row.acc = .wo)
    (hty : l.row.ty = .bool) : (l.base, l.sub) ∈ writeOnlyBools ∧ l.row.rng = .any := by
  obtain ⟨hrow, hlo, hhi⟩ := rowFor_covers (locate_row h (by simp [hacc]))
  obtain ⟨e, he, hbase, hr⟩ := mem_dictionary_of_mem_rowsOf hrow
  obtain ⟨hmem, hcnt, hrng⟩ := dictionary_writeOnlyBool e he l.row hr hacc hty
  have hspan : l.row.span l.base dies = 1 := by simp [ObjRow.span, hcnt]
  have hsub : l.row.sub = l.sub := by omega
  exact ⟨by rwa [hbase, hsub] at hmem, hrng⟩

/-- A zero byte is the value of a BOOL without a range of its own. -/
theorem decodeVal_bool_zero {r : ObjRow} (ht : r.ty = .bool) (hr : r.rng = .any) : decodeVal r [0] = .ok (.int 0) := by
  simp [decodeVal, lengthOk, ht, hr, Ty.size, Ty.signed, leNat, Rng.admits]

/-- A zero byte written to a write-only BOOL is read as its value: none of them is the chunk of an update. -/
theorem decodeWrite_writeOnlyBool_zero {l : Loc} (hmem : (l.base, l.sub) ∈ writeOnlyBools) (ht : l.row.ty = .bool)
    (hr : l.row.rng = .any) : decodeWrite l [0] = .ok (.int 0) := by
  have hchunk : ¬(l.base = 0x6020 ∧ l.sub = 0x03 ∧ ([0] : List Byte).length ≤ 65536) := by
    rintro ⟨hb, hs, -⟩
    rw [hb, hs] at hmem
    exact absurd hmem (by decide)
  rw [decodeWrite, if_neg hchunk, decodeVal_bool_zero ht hr]

/-- Each write-only BOOL acts on 1 alone: a zero is accepted and leaves everything as it was (R527). -/
theorem writeValue_writeOnlyBool_zero {src : Src} {key : Nat} {l : Loc} (h : (l.base, l.sub) ∈ writeOnlyBools) (f : Full) :
    writeValue src key l (.int 0) f = (none, f) := by
  obtain ⟨base, inst, sub, row⟩ := l
  simp only [writeOnlyBools, List.mem_cons, Prod.mk.injEq, List.not_mem_nil, or_false] at h
  rcases h with ⟨rfl, rfl⟩ | ⟨rfl, rfl⟩ | ⟨rfl, rfl⟩ | ⟨rfl, rfl⟩ | ⟨rfl, rfl⟩ | ⟨rfl, rfl⟩ | ⟨rfl, rfl⟩ | ⟨rfl, rfl⟩ | ⟨rfl, rfl⟩ |
    ⟨rfl, rfl⟩ | ⟨rfl, rfl⟩ | ⟨rfl, rfl⟩ | ⟨rfl, rfl⟩ | ⟨rfl, rfl⟩ <;> rfl

/-- A write of zero to a write-only BOOL is accepted and does nothing (R527). -/
theorem write_writeOnlyBool_zero {src : Src} {idx sub : Nat} {m fl : List Host.Cell} {z : Sys} {l : Loc}
    (hl : locate z.part.dies idx sub = some l) (hacc : l.row.acc = .wo) (hty : l.row.ty = .bool) :
    writeObject src idx sub [0] (m, fl, z) = (none, (m, fl, z)) := by
  obtain ⟨hmem, hrng⟩ := locate_writeOnlyBool hl hacc hty
  rw [writeObject_value hl (by simp [hacc]) (decodeWrite_writeOnlyBool_zero hmem hty hrng) (Sys.valueBarred_zero _ _ _),
    writeValue_writeOnlyBool_zero hmem]

/-! ### DevResetReq -/

/-- DevResetReq is a write-only byte that takes 0 and 1. -/
theorem locate_resetReq (dies : Nat) :
    ∃ row, locate dies 0x1005 0x01 = some ⟨0x1005, 0, 0x01, row⟩ ∧ row.ty = .u8 ∧ row.acc = .wo ∧ row.rng = .oneOf [0, 1] :=
  ⟨_, locate_at rfl (by decide) (by decide) Nat.zero_lt_one (by decide) rfl, rfl, rfl, rfl⟩

/-- A write of 0 to DevResetReq is accepted and asks for no reset (R527). -/
theorem write_resetReq_zero {src : Src} {m fl : List Host.Cell} {z : Sys} :
    writeObject src 0x1005 0x01 [0] (m, fl, z) = (none, (m, fl, z)) := by
  obtain ⟨row, hl, hty, hacc, hrng⟩ := locate_resetReq z.part.dies
  have hdec : decodeWrite ⟨0x1005, 0, 0x01, row⟩ [0] = .ok (.int 0) := (decodeVal_u8 hty 0).trans (if_pos (by rw [hrng]; decide))
  rw [writeObject_value hl (by simp [hacc]) hdec (Sys.valueBarred_zero _ _ _)]
  rfl

/-- A write of a byte above 1 to DevResetReq is out of its range (R527). -/
theorem write_resetReq_above {src : Src} {m fl : List Host.Cell} {z : Sys} {v : Byte} (hv : 1 < v.toNat) :
    writeObject src 0x1005 0x01 [v] (m, fl, z) = (some (4, 0), (m, fl, z)) := by
  obtain ⟨row, hl, hty, hacc, hrng⟩ := locate_resetReq z.part.dies
  have hout : ¬row.rng.admits v.toNat = true := by
    simp only [hrng, Rng.admits, List.contains_eq_mem, List.mem_cons, List.not_mem_nil, or_false, decide_eq_true_eq]
    omega
  exact writeObject_undecodable hl (by simp [hacc]) ((decodeVal_u8 hty v).trans (if_neg hout))

/-- Settles O57: a write-only BOOL is one of a short list of objects, each of which acts on 1 alone; DevResetReq acts on 1 alone too, and a
byte above 1 is outside its range, so it is refused where its value is read. -/
theorem zeroWritesDoNothing : Obligations.ZeroWritesDoNothing := by
  intro dt rq idx sub v l s z
  refine ⟨fun hl hacc hty => ?_, fun hserves => ?_, fun hv hbyte hserves => ?_⟩
  · have hw := write_writeOnlyBool_zero (src := rq.src) (m := s.mem) (fl := s.flash) hl hacc hty
    exact ⟨fun hserves => request_write_accepted hserves hw, fun hserves => request_write_accepted hserves hw⟩
  · exact request_write_accepted hserves write_resetReq_zero
  · have hv' : 1 < (BitVec.ofNat 8 v).toNat := by
      rwa [BitVec.toNat_ofNat, Nat.mod_eq_of_lt hbyte]
    exact request_write_refused hserves (write_resetReq_above hv')

end Sys2Proof.Machine

/-! PROOFS. Objects no table lists (18_object_reference.md, R469): what each service answers where an object is not found, and how the
answer of a service that keeps package memory and the flash becomes the answer of a command. -/

namespace Sys2Proof.Machine

/-! ### From a service's answer to a command's -/

/-- A served request whose service answers `a` with effect `y`, and leaves package memory and the flash alone, is answered so. -/
theorem request_answered {dt : Nat} {rq : Req} {cmd idx sub flags : Nat} {data : List Byte} {bytes : Nat} {serve : Full → Ans × Full}
    {s : State} {z y : Sys} {a : Ans} (h : Serves dt rq.src (reqMsg cmd rq idx sub flags data) bytes s z)
    (hs : serve (s.mem, s.flash, z) = (a, (s.mem, s.flash, y))) :
    actMem dt (onAll (request rq cmd idx sub flags data bytes serve)) s =
      .next { s with sys := z.reply rq.src (reqMsg cmd rq idx sub flags data) (answerTo (reqMsg cmd rq idx sub flags data) a) y } := by
  rw [actMem_eq]
  simp only [onAll, request_served h, hs, Full.map]
  rfl

/-- A READ whose object hardware does not answer for is a request like any other (R454). -/
theorem readRequest_notFast {dt : Nat} {rq : Req} {idx sub : Nat} {live : Bool} {s : State} {z : Sys} (h : Reaches dt rq.src 0 s z)
    (hfast : z.isFast idx sub live = false) :
    readRequest rq idx sub live (s.mem, s.flash, s.sys.elapse dt) =
      request rq 0x01 idx sub (if live then 1 else 0) [] 0 (serveRead rq.src idx sub live) (s.mem, s.flash, s.sys.elapse dt) := by
  simp only [readRequest, request, h.arrives, arrive, h.hears, h.opens, hfast, Bool.false_eq_true, if_true, if_false]

/-- A served READ whose object hardware does not answer for is answered as its service answers. -/
theorem readRequest_answered {dt : Nat} {rq : Req} {idx sub : Nat} {live : Bool} {s : State} {z y : Sys} {a : Ans}
    (h : Serves dt rq.src (reqMsg 0x01 rq idx sub (if live then 1 else 0) []) 0 s z) (hfast : z.isFast idx sub live = false)
    (hs : serveRead rq.src idx sub live (s.mem, s.flash, z) = (a, (s.mem, s.flash, y))) :
    Answered (.read dt rq idx sub live) s z rq.src (reqMsg 0x01 rq idx sub (if live then 1 else 0) []) a y := by
  have hread : exec (.read dt rq idx sub live) s = actMem dt (onAll (readRequest rq idx sub live)) s := rfl
  rw [Answered, hread, ← request_answered h hs]
  simp only [actMem_eq, onAll, readRequest_notFast h.toReaches hfast]

/-! ### What each service answers for an object that is not listed -/

section
variable {src : Src} {idx sub : Nat} {m fl : List Host.Cell} {z : Sys}

/-- Hardware never answers for an object that is not listed, whatever the fast table names (R454). -/
theorem Sys.isFast_unlisted (live : Bool) (hl : locate z.part.dies idx sub = none) : z.isFast idx sub live = false := by
  simp only [Sys.isFast, hl, Option.isSome_none, Bool.and_false, Bool.false_and]

/-- A READ of an object that is not listed gives up the snapshot and no more (R447). -/
theorem serveRead_unlisted (live : Bool) (hl : locate z.part.dies idx sub = none) :
    serveRead src idx sub live (m, fl, z) = (.error (1, 0), (m, fl, z.dropSnap src)) := by
  have hl' : locate (z.dropSnap src).part.dies idx sub = none := hl
  simp only [serveRead, Full.map, readObject, hl']

/-- An object that is not listed cannot be written. -/
theorem writableAt_unlisted {dies : Nat} (hl : locate dies idx sub = none) : writableAt dies idx sub = .error 1 := by
  simp only [writableAt, hl]

theorem writeObject_unlisted (b : List Byte) (hl : locate z.part.dies idx sub = none) :
    writeObject src idx sub b (m, fl, z) = (some (1, 0), (m, fl, z)) := by
  simp only [writeObject, writableAt_unlisted hl]

theorem serveInit_unlisted (total : Nat) (hl : locate z.part.dies idx sub = none) :
    serveInit src idx sub total (m, fl, z) = (.error (1, 0), (m, fl, z)) := by
  simp only [serveInit, writableAt_unlisted hl]

/-- A segment for an object that is not listed is none of the transfer's, be one open or not: an open transfer goes on. -/
theorem serveSeg_unlisted (off : Nat) (b : List Byte) (hl : locate z.part.dies idx sub = none) :
    serveSeg src idx sub off b (m, fl, z) = (.error (1, 0), (m, fl, z)) := by
  cases hseg : (z.session src).bind Session.seg with
  | none => simp only [serveSeg, hseg, hl, Option.isNone_none, if_true]
  | some w => simp only [serveSeg, hseg, hl, Option.isNone_none, if_true]

/-- A READ_SEG of an object that is not listed is none of the snapshot's, be one held or not: a held snapshot stays. -/
theorem serveReadSeg_unlisted (off : Nat) (hl : locate z.part.dies idx sub = none) :
    serveReadSeg src idx sub off (m, fl, z) = (.error (1, 0), (m, fl, z)) := by
  cases hsnap : (z.session src).bind Session.snap with
  | none => simp only [serveReadSeg, hsnap, hl, Option.isNone_none, if_true]
  | some n => simp only [serveReadSeg, hsnap, hl, Option.isNone_none, if_true]

theorem serveDescribe_unlisted (hl : locate z.part.dies idx sub = none) :
    serveDescribe idx sub (m, fl, z) = (.error (1, 0), (m, fl, z)) := by
  simp only [serveDescribe, describeObject, hl]

end

/-! ### The obligation -/

/-- Settles O56: each service looks the object up before anything else it does with it, and answers abort 0x0001 where no table lists it;
all but READ, which gives up the snapshot first, leave the state as they found it. -/
theorem unlistedObjectsAbort : Obligations.UnlistedObjectsAbort := by
  intro dt rq idx sub n b s z hl
  refine ⟨fun live hserves => ?read, fun hserves => ?write, fun hserves => ?writeInit, fun hserves => ?writeSeg, fun hserves => ?readSeg,
    fun hserves => ?describe⟩
  case read => exact readRequest_answered hserves (Sys.isFast_unlisted live hl) (serveRead_unlisted live hl)
  case write => exact request_write_refused hserves (writeObject_unlisted b hl)
  case writeInit => exact request_answered hserves (serveInit_unlisted (n % 2 ^ 32) hl)
  case writeSeg => exact ⟨z, request_answered hserves (serveSeg_unlisted (n % 2 ^ 32) b hl), fun _ => rfl, fun _ => rfl⟩
  case readSeg => exact ⟨z, request_answered hserves (serveReadSeg_unlisted (n % 2 ^ 32) hl), fun _ => rfl, fun _ => rfl⟩
  case describe => exact request_answered hserves (serveDescribe_unlisted hl)

end Sys2Proof.Machine

/-! PROOFS. The queue, the completion of commands, and the two byte tables (17_beryl_management.md, 19_power_boot_repair.md): how every
command is lifted to the state, and which commands can touch package memory or the flash. -/

namespace Sys2Proof.Machine

/-! ### How a command is lifted -/

/-- What every lift of `actMem` by a management request, a fabric request, a flash operation or a reset does to the two byte tables: it keeps
their canonical form. -/
def KeepsForm (f : List Host.Cell → List Host.Cell → Sys → Full) : Prop :=
  ∀ m fl y, Memory.wf m → Flash.wf fl → Memory.wf (f m fl y).1 ∧ Flash.wf (f m fl y).2.1

theorem keepsForm_onAll {f : Full → Full} (h : ∀ p : Full, p.Keeps (f p)) : KeepsForm (onAll f) := by
  intro m fl y hm hf
  obtain ⟨hmem, hflash⟩ := h (m, fl, y)
  exact ⟨(congrArg Memory.wf hmem).mpr hm, hflash hf⟩

theorem keepsForm_onMem {f : List Host.Cell × Sys → List Host.Cell × Sys} (h : ∀ r, Memory.wf r.1 → Memory.wf (f r).1) :
    KeepsForm (onMem f) := fun m _ y hm hf => ⟨h (m, y) hm, hf⟩

theorem keepsForm_onFlash {f : List Host.Cell × Sys → List Host.Cell × Sys} (h : ∀ r, Flash.wf r.1 → Flash.wf (f r).1) :
    KeepsForm (onFlash f) := fun _ fl y hm hf => ⟨hm, h (fl, y) hf⟩

theorem keepsForm_powerOnReset : KeepsForm powerOnReset := by
  intro m fl y _ hf
  exact ⟨canon_memCleared m, canon_flushLog _ hf⟩

theorem keepsForm_systemReset (pin : Bool) : KeepsForm (systemReset pin) := by
  intro m fl y hm hf
  cases hphase : y.power.phase with
  | powerOn =>
    simp only [systemReset, hphase]
    exact ⟨hm, hf⟩
  | sysReset _ | booting | running | recovery | thermal _ =>
    cases hcause : (if pin then some 1 else y.power.resetDue) with
    | none =>
      simp only [systemReset, hphase, hcause]
      exact ⟨hm, hf⟩
    | some cause =>
      simp only [systemReset, hphase, hcause]
      exact ⟨canon_memCleared m, canon_saveAll _ hf⟩

/-- ISLAND_SWITCH_BACK of the DRAM PLL goes on to a rate that waits (R386). -/
theorem exec_islandSwitchBack (dt die pll island : Nat) (s : State) : exec (.islandSwitchBack dt die pll island) s =
    act dt (fun y => if pll = 2 then (y.islandBack die pll island).rateChanged else y.islandBack die pll island) s := rfl

/-- Every command is a change of the block's state alone, or a change of the whole state that keeps the form of both byte tables. -/
theorem exec_lifted (c : Instr) (s : State) :
    (∃ dt f, exec c s = act dt f s) ∨ ∃ dt f, exec c s = actMem dt f s ∧ KeepsForm f := by
  cases c
  case read => exact .inr ⟨_, _, rfl, keepsForm_onAll (keeps_readRequest _ _ _ _)⟩
  case diagWinRead => exact .inr ⟨_, _, rfl, keepsForm_onAll (keeps_readRequest _ _ _ _)⟩
  case dieFabDecAddrRead => exact .inr ⟨_, _, rfl, keepsForm_onAll (keeps_readRequest _ _ _ _)⟩
  case write => exact .inr ⟨_, _, rfl, keepsForm_onAll (keeps_writeRequest _ _ _ _)⟩
  case writeInit => exact .inr ⟨_, _, rfl, keepsForm_onAll (keeps_request _ _ _ _ _ _ _ _ (keeps_serveInit _ _ _ _))⟩
  case writeSeg => exact .inr ⟨_, _, rfl, keepsForm_onAll (keeps_request _ _ _ _ _ _ _ _ (keeps_serveSeg _ _ _ _ _))⟩
  case readSeg => exact .inr ⟨_, _, rfl, keepsForm_onAll (keeps_request _ _ _ _ _ _ _ _ (keeps_serveReadSeg _ _ _ _))⟩
  case fastRead => exact .inr ⟨_, _, rfl, keepsForm_onAll (keeps_fastRequest _ _ _)⟩
  case describe => exact .inr ⟨_, _, rfl, keepsForm_onAll (keeps_request _ _ _ _ _ _ _ _ (keeps_serveDescribe _ _))⟩
  case fastTableUpdate => exact .inr ⟨_, _, rfl, keepsForm_onAll (keeps_fastUpdate _)⟩
  case fabricRequest => exact .inr ⟨_, _, rfl, keepsForm_onMem (canon_fabRequest _ _)⟩
  case budgetEpoch => exact .inr ⟨_, _, rfl, keepsForm_onMem (canon_budgetEpoch _)⟩
  case isolationEnd => exact .inr ⟨_, _, rfl, keepsForm_onMem (canon_isolationEnd _ _)⟩
  case logFlashWrite => exact .inr ⟨_, _, rfl, keepsForm_onFlash canon_flushLog⟩
  case chunkProgramComplete => exact .inr ⟨_, _, rfl, keepsForm_onFlash (canon_chunkDone _)⟩
  case trialTimeout => exact .inr ⟨_, _, rfl, keepsForm_onFlash canon_trialOver⟩
  case imageVerifyComplete => exact .inr ⟨_, _, rfl, keepsForm_onFlash canon_imageVerified⟩
  case updVerifyComplete =>
    exact .inr ⟨_, _, rfl, keepsForm_onFlash fun r h => (congrArg Flash.wf (updVerified_flash r)).mpr h⟩
  case bootComplete =>
    exact .inr ⟨_, _, rfl, keepsForm_onFlash fun r h => (congrArg Flash.wf (bootComplete_flash _ _ r)).mpr h⟩
  case powerOnReset => exact .inr ⟨_, _, rfl, keepsForm_powerOnReset⟩
  case systemReset => exact .inr ⟨_, _, rfl, keepsForm_systemReset _⟩
  case registerWrite | shadowWrite | chControlStart | chControlStop | chCommit | cxCommit | auCommit | portCommit | clkCommit | memCommit |
      encRefreshNow | tbStep | tbStepToMaster | clkBandCal | clkRetry | clkBandTableWrite | lnScanStart | portEnable | portDisable |
      portModeWrite | memMigrateNow | onyxTraceClear | devResetReq | secAttestNonce | repRankClear | fastTableWrite | diagWinAddrWrite |
      diagWinWrite | polModeWrite | updBegin | updChunk | updVerify | updActivate | updConfirm =>
    exact .inr ⟨_, _, rfl, keepsForm_onAll (keeps_wholeWrite _ _ _ _)⟩
  case islandSwitchBack => exact .inl ⟨_, _, exec_islandSwitchBack _ _ _ _ _⟩
  all_goals exact .inl ⟨_, _, rfl⟩

/-! ### The obligations of the queue -/

/-- Settles O1: both halves are the cases of `step` on the queue. -/
theorem stepRunsFront : Obligations.StepRunsFront := by
  refine ⟨fun c rest s => rfl, fun s hempty => ?_⟩
  simp only [step, hempty]

/-- A command leaves the queue alone. -/
theorem exec_pending {c : Instr} {s t : State} (h : exec c s = .next t) : t.pending = s.pending := by
  rcases exec_lifted c s with ⟨dt, f, he⟩ | ⟨dt, f, he, -⟩
  · exact (act_next (he.symm.trans h)).2.2.1
  · exact (actMem_next (he.symm.trans h)).1

/-- Settles O2: neither lift touches the queue, and `step` drops its front. -/
theorem execKeepsQueue : Obligations.ExecKeepsQueue := by
  refine ⟨fun c s t h => exec_pending h, fun s t h => ?_⟩
  cases hq : s.pending with
  | nil =>
    simp only [step, hq] at h
    cases h
    exact hq
  | cons c rest =>
    simp only [step, hq] at h
    exact exec_pending h

/-- Settles O3: both lifts answer a next state. -/
theorem everyCommandCompletes : Obligations.EveryCommandCompletes := by
  intro c s
  rcases exec_lifted c s with ⟨dt, f, he⟩ | ⟨dt, f, he, -⟩
  · exact ⟨_, he.trans (act_eq dt f s)⟩
  · exact ⟨_, he.trans (actMem_eq dt f s)⟩

/-- Settles O4: both tables list nothing. -/
theorem resetInv : Obligations.ResetInv := ⟨rfl, rfl⟩

/-- A command keeps the canonical form of package memory and of the flash. -/
theorem exec_inv {c : Instr} {s t : State} (hinv : s.Inv) (h : exec c s = .next t) : t.Inv := by
  obtain ⟨hm, hf⟩ := hinv
  rcases exec_lifted c s with ⟨dt, f, he⟩ | ⟨dt, f, he, hkeeps⟩
  · obtain ⟨hmem, hflash, -, -⟩ := act_next (he.symm.trans h)
    exact ⟨(congrArg Memory.wf hmem).mpr hm, (congrArg Flash.wf hflash).mpr hf⟩
  · rw [he, actMem_eq] at h
    cases h
    exact hkeeps s.mem s.flash (s.sys.elapse dt) hm hf

/-- Settles O5: the command at the front of the queue keeps both forms, and an empty queue changes nothing. -/
theorem stepKeepsInv : Obligations.StepKeepsInv := by
  intro s t hinv h
  cases hq : s.pending with
  | nil =>
    simp only [step, hq] at h
    cases h
    exact hinv
  | cons c rest =>
    simp only [step, hq] at h
    exact exec_inv (s := { s with pending := rest }) hinv h

/-! ### Which commands can change a byte -/

/-- A request that keeps the form of the whole state leaves package memory alone. -/
theorem actMem_onAll_mem {dt : Nat} {f : Full → Full} {s t : State} (hk : ∀ p : Full, p.Keeps (f p)) (h : actMem dt (onAll f) s = .next t) :
    t.mem = s.mem := by
  rw [actMem_eq] at h
  cases h
  exact (hk _).1

theorem actMem_onFlash_mem {dt : Nat} {f : List Host.Cell × Sys → List Host.Cell × Sys} {s t : State}
    (h : actMem dt (onFlash f) s = .next t) : t.mem = s.mem := by
  cases h
  rfl

theorem actMem_onMem_flash {dt : Nat} {f : List Host.Cell × Sys → List Host.Cell × Sys} {s t : State}
    (h : actMem dt (onMem f) s = .next t) : t.flash = s.flash := by
  cases h
  rfl

theorem actMem_onAll_flash {dt : Nat} {f : Full → Full} {s t : State} (hk : ∀ p : Full, (f p).2.1 = p.2.1)
    (h : actMem dt (onAll f) s = .next t) : t.flash = s.flash := by
  rw [actMem_eq] at h
  cases h
  exact hk _

theorem actMem_onFlash_flash {dt : Nat} {f : List Host.Cell × Sys → List Host.Cell × Sys} {s t : State}
    (hk : ∀ p, (f p).1 = p.1) (h : actMem dt (onFlash f) s = .next t) : t.flash = s.flash := by
  rw [actMem_eq] at h
  cases h
  exact hk _

/-- A READ leaves the flash alone, whether hardware or software answers it. -/
theorem readRequest_flash (rq : Req) (idx sub : Nat) (live : Bool) (p : Full) : (readRequest rq idx sub live p).2.1 = p.2.1 := by
  have hserve : ∀ q : Full, (serveRead rq.src idx sub live q).2.2.1 = q.2.1 := by
    intro q
    have hr : (readObject rq.src idx sub live (q.map (Sys.dropSnap rq.src))).2.2.1 = q.2.1 := readObject_flash ..
    unfold serveRead
    dsimp only
    split
    · exact hr
    · split <;> exact hr
  have harrive : ∀ q : Full, (if q.2.2.isFast idx sub live then
        q.map fun y => (y.dropSnap rq.src).fastAnswer rq.src (reqMsg 0x01 rq idx sub (if live then 1 else 0) []) (y.mirrored (idx, sub))
      else handle rq.src (reqMsg 0x01 rq idx sub (if live then 1 else 0) []) (serveRead rq.src idx sub live) q).2.1 = q.2.1 := by
    intro q
    split
    · rfl
    · exact handle_flash _ _ _ hserve q
  unfold readRequest
  dsimp only
  split
  · exact arrive_flash _ _ _ harrive p
  · rfl

theorem fastRequest_flash (rq : Req) (first count : Nat) (p : Full) : (fastRequest rq first count p).2.1 = p.2.1 := by
  unfold fastRequest
  dsimp only
  split
  · refine arrive_flash _ _ _ (fun q => ?_) p
    split
    · rfl
    · exact handle_flash _ _ _ (fun _ => rfl) q
  · rfl

theorem serveReadSeg_flash (src : Src) (idx sub off : Nat) (p : Full) : (serveReadSeg src idx sub off p).2.2.1 = p.2.1 := by
  unfold serveReadSeg
  split
  · split
    · rfl
    · split <;> rfl
  · rfl

theorem serveDescribe_flash (idx sub : Nat) (p : Full) : (serveDescribe idx sub p).2.2.1 = p.2.1 := by
  unfold serveDescribe
  split <;> rfl

theorem fastUpdate_flash (d : Nat) (p : Full) : (fastUpdate d p).2.1 = p.2.1 := by
  unfold fastUpdate
  split <;> rfl

/-- No index of a strided table is the update path's. -/
theorem strideIdx_ne_update {base stride count n : Nat} (h : base + stride * count ≤ 0x6020) (hs : 0 < stride) :
    strideIdx base stride count n ≠ 0x6020 := by
  unfold strideIdx
  split
  · next hn =>
    have : stride * (n + 1) ≤ stride * count := Nat.mul_le_mul_left _ hn
    rw [Nat.mul_add, Nat.mul_one] at this
    omega
  · decide

/-- Package memory after a command other than the requests of the fabric and the resets. -/
theorem exec_mem {c : Instr} {s t : State} (h : exec c s = .next t) :
    match c with
    | .fabricRequest .. | .budgetEpoch .. | .isolationEnd .. | .systemReset .. | .powerOnReset .. => True
    | _ => t.mem = s.mem := by
  cases c
  case fabricRequest | budgetEpoch | isolationEnd | systemReset | powerOnReset => trivial
  case read | diagWinRead | dieFabDecAddrRead => exact actMem_onAll_mem (keeps_readRequest _ _ _ _) h
  case write => exact actMem_onAll_mem (keeps_writeRequest _ _ _ _) h
  case writeInit => exact actMem_onAll_mem (keeps_request _ _ _ _ _ _ _ _ (keeps_serveInit _ _ _ _)) h
  case writeSeg => exact actMem_onAll_mem (keeps_request _ _ _ _ _ _ _ _ (keeps_serveSeg _ _ _ _ _)) h
  case readSeg => exact actMem_onAll_mem (keeps_request _ _ _ _ _ _ _ _ (keeps_serveReadSeg _ _ _ _)) h
  case fastRead => exact actMem_onAll_mem (keeps_fastRequest _ _ _) h
  case describe => exact actMem_onAll_mem (keeps_request _ _ _ _ _ _ _ _ (keeps_serveDescribe _ _)) h
  case fastTableUpdate => exact actMem_onAll_mem (keeps_fastUpdate _) h
  case logFlashWrite | chunkProgramComplete | updVerifyComplete | trialTimeout | imageVerifyComplete | bootComplete =>
    exact actMem_onFlash_mem h
  case registerWrite | shadowWrite | chControlStart | chControlStop | chCommit | cxCommit | auCommit | portCommit | clkCommit | memCommit |
      encRefreshNow | tbStep | tbStepToMaster | clkBandCal | clkRetry | clkBandTableWrite | lnScanStart | portEnable | portDisable |
      portModeWrite | memMigrateNow | onyxTraceClear | devResetReq | secAttestNonce | repRankClear | fastTableWrite | diagWinAddrWrite |
      diagWinWrite | polModeWrite | updBegin | updChunk | updVerify | updActivate | updConfirm =>
    exact actMem_onAll_mem (keeps_wholeWrite _ _ _ _) h
  case islandSwitchBack => exact (act_next ((exec_islandSwitchBack _ _ _ _ _).symm.trans h)).1
  all_goals exact (act_next h).1

/-- The flash after a command that neither writes it by rule nor can be a write of an update object. -/
theorem exec_flash {c : Instr} {s t : State} (h : exec c s = .next t) :
    match c with
    | .logFlashWrite .. | .chunkProgramComplete .. | .imageVerifyComplete .. | .trialTimeout .. | .systemReset .. | .powerOnReset .. => True
    | .write .. | .writeInit .. | .writeSeg .. | .registerWrite .. | .shadowWrite .. | .updActivate .. | .updConfirm .. => True
    | _ => t.flash = s.flash := by
  cases c
  case logFlashWrite | chunkProgramComplete | imageVerifyComplete | trialTimeout | systemReset | powerOnReset | write | writeInit | writeSeg |
      registerWrite | shadowWrite | updActivate | updConfirm => trivial
  case read | diagWinRead | dieFabDecAddrRead => exact actMem_onAll_flash (readRequest_flash _ _ _ _) h
  case readSeg => exact actMem_onAll_flash (request_flash _ _ _ _ _ _ _ _ (serveReadSeg_flash _ _ _ _)) h
  case fastRead => exact actMem_onAll_flash (fastRequest_flash _ _ _) h
  case describe => exact actMem_onAll_flash (request_flash _ _ _ _ _ _ _ _ (serveDescribe_flash _ _)) h
  case fastTableUpdate => exact actMem_onAll_flash (fastUpdate_flash _) h
  case fabricRequest | budgetEpoch | isolationEnd => exact actMem_onMem_flash h
  case updVerifyComplete => exact actMem_onFlash_flash updVerified_flash h
  case bootComplete => exact actMem_onFlash_flash (bootComplete_flash _ _) h
  case chControlStart | chControlStop | chCommit | cxCommit | auCommit | portCommit | clkCommit | encRefreshNow | tbStep | tbStepToMaster |
      clkBandCal | clkRetry | clkBandTableWrite | lnScanStart | portEnable | portDisable | portModeWrite =>
    exact actMem_onAll_flash (fun p => wholeWrite_flash _ _ _ _ p (.inl (strideIdx_ne_update (by decide) (by decide)))) h
  case polModeWrite q _ =>
    refine actMem_onAll_flash (fun p => wholeWrite_flash _ _ _ _ p (.inl ?_)) h
    split
    · omega
    · decide
  case memCommit | memMigrateNow | onyxTraceClear | devResetReq | secAttestNonce | repRankClear | fastTableWrite | diagWinAddrWrite |
      diagWinWrite =>
    exact actMem_onAll_flash (fun p => wholeWrite_flash _ _ _ _ p (.inl (by decide))) h
  case updBegin | updChunk | updVerify =>
    exact actMem_onAll_flash (fun p => wholeWrite_flash _ _ _ _ p (.inr (by decide))) h
  case islandSwitchBack => exact (act_next ((exec_islandSwitchBack _ _ _ _ _).symm.trans h)).2.1
  all_goals exact (act_next h).2.1

/-- Settles O6: a table that is left alone reads as before at every address. -/
theorem bytesFrame : Obligations.BytesFrame := by
  refine ⟨fun c s t h => ?_, fun c s t h => ?_⟩
  · have hmem := exec_mem h
    cases c
    case fabricRequest | budgetEpoch | isolationEnd | systemReset | powerOnReset => trivial
    all_goals exact fun a => congrArg (Tab.find memDflt · a) hmem
  · have hflash := exec_flash h
    cases c
    case logFlashWrite | chunkProgramComplete | imageVerifyComplete | trialTimeout | systemReset | powerOnReset | write | writeInit | writeSeg |
        registerWrite | shadowWrite | updActivate | updConfirm => trivial
    all_goals exact fun a => congrArg (Tab.find flashDflt · a) hflash

end Sys2Proof.Machine

/-! PROOFS. Writes of plain and of shadowed objects, and the writes that abort (17_beryl_management.md, R436 to R438, R444, R469, R525). -/

namespace Sys2Proof.Machine

section
variable {src : Src} {idx sub key : Nat} {b : List Byte} {m fl : List Host.Cell} {z : Sys} {l : Loc} {v : Val}

/-! ### Plain objects -/

/-- The table index of a plain object is none whose every object has a behaviour of its own. -/
theorem Loc.plain_base (h : l.plain key = true) : l.base ≠ 0x6020 := by
  intro hb
  simp [Loc.plain, hb] at h

/-- The value of a plain object goes into one of the two tables, by its access (R438, R525). -/
theorem writeValue_plain (h : l.plain key = true) (p : Full) : writeValue src key l v p =
    if l.row.acc = .rws then plainWrite (Sys.shadowWrite l key v) p else plainWrite (fun y => accept (y.setVal key v)) p := by
  obtain ⟨base, inst, sub, row⟩ := l
  unfold writeValue
  dsimp only
  split
  case h_34 =>
    have hrate : ¬(base = 0x3400 ∧ 3 ≤ sub ∧ sub ≤ 6) := by
      rintro ⟨rfl, hlo, hhi⟩
      have : sub = 3 ∨ sub = 4 ∨ sub = 5 ∨ sub = 6 := by omega
      rcases this with rfl | rfl | rfl | rfl <;> simp [Loc.plain] at h
    have htb : ¬(base = 0x3500 ∧ sub ≤ 9) := by
      rintro ⟨rfl, hhi⟩
      simp [Loc.plain, hhi] at h
    have hpersist : ¬persistentKeys.contains key = true := by
      intro hk
      simp only [Loc.plain, hk, Bool.not_true, Bool.and_false, Bool.false_eq_true] at h
    rw [if_neg hrate, if_neg htb, if_neg hpersist]
  all_goals exact absurd h (by simp [Loc.plain])

/-- A plain shadowed object takes its shadow: GclBaseTime, whose value is judged, is none of the plain ones. -/
theorem Sys.shadowWrite_plain (h : l.plain key = true) (y : Sys) : y.shadowWrite l key v = accept (y.setShadow key v) := by
  rw [Sys.shadowWrite, if_neg]
  rintro ⟨hb, hs, -⟩
  simp [Loc.plain, hb, hs] at h

/-- A write of a plain object of which `decodeVal` makes a value. -/
theorem writeObject_plain (hl : locate z.part.dies idx sub = some l) (hplain : l.plain (objKey idx sub) = true)
    (ha : l.row.acc ≠ .ro ∧ l.row.acc ≠ .const) (hv : decodeVal l.row b = .ok v) (hb : z.valueBarred (objKey idx sub) l v = false) :
    writeObject src idx sub b (m, fl, z) =
      (none, (m, fl, if l.row.acc = .rws then z.setShadow (objKey idx sub) v else z.setVal (objKey idx sub) v)) := by
  have hd : decodeWrite l b = .ok v := by rw [decodeWrite, if_neg fun h => Loc.plain_base hplain h.1, hv]
  rw [writeObject_value hl ha hd hb, writeValue_plain hplain]
  split
  · rw [plainWrite, Sys.shadowWrite_plain hplain, accept]
  · rfl

/-- Settles O7: the access of a plain object decides which of the two tables its write goes to. -/
theorem valueWrites : Obligations.ValueWrites := by
  refine ⟨fun dt rq idx sub b s z l v hl hplain hacc hv hb => ?_, fun dt rq idx sub b s z l v hl hplain hacc hv hb => ?_⟩
  · have hw := writeObject_plain (src := rq.src) (m := s.mem) (fl := s.flash) hl hplain
      (by rcases hacc with h | h <;> simp [h]) hv hb
    rw [if_neg (by rcases hacc with h | h <;> simp [h])] at hw
    exact ⟨fun hserves => request_write_accepted hserves hw, fun hserves => request_write_accepted hserves hw⟩
  · have hw := writeObject_plain (src := rq.src) (m := s.mem) (fl := s.flash) hl hplain (by simp [hacc]) hv hb
    rw [if_pos hacc] at hw
    exact ⟨fun hserves => ⟨_, request_write_accepted hserves hw, rfl, Sys.setShadow_self _ _ _, fun _ => rfl⟩,
      fun hserves => request_write_accepted hserves hw⟩

/-! ### Writes that abort -/

theorem writeObject_readOnly (hl : locate z.part.dies idx sub = some l) (ha : l.row.acc = .ro ∨ l.row.acc = .const) :
    writeObject src idx sub b (m, fl, z) = (some (2, 0), (m, fl, z)) := by
  have hw : writableAt z.part.dies idx sub = .error 2 := by simp only [writableAt, hl, ha, if_true]
  simp only [writeObject, hw]

theorem decodeVal_wrongLength {r : ObjRow} (h : lengthOk r b.length = false) : decodeVal r b = .error (lengthAbort r) := by
  simp [decodeVal, h]

/-- A number outside its object's range is no value, be it a BOOL above 1 or not (R437, R525). -/
theorem decodeVal_outOfRange {r : ObjRow} {n : Nat} (hlen : lengthOk r b.length = true) (hs : r.ty.size = some n)
    (hr : r.rng.admits (if r.ty.signed then toSigned n (leNat b) else leNat b) = false) : decodeVal r b = .error 4 := by
  simp only [decodeVal, hlen, hs, if_true]
  split
  · rfl
  · rw [if_neg (by simp [hr])]

/-- Settles O8: each of the four is met before anything is written. -/
theorem writeAborts : Obligations.WriteAborts := by
  rintro dt rq idx sub b s z e hserves
    (⟨hl, rfl⟩ | ⟨l, hl, ha, rfl⟩ | ⟨l, hl, hro, hconst, hbase, hlen, rfl⟩ | ⟨l, n, hl, hro, hconst, hbase, hlen, hsize, hrange, rfl⟩)
  · exact request_write_refused hserves (writeObject_unlisted b hl)
  · exact request_write_refused hserves (writeObject_readOnly hl ha)
  · refine request_write_refused hserves (writeObject_undecodable hl ⟨hro, hconst⟩ ?_)
    rw [decodeWrite, if_neg fun h => hbase h.1, decodeVal_wrongLength hlen, lengthAbort]
  · refine request_write_refused hserves (writeObject_undecodable hl ⟨hro, hconst⟩ ?_)
    rw [decodeWrite, if_neg fun h => hbase h.1, decodeVal_outOfRange hlen hsize hrange]

end

end Sys2Proof.Machine

/-! PROOFS. Commits (07, 08, 10, 12, 14; R213, R215, R232, R289, R290, R339, R340, R384): what accepting and refusing a shadow set do, said
once, and the commit of each owning context. -/

namespace Sys2Proof.Machine

/-! ### From a plain write's effect to its command -/

theorem plainWrite_eq {f : Sys → WriteRes} {m fl : List Host.Cell} {z y : Sys} {r : Option (Nat × Nat)} (h : f z = (r, y)) :
    plainWrite f (m, fl, z) = (r, (m, fl, y)) := by
  simp only [plainWrite, h]

/-- A served write that leads to a plain operation, which accepts it with effect `y`. -/
theorem wrote_of_plain {dt : Nat} {rq : Req} {idx sub : Nat} {b : List Byte} {s : State} {z y : Sys} {f : Sys → WriteRes}
    (h : Serves dt rq.src (writeMsg rq idx sub b) 0 s z)
    (hw : writeObject rq.src idx sub b (s.mem, s.flash, z) = plainWrite f (s.mem, s.flash, z)) (hf : f z = accept y) :
    actMem dt (onAll (wholeWrite rq idx sub b)) s =
      .next { s with sys := z.reply rq.src (writeMsg rq idx sub b) (written (writeMsg rq idx sub b)) y } :=
  wholeWrite_done h (hw.trans (plainWrite_eq hf))

/-- A served write that leads to a plain operation, which refuses it with abort `e` and effect `y`. -/
theorem refused_of_plain {dt : Nat} {rq : Req} {idx sub : Nat} {b : List Byte} {s : State} {z y : Sys} {e : Nat × Nat} {f : Sys → WriteRes}
    (h : Serves dt rq.src (writeMsg rq idx sub b) 0 s z)
    (hw : writeObject rq.src idx sub b (s.mem, s.flash, z) = plainWrite f (s.mem, s.flash, z)) (hf : f z = (some e, y)) :
    actMem dt (onAll (wholeWrite rq idx sub b)) s =
      .next { s with sys := z.reply rq.src (writeMsg rq idx sub b) (answerTo (writeMsg rq idx sub b) (.error e)) y } :=
  request_write_refused h (hw.trans (plainWrite_eq hf))

/-! ### Acceptance and refusal -/

/-- An accepted commit waits for its boundary (R213). -/
theorem accepted_acceptCommit (z : Sys) (key : Nat) (own : Nat → Bool) (at_ : Int) : Accepted z key own at_ (z.acceptCommit key own at_) :=
  ⟨rfl, Sys.setInt_nat _ _ 1, fun _ hk => Sys.setInt_other _ _ _ _ hk, rfl⟩

/-- Powering domains for what an accepted commit will need is no part of what `Accepted` speaks of (R483). -/
theorem Accepted.powerAll {z y : Sys} {key : Nat} {own : Nat → Bool} {at_ : Int} (h : Accepted z key own at_ y) :
    Accepted z key own at_ y.powerAll := by
  obtain ⟨ds, hds⟩ := onlyDies_powerAll y
  rw [hds]
  exact h

/-- Memory taken for layers is no part of it either (R216). -/
theorem Accepted.of_sameLayers {z w y : Sys} {key : Nat} {own : Nat → Bool} {at_ : Int} (hw : z.SameButLayers w)
    (h : Accepted w key own at_ y) : Accepted z key own at_ y := by
  obtain ⟨ds, op, rfl⟩ := hw
  exact h

/-- A refused commit shows its reason and raises its event, and nothing else changes (R215). -/
theorem refusedCommit_of_plain {c : Instr} {dt : Nat} {rq : Req} {idx sub key reason event die arg : Nat} {s : State} {z : Sys}
    {f : Sys → WriteRes} (hc : exec c s = actMem dt (onAll (wholeWrite rq idx sub [1])) s)
    (h : Serves dt rq.src (writeMsg rq idx sub [1]) 0 s z)
    (hw : writeObject rq.src idx sub [1] (s.mem, s.flash, z) = plainWrite f (s.mem, s.flash, z))
    (hf : f z = z.refuseCommit key reason event die arg) : RefusedCommit c s z rq idx sub key reason event die arg := by
  refine ⟨_, hc.trans (refused_of_plain h hw hf), ?_, ?_, fun k h1 h2 => ?_, rfl, rfl, rfl⟩
  · show ((z.setInt (key + 1) 2).setInt (key + 2) reason).nat (key + 1) = 2
    rw [Sys.nat, Sys.setInt_other _ _ _ _ (by omega)]
    exact Sys.setInt_nat z (key + 1) 2
  · rw [Sys.raise_nat_read]
    exact Sys.setInt_nat _ _ _
  · rw [Sys.raise_val_read]
    exact (Sys.setInt_other _ _ _ _ h2).trans (Sys.setInt_other _ _ _ _ h1)

/-! ### The commits -/

/-- What the layers of a context take for one kind of memory after another changes the dies and the layers alone (R216). -/
theorem sameLayers_bind_reserve {z : Sys} {r : Option Sys} {g : Nat → Val} {c kind seq : Nat} (hr : ∀ x, r = some x → z.SameButLayers x) :
    ∀ x, (r.bind fun y => y.lyReserve g c kind seq) = some x → z.SameButLayers x := by
  intro x hx
  obtain ⟨y, hy, hyx⟩ := Option.bind_eq_some_iff.mp hx
  exact (hr y hy).trans (sameLayers_reserve _ _ _ _ _ _ hyx)

theorem sameLayers_getD {z : Sys} {r : Option Sys} (hr : ∀ x, r = some x → z.SameButLayers x) : z.SameButLayers (r.getD z) := by
  cases r with
  | none => exact .refl z
  | some x => exact hr x rfl

/-- A commit of a context that is accepted waits on a state that has given and taken memory of layers at most (R213, R216). -/
theorem Sys.cxCommit_accepted {z y : Sys} {c : Nat} (h : z.cxCommit c = (none, y)) :
    Accepted z (Ob.CxCommit c) (z.cxOwns c) (z.cxApplyAt c) y := by
  unfold Sys.cxCommit at h
  dsimp only at h
  split at h
  · cases h
  · split at h
    · cases h
    · obtain rfl := congrArg Prod.snd h
      refine Accepted.of_sameLayers (sameLayers_getD (sameLayers_bind_reserve (sameLayers_bind_reserve fun x hx => ?_))) (accepted_acceptCommit _ _ _ _)
      exact (sameLayers_release _ _ z).trans (sameLayers_reserve _ _ _ _ _ _ hx)

/-- Settles O9: each commit whose checks pass is `acceptCommit` with the boundary of its context; memory of layers and power domains,
which change on the way, are no part of what is said. -/
theorem commitsPend : Obligations.CommitsPend := by
  refine ⟨⟨fun dt rq p s z hp hd hserves hchecks => ?port, fun dt rq p s z hp hserves hchecks => ?clk, fun dt rq s z hserves hchecks => ?mem⟩,
    fun dt rq a s z ha hd hserves hports hchecks => ?au, fun dt rq c s z hc hd hserves hnone => ?cx⟩
  case port =>
    refine ⟨_, wrote_of_plain hserves (write_portCommit p hp hd) ?_, accepted_acceptCommit _ _ _ _⟩
    simp only [Sys.portCommit, hchecks]
  case clk =>
    refine ⟨_, wrote_of_plain hserves (write_clkCommit p hp) ?_, accepted_acceptCommit _ _ _ _⟩
    simp only [Sys.clkCommit, hchecks]
  case mem =>
    refine ⟨_, wrote_of_plain hserves write_memCommit ?_, accepted_acceptCommit _ _ _ _⟩
    simp only [Sys.memCommit, hchecks]
  case au =>
    refine ⟨_, wrote_of_plain hserves (write_auCommit a ha hd) ?_, ((accepted_acceptCommit _ _ _ _).powerAll).powerAll⟩
    simp only [Sys.auCommitWrite, Sys.auCommit, hports, hchecks, not_true, if_false, accept, Option.isNone_none, if_true]
  case cx =>
    refine ⟨_, wrote_of_plain hserves (write_cxCommit c hc hd) ?_, (Sys.cxCommit_accepted (Prod.ext hnone rfl)).powerAll⟩
    simp only [Sys.cxCommitWrite, hnone, Option.isNone_none, if_true, accept]

/-- Settles O10: each commit whose check fails is `refuseCommit` with the number of the check. -/
theorem commitsRefuse : Obligations.CommitsRefuse := by
  refine ⟨fun dt rq p r s z hp hd hserves hchecks => ?port, fun dt rq p r s z hp hserves hchecks => ?clk, fun dt r rq s z hserves hchecks => ?mem⟩
  case port =>
    refine refusedCommit_of_plain rfl hserves (write_portCommit p hp hd) ?_
    simp only [Sys.portCommit, hchecks, portDie]
  case clk =>
    refine refusedCommit_of_plain rfl hserves (write_clkCommit p hp) ?_
    simp only [Sys.clkCommit, hchecks]
  case mem =>
    refine refusedCommit_of_plain rfl hserves write_memCommit ?_
    simp only [Sys.memCommit, hchecks]

end Sys2Proof.Machine

/-! PROOFS. Starts, stops, refreshes and bitrates of channels (02, 04, 05; R65, R66, R121, R162, R471 to R473), and what the frames that a
start sends leave alone. -/

namespace Sys2Proof.Machine

/-! ### What sending leaves alone -/

/-- From `y` to `z` no time has passed, events were only added, and of the channels only the retransmission stores may have changed: what
every port's sending, every trace record and every counter keeps. -/
structure Sys.Advances (y z : Sys) : Prop where
  now : z.now = y.now
  raised : y.evs.raised <+: z.evs.raised
  chan : ∀ n, z.chan n = { y.chan n with rtxNewest := (z.chan n).rtxNewest, rtx := (z.chan n).rtx }

namespace Sys.Advances

theorem of_eq {y z : Sys} (hnow : z.now = y.now) (hev : z.evs.raised = y.evs.raised) (hch : z.chans = y.chans) : y.Advances z := by
  refine ⟨hnow, by rw [hev], fun n => ?_⟩
  have : z.chan n = y.chan n := by simp only [Sys.chan, hch]
  rw [this]

theorem refl (y : Sys) : y.Advances y := of_eq rfl rfl rfl

theorem trans {x y z : Sys} (h : x.Advances y) (k : y.Advances z) : x.Advances z := by
  refine ⟨k.now.trans h.now, h.raised.trans k.raised, fun n => ?_⟩
  rw [k.chan n, h.chan n]

/-- Whatever else has changed on the way from `y` to `z`: the clock, the events and the channels have not. -/
theorem same {x y z : Sys} (h : x.Advances y) (hnow : z.now = y.now) (hev : z.evs.raised = y.evs.raised) (hch : z.chans = y.chans) :
    x.Advances z := h.trans (of_eq hnow hev hch)

variable {x y : Sys}

theorem each {α : Type} {f : α → Sys → Sys} (hf : ∀ a y, x.Advances y → x.Advances (f a y)) (l : List α) (h : x.Advances y) :
    x.Advances (y.each l f) := by
  induction l generalizing y with
  | nil => exact h
  | cons a l ih => exact ih (hf a y h)

theorem raise {c d a : Nat} (h : x.Advances y) : x.Advances (y.raise c d a) := h.trans ⟨rfl, ⟨_, rfl⟩, fun _ => rfl⟩

theorem bump {k n : Nat} (h : x.Advances y) : x.Advances (y.bump k n) := h.same rfl rfl rfl

theorem setInt {k : Nat} {i : Int} (h : x.Advances y) : x.Advances (y.setInt k i) := h.same rfl rfl rfl

theorem setVal {k : Nat} {v : Val} (h : x.Advances y) : x.Advances (y.setVal k v) := h.same rfl rfl rfl

theorem setShadow {k : Nat} {v : Val} (h : x.Advances y) : x.Advances (y.setShadow k v) := h.same rfl rfl rfl

theorem raiseLimited {c k d a : Nat} (h : x.Advances y) : x.Advances (y.raiseLimited c k d a) :=
  h.trans ⟨by simp, Sys.raiseLimited_prefix y c k d a, fun n => by simp⟩

theorem onPort {p : Nat} {f : Port → Port} (h : x.Advances y) : x.Advances (y.onPort p f) := h.same rfl rfl rfl

theorem onDie {d : Nat} {f : Die → Die} (h : x.Advances y) : x.Advances (y.onDie d f) := h.same rfl rfl rfl

theorem emit {o : Out} (h : x.Advances y) : x.Advances (y.emit o) := h.same rfl rfl rfl

/-! ### A port's sending -/

theorem setNet {n : Net} (h : x.Advances y) : x.Advances { y with net := n } := h.same rfl rfl rfl

theorem setJas {j : Jas} (h : x.Advances y) : x.Advances { y with jas := j } := h.same rfl rfl rfl

theorem mapQueues {f : Queue → Queue} (h : x.Advances y) : x.Advances (y.mapQueues f) := h.same rfl rfl rfl

theorem enterWheel {p : Nat} {c : Option Nat} {t : Int} (h : x.Advances y) : x.Advances (y.enterWheel p c t) := h.same rfl rfl rfl

/-- A packet goes into the retransmission store of its channel alone (R261). -/
theorem setStore {w : Sys} {n e : Nat} {r : Tab (Tab RtxSlot)} (hnow : w.now = y.now) (hev : w.evs = y.evs) (hch : w.chans = y.chans) :
    y.Advances (w.setChan n { y.chan n with rtxNewest := e, rtx := r }) := by
  refine ⟨hnow, by rw [Sys.setChan_evs, hev], fun m => ?_⟩
  by_cases hm : m = n
  · subst hm
    simp
  · rw [Sys.setChan_other _ _ _ _ hm]
    simp only [Sys.chan, hch]

theorem storePkt {p : Nat} {k : Pkt} (h : x.Advances y) : x.Advances (y.storePkt p k) := by
  refine h.trans ?_
  unfold Sys.storePkt
  split
  · dsimp only
    split
    · exact refl y
    · cases (y.die (portDie p)).dram.bypass
      · exact setStore rfl rfl rfl
      · split
        · exact of_eq rfl rfl rfl
        · exact setStore rfl rfl rfl
  · exact refl y

theorem slotCheck {p : Nat} {k : Pkt} (h : x.Advances y) : x.Advances (y.slotCheck p k) := by
  unfold Sys.slotCheck
  split
  · split
    · exact h
    · exact h.bump.raise
  · exact h

theorem tsqExpiry {p : Nat} (h : x.Advances y) : x.Advances (y.tsqExpiry p) := by
  exact h.setJas.bump

theorem stampPtp {p b seq : Nat} (h : x.Advances y) : x.Advances (y.stampPtp p b seq) := by
  have hexp : x.Advances (y.tsqExpiry p) := h.tsqExpiry
  unfold Sys.stampPtp
  dsimp only
  split
  · exact hexp.setJas.bump.raiseLimited
  · exact hexp.setJas.setJas

theorem startFrame {p : Nat} {k : Pkt} (h : x.Advances y) : x.Advances (y.startFrame p k) := by
  unfold Sys.startFrame
  dsimp only
  split
  · exact h.onPort.bump.emit.stampPtp
  · exact h.onPort.bump.emit

theorem startTimed {p : Nat} {k : Pkt} (h : x.Advances y) : x.Advances (y.startTimed p k) := by
  have hfirst : x.Advances ((y.unreserve p k).slotCheck p k) := h.onPort.slotCheck
  unfold Sys.startTimed
  dsimp only
  split
  · exact hfirst.bump.raiseLimited.storePkt.startFrame
  · exact hfirst.storePkt.startFrame

theorem dropTimed {p : Nat} {k : Pkt} (h : x.Advances y) : x.Advances (y.dropTimed p k) := h.onPort.slotCheck.storePkt.bump

theorem headTests {p : Nat} (h : x.Advances y) : x.Advances (y.headTests p) := by
  unfold Sys.headTests
  dsimp only
  split
  · exact h
  · exact each (fun _ _ h => h.raiseLimited) _ h.mapQueues.bump

theorem holdHead {p : Nat} {q : Queue} {w : Waiting} (h : x.Advances y) : x.Advances (y.holdHead p q w) := by
  unfold Sys.holdHead
  split
  · exact h
  · exact h.mapQueues.bump

theorem sendHead {p c : Nat} {q : Queue} {w : Waiting} (h : x.Advances y) : x.Advances (y.sendHead p c q w) := by
  unfold Sys.sendHead
  extract_lets o virtual charged sent debt counted
  have hsent : x.Advances sent := h.onPort.mapQueues
  have hdebt : x.Advances debt := by
    by_cases hd : charged.shaped sent.now = true ∧ charged.tokens < 0
    · exact (congrArg x.Advances (if_pos hd)).mpr hsent.enterWheel
    · exact (congrArg x.Advances (if_neg hd)).mpr hsent
  have hcounted : x.Advances counted := by
    simp only [counted]
    split
    · split
      · exact hdebt.bump
      · exact hdebt
    · exact hdebt
  exact hcounted.headTests.startFrame

theorem chooseUntimed {p : Nat} (l : List Nat) (h : x.Advances y) : x.Advances (y.chooseUntimed p l) := by
  induction l generalizing y with
  | nil => exact h
  | cons c rest ih =>
    unfold Sys.chooseUntimed
    dsimp only
    split
    · exact ih h
    · split
      · exact ih h
      · split
        · exact ih h.holdHead
        · split
          · exact ih h
          · exact h.sendHead

theorem choose {p : Nat} (h : x.Advances y) : x.Advances (y.choose p) := by
  have hserved : x.Advances (y.wheelServed p) := h.same rfl rfl rfl
  unfold Sys.choose
  dsimp only
  split
  · exact each (fun _ _ h => h.dropTimed) _ hserved
  · split
    · exact hserved
    · split
      · exact hserved.startTimed
      · exact hserved.chooseUntimed _

theorem enqueue {q : Queue} {k : Pkt} (h : x.Advances y) : x.Advances (y.enqueue q k).2 := by
  unfold Sys.enqueue
  dsimp only
  split
  · exact h.bump
  · split
    · exact h.bump.raiseLimited
    · exact h.mapQueues.headTests

theorem sendOwn {p kind : Nat} {k : Pkt} (h : x.Advances y) : x.Advances (y.sendOwn p kind k) := by
  unfold Sys.sendOwn
  split
  · exact h.enqueue.choose
  · exact h

theorem joinGroups {l : List Leg} (h : x.Advances y) : x.Advances (y.joinGroups l) :=
  each (fun _ _ h => h.setNet.sendOwn) _ h

/-! ### A channel's graph and queues -/

theorem trace {d ty core slot aux : Nat} (h : x.Advances y) : x.Advances (y.trace d ty core slot aux) := by
  unfold Sys.trace
  dsimp only
  split
  · split
    · split
      · exact h.bump
      · exact h.bump.onDie.raise
    · exact h.onDie
  · exact h

theorem armTask {d s : Nat} (h : x.Advances y) : x.Advances (y.armTask d s) := by
  unfold Sys.armTask
  dsimp only
  split
  · exact h.onDie.trace
  · exact h.bump

theorem buildGraph {n d : Nat} (h : x.Advances y) : x.Advances (y.buildGraph n d) := by
  refine each (fun r y h => ?_) _ h
  split
  · exact h.onDie.armTask
  · exact h

theorem addQueue {p k c w : Nat} {o : Consumer} {t : Bool} (h : x.Advances y) : x.Advances (y.addQueue p o k c t w) := h.same rfl rfl rfl

theorem chanQueues {n : Nat} (h : x.Advances y) : x.Advances (y.chanQueues n) := by
  refine each (fun l y h => ?_) _ h
  dsimp only
  split <;> split
  · exact h.addQueue.addQueue
  · exact h.addQueue.addQueue.addQueue
  · exact h.addQueue
  · exact h.addQueue.addQueue

theorem applySet {set : Tab Val} (h : x.Advances y) : x.Advances (y.applySet set) :=
  each (fun _ _ h => h.setVal.setShadow) _ h

end Sys.Advances

/-! ### The allocations of a start -/

/-- Allocation on each of some dies changes the dies alone. -/
theorem allocEach_onlyDies {own : Nat} {sizes ds : List Nat} {y z : Sys} (h : y.allocEach own sizes ds = some z) :
    ∃ dies, z = { y with dies := dies } := by
  have key : ∀ (l : List Nat) (r : Option Sys), (∀ x, r = some x → ∃ dies, x = { y with dies := dies }) →
      ∀ z, l.foldl (fun (r : Option Sys) d => r.bind fun y => y.heapAlloc d own sizes) r = some z → ∃ dies, z = { y with dies := dies } := by
    intro l
    induction l with
    | nil => exact fun r hr z hz => hr z hz
    | cons d l ih =>
      intro r hr z hz
      refine ih _ (fun x hx => ?_) z hz
      obtain ⟨w, hw, hwx⟩ := Option.bind_eq_some_iff.mp hx
      obtain ⟨dies, rfl⟩ := hr w hw
      obtain ⟨heap, -, rfl⟩ := Option.map_eq_some_iff.mp hwx
      exact ⟨_, rfl⟩
  exact key ds (some y) (fun x hx => ⟨y.dies, by cases hx; rfl⟩) z h

theorem placeRows_onlyDies {n at_ : Nat} {f : Fig} {ds : List Nat} {y z : Sys} (h : y.placeRows n f ds = some (at_, z)) :
    ∃ dies, z = { y with dies := dies } := by
  unfold Sys.placeRows at h
  dsimp only at h
  split at h
  · cases h
    exact onlyDies_each (fun d y => y.onDie d fun x => { x with sramUsed := x.sramUsed ++ [(owner 6 n, f.rowBufBytes)] })
      (fun d y => ⟨_, rfl⟩) ds y
  · obtain ⟨w, hw, hwz⟩ := Option.map_eq_some_iff.mp h
    cases hwz
    exact allocEach_onlyDies hw

/-! ### A start -/

/-- A start that is accepted has passed every check, on a state whose dies alone have changed (R472). -/
theorem Sys.tryStart_accepted {y : Sys} {n : Nat} (h : (y.tryStart n).1 = none) :
    ∃ dies pl at_, y.tryStart n = accept (Sys.startAccepted n (y.startFig n) pl at_ { y with dies := dies }) := by
  unfold Sys.tryStart at h ⊢
  dsimp only at h ⊢
  split at h
  · cases h
  · next hchecks =>
    split at h
    · cases h
    · next pl hpl =>
      split at h
      · cases h
      · next hlegs =>
        split at h
        · cases h
        · next w hw =>
          split at h
          · cases h
          · next at_ z hz =>
            obtain ⟨dies, rfl⟩ := allocEach_onlyDies hw
            obtain ⟨v, hv, hvz⟩ := Option.bind_eq_some_iff.mp hz
            obtain ⟨dies', rfl⟩ := allocEach_onlyDies hv
            obtain ⟨dies'', rfl⟩ := placeRows_onlyDies hvz
            refine ⟨dies'', pl, at_, ?_⟩
            rfl

/-- What an accepted start leaves: the channel starts at its first boundary 250 µs ahead with the configuration as it stands, and its
placement is raised (R65, R471). -/
theorem Sys.startAccepted_spec (n : Nat) (f : Fig) (pl : Nat × List (Nat × Nat)) (at_ : Nat) (y : Sys) :
    let z := y.startAccepted n f pl at_
    (z.chan n).run = 1 ∧ (z.chan n).cfg = y.snapshot n ∧ (z.chan n).firstK = firstFrom f.rn f.rd (y.tbNow f.tb + usU 250) ∧
      (z.chan n).nextK = (z.chan n).firstK ∧ { code := 0x1102, die := (z.chan n).die, arg := n, t := y.now } ∈ z.evs.raised := by
  intro z
  obtain ⟨c, w, hw, hz, hdie, hrun, hcfg, hfirst, hnext⟩ : ∃ (c : Chan) (w : Sys), (y.fresh.setChan n c).Advances w ∧
      (w.raise 0x1102 pl.1 n).Advances z ∧ c.die = pl.1 ∧ c.run = 1 ∧ c.cfg = y.snapshot n ∧
      c.firstK = firstFrom f.rn f.rd (y.tbNow f.tb + usU 250) ∧ c.nextK = c.firstK := by
    simp only [z]
    unfold Sys.startAccepted
    extract_lets na waited k c checked applied placed built raised changed
    refine ⟨c, built, ?_, ?_, rfl, rfl, rfl, rfl, rfl⟩
    · exact (Advances.refl _).setInt.applySet.setInt.setInt.chanQueues.buildGraph.joinGroups
    · have hchanged : (built.raise 0x1102 pl.1 n).Advances changed := by
        simp only [changed]
        split
        · exact (Advances.refl _).bump.raise
        · exact Advances.refl _
      split
      · exact hchanged.raise
      · exact hchanged
  have hchan := (hw.raise.trans hz).chan n
  rw [Sys.setChan_self] at hchan
  rw [hchan]
  refine ⟨hrun, hcfg, hfirst, hnext, hz.raised.subset ?_⟩
  rw [Sys.raise_raised, hw.now, hdie]
  simp

/-- A start of a stopped channel that its checks let pass (R471, R472). -/
theorem Sys.chStart_accepted {z : Sys} {n : Nat} (hrun : (z.finishStops.chan n).run = 0) (h : (z.finishStops.tryStart n).1 = none) :
    ∃ dies pl at_, z.chControl n 1 = accept (Sys.startAccepted n (z.finishStops.startFig n) pl at_ { z.finishStops with dies := dies }) := by
  simp only [Sys.chControl, Sys.chStart, if_true, hrun]
  exact Sys.tryStart_accepted h

/-- Settles O11: an accepted start has changed only dies on its way through the checks and allocations, and what it sends and counts
afterwards leaves the channel as it was set. -/
theorem channelStarts : Obligations.ChannelStarts := by
  intro dt rq c s z hc hd hserves hrun hnone
  obtain ⟨dies, pl, at_, hstart⟩ := Sys.chStart_accepted hrun hnone
  exact ⟨_, wrote_of_plain hserves (write_chStart c hc hd) hstart, Sys.startAccepted_spec c _ pl at_ _⟩

/-- Settles O12: the run state of the channel decides. -/
theorem channelStops : Obligations.ChannelStops := by
  intro dt rq c s z hc hd hserves
  refine wrote_of_plain hserves (write_chStop c hc hd) ?_
  simp only [Sys.chControl, Sys.chStop, show ¬(2 : Nat) = 1 by decide, if_false]
  split
  · rfl
  · split <;> rfl

/-- Settles O13: the write is the request. -/
theorem refreshesAsked : Obligations.RefreshesAsked := by
  intro dt rq c s z hc hd hserves
  exact wrote_of_plain hserves (write_refreshNow c hc hd) rfl

/-- A set that takes the place of every other one of its context is the context's only one. -/
theorem acceptCommit_alone {y : Sys} {key : Nat} {own : Nat → Bool} {at_ : Int} (h : ∀ q ∈ y.pend, q.key ≠ key) :
    ((y.acceptCommit key own at_).pend.filter fun (q : Pend) => q.key == key).map (fun (q : Pend) => q.at_) = [at_] := by
  have hnone : ((y.pend.filter fun (q : Pend) => !(q.key == key && q.at_ == at_)).filter fun (q : Pend) => q.key == key) = [] := by
    rw [List.filter_eq_nil_iff]
    intro q hq
    simpa using h q (List.mem_filter.mp hq).1
  show List.map _ (List.filter _ (_ ++ [_])) = _
  rw [List.filter_append, hnone]
  simp

/-- The state of a commit stands behind it. -/
theorem chCommitState_eq (c : Nat) : Ob.ChCommitState c = Ob.ChCommit c + 1 := by
  simp only [Ob.ChCommitState, Ob.ChCommit]
  omega

/-- A bitrate that passes its checks waits in place of every earlier one of its channel (R162, R440). -/
theorem Sys.chCommit_accepted {z : Sys} {c : Nat} (hrun : (z.finishStops.chan c).run ≠ 0)
    (hchecks : firstFail (z.finishStops.bitrateChecks c (z.finishStops.shadowVal (Ob.RcBitrate c)).nat) = none) :
    let w := z.finishStops
    let b := (w.shadowVal (Ob.RcBitrate c)).nat
    let k := max (w.chan c).nextK (firstFrom (w.fig c).rn (w.fig c).rd (w.frameNow c false + usU 250))
    ∃ y, z.chCommit c = accept y ∧ y.nat (Ob.ChCommitState c) = 1 ∧
      (y.chan c).nextBitrate = (if b = (w.chan c).bitrate then none else some (b, (w.fig c).boundary k)) ∧
      (y.pend.filter fun (q : Pend) => q.key == Ob.ChCommit c).map (fun (q : Pend) => q.at_) = [(w.fig c).boundary k] := by
  intro w b k
  unfold Sys.chCommit
  dsimp only
  rw [if_neg hrun, hchecks]
  refine ⟨_, rfl, ?_, ?_, ?_⟩
  · rw [Sys.onChan_nat_read, chCommitState_eq]
    exact Sys.setInt_nat _ (Ob.ChCommit c + 1) 1
  · rw [Sys.onChan_self]
    rfl
  · exact acceptCommit_alone fun q hq => by simpa using (List.mem_filter.mp hq).2

/-- Settles O14: the bitrate of the shadow is what the commit's checks have seen. -/
theorem bitratePends : Obligations.BitratePends := by
  intro dt rq c b k s z hc hd hserves hrun hb hchecks hk
  subst hb hk
  obtain ⟨y, hy, hspec⟩ := Sys.chCommit_accepted hrun hchecks
  exact ⟨y, wrote_of_plain hserves (write_chCommit c hc hd) hy, hspec⟩

end Sys2Proof.Machine

/-! PROOFS. Steps of time bases, calibration, band tables and retries of PLLs, and the modes of ports and policers (10, 11, 12, 13; R296, R313,
R327 to R329, R336, R349). -/

namespace Sys2Proof.Machine

/-! ### Lists of changes -/

section
variable {α β : Type} {f : α → Sys → Sys} {l : List α} {a : α} {y : Sys} {I : Sys → Prop} {g : Sys → β}

/-- What every change of a list keeps, with the help of what they all keep, holds after them if it held before. -/
theorem Sys.each_invariant (hI : ∀ b y, I y → I (f b y)) (h : I y) : I (y.each l f) := by
  induction l generalizing y with
  | nil => exact h
  | cons b l ih => exact ih (hI b y h)

/-- What one change of a list brings about and no other undoes holds after the list. -/
theorem Sys.each_of_mem {P : Sys → Prop} (ha : a ∈ l) (hI : ∀ b y, I y → I (f b y)) (hset : ∀ y, I y → P (f a y))
    (hkeep : ∀ b y, P y → P (f b y)) (h : I y) : P (y.each l f) := by
  induction l generalizing y with
  | nil => cases ha
  | cons b l ih =>
    rcases List.mem_cons.mp ha with rfl | ha
    · rw [Sys.each_cons]
      exact Sys.each_invariant hkeep (hset y h)
    · exact ih ha (hI b y h)

/-- What the changes of a list leave alone. -/
theorem Sys.each_apart (hother : ∀ b ∈ l, ∀ y, g (f b y) = g y) : g (y.each l f) = g y := by
  induction l generalizing y with
  | nil => rfl
  | cons b l ih =>
    rw [Sys.each_cons, ih fun c hc => hother c (List.mem_cons_of_mem b hc), hother b List.mem_cons_self]

/-- What one change of a list alone touches is as that change leaves it, made on a state where it is as before the list. -/
theorem Sys.each_once (hnd : l.Nodup) (ha : a ∈ l) (hI : ∀ b y, I y → I (f b y)) (hother : ∀ b, b ≠ a → ∀ y, g (f b y) = g y) (h : I y) :
    ∃ w, I w ∧ g w = g y ∧ g (y.each l f) = g (f a w) := by
  induction l generalizing y with
  | nil => cases ha
  | cons b l ih =>
    obtain ⟨hb, hnd⟩ := List.nodup_cons.mp hnd
    by_cases hba : b = a
    · subst hba
      exact ⟨y, h, rfl, Sys.each_apart fun c hc => hother c fun hcb => hb (hcb ▸ hc)⟩
    · obtain ⟨w, hw, hgw, hew⟩ := ih hnd ((List.mem_cons.mp ha).resolve_left (Ne.symm hba)) (hI b y h)
      exact ⟨w, hw, hgw.trans (hother b hba y), hew⟩

end

/-! ### Steps of time bases -/

/-- A base with no consumer in an older view, or none that the step would carry more than an hour, accepts a step (R313). -/
theorem Sys.tbStepWrite_accepted {z : Sys} {b : Nat} {delta : Int} (hw : (z.tb b).waiting = [])
    (hc : z.consumers b = [] ∨ delta.natAbs ≤ secU 3600) :
    z.tbStepWrite b delta = accept ((z.setTb b { z.tb b with step := some (z.tbNow b + usU 250, delta) }).setInt (Ob.TbStepInstant b)
      (time96 (z.tbNow b + usU 250 + delta))) := by
  have hno : ¬((z.tb b).waiting ≠ [] ∨ (z.consumers b ≠ [] ∧ secU 3600 < delta.natAbs)) := by
    rintro (h | ⟨h, hlong⟩)
    · exact h hw
    · rcases hc with hc | hc
      · exact h hc
      · omega
  simp only [Sys.tbStepWrite, Sys.stepRequest, if_neg hno]
  rfl

/-- A step to the master is the step by what the base was judged to be off (R313). -/
theorem Sys.tbToMaster_judged {z : Sys} {b : Nat} {o : Int} (hj : (z.tb b).judged = some o) : z.tbToMaster b = z.tbStepWrite b (-o) := by
  rw [Sys.tbToMaster, hj]

/-- Settles O15: a step to the master is one by what the base was judged to be off, the other way. -/
theorem stepsStand : Obligations.StepsStand := by
  refine ⟨fun dt rq b delta s z hb hlo hhi hserves hw hc => ?_, fun dt rq b o s z hb hserves hj hw hc => ?_⟩
  · exact wrote_of_plain hserves (write_tbStep b delta hb ⟨hlo, hhi⟩) (Sys.tbStepWrite_accepted hw hc)
  · refine wrote_of_plain hserves (write_tbToMaster b hb) ?_
    exact (Sys.tbToMaster_judged hj).trans (Sys.tbStepWrite_accepted hw (hc.imp_right (Int.natAbs_neg o).trans_le))

/-! ### Calibration and band tables -/

/-- A calibration run waits behind the one under way (R329). -/
theorem Sys.bandCal_queued {z : Sys} {p e : Nat} (hlane : ¬(4 ≤ p ∧ z.lanePllUsed p = true)) (hrun : z.clk.run.isSome = true)
    (hq : z.clk.queue.contains (p, e) = false) :
    z.bandCal p e = accept { z with clk := { z.clk with queue := z.clk.queue ++ [(p, e)] } } := by
  obtain ⟨r, hr⟩ := Option.isSome_iff_exists.mp hrun
  simp only [Sys.bandCal, if_neg hlane, hq, Bool.false_eq_true, if_false, Sys.calStart, hr]

/-- With none under way it begins at once on D0, whose PLL goes to bypass (R329). -/
theorem Sys.bandCal_started {z : Sys} {p e : Nat} (hlane : ¬(4 ≤ p ∧ z.lanePllUsed p = true)) (hrun : z.clk.run = none)
    (hq : z.clk.queue = []) :
    z.bandCal p e = accept (({ z with clk := { z.clk with queue := [], run := some (p, e, 0) } } : Sys).pllBypass 0 p 6) := by
  simp only [Sys.bandCal, if_neg hlane, hq, List.contains_nil, Bool.false_eq_true, if_false, Sys.calStart, hrun, List.nil_append]

theorem Sys.setCal_none_keeps {y : Sys} {d p e d' p' e' : Nat} (h : y.cal d p e = none) : (y.setCal d' p' e' none).cal d p e = none := by
  unfold Sys.cal Sys.setCal at *
  by_cases hk : (8 * d + p) * 32 + e = (8 * d' + p') * 32 + e'
  · rw [hk]
    dsimp only
    rw [Tab.find_put_self]
  · dsimp only
    rwa [Tab.find_put_other _ _ _ hk]

theorem Sys.setCal_none_self (y : Sys) (d p e : Nat) : (y.setCal d p e none).cal d p e = none := by
  rw [Sys.cal, Sys.setCal]
  dsimp only
  rw [Tab.find_put_self]

/-- An entry that loses its calibration on every die (R328). -/
def Sys.uncalibrateEntry (p e : Nat) (y : Sys) : Sys := y.each y.dieList fun d y => y.setCal d p e none

theorem Sys.uncalibrateEntry_val (p e k : Nat) (y : Sys) : (y.uncalibrateEntry p e).val k = y.val k :=
  Sys.each_apart (f := fun d y => y.setCal d p e none) (g := (·.val k)) fun _ _ _ => rfl

theorem Sys.uncalibrateEntry_part (p e : Nat) (y : Sys) : (y.uncalibrateEntry p e).part = y.part :=
  Sys.each_apart (f := fun d y => y.setCal d p e none) (g := (·.part)) fun _ _ _ => rfl

theorem Sys.uncalibrateEntry_keeps {p e d p' e' : Nat} {y : Sys} (h : y.cal d p' e' = none) : (y.uncalibrateEntry p e).cal d p' e' = none :=
  Sys.each_invariant (f := fun d y => y.setCal d p e none) (I := fun y => y.cal d p' e' = none)
    (fun _ _ h => Sys.setCal_none_keeps h) h

theorem Sys.uncalibrateEntry_cal {p e d : Nat} {y : Sys} (hd : d < y.part.dies) : (y.uncalibrateEntry p e).cal d p e = none :=
  Sys.each_of_mem (f := fun d y => y.setCal d p e none) (I := fun _ => True) (P := fun y => y.cal d p e = none) (List.mem_range.mpr hd)
    (fun _ _ h => h) (fun y _ => y.setCal_none_self d p e) (fun _ _ h => Sys.setCal_none_keeps h) trivial

/-- Losing the calibration of some entries on every die (R328). -/
def Sys.uncalibrate (p : Nat) (l : List Nat) (y : Sys) : Sys := y.each l (Sys.uncalibrateEntry p)

theorem Sys.uncalibrate_val (y : Sys) (p : Nat) (l : List Nat) (k : Nat) : (y.uncalibrate p l).val k = y.val k :=
  Sys.each_apart (g := (·.val k)) fun e _ y => y.uncalibrateEntry_val p e k

theorem Sys.uncalibrate_bytes (y : Sys) (p : Nat) (l : List Nat) (k : Nat) : (y.uncalibrate p l).bytes k = y.bytes k := by
  simp only [Sys.bytes, Sys.uncalibrate_val]

theorem Sys.uncalibrate_part (y : Sys) (p : Nat) (l : List Nat) : (y.uncalibrate p l).part = y.part :=
  Sys.each_apart (g := (·.part)) fun e _ y => y.uncalibrateEntry_part p e

/-- An entry that lost its calibration is calibrated on no die, so not on D0. -/
theorem Sys.uncalibrate_calOk {y : Sys} {p e : Nat} {l : List Nat} (he : e ∈ l) (hdies : 0 < y.part.dies) :
    (y.uncalibrate p l).calOk p e = false := by
  have hcal : (y.uncalibrate p l).cal 0 p e = none :=
    Sys.each_of_mem (I := fun w => w.part = y.part) (P := fun w => w.cal 0 p e = none) he
      (fun e' w hw => (w.uncalibrateEntry_part p e').trans hw) (fun _ hw => Sys.uncalibrateEntry_cal (hw ▸ hdies))
      (fun _ _ h => Sys.uncalibrateEntry_keeps h) rfl
  have hmem : 0 ∈ (y.uncalibrate p l).dieList := List.mem_range.mpr (by rw [Sys.uncalibrate_part]; exact hdies)
  exact List.all_eq_false.mpr ⟨0, hmem, by simp [hcal]⟩

/-- A band table that changes no entry held is stored, and its changed entries lose their calibration (R328). -/
theorem Sys.bandTableWrite_accepted {z : Sys} {p : Nat} {data : List Byte} (hlen : data.length = 256)
    (hheld : ∀ e ∈ z.entriesHeld p, e < 32 → entryOf data e = z.entryShown p e) :
    z.bandTableWrite p data =
      accept ((z.setBytes (Ob.ClkBandTable p) ((List.range 32).flatMap fun e => leBytes 8 (entryWritable (entryOf data e)))).uncalibrate p
        ((List.range 32).filter fun e => entryWritable (entryOf data e) != entryWritable (entryOf (z.bytes (Ob.ClkBandTable p)) e))) := by
  have hany : ((z.entriesHeld p).any fun e => e < 32 && entryOf data e != z.entryShown p e) = false := by
    rw [List.any_eq_false]
    intro e he
    simpa using hheld e he
  simp only [Sys.bandTableWrite, hlen, hany, ne_eq, not_true, if_false, Bool.false_eq_true]
  rfl

/-! ### Retries -/

/-- What the retry of one die's PLL changes is that PLL. -/
theorem Sys.pllAttempt_clk (y : Sys) (d p : Nat) : ∃ x, y.pllAttempt d p = y.setPll d p x := by
  unfold Sys.pllAttempt
  dsimp only
  split
  · exact ⟨_, rfl⟩
  · split <;> exact ⟨_, rfl⟩

/-- A retry on one die: the failures are forgotten and an attempt begins (R336). -/
def Sys.retryPll (p d : Nat) (y : Sys) : Sys := (y.onPll d p fun x => { x with fails := 0 }).pllAttempt d p

theorem Sys.retryPll_eq (y : Sys) (p d : Nat) : ∃ x, y.retryPll p d = (y.onPll d p fun x => { x with fails := 0 }).setPll d p x :=
  Sys.pllAttempt_clk _ d p

theorem Sys.retryPll_val (y : Sys) (p d k : Nat) : (y.retryPll p d).val k = y.val k := by
  obtain ⟨x, hx⟩ := y.retryPll_eq p d
  rw [hx]
  rfl

theorem Sys.retryPll_now (y : Sys) (p d : Nat) : (y.retryPll p d).now = y.now := by
  obtain ⟨x, hx⟩ := y.retryPll_eq p d
  rw [hx]
  rfl

theorem Sys.retryPll_other {y : Sys} {p d e : Nat} (h : e ≠ d) : (y.retryPll p e).pll d p = y.pll d p := by
  obtain ⟨x, hx⟩ := y.retryPll_eq p e
  rw [hx, Sys.setPll_other _ _ _ _ _ _ (by omega)]
  exact Sys.setPll_other _ _ _ _ _ _ (by omega)

/-- On its reference, when that is present, a retry starts at once (R334, R336). -/
theorem Sys.retryPll_self {y : Sys} {p d : Nat} (h : (y.pll d p).refs.contains (y.nat (Ob.ClkRefSel p)) = true) :
    (y.retryPll p d).pll d p = { y.pll d p with
      fails := 0, st := 4, attempt := some y.now, lockedAt := none, settleAt := none, ref := y.nat (Ob.ClkRefSel p),
      entry := y.nat (Ob.ClkBandSelect p), alt := false } := by
  have h' : ((y.onPll d p fun x => { x with fails := 0 }).pll d p).refs.contains
      ((y.onPll d p fun x => { x with fails := 0 }).nat (Ob.ClkRefSel p)) = true := by
    rw [Sys.onPll_self]
    exact h
  rw [Sys.retryPll, Sys.pllAttempt]
  dsimp only
  rw [if_pos h', Sys.onPll_self, Sys.onPll_self]
  rfl

/-- Settles O16: queueing, storing and retrying, each by what its write does. -/
theorem bandsAndRetries : Obligations.BandsAndRetries := by
  refine ⟨⟨fun dt rq p e s z hp he hserves hlane hrun hq => ?queued, fun dt rq p e s z hp he hserves hlane hrun hq => ?started,
    fun dt rq p data s z hp hlen hserves hheld => ?table⟩, fun dt rq p s z hp hserves => ?retry⟩
  case queued => exact wrote_of_plain hserves (write_bandCal p e hp he) (Sys.bandCal_queued hlane hrun hq)
  case started => exact wrote_of_plain hserves (write_bandCal p e hp he) (Sys.bandCal_started hlane hrun hq)
  case table =>
    refine ⟨_, wrote_of_plain hserves (write_bandTable p data hp hlen) (Sys.bandTableWrite_accepted hlen hheld), ?_, fun k hk => ?_,
      fun e he hne hdies => ?_⟩
    · rw [Sys.uncalibrate_bytes, Sys.setBytes_self]
    · rw [Sys.uncalibrate_val]
      exact Sys.setVal_other _ _ _ _ hk
    · exact Sys.uncalibrate_calOk (List.mem_filter.mpr ⟨List.mem_range.mpr he, by simpa using hne⟩) hdies
  case retry =>
    refine ⟨_, wrote_of_plain hserves (write_clkRetry p hp) rfl, fun k => ?_, fun d hd => ⟨fun hst href => ?_, fun hst => ?_⟩⟩
    · exact Sys.each_keeps (·.val k) (fun d y => y.retryPll p d) (fun d y => y.retryPll_val p d k) _ z
    · have hmem : d ∈ z.dieList.filter fun d => (z.pll d p).st == 8 := List.mem_filter.mpr ⟨List.mem_range.mpr hd, by simpa using hst⟩
      obtain ⟨w, ⟨hval, hnow⟩, hpll, hself⟩ := Sys.each_once (f := fun d y => y.retryPll p d) (g := fun y => y.pll d p)
        (I := fun w => (∀ k, w.val k = z.val k) ∧ w.now = z.now) (List.nodup_range.filter _) hmem
        (fun e y h => ⟨fun k => (y.retryPll_val p e k).trans (h.1 k), (y.retryPll_now p e).trans h.2⟩)
        (fun e he y => Sys.retryPll_other he) ⟨fun _ => rfl, rfl⟩
      have hnat : ∀ k, w.nat k = z.nat k := fun k => by simp only [Sys.nat, hval]
      refine hself.trans ?_
      rw [Sys.retryPll_self (by rw [hnat]; exact (congrArg (fun x : Pll => x.refs.contains _) hpll).trans href), hnat, hnat, hnow]
      simp only [hpll]
    · refine Sys.each_apart (f := fun d y => y.retryPll p d) (g := fun y => y.pll d p) fun e he y => Sys.retryPll_other ?_
      rintro rfl
      exact hst (by simpa using (List.mem_filter.mp he).2)

/-! ### Modes of ports and policers -/

/-- The mode of a policer is none of its rates and bursts. -/
theorem polMode_ne (q : Nat) : Ob.PolCbs q ≠ Ob.PolMode q ∧ Ob.PolPeakBurst q ≠ Ob.PolMode q := by
  simp only [Ob.PolCbs, Ob.PolPeakBurst, Ob.PolMode]
  omega

/-- A write of a policer's mode, which fills the buckets where the mode changes (R296). -/
theorem Sys.polModeWrite_spec (z : Sys) (q m : Nat) :
    ∃ y, z.polModeWrite q m = accept y ∧ y.nat (Ob.PolMode q) = m ∧ (∀ k, k ≠ Ob.PolMode q → y.val k = z.val k) ∧
      y.pol q = if z.nat (Ob.PolMode q) = m then z.pol q
        else { z.pol q with tc := (z.nat (Ob.PolCbs q) * 65536 : Nat), tp := (z.nat (Ob.PolPeakBurst q) * 65536 : Nat), at_ := z.now } := by
  by_cases hm : z.nat (Ob.PolMode q) = m
  · exact ⟨z, by rw [Sys.polModeWrite, if_pos hm], hm, fun _ _ => rfl, by rw [if_pos hm]⟩
  · obtain ⟨hcbs, hpeak⟩ := polMode_ne q
    refine ⟨_, by rw [Sys.polModeWrite, if_neg hm], ?_, fun k hk => ?_, ?_⟩
    · exact Sys.setInt_nat z _ m
    · exact Sys.setInt_other z _ _ _ hk
    · rw [if_neg hm, Sys.polFull, Sys.setPol_self, Sys.nat, Sys.nat, Sys.setInt_other _ _ _ _ hcbs, Sys.setInt_other _ _ _ _ hpeak]
      rfl

/-- Settles O17: a mode that R349 does not refuse is stored, and a policer's mode by its write. -/
theorem modesWritten : Obligations.ModesWritten := by
  refine ⟨fun dt rq p m s z hp hd hm hserves hok => ?_, fun dt rq q m s z hq hd hm hserves => ?_⟩
  · refine wrote_of_plain hserves (write_portMode p m hp hd hm) ?_
    rw [Sys.portModeWrite, if_neg hok]
  · obtain ⟨y, hy, hspec⟩ := Sys.polModeWrite_spec z q m
    have hw := write_polMode (src := rq.src) (m := s.mem) (fl := s.flash) q m hq hd hm
    rw [if_pos hq] at hw
    refine ⟨y, ?_, hspec⟩
    show actMem dt (onAll (wholeWrite rq (if q < 2048 then 0x3400 + q / 8 else 0) _ _)) s = _
    rw [if_pos hq]
    exact wrote_of_plain hserves hw hy

end Sys2Proof.Machine

/-! PROOFS. Reads, segmented writes, the hardware path, the raw window and the decode error address (16, 17, 18; R415, R436, R443, R446,
R447, R452 to R455, R476, R526). -/

namespace Sys2Proof.Machine

/-! ### Changes of a session, one after another -/

/-- Two changes of a session make one. -/
theorem Sys.onSession_onSession {src : Src} {f g : Session → Session} (hsrc : ∀ x, (f x).src = x.src) (y : Sys) :
    (y.onSession src f).onSession src g = y.onSession src fun x => g (f x) := by
  unfold Sys.onSession
  simp only [List.map_map]
  congr 2
  refine List.map_congr_left fun x _ => ?_
  by_cases h : x.src = src
  · simp [h, hsrc]
  · simp [h]

/-- A snapshot that is replaced is as good as one that was dropped first. -/
theorem Sys.dropSnap_snap (y : Sys) (src : Src) (n : Option Snap) :
    (y.dropSnap src).onSession src (fun x => { x with snap := n }) = y.onSession src fun x => { x with snap := n } :=
  Sys.onSession_onSession (f := fun x => { x with snap := none }) (fun _ => rfl) y

/-- The session of a source after a change of it. -/
theorem Sys.onSession_session {src : Src} {f : Session → Session} (hsrc : ∀ x, (f x).src = x.src) (y : Sys) :
    (y.onSession src f).session src = (y.session src).map f := by
  unfold Sys.session Sys.onSession
  dsimp only
  induction y.mgmt.sessions with
  | nil => rfl
  | cons x l ih =>
    by_cases h : x.src = src
    · simp [h, hsrc]
    · simpa [h] using ih

/-- A snapshot has nothing to do with the window address. -/
theorem Sys.dropSnap_winAddr (y : Sys) (src : Src) : (y.dropSnap src).winAddr src = y.winAddr src := by
  rw [Sys.winAddr, Sys.winAddr, Sys.dropSnap, Sys.onSession_session (f := fun x => { x with snap := none }) fun _ => rfl, Option.map_map]
  rfl

/-! ### Reads -/

section
variable {src : Src} {idx sub : Nat} {m fl : List Host.Cell} {z : Sys} {l : Loc}

/-- A read of an object that neither the window nor a read's side effect concerns gives its value (R436). -/
theorem readObject_value (live : Bool) (hl : locate z.part.dies idx sub = some l) (hacc : l.row.acc ≠ .wo) (hwin : l.base ≠ 0x5001)
    (hdec : l.base ≠ 0x5041) :
    readObject src idx sub live (m, fl, z) = (.ok (encodeVal l.row.ty (z.readVal fl l (objKey idx sub) live)), (m, fl, z)) := by
  simp only [readObject, hl, hacc, hwin, hdec, false_and, if_false]

/-- What a READ answers when its object reads as `b`, and leaves `y`: `b` itself, or its length and a snapshot (R445, R447). -/
theorem serveRead_ok {live : Bool} {b : List Byte} {y : Sys}
    (hr : readObject src idx sub live (m, fl, z.dropSnap src) = (.ok b, (m, fl, y))) :
    serveRead src idx sub live (m, fl, z) =
      if b.length ≤ payloadLimit src then (.ok (0x81, b), (m, fl, y))
      else (.ok (0x84, leBytes 4 b.length),
        (m, fl, y.onSession src fun x => { x with snap := some { idx := idx, sub := sub, data := b, t := y.now } })) := by
  simp only [serveRead, Full.map, hr]

/-- A part of the snapshot of an object that is listed (R447). -/
theorem serveReadSeg_part {off : Nat} {n : Snap} (hsnap : (z.session src).bind Session.snap = some n) (hidx : n.idx = idx)
    (hsub : n.sub = sub) (hl : (locate z.part.dies idx sub).isSome = true) :
    serveReadSeg src idx sub off (m, fl, z) = (.ok (0x85, (n.data.drop off).take (payloadLimit src)),
      (m, fl, z.onSession src fun x => { x with snap := some { n with t := z.now } })) := by
  have hl' : (locate z.part.dies idx sub).isNone = false := Option.isNone_eq_false_iff.mpr hl
  simp only [serveReadSeg, hsnap, hl', hidx, hsub, and_self, if_true, Bool.false_eq_true, if_false, Full.map]

/-- The type of an object that is listed (R526). -/
theorem serveDescribe_listed (hl : locate z.part.dies idx sub = some l) :
    serveDescribe idx sub (m, fl, z) =
      (.ok (0x87, codes [l.row.ty.code, l.row.acc.code] ++ leBytes 4 (l.row.ty.size.getD l.row.size)), (m, fl, z)) := by
  simp only [serveDescribe, describeObject, hl]

/-! ### Segmented writes -/

/-- A segmented write of an object that can be written begins with no bytes (R446). -/
theorem serveInit_opened {total : Nat} (hl : locate z.part.dies idx sub = some l) (hro : l.row.acc ≠ .ro) (hconst : l.row.acc ≠ .const)
    (hok : initOk l total = true) (hpos : 0 < total) :
    serveInit src idx sub total (m, fl, z) =
      (.ok (0x83, []), (m, fl, z.setSeg src (some { idx := idx, sub := sub, total := total, t := z.now }))) := by
  have hw : writableAt z.part.dies idx sub = .ok l := by simp only [writableAt, hl, hro, hconst, or_self, if_false]
  simp only [serveInit, hw, hok, if_true, if_neg hpos.ne', Full.map, Sys.setSeg]

section
variable {off : Nat} {b : List Byte} {w : SegWrite} (hseg : (z.session src).bind Session.seg = some w) (hidx : w.idx = idx)
  (hsub : w.sub = sub) (hl : (locate z.part.dies idx sub).isSome = true) (hdone : w.done = none) (hlast : w.last ≠ some off)
  (hoff : off = w.data.length)
include hseg hidx hsub hl hdone hlast hoff

/-- The next segment adds its bytes; the one that completes the value writes it (R446). -/
theorem serveSeg_next (hlen : off + b.length ≤ w.total) :
    serveSeg src idx sub off b (m, fl, z) =
      if off + b.length < w.total then
        (.ok (0x84, []), (m, fl, z.setSeg src (some { w with data := w.data ++ b, last := some off, t := z.now })))
      else
        let r := writeObject src idx sub (w.data ++ b) (m, fl, z)
        (match r.1 with | some e => .error e | none => .ok (0x84, []),
          r.2.map (Sys.setSeg src (some { w with data := w.data ++ b, last := some off, t := z.now, done := some r.1 }))) := by
  subst hoff
  have hl' : (locate z.part.dies idx sub).isNone = false := Option.isNone_eq_false_iff.mpr hl
  have hplace : ¬(w.idx ≠ idx ∨ w.sub ≠ sub) := by simp [hidx, hsub]
  have hnext : ¬(w.data.length ≠ w.data.length ∨ w.total < w.data.length + b.length ∨ w.done.isSome = true) := by
    simpa [hdone] using hlen
  simp only [serveSeg, hseg, hl', Bool.false_eq_true, if_false, if_neg hplace, if_neg hlast, if_neg hnext, List.length_append]
  rfl

end
end

/-- Settles O18: a READ by what its object reads as, READ_SEG by the snapshot, DESCRIBE by the object's row. -/
theorem readsAnswer : Obligations.ReadsAnswer := by
  refine ⟨fun dt rq idx sub live s z l b hserves hl hacc hwin hdec hfast hb => ?_,
    fun dt rq idx sub off s z n hoff hserves hsnap hidx hsub hl => ?_, fun dt rq idx sub s z l hserves hl => ?_⟩
  · have hread := serveRead_ok (m := s.mem) (readObject_value (z := z.dropSnap rq.src) (src := rq.src) (fl := s.flash) live hl hacc hwin hdec)
    rw [← hb] at hread
    refine ⟨fun hlen => ?_, fun hlen => ?_⟩
    · rw [if_pos hlen] at hread
      exact readRequest_answered hserves hfast hread
    · rw [if_neg (Nat.not_le.mpr hlen), Sys.dropSnap_snap] at hread
      exact readRequest_answered hserves hfast hread
  · have hpart := serveReadSeg_part (m := s.mem) (fl := s.flash) (off := off % 2 ^ 32) hsnap hidx hsub hl
    rw [Nat.mod_eq_of_lt hoff] at hpart
    exact request_answered hserves (by rw [Nat.mod_eq_of_lt hoff]; exact hpart)
  · exact request_answered hserves (serveDescribe_listed hl)

/-- Settles O19: each segment by what the transfer's next segment does. -/
theorem segmentsWrite : Obligations.SegmentsWrite := by
  refine ⟨fun dt rq idx sub total s z l hpos htot hserves hl hro hconst hok => ?_,
    fun dt rq idx sub off b s z w hoff hserves hseg hidx hsub hl hdone hlast hnext hlt => ?_,
    fun dt rq idx sub off b s z w r hoff hserves hseg hidx hsub hl hdone hlast hnext heq hr => ?_⟩
  · exact request_answered hserves (by rw [Nat.mod_eq_of_lt htot]; exact serveInit_opened hl hro hconst hok hpos)
  · refine request_answered hserves ?_
    rw [Nat.mod_eq_of_lt hoff, serveSeg_next hseg hidx hsub hl hdone hlast hnext hlt.le, if_pos hlt]
  · have hserve := serveSeg_next (m := s.mem) (fl := s.flash) hseg hidx hsub hl hdone hlast hnext heq.le
    rw [if_neg heq.not_lt, ← hr] at hserve
    have hexec : exec (.writeSeg dt rq idx sub off b) s = actMem dt (onAll (request rq 0x04 idx sub 0 (leBytes 4 off ++ b) (4 + b.length)
        (serveSeg rq.src idx sub (off % 2 ^ 32) b))) s := rfl
    rw [hexec, Nat.mod_eq_of_lt hoff, actMem_eq]
    simp only [onAll, request_served hserves, hserve]
    rfl

end Sys2Proof.Machine

/-! PROOFS. The hardware path, the raw window and the decode error address (16, 17, 18; R415, R452 to R455, R476). -/

namespace Sys2Proof.Machine

/-! ### Answers by hardware -/

/-- A request that reaches D0's Beryl acts on the state its session was opened in. -/
theorem arrive_reached {dt bytes : Nat} {src : Src} {s : State} {z : Sys} (h : Reaches dt src bytes s z) (m : Msg) (serve : Full → Full) :
    arrive src m serve (s.mem, s.flash, s.sys.elapse dt) = serve (s.mem, s.flash, z) := by
  simp only [arrive, h.hears, h.opens, if_true]

/-- A READ of the fast table is answered by hardware (R454). -/
theorem readRequest_fast {dt : Nat} {rq : Req} {idx sub : Nat} {s : State} {z : Sys} (h : Reaches dt rq.src 0 s z)
    (hfast : z.isFast idx sub false = true) :
    readRequest rq idx sub false (s.mem, s.flash, s.sys.elapse dt) =
      (s.mem, s.flash, (z.dropSnap rq.src).fastAnswer rq.src (reqMsg 0x01 rq idx sub 0 []) (z.mirrored (idx, sub))) := by
  simp only [readRequest, h.arrives, if_true, arrive_reached h, hfast, Full.map]
  rfl

/-- A FAST_READ while the package runs is answered by hardware (R455). -/
theorem fastRequest_fast {dt : Nat} {rq : Req} {first count : Nat} {s : State} {z : Sys} (h : Reaches dt rq.src 2 s z)
    (hrun : z.running = true) :
    fastRequest rq first count (s.mem, s.flash, s.sys.elapse dt) =
      (s.mem, s.flash, z.fastAnswer rq.src (reqMsg 0x06 rq 0 0 0 [BitVec.ofNat 8 first, BitVec.ofNat 8 count])
        (z.fastBytes rq.src (first % 256) (count % 256))) := by
  simp only [fastRequest, h.arrives, if_true, arrive_reached h, hrun, Full.map]
  rfl

theorem Sys.fastAnswer_count (src : Src) (q : Msg) (b : List Byte) (y : Sys) :
    (y.fastAnswer src q b).nat Ob.FastAnswers = (y.nat Ob.FastAnswers + 1) % wrapOf y.part.dies Ob.FastAnswers := by
  rw [Sys.fastAnswer, Sys.emit_nat_read, Sys.bump_nat]

theorem Sys.fastAnswer_other (src : Src) (q : Msg) (b : List Byte) (y : Sys) {k : Nat} (h : k ≠ Ob.FastAnswers) :
    (y.fastAnswer src q b).val k = y.val k := by
  rw [Sys.fastAnswer, Sys.emit_val_read, Sys.bump_other _ _ _ _ h]

/-! ### The mirror -/

/-- The state with another mirror. -/
def Sys.setMirror (m : Tab Val) (y : Sys) : Sys := { y with mgmt := { y.mgmt with mirror := m } }

/-- No object shows the mirror. -/
theorem Sys.setMirror_readVal (y : Sys) (m : Tab Val) (fl : List Host.Cell) (l : Loc) (key : Nat) (live : Bool) :
    (y.setMirror m).readVal fl l key live = y.readVal fl l key live := rfl

theorem Sys.setMirror_val (y : Sys) (m : Tab Val) (k : Nat) : (y.setMirror m).val k = y.val k := rfl

theorem Sys.setMirror_self (y : Sys) : y.setMirror y.mgmt.mirror = y := rfl

/-- The mirror with an entry of the fast table brought up to the present, when `which` picks it. -/
def Sys.mirrorEntry (which : Loc → Bool) (fl : List Host.Cell) (y : Sys) (m : Tab Val) (e : Nat × Nat) : Tab Val :=
  match locate y.part.dies e.1 e.2 with
  | some l => if which l then Tab.put (fun _ => .int 0) m (objKey e.1 e.2) (y.readVal fl l (objKey e.1 e.2) true) else m
  | none => m

/-- All that an update of the mirror changes is the mirror, entry by entry. -/
theorem Sys.mirrorThe_setMirror (y : Sys) (m : Tab Val) (which : Loc → Bool) (fl : List Host.Cell) :
    (y.setMirror m).mirrorThe which fl = y.setMirror ((y.fastEntries.filterMap id).foldl (y.mirrorEntry which fl) m) := by
  have hall : ∀ (l : List (Nat × Nat)) (m : Tab Val), ((y.setMirror m).each l fun e y =>
      match locate y.part.dies e.1 e.2 with
      | some l =>
        if which l then
          let m := Tab.put (fun _ => .int 0) y.mgmt.mirror (objKey e.1 e.2) (y.readVal fl l (objKey e.1 e.2) true)
          { y with mgmt := { y.mgmt with mirror := m } }
        else y
      | none => y) = y.setMirror (l.foldl (y.mirrorEntry which fl) m) := by
    intro l
    induction l with
    | nil => exact fun _ => rfl
    | cons e l ih =>
      intro m
      rw [Sys.each_cons, List.foldl_cons, ← ih, Sys.mirrorEntry]
      congr 1
      show (match locate y.part.dies e.1 e.2 with | some l => _ | none => _) = _
      cases locate y.part.dies e.1 e.2 with
      | none => rfl
      | some l => cases h : which l <;> simp only [h] <;> rfl
  exact hall _ _

/-- Objects whose subindices are bytes have different keys. -/
theorem objKey_inj {i j s t : Nat} (hs : s < 256) (ht : t < 256) (h : objKey i s = objKey j t) : (i, s) = (j, t) := by
  unfold objKey at h
  rw [Prod.mk.injEq]
  omega

/-- The subindex of an entry of the fast table is a byte. -/
theorem fastEntry_sub {t : List Byte} {i : Nat} {e : Nat × Nat} (h : fastEntry t i = some e) : e.2 < 256 := by
  unfold fastEntry at h
  dsimp only at h
  split at h
  · cases h
  · cases h
    exact Nat.mod_lt _ (by decide)

theorem Sys.mem_fastEntries_sub {y : Sys} {e : Nat × Nat} (h : e ∈ y.fastEntries.filterMap id) : e.2 < 256 := by
  simp only [Sys.fastEntries, List.mem_filterMap, List.mem_map, id] at h
  obtain ⟨-, ⟨i, -, rfl⟩, he⟩ := h
  exact fastEntry_sub he

section
variable {y : Sys} {which : Loc → Bool} {fl : List Host.Cell} {m : Tab Val} {e : Nat × Nat} {l : Loc}
  (hl : locate y.part.dies e.1 e.2 = some l) (hsub : e.2 < 256)
include hl

/-- An entry that is picked takes its value. -/
theorem Sys.mirrorEntry_self (hw : which l = true) :
    Tab.find (fun _ => .int 0) (y.mirrorEntry which fl m e) (objKey e.1 e.2) = y.readVal fl l (objKey e.1 e.2) true := by
  simp only [Sys.mirrorEntry, hl, hw, if_true]
  rw [Tab.find_put_self]

include hsub

/-- An entry that has its value keeps it when another is brought up to the present. -/
theorem Sys.mirrorEntry_keeps {e' : Nat × Nat} (hsub' : e'.2 < 256)
    (h : Tab.find (fun _ => .int 0) m (objKey e.1 e.2) = y.readVal fl l (objKey e.1 e.2) true) :
    Tab.find (fun _ => .int 0) (y.mirrorEntry which fl m e') (objKey e.1 e.2) = y.readVal fl l (objKey e.1 e.2) true := by
  by_cases hk : objKey e.1 e.2 = objKey e'.1 e'.2
  · obtain rfl : e = e' := objKey_inj hsub hsub' hk
    by_cases hw : which l = true
    · exact Sys.mirrorEntry_self hl hw
    · simp only [Sys.mirrorEntry, hl, if_neg hw]
      exact h
  · unfold Sys.mirrorEntry
    split
    · split
      · rw [Tab.find_put_other _ _ _ hk]
        exact h
      · exact h
    · exact h

/-- After a pass over entries every one of them that is picked has its value. -/
theorem Sys.mirrorEntries_find {es : List (Nat × Nat)} (hes : ∀ e' ∈ es, e'.2 < 256) (hw : which l = true) (he : e ∈ es) :
    Tab.find (fun _ => .int 0) (es.foldl (y.mirrorEntry which fl) m) (objKey e.1 e.2) = y.readVal fl l (objKey e.1 e.2) true := by
  have hkeep : ∀ (es : List (Nat × Nat)) (m : Tab Val), (∀ e' ∈ es, e'.2 < 256) →
      Tab.find (fun _ => .int 0) m (objKey e.1 e.2) = y.readVal fl l (objKey e.1 e.2) true →
      Tab.find (fun _ => .int 0) (es.foldl (y.mirrorEntry which fl) m) (objKey e.1 e.2) = y.readVal fl l (objKey e.1 e.2) true := by
    intro es
    induction es with
    | nil => exact fun _ _ h => h
    | cons e' es ih =>
      intro m hes h
      exact ih _ (fun x hx => hes x (List.mem_cons_of_mem _ hx))
        (Sys.mirrorEntry_keeps hl hsub (hes e' List.mem_cons_self) h)
  induction es generalizing m with
  | nil => cases he
  | cons e' es ih =>
    have hes' : ∀ x ∈ es, x.2 < 256 := fun x hx => hes x (List.mem_cons_of_mem _ hx)
    rcases List.mem_cons.mp he with rfl | he
    · exact hkeep es _ hes' (Sys.mirrorEntry_self hl hw)
    · exact ih hes' he

end

/-- A table of entries that may stand replaces the one before, and the mirror is filled afresh (R452). -/
theorem Sys.fastWrite_accepted {z : Sys} {b : List Byte} (hok : ((List.range 256).all fun i => fastOk z.part.dies (fastEntry b i)) = true)
    (fl : List Host.Cell) :
    z.fastWrite b fl = accept ((z.setBytes Ob.FastTable b).setMirror
      (((z.setBytes Ob.FastTable b).fastEntries.filterMap id).foldl ((z.setBytes Ob.FastTable b).mirrorEntry (fun _ => true) fl) [])) := by
  rw [Sys.fastWrite, if_pos hok, ← Sys.mirrorThe_setMirror]
  rfl

/-- A command that leaves package memory and the flash alone. -/
theorem actMem_done {dt : Nat} {f : List Host.Cell → List Host.Cell → Sys → List Host.Cell × List Host.Cell × Sys} {s : State} {y : Sys}
    (h : f s.mem s.flash (s.sys.elapse dt) = (s.mem, s.flash, y)) : actMem dt f s = .next { s with sys := y } := by
  rw [actMem_eq, h]

/-- Settles O20: the hardware's answers by what reaches it, the mirror's updates entry by entry. -/
theorem fastPath : Obligations.FastPath := by
  refine ⟨⟨fun dt rq idx sub s z hreach hfast => ?_, fun dt rq first count s z hreach hrun hf hc => ?_⟩,
    fun dt rq b s z hlen hserves hok => ?_, fun dt d s hrun hd => ?_⟩
  · exact ⟨_, actMem_done (readRequest_fast hreach hfast), rfl, Sys.fastAnswer_count .., fun k hk => Sys.fastAnswer_other _ _ _ _ hk, rfl⟩
  · have hanswer := fastRequest_fast (first := first) (count := count) hreach hrun
    rw [Nat.mod_eq_of_lt hf, Nat.mod_eq_of_lt hc] at hanswer
    exact ⟨_, actMem_done hanswer, rfl, Sys.fastAnswer_count .., fun k hk => Sys.fastAnswer_other _ _ _ _ hk, rfl⟩
  · refine ⟨_, wrote_of_plain hserves (write_fastTable b hlen) (Sys.fastWrite_accepted hok s.flash), ?_, rfl, fun k hk => ?_, ?_⟩
    · rw [Sys.bytes, Sys.setMirror_val]
      exact Sys.setBytes_self _ _ _
    · rw [Sys.setMirror_val]
      exact Sys.setVal_other _ _ _ _ hk
    · refine congrArg (fun f => List.foldl f [] ((z.setBytes Ob.FastTable b).fastEntries.filterMap id)) (funext₂ fun m e => ?_)
      rw [Sys.mirrorEntry, Sys.setBytes_part]
      cases locate z.part.dies e.1 e.2 with
      | none => rfl
      | some l => simp only [Sys.setMirror_readVal, if_true]
  · have hupdate : fastUpdate d (s.mem, s.flash, s.sys.elapse dt) = (s.mem, s.flash, (s.sys.elapse dt).setMirror
        (((s.sys.elapse dt).fastEntries.filterMap id).foldl
          ((s.sys.elapse dt).mirrorEntry (fun l => (s.sys.elapse dt).holder l == d) s.flash) (s.sys.elapse dt).mgmt.mirror)) := by
      rw [← Sys.mirrorThe_setMirror, Sys.setMirror_self, fastUpdate, if_pos (by rw [hrun, hd]; rfl)]
      rfl
    refine ⟨_, actMem_done hupdate, rfl, fun idx sub l he hl hhold => ?_⟩
    have hmem : (idx, sub) ∈ (s.sys.elapse dt).fastEntries.filterMap id :=
      List.mem_filterMap.mpr ⟨some (idx, sub), by simpa using he, rfl⟩
    exact Sys.mirrorEntries_find (y := s.sys.elapse dt) (which := fun l => (s.sys.elapse dt).holder l == d) (fl := s.flash) (m := (s.sys.elapse dt).mgmt.mirror) 
      (e := (idx, sub)) hl (Sys.mem_fastEntries_sub hmem) (fun _ => Sys.mem_fastEntries_sub) (beq_iff_eq.mpr hhold) hmem

end Sys2Proof.Machine

/-! PROOFS. The raw window and the decode error address (16, 18; R415, R476). -/

namespace Sys2Proof.Machine

/-- One message holds every number. -/
theorem leBytes_fits {n : Nat} (hn : n ≤ 56) (v : Nat) (src : Src) : (leBytes n v).length ≤ payloadLimit src := by
  rw [leBytes_length]
  cases src with
  | udp _ _ => exact hn.trans (by decide : 56 ≤ 1400)
  | can _ => exact hn

/-- A number's bytes depend on what they hold of it. -/
theorem leBytes_mod (n v : Nat) : leBytes n (v % 256 ^ n) = leBytes n v := by
  induction n generalizing v with
  | zero => rfl
  | succ n ih =>
    have hlow : BitVec.ofNat 8 (v % 256 ^ (n + 1)) = BitVec.ofNat 8 v :=
      BitVec.eq_of_toNat_eq (by
        rw [BitVec.toNat_ofNat, BitVec.toNat_ofNat]
        exact Nat.mod_mod_of_dvd v (Dvd.intro_left (256 ^ n) rfl))
    have hhigh : v % 256 ^ (n + 1) / 256 = v / 256 % 256 ^ n := by rw [Nat.pow_succ', Nat.mod_mul_right_div_self]
    rw [leBytes, leBytes, hlow, hhigh, ih]

/-- The bytes of a number of a type that has a size (R436). -/
theorem encodeVal_nat {ty : Ty} {n : Nat} (hn : ty.size = some n) (v : Nat) : encodeVal ty (.int v) = leBytes n v := by
  have hu : toUnsigned n (v : Int) = v % 256 ^ n := by
    rw [toUnsigned, ← Int.natCast_emod, Int.toNat_natCast]
  simp only [encodeVal, hn, hu, leBytes_mod]

/-! ### The raw window -/

theorem locate_winData (dies : Nat) : locate dies 0x5001 0x02 = some ⟨0x5001, 0, 0x02, ⟨2, 1, .u32, .rw, .n 0, .any, 4⟩⟩ :=
  locate_at rfl (by decide) (by decide) Nat.zero_lt_one (by decide) rfl

section
variable {z : Sys} {a d o : Nat} {m fl : List Host.Cell}

/-- A read of a memory target that is kept, and whose burst is sound, gives its four bytes (R476). -/
theorem winRead_kept {k : Nat} (hplace : z.winPlace a = some (d, o)) (hbad : winBad o = false) (hreg : targetOf o ≠ 7) (hflag : targetOf o ≠ 8)
    (hkept : keptAt (z.die d).remap d o = some k) (hsound : ¬((targetOf o = 5 ∨ targetOf o = 6) ∧ z.dramSound d o = false)) :
    winRead a (m, fl, z) = (some (leNat (loadBytes memDflt m k 4)), (m, fl, z)) := by
  have hmem : ¬(targetOf o = 7 ∨ targetOf o = 8) := by simp [hreg, hflag]
  simp only [winRead, hplace, hbad, hkept, if_neg hmem, if_neg hsound, Bool.false_eq_true, if_false]

/-- A write of a register or flag address is done as the register does it, counted and raised (R476). -/
theorem Sys.winWrite_done {w : Nat} (hplace : z.winPlace a = some (d, o)) (ht : targetOf o = 7 ∨ targetOf o = 8) (hbad : winBad o = false) :
    z.winWrite a w = accept (((z.regWrite d o w 17).bump Ob.DiagWinWrites 1).raise 0x0108 d a) := by
  have hreg : ¬(targetOf o ≠ 7 ∧ targetOf o ≠ 8) := by
    rcases ht with h | h <;> simp [h]
  simp only [Sys.winWrite, hplace, if_neg hreg, hbad, Bool.false_eq_true, if_false]

end

/-! ### The decode error address -/

/-- DieFabDecAddr of a die of the part. -/
theorem locate_decAddr {dies d : Nat} (hd : d < dies) :
    locate dies 0x5041 (d + 1) = some ⟨0x5041, 0, d + 1, ⟨0x01, 8, .u64, .ro, .n 0, .any, 8⟩⟩ := by
  have hrows : rowsOf 0x5041 = rows5041 := rfl
  have hsplit : splitIndex dies 0x5041 (d + 1) = (0x5041, 0, d + 1, 1) := rfl
  have hspan : ObjRow.span ⟨0x01, 8, .u64, .ro, .n 0, .any, 8⟩ 0x5041 dies = dies := by
    rw [ObjRow.span, if_pos (by decide)]
    simp
  simp only [locate, hsplit, hrows, rows5041, rowFor, hspan]
  rw [if_neg (by omega), if_neg (by omega), if_pos (by omega)]

/-- It shows the address kept. -/
theorem Sys.readVal_decAddr (y : Sys) (fl : List Host.Cell) (d key : Nat) (row : ObjRow) (live : Bool) :
    y.readVal fl ⟨0x5041, 0, d + 1, row⟩ key live = .int (y.die d).fab.decAddr := by
  have hstatus : y.status fl ⟨0x5041, 0, d + 1, row⟩ = y.dieStatus 0x5041 d := by
    simp [Sys.status]
  rw [Sys.readVal, if_neg (Nat.succ_ne_zero d), hstatus]
  rfl

/-- A read of it clears it (R415). -/
theorem readObject_decAddr {src : Src} {m fl : List Host.Cell} {z : Sys} {d : Nat} (live : Bool) (hd : d < z.part.dies) :
    readObject src 0x5041 (d + 1) live (m, fl, z) =
      (.ok (encodeVal .u64 (.int (z.die d).fab.decAddr)), (m, fl, z.clearDecAddr d)) := by
  simp only [readObject, locate_decAddr hd, Sys.readVal_decAddr]
  rfl

/-- Settles O21: each access by what the window's address leads to, and the decode error address by its read. -/
theorem windowAndDecodeAddress : Obligations.WindowAndDecodeAddress := by
  refine ⟨⟨fun dt rq a s z ha halign hserves => ?_,
    fun dt rq d o k s z hserves hplace hbad hreg hflag hkept hsound hfast => ?_,
    fun dt rq w d o s z hw hserves hplace ht hbad => ?_⟩, fun dt rq d s z hd8 hd hserves hfast => ?_⟩
  · refine wholeWrite_done hserves ?_
    rw [write_winAddr a ha, if_pos halign]
    rfl
  · have hwin := winRead_kept (z := z.dropSnap rq.src) (m := s.mem) (fl := s.flash) hplace hbad hreg hflag hkept hsound
    have hread : readObject rq.src 0x5001 0x02 false (s.mem, s.flash, z.dropSnap rq.src) =
        (.ok (leBytes 4 (leNat (loadBytes memDflt s.mem k 4))), (s.mem, s.flash, z.dropSnap rq.src)) := by
      simp only [readObject, locate_winData, Sys.dropSnap_winAddr, hwin]
      rfl
    have hserve := serveRead_ok hread
    rw [if_pos (leBytes_fits (by decide) _ _)] at hserve
    exact readRequest_answered hserves hfast hserve
  · refine ⟨_, wrote_of_plain hserves (write_winData w hw) (Sys.winWrite_done hplace ht hbad), ?_, fun k hk => ?_, ?_, ?_, ?_⟩
    · rw [Sys.raise_nat_read, Sys.bump_nat]
    · rw [Sys.raise_val_read, Sys.bump_other _ _ _ _ hk]
    · rw [Sys.raise_dies, Sys.bump_dies]
    · rw [Sys.raise_shadow, Sys.bump_shadow]
    · rw [Sys.raise_raised, Sys.bump_evs, Sys.bump_now]
  · have hserve := serveRead_ok (m := s.mem) (fl := s.flash) (readObject_decAddr (src := rq.src) (z := z.dropSnap rq.src) false hd)
    rw [encodeVal_nat rfl, if_pos (leBytes_fits (by decide) _ _)] at hserve
    refine ⟨_, ?_, rfl⟩
    have hexec : exec (.dieFabDecAddrRead dt rq d) s = exec (.read dt rq 0x5041 (d + 1) false) s := by
      show execDieFabDecAddrRead dt rq d s = execRead dt rq 0x5041 (d + 1) false s
      rw [execDieFabDecAddrRead, if_pos hd8, execRead]
    rw [Answered, hexec]
    exact readRequest_answered hserves hfast hserve

end Sys2Proof.Machine

/-! PROOFS. What lanes and ports do when they are switched, brought up and taken down: the rules the statements about them use (13;
R277, R348 to R361). -/

namespace Sys2Proof.Machine

/-! ### Time bases hold over -/

/-- `y` is `z` but for the time bases and for what they raised. -/
def Sys.TimeOnly (z y : Sys) : Prop :=
  ∃ (j : Jas) (r : List Ev), y = { z with jas := j, evs := { z.evs with raised := z.evs.raised ++ r } }

theorem Sys.TimeOnly.refl (z : Sys) : z.TimeOnly z := ⟨z.jas, [], by rw [List.append_nil]⟩

theorem Sys.TimeOnly.trans {x y z : Sys} (h : x.TimeOnly y) (h' : y.TimeOnly z) : x.TimeOnly z := by
  obtain ⟨j, r, rfl⟩ := h
  obtain ⟨j', r', rfl⟩ := h'
  exact ⟨j', r ++ r', by simp only [List.append_assoc]⟩

section
variable {y z : Sys} (h : z.TimeOnly y)
include h

theorem Sys.TimeOnly.port (p : Nat) : y.port p = z.port p := by
  obtain ⟨j, r, rfl⟩ := h
  rfl

theorem Sys.TimeOnly.lane (l : Nat) : y.lane l = z.lane l := by
  obtain ⟨j, r, rfl⟩ := h
  rfl

theorem Sys.TimeOnly.val (k : Nat) : y.val k = z.val k := by
  obtain ⟨j, r, rfl⟩ := h
  rfl

theorem Sys.TimeOnly.now : y.now = z.now := by
  obtain ⟨j, r, rfl⟩ := h
  rfl

theorem Sys.TimeOnly.part : y.part = z.part := by
  obtain ⟨j, r, rfl⟩ := h
  rfl

theorem Sys.TimeOnly.net : y.net = z.net := by
  obtain ⟨j, r, rfl⟩ := h
  rfl

theorem Sys.TimeOnly.nat (k : Nat) : y.nat k = z.nat k := by rw [Sys.nat, h.val, Sys.nat]

theorem Sys.TimeOnly.raised : ∃ r, y.evs.raised = z.evs.raised ++ r := by
  obtain ⟨j, r, rfl⟩ := h
  exact ⟨r, rfl⟩

end

theorem Sys.tbHoldover_timeOnly (y : Sys) (b : Nat) : y.TimeOnly (y.tbHoldover b) := by
  unfold Sys.tbHoldover
  dsimp only
  split
  · exact ⟨_, [_], rfl⟩
  · exact .refl y

theorem Sys.tbPortsDown_timeOnly (y : Sys) : y.TimeOnly y.tbPortsDown :=
  Sys.each_invariant (I := y.TimeOnly) (fun b x h => by
    split
    · exact h
    · exact h.trans (x.tbHoldover_timeOnly b)) (.refl y)

/-! ### Lanes -/

/-- `y` is `z` after work on lanes: their state, and of the objects the state of their scans, are all that may have changed. -/
structure Sys.LaneWork (z y : Sys) : Prop where
  now : y.now = z.now
  part : y.part = z.part
  evs : y.evs = z.evs
  queues : y.net.queues = z.net.queues
  port : ∀ q, y.port q = z.port q
  val : ∀ k, (∀ l, k ≠ Ob.LnScanState l) → y.val k = z.val k

namespace Sys.LaneWork
variable {x y z : Sys}

theorem refl (z : Sys) : z.LaneWork z := ⟨rfl, rfl, rfl, rfl, fun _ => rfl, fun _ _ => rfl⟩

theorem trans (h : x.LaneWork y) (h' : y.LaneWork z) : x.LaneWork z :=
  ⟨h'.now.trans h.now, h'.part.trans h.part, h'.evs.trans h.evs, h'.queues.trans h.queues, fun q => (h'.port q).trans (h.port q),
    fun k hk => (h'.val k hk).trans (h.val k hk)⟩

theorem onLane (h : z.LaneWork y) (l : Nat) (f : Lane → Lane) : z.LaneWork (y.onLane l f) := h.trans ⟨rfl, rfl, rfl, rfl, fun _ => rfl, fun _ _ => rfl⟩

theorem scanState (h : z.LaneWork y) (l : Nat) (v : Int) : z.LaneWork (y.setInt (Ob.LnScanState l) v) :=
  h.trans ⟨rfl, rfl, rfl, rfl, fun _ => rfl, fun _ hk => Sys.setInt_other _ _ _ _ (hk l)⟩

theorem scanAbort (h : z.LaneWork y) (l : Nat) : z.LaneWork (y.scanAbort l) := by
  unfold Sys.scanAbort
  split
  · exact (h.onLane l _).scanState l 3
  · exact h

theorem laneTo (h : z.LaneWork y) (st l : Nat) : z.LaneWork (y.laneTo st l) := (h.scanAbort l).onLane l _

theorem each {α : Type} {f : α → Sys → Sys} (hf : ∀ a y, z.LaneWork y → z.LaneWork (f a y)) (h : z.LaneWork y) (l : List α) :
    z.LaneWork (y.each l f) := Sys.each_invariant hf h

theorem nat (h : z.LaneWork y) {k : Nat} (hk : ∀ l, k ≠ Ob.LnScanState l) : y.nat k = z.nat k := by
  rw [Sys.nat, h.val k hk, Sys.nat]

theorem portLanes (h : z.LaneWork y) (p : Nat) : y.portLanes p = z.portLanes p := by rw [Sys.portLanes, h.port, Sys.portLanes]

end Sys.LaneWork

/-- The length of a burst is none of the state of the scans. -/
theorem lnBurstLen_ne (l j : Nat) : Ob.LnBurstLen l ≠ Ob.LnScanState j := by
  simp only [Ob.LnBurstLen, Ob.LnScanState]
  omega

theorem Sys.scanAbort_other (y : Sys) {l j : Nat} (h : j ≠ l) : (y.scanAbort l).lane j = y.lane j := by
  unfold Sys.scanAbort
  split
  · rw [Sys.setInt_lane_read, Sys.onLane_other _ _ _ _ h]
  · rfl

theorem Sys.laneTo_other (y : Sys) {st l j : Nat} (h : j ≠ l) : (y.laneTo st l).lane j = y.lane j :=
  (Sys.onLane_other _ _ _ _ h).trans (y.scanAbort_other h)

theorem Sys.laneTo_self (y : Sys) (st l : Nat) : ((y.laneTo st l).lane l).st = st ∧ ((y.laneTo st l).lane l).since = y.now := by
  rw [Sys.laneTo, Sys.onLane_self]
  exact ⟨rfl, rfl⟩

/-- After every lane of a list went to a state, each of them is in it. -/
theorem Sys.each_laneTo {y : Sys} {st l : Nat} {ls : List Nat} (hl : l ∈ ls) : ((y.each ls (Sys.laneTo st)).lane l).st = st := by
  refine Sys.each_of_mem (I := fun _ => True) (P := fun x => (x.lane l).st = st) hl (fun _ _ h => h) (fun x _ => (x.laneTo_self st l).1)
    (fun j x h => ?_) trivial
  by_cases hj : l = j
  · subst hj
    exact (x.laneTo_self st l).1
  · rw [Sys.laneTo_other _ hj]
    exact h

/-! ### Bursts -/

/-- A lane leaves electrical idle (R356). -/
def Sys.burstLane (p l : Nat) (y : Sys) : Sys :=
  if y.nat (Ob.LnBurstLen l) = 0 then y.laneOn p l
  else (y.laneTo 1 l).onLane l fun x => { x with burstEnd := some (y.now + usU (y.nat (Ob.LnBurstLen l))) }

/-- A port as its lanes leave electrical idle. -/
def Port.bursting (retrain : Bool) (x : Port) : Port := { x with alignedAt := none, retrain := retrain, wait100 := none }

/-- A port and its lanes once each lane has begun its burst. -/
def Sys.bursts (p : Nat) (retrain : Bool) (y : Sys) : Sys :=
  (y.onPort p (Port.bursting retrain)).each ((y.onPort p (Port.bursting retrain)).portLanes p) (Sys.burstLane p)

theorem Sys.startBurst_eq (y : Sys) (p : Nat) (retrain : Bool) : y.startBurst p retrain =
    if ((y.bursts p retrain).portLanes p).all fun l => ((y.bursts p retrain).lane l).st != 1 then (y.bursts p retrain).afterBurst p retrain
    else y.bursts p retrain := rfl

theorem Sys.LaneWork.burstLane {z y : Sys} (h : z.LaneWork y) (p l : Nat) : z.LaneWork (y.burstLane p l) := by
  unfold Sys.burstLane
  split
  · exact h.laneTo _ l
  · exact (h.laneTo 1 l).onLane l _

theorem Sys.bursts_laneWork (y : Sys) (p : Nat) (retrain : Bool) : (y.onPort p (Port.bursting retrain)).LaneWork (y.bursts p retrain) :=
  .each (fun l _ h => h.burstLane p l) (.refl _) _

theorem Sys.burstLane_other (y : Sys) {p l j : Nat} (h : j ≠ l) : (y.burstLane p l).lane j = y.lane j := by
  unfold Sys.burstLane
  split
  · exact y.laneTo_other h
  · rw [Sys.onLane_other _ _ _ _ h, y.laneTo_other h]

/-- A lane whose burst has a length is in it (R356). -/
theorem Sys.burstLane_long {y : Sys} {p l : Nat} (h : y.nat (Ob.LnBurstLen l) ≠ 0) :
    ((y.burstLane p l).lane l).st = 1 ∧ ((y.burstLane p l).lane l).burstEnd = some (y.now + usU (y.nat (Ob.LnBurstLen l))) := by
  rw [Sys.burstLane, if_neg h, Sys.onLane_self]
  exact ⟨(y.laneTo_self 1 l).1, rfl⟩

/-- A lane whose burst has none goes on at once (R355, R356). -/
theorem Sys.burstLane_short {y : Sys} {p l : Nat} (h : y.nat (Ob.LnBurstLen l) = 0) :
    ((y.burstLane p l).lane l).st = if (y.port p).medium = 1 then 3 else 2 := by
  rw [Sys.burstLane, if_pos h, Sys.laneOn]
  exact (y.laneTo_self _ l).1

theorem Sys.onPort_portLanes (y : Sys) (p : Nat) (f : Port → Port) (hf : (f (y.port p)).mode = (y.port p).mode) :
    (y.onPort p f).portLanes p = y.portLanes p := by
  rw [Sys.portLanes, Sys.onPort_self, hf, Sys.portLanes]

theorem Sys.bursts_portLanes (y : Sys) (p : Nat) (retrain : Bool) : (y.bursts p retrain).portLanes p = y.portLanes p :=
  ((y.bursts_laneWork p retrain).portLanes p).trans (y.onPort_portLanes p _ rfl)

theorem Sys.portLanes_nodup (y : Sys) (p : Nat) : (y.portLanes p).Nodup :=
  List.nodup_range.map (fun _ _ h => Nat.add_left_cancel h)

/-- A lane of the port is as its own burst leaves it. -/
theorem Sys.bursts_lane {y : Sys} {p l : Nat} (retrain : Bool) (hl : l ∈ y.portLanes p) :
    ∃ w, (y.onPort p (Port.bursting retrain)).LaneWork w ∧ (y.bursts p retrain).lane l = (w.burstLane p l).lane l := by
  have hl' : l ∈ (y.onPort p (Port.bursting retrain)).portLanes p := by rwa [y.onPort_portLanes p _ rfl]
  obtain ⟨w, hw, -, h⟩ := Sys.each_once (f := Sys.burstLane p) (g := fun x => x.lane l) (I := (y.onPort p (Port.bursting retrain)).LaneWork)
    (Sys.portLanes_nodup _ p) hl' (fun j _ h => h.burstLane p j) (fun j hj x => x.burstLane_other hj.symm) (.refl _)
  exact ⟨w, hw, h⟩

theorem Sys.bursts_long {y : Sys} {p l : Nat} (retrain : Bool) (hl : l ∈ y.portLanes p) (h : y.nat (Ob.LnBurstLen l) ≠ 0) :
    ((y.bursts p retrain).lane l).st = 1 ∧ ((y.bursts p retrain).lane l).burstEnd = some (y.now + usU (y.nat (Ob.LnBurstLen l))) := by
  obtain ⟨w, hw, hlane⟩ := Sys.bursts_lane retrain hl
  have hnat : w.nat (Ob.LnBurstLen l) = y.nat (Ob.LnBurstLen l) := hw.nat (lnBurstLen_ne l)
  rw [hlane, ← hnat, show y.now = w.now from hw.now.symm]
  exact Sys.burstLane_long (hnat ▸ h)

theorem Sys.bursts_short {y : Sys} {p l : Nat} (retrain : Bool) (hl : l ∈ y.portLanes p) (h : y.nat (Ob.LnBurstLen l) = 0) :
    ((y.bursts p retrain).lane l).st = if (y.port p).medium = 1 then 3 else 2 := by
  obtain ⟨w, hw, hlane⟩ := Sys.bursts_lane retrain hl
  have hnat : w.nat (Ob.LnBurstLen l) = y.nat (Ob.LnBurstLen l) := hw.nat (lnBurstLen_ne l)
  have hport : w.port p = (y.port p).bursting retrain := by rw [hw.port, Sys.onPort_self]
  rw [hlane, Sys.burstLane_short (hnat.trans h), hport]
  rfl

/-- What the end of the last burst changes is the port. -/
theorem Sys.startBurst_lane (y : Sys) (p l : Nat) (retrain : Bool) : (y.startBurst p retrain).lane l = (y.bursts p retrain).lane l := by
  rw [Sys.startBurst_eq]
  split
  · rw [Sys.afterBurst, Sys.onPort_lane_read]
  · rfl

/-- While a lane of it is in its burst the port waits. -/
theorem Sys.startBurst_waits {y : Sys} {p l : Nat} (retrain : Bool) (hl : l ∈ y.portLanes p) (h : y.nat (Ob.LnBurstLen l) ≠ 0) :
    (y.startBurst p retrain).port p = (y.port p).bursting retrain := by
  have hall : ((y.bursts p retrain).portLanes p).all (fun l => ((y.bursts p retrain).lane l).st != 1) = false := by
    rw [List.all_eq_false]
    exact ⟨l, by rwa [Sys.bursts_portLanes], by simp [(Sys.bursts_long retrain hl h).1]⟩
  rw [Sys.startBurst_eq, hall, if_neg Bool.false_ne_true, (y.bursts_laneWork p retrain).port, Sys.onPort_self]

/-- `y` is `z` after work on lanes and on port p, which keeps what it was enabled with. -/
structure Sys.PortWork (p : Nat) (z y : Sys) : Prop where
  now : y.now = z.now
  part : y.part = z.part
  evs : y.evs = z.evs
  queues : y.net.queues = z.net.queues
  mode : (y.port p).mode = (z.port p).mode
  medium : (y.port p).medium = (z.port p).medium
  aneg : (y.port p).aneg = (z.port p).aneg
  fec25 : (y.port p).fec25 = (z.port p).fec25
  maxFrame : (y.port p).maxFrame = (z.port p).maxFrame
  val : ∀ k, (∀ l, k ≠ Ob.LnScanState l) → y.val k = z.val k

theorem Sys.PortWork.trans {p : Nat} {x y z : Sys} (h : x.PortWork p y) (h' : y.PortWork p z) : x.PortWork p z :=
  ⟨h'.now.trans h.now, h'.part.trans h.part, h'.evs.trans h.evs, h'.queues.trans h.queues, h'.mode.trans h.mode, h'.medium.trans h.medium,
    h'.aneg.trans h.aneg, h'.fec25.trans h.fec25, h'.maxFrame.trans h.maxFrame, fun k hk => (h'.val k hk).trans (h.val k hk)⟩

theorem Sys.LaneWork.portWork {y z : Sys} (h : z.LaneWork y) (p : Nat) : z.PortWork p y :=
  ⟨h.now, h.part, h.evs, h.queues, by rw [h.port], by rw [h.port], by rw [h.port], by rw [h.port], by rw [h.port], h.val⟩

/-- A change of the port that keeps what it was enabled with. -/
theorem Sys.onPort_portWork (y : Sys) (p : Nat) {f : Port → Port} (hmode : ∀ x, (f x).mode = x.mode) (hmedium : ∀ x, (f x).medium = x.medium)
    (haneg : ∀ x, (f x).aneg = x.aneg) (hfec : ∀ x, (f x).fec25 = x.fec25) (hmax : ∀ x, (f x).maxFrame = x.maxFrame) :
    y.PortWork p (y.onPort p f) where
  now := rfl
  part := rfl
  evs := rfl
  queues := rfl
  mode := by rw [Sys.onPort_self, hmode]
  medium := by rw [Sys.onPort_self, hmedium]
  aneg := by rw [Sys.onPort_self, haneg]
  fec25 := by rw [Sys.onPort_self, hfec]
  maxFrame := by rw [Sys.onPort_self, hmax]
  val := fun _ _ => rfl

theorem Sys.onPort_bursting (y : Sys) (p : Nat) (retrain : Bool) : y.PortWork p (y.onPort p (Port.bursting retrain)) :=
  y.onPort_portWork p (fun _ => rfl) (fun _ => rfl) (fun _ => rfl) (fun _ => rfl) fun _ => rfl

theorem Sys.afterBurst_portWork (y : Sys) (p : Nat) (retrain : Bool) : y.PortWork p (y.afterBurst p retrain) :=
  y.onPort_portWork p (fun _ => rfl) (fun _ => rfl) (fun _ => rfl) (fun _ => rfl) fun _ => rfl

theorem Sys.startBurst_portWork (y : Sys) (p : Nat) (retrain : Bool) : y.PortWork p (y.startBurst p retrain) := by
  have h := (y.onPort_bursting p retrain).trans ((y.bursts_laneWork p retrain).portWork p)
  rw [Sys.startBurst_eq]
  split
  · exact h.trans (Sys.afterBurst_portWork _ p retrain)
  · exact h

theorem Sys.PortWork.nat {p : Nat} {z y : Sys} (h : z.PortWork p y) {k : Nat} (hk : ∀ l, k ≠ Ob.LnScanState l) : y.nat k = z.nat k := by
  rw [Sys.nat, h.val k hk, Sys.nat]

/-! ### Leaving link state 5 -/

section
variable (y : Sys) (p : Nat)

theorem Sys.dropUntimed_port (q : Nat) : (y.dropUntimed p).port q = y.port q := Sys.bump_port_read ..

theorem Sys.dropUntimed_lane (l : Nat) : (y.dropUntimed p).lane l = y.lane l := Sys.bump_lane_read ..

theorem Sys.dropUntimed_now : (y.dropUntimed p).now = y.now := Sys.bump_now ..

theorem Sys.dropUntimed_part : (y.dropUntimed p).part = y.part := Sys.bump_part ..

theorem Sys.dropUntimed_evs : (y.dropUntimed p).evs = y.evs := Sys.bump_evs ..

theorem Sys.dropUntimed_val {k : Nat} (h : k ≠ Ob.PortDownDrop p) : (y.dropUntimed p).val k = y.val k := Sys.bump_other _ _ _ _ h

end

/-- A port that was up as it goes down, before the time bases notice (R277, R355). -/
def Sys.wentDown (p st : Nat) (y : Sys) : Sys :=
  (((y.onPort p fun x => { x with st := st, alignedAt := none }).dropUntimed p).bump (Ob.PortLinkDowns p) 1).raise 0x0502 (portDie p) p

theorem Sys.leaveUp_eq (y : Sys) (p st : Nat) : y.leaveUp p st =
    if (y.port p).st = 5 then (y.wentDown p st).tbPortsDown else y.onPort p fun x => { x with st := st, alignedAt := none } := rfl

section
variable (y : Sys) (p st : Nat)

theorem Sys.wentDown_port : (y.wentDown p st).port p = { y.port p with st := st, alignedAt := none } := by
  rw [Sys.wentDown, Sys.raise_port_read, Sys.bump_port_read, Sys.dropUntimed_port, Sys.onPort_self]

theorem Sys.wentDown_lane (l : Nat) : (y.wentDown p st).lane l = y.lane l := by
  rw [Sys.wentDown, Sys.raise_lane_read, Sys.bump_lane_read, Sys.dropUntimed_lane, Sys.onPort_lane_read]

theorem Sys.wentDown_now : (y.wentDown p st).now = y.now := by
  rw [Sys.wentDown, Sys.raise_now, Sys.bump_now, Sys.dropUntimed_now, Sys.onPort_now]

theorem Sys.wentDown_part : (y.wentDown p st).part = y.part := by
  rw [Sys.wentDown, Sys.raise_part, Sys.bump_part, Sys.dropUntimed_part, Sys.onPort_part]

theorem Sys.wentDown_val {k : Nat} (hdrop : k ≠ Ob.PortDownDrop p) (hdown : k ≠ Ob.PortLinkDowns p) :
    (y.wentDown p st).val k = y.val k := by
  rw [Sys.wentDown, Sys.raise_val_read, Sys.bump_other _ _ _ _ hdown, Sys.dropUntimed_val _ _ hdrop, Sys.onPort_val_read]

theorem Sys.wentDown_count :
    (y.wentDown p st).nat (Ob.PortLinkDowns p) = (y.nat (Ob.PortLinkDowns p) + 1) % wrapOf y.part.dies (Ob.PortLinkDowns p) := by
  have hne : Ob.PortLinkDowns p ≠ Ob.PortDownDrop p := by simp only [Ob.PortLinkDowns, Ob.PortDownDrop]; omega
  rw [Sys.wentDown, Sys.raise_nat_read, Sys.bump_nat, Sys.dropUntimed_part, Sys.onPort_part, Sys.nat, Sys.dropUntimed_val _ _ hne,
    Sys.onPort_val_read, Sys.nat]

theorem Sys.wentDown_raised :
    (y.wentDown p st).evs.raised = y.evs.raised ++ [{ code := 0x0502, die := portDie p, arg := p, t := y.now }] := by
  rw [Sys.wentDown, Sys.raise_raised, Sys.bump_evs, Sys.dropUntimed_evs, Sys.onPort_evs, Sys.bump_now, Sys.dropUntimed_now, Sys.onPort_now]

/-- A port that leaves a link state is in the new one (R355). -/
theorem Sys.leaveUp_port : (y.leaveUp p st).port p = { y.port p with st := st, alignedAt := none } := by
  rw [Sys.leaveUp_eq]
  split
  · rw [(Sys.tbPortsDown_timeOnly _).port, Sys.wentDown_port]
  · rw [Sys.onPort_self]

theorem Sys.leaveUp_lane (l : Nat) : (y.leaveUp p st).lane l = y.lane l := by
  rw [Sys.leaveUp_eq]
  split
  · rw [(Sys.tbPortsDown_timeOnly _).lane, Sys.wentDown_lane]
  · rw [Sys.onPort_lane_read]

theorem Sys.leaveUp_now : (y.leaveUp p st).now = y.now := by
  rw [Sys.leaveUp_eq]
  split
  · rw [(Sys.tbPortsDown_timeOnly _).now, Sys.wentDown_now]
  · rw [Sys.onPort_now]

theorem Sys.leaveUp_part : (y.leaveUp p st).part = y.part := by
  rw [Sys.leaveUp_eq]
  split
  · rw [(Sys.tbPortsDown_timeOnly _).part, Sys.wentDown_part]
  · rw [Sys.onPort_part]

theorem Sys.leaveUp_val {k : Nat} (hdrop : k ≠ Ob.PortDownDrop p) (hdown : k ≠ Ob.PortLinkDowns p) :
    (y.leaveUp p st).val k = y.val k := by
  rw [Sys.leaveUp_eq]
  split
  · rw [(Sys.tbPortsDown_timeOnly _).val, Sys.wentDown_val _ _ _ hdrop hdown]
  · rw [Sys.onPort_val_read]

theorem Sys.leaveUp_portLanes : (y.leaveUp p st).portLanes p = y.portLanes p := by
  rw [Sys.portLanes, Sys.leaveUp_port, Sys.portLanes]

end

/-- One that was up is counted, with its event before what the time bases raise (R355). -/
theorem Sys.leaveUp_up {y : Sys} {p : Nat} (st : Nat) (h : (y.port p).st = 5) :
    (y.leaveUp p st).nat (Ob.PortLinkDowns p) = (y.nat (Ob.PortLinkDowns p) + 1) % wrapOf y.part.dies (Ob.PortLinkDowns p) ∧
      ∃ b, (y.leaveUp p st).evs.raised = y.evs.raised ++ [{ code := 0x0502, die := portDie p, arg := p, t := y.now }] ++ b := by
  have ht := (y.wentDown p st).tbPortsDown_timeOnly
  rw [Sys.leaveUp_eq, if_pos h]
  refine ⟨by rw [ht.nat, Sys.wentDown_count], ?_⟩
  rw [← Sys.wentDown_raised]
  exact ht.raised

end Sys2Proof.Machine

/-! PROOFS. Enabling and disabling a port (10, 13; R269, R348, R349, R355, R356, R361). -/

namespace Sys2Proof.Machine

/-! ### Queues of a port -/

theorem Sys.powerAll_eq (y : Sys) : ∃ ds, y.powerAll = { y with dies := ds } := onlyDies_powerAll y

section
variable (y : Sys)

theorem Sys.powerAll_val (k : Nat) : y.powerAll.val k = y.val k := by
  obtain ⟨ds, h⟩ := y.powerAll_eq
  rw [h]
  rfl

theorem Sys.powerAll_net : y.powerAll.net = y.net := by
  obtain ⟨ds, h⟩ := y.powerAll_eq
  rw [h]

theorem Sys.powerAll_port (p : Nat) : y.powerAll.port p = y.port p := by rw [Sys.port, Sys.powerAll_net, Sys.port]

theorem Sys.powerAll_lane (l : Nat) : y.powerAll.lane l = y.lane l := by rw [Sys.lane, Sys.powerAll_net, Sys.lane]

theorem Sys.powerAll_nat (k : Nat) : y.powerAll.nat k = y.nat k := by rw [Sys.nat, Sys.powerAll_val, Sys.nat]

/-- A port's two queues come behind those there are (R269). -/
theorem Sys.portQueues_queues (p : Nat) : ∃ a b, (y.portQueues p).net.queues = y.net.queues ++
    [{ die := portDie p, num := a, port := p, owner := .port p, kind := 3, cls := y.nat (Ob.PortPtpClass p), timed := false, weight := 1000 },
     { die := portDie p, num := b, port := p, owner := .port p, kind := 4, cls := y.nat (Ob.PortCtlClass p), timed := false,
       weight := 1000 }] :=
  ⟨_, _, List.append_assoc _ _ _⟩

theorem Sys.portQueues_val (p k : Nat) : (y.portQueues p).val k = y.val k := rfl

theorem Sys.portQueues_port (p q : Nat) : (y.portQueues p).port q = y.port q := rfl

theorem Sys.portQueues_lane (p l : Nat) : (y.portQueues p).lane l = y.lane l := rfl

end

/-! ### Enabling -/

/-- A port as it is enabled (R348). -/
def Port.enabled (z : Sys) (p : Nat) (x : Port) : Port :=
  { x with st := 1, mode := z.nat (Ob.PortMode p), medium := z.nat (Ob.PortMedium p), aneg := z.nat (Ob.PortAneg p),
           fec25 := z.nat (Ob.PortFec25 p), maxFrame := z.nat (Ob.PortMaxFrame p), wait100 := none, alignedAt := none,
           losses := [], retrain := false, anegRaised := false }

/-- A port that was just enabled, before its lanes leave idle. -/
def Sys.enabling (p : Nat) (z : Sys) : Sys := (z.onPort p (Port.enabled z p)).setInt (Ob.PortEnable p) 1

/-- A disabled port whose checks pass is enabled (R348). -/
theorem Sys.portOn_accepted {z : Sys} {p : Nat} (hoff : z.portEnabled p = false) (hchecks : firstFail (z.portChecks p) = none) :
    z.portOn p = accept (((if (z.enabling p).quadRuns p then (z.enabling p).startBurst p false else z.enabling p).portQueues p).powerAll) := by
  simp only [Sys.portOn, Sys.portEnable, hoff, hchecks, Bool.false_eq_true, if_false, Bool.false_or]
  rfl

section
variable (z : Sys) (p : Nat)

theorem Sys.enabling_port : (z.enabling p).port p = (z.port p).enabled z p := by
  rw [Sys.enabling, Sys.setInt_port_read, Sys.onPort_self]

theorem Sys.enabling_val {k : Nat} (hk : k ≠ Ob.PortEnable p) : (z.enabling p).val k = z.val k := by
  rw [Sys.enabling, Sys.setInt_other _ _ _ _ hk, Sys.onPort_val_read]

theorem Sys.enabling_nat {k : Nat} (hk : k ≠ Ob.PortEnable p) : (z.enabling p).nat k = z.nat k := by
  rw [Sys.nat, Sys.enabling_val z p hk, Sys.nat]

theorem Sys.enabling_enable : (z.enabling p).nat (Ob.PortEnable p) = 1 := Sys.setInt_nat _ _ 1

theorem Sys.enabling_lane (l : Nat) : (z.enabling p).lane l = z.lane l := by
  rw [Sys.enabling, Sys.setInt_lane_read, Sys.onPort_lane_read]

/-- Its lanes are those of the mode it takes. -/
theorem Sys.mem_enabling_portLanes {i : Nat} (hi : i < modeLanes (z.nat (Ob.PortMode p))) : p + i ∈ (z.enabling p).portLanes p := by
  rw [Sys.portLanes, Sys.enabling_port]
  exact List.mem_map.mpr ⟨i, List.mem_range.mpr hi, rfl⟩

end

/-- Enabling a port has nothing to do with the lane PLLs (R355). -/
theorem Sys.enabling_quadRuns (z : Sys) {p : Nat} (hp : p < 96) : (z.enabling p).quadRuns p = z.quadRuns p := by
  have hpll : (z.enabling p).portPll p = z.portPll p := by
    rw [Sys.portPll, Sys.quadPll, Sys.enabling_nat z p (by simp only [Ob.ClkQuadPll, Ob.PortEnable]; omega), Sys.portPll, Sys.quadPll]
  rw [Sys.quadRuns, hpll]
  rfl

/-- No object of a port is the state of a lane's scan. -/
theorem portEnable_ne (p l : Nat) : Ob.PortEnable p ≠ Ob.LnScanState l := by
  simp only [Ob.PortEnable, Ob.LnScanState]
  omega

theorem portClass_ne (p l : Nat) : Ob.PortPtpClass p ≠ Ob.LnScanState l ∧ Ob.PortCtlClass p ≠ Ob.LnScanState l := by
  simp only [Ob.PortPtpClass, Ob.PortCtlClass, Ob.LnScanState]
  omega

/-- What every enabled port has, whether its lanes leave idle yet or not. -/
theorem Sys.PortWork.enabled {z w y : Sys} {p : Nat} (h : (z.enabling p).PortWork p w) (hy : y = (w.portQueues p).powerAll) :
    y.nat (Ob.PortEnable p) = 1 ∧
      (y.port p).mode = z.nat (Ob.PortMode p) ∧ (y.port p).medium = z.nat (Ob.PortMedium p) ∧ (y.port p).aneg = z.nat (Ob.PortAneg p) ∧
      (y.port p).fec25 = z.nat (Ob.PortFec25 p) ∧ (y.port p).maxFrame = z.nat (Ob.PortMaxFrame p) ∧
      ∃ a b, y.net.queues = z.net.queues ++
        [{ die := portDie p, num := a, port := p, owner := .port p, kind := 3, cls := z.nat (Ob.PortPtpClass p), timed := false, weight := 1000 },
         { die := portDie p, num := b, port := p, owner := .port p, kind := 4, cls := z.nat (Ob.PortCtlClass p), timed := false,
           weight := 1000 }] := by
  subst hy
  have hport : ((w.portQueues p).powerAll).port p = w.port p := by rw [Sys.powerAll_port, Sys.portQueues_port]
  have henabled := z.enabling_port p
  refine ⟨?_, ?_, ?_, ?_, ?_, ?_, ?_⟩
  · rw [Sys.powerAll_nat, Sys.nat, Sys.portQueues_val, ← Sys.nat, h.nat (portEnable_ne p), Sys.enabling_enable]
  · rw [hport, h.mode, henabled]
    rfl
  · rw [hport, h.medium, henabled]
    rfl
  · rw [hport, h.aneg, henabled]
    rfl
  · rw [hport, h.fec25, henabled]
    rfl
  · rw [hport, h.maxFrame, henabled]
    rfl
  · obtain ⟨a, b, hq⟩ := w.portQueues_queues p
    refine ⟨a, b, ?_⟩
    rw [Sys.powerAll_net, hq, h.queues, h.nat fun l => (portClass_ne p l).1, h.nat fun l => (portClass_ne p l).2,
      Sys.enabling_nat z p (by simp only [Ob.PortPtpClass, Ob.PortEnable]; omega),
      Sys.enabling_nat z p (by simp only [Ob.PortCtlClass, Ob.PortEnable]; omega)]
    rfl

/-! ### Disabling -/

theorem Sys.dropQueues_nat (y : Sys) (keep : Queue → Bool) (k : Nat) : (y.dropQueues keep).nat k = y.nat k := rfl

/-- An enabled port is disabled: its lanes go idle and its queues go (R269, R349, R361). -/
theorem Sys.portOff_accepted {z : Sys} {p : Nat} (hon : z.portEnabled p = true) :
    z.portOff p = accept ((((((z.leaveUp p 0).each (z.portLanes p) (Sys.laneTo 0)).setInt (Ob.PortEnable p) 0).dropQueues
      fun q => !(q.port == p && (q.kind == 3 || q.kind == 4))).powerAll)) := by
  simp only [Sys.portOff, Sys.portDisable, hon, if_true]
  rfl

/-- Settles O22: the checks' outcome fixes the write; the lanes of a port whose quad runs are as their bursts leave them. -/
theorem portsSwitch : Obligations.PortsSwitch := by
  refine ⟨fun dt rq p s z hp hd hserves hoff hchecks => ?enable, fun dt rq p s z hp hd hserves hon => ?disable⟩
  case enable =>
    have hw := wrote_of_plain hserves (write_portEnable p hp hd) (Sys.portOn_accepted hoff hchecks)
    rw [Sys.enabling_quadRuns z hp] at hw
    cases hq : z.quadRuns p with
    | false =>
      rw [hq, if_neg Bool.false_ne_true] at hw
      obtain ⟨hen, hmode, hmedium, haneg, hfec, hmax, hqueues⟩ := ((Sys.LaneWork.refl (z.enabling p)).portWork p).enabled rfl
      refine ⟨_, hw, hen, hmode, hmedium, haneg, hfec, hmax, hqueues, fun _ => ⟨?_, fun l => ?_, fun k hk => ?_⟩, nofun⟩
      · rw [Sys.powerAll_port, Sys.portQueues_port, Sys.enabling_port]
        rfl
      · rw [Sys.powerAll_lane, Sys.portQueues_lane, Sys.enabling_lane]
      · rw [Sys.powerAll_val, Sys.portQueues_val, Sys.enabling_val z p hk]
    | true =>
      rw [hq, if_pos rfl] at hw
      obtain ⟨hen, hmode, hmedium, haneg, hfec, hmax, hqueues⟩ := ((z.enabling p).startBurst_portWork p false).enabled rfl
      refine ⟨_, hw, hen, hmode, hmedium, haneg, hfec, hmax, hqueues, nofun, fun _ i hi => ?_⟩
      have hmem := z.mem_enabling_portLanes p hi
      have hlen : (z.enabling p).nat (Ob.LnBurstLen (p + i)) = z.nat (Ob.LnBurstLen (p + i)) :=
        Sys.enabling_nat z p (by simp only [Ob.LnBurstLen, Ob.PortEnable]; omega)
      rw [Sys.powerAll_lane, Sys.powerAll_port, Sys.portQueues_lane, Sys.portQueues_port, Sys.startBurst_lane]
      refine ⟨fun hlong => ?_, fun hshort => ?_⟩
      · rw [← hlen] at hlong ⊢
        rw [Sys.startBurst_waits false hmem hlong, Sys.enabling_port]
        exact ⟨rfl, Sys.bursts_long false hmem hlong⟩
      · rw [← hlen] at hshort
        rw [Sys.bursts_short false hmem hshort, Sys.enabling_port]
        rfl
  case disable =>
    refine ⟨_, wrote_of_plain hserves (write_portDisable p hp hd) (Sys.portOff_accepted hon), ?_, ?_, fun i hi => ?_, fun q hq => ?_⟩
    · rw [Sys.powerAll_nat, Sys.dropQueues_nat]
      exact Sys.setInt_nat _ _ 0
    · rw [Sys.powerAll_port]
      have hidle : (((z.leaveUp p 0).each (z.portLanes p) (Sys.laneTo 0)).port p) = (z.leaveUp p 0).port p :=
        (Sys.LaneWork.each (fun l _ h => h.laneTo 0 l) (.refl (z.leaveUp p 0)) _).port p
      rw [Sys.leaveUp_port] at hidle
      exact congrArg Port.st hidle
    · rw [Sys.powerAll_lane]
      exact Sys.each_laneTo (List.mem_map.mpr ⟨i, List.mem_range.mpr hi, rfl⟩)
    · rw [Sys.powerAll_net] at hq
      have hkeep := (List.mem_filter.mp hq).2
      rintro ⟨hport, hkind⟩
      rcases hkind with hkind | hkind <;> simp [hport, hkind] at hkeep

end Sys2Proof.Machine

/-! PROOFS. Eye scans, migrations, and the device's own writes (13, 14, 15, 17, 19; R365, R381, R408, R466, R486, R507, R527). -/

namespace Sys2Proof.Machine

/-! ### Eye scans -/

/-- A scan with settings the margin scanner can take, of a lane that runs and scans nothing, starts (R365). -/
theorem Sys.scanStart_accepted {z : Sys} {l : Nat} (hscan : (z.lane l).scan = none) (hst : (z.lane l).st = 4)
    (hphase : z.int (Ob.LnScanPhaseMin l) ≤ z.int (Ob.LnScanPhaseMax l)) (hvolt : z.int (Ob.LnScanVoltMin l) ≤ z.int (Ob.LnScanVoltMax l))
    (hplo : -32 ≤ z.int (Ob.LnScanPhaseMin l)) (hphi : z.int (Ob.LnScanPhaseMax l) ≤ 31) (hvlo : -64 ≤ z.int (Ob.LnScanVoltMin l))
    (hvhi : z.int (Ob.LnScanVoltMax l) ≤ 63) (hdlo : 16 ≤ z.nat (Ob.LnScanDwell l)) (hdhi : z.nat (Ob.LnScanDwell l) ≤ 34)
    (heye : z.nat (Ob.LnScanEye l) = 1) :
    z.scanStart l = accept (((z.onLane l fun x =>
      { x with scan := some (0, stepsIn (z.int (Ob.LnScanPhaseMin l)) (z.int (Ob.LnScanPhaseMax l)) (z.nat (Ob.LnScanPhaseStep l)) *
                  stepsIn (z.int (Ob.LnScanVoltMin l)) (z.int (Ob.LnScanVoltMax l)) (z.nat (Ob.LnScanVoltStep l))),
               recs := [] }).setInt (Ob.LnScanState l) 1).setInt (Ob.LnScanPoints l) 0) := by
  simp only [Sys.scanStart, hscan, hst, hphase, hvolt, hplo, hphi, hvlo, hvhi, hdlo, hdhi, heye, Option.isNone_none, beq_self_eq_true,
    decide_true, and_self, Bool.and_self, Bool.true_or, if_true]

/-- The settings of a scan and its results are objects of their own. -/
theorem lnScanState_ne_points (l : Nat) : Ob.LnScanState l ≠ Ob.LnScanPoints l := by
  simp only [Ob.LnScanState, Ob.LnScanPoints]
  omega

/-! ### Migrations -/

/-- The number of a rank is read back as its die, controller and rank (R381). -/
theorem bits_rank {d m k : Nat} (hd : d < 8) (hm : m < 2) (hk : k < 4) :
    bits (256 * d + 16 * m + k) 10 8 = d ∧ bits (256 * d + 16 * m + k) 4 4 = m ∧ bits (256 * d + 16 * m + k) 1 0 = k := by
  simp only [bits]
  omega

/-- A migration of a healthy rank starts when the spare is free and its controller migrates nothing (R381). -/
theorem Sys.migrateNow_started {z : Sys} {d m k : Nat} (hd : d < z.part.dies) (hd8 : d < 8) (hm : m < 2) (hk : k < 2)
    (hrank : ((z.die d).dram.rank m k).st = 1) (hspare : ((z.die d).dram.rank m 2).st = 2) (hsrc : ((z.die d).dram.ctrl m).src = none)
    (hwait : ((z.die d).dram.ctrl m).waiting = []) (hrate : z.rateChanging = false) :
    z.migrateNow (256 * d + 16 * m + k) = accept (z.migrateStart d m k) := by
  obtain ⟨hbd, hbm, hbk⟩ := bits_rank hd8 hm (show k < 4 by omega)
  have hok : ¬(256 * d + 16 * m + k ≠ d * 256 + m * 16 + k ∨ 1 < k ∨ z.part.dies ≤ d) := by omega
  simp only [Sys.migrateNow, hbd, hbm, hbk, if_neg hok, Sys.migrateTrigger, hrank, hspare, hsrc, hwait, hrate, ne_eq, not_true,
    List.contains_nil, Bool.false_eq_true, or_self, false_and, Option.isSome_none, if_false, if_true]

/-- Settles O23: the conditions are what each write asks for. -/
theorem scansAndMigrations : Obligations.ScansAndMigrations := by
  refine ⟨fun dt rq l s z hl hd hserves hscan hst hphase hvolt hplo hphi hvlo hvhi hdlo hdhi heye => ?_,
    fun dt rq d m k s z hd hd8 hm hk hserves hrank hspare hsrc hwait hrate => ?_⟩
  · refine ⟨_, _, wrote_of_plain hserves (write_scanStart l hl hd)
      (Sys.scanStart_accepted hscan hst hphase hvolt hplo hphi hvlo hvhi hdlo hdhi heye), rfl, ?_, fun j hj => ?_, ?_, ?_, fun k hst hpt => ?_⟩
    · rw [Sys.setInt_lane_read, Sys.setInt_lane_read, Sys.onLane_self]
    · rw [Sys.setInt_lane_read, Sys.setInt_lane_read, Sys.onLane_other _ _ _ _ hj]
    · rw [Sys.nat, Sys.setInt_other _ _ _ _ (lnScanState_ne_points l), ← Sys.nat]
      exact Sys.setInt_nat _ _ 1
    · exact Sys.setInt_nat _ _ 0
    · rw [Sys.setInt_other _ _ _ _ hpt, Sys.setInt_other _ _ _ _ hst, Sys.onLane_val_read]
  · exact wrote_of_plain hserves (write_migrateNow _ (by omega)) (Sys.migrateNow_started hd hd8 hm hk hrank hspare hsrc hwait hrate)

/-! ### Trace, reset, attestation and ranks -/

/-- Clearing the trace memory of a die (R408). -/
def Sys.clearTrace (d : Nat) (y : Sys) : Sys :=
  (y.onOnyx d fun o => { o with trace := [], traceCount := 0, traceStopped := false }).setInt (Ob.DieTraceLost d) 0

theorem Sys.traceClear_eq (y : Sys) : y.traceClear = accept (y.each y.dieList Sys.clearTrace) := rfl

theorem Sys.clearTrace_self (y : Sys) (d : Nat) : (y.clearTrace d).onyx d = { y.onyx d with trace := [], traceCount := 0, traceStopped := false } ∧
    (y.clearTrace d).nat (Ob.DieTraceLost d) = 0 := by
  refine ⟨?_, Sys.setInt_nat _ _ 0⟩
  rw [Sys.onyx, Sys.clearTrace, Sys.setInt_die_read, Sys.onOnyx, Sys.onDie_self]
  rfl

theorem Sys.clearTrace_other (y : Sys) {d e : Nat} (h : e ≠ d) :
    ((y.clearTrace e).onyx d, (y.clearTrace e).nat (Ob.DieTraceLost d)) = (y.onyx d, y.nat (Ob.DieTraceLost d)) := by
  have hne : Ob.DieTraceLost d ≠ Ob.DieTraceLost e := by simp only [Ob.DieTraceLost]; omega
  have hdie : (y.clearTrace e).die d = y.die d := by
    rw [Sys.clearTrace, Sys.setInt_die_read, Sys.onOnyx, Sys.onDie_other _ _ _ _ h.symm]
  have hval : (y.clearTrace e).val (Ob.DieTraceLost d) = y.val (Ob.DieTraceLost d) := Sys.setInt_other _ _ _ _ hne
  rw [Sys.onyx, hdie, Sys.nat, hval, ← Sys.nat, ← Sys.onyx]

/-- A reset that is due already keeps its cause (R486). -/
theorem Sys.wantReset_eq (y : Sys) (cause : Nat) :
    y.wantReset cause = { y with power := { y.power with resetDue := some (y.power.resetDue.getD cause) } } := by
  unfold Sys.wantReset
  split
  case h_1 c hc => rw [hc, Option.getD_some, ← hc]
  case h_2 hc => rw [hc, Option.getD_none]

/-- A rank's record goes at the next reset (R507). -/
theorem Sys.rankClear_accepted {z : Sys} {d m k : Nat} (hd : d < z.part.dies) (hd8 : d < 8) (hm : m < 2) (hk : k < 3) :
    z.rankClear (256 * d + 16 * m + k) = accept { z with upd := { z.upd with rankClear := z.upd.rankClear ++ [6 * d + 3 * m + k] } } := by
  obtain ⟨hbd, hbm, hbk⟩ := bits_rank hd8 hm (show k < 4 by omega)
  have hok : ¬(256 * d + 16 * m + k ≠ d * 256 + m * 16 + k ∨ 2 < k ∨ z.part.dies ≤ d) := by omega
  simp only [Sys.rankClear, hbd, hbm, hbk, if_neg hok]

/-- Settles O24: each write by its own effect. -/
theorem deviceWrites : Obligations.DeviceWrites := by
  refine ⟨fun dt rq s z hserves => ?trace, fun dt rq s z hserves => ?reset, fun dt rq n s z hn hserves => ?nonce,
    fun dt rq d m k s z hd hd8 hm hk hserves => ?rank⟩
  case trace =>
    refine ⟨_, wrote_of_plain hserves write_traceClear z.traceClear_eq, fun d hd => ?_⟩
    obtain ⟨w, -, hw, he⟩ := Sys.each_once (f := Sys.clearTrace) (g := fun y => (y.onyx d, y.nat (Ob.DieTraceLost d))) (I := fun _ => True)
      List.nodup_range (List.mem_range.mpr hd) (fun _ _ h => h) (fun e he y => y.clearTrace_other he) trivial
    obtain ⟨hself, hlost⟩ := w.clearTrace_self d
    obtain ⟨honyx, hcount⟩ := Prod.mk.inj he
    refine ⟨?_, hcount.trans hlost⟩
    rw [← (Prod.mk.inj hw).1]
    exact honyx.trans hself
  case reset => exact ⟨_, wrote_of_plain hserves write_resetReq rfl, z.wantReset_eq 2⟩
  case nonce => exact wrote_of_plain hserves (write_nonce n hn) rfl
  case rank => exact wrote_of_plain hserves (write_rankClear _ (by omega)) (Sys.rankClear_accepted hd hd8 hm hk)

end Sys2Proof.Machine

/-! PROOFS. The update path (19; R496 to R498). -/

namespace Sys2Proof.Machine

/-! ### Erased sectors -/

/-- Bytes outside those that are cleared stay. -/
theorem find_clearBytes_other (d : Nat → Byte) (m : List Host.Cell) {a n j : Nat} (h : j < a ∨ a + n ≤ j) :
    Tab.find d (clearBytes m a n) j = Tab.find d m j := by
  unfold clearBytes
  induction m with
  | nil => rfl
  | cons c m ih =>
    obtain ⟨i, v⟩ := c
    by_cases hc : a ≤ i ∧ i < a + n
    · have hj : i ≠ j := by omega
      rw [List.filter_cons_of_neg (by simp [hc]), ih, Tab.find, if_neg hj]
    · rw [List.filter_cons_of_pos (by simp; omega), Tab.find, Tab.find, ih]

/-- The sectors that begin within a chunk begin at or behind its first byte. -/
theorem le_of_mem_sectorsFrom {a n s : Nat} (h : s ∈ sectorsFrom a n) : a ≤ s := by
  obtain ⟨i, -, hi⟩ := List.mem_filterMap.mp h
  dsimp only at hi
  split at hi
  · cases hi
    unfold ceilDiv
    omega
  · cases hi

/-- Erasing sectors keeps every byte before them. -/
theorem find_eraseSectors {l : List Nat} {a j : Nat} (hl : ∀ s ∈ l, a ≤ s) (hj : j < a) (m : List Host.Cell) :
    Tab.find flashDflt (l.foldl (fun f s => clearBytes f s 65536) m) j = Tab.find flashDflt m j := by
  induction l generalizing m with
  | nil => rfl
  | cons s l ih =>
    rw [List.foldl_cons, ih fun t ht => hl t (List.mem_cons_of_mem _ ht)]
    exact find_clearBytes_other _ _ (.inl (hj.trans_le (hl s List.mem_cons_self)))

/-! ### The transfer -/

/-- Bytes that fit a transfer with none waiting are taken (R496). -/
theorem Sys.updChunk_accepted {z : Sys} {b : List Byte} (hb : b ≠ []) (hnone : z.upd.chunk = none)
    (hfit : z.upd.offset + b.length ≤ z.upd.total) :
    z.updChunk b = accept { z with upd := { z.upd with st := 2, chunk := some b } } := by
  have hok : ¬(b = [] ∨ z.upd.total < z.upd.offset + b.length) := not_or.mpr ⟨hb, hfit.not_gt⟩
  simp only [Sys.updChunk, hnone, Option.isSome_none, Bool.false_eq_true, if_false, if_neg hok, Sys.onUpd]

/-- The flash after a chunk was programmed (R496). -/
def chunkFlash (y : Sys) (b : List Byte) (fl : List Host.Cell) : List Host.Cell :=
  storeBytes flashDflt ((sectorsFrom (slotBase y.otherSlot + y.upd.offset) b.length).foldl (fun f s => clearBytes f s 65536) fl)
    (slotBase y.otherSlot + y.upd.offset) b

/-- A chunk that was programmed without error is part of the transfer, which waits for the next. -/
theorem chunkDone_ok {fl : List Host.Cell} {y : Sys} {b : List Byte} (hchunk : y.upd.chunk = some b) (hst : y.upd.st = 2) :
    chunkDone true (fl, y) =
      (chunkFlash y b fl, { y with upd := { y.upd with st := 1, offset := y.upd.offset + b.length, chunk := none } }) := by
  simp only [chunkDone, hchunk, hst, if_true, Sys.onUpd]
  rfl

/-! ### Verification -/

section
variable {fl : List Host.Cell} {y : Sys} (hst : y.upd.st = 3) (hwhole : 4096 + imgBody fl y.otherSlot ≤ y.upd.offset)
include hwhole

/-- A slot that holds the whole image is judged by the checks of R492 alone. -/
theorem firstFail_whole :
    firstFail ((!decide (y.upd.offset < 4096 + imgBody fl y.otherSlot), 1) :: imgChecks y.part fl y.otherSlot) =
      firstFail (imgChecks y.part fl y.otherSlot) := by
  rw [decide_eq_false hwhole.not_gt]
  rfl

include hst

/-- An image that passes them is verified (R496). -/
theorem updVerified_valid (hvalid : firstFail (imgChecks y.part fl y.otherSlot) = none) :
    updVerified (fl, y) = (fl, (y.onUpd fun u => { u with st := 4, cause := 0 }).raise 0x1202 0 y.otherSlot) := by
  simp only [updVerified, hst, if_true, firstFail_whole hwhole, hvalid]

/-- The cause of a failed verification: a free one where the specification gives none. -/
def failCause (y : Sys) (c : Nat) : Nat := if c = 7 then 1 + y.freeNow % 6 else c

/-- One that fails a check reports it (R496). -/
theorem updVerified_failed {c : Nat} (hfail : firstFail (imgChecks y.part fl y.otherSlot) = some c) :
    updVerified (fl, y) =
      (fl, (y.fresh.onUpd fun u => { u with st := 5, cause := failCause y c }).raise 0x1203 0 (failCause y c)) := by
  simp only [updVerified, hst, if_true, firstFail_whole hwhole, hfail]
  rfl

end

/-! ### Activation, confirmation and fallback -/

/-- A verified image's slot becomes active on trial, and a reset is due (R497). -/
theorem updActivate_verified {fl : List Host.Cell} {z : Sys} (hst : z.upd.st = 4) :
    updActivate (fl, z) =
      (selAppend fl fun r => { r with active := z.otherSlot, previous := z.power.boot.slot, trial := 1, attempts := 0 },
       accept ((z.raise 0x1204 0 z.otherSlot).wantReset 8)) := by
  simp only [updActivate, hst, if_true]

/-- The fuses after an image of security version `svn` was confirmed (R498). -/
def Part.confirmed (svn : Nat) (p : Part) : Part :=
  if p.minSvn < svn ∧ p.svnRaises < 64 then { p with minSvn := svn, svnRaises := p.svnRaises + 1 } else p

/-- A confirmation within the trial ends it (R498). -/
theorem updConfirm_trial {fl : List Host.Cell} {z : Sys} {t : Nat} (ht : z.upd.trialFrom = some t) (hin : z.now ≤ t + secU trialLen) :
    updConfirm (fl, z) = (selAppend fl fun r => { r with trial := 0 },
      accept (({ z with
        part := z.part.confirmed (imgSvn fl z.power.boot.slot)
        upd := { z.upd with st := if z.upd.st = 6 then 0 else z.upd.st, trialFrom := none } } : Sys).raise 0x1205 0
          (imgSvn fl z.power.boot.slot))) := by
  simp only [updConfirm, ht, if_pos hin, Part.confirmed]
  split <;> rfl

/-- A trial that is over falls back (R498). -/
theorem trialOver_over {fl : List Host.Cell} {y : Sys} {t : Nat} (ht : y.upd.trialFrom = some t) (hover : t + secU trialLen ≤ y.now) :
    trialOver (fl, y) = fallBack (fl, y.onUpd fun u => { u with trialFrom := none }) := by
  simp only [trialOver, ht, if_pos hover]

/-- A served write that may change the flash. -/
theorem wholeWrite_flashed {dt : Nat} {rq : Req} {idx sub : Nat} {b : List Byte} {s : State} {z y : Sys} {fl : List Host.Cell}
    {f : List Host.Cell × Sys → List Host.Cell × WriteRes} (h : Serves dt rq.src (writeMsg rq idx sub b) 0 s z)
    (hw : writeObject rq.src idx sub b (s.mem, s.flash, z) = flashWrite f (s.mem, s.flash, z)) (hf : f (s.flash, z) = (fl, accept y)) :
    actMem dt (onAll (wholeWrite rq idx sub b)) s = .next { s with
      flash := fl
      sys := z.reply rq.src (writeMsg rq idx sub b) (written (writeMsg rq idx sub b)) y } := by
  rw [wholeWrite_served h, hw]
  simp only [flashWrite, hf]
  rfl

/-- A command that leaves package memory alone and may change the flash. -/
theorem actMem_flashed {dt : Nat} {f : List Host.Cell × Sys → List Host.Cell × Sys} {s : State} {fl : List Host.Cell} {y : Sys}
    (h : f (s.flash, s.sys.elapse dt) = (fl, y)) : actMem dt (onFlash f) s = .next { s with flash := fl, sys := y } := by
  rw [actMem_eq]
  simp only [onFlash, h]

/-- Settles O25: each write and each completion by what it does to the transfer, the selector and the fuses. -/
theorem updatesRun : Obligations.UpdatesRun := by
  refine ⟨⟨fun dt rq n s z hlo hhi hserves => ?opened, fun dt rq b s z hb hlen hserves hnone hfit => ?chunk,
    fun dt rq s z hserves => ?verify, fun dt rq s z hserves hst => ?activate, fun dt t svn rq s z hserves ht hin hsvn => ?confirm⟩,
    fun dt b s hchunk hst => ?programmed, fun dt s hst hwhole => ?verified, fun dt t s ht hover => ?fallback⟩
  case opened => exact wrote_of_plain hserves (write_updBegin n ⟨hlo, hhi⟩) rfl
  case chunk => exact wrote_of_plain hserves (write_updChunk b hlen) (Sys.updChunk_accepted hb hnone hfit)
  case verify => exact wrote_of_plain hserves write_updVerify rfl
  case activate =>
    refine ⟨_, wholeWrite_flashed hserves write_updActivate (updActivate_verified hst), ?_⟩
    rw [Sys.wantReset_eq]
    exact ⟨rfl, rfl, rfl, rfl⟩
  case confirm =>
    subst hsvn
    exact ⟨_, wholeWrite_flashed hserves write_updConfirm (updConfirm_trial ht hin), rfl, rfl, rfl, rfl⟩
  case programmed =>
    refine ⟨_, actMem_flashed (chunkDone_ok hchunk hst), fun i hi => ?_, fun a ha => ?_⟩
    · rw [List.getD_eq_getElem _ _ hi]
      exact find_storeBytes _ _ _ _ i hi
    · exact (find_storeBytes_other _ _ _ _ _ (.inl ha)).trans (find_eraseSectors (fun _ h => le_of_mem_sectorsFrom h) ha _)
  case verified =>
    cases hfirst : firstFail (imgChecks s.sys.part s.flash s.sys.otherSlot) with
    | none => exact ⟨_, actMem_flashed (updVerified_valid (y := s.sys.elapse dt) hst hwhole hfirst), rfl, fun _ => ⟨rfl, rfl⟩, nofun⟩
    | some c =>
      refine ⟨_, actMem_flashed (updVerified_failed (y := s.sys.elapse dt) hst hwhole hfirst), rfl, nofun, ?_⟩
      rintro _ ⟨⟩
      refine ⟨rfl, rfl, rfl, ?_⟩
      by_cases hc : c = 7
      · have hcause : failCause (s.sys.elapse dt) c = 1 + (s.sys.elapse dt).freeNow % 6 := if_pos hc
        rw [if_pos hc]
        show 1 ≤ failCause (s.sys.elapse dt) c ∧ failCause (s.sys.elapse dt) c ≤ 6
        omega
      · rw [if_neg hc]
        exact if_neg hc
  case fallback =>
    refine ⟨_, actMem_flashed ((trialOver_over (y := s.sys.elapse dt) ht hover).trans rfl), ?_⟩
    rw [Sys.wantReset_eq]
    exact ⟨rfl, rfl, rfl, rfl⟩

end Sys2Proof.Machine

/-! PROOFS. Forwarding, the timers of sessions and the transports (1, 17; R25, R434, R446 to R450). -/

namespace Sys2Proof.Machine

/-! ### Sessions -/

/-- A change of one session leaves the others. -/
theorem Sys.onSession_session_other (y : Sys) {src a : Src} {f : Session → Session} (hsrc : ∀ x, (f x).src = x.src) (ha : a ≠ src) :
    (y.onSession src f).session a = y.session a := by
  unfold Sys.session Sys.onSession
  dsimp only
  induction y.mgmt.sessions with
  | nil => rfl
  | cons x l ih =>
    by_cases h : x.src = src
    · have hx : ¬x.src = a := fun hx => ha (hx.symm.trans h)
      simpa [h, hsrc, Ne.symm ha] using ih
    · by_cases hx : x.src = a
      · simp [hx, ha]
      · simpa [h, hx] using ih

/-- The responses that leave from the front of a session's queue (R25, R450). -/
def Session.leaving (x : Session) : List Outst := x.outst.takeWhile fun (o : Outst) => o.ready

/-- Responses leave one after another. -/
theorem Sys.each_response (src : Src) (l : List Outst) (y : Sys) :
    (y.each l fun o y => y.emit (.response src o.resp)) = { y with out := y.out ++ l.map fun o => Out.response src o.resp } := by
  induction l generalizing y with
  | nil => rw [List.map_nil, List.append_nil]; rfl
  | cons o l ih =>
    rw [Sys.each_cons, ih, List.map_cons]
    simp [Sys.emit]

/-- What a release does to the session of its source (R25, R450). -/
theorem Sys.release_eq {y : Sys} {src : Src} {x : Session} (hx : y.session src = some x) :
    y.release src = { y.onSession src fun s => { s with outst := s.outst.drop x.leaving.length } with
      out := y.out ++ x.leaving.map fun o => Out.response src o.resp } := by
  rw [Sys.release, hx]
  exact Sys.each_response src x.leaving _

/-! ### Forwarding -/

/-- The objects read what the live table holds. -/
theorem Sys.nat_of_live {y z : Sys} (hpart : y.part = z.part) (hlive : y.live = z.live) (k : Nat) : y.nat k = z.nat k := by
  simp only [Sys.nat, Sys.val, hpart, hlive]

/-- The state after a die answered the request that waited longest, before responses leave (R434). -/
def Sys.forwardAnswered (d : Nat) (src : Src) (y : Sys) : Sys :=
  ({ y with mgmt := { y.mgmt with fwdFails := Tab.put (fun _ => 0) y.mgmt.fwdFails d 0 } } : Sys).onSession src fun s =>
    { s with outst := readyFirst d id s.outst }

/-- A response of a die readies the request that has waited longest for it (R25, R434). -/
theorem Sys.forwardResponse_eq {y : Sys} {d t : Nat} {src : Src} (hwait : y.waitingFor d = some (src, t)) (hreach : y.reachable d = true) :
    y.forwardResponse d = (y.forwardAnswered d src).release src := by
  simp only [Sys.forwardResponse, hwait, hreach, if_true, Sys.forwardAnswered]

theorem Sys.forwardAnswered_fwdFails (y : Sys) (d : Nat) (src : Src) :
    Tab.find (fun _ => 0) (y.forwardAnswered d src).mgmt.fwdFails d = 0 := by
  rw [Sys.forwardAnswered, Sys.onSession]
  dsimp only
  rw [Tab.find_put_self]

/-- The state after a request to a die failed for the n-th time in a row (R434). -/
def Sys.forwardMissed (d n : Nat) (src : Src) (y : Sys) : Sys :=
  (((({ y with mgmt := { y.mgmt with fwdFails := Tab.put (fun _ => 0) y.mgmt.fwdFails d n } } : Sys).onSession src
    (Session.fail d)).bump Ob.MgmtFwdFail 1).raise 0x0104 0 d)

/-- A die that is lost takes the package to a reset (R434). -/
def Sys.dieLost (d : Nat) (y : Sys) : Sys :=
  ({ y with mgmt := { y.mgmt with lost := d :: y.mgmt.lost } }.raise 0x0105 0 d).wantReset 5

/-- The state after a failure, before the response leaves. -/
def Sys.forwardFailed (d n : Nat) (src : Src) (y : Sys) : Sys :=
  if n = 3 then (y.forwardMissed d n src).dieLost d else y.forwardMissed d n src

theorem Sys.forwardTimeout_eq {y : Sys} {d t : Nat} {src : Src} (hwait : y.waitingFor d = some (src, t)) (hlate : t + msU 5 ≤ y.now) :
    y.forwardTimeout d = (y.forwardFailed d (Tab.find (fun _ => 0) y.mgmt.fwdFails d + 1) src).release src := by
  simp only [Sys.forwardTimeout, hwait, if_pos hlate]
  rfl

section
variable (y : Sys) (d n : Nat) (src : Src)

theorem Sys.dieLost_eq : y.dieLost d = { y with
    mgmt := { y.mgmt with lost := d :: y.mgmt.lost }
    evs := { y.evs with raised := y.evs.raised ++ [{ code := 0x0105, die := 0, arg := d, t := y.now }] }
    power := { y.power with resetDue := some (y.power.resetDue.getD 5) } } := by
  rw [Sys.dieLost, Sys.wantReset_eq]
  rfl

theorem Sys.forwardMissed_mgmt : (y.forwardMissed d n src).mgmt = { (y.onSession src (Session.fail d)).mgmt with
    fwdFails := Tab.put (fun _ => 0) y.mgmt.fwdFails d n } := by
  rw [Sys.forwardMissed, Sys.raise_mgmt, Sys.bump_mgmt]
  rfl

theorem Sys.forwardMissed_now : (y.forwardMissed d n src).now = y.now := by
  rw [Sys.forwardMissed, Sys.raise_now, Sys.bump_now]
  rfl

theorem Sys.forwardMissed_raised :
    (y.forwardMissed d n src).evs.raised = y.evs.raised ++ [{ code := 0x0104, die := 0, arg := d, t := y.now }] := by
  rw [Sys.forwardMissed, Sys.raise_raised, Sys.bump_evs, Sys.bump_now]
  rfl

theorem Sys.forwardMissed_power : (y.forwardMissed d n src).power = y.power := by
  rw [Sys.forwardMissed, Sys.raise_power, Sys.bump_power]
  rfl

theorem Sys.forwardMissed_out : (y.forwardMissed d n src).out = y.out := by
  rw [Sys.forwardMissed, Sys.raise_out, Sys.bump_out]
  rfl

theorem Sys.forwardFailed_session : (y.forwardFailed d n src).session src = (y.session src).map (Session.fail d) := by
  have hsrc : ∀ x, (Session.fail d x).src = x.src := by
    intro x
    unfold Session.fail
    dsimp only
    split <;> rfl
  have h : (y.forwardFailed d n src).mgmt.sessions = (y.onSession src (Session.fail d)).mgmt.sessions := by
    rw [Sys.forwardFailed]
    split
    · rw [Sys.dieLost_eq, Sys.forwardMissed_mgmt]
    · rw [Sys.forwardMissed_mgmt]
  rw [← Sys.onSession_session hsrc, Sys.session, h, Sys.session]

theorem Sys.forwardFailed_fwdFails : Tab.find (fun _ => 0) (y.forwardFailed d n src).mgmt.fwdFails d = n := by
  have h : (y.forwardFailed d n src).mgmt.fwdFails = Tab.put (fun _ => 0) y.mgmt.fwdFails d n := by
    rw [Sys.forwardFailed]
    split
    · rw [Sys.dieLost_eq, Sys.forwardMissed_mgmt]
    · rw [Sys.forwardMissed_mgmt]
  rw [h, Tab.find_put_self]

theorem Sys.forwardFailed_count : (y.forwardFailed d n src).nat Ob.MgmtFwdFail =
    (y.nat Ob.MgmtFwdFail + 1) % wrapOf y.part.dies Ob.MgmtFwdFail := by
  have h : (y.forwardFailed d n src).nat Ob.MgmtFwdFail = (y.forwardMissed d n src).nat Ob.MgmtFwdFail := by
    rw [Sys.forwardFailed]
    split
    · rw [Sys.dieLost_eq]
      rfl
    · rfl
  rw [h, Sys.forwardMissed, Sys.raise_nat_read, Sys.bump_nat]
  rfl

theorem Sys.forwardFailed_raised : (y.forwardFailed d n src).evs.raised = y.evs.raised ++ [{ code := 0x0104, die := 0, arg := d, t := y.now }] ++
    (if n = 3 then [{ code := 0x0105, die := 0, arg := d, t := y.now }] else []) := by
  rw [Sys.forwardFailed]
  split
  · rw [Sys.dieLost_eq, Sys.forwardMissed_raised, Sys.forwardMissed_now]
  · rw [List.append_nil, Sys.forwardMissed_raised]

theorem Sys.forwardFailed_lost :
    (y.forwardFailed d n src).mgmt.lost = if n = 3 then d :: y.mgmt.lost else y.mgmt.lost := by
  rw [Sys.forwardFailed]
  split
  · rw [Sys.dieLost_eq, Sys.forwardMissed_mgmt]
    rfl
  · rw [Sys.forwardMissed_mgmt]
    rfl

theorem Sys.forwardFailed_resetDue :
    (y.forwardFailed d n src).power.resetDue = if n = 3 then some (y.power.resetDue.getD 5) else y.power.resetDue := by
  rw [Sys.forwardFailed]
  split
  · rw [Sys.dieLost_eq, Sys.forwardMissed_power]
  · rw [Sys.forwardMissed_power]

theorem Sys.forwardFailed_out : (y.forwardFailed d n src).out = y.out := by
  rw [Sys.forwardFailed]
  split
  · rw [Sys.dieLost_eq, Sys.forwardMissed_out]
  · rw [Sys.forwardMissed_out]

end

/-- A session whose first request fails is to send its abort first (R434). -/
theorem Session.fail_leaving {d : Nat} {x : Session} {o : Outst} {rest : List Outst} (hx : x.outst = o :: rest) (hready : o.ready = false)
    (hdie : o.die = d) : ∃ more, (x.fail d).leaving = { o with ready := true, resp := answerTo o.resp (.error (0xA, 0)) } :: more := by
  have hfirst : (!o.ready && o.die == d) = true := by simp [hready, hdie]
  simp only [Session.fail, hx, List.find?_cons, hfirst, readyFirst, if_true, Session.leaving]
  exact ⟨_, rfl⟩

section
variable {y : Sys} {src : Src} {x : Session} (hx : y.session src = some x)
include hx

/-- What leaves at a release, and what stays in the queue. -/
theorem Sys.release_out : (y.release src).out = y.out ++ x.leaving.map fun o => Out.response src o.resp := by rw [Sys.release_eq hx]

theorem Sys.release_outst : ((y.release src).session src).map (fun (x : Session) => x.outst) = some (x.outst.drop x.leaving.length) := by
  have hs : (y.release src).session src = (y.onSession src fun s => { s with outst := s.outst.drop x.leaving.length }).session src := by
    rw [Sys.release_eq hx]
    rfl
  rw [hs, Sys.onSession_session (f := fun s => { s with outst := s.outst.drop x.leaving.length }) fun _ => rfl, hx]
  rfl

/-- Everything but the session and what left stays. -/
theorem Sys.release_rest : (y.release src).live = y.live ∧ (y.release src).evs = y.evs ∧ (y.release src).power = y.power ∧
    (y.release src).mgmt.fwdFails = y.mgmt.fwdFails ∧ (y.release src).mgmt.lost = y.mgmt.lost ∧ (y.release src).part = y.part := by
  rw [Sys.release_eq hx]
  exact ⟨rfl, rfl, rfl, rfl, rfl, rfl⟩

end

/-- Settles O26: both commands release what is ready from the front of the session's queue. -/
theorem forwardsEnd : Obligations.ForwardsEnd := by
  refine ⟨fun dt d t src x s hwait hx hreach => ?_, fun dt d t n src x o rest s hwait hx hout hready hdie hlate hn => ?_⟩
  · have hsession : ((s.sys.elapse dt).forwardAnswered d src).session src = some { x with outst := readyFirst d id x.outst } :=
      (Sys.onSession_session (f := fun s => { s with outst := readyFirst d id s.outst }) (fun _ => rfl) _).trans (congrArg _ hx)
    obtain ⟨hlive, hevs, -, hfails, -, -⟩ := Sys.release_rest hsession
    refine ⟨_, rfl, ?_⟩
    rw [Sys.forwardResponse_eq (y := s.sys.elapse dt) hwait hreach]
    refine ⟨Sys.release_out hsession, Sys.release_outst hsession, ?_, hlive, hevs⟩
    rw [hfails, Sys.forwardAnswered_fwdFails]
  · have hsession : ((s.sys.elapse dt).forwardFailed d n src).session src = some (x.fail d) := by
      rw [Sys.forwardFailed_session]
      exact congrArg (Option.map (Session.fail d)) hx
    obtain ⟨hlive, hevs, hpower, hfails, hlost, hpart⟩ := Sys.release_rest hsession
    obtain ⟨more, hmore⟩ := Session.fail_leaving hout hready hdie
    refine ⟨_, rfl, ?_⟩
    rw [Sys.forwardTimeout_eq (y := s.sys.elapse dt) hwait hlate]
    subst hn
    refine ⟨⟨more.map fun o => Out.response src o.resp, ?_⟩, ?_, ?_, ?_, ?_, ?_⟩
    · refine (Sys.release_out hsession).trans ?_
      rw [Sys.forwardFailed_out, hmore]
      rfl
    · refine (congrArg (fun t => Tab.find (fun _ => 0) t d) hfails).trans (Sys.forwardFailed_fwdFails _ _ _ _)
    · exact (Sys.nat_of_live hpart hlive _).trans (Sys.forwardFailed_count (s.sys.elapse dt) d _ src)
    · exact (congrArg Events.raised hevs).trans (Sys.forwardFailed_raised (s.sys.elapse dt) d _ src)
    · exact hlost.trans (Sys.forwardFailed_lost (s.sys.elapse dt) d _ src)
    · exact (congrArg Power.resetDue hpower).trans (Sys.forwardFailed_resetDue (s.sys.elapse dt) d _ src)

/-! ### Timers and transports -/

/-- A segmented write whose last message is a second old is gone (R446). -/
theorem Session.trim_seg {x : Session} {g : SegWrite} {now : Nat} (hx : x.seg = some g) (hold : g.t + secU 1 ≤ now) :
    (x.trim now).seg = none := by
  simp only [Session.trim, hx, Option.filter, decide_eq_false hold.not_gt, Bool.false_eq_true, if_false]

/-- A snapshot whose last message is a second old is gone (R447). -/
theorem Session.trim_snap {x : Session} {n : Snap} {now : Nat} (hx : x.snap = some n) (hold : n.t + secU 1 ≤ now) :
    (x.trim now).snap = none := by
  simp only [Session.trim, hx, Option.filter, decide_eq_false hold.not_gt, Bool.false_eq_true, if_false]

/-- Settles O27: each timer acts on the session of its source alone, each transport on its own state. -/
theorem sessionsAndTransports : Obligations.SessionsAndTransports := by
  refine ⟨⟨fun dt src s => ?expiry, fun dt src x g s hx hg hold => ?segment, fun dt src x n s hx hn hold => ?snapshot⟩,
    fun dt up s hb hup => ?link, fun dt s hb hoff => ?busOff, fun dt s => rfl⟩
  case expiry =>
    simp only [Bool.and_assoc]
    rfl
  case segment =>
    refine ⟨_, rfl, ?_, fun a ha => ?_, rfl, rfl⟩
    · refine (Sys.onSession_session (f := fun x => { x with seg := (x.trim (s.sys.elapse dt).now).seg }) (fun _ => rfl) _).trans ?_
      refine (congrArg (Option.map _) hx).trans ?_
      rw [Option.map_some, Session.trim_seg (now := (s.sys.elapse dt).now) hg hold]
    · exact Sys.onSession_session_other (f := fun x => { x with seg := (x.trim (s.sys.elapse dt).now).seg }) _ (fun _ => rfl) ha
  case snapshot =>
    refine ⟨_, rfl, ?_, fun a ha => ?_, rfl, rfl⟩
    · refine (Sys.onSession_session (f := fun x => { x with snap := (x.trim (s.sys.elapse dt).now).snap }) (fun _ => rfl) _).trans ?_
      refine (congrArg (Option.map _) hx).trans ?_
      rw [Option.map_some, Session.trim_snap (now := (s.sys.elapse dt).now) hn hold]
    · exact Sys.onSession_session_other (f := fun x => { x with snap := (x.trim (s.sys.elapse dt).now).snap }) _ (fun _ => rfl) ha
  case link =>
    have hdue : (s.sys.elapse dt).beryl ∧ (s.sys.elapse dt).mgmt.linkUp ≠ up := ⟨hb, hup⟩
    rw [Does, show exec (.mgmtLinkChange dt up) s = act dt (Sys.linkChange up) s from rfl, act_eq, Sys.linkChange, if_pos hdue]
    rfl
  case busOff =>
    have hdue : (s.sys.elapse dt).beryl ∧ ¬(s.sys.elapse dt).mgmt.canOff := ⟨hb, by simp [hoff]⟩
    rw [Does, show exec (.canBusOff dt) s = act dt Sys.canBusOff s from rfl, act_eq, Sys.canBusOff, if_pos hdue]
    rfl

end Sys2Proof.Machine

/-! PROOFS. The log, the flash copies, and resets (17 to 19; R32, R338, R459, R460, R475, R486, R487, R491, R501). -/

namespace Sys2Proof.Machine

/-- A command lifted by `act`, by what it does to the state after the time passed. -/
theorem act_done {dt : Nat} {f : Sys → Sys} {s : State} {y : Sys} (h : f (s.sys.elapse dt) = y) : act dt f s = .next { s with sys := y } := by
  rw [act_eq, h]

/-! ### Records -/

/-- A notification leaves the package and changes nothing else (R462). -/
theorem Sys.notify_eq (y : Sys) (r : LogRec) : ∃ o, y.notify r = { y with out := o } := by
  have hemit : ∀ (l : List Nat) (z : Sys), (∃ o, z = { y with out := o }) →
      ∃ o, (z.each l fun i y => if leNat (y.bytes (Ob.EvtDest (i - 1))) = 0 then y else y.emit (.event i r)) = { y with out := o } := by
    intro l z hz
    refine Sys.each_invariant (I := fun z => ∃ o, z = { y with out := o }) (fun i z hz => ?_) hz
    obtain ⟨o, rfl⟩ := hz
    split
    · exact ⟨o, rfl⟩
    · exact ⟨_, rfl⟩
  have hudp : ∃ o, (if y.mgmt.linkUp then
      y.each [1, 2, 3, 4] fun i y => if leNat (y.bytes (Ob.EvtDest (i - 1))) = 0 then y else y.emit (.event i r) else y) =
      { y with out := o } := by
    split
    · exact hemit _ y ⟨y.out, rfl⟩
    · exact ⟨y.out, rfl⟩
  obtain ⟨o, ho⟩ := hudp
  unfold Sys.notify
  split
  · simp only [ho]
    split
    · exact ⟨o, rfl⟩
    · exact ⟨_, rfl⟩
  · exact ⟨y.out, rfl⟩

/-- `y` is `z` but for the log, the free values taken and what left the package. -/
def Sys.LogOnly (z y : Sys) : Prop := ∃ e f o, y = { z with evs := e, free := f, out := o }

theorem Sys.LogOnly.refl (z : Sys) : z.LogOnly z := ⟨z.evs, z.free, z.out, rfl⟩

theorem Sys.LogOnly.trans {x y z : Sys} (h : x.LogOnly y) (h' : y.LogOnly z) : x.LogOnly z := by
  obtain ⟨e, f, o, rfl⟩ := h
  obtain ⟨e', f', o', rfl⟩ := h'
  exact ⟨e', f', o', rfl⟩

theorem Sys.notify_logOnly (y : Sys) (r : LogRec) : y.LogOnly (y.notify r) := by
  obtain ⟨o, h⟩ := y.notify_eq r
  exact ⟨_, _, o, h⟩

theorem Sys.putRecord_logOnly (y : Sys) (r : LogRec) : y.LogOnly (y.putRecord r) := ⟨_, _, _, rfl⟩

/-- The record of the events lost comes before the next one, once the ring has room (R460). -/
def Sys.lostFirst (y : Sys) : Sys :=
  if 0 < y.evs.lost ∧ y.evs.ring.length < ringSize then
    let r := y.recordOf { code := 0x0103, arg := y.evs.lost, t := y.now }
    ({ y.putRecord r with evs := { (y.putRecord r).evs with lost := 0 } }).notify r
  else y

theorem Sys.recordOne_eq (y : Sys) (e : Ev) : y.recordOne e =
    if y.lostFirst.evs.ring.length < ringSize then (y.lostFirst.putRecord (y.lostFirst.recordOf e)).notify (y.lostFirst.recordOf e)
    else { y.lostFirst with evs := { y.lostFirst.evs with lost := y.lostFirst.evs.lost + 1 } } := rfl

theorem Sys.lostFirst_logOnly (y : Sys) : y.LogOnly y.lostFirst := by
  unfold Sys.lostFirst
  split
  · exact Sys.LogOnly.trans ⟨_, _, _, rfl⟩ (Sys.notify_logOnly _ _)
  · exact .refl y

theorem Sys.recordOne_logOnly (y : Sys) (e : Ev) : y.LogOnly (y.recordOne e) := by
  rw [Sys.recordOne_eq]
  split
  · exact y.lostFirst_logOnly.trans ((Sys.putRecord_logOnly _ _).trans (Sys.notify_logOnly _ _))
  · exact y.lostFirst_logOnly.trans ⟨_, _, _, rfl⟩

theorem Sys.recordAll_logOnly (y : Sys) : y.LogOnly y.recordAll :=
  Sys.each_invariant (I := y.LogOnly) (fun e _ h => h.trans (Sys.recordOne_logOnly _ e)) ⟨_, _, _, rfl⟩

/-- An event that a ring with room takes becomes its record (R459). -/
theorem Sys.recordOne_room {y : Sys} {e : Ev} (hlost : y.evs.lost = 0) (hroom : y.evs.ring.length < ringSize) :
    y.recordOne e = (y.putRecord (y.recordOf e)).notify (y.recordOf e) := by
  have hnone : y.lostFirst = y := if_neg (by omega)
  rw [Sys.recordOne_eq, hnone, if_pos hroom]

/-- One that a full ring cannot take is counted (R460). -/
theorem Sys.recordOne_full {y : Sys} {e : Ev} (hfull : ringSize ≤ y.evs.ring.length) :
    y.recordOne e = { y with evs := { y.evs with lost := y.evs.lost + 1 } } := by
  have hnone : y.lostFirst = y := if_neg (by omega)
  rw [Sys.recordOne_eq, hnone, if_neg hfull.not_gt]

/-- The state with other events that have no record yet. -/
def Sys.setRaised (r : List Ev) (y : Sys) : Sys := { y with evs := { y.evs with raised := r } }

theorem Sys.setRaised_recordOf (y : Sys) (r : List Ev) (e : Ev) : (y.setRaised r).recordOf e = y.recordOf e := rfl

theorem Sys.logRecord_cons {y : Sys} {e : Ev} {r : List Ev} (h : y.evs.raised = e :: r) :
    y.logRecord = (y.setRaised r).recordOne e := by
  simp only [Sys.logRecord, h, Sys.setRaised]

/-- A ring with room takes the record of the event raised first (R459). -/
theorem Sys.logRecord_room {y : Sys} {e : Ev} {r : List Ev} (h : y.evs.raised = e :: r) (hlost : y.evs.lost = 0)
    (hroom : y.evs.ring.length < ringSize) :
    ∃ o, y.logRecord = { y.fresh with
      evs := { y.evs with
        raised := r, ring := y.evs.ring ++ [y.recordOf e], nextSeq := (y.evs.nextSeq + 1) % 2 ^ 32,
        suppressed := Tab.put (fun _ => 0) y.evs.suppressed ((y.recordOf e).code * 8 + (y.recordOf e).die) 0 }
      out := o } := by
  obtain ⟨o, ho⟩ := ((y.setRaised r).putRecord (y.recordOf e)).notify_eq (y.recordOf e)
  refine ⟨o, ?_⟩
  rw [Sys.logRecord_cons h, Sys.recordOne_room (y := y.setRaised r) hlost hroom, Sys.setRaised_recordOf, ho]
  rfl

/-! ### The log in the flash -/

theorem flashRecord_eq (r : LogRec) (p : List Host.Cell × Sys) : ∃ e, (flashRecord r p).2 = { p.2 with evs := e } := ⟨_, rfl⟩

/-- Writing the ring to the flash changes no more than the log. -/
theorem flushLog_eq (p : List Host.Cell × Sys) : ∃ e, (flushLog p).2 = { p.2 with evs := e } := by
  have hall : ∀ (l : List LogRec) (q : List Host.Cell × Sys), (∃ e, q.2 = { p.2 with evs := e }) →
      ∃ e, (l.foldl (fun p r => flashRecord r p) q).2 = { p.2 with evs := e } := by
    intro l
    induction l with
    | nil => exact fun _ h => h
    | cons r l ih =>
      intro q hq
      obtain ⟨e, he⟩ := hq
      obtain ⟨e', he'⟩ := flashRecord_eq r q
      exact ih _ ⟨e', by rw [he', he]⟩
  exact hall _ _ ⟨_, rfl⟩

/-- Within a sector a single record goes to its place alone (R460). -/
theorem flushLog_one {fl : List Host.Cell} {y : Sys} {r : LogRec} (hring : y.evs.ring = [r]) (hpos : y.evs.pos % 2048 ≠ 0) :
    flushLog (fl, y) = (storeBytes flashDflt fl (logAt y.evs.pos) r.bytes,
      { y with evs := { y.evs with ring := [], pos := (y.evs.pos + 1) % logSlots } }) := by
  simp only [flushLog, hring, List.foldl_cons, List.foldl_nil, flashRecord, hpos, if_false, false_and]

/-- Settles O28: each command by its one case. -/
theorem logAndCopies : Obligations.LogAndCopies := by
  refine ⟨⟨fun dt e r s hraised hlost hroom => ?record, fun dt e r s hraised hfull => ?full, fun dt r s hring hpos => ?flash⟩,
    fun dt s hdue hchunk => ?persist, fun dt s hdue hchunk => ?map⟩
  case record =>
    obtain ⟨o, ho⟩ := Sys.logRecord_room (y := s.sys.elapse dt) hraised hlost hroom
    exact ⟨_, _, act_done ho, rfl, rfl, rfl, rfl, rfl, rfl, rfl, rfl, fun harg => if_pos harg, rfl⟩
  case full =>
    exact act_done ((Sys.logRecord_cons (y := s.sys.elapse dt) hraised).trans (Sys.recordOne_full (y := (s.sys.elapse dt).setRaised r) hfull))
  case flash => exact actMem_flashed (flushLog_one (y := s.sys.elapse dt) hring hpos)
  case persist =>
    have hready : (s.sys.mgmt.persistDue && s.sys.upd.chunk.isNone) = true := by rw [hdue, hchunk]; rfl
    exact act_done (if_pos hready)
  case map =>
    have hready : (s.sys.mgmt.mapDue && s.sys.upd.chunk.isNone) = true := by rw [hdue, hchunk]; rfl
    exact act_done (if_pos hready)

end Sys2Proof.Machine

/-! PROOFS. Resets and their release (1, 12, 18, 19; R32, R301, R338, R475, R486, R487, R494). -/

namespace Sys2Proof.Machine

/-! ### What is in the flash before a reset -/

/-- `y` is `z` after work on the log and on the repair map: the fuses, the clock, the power state, the live values and the persistent
objects' copy stand. -/
structure Sys.CopyKept (z y : Sys) : Prop where
  part : y.part = z.part
  now : y.now = z.now
  power : y.power = z.power
  live : y.live = z.live
  persist : y.upd.persist = z.upd.persist

namespace Sys.CopyKept
variable {x y z : Sys}

theorem refl (z : Sys) : z.CopyKept z := ⟨rfl, rfl, rfl, rfl, rfl⟩

theorem trans (h : x.CopyKept y) (h' : y.CopyKept z) : x.CopyKept z :=
  ⟨h'.part.trans h.part, h'.now.trans h.now, h'.power.trans h.power, h'.live.trans h.live, h'.persist.trans h.persist⟩

theorem of_logOnly (h : z.LogOnly y) : z.CopyKept y := by
  obtain ⟨e, f, o, rfl⟩ := h
  exact ⟨rfl, rfl, rfl, rfl, rfl⟩

theorem dropRanks (y : Sys) : y.CopyKept y.dropRanks := by
  unfold Sys.dropRanks
  split
  · exact .refl y
  · exact ⟨rfl, rfl, rfl, rfl, rfl⟩

theorem flushLog (p : List Host.Cell × Sys) : p.2.CopyKept (flushLog p).2 := by
  obtain ⟨e, he⟩ := flushLog_eq p
  rw [he]
  exact ⟨rfl, rfl, rfl, rfl, rfl⟩

end Sys.CopyKept

/-- The repair map at a reset: records that software cleared go, and a map that is due is written (R501, R507). -/
def Sys.resetMap (y : Sys) : Sys := if y.dropRanks.mgmt.mapDue then y.dropRanks.saveMap else y.dropRanks

theorem Sys.resetMap_kept (y : Sys) : y.CopyKept y.resetMap := by
  unfold Sys.resetMap
  split
  · exact (Sys.CopyKept.dropRanks y).trans ⟨rfl, rfl, rfl, rfl, rfl⟩
  · exact Sys.CopyKept.dropRanks y

/-- The values of the persistent objects (R475). -/
def Sys.persistent (y : Sys) : Tab Val := y.live.filter fun e => persistentKeys.contains e.1

theorem saveAll_eq (fl : List Host.Cell) (y : Sys) : saveAll (fl, y) = flushLog (fl, y.recordAll.savePersist.resetMap) := rfl

/-- Before a reset that the package asserts the copy of the persistent objects is brought up to the present (R475). -/
theorem saveAll_kept (fl : List Host.Cell) (y : Sys) :
    (saveAll (fl, y)).2.part = y.part ∧ (saveAll (fl, y)).2.power = y.power ∧ (saveAll (fl, y)).2.upd.persist = y.persistent := by
  have hrec := Sys.CopyKept.of_logOnly y.recordAll_logOnly
  have hsave : y.recordAll.savePersist.CopyKept (saveAll (fl, y)).2 := by
    rw [saveAll_eq]
    exact (Sys.resetMap_kept _).trans (Sys.CopyKept.flushLog (fl, y.recordAll.savePersist.resetMap))
  refine ⟨hsave.part.trans hrec.part, hsave.power.trans hrec.power, hsave.persist.trans ?_⟩
  show y.recordAll.live.filter _ = _
  rw [hrec.live, Sys.persistent]

/-- The state whose copies are in the flash at a power-on reset: what was written last may or may not be there (R475, R501). -/
def Sys.atPowerOn (y : Sys) : Sys :=
  let kept := y.freeNow % 2 = 1
  let z := if kept then y.fresh.recordAll.savePersist else y.fresh.recordAll
  if z.mgmt.mapDue ∧ ¬kept then { z with upd := { z.upd with rep := z.upd.flashRep }, mgmt := { z.mgmt with mapDue := false } } else z

/-- The copy of the persistent objects at a power-on reset is the one in the flash or one brought up to the present (R475). -/
theorem Sys.atPowerOn_copy (y : Sys) : y.atPowerOn.part = y.part ∧ y.atPowerOn.power = y.power ∧
    (y.atPowerOn.upd.persist = y.upd.persist ∨ y.atPowerOn.upd.persist = y.persistent) := by
  have hrec : y.CopyKept y.fresh.recordAll := Sys.CopyKept.trans ⟨rfl, rfl, rfl, rfl, rfl⟩ (.of_logOnly y.fresh.recordAll_logOnly)
  have hsave : y.fresh.recordAll.savePersist.upd.persist = y.persistent := by
    show y.fresh.recordAll.live.filter _ = _
    rw [hrec.live, Sys.persistent]
  unfold Sys.atPowerOn
  by_cases hkept : y.freeNow % 2 = 1
  · simp only [hkept, not_true, and_false, if_false, if_true]
    exact ⟨hrec.part, hrec.power, .inr hsave⟩
  · simp only [if_neg hkept]
    split
    · exact ⟨hrec.part, hrec.power, .inl hrec.persist⟩
    · exact ⟨hrec.part, hrec.power, .inl hrec.persist⟩

/-- What a power-on reset clears (R486, R487). -/
theorem powerOnReset_eq (m fl : List Host.Cell) (y : Sys) : powerOnReset m fl y =
    (memCleared m, (flushLog (fl, y.atPowerOn.resetMap)).1, { (flushLog (fl, y.atPowerOn.resetMap)).2.cleared .powerOn 0 with
      power := { ((flushLog (fl, y.atPowerOn.resetMap)).2.cleared .powerOn 0).power with boot := {} } }) := rfl

/-- A system reset with its cause (R486, R487). -/
theorem systemReset_eq {m fl : List Host.Cell} {y : Sys} {pin : Bool} {c : Nat} (hphase : y.power.phase ≠ .powerOn)
    (hcause : (if pin then some 1 else y.power.resetDue) = some c) :
    systemReset pin m fl y = (memCleared m, (saveAll (fl, y)).1, (saveAll (fl, y)).2.cleared (.sysReset y.now) c) := by
  unfold systemReset
  split
  case h_1 h => exact absurd h hphase
  case h_2 => simp only [hcause]

theorem memCleared_eq (m : List Host.Cell) : memCleared m = [] := by
  rw [memCleared, List.filter_eq_nil_iff]
  exact fun _ _ => Bool.false_ne_true

/-- A number that a table does not list reads its default. -/
theorem Tab.find_unlisted {α : Type} {d : Nat → α} {t : Tab α} {k : Nat} (h : ∀ e ∈ t, e.1 ≠ k) : Tab.find d t k = d k := by
  induction t with
  | nil => rfl
  | cons e t ih =>
    obtain ⟨i, v⟩ := e
    rw [Tab.find, if_neg (h (i, v) List.mem_cons_self), ih fun e he => h e (List.mem_cons_of_mem _ he)]

/-! ### Release -/

/-- A release changes the clock, the phase and the power domains (R301, R494). -/
theorem Sys.released_eq (y : Sys) : ∃ ds, y.released =
    { y with now := 0, power := { y.power with phase := .booting }, out := y.out ++ [.pins false], dies := ds } :=
  Sys.powerAll_eq _

/-- Settles O29: a reset by what it clears, a release by what it starts. -/
theorem resetsRun : Obligations.ResetsRun := by
  refine ⟨⟨fun dt s => ?powerOn, fun dt c pin s hphase hcause => ?system⟩, fun dt s hphase => ?release, fun dt t s hphase hpast href => ?systemRelease,
    fun dt s => ?watchdog, fun dt d s => ?refclk⟩
  case powerOn =>
    have hflush := (Sys.resetMap_kept (s.sys.elapse dt).atPowerOn).trans
      (Sys.CopyKept.flushLog (s.flash, (s.sys.elapse dt).atPowerOn.resetMap))
    obtain ⟨hpart, hpower, hpersist⟩ := (s.sys.elapse dt).atPowerOn_copy
    refine ⟨_, rfl, memCleared_eq _, rfl, ?_, rfl, rfl, rfl, rfl, rfl, hflush.part.trans hpart, fun hkeys k hk => ?_⟩
    · show ({ phase := .powerOn, refStopped := (flushLog (s.flash, (s.sys.elapse dt).atPowerOn.resetMap)).2.power.refStopped } : Power) = _
      rw [hflush.power, hpower]
      rfl
    · have hlisted : ∀ e ∈ (s.sys.elapse dt).atPowerOn.upd.persist, e.1 ≠ k := by
        rintro e he rfl
        have hcontains : persistentKeys.contains e.1 = true := by
          rcases hpersist with h | h
          · exact hkeys e (h ▸ he)
          · rw [h] at he
            exact (List.mem_filter.mp he).2
        exact Bool.false_ne_true (hk.symm.trans hcontains)
      show Tab.find (dfltVal (flushLog (s.flash, (s.sys.elapse dt).atPowerOn.resetMap)).2.part)
        (flushLog (s.flash, (s.sys.elapse dt).atPowerOn.resetMap)).2.upd.persist k = _
      rw [hflush.persist, Tab.find_unlisted hlisted, hflush.part, hpart]
      rfl
  case system =>
    obtain ⟨hpart, hpower, hpersist⟩ := saveAll_kept s.flash (s.sys.elapse dt)
    have hreset := systemReset_eq (m := s.mem) (fl := s.flash) (y := s.sys.elapse dt) hphase hcause
    refine ⟨_, rfl, ?_⟩
    rw [hreset]
    refine ⟨memCleared_eq _, rfl, ?_, hpersist, rfl, rfl, rfl, rfl, hpart, rfl, rfl, rfl, rfl, rfl⟩
    show ({ phase := .sysReset (s.sys.elapse dt).now, refStopped := (saveAll (s.flash, s.sys.elapse dt)).2.power.refStopped,
            boot := { cause := c, rollback := (saveAll (s.flash, s.sys.elapse dt)).2.power.boot.rollback } } : Power) = _
    rw [hpower]
    rfl
  case release =>
    obtain ⟨ds, hds⟩ := (s.sys.elapse dt).released_eq
    have hrun : (s.sys.elapse dt).powerOnRelease = (s.sys.elapse dt).released := by
      unfold Sys.powerOnRelease
      rw [show (s.sys.elapse dt).power.phase = .powerOn from hphase]
    exact ⟨ds, act_done (hrun.trans hds)⟩
  case systemRelease =>
    obtain ⟨ds, hds⟩ := ({ s.sys.elapse dt with power := { s.sys.power with refStopped := [] } } : Sys).released_eq
    have hready : t + usU 100 ≤ (s.sys.elapse dt).now ∧
        (s.sys.elapse dt).power.refStopped.all (fun r => decide (r + msU 1 ≤ (s.sys.elapse dt).now)) = true :=
      ⟨hpast, List.all_eq_true.mpr fun r hr => decide_eq_true (href r hr)⟩
    have hrun : (s.sys.elapse dt).resetRelease = ({ s.sys.elapse dt with power := { s.sys.power with refStopped := [] } } : Sys).released := by
      unfold Sys.resetRelease
      rw [show (s.sys.elapse dt).power.phase = .sysReset t from hphase]
      exact if_pos hready
    exact ⟨ds, act_done (hrun.trans hds)⟩
  case watchdog => exact act_done (Sys.wantReset_eq _ 3)
  case refclk => exact act_done (Sys.wantReset_eq _ 4)

end Sys2Proof.Machine

/-! PROOFS. Boot: self-tests, training, the choice of the image, and its end (14, 19; R374, R494, R495, R506). -/

namespace Sys2Proof.Machine

/-! ### The SRAM self-test -/

/-- Events raised one after another change nothing but the events. -/
theorem Sys.each_raise {α : Type} (l : List α) (c d a : Nat) (y : Sys) : ∃ e, (y.each l fun _ y => y.raise c d a) = { y with evs := e } :=
  Sys.each_invariant (I := fun x => ∃ e, x = { y with evs := e }) (fun _ x h => by obtain ⟨e, rfl⟩ := h; exact ⟨_, rfl⟩) ⟨y.evs, rfl⟩

/-- A die notes that its SRAM was tested. -/
def Sys.sramNoted (d : Nat) (y : Sys) : Sys :=
  { y with power := { y.power with boot := { y.power.boot with sramDone := y.power.boot.sramDone ++ [d] } } }

/-- The failing rows of a die with no record yet take spares, and no row-buffer space goes (R506). -/
theorem Sys.sramTested_fits {y : Sys} {d : Nat} {bad rows : List Nat} (hphase : y.power.phase = .booting) (hd : d < y.part.dies)
    (hdone : y.power.boot.sramDone.contains d = false) (hsus : (y.upd.rep.suspectRows.filter fun e => e.1 == d) = [])
    (hspared : (y.upd.rep.rows.filter fun e => e.1 == d) = [])
    (hrows : rows = (slotsOf bad).filter fun r => decide (r < 24576)) (hfew : rows.length ≤ 384) :
    ∃ e r m, r.rows = y.upd.rep.rows ++ rows.map (fun k => (d, k)) ∧
      y.sramTested d bad = ({ y.sramNoted d with evs := e, upd := { y.upd with rep := r }, mgmt := m } : Sys).onDie d fun x => { x with sramLost := 0 } := by
  have hdue : y.power.phase = .booting ∧ d < y.part.dies ∧ ¬y.power.boot.sramDone.contains d = true := ⟨hphase, hd, ne_true_of_eq_false hdone⟩
  have htake : rows.take 384 = rows := List.take_of_length_le hfew
  have hexcess : rows.length - 384 = 0 := Nat.sub_eq_zero_of_le hfew
  have hlost : ceilDiv 0 64 * 65536 = 0 := rfl
  have hno : ¬3 * 2 ^ 20 < 0 := by omega
  unfold Sys.sramTested
  rw [if_pos hdue]
  simp only [hsus, hspared, List.map_nil, List.append_nil, List.contains_nil, Bool.not_false, Bool.and_true, ← hrows, List.length_nil,
    Nat.sub_zero, htake, hexcess, hlost, if_neg hno, List.isEmpty_nil]
  split
  case isTrue hempty =>
    have hnil : rows = [] := List.isEmpty_iff.mp hempty
    rw [hnil]
    exact ⟨y.evs, y.upd.rep, y.mgmt, by simp, rfl⟩
  case isFalse =>
    obtain ⟨e, he⟩ := Sys.each_raise rows 0x110A d d ((y.sramNoted d).onRep fun r => { r with
      rows := r.rows ++ rows.map fun k => (d, k), suspectRows := r.suspectRows.filter fun e => e.1 != d })
    exact ⟨e, _, _, rfl, congrArg (Sys.onDie d fun x => { x with sramLost := 0 }) he⟩

/-! ### Ranks -/

section
variable (y : Sys) (d m k : Nat) (f : Rank → Rank)

theorem Sys.onRank_self : ((y.onRank d m k f).die d).dram.rank m k = f ((y.die d).dram.rank m k) := by
  rw [Sys.onRank, Sys.onDie_self, Dram.rank, Tab.modify, Tab.find_put_self, Dram.rank]

theorem Sys.onRank_other {n j : Nat} (h : 3 * n + j ≠ 3 * m + k) :
    ((y.onRank d m k f).die d).dram.rank n j = (y.die d).dram.rank n j := by
  rw [Sys.onRank, Sys.onDie_self, Dram.rank, Tab.modify, Tab.find_put_other _ _ _ h, Dram.rank]

end

/-- Training gives each of three ranks an outcome (R374). -/
theorem rankOutcome_three {ok : Nat → Bool} {l : List (Nat × Option Nat)} (h : rankOutcome ok = some l) : ∃ a b c, l = [a, b, c] := by
  unfold rankOutcome at h
  split at h
  · exact ⟨_, _, _, (Option.some.inj h).symm⟩
  · exact ⟨_, _, _, (Option.some.inj h).symm⟩
  · exact ⟨_, _, _, (Option.some.inj h).symm⟩
  · exact ⟨_, _, _, (Option.some.inj h).symm⟩
  · cases h

/-- A rank takes its outcome. -/
def Sys.rankTrained (d m : Nat) (e : (Nat × Option Nat) × Nat) (y : Sys) : Sys :=
  y.onRank d m e.2 fun r => { r with st := e.1.1, serves := e.1.2 }

/-- A controller's ranks take their outcomes, or its die has no memory (R374). -/
def Sys.ctrlTrained (d : Nat) (bad : Nat → Nat → Bool) (m : Nat) (y : Sys) : Sys :=
  match rankOutcome fun k => !bad m k with
  | some l => y.each l.zipIdx (Sys.rankTrained d m)
  | none =>
    (y.each [0, 1, 2] fun k y => y.onRank d m k fun r => { r with st := 0, serves := none }).onDie d fun x =>
      { x with dram := { x.dram with failed := true } }

theorem Sys.ctrlTrained_self {y : Sys} {d m : Nat} {bad : Nat → Nat → Bool} {l : List (Nat × Option Nat)}
    (h : rankOutcome (fun k => !bad m k) = some l) {k : Nat} (hk : k < 3) :
    some ((((y.ctrlTrained d bad m).die d).dram.rank m k).st, (((y.ctrlTrained d bad m).die d).dram.rank m k).serves) = l[k]? := by
  obtain ⟨a, b, c, rfl⟩ := rankOutcome_three h
  have hthree : y.ctrlTrained d bad m = ((y.rankTrained d m (a, 0)).rankTrained d m (b, 1)).rankTrained d m (c, 2) := by
    simp only [Sys.ctrlTrained, h]
    rfl
  have hcases : k = 0 ∨ k = 1 ∨ k = 2 := by omega
  rw [hthree]
  unfold Sys.rankTrained
  rcases hcases with rfl | rfl | rfl
  · rw [Sys.onRank_other _ _ _ _ _ (by omega), Sys.onRank_other _ _ _ _ _ (by omega), Sys.onRank_self]
    rfl
  · rw [Sys.onRank_other _ _ _ _ _ (by omega), Sys.onRank_self]
    rfl
  · rw [Sys.onRank_self]
    rfl

theorem Sys.ctrlTrained_zero_one (y : Sys) (d : Nat) (bad : Nat → Nat → Bool) {k : Nat} (hk : k < 3) :
    ((y.ctrlTrained d bad 1).die d).dram.rank 0 k = (y.die d).dram.rank 0 k := by
  unfold Sys.ctrlTrained
  split
  · refine Sys.each_apart (g := fun x => (x.die d).dram.rank 0 k) fun e _ x => ?_
    exact Sys.onRank_other _ _ _ _ _ (by omega)
  · rw [Sys.onDie_self]
    exact Sys.each_apart (g := fun x => (x.die d).dram.rank 0 k) fun e _ x => Sys.onRank_other _ _ _ _ _ (by omega)

theorem Sys.ctrlTrained_power (y : Sys) (d m : Nat) (bad : Nat → Nat → Bool) : (y.ctrlTrained d bad m).power = y.power := by
  unfold Sys.ctrlTrained
  split
  · exact Sys.each_apart (f := Sys.rankTrained d m) (g := (·.power)) fun _ _ _ => rfl
  · exact Sys.each_apart (f := fun k y => Sys.onRank d m k (fun r => { r with st := 0, serves := none }) y) (g := (·.power)) fun _ _ _ => rfl

/-- A rank that training failed at a rate, or that the repair map names (R374). -/
def Sys.rankBad (y : Sys) (d : Nat) (failed : List (Nat × Nat × Nat)) (m k : Nat) : Bool :=
  Tab.find (fun _ => 0) y.upd.rep.ranks (6 * d + 3 * m + k) != 0 ||
    failed.any fun f => f.1 == m && f.2.1 == k && y.trainRates.contains f.2.2

/-- What a rank was trained at, with an event for one that failed (R373, R374). -/
def Sys.rankRates (rates : List Nat) (d : Nat) (failed : List (Nat × Nat × Nat)) (bad : Nat → Nat → Bool) (m k : Nat) (y : Sys) : Sys :=
  let y := y.onRank d m k fun r => { r with trained := rates.filter fun t => !failed.contains (m, k, t) }
  if bad m k then y.raise 0x0606 d (16 * m + k) else y

/-- The ranks of a die after they were trained, before their outcome. -/
def Sys.ratesTrained (d : Nat) (failed : List (Nat × Nat × Nat)) (y : Sys) : Sys :=
  y.each [0, 1] fun m x => x.each [0, 1, 2] fun k x => x.rankRates y.trainRates d failed (y.rankBad d failed) m k

theorem Sys.dramTrained_eq {y : Sys} {d : Nat} {failed : List (Nat × Nat × Nat)} (hphase : y.power.phase = .booting) (hd : d < y.part.dies)
    (htrained : y.power.boot.trained.contains d = false) :
    y.dramTrained d failed =
      let z := ((y.ratesTrained d failed).ctrlTrained d (y.rankBad d failed) 0).ctrlTrained d (y.rankBad d failed) 1
      { z with power := { z.power with boot := { z.power.boot with trained := z.power.boot.trained ++ [d] } } } := by
  unfold Sys.dramTrained
  rw [if_pos ⟨hphase, hd, ne_true_of_eq_false htrained⟩]
  rfl

theorem Sys.ratesTrained_power (y : Sys) (d : Nat) (failed : List (Nat × Nat × Nat)) : (y.ratesTrained d failed).power = y.power := by
  refine Sys.each_apart (g := (·.power)) fun m _ x => Sys.each_apart (g := (·.power)) fun k _ x => ?_
  unfold Sys.rankRates
  dsimp only
  split <;> rfl

/-! ### The image -/

/-- A PLL that leaves bypass at boot is all that changes (R494). -/
theorem Sys.bootPll_eq (y : Sys) (d p : Nat) : ∃ c, y.bootPll d p = { y with clk := c } := ⟨_, rfl⟩

theorem Sys.bootPlls_eq (y : Sys) (d : Nat) (l : List Nat) : ∃ c, (y.each l fun p y => y.bootPll d p) = { y with clk := c } :=
  Sys.each_invariant (I := fun x => ∃ c, x = { y with clk := c }) (fun p x h => by
    obtain ⟨c, rfl⟩ := h
    obtain ⟨c', h'⟩ := Sys.bootPll_eq { y with clk := c } d p
    exact ⟨c', h'⟩) ⟨y.clk, rfl⟩

theorem Sys.bootCal_eq (y : Sys) : ∃ c, y.bootCal = { y with clk := c } := by
  refine Sys.each_invariant (I := fun x => ∃ c, x = { y with clk := c }) (fun d x h => ?_) ⟨y.clk, rfl⟩
  refine Sys.each_invariant (I := fun x => ∃ c, x = { y with clk := c }) (fun p x h => ?_) h
  refine Sys.each_invariant (I := fun x => ∃ c, x = { y with clk := c }) (fun e x h => ?_) h
  obtain ⟨c, rfl⟩ := h
  dsimp only
  split
  · exact ⟨_, rfl⟩
  · exact ⟨c, rfl⟩

/-- The runtime of a die starts: its PLLs leave bypass, and its remap bit is set (R494). -/
def Sys.startDie (d : Nat) (y : Sys) : Sys :=
  if (y.die d).mappedOut then y
  else (y.each [0, 1, 3, 4, 5] fun p y => y.bootPll d p).onDie d fun x => { x with remap := true }

/-- The boot record of the image that runs. -/
def Sys.imageNoted (slot fw : Nat) (other trial : Bool) (y : Sys) : Sys :=
  { y with power := { y.power with boot := { y.power.boot with
    imageDone := true, slot := slot, fwVersion := fw, otherSlot := other, trial := trial } } }

theorem Sys.runtime_eq (y : Sys) (slot fw : Nat) (other trial : Bool) : y.runtime slot fw other trial =
    (y.imageNoted slot fw other trial).bootCal.each (y.imageNoted slot fw other trial).bootCal.dieList Sys.startDie := rfl

theorem Sys.startDie_power (y : Sys) (d : Nat) : (y.startDie d).power = y.power := by
  obtain ⟨c, h⟩ := y.bootPlls_eq d [0, 1, 3, 4, 5]
  unfold Sys.startDie
  split
  · rfl
  · rw [h]
    rfl

theorem Sys.startDie_self {y : Sys} {d : Nat} (h : (y.die d).mappedOut = false) : ((y.startDie d).die d).remap = true := by
  rw [Sys.startDie, if_neg (ne_true_of_eq_false h), Sys.onDie_self]

theorem Sys.startDie_other (y : Sys) {d e : Nat} (h : e ≠ d) : (y.startDie e).die d = y.die d := by
  obtain ⟨c, hc⟩ := y.bootPlls_eq e [0, 1, 3, 4, 5]
  unfold Sys.startDie
  split
  · rfl
  · rw [hc, Sys.onDie_other _ _ _ _ h.symm]
    rfl

/-- The image that runs is noted, and every die in use has its remap bit set (R494). -/
theorem Sys.runtime_spec (y : Sys) (slot fw : Nat) (other trial : Bool) :
    (y.runtime slot fw other trial).power = (y.imageNoted slot fw other trial).power ∧
      ∀ d < y.part.dies, (y.die d).mappedOut = false → ((y.runtime slot fw other trial).die d).remap = true := by
  obtain ⟨c, hc⟩ := (y.imageNoted slot fw other trial).bootCal_eq
  rw [Sys.runtime_eq, hc]
  refine ⟨Sys.each_apart (g := (·.power)) fun d _ x => x.startDie_power d, fun d hd hin => ?_⟩
  obtain ⟨w, -, hw, he⟩ := Sys.each_once (f := Sys.startDie) (g := fun x => x.die d) (I := fun _ => True) List.nodup_range
    (List.mem_range.mpr hd) (fun _ _ h => h) (fun e he x => x.startDie_other he) (y := { y.imageNoted slot fw other trial with clk := c }) trivial
  exact (congrArg Die.remap he).trans (Sys.startDie_self (by rw [hw]; exact hin))

section
variable {fl : List Host.Cell} {y : Sys} (hphase : y.power.phase = .booting) (hdone : y.power.boot.imageDone = false)
  (htrial : (selNow fl).trial ≠ 1)
include hphase hdone htrial

/-- A valid active image runs (R495). -/
theorem imageVerified_active (h : imgValid y.part fl (selNow fl).active = true) :
    imageVerified (fl, y) = (fl, y.runtime (selNow fl).active (imgFw fl (selNow fl).active) false false) := by
  simp [imageVerified, hphase, hdone, htrial, h]

/-- With the active one bad the other valid image runs (R495). -/
theorem imageVerified_other (h : imgValid y.part fl (selNow fl).active = false) (h' : imgValid y.part fl (1 - (selNow fl).active) = true) :
    imageVerified (fl, y) = (fl, y.runtime (1 - (selNow fl).active) (imgFw fl (1 - (selNow fl).active)) true false) := by
  simp [imageVerified, hphase, hdone, htrial, h, h']

/-- With both bad nothing runs (R495). -/
theorem imageVerified_none (h : imgValid y.part fl (selNow fl).active = false) (h' : imgValid y.part fl (1 - (selNow fl).active) = false) :
    imageVerified (fl, y) = (fl, y) := by
  simp [imageVerified, hphase, hdone, htrial, h, h']

end

/-! ### The end of a boot -/

/-- A die's memory, pipelines and cores enter service (R494, R505). -/
def Sys.dieBooted (badPipes badCores : List (Nat × Nat)) (d : Nat) (y : Sys) : Sys :=
  let mine := fun (l : List (Nat × Nat)) (d : Nat) (n : Nat) =>
    slotsOf ((l.filter fun e => e.1 == d && decide (e.2 < n)).map Prod.snd)
  ((y.bootDram d).bootPipes d ((mine badPipes d 5).filter fun p => !y.upd.rep.pipes.contains (d, p))).bootCores d
    ((mine badCores d 32).filter fun p => !y.upd.rep.cores.contains (d, p))

/-- Every die in use enters service. -/
def Sys.diesBooted (badPipes badCores : List (Nat × Nat)) (y : Sys) : Sys :=
  y.each (y.dieList.filter fun d => !(y.die d).mappedOut) (Sys.dieBooted badPipes badCores)

/-- The boot is over. -/
def Sys.bootEnded (y : Sys) : Sys :=
  { y with power := { y.power with phase := .running, boot := { y.power.boot with bootMs := y.uptimeMs } } }

/-- The first boot provisions the part. -/
def Sys.provisionedNow (y : Sys) : Sys :=
  if y.part.provisioned then y else { y with part := { y.part with provisioned := true } }.raise 0x1207 0 0

/-- The other image runs (R495). -/
def Sys.otherReported (y : Sys) : Sys := if y.power.boot.otherSlot then y.raise 0x1201 0 y.power.boot.slot else y

/-- The trial of an image starts (R498). -/
def Sys.trialStarted (y : Sys) : Sys := if y.power.boot.trial then y.onUpd fun u => { u with st := 6, trialFrom := some y.now } else y

/-- A trial fell back (R498). -/
def Sys.rollbackReported (y : Sys) : Sys :=
  if y.power.boot.rollback then
    ({ y with power := { y.power with boot := { y.power.boot with rollback := false } } }.onUpd fun u => { u with st := 7 }).raise 0x1206 0 0
  else y

/-- What the choice of the image adds to a boot. -/
def Sys.imageReported (y : Sys) : Sys := y.otherReported.trialStarted.rollbackReported

theorem Sys.bootDone_eq (badPipes badCores : List (Nat × Nat)) (y : Sys) : y.bootDone badPipes badCores =
    ((y.diesBooted badPipes badCores).bootEnded.provisionedNow.raise 0x0109 0 0).imageReported.powerAll := rfl

theorem Sys.bootDram_now (y : Sys) (d : Nat) : (y.bootDram d).now = y.now := by
  unfold Sys.bootDram
  dsimp only
  split <;> rfl

theorem Sys.bootPipes_now (y : Sys) (d : Nat) (bad : List Nat) : (y.bootPipes d bad).now = y.now :=
  Sys.each_apart (f := fun p y => ((Sys.bump (Ob.DieSelfTestFails d) 1 y).onRep fun r => { r with pipes := r.pipes ++ [(d, p)] }).raise 0x1107 d p)
    (g := (·.now)) fun _ _ _ => rfl

theorem Sys.each_now {α : Type} {f : α → Sys → Sys} {l : List α} {y : Sys} (h : ∀ a x, (f a x).now = x.now) : (y.each l f).now = y.now :=
  Sys.each_apart (g := (·.now)) fun a _ => h a

theorem Sys.onOnyx_now (y : Sys) (d : Nat) (f : Onyx → Onyx) : (y.onOnyx d f).now = y.now := rfl

theorem Sys.bootCores_now (y : Sys) (d : Nat) (bad : List Nat) : (y.bootCores d bad).now = y.now := by
  unfold Sys.bootCores
  dsimp only
  rw [Sys.onOnyx_now, Sys.each_now, Sys.each_now, Sys.each_now] <;> exact fun _ _ => rfl

theorem Sys.diesBooted_now (badPipes badCores : List (Nat × Nat)) (y : Sys) : (y.diesBooted badPipes badCores).now = y.now := by
  refine Sys.each_apart (g := (·.now)) fun d _ x => ?_
  rw [Sys.dieBooted, Sys.bootCores_now, Sys.bootPipes_now, Sys.bootDram_now]

theorem Sys.provisionedNow_spec (y : Sys) : y.provisionedNow.part.provisioned = true ∧ y.provisionedNow.power = y.power ∧
    y.provisionedNow.now = y.now := by
  unfold Sys.provisionedNow
  split
  case isTrue h => exact ⟨h, rfl, rfl⟩
  case isFalse => exact ⟨rfl, rfl, rfl⟩

/-- Reports of the image keep the phase and the part, and every event raised before stays raised. -/
theorem Sys.imageReported_spec (y : Sys) : y.imageReported.power.phase = y.power.phase ∧ y.imageReported.part = y.part ∧
    y.evs.raised ⊆ y.imageReported.evs.raised := by
  have hother : y.otherReported.power.phase = y.power.phase ∧ y.otherReported.part = y.part ∧ y.evs.raised ⊆ y.otherReported.evs.raised := by
    unfold Sys.otherReported
    split
    · exact ⟨rfl, rfl, List.subset_append_left _ _⟩
    · exact ⟨rfl, rfl, List.Subset.refl _⟩
  have htrial (x : Sys) : x.trialStarted.power = x.power ∧ x.trialStarted.part = x.part ∧ x.trialStarted.evs = x.evs := by
    unfold Sys.trialStarted
    split <;> exact ⟨rfl, rfl, rfl⟩
  have hroll (x : Sys) : x.rollbackReported.power.phase = x.power.phase ∧ x.rollbackReported.part = x.part ∧
      x.evs.raised ⊆ x.rollbackReported.evs.raised := by
    unfold Sys.rollbackReported
    split
    · exact ⟨rfl, rfl, List.subset_append_left _ _⟩
    · exact ⟨rfl, rfl, List.Subset.refl _⟩
  obtain ⟨hp, hq, hr⟩ := hother
  obtain ⟨tp, tq, tr⟩ := htrial y.otherReported
  obtain ⟨rp, rq, rr⟩ := hroll y.otherReported.trialStarted
  exact ⟨rp.trans ((congrArg _ tp).trans hp), rq.trans (tq.trans hq), fun e he => rr (by rw [tr]; exact hr he)⟩

/-- With all dies done the boot ends (R494). -/
theorem bootComplete_done {badPipes badCores : List (Nat × Nat)} {fl : List Host.Cell} {y : Sys} (hphase : y.power.phase = .booting)
    (hin : (y.die 0).mappedOut = false) (himage : y.power.boot.imageDone = true)
    (hdies : ∀ d < y.part.dies, (y.die d).mappedOut = true ∨
      (y.power.boot.sramDone.contains d = true ∧ y.power.boot.trained.contains d = true)) :
    bootComplete badPipes badCores (fl, y) = (fl, (y.bootDone badPipes badCores).certify fl) := by
  have hall : (y.dieList.all fun d => (y.die d).mappedOut || (y.power.boot.sramDone.contains d && y.power.boot.trained.contains d)) = true := by
    refine List.all_eq_true.mpr fun d hd => ?_
    rcases hdies d (List.mem_range.mp hd) with h | ⟨h, h'⟩
    · rw [h, Bool.true_or]
    · rw [h, h', Bool.and_self, Bool.or_true]
  have hno : ¬((y.die 0).mappedOut = true ∨ (¬y.power.boot.imageDone = true ∧ y.noImage fl = true)) := by
    rw [hin, himage]
    simp
  unfold bootComplete
  dsimp only
  rw [if_pos hphase, if_neg hno, if_pos ⟨himage, hall⟩]

/-- A boot that ends runs, on a provisioned part, and says so. -/
theorem Sys.bootDone_spec (badPipes badCores : List (Nat × Nat)) (y : Sys) : (y.bootDone badPipes badCores).power.phase = .running ∧
    (y.bootDone badPipes badCores).part.provisioned = true ∧
    { code := 0x0109, die := 0, arg := 0, t := y.now } ∈ (y.bootDone badPipes badCores).evs.raised := by
  obtain ⟨hpart, hpower, hnow⟩ := (y.diesBooted badPipes badCores).bootEnded.provisionedNow_spec
  obtain ⟨hphase, hkept, hraised⟩ := ((y.diesBooted badPipes badCores).bootEnded.provisionedNow.raise 0x0109 0 0).imageReported_spec
  obtain ⟨ds, hds⟩ := ((y.diesBooted badPipes badCores).bootEnded.provisionedNow.raise 0x0109 0 0).imageReported.powerAll_eq
  rw [Sys.bootDone_eq, hds]
  refine ⟨hphase.trans (by rw [Sys.raise_power, hpower]; rfl), (congrArg Part.provisioned hkept).trans hpart, hraised ?_⟩
  have hstart : (y.diesBooted badPipes badCores).bootEnded.now = y.now := Sys.diesBooted_now _ _ _
  rw [Sys.raise_raised, hnow, hstart]
  exact List.mem_append_right _ (List.mem_singleton_self _)

/-- The rank bad of the model is the one the statement writes out. -/
theorem Sys.rankBad_not (y : Sys) (d : Nat) (failed : List (Nat × Nat × Nat)) (m k : Nat) : (!y.rankBad d failed m k) =
    (Tab.find (fun _ => 0) y.upd.rep.ranks (6 * d + 3 * m + k) == 0 &&
      !failed.any fun f => f.1 == m && f.2.1 == k && y.trainRates.contains f.2.2) := by
  rw [Sys.rankBad, Bool.not_or, bne, Bool.not_not]

/-- After training a controller's ranks stand as their outcome says. -/
theorem Sys.dramTrained_rank {y : Sys} {d m : Nat} {failed : List (Nat × Nat × Nat)} {l : List (Nat × Option Nat)} (hphase : y.power.phase = .booting)
    (hd : d < y.part.dies) (htrained : y.power.boot.trained.contains d = false) (hm : m < 2)
    (hl : rankOutcome (fun k => !y.rankBad d failed m k) = some l) {k : Nat} (hk : k < 3) :
    some ((((y.dramTrained d failed).die d).dram.rank m k).st, (((y.dramTrained d failed).die d).dram.rank m k).serves) = l[k]? := by
  rw [Sys.dramTrained_eq hphase hd htrained]
  change some ((((((y.ratesTrained d failed).ctrlTrained d (y.rankBad d failed) 0).ctrlTrained d (y.rankBad d failed) 1).die d).dram.rank m k).st,
    (((((y.ratesTrained d failed).ctrlTrained d (y.rankBad d failed) 0).ctrlTrained d (y.rankBad d failed) 1).die d).dram.rank m k).serves) = l[k]?
  match m, hm with
  | 0, _ =>
    rw [Sys.ctrlTrained_zero_one _ _ _ hk]
    exact Sys.ctrlTrained_self hl hk
  | 1, _ => exact Sys.ctrlTrained_self hl hk

/-- Training of a die is noted. -/
theorem Sys.dramTrained_noted {y : Sys} {d : Nat} {failed : List (Nat × Nat × Nat)} (hphase : y.power.phase = .booting) (hd : d < y.part.dies)
    (htrained : y.power.boot.trained.contains d = false) :
    (y.dramTrained d failed).power.boot.trained = y.power.boot.trained ++ [d] := by
  rw [Sys.dramTrained_eq hphase hd htrained]
  dsimp only
  rw [Sys.ctrlTrained_power, Sys.ctrlTrained_power, Sys.ratesTrained_power]

/-- Settles O30: a self-test, a training, the choice of the image and the end of a boot, each by the lemma of its step. -/
theorem boots : Obligations.Boots := by
  unfold Obligations.Boots
  refine ⟨fun dt d bad rows s hphase hd hdone hsus hspared hrows hfew => ?_, fun dt d m failed l s hphase hd htrained hm hl => ?_,
    fun dt a s hphase hdone htrial ha => ?_, fun dt badPipes badCores s hphase hin himage hdies => ?_⟩
  · obtain ⟨e, r, m, hr, h⟩ := Sys.sramTested_fits (y := s.sys.elapse dt) hphase hd hdone hsus hspared hrows hfew
    refine ⟨_, act_done h, rfl, ?_, ?_, hr⟩
    · rw [Sys.onDie_self]
    · rw [Sys.onDie_self]
      rfl
  · exact ⟨_, act_done rfl, Sys.dramTrained_noted (y := s.sys.elapse dt) hphase hd htrained, fun k hk =>
      Sys.dramTrained_rank (y := s.sys.elapse dt) hphase hd htrained hm ((congrArg rankOutcome (funext fun j => s.sys.rankBad_not d failed m j)).trans hl) hk⟩
  · subst ha
    have hother : ((1 - (selNow s.flash).active) != (selNow s.flash).active) = true := by rw [bne_iff_ne]; omega
    have hsame : ((selNow s.flash).active != (selNow s.flash).active) = false := bne_self_eq_false _
    cases hact : imgValid s.sys.part s.flash (selNow s.flash).active
    case true =>
      refine ⟨_, actMem_flashed (imageVerified_active (y := s.sys.elapse dt) hphase hdone htrial hact), fun slot hslot hvalid => ?_,
        fun h => absurd h (by simp)⟩
      rw [if_pos rfl] at hslot
      subst hslot
      rw [hsame]
      exact Sys.runtime_spec _ _ _ _ _
    case false =>
      cases hoth : imgValid s.sys.part s.flash (1 - (selNow s.flash).active)
      case true =>
        refine ⟨_, actMem_flashed (imageVerified_other (y := s.sys.elapse dt) hphase hdone htrial hact hoth), fun slot hslot hvalid => ?_,
          fun _ h => absurd h (by simp)⟩
        rw [if_neg Bool.false_ne_true] at hslot
        subst hslot
        rw [hother]
        exact Sys.runtime_spec _ _ _ _ _
      case false =>
        refine ⟨_, actMem_flashed (imageVerified_none (y := s.sys.elapse dt) hphase hdone htrial hact hoth), fun slot hslot hvalid => ?_,
          fun _ _ => rfl⟩
        rw [if_neg Bool.false_ne_true] at hslot
        rw [hslot, hoth] at hvalid
        cases hvalid
  · obtain ⟨hrun, hprov, hev⟩ := Sys.bootDone_spec badPipes badCores (s.sys.elapse dt)
    exact ⟨_, actMem_flashed (bootComplete_done (y := s.sys.elapse dt) hphase hin himage hdies), hrun, hprov, hev⟩


end Sys2Proof.Machine

/-! PROOFS. Sensors, thermal shutdown and power domains (19; R33, R34, R456 to R458, R483 to R485, R500, R506). -/

namespace Sys2Proof.Machine

/-! ### Temperatures -/

/-- The clock of the pipelines ticks in their channels alone. -/
theorem Sys.pipeTick_eq (y : Sys) (d : Nat) : ∃ c, y.pipeTick d = { y with chans := c } :=
  Sys.each_invariant (I := fun x => ∃ c, x = { y with chans := c }) (fun n x h => by obtain ⟨c, rfl⟩ := h; exact ⟨_, rfl⟩) ⟨y.chans, rfl⟩

/-- A die keeps its readings, and warns once (R457). -/
def Sys.thermalNoted (d : Nat) (temps : List Int) (y : Sys) : Sys :=
  let hot := temps.foldl max (-640)
  let s := (y.die d).sens
  let warn := y.int Ob.SensWarnTemp * 16
  let y := y.onDie d fun x => { x with sens := { x.sens with temps := temps } }
  if warn < hot ∧ ¬s.warned then (y.onDie d fun x => { x with sens := { x.sens with warned := true } }).raise 0x0201 d d
  else if s.warned ∧ hot ≤ warn - 32 then y.onDie d fun x => { x with sens := { x.sens with warned := false } }
  else y

/-- Whether a die warns after a sample whose hottest reading is `hot` (R457). -/
def Sys.warns (d : Nat) (hot : Int) (y : Sys) : Bool :=
  decide (y.int Ob.SensWarnTemp * 16 < hot) || (y.die d).sens.warned && decide (y.int Ob.SensWarnTemp * 16 - 32 < hot)

/-- The event of a warning that begins (R457). -/
def Sys.warning (d : Nat) (hot : Int) (y : Sys) : List Ev :=
  if y.int Ob.SensWarnTemp * 16 < hot ∧ (y.die d).sens.warned = false then [{ code := 0x0201, die := d, arg := d, t := y.now }] else []

theorem Sys.thermalNoted_eq (y : Sys) (d : Nat) (temps : List Int) : ∃ ds, y.thermalNoted d temps =
    { y with dies := ds, evs := { y.evs with raised := y.evs.raised ++ y.warning d (temps.foldl max (-640)) } } := by
  unfold Sys.thermalNoted Sys.warning
  dsimp only
  by_cases hnew : y.int Ob.SensWarnTemp * 16 < temps.foldl max (-640) ∧ (y.die d).sens.warned = false
  · rw [if_pos hnew, if_pos ⟨hnew.1, ne_true_of_eq_false hnew.2⟩]
    exact ⟨_, rfl⟩
  · rw [if_neg hnew, if_neg fun h => hnew ⟨h.1, eq_false_of_ne_true h.2⟩, List.append_nil]
    split <;> exact ⟨_, rfl⟩

theorem Sys.thermalNoted_sens (y : Sys) (d : Nat) (temps : List Int) : ((y.thermalNoted d temps).die d).sens =
    { (y.die d).sens with temps := temps, warned := y.warns d (temps.foldl max (-640)) } := by
  unfold Sys.thermalNoted Sys.warns
  generalize temps.foldl max (-640) = hot
  generalize y.int Ob.SensWarnTemp * 16 = warn
  dsimp only
  split
  case isTrue hnew => rw [Sys.raise_die_read, Sys.onDie_self, Sys.onDie_self, decide_eq_true hnew.1, Bool.true_or]
  case isFalse hnew =>
    split
    case isTrue hend =>
      rw [Sys.onDie_self, Sys.onDie_self, decide_eq_false (show ¬warn < hot by omega), decide_eq_false (show ¬warn - 32 < hot by omega),
        Bool.and_false, Bool.or_false]
    case isFalse hend =>
      have hstays : (decide (warn < hot) || (y.die d).sens.warned && decide (warn - 32 < hot)) = (y.die d).sens.warned := by
        cases hw : (y.die d).sens.warned
        case true =>
          have hwarm : warn - 32 < hot := not_le.mp fun h => hend ⟨hw, h⟩
          rw [decide_eq_true hwarm, Bool.and_true, Bool.or_true]
        case false =>
          have hcool : ¬warn < hot := fun h => hnew ⟨h, ne_true_of_eq_false hw⟩
          rw [decide_eq_false hcool, Bool.false_and, Bool.or_false]
      rw [Sys.onDie_self, hstays]

/-- The clock that limiting keeps (R33, R34; log entry 118). -/
def limitedClock (safe other : Nat) : Nat := if safe < clockBound then safe else max clockBound (min safe (1 + other % 16))

theorem limitedClock_bounds {safe other : Nat} (hlow : 1 ≤ safe) (hhigh : safe ≤ 16) : 1 ≤ limitedClock safe other ∧ limitedClock safe other ≤ 16 ∧
    decide (safe < clockBound) = decide (limitedClock safe other < clockBound) := by
  have hbound : 1 ≤ clockBound ∧ clockBound ≤ 16 := by unfold clockBound; omega
  unfold limitedClock
  split
  case isTrue h => exact ⟨hlow, hhigh, by rw [decide_eq_true h]⟩
  case isFalse h =>
    refine ⟨by omega, by omega, ?_⟩
    rw [decide_eq_false h, decide_eq_false (by omega)]

/-- The pipelines of a die take a clock. -/
def Sys.clocked (d clock : Nat) (past : Bool) (y : Sys) : Sys :=
  (y.pipeTick d).onDie d fun x => { x with sens := { x.sens with clock16 := clock, thermOver := past } }

/-- What a sample does to the clock of a running die below the trip temperature (R33, R34; log entry 118). -/
def Sys.limited (d : Nat) (hot : Int) (s : Sens) (y : Sys) : Sys :=
  let limiting := y.int Ob.SensLimitTemp * 16 < hot ∨ s.clock16 < 16
  let safe := 1 + y.freeNow % 16
  let past := limiting && decide (safe < clockBound)
  let clock := if ¬limiting then 16 else if past then safe else max clockBound (min safe (1 + y.fresh.freeNow % 16))
  let y := (if limiting then y.fresh.fresh else y).clocked d clock past
  if past && !s.thermOver then (y.bump Ob.OvrThermCount 1).raise 0x0211 d d else y

/-- What follows a sample, by the phase (R457, R500). -/
def Sys.thermalRest (d : Nat) (hot : Int) (s : Sens) (y : Sys) : Sys :=
  match y.power.phase with
  | .thermal c => { y with power := { y.power with phase := .thermal (if y.allCool then some (c.getD y.now) else none) } }
  | .running => if y.int Ob.SensTripTemp * 16 ≤ hot then (y.raise 0x0202 d d).shutDown else y.limited d hot s
  | _ => if y.alive ∧ y.int Ob.SensTripTemp * 16 ≤ hot then (y.raise 0x0202 d d).shutDown else y

theorem Sys.thermal_eq (y : Sys) (d : Nat) (temps : List Int) : y.thermal d temps =
    (y.thermalNoted d temps).thermalRest d (temps.foldl max (-640)) (y.die d).sens := rfl

section
variable {y : Sys} {d : Nat} {hot : Int} {s : Sens}

theorem Sys.thermalRest_trip (hphase : y.power.phase = .running) (htrip : y.int Ob.SensTripTemp * 16 ≤ hot) :
    y.thermalRest d hot s = (y.raise 0x0202 d d).shutDown := by
  unfold Sys.thermalRest
  rw [hphase]
  exact if_pos htrip

theorem Sys.thermalRest_limited (hphase : y.power.phase = .running) (htrip : hot < y.int Ob.SensTripTemp * 16) :
    y.thermalRest d hot s = y.limited d hot s := by
  unfold Sys.thermalRest
  rw [hphase]
  exact if_neg (not_le.mpr htrip)

/-- Within its limits a die keeps the whole clock (R457). -/
theorem Sys.limited_within (hin : hot ≤ y.int Ob.SensLimitTemp * 16) (hfull : s.clock16 = 16) : y.limited d hot s = y.clocked d 16 false := by
  have hno : ¬(y.int Ob.SensLimitTemp * 16 < hot ∨ s.clock16 < 16) := by omega
  unfold Sys.limited
  simp only [hno, decide_false, Bool.false_and, not_false_eq_true, if_true, if_false, Bool.false_eq_true]

/-- A clock past its bound begins (R33). -/
def Sys.pastBound (d : Nat) (new : Bool) (y : Sys) : Sys := if new then (y.bump Ob.OvrThermCount 1).raise 0x0211 d d else y

/-- Above the limit a die takes the limited clock, and leaves its bound with a count and an event (R33, R34). -/
theorem Sys.limited_hot (hover : y.int Ob.SensLimitTemp * 16 < hot) : y.limited d hot s =
    (y.fresh.fresh.clocked d (limitedClock (1 + y.freeNow % 16) y.fresh.freeNow) (decide (1 + y.freeNow % 16 < clockBound))).pastBound d
      (decide (1 + y.freeNow % 16 < clockBound) && !s.thermOver) := by
  have hlim : y.int Ob.SensLimitTemp * 16 < hot ∨ s.clock16 < 16 := .inl hover
  unfold Sys.limited limitedClock Sys.pastBound
  simp only [hlim, decide_true, Bool.true_and, not_true_eq_false, if_true, if_false, decide_eq_true_eq]

theorem Sys.clocked_eq (y : Sys) (d clock : Nat) (past : Bool) : ∃ c ds, y.clocked d clock past = { y with chans := c, dies := ds } := by
  obtain ⟨c, h⟩ := y.pipeTick_eq d
  rw [Sys.clocked, h]
  exact ⟨_, _, rfl⟩

theorem Sys.clocked_sens (y : Sys) (d clock : Nat) (past : Bool) : ((y.clocked d clock past).die d).sens =
    { (y.die d).sens with clock16 := clock, thermOver := past } := by
  obtain ⟨c, h⟩ := y.pipeTick_eq d
  rw [Sys.clocked, Sys.onDie_self, h]
  rfl

theorem Sys.pastBound_die (d e : Nat) (new : Bool) (y : Sys) : (y.pastBound d new).die e = y.die e := by
  unfold Sys.pastBound
  split <;> rfl

end

/-! ### Thermal shutdown -/

/-- A table filled entry by entry reads as it was filled. -/
theorem Tab.find_fill {α : Type} [DecidableEq α] (c : Nat → α) (g : Nat → α) {l : List Nat} {e : Nat} (he : e ∈ l) (t : Tab α) :
    Tab.find c (l.foldl (fun t d => Tab.put c t d (g d)) t) e = g e := by
  have hkept (l : List Nat) (t : Tab α) (h : Tab.find c t e = g e) : Tab.find c (l.foldl (fun t d => Tab.put c t d (g d)) t) e = g e := by
    induction l generalizing t with
    | nil => exact h
    | cons d l ih =>
      refine ih _ ?_
      by_cases hd : e = d
      · rw [hd, Tab.find_put_self]
      · rw [Tab.find_put_other _ _ _ hd, h]
  induction l generalizing t with
  | nil => cases he
  | cons d l ih =>
    rcases List.mem_cons.mp he with rfl | he
    · exact hkept l _ (Tab.find_put_self ..)
    · exact ih he _

/-- In shutdown every die keeps its always-on domain alone (R500). -/
theorem Sys.shutDown_domains (y : Sys) {e : Nat} (he : e < y.part.dies) : (y.shutDown.die e).domains = [0] :=
  congrArg Die.domains (Tab.find_fill (fun _ => ({} : Die)) (fun d => (y.die d).dark) (List.mem_range.mpr he) [])

/-! ### Voltages -/

/-- `z` with more events, and no change of the readings, the warning state and the rails' number of die `d`. -/
structure Sys.VoltKept (d : Nat) (z y : Sys) : Prop where
  now : y.now = z.now
  part : y.part = z.part
  live : y.live = z.live
  raised : ∃ l, y.evs.raised = z.evs.raised ++ l
  mv : (y.die d).sens.mv = (z.die d).sens.mv
  over_ : (y.die d).sens.voltOver = (z.die d).sens.voltOver
  rails : (y.die d).sens.rails.length = (z.die d).sens.rails.length

namespace Sys.VoltKept
variable {d : Nat} {x y z : Sys}

theorem refl (z : Sys) : VoltKept d z z := ⟨rfl, rfl, rfl, ⟨[], (List.append_nil _).symm⟩, rfl, rfl, rfl⟩

theorem trans (h : VoltKept d x y) (h' : VoltKept d y z) : VoltKept d x z := by
  obtain ⟨l, hl⟩ := h.raised
  obtain ⟨l', hl'⟩ := h'.raised
  exact ⟨h'.now.trans h.now, h'.part.trans h.part, h'.live.trans h.live, ⟨l ++ l', by rw [hl', hl, List.append_assoc]⟩, h'.mv.trans h.mv,
    h'.over_.trans h.over_, h'.rails.trans h.rails⟩

theorem raise (y : Sys) (c a : Nat) : VoltKept d y (y.raise c d a) := ⟨rfl, rfl, rfl, ⟨_, rfl⟩, rfl, rfl, rfl⟩

theorem onDie (y : Sys) {f : Die → Die} (hmv : ∀ x, (f x).sens.mv = x.sens.mv) (hover : ∀ x, (f x).sens.voltOver = x.sens.voltOver)
    (hrails : ∀ x, (f x).sens.rails.length = x.sens.rails.length) : VoltKept d y (y.onDie d f) :=
  ⟨rfl, rfl, rfl, ⟨[], (List.append_nil _).symm⟩, by rw [Sys.onDie_self]; exact hmv _, by rw [Sys.onDie_self]; exact hover _,
    by rw [Sys.onDie_self]; exact hrails _⟩

theorem monitor (y : Sys) (m mv : Nat) : VoltKept d y (y.monitor d m mv) := by
  unfold Sys.monitor
  dsimp only
  split
  · split
    · refine ((onDie y ?_ ?_ ?_).trans (onDie _ ?_ ?_ ?_)).trans (raise _ _ _) <;> exact fun _ => rfl
    · refine onDie y ?_ ?_ ?_ <;> exact fun _ => rfl
  · refine onDie y ?_ ?_ ?_ <;> exact fun _ => rfl

theorem each {α : Type} {f : α → Sys → Sys} {l : List α} (hf : ∀ a y, VoltKept d y (f a y)) (y : Sys) : VoltKept d y (y.each l f) :=
  Sys.each_invariant (I := VoltKept d y) (fun a x h => h.trans (hf a x)) (refl y)

end Sys.VoltKept

/-- A rail of a die takes a set point (R33, R34; log entry 118). -/
def Sys.setRail (d lo hi : Nat) (low : Bool) (i : Nat) (y : Sys) : Sys :=
  let v := if low then min 850 (hi + 1 + y.freeNow % 200) else lo + y.freeNow % (hi - lo + 1)
  y.fresh.onDie d fun x => { x with sens := { x.sens with rails := x.sens.rails.set i v } }

/-- A die keeps its voltage readings. -/
def Sys.voltNoted (d : Nat) (mv : List Nat) (low : Bool) (y : Sys) : Sys :=
  y.onDie d fun x => { x with sens := { x.sens with mv := mv, voltOver := low } }

/-- The readings, the monitors' findings and the set points of a sample. -/
def Sys.voltSampled (d : Nat) (mv : List Nat) (low : Bool) (y : Sys) : Sys :=
  ((y.voltNoted d mv low).each mv.zipIdx fun e y => y.monitor d e.2 e.1).each (List.range 4) (Sys.setRail d railBounds.1 railBounds.2 low)

/-- A low margin that begins (R34). -/
def Sys.marginLow (d : Nat) (new : Bool) (y : Sys) : Sys := if new then (y.bump Ob.OvrVoltCount 1).raise 0x0210 d d else y

theorem Sys.voltage_eq (y : Sys) (d : Nat) (mv : List Nat) (low : Bool) :
    y.voltage d mv low = (y.voltSampled d mv low).marginLow d (low && !(y.die d).sens.voltOver) := rfl

theorem Sys.setRail_kept (d lo hi : Nat) (low : Bool) (i : Nat) (y : Sys) : Sys.VoltKept d y (y.setRail d lo hi low i) :=
  by
  have hfresh : Sys.VoltKept d y y.fresh := ⟨rfl, rfl, rfl, ⟨[], (List.append_nil _).symm⟩, rfl, rfl, rfl⟩
  rw [Sys.setRail]
  refine hfresh.trans (Sys.VoltKept.onDie y.fresh ?_ ?_ ?_)
  · exact fun _ => rfl
  · exact fun _ => rfl
  · exact fun _ => List.length_set

theorem Sys.voltSampled_kept (y : Sys) (d : Nat) (mv : List Nat) (low : Bool) :
    Sys.VoltKept d (y.voltNoted d mv low) (y.voltSampled d mv low) := by
  rw [Sys.voltSampled]
  exact (Sys.VoltKept.each (fun _ x => Sys.VoltKept.monitor x _ _) _).trans (Sys.VoltKept.each (fun i x => x.setRail_kept d _ _ low i) _)

theorem railBounds_le : railBounds.1 ≤ railBounds.2 := Nat.min_le_left _ _

/-- With the margin kept every set point lies within the bounds (R33). -/
theorem Sys.voltSampled_rails {y : Sys} {d : Nat} {mv : List Nat} {i : Nat} (hi : i < 4) (hlen : i < (y.die d).sens.rails.length) :
    railBounds.1 ≤ ((y.voltSampled d mv false).die d).sens.rails.getD i 0 ∧
      ((y.voltSampled d mv false).die d).sens.rails.getD i 0 ≤ railBounds.2 := by
  have hle := railBounds_le
  have hset (j : Nat) (x : Sys) : ((x.setRail d railBounds.1 railBounds.2 false j).die d).sens.rails =
      (x.die d).sens.rails.set j (railBounds.1 + x.freeNow % (railBounds.2 - railBounds.1 + 1)) := by
    rw [Sys.setRail, Sys.onDie_self]
    rfl
  have hin (x : Sys) : railBounds.1 + x.freeNow % (railBounds.2 - railBounds.1 + 1) ≤ railBounds.2 := by
    have := Nat.mod_lt x.freeNow (show 0 < railBounds.2 - railBounds.1 + 1 from Nat.succ_pos _)
    omega
  refine Sys.each_of_mem (I := fun x => (x.die d).sens.rails.length = (y.die d).sens.rails.length)
    (P := fun x => railBounds.1 ≤ (x.die d).sens.rails.getD i 0 ∧ (x.die d).sens.rails.getD i 0 ≤ railBounds.2)
    (List.mem_range.mpr hi) (fun j x h => by rw [hset, List.length_set, h]) (fun x h => ?_) (fun j x h => ?_) ?_
  · rw [hset, List.getD_eq_getElem?_getD, List.getElem?_set_self (h ▸ hlen)]
    exact ⟨Nat.le_add_right _ _, hin x⟩
  · rw [hset, List.getD_eq_getElem?_getD, List.getElem?_set]
    split
    · split
      · exact ⟨Nat.le_add_right _ _, hin x⟩
      · next hji hj =>
        rw [List.getD_eq_getElem?_getD, ← hji, List.getElem?_eq_none (Nat.le_of_not_lt hj)] at h
        exact h
    · rw [← List.getD_eq_getElem?_getD]
      exact h
  · refine (Sys.VoltKept.each (fun _ x => Sys.VoltKept.monitor x _ _) _).rails.trans ?_
    rw [Sys.voltNoted, Sys.onDie_self]

theorem Sys.marginLow_die (d e : Nat) (new : Bool) (y : Sys) : (y.marginLow d new).die e = y.die e := by
  unfold Sys.marginLow
  split <;> rfl

theorem Sys.marginLow_val {d k : Nat} (new : Bool) (y : Sys) (hk : k ≠ Ob.OvrVoltCount) : (y.marginLow d new).val k = y.val k := by
  unfold Sys.marginLow
  split
  · rw [Sys.raise_val_read, Sys.bump_other _ _ _ _ hk]
  · rfl

/-! ### Power domains -/

section
variable {y : Sys} {d : Nat} {x : Die}

/-- Which domains are wanted does not depend on which are on. -/
theorem Sys.domainWanted_domains (ds : List Nat) (dp : List (Nat × Nat)) (y : Sys) (d e i : Nat) :
    (y.setDie d { y.die d with domains := ds, domPending := dp }).domainWanted e i = y.domainWanted e i := by
  have hdie (e : Nat) : ((y.setDie d { y.die d with domains := ds, domPending := dp }).die e).mappedOut = (y.die e).mappedOut ∧
      ((y.setDie d { y.die d with domains := ds, domPending := dp }).die e).dram = (y.die e).dram ∧
      ((y.setDie d { y.die d with domains := ds, domPending := dp }).die e).fab = (y.die e).fab := by
    by_cases h : e = d
    · rw [h, Sys.setDie_self]
      exact ⟨rfl, rfl, rfl⟩
    · rw [Sys.setDie_other _ _ _ _ h]
      exact ⟨rfl, rfl, rfl⟩
  have hmap (e : Nat) := (hdie e).1
  have hdram (e : Nat) := (hdie e).2.1
  have hfab (e : Nat) := (hdie e).2.2
  generalize hz : y.setDie d { y.die d with domains := ds, domPending := dp } = z at hmap hdram hfab
  have hgroups (e b dir : Nat) : z.groupsOut e b dir = y.groupsOut e b dir := by
    subst hz
    simp only [Sys.groupsOut, hfab]
    rfl
  have hbridge (e b : Nat) : z.bridgeUp e b = y.bridgeUp e b := by
    have hpart : z.part = y.part := by rw [← hz]; rfl
    simp only [Sys.bridgeUp, Sys.bridgeSt, hgroups, hmap, hpart]
  unfold Sys.domainWanted
  simp only [hmap, hdram, hbridge]
  subst hz
  rfl

/-- Domain `i` of die `d` is on, is not on its way, and waits for no change. -/
structure Sys.DomainSettled (d i : Nat) (y : Sys) : Prop where
  on_ : (y.die d).domains.contains i = true
  arrived : ((y.die d).domPending.any fun e => e.1 == i) = false
  stays : ∀ e ∈ (y.die d).domWait, e.1 ≠ i

/-- Changes of other domains leave a settled domain settled (R484). -/
theorem Sys.domainTurn_settled {d i n : Nat} {y : Sys} (h : Sys.DomainSettled d i y) : Sys.DomainSettled d i (y.domainTurn d n) := by
  induction n generalizing y with
  | zero => exact h
  | succ n ih =>
    unfold Sys.domainTurn
    dsimp only
    split
    · exact h
    · next j on_ r hwait =>
      split
      · exact h
      · refine ih ?_
        have hj : j ≠ i := h.stays (j, on_) (by rw [hwait]; exact List.mem_cons_self)
        have hrest : ∀ e ∈ r, e.1 ≠ i := fun e he => h.stays e (by rw [hwait]; exact List.mem_cons_of_mem _ he)
        cases on_
        case true =>
          refine ⟨?_, ?_, ?_⟩ <;> rw [Sys.setDie_self]
          · exact h.on_
          · simp only [if_true, List.any_append, h.arrived, Bool.false_or, List.any_cons, List.any_nil, Bool.or_false, beq_eq_false_iff_ne]
            exact hj
          · exact hrest
        case false =>
          refine ⟨?_, ?_, ?_⟩ <;> rw [Sys.setDie_self]
          · have hon := h.on_
            rw [List.contains_iff_mem] at hon ⊢
            exact List.mem_filter.mpr ⟨hon, bne_iff_ne.mpr (Ne.symm hj)⟩
          · refine List.any_eq_false.mpr fun e he => ?_
            exact List.any_eq_false.mp h.arrived e (List.mem_of_mem_filter he)
          · exact hrest

end


/-- A domain that is wanted and has reached its regulation is settled, and nothing but the dies changes (R484). -/
theorem Sys.domainReached_settled {y : Sys} {d i : Nat} (hpending : ((y.die d).domPending.any fun e => e.1 == i) = true)
    (hwanted : y.domainWanted d i = true) : (∃ ds, y.domainReached d i = { y with dies := ds }) ∧ Sys.DomainSettled d i (y.domainReached d i) := by
  unfold Sys.domainReached
  dsimp only
  rw [if_pos hpending]
  have hw : (y.setDie d { y.die d with domains := i :: (y.die d).domains, domPending := (y.die d).domPending.filter fun e => e.1 != i }).domainWanted
      d i = true := by rw [Sys.domainWanted_domains, hwanted]
  generalize hz : y.setDie d { y.die d with domains := i :: (y.die d).domains, domPending := (y.die d).domPending.filter fun e => e.1 != i } = z at hw
  have hself : z.die d = { y.die d with domains := i :: (y.die d).domains, domPending := (y.die d).domPending.filter fun e => e.1 != i } := by
    rw [← hz, Sys.setDie_self]
  have hon : (z.die d).domains.contains i = true := by rw [hself]; simp
  have harrived : ((z.die d).domPending.any fun e => e.1 == i) = false := by
    rw [hself]
    refine List.any_eq_false.mpr fun e he hi => ?_
    exact bne_iff_ne.mp (List.mem_filter.mp he).2 (beq_iff_eq.mp hi)
  refine ⟨?_, ?_⟩
  · obtain ⟨ds, h⟩ := onlyDies_powerDie d z
    exact ⟨ds, h.trans (by rw [← hz]; rfl)⟩
  · refine Sys.domainTurn_settled ⟨?_, ?_, ?_⟩ <;> rw [Sys.setDie_self]
    · exact hon
    · exact harrived
    · intro e he hi
      obtain ⟨j, -, hj⟩ := List.mem_filterMap.mp he
      have hup : (z.die d).domainUp i = true := by rw [Die.domainUp, hon, Bool.true_or]
      dsimp only at hj
      split at hj
      · cases hj
      · next hne =>
        obtain rfl := Option.some.inj hj
        dsimp only at hi
        rw [hi, hw, hup] at hne
        exact hne rfl

/-- A domain of a die is off (R485). -/
def Sys.domainOff (d i : Nat) (y : Sys) : Sys :=
  y.onDie d fun x => { x with domains := x.domains.filter (fun k => k != i), domPending := x.domPending.filter fun e => e.1 != i }

theorem Sys.domainOff_up (y : Sys) (d i : Nat) : ((y.domainOff d i).die d).domainUp i = false := by
  rw [Sys.domainOff, Sys.onDie_self, Die.domainUp, Bool.or_eq_false_iff]
  refine ⟨?_, List.any_eq_false.mpr fun e he hi => ?_⟩
  · refine Bool.eq_false_iff.mpr fun h => ?_
    rw [List.contains_iff_mem] at h
    exact bne_iff_ne.mp (List.mem_filter.mp h).2 rfl
  · exact bne_iff_ne.mp (List.mem_filter.mp he).2 (beq_iff_eq.mp hi)

/-- While the package boots a fault maps the die out (R506). -/
theorem Sys.domainFault_boot {y : Sys} {d i : Nat} (hup : (y.die d).domainUp i = true) (hphase : y.power.phase = .booting) :
    y.domainFault d i = (((y.domainOff d i).raise 0x0204 d i).onDie d fun x => { x with mappedOut := true }).raise 0x110B d d := by
  have hkept : ((y.domainOff d i).raise 0x0204 d i).power.phase = .booting := hphase
  unfold Sys.domainFault
  rw [if_pos hup]
  exact if_pos hkept

/-- A fault of a domain with no function of its own to stop turns it off (R485). -/
theorem Sys.domainFault_bare {y : Sys} {d i : Nat} (hup : (y.die d).domainUp i = true) (hphase : y.power.phase ≠ .booting)
    (hi : i = 0 ∨ i = 26 ∨ (32 ≤ i ∧ i ≤ 35)) : y.domainFault d i = (y.domainOff d i).raise 0x0204 d i := by
  have hkept : ¬((y.domainOff d i).raise 0x0204 d i).power.phase = .booting := hphase
  unfold Sys.domainFault
  rw [if_pos hup]
  refine (if_neg hkept).trans ?_
  rw [if_neg (by omega), if_neg (by omega), if_neg (by omega), if_neg (by omega)]
  rfl

/-- Settles O31: samples by what they note and limit, domains by what stays settled or goes off. -/
theorem sensorsAndDomains : Obligations.SensorsAndDomains := by
  unfold Obligations.SensorsAndDomains
  refine ⟨⟨fun dt d temps hot s hphase hhot htrip hlim hfull => ?_, fun dt d temps hot s hphase hhot htrip hlim => ?_,
    fun dt d temps s hphase htrip => ?_, fun dt t s hphase hcool => ?_, fun dt d mv low s => ?_⟩,
    fun dt d i s hpending hwanted _ => ?_, fun dt d i s hup hphase => ?_, fun dt d i s hup hphase hi => ?_⟩
  · subst hhot
    obtain ⟨ds, hn⟩ := (s.sys.elapse dt).thermalNoted_eq d temps
    have hsens := (s.sys.elapse dt).thermalNoted_sens d temps
    have hrest : (s.sys.elapse dt).thermal d temps = ((s.sys.elapse dt).thermalNoted d temps).clocked d 16 false := by
      rw [Sys.thermal_eq, Sys.thermalRest_limited (by rw [hn]; exact hphase) (by rw [hn]; exact htrip),
        Sys.elapse_die_read, Sys.limited_within (by rw [hn]; exact hlim) hfull]
    obtain ⟨c, es, hc⟩ := ((s.sys.elapse dt).thermalNoted d temps).clocked_eq d 16 false
    have hclocked := ((s.sys.elapse dt).thermalNoted d temps).clocked_sens d 16 false
    refine ⟨_, act_done hrest, ?_, ?_, ?_, ?_, ?_⟩
    · rw [hclocked, hsens]
    · rw [hclocked]
    · rw [hc, hn]
      rfl
    · rw [hclocked, hsens]
      rfl
    · rw [hc, hn]
      rfl
  · subst hhot
    obtain ⟨ds, hn⟩ := (s.sys.elapse dt).thermalNoted_eq d temps
    have hsens := (s.sys.elapse dt).thermalNoted_sens d temps
    have hrest : (s.sys.elapse dt).thermal d temps = ((s.sys.elapse dt).thermalNoted d temps).limited d (temps.foldl max (-640))
        (s.sys.die d).sens := by
      rw [Sys.thermal_eq, Sys.thermalRest_limited (by rw [hn]; exact hphase) (by rw [hn]; exact htrip)]
      rfl
    rw [Sys.limited_hot (by rw [hn]; exact hlim)] at hrest
    generalize hz : (s.sys.elapse dt).thermalNoted d temps = z at hn hsens hrest
    have hsafe : 1 ≤ 1 + z.freeNow % 16 ∧ 1 + z.freeNow % 16 ≤ 16 := by omega
    generalize 1 + z.freeNow % 16 = safe at hsafe hrest
    obtain ⟨hlow, hhigh, hpast⟩ := limitedClock_bounds (other := z.fresh.freeNow) hsafe.1 hsafe.2
    obtain ⟨c, es, hc⟩ := z.fresh.fresh.clocked_eq d (limitedClock safe z.fresh.freeNow) (decide (safe < clockBound))
    have hclocked := z.fresh.fresh.clocked_sens d (limitedClock safe z.fresh.freeNow) (decide (safe < clockBound))
    refine ⟨_, act_done hrest, ?_, ?_, ?_, fun hover hwas => ?_⟩
    · rw [Sys.pastBound_die, hclocked]
      exact hlow
    · rw [Sys.pastBound_die, hclocked]
      exact hhigh
    · rw [Sys.pastBound_die, hclocked]
      exact hpast
    · rw [Sys.pastBound_die, hclocked] at hover
      have hnew : (decide (safe < clockBound) && !(s.sys.die d).sens.thermOver) = true := Bool.and_eq_true_iff.mpr ⟨hover, by rw [hwas]; rfl⟩
      rw [hnew, Sys.pastBound, if_pos rfl]
      refine ⟨?_, ?_⟩
      · rw [Sys.raise_raised, Sys.bump_now, hc, hn]
        exact List.mem_append_right _ (List.mem_singleton_self _)
      · rw [Sys.raise_nat_read, Sys.bump_nat, hc, hn]
        rfl
  · obtain ⟨ds, hn⟩ := (s.sys.elapse dt).thermalNoted_eq d temps
    have hrest : (s.sys.elapse dt).thermal d temps = (((s.sys.elapse dt).thermalNoted d temps).raise 0x0202 d d).shutDown := by
      rw [Sys.thermal_eq, Sys.thermalRest_trip (by rw [hn]; exact hphase) (by rw [hn]; exact htrip)]
    refine ⟨_, act_done hrest, rfl, rfl, rfl, rfl, ?_, ?_, fun e he => Sys.shutDown_domains _ ?_⟩
    · rw [hn]
      rfl
    · rw [hn]
      exact List.mem_append_right _ (List.mem_singleton_self _)
    · rw [hn]
      exact he
  · refine act_done ?_
    have hphase' : (s.sys.elapse dt).power.phase = .thermal (some t) := hphase
    have hcool' : t + secU 10 ≤ (s.sys.elapse dt).now := hcool
    unfold Sys.thermalEnd
    rw [hphase']
    dsimp only
    rw [if_pos hcool', Sys.wantReset_eq]
    rfl
  · have hkept := (s.sys.elapse dt).voltSampled_kept d mv low
    obtain ⟨l, hl⟩ := hkept.raised
    refine ⟨_, l, act_done ((s.sys.elapse dt).voltage_eq d mv low), ?_, ?_, fun hlow hwas => ?_, fun hlow i hi hlen => ?_, fun k hk => ?_⟩
    · rw [Sys.marginLow_die, hkept.mv, Sys.voltNoted, Sys.onDie_self]
    · rw [Sys.marginLow_die, hkept.over_, Sys.voltNoted, Sys.onDie_self]
    · have hnew : (low && !((s.sys.elapse dt).die d).sens.voltOver) = true := by
        rw [hlow, Sys.elapse_die_read, hwas]
        rfl
      rw [hnew, Sys.marginLow, if_pos rfl]
      refine ⟨?_, ?_⟩
      · rw [Sys.raise_raised, Sys.bump_now, Sys.bump_evs, hl, hkept.now]
        rfl
      · rw [Sys.raise_nat_read, Sys.bump_nat, Sys.nat_of_live hkept.part hkept.live, hkept.part]
        rfl
    · subst hlow
      rw [Sys.marginLow_die]
      exact Sys.voltSampled_rails hi hlen
    · rw [Sys.marginLow_val _ _ hk, Sys.val, hkept.live, hkept.part]
      rfl
  · obtain ⟨⟨ds, h⟩, hsettled⟩ := Sys.domainReached_settled (y := s.sys.elapse dt) hpending hwanted
    rw [h] at hsettled
    exact ⟨ds, act_done h, hsettled.on_, hsettled.arrived⟩
  · refine ⟨_, act_done (Sys.domainFault_boot (y := s.sys.elapse dt) hup hphase), ?_, ?_, rfl, fun e he => ?_, ?_⟩
    · rw [Sys.raise_die_read, Sys.onDie_self]
    · rw [Sys.raise_die_read, Sys.onDie_self, Sys.raise_die_read]
      exact (s.sys.elapse dt).domainOff_up d i
    · rw [Sys.raise_die_read, Sys.onDie_other _ _ _ _ he, Sys.raise_die_read, Sys.domainOff, Sys.onDie_other _ _ _ _ he]
      rfl
    · exact List.append_assoc _ _ _
  · refine ⟨_, act_done (Sys.domainFault_bare (y := s.sys.elapse dt) hup hphase hi), rfl, ?_, rfl⟩
    rw [Sys.raise_die_read]
    exact (s.sys.elapse dt).domainOff_up d i


end Sys2Proof.Machine

/-! PROOFS. Memory controllers, and the budgets of an epoch (14, 16; R372, R375, R377, R378, R382, R383, R425 to R428). -/

namespace Sys2Proof.Machine

/-! ### Controllers -/

section
variable (y : Sys) (d m : Nat) (f : Ctrl → Ctrl)

theorem Sys.onCtrl_self : ((y.onCtrl d m f).die d).dram.ctrl m = f ((y.die d).dram.ctrl m) := by
  rw [Sys.onCtrl, Sys.onDie_self, Dram.ctrl, Tab.modify, Tab.find_put_self, Dram.ctrl]

theorem Sys.onCtrl_other {n : Nat} (h : n ≠ m) : ((y.onCtrl d m f).die d).dram.ctrl n = (y.die d).dram.ctrl n := by
  rw [Sys.onCtrl, Sys.onDie_self, Dram.ctrl, Tab.modify, Tab.find_put_other _ _ _ h, Dram.ctrl]

theorem Sys.onCtrl_fab : ((y.onCtrl d m f).die d).fab = (y.die d).fab := by
  rw [Sys.onCtrl, Sys.onDie_self]

theorem Sys.onRank_fab (k : Nat) (f : Rank → Rank) : ((y.onRank d m k f).die d).fab = (y.die d).fab := by
  rw [Sys.onRank, Sys.onDie_self]

theorem Sys.onRank_ctrl (k n : Nat) (f : Rank → Rank) : ((y.onRank d m k f).die d).dram.ctrl n = (y.die d).dram.ctrl n := by
  rw [Sys.onRank, Sys.onDie_self, Dram.ctrl, Dram.ctrl]

end

/-- What a controller that turns hot adds (R372). -/
def Sys.turnedHot (d m : Nat) (new : Prop) [Decidable new] (y : Sys) : Sys := if new then (y.bump Ob.MemHotCount 1).raise 0x0609 d m else y

theorem Sys.mr4Poll_eq (y : Sys) (d m : Nat) (codes : List Nat) : y.mr4Poll d m codes =
    (y.onCtrl d m fun c => { c with hotNow := codes.any fun c => decide (16 < c), refresh := codes.foldl max 0 }).turnedHot d m
      ((codes.any fun c => decide (16 < c)) = true ∧ ¬((y.die d).dram.ctrl m).hotNow = true) := rfl

theorem Sys.turnedHot_die (d m e : Nat) (new : Prop) [Decidable new] (y : Sys) : (y.turnedHot d m new).die e = y.die e := by
  unfold Sys.turnedHot
  split <;> rfl

/-! ### Reading a burst -/

/-- `y` is `z` after migrations were asked for and bursts noted: live values, budgets and the place of the scrub of controller `m` stand. -/
structure Sys.Triggered (d m : Nat) (z y : Sys) : Prop where
  part : y.part = z.part
  live : y.live = z.live
  fab : (y.die d).fab = (z.die d).fab
  scrub : ((y.die d).dram.ctrl m).scrubAt = ((z.die d).dram.ctrl m).scrubAt

namespace Sys.Triggered
variable {d m : Nat} {x y z : Sys}

theorem refl (z : Sys) : Triggered d m z z := ⟨rfl, rfl, rfl, rfl⟩

theorem trans (h : Triggered d m x y) (h' : Triggered d m y z) : Triggered d m x z :=
  ⟨h'.part.trans h.part, h'.live.trans h.live, h'.fab.trans h.fab, h'.scrub.trans h.scrub⟩

theorem onRank (y : Sys) (k : Nat) (f : Rank → Rank) : Triggered d m y (y.onRank d m k f) :=
  ⟨rfl, rfl, Sys.onRank_fab .., by rw [Sys.onRank_ctrl]⟩

theorem onCtrl (y : Sys) {f : Ctrl → Ctrl} (hf : ∀ c, (f c).scrubAt = c.scrubAt) : Triggered d m y (y.onCtrl d m f) :=
  ⟨rfl, rfl, Sys.onCtrl_fab .., by rw [Sys.onCtrl_self, hf]⟩

theorem rankRecord (y : Sys) (k v : Nat) : Triggered d m y (y.rankRecord d m k v) := ⟨rfl, rfl, rfl, rfl⟩

theorem raise (y : Sys) (c e a : Nat) : Triggered d m y (y.raise c e a) := ⟨rfl, rfl, rfl, rfl⟩

theorem raiseLimited (y : Sys) (c k e a : Nat) : Triggered d m y (y.raiseLimited c k e a) :=
  ⟨Sys.raiseLimited_part .., Sys.raiseLimited_live .., by rw [Sys.raiseLimited_die_read], by rw [Sys.raiseLimited_die_read]⟩

theorem migrateStart (y : Sys) (k : Nat) : Triggered d m y (y.migrateStart d m k) := by
  unfold Sys.migrateStart
  dsimp only
  refine trans ?_ (raise _ 0x0603 d (16 * m + k))
  refine trans ?_ (onCtrl _ fun _ => rfl)
  refine trans ?_ (onRank _ _ _)
  exact (rankRecord y k 1).trans (onRank _ _ _)

theorem migrateTrigger (y : Sys) (k : Nat) : Triggered d m y (y.migrateTrigger d m k) := by
  unfold Sys.migrateTrigger
  dsimp only
  split
  · exact refl y
  · split
    · exact onCtrl y fun _ => rfl
    · split
      · exact migrateStart y k
      · split
        · exact refl y
        · exact (onRank y k _).trans (raise _ _ _ _)

theorem poison (y : Sys) (a : Nat) (bad : Bool) : Triggered d m y (y.poison d a bad) := by
  unfold Sys.poison
  split
  · exact ⟨rfl, rfl, by rw [Sys.onDie_self], by rw [Sys.onDie_self, Dram.ctrl, Dram.ctrl]⟩
  · exact refl y

end Sys.Triggered

/-- The counter of a burst with errors (R377). -/
def Sys.burstCounted (d m k errs : Nat) (y : Sys) : Sys :=
  if errs ≤ 3 then y.bump (Ob.DieRankCe (6 * d + 3 * m + k)) 1 else y.bump (Ob.DieRankUe (6 * d + 3 * m + k)) 1

theorem Sys.burstRead_none (y : Sys) (d m k : Nat) : y.burstRead d m k 0 = (false, y) := rfl

theorem Sys.burstRead_triggered {errs : Nat} (he : errs ≠ 0) (y : Sys) (d m k : Nat) :
    Sys.Triggered d m (y.burstCounted d m k errs) (y.burstRead d m k errs).2 := by
  unfold Sys.burstRead Sys.burstCounted
  rw [if_neg he]
  dsimp only
  split
  · split
    · exact (Sys.Triggered.onRank _ k _).trans (Sys.Triggered.migrateTrigger _ k)
    · exact Sys.Triggered.onRank _ k _
  · split
    · exact ((Sys.Triggered.onRank _ k _).trans (Sys.Triggered.raiseLimited _ _ _ _ _)).trans (Sys.Triggered.migrateTrigger _ k)
    · exact (Sys.Triggered.onRank _ k _).trans (Sys.Triggered.raiseLimited _ _ _ _ _)

theorem Sys.readAt_none (y : Sys) (d m k c : Nat) : y.readAt d m k c 0 = y := rfl

theorem Sys.readAt_triggered {errs : Nat} (he : errs ≠ 0) (y : Sys) (d m k c : Nat) :
    Sys.Triggered d m (y.burstCounted d m k errs) (y.readAt d m k c errs) :=
  (Sys.burstRead_triggered he y d m k).trans (Sys.Triggered.poison _ _ _)

theorem Sys.burstCounted_die (y : Sys) (d m k errs e : Nat) : (y.burstCounted d m k errs).die e = y.die e := by
  unfold Sys.burstCounted
  split <;> rfl

theorem Sys.readAt_fab (y : Sys) (d m k c errs : Nat) : ((y.readAt d m k c errs).die d).fab = (y.die d).fab ∧
    (((y.readAt d m k c errs).die d).dram.ctrl m).scrubAt = ((y.die d).dram.ctrl m).scrubAt := by
  by_cases he : errs = 0
  · subst he
    exact ⟨rfl, rfl⟩
  · obtain ⟨-, -, hfab, hscrub⟩ := Sys.readAt_triggered he y d m k c
    rw [hfab, hscrub, Sys.burstCounted_die]
    exact ⟨rfl, rfl⟩

theorem Sys.readAt_ce {errs : Nat} (hone : 1 ≤ errs) (hthree : errs ≤ 3) (y : Sys) (d m k c : Nat) :
    (y.readAt d m k c errs).nat (Ob.DieRankCe (6 * d + 3 * m + k)) =
      (y.nat (Ob.DieRankCe (6 * d + 3 * m + k)) + 1) % wrapOf y.part.dies (Ob.DieRankCe (6 * d + 3 * m + k)) := by
  obtain ⟨hpart, hlive, -, -⟩ := Sys.readAt_triggered (by omega : errs ≠ 0) y d m k c
  rw [Sys.nat_of_live hpart hlive, Sys.burstCounted, if_pos hthree, Sys.bump_nat]

theorem Sys.readAt_ue {errs : Nat} (hfour : 4 ≤ errs) (y : Sys) (d m k c : Nat) :
    (y.readAt d m k c errs).nat (Ob.DieRankUe (6 * d + 3 * m + k)) =
      (y.nat (Ob.DieRankUe (6 * d + 3 * m + k)) + 1) % wrapOf y.part.dies (Ob.DieRankUe (6 * d + 3 * m + k)) := by
  obtain ⟨hpart, hlive, -, -⟩ := Sys.readAt_triggered (by omega : errs ≠ 0) y d m k c
  rw [Sys.nat_of_live hpart hlive, Sys.burstCounted, if_neg (by omega), Sys.bump_nat]

/-! ### The pool -/

/-- The pool of a controller pays for bytes (R427). -/
def Sys.poolPaid (d m n : Nat) (y : Sys) : Sys :=
  y.onDie d fun x => { x with fab := { x.fab with
    pools := Tab.put (fun _ => 0) x.fab.pools m (Tab.find (fun _ => 0) (y.die d).fab.pools m - n),
    grants := Tab.modify (fun _ => 0) x.fab.grants m fun g => g + n } }

theorem Sys.poolTake_paid {y : Sys} {d m n : Nat} (h : (n : Int) ≤ Tab.find (fun _ => 0) (y.die d).fab.pools m) :
    y.poolTake d m n = some (y.poolPaid d m n) := if_pos h

theorem Sys.poolPaid_pool (y : Sys) (d m n : Nat) :
    Tab.find (fun _ => 0) ((y.poolPaid d m n).die d).fab.pools m = Tab.find (fun _ => 0) (y.die d).fab.pools m - n := by
  rw [Sys.poolPaid, Sys.onDie_self]
  exact Tab.find_put_self ..

theorem Sys.poolPaid_ctrl (y : Sys) (d m n : Nat) : ((y.poolPaid d m n).die d).dram = (y.die d).dram := by
  rw [Sys.poolPaid, Sys.onDie_self]

/-- The scrub of a served half reads the next burst (R378). -/
theorem Sys.patrolScrub_reads {y : Sys} {d m k : Nat} (errs : Nat) (hk : (y.die d).dram.serving m (((y.die d).dram.ctrl m).scrubAt / 2 ^ 32) = some k)
    (hpool : 64 ≤ Tab.find (fun _ => 0) (y.die d).fab.pools m) : y.patrolScrub d m errs =
      ((y.poolPaid d m 64).onCtrl d m fun c => { c with scrubAt := (((y.die d).dram.ctrl m).scrubAt + 64) % 2 ^ 33 }).readAt d m k
        ((y.die d).dram.ctrl m).scrubAt errs := by
  have hpaid : y.poolTake d m 64 = some (y.poolPaid d m 64) := Sys.poolTake_paid hpool
  unfold Sys.patrolScrub
  dsimp only
  rw [hk, hpaid]

/-- A copy within its rate reads and writes one burst (R383). -/
theorem Sys.copyBurst_clean {y : Sys} {d m k : Nat} (hsrc : ((y.die d).dram.ctrl m).src = some k) (hcopy : ((y.die d).dram.ctrl m).copyAt < 2 ^ 32)
    (hpool : 128 ≤ Tab.find (fun _ => 0) (y.die d).fab.pools m)
    (hrate : ((y.die d).dram.ctrl m).copied + 64 ≤ y.nat Ob.MemMigrateRate * (y.die d).fab.epochLen) : y.copyBurst d m 0 =
      (y.poolPaid d m 128).onCtrl d m fun c =>
        { c with copyAt := c.copyAt + 64, copied := c.copied + 64 } := by
  have hpaid : y.poolTake d m 128 = some (y.poolPaid d m 128) := Sys.poolTake_paid hpool
  unfold Sys.copyBurst
  dsimp only
  rw [hsrc]
  dsimp only
  rw [if_pos ⟨hcopy, hrate⟩, hpaid]
  rfl

/-! ### Epochs -/

/-- Entries of a table changed one by one. -/
theorem Tab.find_modifyAll {α : Type} [DecidableEq α] (c : Nat → α) (f : Nat → α → α) (a i : Nat) {l : List Nat} (hnd : l.Nodup) (t : Tab α) :
    Tab.find c (l.foldl (fun t h => Tab.modify c t (a + h) (f h)) t) (a + i) =
      if i ∈ l then f i (Tab.find c t (a + i)) else Tab.find c t (a + i) := by
  induction l generalizing t with
  | nil => rfl
  | cons h l ih =>
    obtain ⟨hh, hl⟩ := List.nodup_cons.mp hnd
    rw [List.foldl_cons, ih hl]
    by_cases hi : i = h
    · subst hi
      rw [if_neg hh, if_pos List.mem_cons_self, Tab.modify, Tab.find_put_self]
    · rw [Tab.modify, Tab.find_put_other _ _ _ (by omega)]
      simp only [List.mem_cons, hi, false_or]

theorem Tab.find_modifyAll_other {α : Type} [DecidableEq α] (c : Nat → α) (f : Nat → α → α) (a j : Nat) {l : List Nat}
    (hj : ∀ h ∈ l, j ≠ a + h) (t : Tab α) :
    Tab.find c (l.foldl (fun t h => Tab.modify c t (a + h) (f h)) t) j = Tab.find c t j := by
  induction l generalizing t with
  | nil => rfl
  | cons h l ih =>
    rw [List.foldl_cons, ih fun k hk => hj k (List.mem_cons_of_mem h hk), Tab.modify, Tab.find_put_other _ _ _ (hj h List.mem_cons_self)]

/-- The grant of a controller for the next epoch (R371, R372). -/
def Sys.grant (y : Sys) (d m : Nat) : Nat := grantBytes (y.die d).dram.mts (y.nat Ob.FabEpoch) ((y.die d).dram.ctrl m).hotNow

/-- A holder's credit after a renewal (R426, R428). -/
def Sys.renewedCredit (y : Sys) (d m h : Nat) (c : Int) : Int := (Int.ofNat (y.grant d m * y.share h / 1000)) + (min c (0 : Int))

/-- The credits of a die after a renewal of controller `m`. -/
def Sys.creditsRenewed (y : Sys) (d m : Nat) : Tab Int :=
  (List.range 22).foldl (fun (t : Tab Int) (h : Nat) => Tab.modify (fun _ => 0) t (32 * m + h) (y.renewedCredit d m h)) (y.die d).fab.credits

/-- What no share of the grant takes (R428). -/
def Sys.poolRenewed (y : Sys) (d m : Nat) : Int :=
  (y.grant d m : Int) - ((((List.range 22).map fun h => y.grant d m * y.share h / 1000).foldl (· + ·) 0 : Nat) : Int)

section
variable (y : Sys) (d m : Nat)

theorem Sys.renew_eq : y.renew d m = y.setDie d { y.die d with fab := { (y.die d).fab with
    credits := y.creditsRenewed d m, pools := Tab.put (fun _ => 0) (y.die d).fab.pools m (y.poolRenewed d m),
    grants := Tab.put (fun _ => 0) (y.die d).fab.grants m 0, g := Tab.put (fun _ => 0) (y.die d).fab.g m (y.grant d m) } } := rfl

theorem Sys.renew_credit {h : Nat} (hh : h < 22) : Tab.find (fun _ => 0) ((y.renew d m).die d).fab.credits (32 * m + h) =
    (y.grant d m * y.share h / 1000 : Nat) + min (Tab.find (fun _ => 0) (y.die d).fab.credits (32 * m + h)) 0 := by
  rw [Sys.renew_eq, Sys.setDie_self]
  dsimp only
  rw [Sys.creditsRenewed, Tab.find_modifyAll _ _ _ _ List.nodup_range, if_pos (List.mem_range.mpr hh), Sys.renewedCredit, Int.ofNat_eq_natCast]

theorem Sys.renew_credit_other {j : Nat} (hj : ∀ h < 22, j ≠ 32 * m + h) :
    Tab.find (fun _ => 0) ((y.renew d m).die d).fab.credits j = Tab.find (fun _ => 0) (y.die d).fab.credits j := by
  rw [Sys.renew_eq, Sys.setDie_self]
  dsimp only
  rw [Sys.creditsRenewed, Tab.find_modifyAll_other _ _ _ _ fun h hh => hj h (List.mem_range.mp hh)]

theorem Sys.renew_pool : Tab.find (fun _ => 0) ((y.renew d m).die d).fab.pools m = y.poolRenewed d m := by
  rw [Sys.renew_eq, Sys.setDie_self]
  dsimp only
  rw [Tab.find_put_self]

theorem Sys.renew_pool_other {n : Nat} (h : n ≠ m) :
    Tab.find (fun _ => 0) ((y.renew d m).die d).fab.pools n = Tab.find (fun _ => 0) (y.die d).fab.pools n := by
  rw [Sys.renew_eq, Sys.setDie_self]
  dsimp only
  rw [Tab.find_put_other _ _ _ h]

theorem Sys.renew_grant : Tab.find (fun _ => 0) ((y.renew d m).die d).fab.grants m = 0 := by
  rw [Sys.renew_eq, Sys.setDie_self]
  dsimp only
  rw [Tab.find_put_self]

theorem Sys.renew_grant_other {n : Nat} (h : n ≠ m) :
    Tab.find (fun _ => 0) ((y.renew d m).die d).fab.grants n = Tab.find (fun _ => 0) (y.die d).fab.grants n := by
  rw [Sys.renew_eq, Sys.setDie_self]
  dsimp only
  rw [Tab.find_put_other _ _ _ h]

theorem Sys.renew_dram : ((y.renew d m).die d).dram = (y.die d).dram := by
  rw [Sys.renew_eq, Sys.setDie_self]

theorem Sys.renew_nat (k : Nat) : (y.renew d m).nat k = y.nat k := rfl

end

/-- Both controllers of a die renew their budgets, and its task classes their cycles (R425, R430). -/
def Sys.renewed (d : Nat) (y : Sys) : Sys := ((y.renew d 0).renew d 1).renewCycles d

theorem Sys.renewed_die (y : Sys) (d : Nat) : ∃ o, (y.renewed d).die d = { ((y.renew d 0).renew d 1).die d with onyx := o } :=
  ⟨_, Sys.onDie_self _ d _⟩

theorem Sys.renewed_eq (y : Sys) (d : Nat) : ∃ ds, y.renewed d = { y with dies := ds } := ⟨_, rfl⟩

/-- Each controller's budget after a renewal (R426, R428). -/
theorem Sys.renewed_budget (y : Sys) (d : Nat) {m : Nat} (hm : m < 2) :
    (∀ h < 22, Tab.find (fun _ => 0) ((y.renewed d).die d).fab.credits (32 * m + h) =
      (y.grant d m * y.share h / 1000 : Nat) + min (Tab.find (fun _ => 0) (y.die d).fab.credits (32 * m + h)) 0) ∧
    Tab.find (fun _ => 0) ((y.renewed d).die d).fab.pools m =
      y.poolRenewed d m ∧
    Tab.find (fun _ => 0) ((y.renewed d).die d).fab.grants m = 0 := by
  obtain ⟨o, ho⟩ := y.renewed_die d
  rw [ho]
  dsimp only
  match m, hm with
  | 0, _ =>
    refine ⟨fun h hh => ?_, ?_, ?_⟩
    · rw [Sys.renew_credit_other _ _ _ fun k hk => by omega, Sys.renew_credit _ _ _ hh]
    · rw [Sys.renew_pool_other _ _ _ (by omega), Sys.renew_pool]
    · rw [Sys.renew_grant_other _ _ _ (by omega), Sys.renew_grant]
  | 1, _ =>
    have hgrant : (y.renew d 0).grant d 1 = y.grant d 1 := by rw [Sys.grant, Sys.grant, Sys.renew_dram, Sys.renew_nat]
    have hshare (h : Nat) : (y.renew d 0).share h = y.share h := rfl
    refine ⟨fun h hh => ?_, ?_, ?_⟩
    · rw [Sys.renew_credit _ _ _ hh, Sys.renew_credit_other _ _ _ fun k hk => by omega, hgrant, hshare]
    · rw [Sys.renew_pool, Sys.poolRenewed, hgrant]
      rfl
    · exact Sys.renew_grant _ _ _

/-- The counts of copied bursts start again (R383). -/
def Sys.copiesReset (d : Nat) (y : Sys) : Sys := y.each [0, 1] fun m y => y.onCtrl d m fun c => { c with copied := 0 }

theorem Sys.copiesReset_fab (y : Sys) (d : Nat) : ((y.copiesReset d).die d).fab = (y.die d).fab := by
  simp only [Sys.copiesReset, Sys.each_cons, Sys.each_nil, Sys.onCtrl_fab]

theorem Sys.onCtrl_mts (y : Sys) (d m : Nat) (f : Ctrl → Ctrl) : ((y.onCtrl d m f).die d).dram.mts = (y.die d).dram.mts := by
  rw [Sys.onCtrl, Sys.onDie_self]
  rfl

theorem Sys.copiesReset_grant (y : Sys) (d : Nat) {m : Nat} (hm : m < 2) : (y.copiesReset d).grant d m = y.grant d m := by
  have hmts : ((y.copiesReset d).die d).dram.mts = (y.die d).dram.mts := by
    simp only [Sys.copiesReset, Sys.each_cons, Sys.each_nil, Sys.onCtrl_mts]
  have hhot : (((y.copiesReset d).die d).dram.ctrl m).hotNow = ((y.die d).dram.ctrl m).hotNow := by
    simp only [Sys.copiesReset, Sys.each_cons, Sys.each_nil]
    match m, hm with
    | 0, _ => rw [Sys.onCtrl_other _ _ _ _ (by omega), Sys.onCtrl_self]
    | 1, _ => rw [Sys.onCtrl_self, Sys.onCtrl_other _ _ _ _ (by omega)]
  rw [Sys.grant, Sys.grant, hmts, hhot]
  rfl

/-- A new epoch begins on a die (R425). -/
def Sys.epochBegun (d : Nat) (e : Nat × Nat) (y : Sys) : Sys :=
  (y.renewed d).onDie d fun x => { x with fab := { x.fab with
    epochAt := y.now, epochLen := y.nat Ob.FabEpoch, defHolders := [], deferred := [],
    used := e :: x.fab.used.filter fun u => decide (y.now < u.1 + secU 1) } }

theorem Sys.migrateSwitch_idle {y : Sys} {d m : Nat} (h : ((y.die d).dram.ctrl m).src = none) : y.migrateSwitch d m = y := by
  unfold Sys.migrateSwitch
  dsimp only
  rw [h]

/-- A die at the boundary of an epoch, before its deferred requests are judged again. -/
def Sys.epochTurned (d : Nat) (y : Sys) : Sys :=
  (((y.migrateSwitch d 0).migrateSwitch d 1).copiesReset d).epochBegun d (y.now, (y.die d).epochUse)

theorem budgetEpoch_eq (d : Nat) (mem : List Host.Cell) (y : Sys) : budgetEpoch d (mem, y) =
    ((y.die d).fab.deferred.foldl (fun l q => insertReq ((y.epochTurned d).reqKey d) q l) []).foldl (fun r q => serveAt d q r)
      (mem, y.epochTurned d) := rfl

/-- With nothing deferred and no copy under way an epoch renews the budgets and no more (R425). -/
theorem budgetEpoch_quiet {mem : List Host.Cell} {y : Sys} {d : Nat} (hdef : (y.die d).fab.deferred = [])
    (hzero : ((y.die d).dram.ctrl 0).src = none) (hone : ((y.die d).dram.ctrl 1).src = none) :
    budgetEpoch d (mem, y) = (mem, (y.copiesReset d).epochBegun d (y.now, (y.die d).epochUse)) := by
  rw [budgetEpoch_eq, hdef, List.foldl_nil, List.foldl_nil, Sys.epochTurned, Sys.migrateSwitch_idle hzero, Sys.migrateSwitch_idle hone]

/-- Settles O32: a controller's commands by what they note and pay, an epoch by its renewal. -/
theorem controllersAndBudgets : Obligations.ControllersAndBudgets := by
  unfold Obligations.ControllersAndBudgets
  refine ⟨⟨fun dt d m codes hot s hhot => ?_, fun dt d m h s hh hserves => ?_, fun dt d m k e s hk hpool => ?_,
    fun dt d m k s hsrc hcopy hpool hrate => ?_⟩, fun dt d s hdef hzero hone => ?_⟩
  · subst hhot
    refine ⟨_, act_done ((s.sys.elapse dt).mr4Poll_eq d m codes), ?_, fun n hn => ?_, ?_⟩
    · rw [Sys.turnedHot_die, Sys.onCtrl_self]
      rfl
    · rw [Sys.turnedHot_die, Sys.onCtrl_other _ _ _ _ hn]
      rfl
    · unfold Sys.turnedHot
      split
      case isTrue hnew =>
        rw [if_pos ⟨hnew.1, ne_true_of_eq_false hnew.2⟩]
        exact ⟨by rw [Sys.raise_nat_read, Sys.bump_nat]; rfl, rfl⟩
      case isFalse hnew =>
        rw [if_neg fun h => hnew ⟨h.1, eq_false_of_ne_true h.2⟩]
        exact ⟨rfl, rfl⟩
  · have hany : ((List.range 2).any fun h => (((s.sys.elapse dt).die d).dram.serving m h).isSome) = true :=
      List.any_eq_true.mpr ⟨h, List.mem_range.mpr hh, hserves⟩
    refine ⟨_, act_done (if_pos hany), rfl, rfl, ?_⟩
    rw [Sys.onCtrl_self]
    rfl
  · refine ⟨_, act_done (Sys.patrolScrub_reads (y := s.sys.elapse dt) e hk hpool), ?_, ?_, fun he => ?_, fun hone hthree => ?_, fun hfour => ?_⟩
    · rw [(Sys.readAt_fab ..).2, Sys.onCtrl_self]
      rfl
    · rw [(Sys.readAt_fab ..).1, Sys.onCtrl_fab, Sys.poolPaid_pool]
      rfl
    · subst he
      exact ⟨rfl, rfl⟩
    · rw [Sys.readAt_ce hone hthree]
      rfl
    · rw [Sys.readAt_ue hfour]
      rfl
  · refine ⟨_, act_done (Sys.copyBurst_clean (y := s.sys.elapse dt) hsrc hcopy hpool hrate), rfl, rfl, ?_, ?_⟩
    · rw [Sys.onCtrl_self, Sys.poolPaid_ctrl]
      rfl
    · rw [Sys.onCtrl_fab, Sys.poolPaid_pool]
      rfl
  · obtain ⟨ds, hds⟩ := ((s.sys.elapse dt).copiesReset d).renewed_eq d
    have hfab : (((s.sys.elapse dt).copiesReset d).epochBegun d
        ((s.sys.elapse dt).now, ((s.sys.elapse dt).die d).epochUse)).die d = _ := Sys.onDie_self _ d _
    refine ⟨_, actMem_done (congrArg (fun r => (r.1, s.flash, r.2)) (budgetEpoch_quiet (y := s.sys.elapse dt) hdef hzero hone)), ?_, ?_,
      ?_, ?_, ?_, fun m hm g hg => ?_⟩
    · rw [Sys.epochBegun, hds]
      rfl
    · rw [Sys.epochBegun, hds]
      rfl
    · rw [hfab]
      rfl
    · rw [hfab]
      rfl
    · rw [hfab]
    · subst hg
      have hbudget := Sys.renewed_budget ((s.sys.elapse dt).copiesReset d) d hm
      rw [Sys.poolRenewed, Sys.copiesReset_grant _ _ hm, Sys.copiesReset_fab] at hbudget
      rw [hfab]
      dsimp only
      exact hbudget


end Sys2Proof.Machine

/-! PROOFS. Requests of the fabric: served, deferred, held, or answered by DEF (16; R412 to R415, R419, R427 to R429). -/

namespace Sys2Proof.Machine

/-- A command on package memory that ends with memory `m` and the state `y`, the flash as it was. -/
theorem actMem_onMem {dt : Nat} {f : List Host.Cell × Sys → List Host.Cell × Sys} {s : State} {m : List Host.Cell} {y : Sys}
    (h : f (s.mem, s.sys.elapse dt) = (m, y)) : actMem dt (onMem f) s = .next { s with mem := m, sys := y } := by
  rw [actMem_eq, onMem, h]

/-! ### Addresses -/

/-- The die and the offset of an address in a die's window (R412). -/
theorem dieBase_split {d o : Nat} (hd : d < 8) (ho : o < 2 ^ 43) :
    dieBase d + o < 2 ^ 46 ∧ bits (dieBase d + o) 45 43 = d ∧ (dieBase d + o) % 2 ^ 43 = o := by
  unfold dieBase bits
  refine ⟨by omega, by omega, by omega⟩

theorem targetOf_sram {o : Nat} (hlow : 0x10000000 ≤ o) (hhigh : o < 0x11800000) : 1 ≤ targetOf o ∧ targetOf o ≤ 4 := by
  have hboot : ¬o < 0x50000 := by omega
  have hbank : bits o 9 8 < 4 := Nat.mod_lt _ (by decide)
  unfold targetOf
  rw [if_neg hboot, if_pos ⟨hlow, hhigh⟩]
  omega

theorem targetOf_dram {o : Nat} (hlow : 0x40000000000 ≤ o) (hhigh : o < 0x40400000000) :
    targetOf o = 5 + dramCtrl (o - 0x40000000000) := by
  unfold targetOf
  rw [if_neg (by omega), if_neg (by omega), if_neg (by omega), if_neg (by omega), if_pos ⟨hlow, hhigh⟩]

theorem dramCtrl_lt (o : Nat) : dramCtrl o < 2 := Nat.mod_lt _ (by decide)

/-- SRAM and DRAM answer what reaches them: they are not DEF, hold no register, and no ROM (R412, R414). -/
theorem memoryTarget_good {t : Nat} (hone : 1 ≤ t) (hsix : t ≤ 6) (reg w rom : Bool) :
    (!true || t == 13 || (t == 7 || t == 8) && reg || t == 0 && w && rom) = false := by
  have hne (n : Nat) (h : t ≠ n) : (t == n) = false := beq_false_of_ne h
  rw [hne 13 (by omega), hne 7 (by omega), hne 8 (by omega), hne 0 (by omega)]
  rfl

/-! ### Who serves a request -/

section
variable {d o : Nat} {rq : FabReq} {m : List Host.Cell} {y : Sys}

/-- A request of a master that is not isolated, to an address of its own die, is served there (R412). -/
theorem fabRequest_own (hdies : d < y.part.dies) (hd : d < 8) (ho : o < 2 ^ 43) (haddr : rq.addr = dieBase d + o)
    (hfree : (y.die d).fab.isolated.contains rq.master = false) : fabRequest d rq (m, y) = serveAt d rq (m, y) := by
  obtain ⟨hsize, hdie, -⟩ := dieBase_split hd ho
  have hin : ¬(2 ^ 46 ≤ rq.addr ∨ y.part.dies ≤ bits rq.addr 45 43) := by rw [haddr, hdie]; omega
  unfold fabRequest
  dsimp only
  rw [if_neg (ne_true_of_eq_false hfree), if_neg hin, if_pos (by rw [haddr, hdie])]

/-- A request of an isolated master waits (R419). -/
theorem fabRequest_held (hheld : (y.die d).fab.isolated.contains rq.master = true) :
    fabRequest d rq (m, y) = (m, y.onDie d fun x => { x with fab := { x.fab with held := x.fab.held ++ [rq] } }) := if_pos hheld

/-- An address that no die holds is answered by DEF (R415). -/
theorem fabRequest_def (hfree : (y.die d).fab.isolated.contains rq.master = false) (hout : 2 ^ 46 ≤ rq.addr ∨ y.part.dies ≤ bits rq.addr 45 43) :
    fabRequest d rq (m, y) = (m, y.decodeError d rq.master rq.addr) := by
  unfold fabRequest
  dsimp only
  rw [if_neg (ne_true_of_eq_false hfree), if_pos hout]

section
variable (hoff : rq.addr % 2 ^ 43 = o) (hlow : 0x10000000 ≤ o) (hhigh : o < 0x11800000) (hreach : reaches rq.master (targetOf o) = true)
include hoff hlow hhigh hreach

/-- A write to on-chip SRAM stores its bytes at its address (R412). -/
theorem serveAt_sramWrite {b : List Byte} (hb : rq.wdata = some b) : serveAt d rq (m, y) = (storeBytes memDflt m (dieBase d + o) b, y) := by
  obtain ⟨hone, hfour⟩ := targetOf_sram hlow hhigh
  have hplace : keptAt (y.die d).remap d o = some (dieBase d + o) := if_neg (by omega)
  unfold serveAt
  dsimp only
  rw [hoff, hreach]
  generalize targetOf o = t at hone hfour
  rw [memoryTarget_good hone (by omega), if_neg Bool.false_ne_true, if_neg (by omega), hb]
  dsimp only
  rw [if_neg (by omega), hplace]

/-- A read of on-chip SRAM that meets no error changes nothing. -/
theorem serveAt_sramRead (hb : rq.wdata = none) (herrs : ∀ e ∈ rq.errs, e = 0) : serveAt d rq (m, y) = (m, y) := by
  obtain ⟨hone, hfour⟩ := targetOf_sram hlow hhigh
  have hclean : (y.each rq.errs.zipIdx fun e y => y.sramRead d ((o + 64 * e.2 - 0x10000000) / 1024) e.1) = y := by
    refine Sys.each_apart (g := id) fun e he x => ?_
    have hzero : e.1 = 0 := herrs e.1 (List.fst_mem_of_mem_zipIdx he)
    exact if_pos hzero
  unfold serveAt
  dsimp only
  rw [hoff, hreach]
  generalize targetOf o = t at hone hfour
  rw [memoryTarget_good hone (by omega), if_neg Bool.false_ne_true, if_neg (by omega), hb]
  dsimp only
  rw [if_pos ⟨hone, hfour⟩, hclean]

end

/-- The state in which DRAM serves a granted request: its master was served last in its tier (R416). -/
def Sys.servedLast (d t : Nat) (rq : FabReq) (y : Sys) : Sys :=
  y.onDie d fun x => { x with fab := { x.fab with last := Tab.put (fun _ => 21) x.fab.last (4 * t + y.tierOf d rq) rq.master } }

section
variable (hoff : rq.addr % 2 ^ 43 = o) (hlow : 0x40000000000 ≤ o) (hhigh : o < 0x40400000000) (hreach : reaches rq.master (targetOf o) = true)
include hoff hlow hhigh hreach

/-- A request to DRAM that credit or pool can pay is served (R427). -/
theorem serveAt_granted {z : Sys} (h : y.grantFrom d (dramCtrl (o - 0x40000000000)) (chargeOf rq) (y.holderOf d rq) = some z) :
    serveAt d rq (m, y) = serveDram d (dramCtrl (o - 0x40000000000)) (o - 0x40000000000) rq
      (m, z.servedLast d (5 + dramCtrl (o - 0x40000000000)) rq) := by
  have hm := dramCtrl_lt (o - 0x40000000000)
  unfold serveAt
  dsimp only
  rw [hoff, hreach, targetOf_dram hlow hhigh]
  generalize dramCtrl (o - 0x40000000000) = n at hm h
  rw [memoryTarget_good (by omega) (by omega), if_neg Bool.false_ne_true, if_pos (by omega), Nat.add_sub_cancel_left, h]
  rfl

/-- One that neither can pay is deferred (R428). -/
theorem serveAt_deferred (h : y.grantFrom d (dramCtrl (o - 0x40000000000)) (chargeOf rq) (y.holderOf d rq) = none) :
    serveAt d rq (m, y) = (m, y.deferReq d rq) := by
  have hm := dramCtrl_lt (o - 0x40000000000)
  unfold serveAt
  dsimp only
  rw [hoff, hreach, targetOf_dram hlow hhigh]
  generalize dramCtrl (o - 0x40000000000) = n at hm h
  rw [memoryTarget_good (by omega) (by omega), if_neg Bool.false_ne_true, if_pos (by omega), Nat.add_sub_cancel_left, h]

end

end

/-! ### Service of a write on credit -/

/-- A holder's credit pays for bytes (R427). -/
def Sys.creditPaid (d m n h : Nat) (y : Sys) : Sys :=
  y.onDie d fun x => { x with fab := { x.fab with
    credits := Tab.put (fun _ => 0) x.fab.credits (32 * m + h) (Tab.find (fun _ => 0) (y.die d).fab.credits (32 * m + h) - n),
    grants := Tab.modify (fun _ => 0) x.fab.grants m fun g => g + n } }

theorem Sys.grantFrom_credit {y : Sys} {d m n h : Nat} (hc : 0 < Tab.find (fun _ => 0) (y.die d).fab.credits (32 * m + h)) :
    y.grantFrom d m n (some h) = some (y.creditPaid d m n h) := if_pos hc

theorem Sys.grantFrom_none {y : Sys} {d m n h : Nat} (hc : Tab.find (fun _ => 0) (y.die d).fab.credits (32 * m + h) ≤ 0)
    (hp : Tab.find (fun _ => 0) (y.die d).fab.pools m < n) : y.grantFrom d m n (some h) = none :=
  (if_neg (not_lt.mpr hc)).trans (if_neg (not_le.mpr hp))

/-- Refreshes of neighbour rows change the count of them alone (R380). -/
theorem Sys.neighbourRefresh_spec (y : Sys) (row : Nat) : (y.neighbourRefresh row).dies = y.dies ∧ (y.neighbourRefresh row).evs = y.evs ∧
    ∀ k, k ≠ Ob.MemParaCount → (y.neighbourRefresh row).val k = y.val k := by
  unfold Sys.neighbourRefresh
  dsimp only
  split
  · exact ⟨rfl, rfl, fun k hk => Sys.bump_other _ _ _ _ hk⟩
  · exact ⟨rfl, rfl, fun _ _ => rfl⟩

/-- A write that DRAM serves stores its bytes, and touches no budget (R376, R380). -/
theorem serveDram_write {d m o : Nat} {rq : FabReq} {mem : List Host.Cell} {y : Sys} {b : List Byte}
    (hserves : ((y.die d).dram.serving m (dramLoc (dramC o)).1).isSome = true) (hb : rq.wdata = some b) :
    ∃ w, serveDram d m o rq (mem, y) = (storeBytes memDflt mem (dieBase d + 0x40000000000 + o) b, w) ∧ (w.die d).fab = (y.die d).fab ∧
      w.evs = y.evs ∧ ∀ k, k ≠ Ob.MemParaCount → w.val k = y.val k := by
  obtain ⟨k, hk⟩ := Option.isSome_iff_exists.mp hserves
  obtain ⟨hdies, hevs, hval⟩ := y.neighbourRefresh_spec (dramLoc (dramC o)).2.1
  unfold serveDram
  dsimp only
  rw [hk, hb]
  refine ⟨_, rfl, ?_, hevs, hval⟩
  rw [Sys.onDie_self, Sys.die, hdies, Sys.die]

/-- A request on a holder's credit is served: the credit pays, and the rest of the budgets stand (R427). -/
theorem serveAt_credit {d o h n : Nat} {rq : FabReq} {mem : List Host.Cell} {y : Sys} {b : List Byte} (hn : n = dramCtrl (o - 0x40000000000))
    (hoff : rq.addr % 2 ^ 43 = o) (hlow : 0x40000000000 ≤ o) (hhigh : o < 0x40400000000) (hreach : reaches rq.master (targetOf o) = true)
    (hholder : y.holderOf d rq = some h) (hc : 0 < Tab.find (fun _ => 0) (y.die d).fab.credits (32 * n + h))
    (hb : rq.wdata = some b) (hserves : ((y.die d).dram.serving n (dramLoc (dramC (o - 0x40000000000))).1).isSome = true) :
    ∃ w, serveAt d rq (mem, y) = (storeBytes memDflt mem (dieBase d + o) b, w) ∧
      Tab.find (fun _ => 0) (w.die d).fab.credits (32 * n + h) =
        Tab.find (fun _ => 0) (y.die d).fab.credits (32 * n + h) - chargeOf rq ∧
      Tab.find (fun _ => 0) (w.die d).fab.grants n = Tab.find (fun _ => 0) (y.die d).fab.grants n + chargeOf rq ∧
      (∀ k, k ≠ Ob.MemParaCount → w.val k = y.val k) ∧ w.evs = y.evs := by
  subst hn
  rw [serveAt_granted hoff hlow hhigh hreach (z := y.creditPaid d (dramCtrl (o - 0x40000000000)) (chargeOf rq) h)
    (by rw [hholder, Sys.grantFrom_credit hc])]
  have hplace : dieBase d + 0x40000000000 + (o - 0x40000000000) = dieBase d + o := by omega
  generalize dramCtrl (o - 0x40000000000) = n at hc hserves
  generalize hz : (y.creditPaid d n (chargeOf rq) h).servedLast d (5 + n) rq = z
  have hdram : (z.die d).dram = (y.die d).dram := by rw [← hz, Sys.servedLast, Sys.onDie_self, Sys.creditPaid, Sys.onDie_self]
  obtain ⟨w, hw, hfab, hevs, hval⟩ := serveDram_write (d := d) (m := n) (o := o - 0x40000000000) (rq := rq) (mem := mem) (y := z)
    (by rw [hdram]; exact hserves) hb
  refine ⟨w, by rw [hw, hplace], ?_, ?_, fun k hk => ?_, ?_⟩
  · rw [hfab, ← hz, Sys.servedLast, Sys.onDie_self, Sys.creditPaid, Sys.onDie_self]
    dsimp only
    rw [Tab.find_put_self]
  · rw [hfab, ← hz, Sys.servedLast, Sys.onDie_self, Sys.creditPaid, Sys.onDie_self]
    dsimp only
    rw [Tab.modify, Tab.find_put_self]
  · rw [hval k hk, ← hz]
    rfl
  · rw [hevs, ← hz]
    rfl

/-! ### Deferral and decode errors -/

/-- The holder of a request does not depend on what is deferred. -/
theorem Sys.holderOf_deferred (y : Sys) (d : Nat) (rq q : FabReq) :
    (y.onDie d fun x => { x with fab := { x.fab with deferred := x.fab.deferred ++ [q] } }).holderOf d rq = y.holderOf d rq := by
  simp only [Sys.holderOf, Die.position, Sys.onDie_self]

/-- A deferred request waits behind those there are, its holder is named, and budgets stand (R429). -/
theorem Sys.deferReq_spec {y : Sys} {d h : Nat} {rq : FabReq} (hholder : y.holderOf d rq = some h) :
    ((y.deferReq d rq).die d).fab.deferred = (y.die d).fab.deferred ++ [rq] ∧ ((y.deferReq d rq).die d).fab.defHolders.contains h = true ∧
      ((y.deferReq d rq).die d).fab.credits = (y.die d).fab.credits ∧ ((y.deferReq d rq).die d).fab.pools = (y.die d).fab.pools ∧
      ∀ k, k ≠ Ob.DieFabDefers d → (y.deferReq d rq).val k = y.val k := by
  unfold Sys.deferReq
  dsimp only
  rw [Sys.holderOf_deferred, hholder]
  dsimp only
  split
  case isTrue hnamed =>
    rw [Sys.onDie_self] at hnamed ⊢
    exact ⟨rfl, hnamed, rfl, rfl, fun _ _ => rfl⟩
  case isFalse =>
    have hself : (h :: (y.die d).fab.defHolders).contains h = true := by simp
    split
    · rw [Sys.raiseLimited_die_read, Sys.bump_die_read, Sys.onDie_self, Sys.onDie_self]
      refine ⟨rfl, hself, rfl, rfl, fun k hk => ?_⟩
      rw [Sys.raiseLimited_val_read, Sys.bump_other _ _ _ _ hk]
      rfl
    · rw [Sys.onDie_self, Sys.onDie_self]
      exact ⟨rfl, hself, rfl, rfl, fun _ _ => rfl⟩

/-- Settles O33: each request by who serves it, and the service by what it stores and charges. -/
theorem fabricRequests : Obligations.FabricRequests := by
  unfold Obligations.FabricRequests
  refine ⟨⟨fun dt d o rq s hdies hd haddr hlow hhigh hfree hreach => ?_,
    fun dt d o h n b c rq s hdies hd haddr hlow hhigh hn hfree hreach hholder hc hpos hb hserves => ?_⟩,
    fun dt d rq s hheld => ?_, fun dt d rq s hfree hout => ?_,
    fun dt d o n h rq s hdies hd haddr hlow hhigh hn hfree hreach hholder hc hp => ?_⟩
  · have hsize : o < 2 ^ 43 := by omega
    have hown := fabRequest_own (m := s.mem) (y := s.sys.elapse dt) hdies hd hsize haddr hfree
    have hoff : rq.addr % 2 ^ 43 = o := by rw [haddr]; exact (dieBase_split hd hsize).2.2
    refine ⟨fun b hb => actMem_onMem ?_, fun hb herrs => actMem_onMem ?_⟩
    · rw [hown, serveAt_sramWrite hoff hlow hhigh hreach hb, haddr]
    · rw [hown, serveAt_sramRead hoff hlow hhigh hreach hb herrs]
  · have hsize : o < 2 ^ 43 := by omega
    have hoff : rq.addr % 2 ^ 43 = o := by rw [haddr]; exact (dieBase_split hd hsize).2.2
    have hown := fabRequest_own (m := s.mem) (y := s.sys.elapse dt) hdies hd hsize haddr hfree
    subst hc
    obtain ⟨w, hw, hrest⟩ := serveAt_credit (mem := s.mem) (y := s.sys.elapse dt) hn hoff hlow hhigh hreach hholder hpos hb hserves
    exact ⟨w, actMem_onMem (by rw [hown, hw, haddr]), hrest⟩
  · refine ⟨_, actMem_onMem (fabRequest_held (y := s.sys.elapse dt) hheld), ?_, rfl, rfl, fun e he => ?_⟩
    · rw [Sys.onDie_self]
      rfl
    · rw [Sys.onDie_other _ _ _ _ he]
      rfl
  · refine ⟨_, actMem_onMem (fabRequest_def (y := s.sys.elapse dt) hfree hout), ?_, fun k hk => ?_, ?_⟩
    · rw [Sys.decodeError, Sys.raiseLimited_nat_read, Sys.onDie_nat_read, Sys.bump_nat]
      rfl
    · rw [Sys.decodeError, Sys.raiseLimited_val_read, Sys.onDie_val_read, Sys.bump_other _ _ _ _ hk]
      rfl
    · rw [Sys.decodeError, Sys.raiseLimited_die_read, Sys.onDie_self]
      rfl
  · have hsize : o < 2 ^ 43 := by omega
    have hoff : rq.addr % 2 ^ 43 = o := by rw [haddr]; exact (dieBase_split hd hsize).2.2
    have hown := fabRequest_own (m := s.mem) (y := s.sys.elapse dt) hdies hd hsize haddr hfree
    have hholder' : (s.sys.elapse dt).holderOf d rq = some h := hholder
    subst hn
    refine ⟨_, actMem_onMem ?_, Sys.deferReq_spec (y := s.sys.elapse dt) hholder'⟩
    have hno : (s.sys.elapse dt).grantFrom d (dramCtrl (o - 0x40000000000)) (chargeOf rq) ((s.sys.elapse dt).holderOf d rq) = none := by
      rw [hholder']
      exact Sys.grantFrom_none (y := s.sys.elapse dt) hc hp
    rw [hown, serveAt_deferred hoff hlow hhigh hreach hno]

end Sys2Proof.Machine

/-! PROOFS. Bridge wires, master resets and the remap bit (16; R418 to R422). -/

namespace Sys2Proof.Machine

/-! ### Wires -/

/-- A failed wire takes the next spare of its group (R422). -/
theorem Sys.wireFailed_spared {y : Sys} {d b dir g v : Nat} {l : Nat × Nat × Nat} (hup : y.bridgeSt d b ≠ 0)
    (hl : l = linkName y.part.dies d b dir)
    (hspare : (y.upd.rep.wires.filter fun e => (e.1, e.2.1, e.2.2.1, e.2.2.2.1) == (l.1, l.2.1, l.2.2, g)).length < 2)
    (hnew : ∀ e ∈ y.upd.rep.wires, e ≠ (l.1, l.2.1, l.2.2, g, v)) : y.wireFailed d b dir g v =
      (y.onRep fun r => { r with wires := r.wires ++ [(l.1, l.2.1, l.2.2, g, v)] }).raise 0x0703 d b := by
  subst hl
  have hunused : ¬((y.upd.rep.wires.filter fun e => (e.1, e.2.1, e.2.2.1, e.2.2.2.1) == ((linkName y.part.dies d b dir).1,
      (linkName y.part.dies d b dir).2.1, (linkName y.part.dies d b dir).2.2, g)).any fun e => e.2.2.2.2 == v) = true := by
    intro h
    obtain ⟨⟨a, i, j, k, u⟩, he, hv⟩ := List.any_eq_true.mp h
    obtain ⟨hmem, hkey⟩ := List.mem_filter.mp he
    obtain rfl : u = v := beq_iff_eq.mp hv
    have hsame := beq_iff_eq.mp hkey
    simp only [Prod.mk.injEq] at hsame
    obtain ⟨rfl, rfl, rfl, rfl⟩ := hsame
    exact hnew _ hmem rfl
  unfold Sys.wireFailed
  dsimp only
  rw [if_neg hup, if_neg hunused, if_pos hspare]

/-! ### Master resets -/

/-- What a reset of a master leaves on its die: nothing of the master waits, and it is isolated (R419). -/
def Fab.masterOff (m : Nat) (f : Fab) : Fab :=
  { f with
    deferred := f.deferred.filter fun q => q.master != m,
    held := f.held.filter fun q => q.master != m,
    isolated := if f.isolated.contains m then f.isolated else m :: f.isolated }

/-- A reset that finds requests is counted (R420). -/
def Sys.drained (d : Nat) (found : Bool) (y : Sys) : Sys := if found then y.bump (Ob.DieResetDrains d) 1 else y

theorem Sys.masterReset_eq (y : Sys) (d m : Nat) : y.masterReset d m =
    (y.onDie d fun x => { x with fab := x.fab.masterOff m }).drained d
      (((y.die d).fab.deferred ++ (y.die d).fab.held).any fun q => q.master == m) := rfl

theorem Sys.drained_die (y : Sys) (d e : Nat) (found : Bool) : (y.drained d found).die e = y.die e := by
  unfold Sys.drained
  split <;> rfl

theorem Fab.masterOff_isolated (f : Fab) (m : Nat) : (f.masterOff m).isolated.contains m = true := by
  unfold Fab.masterOff
  dsimp only
  split
  case isTrue h => exact h
  case isFalse => simp

theorem Fab.mem_masterOff {f : Fab} {m : Nat} {q : FabReq} (h : q ∈ (f.masterOff m).deferred ++ (f.masterOff m).held) : q.master ≠ m := by
  rcases List.mem_append.mp h with h | h
  · exact bne_iff_ne.mp (List.mem_filter.mp h).2
  · exact bne_iff_ne.mp (List.mem_filter.mp h).2

/-- The end of an isolation with nothing held lets the master go on (R420). -/
theorem isolationEnd_free {mem : List Host.Cell} {y : Sys} {d m : Nat} (hiso : (y.die d).fab.isolated.contains m = true)
    (hfree : ∀ q ∈ (y.die d).fab.held, q.master ≠ m) : isolationEnd d m (mem, y) = (mem, y.onDie d fun x => { x with fab := { x.fab with
      isolated := x.fab.isolated.filter fun k => k != m, held := x.fab.held.filter fun q => q.master != m } }) := by
  have hnone : ((y.die d).fab.held.filter fun q => q.master == m) = [] :=
    List.filter_eq_nil_iff.mpr fun q hq h => hfree q hq (beq_iff_eq.mp h)
  unfold isolationEnd
  dsimp only
  rw [if_pos hiso, hnone]
  rfl

/-! ### The remap bit -/

/-- A core cluster or Beryl sets the remap bit of a die (R418). -/
theorem Sys.regWrite_remap {m : Nat} (hm : (11 ≤ m ∧ m ≤ 14) ∨ m = 17) (d : Nat) (v : Bool) (y : Sys) :
    y.regWrite d 0x20010000 (if v then 1 else 0) m = y.onDie d fun x => { x with remap := v } := by
  have hblock : regBlock 0x20010000 = some (0, 0) := by decide
  have hbit : decide ((if v then 1 else 0) % 2 = 1) = v := by cases v <;> rfl
  unfold Sys.regWrite
  rw [hblock]
  refine (if_pos hm).trans ?_
  rw [hbit]

/-- Settles O34: a wire by its spare, a master by what its reset leaves, the remap bit by its register. -/
theorem bridgesAndMasters : Obligations.BridgesAndMasters := by
  unfold Obligations.BridgesAndMasters
  refine ⟨fun dt d b g v n dir l s hup hl hspare hnew => ?_, fun dt d m s => ?_, fun dt d m s hiso hfree => ?_, fun dt d m v s hm => ?_⟩
  · have hfails := Sys.wireFailed_spared (y := s.sys.elapse dt) hup hl hspare hnew
    refine ⟨fun hn => ⟨_, act_done ((if_pos hn).trans hfails), rfl, rfl, rfl⟩, fun hn => act_done (if_neg (by omega)), fun hn =>
      ⟨_, act_done ((if_pos hn).trans hfails), rfl, rfl, rfl⟩⟩
  · refine ⟨_, act_done ((s.sys.elapse dt).masterReset_eq d m), ?_, ?_, ?_, ?_⟩
    · rw [Sys.drained_die, Sys.onDie_self]
      exact fun q hq => Fab.mem_masterOff hq
    · rw [Sys.drained_die, Sys.onDie_self]
      exact Fab.masterOff_isolated _ m
    · rw [Sys.drained_die, Sys.onDie_self]
      exact fun q hq hne => List.mem_filter.mpr ⟨hq, bne_iff_ne.mpr hne⟩
    · unfold Sys.drained
      rw [Sys.elapse_die_read]
      split
      · rw [Sys.bump_nat]
        rfl
      · rfl
  · refine ⟨_, actMem_onMem (isolationEnd_free (y := s.sys.elapse dt) hiso hfree), ?_, ?_, rfl, rfl⟩ <;> rw [Sys.onDie_self]
    · rfl
    · exact List.filter_eq_self.mpr fun q hq => bne_iff_ne.mpr (hfree q hq)
  · refine ⟨_, act_done (Sys.regWrite_remap hm d v (s.sys.elapse dt)), ?_, fun e he => ?_, rfl, rfl⟩
    · rw [Sys.onDie_self]
      rfl
    · rw [Sys.onDie_other _ _ _ _ he]
      rfl

end Sys2Proof.Machine

/-! PROOFS. PLLs: loss, settle, attempt, lock, confirmation and switch-back; calibration runs and commits (12; R329 to R341, R385). -/

namespace Sys2Proof.Machine

/-! ### What a lost clock does beside its PLL -/

/-- `y` is `z` after lanes and ports lost their clock: PLLs stand, events were added, and only objects of ports and lanes may have changed. -/
structure Sys.ClockSide (z y : Sys) : Prop where
  clk : y.clk = z.clk
  now : y.now = z.now
  part : y.part = z.part
  raised : ∃ l, y.evs.raised = z.evs.raised ++ l
  val : ∀ k, (∀ q, k ≠ Ob.PortDownDrop q ∧ k ≠ Ob.PortLinkDowns q ∧ k ≠ Ob.LnScanState q) → y.val k = z.val k

namespace Sys.ClockSide
variable {x y z : Sys}

theorem refl (z : Sys) : ClockSide z z := ⟨rfl, rfl, rfl, ⟨[], (List.append_nil _).symm⟩, fun _ _ => rfl⟩

theorem trans (h : ClockSide x y) (h' : ClockSide y z) : ClockSide x z := by
  obtain ⟨l, hl⟩ := h.raised
  obtain ⟨l', hl'⟩ := h'.raised
  exact ⟨h'.clk.trans h.clk, h'.now.trans h.now, h'.part.trans h.part, ⟨l ++ l', by rw [hl', hl, List.append_assoc]⟩,
    fun k hk => (h'.val k hk).trans (h.val k hk)⟩

theorem nat (h : ClockSide z y) {k : Nat} (hk : ∀ q, k ≠ Ob.PortDownDrop q ∧ k ≠ Ob.PortLinkDowns q ∧ k ≠ Ob.LnScanState q) : y.nat k = z.nat k := by
  rw [Sys.nat, h.val k hk, Sys.nat]

end Sys.ClockSide

theorem Sys.TimeOnly.clk {y z : Sys} (h : z.TimeOnly y) : y.clk = z.clk := by
  obtain ⟨j, r, rfl⟩ := h
  rfl

theorem Sys.wentDown_clk (y : Sys) (p st : Nat) : (y.wentDown p st).clk = y.clk := rfl

/-- A port that leaves a link state touches no PLL (R355). -/
theorem Sys.leaveUp_clockSide (y : Sys) (p st : Nat) : y.ClockSide (y.leaveUp p st) := by
  have hclk : (y.leaveUp p st).clk = y.clk := by
    rw [Sys.leaveUp_eq]
    split
    · rw [(Sys.tbPortsDown_timeOnly _).clk, Sys.wentDown_clk]
    · rfl
  have hraised : ∃ l, (y.leaveUp p st).evs.raised = y.evs.raised ++ l := by
    by_cases hup : (y.port p).st = 5
    · obtain ⟨l, hl⟩ := (Sys.leaveUp_up st hup).2
      exact ⟨_, hl.trans (List.append_assoc _ _ _)⟩
    · rw [Sys.leaveUp_eq, if_neg hup]
      exact ⟨[], (List.append_nil _).symm⟩
  exact ⟨hclk, Sys.leaveUp_now .., Sys.leaveUp_part .., hraised, fun k hk => Sys.leaveUp_val _ _ _ (hk p).1 (hk p).2.1⟩

theorem Sys.laneTo_clockSide (y : Sys) (st l : Nat) : y.ClockSide (y.laneTo st l) := by
  have hclk : (y.laneTo st l).clk = y.clk := by
    unfold Sys.laneTo Sys.scanAbort
    split <;> rfl
  have hw := (Sys.LaneWork.refl y).laneTo st l
  exact ⟨hclk, hw.now, hw.part, ⟨[], by rw [hw.evs, List.append_nil]⟩, fun k hk => hw.val k fun l => (hk l).2.2⟩

theorem Sys.lanePllLost_clockSide (y : Sys) (d p : Nat) : y.ClockSide (y.lanePllLost d p) := by
  refine Sys.each_invariant (I := y.ClockSide) (fun q x h => ?_) (.refl y)
  exact Sys.each_invariant (I := y.ClockSide) (fun l x h => h.trans (x.laneTo_clockSide 0 l)) (h.trans (x.leaveUp_clockSide q 1))

/-! ### Bypass -/

/-- A PLL record with its islands on bypass (R332). -/
def Pll.bypassed (st now : Nat) (islands : List Nat) (x : Pll) : Pll :=
  { x with st := st, islands := islands, attempt := none, lockedAt := none, settleAt := none, bypassFrom := some (x.bypassFrom.getD now) }

/-- The bypass of a PLL before lanes hear of it: beside the PLL, progress of rows and the bypass of the memory are noted. -/
def Sys.bypassNoted (d p st : Nat) (y : Sys) : Sys :=
  let isl := y.islandsOf d p
  let y := if p = 1 then y.pipeTick d else y
  let y := y.onPll d p fun x =>
    { x with st := st, islands := isl, attempt := none, lockedAt := none, settleAt := none,
             bypassFrom := match x.bypassFrom with
               | some t => some t
               | none => some y.now }
  if p = 2 then y.onDie d fun x => { x with dram := { x.dram with bypass := true } } else y

theorem Sys.pllBypass_eq (y : Sys) (d p st : Nat) : y.pllBypass d p st =
    if 4 ≤ p then (y.bypassNoted d p st).lanePllLost d p else y.bypassNoted d p st := rfl

theorem bypassFrom_getD (b : Option Nat) (now : Nat) : (match b with
    | some t => some t
    | none => some now) = some (b.getD now) := by cases b <;> rfl

theorem Sys.bypassNoted_eq (y : Sys) (d p st : Nat) : ∃ cs ds, y.bypassNoted d p st =
    { y.setPll d p ((y.pll d p).bypassed st y.now (y.islandsOf d p)) with chans := cs, dies := ds } := by
  obtain ⟨c, hc⟩ := y.pipeTick_eq d
  unfold Sys.bypassNoted
  dsimp only
  rw [hc, Pll.bypassed, ← bypassFrom_getD]
  split <;> split <;> exact ⟨_, _, rfl⟩

theorem Sys.bypassNoted_side (y : Sys) (d p st : Nat) :
    (y.setPll d p ((y.pll d p).bypassed st y.now (y.islandsOf d p))).ClockSide (y.bypassNoted d p st) := by
  obtain ⟨cs, ds, h⟩ := y.bypassNoted_eq d p st
  rw [h]
  exact ⟨rfl, rfl, rfl, ⟨[], (List.append_nil _).symm⟩, fun _ _ => rfl⟩

/-- Beside its own record a PLL's bypass touches what a lost clock touches (R332, R337). -/
theorem Sys.pllBypass_side (y : Sys) (d p st : Nat) :
    (y.setPll d p ((y.pll d p).bypassed st y.now (y.islandsOf d p))).ClockSide (y.pllBypass d p st) := by
  rw [Sys.pllBypass_eq]
  split
  · exact (y.bypassNoted_side d p st).trans (Sys.lanePllLost_clockSide _ d p)
  · exact y.bypassNoted_side d p st

theorem Sys.ClockSide.pll {y z : Sys} (h : z.ClockSide y) (d p : Nat) : y.pll d p = z.pll d p := by
  rw [Sys.pll, h.clk, Sys.pll]

theorem Sys.pllBypass_pll (y : Sys) (d p st : Nat) :
    (y.pllBypass d p st).pll d p = (y.pll d p).bypassed st y.now (y.islandsOf d p) := by
  rw [(y.pllBypass_side d p st).pll, Sys.setPll_self]

/-- The objects of a PLL are none of a port's or a lane's. -/
theorem clockObject_apart {p s : Nat} (hs : s = 0x0C ∨ s = 0x0D) (q : Nat) : 0x380000 + 0x100 * p + s ≠ Ob.PortDownDrop q ∧
    0x380000 + 0x100 * p + s ≠ Ob.PortLinkDowns q ∧ 0x380000 + 0x100 * p + s ≠ Ob.LnScanState q := by
  simp only [Ob.PortDownDrop, Ob.PortLinkDowns, Ob.LnScanState]
  omega

/-! ### Loss (R331, R332) -/

/-- A PLL record whose clock is lost: bypass, and the settle of 200 µs (R334). -/
def Pll.lost (st now : Nat) (islands : List Nat) (x : Pll) : Pll := { x.bypassed st now islands with settleAt := some (now + usU 200) }

section
variable {y : Sys} {d p k : Nat} (st code : Nat) (hk : ∀ q, k ≠ Ob.PortDownDrop q ∧ k ≠ Ob.PortLinkDowns q ∧ k ≠ Ob.LnScanState q)

/-- A loss with its count and its event. -/
def Sys.pllLostNoted (d p st k code : Nat) (y : Sys) : Sys := ((y.pllLoss d p st).bump k 1).raise code d p

theorem Sys.pllLostNoted_pll : (y.pllLostNoted d p st k code).pll d p = (y.pll d p).lost st y.now (y.islandsOf d p) := by
  rw [Sys.pllLostNoted, Sys.raise_pll_read, Sys.bump_pll_read, Sys.pllLoss, Sys.onPll_self, Sys.pllBypass_pll, Pll.lost]

theorem Sys.pllLostNoted_raised : ∃ l, (y.pllLostNoted d p st k code).evs.raised =
    y.evs.raised ++ l ++ [{ code := code, die := d, arg := p, t := y.now }] := by
  have hside := y.pllBypass_side d p st
  obtain ⟨l, hl⟩ := hside.raised
  refine ⟨l, ?_⟩
  rw [Sys.pllLostNoted, Sys.raise_raised, Sys.bump_evs, Sys.bump_now, Sys.pllLoss, Sys.onPll_evs, Sys.onPll_now, hl, hside.now]
  rfl

include hk in
theorem Sys.pllLostNoted_count : (y.pllLostNoted d p st k code).nat k = (y.nat k + 1) % wrapOf y.part.dies k := by
  have hside := y.pllBypass_side d p st
  rw [Sys.pllLostNoted, Sys.raise_nat_read, Sys.bump_nat, Sys.pllLoss, Sys.onPll_nat_read, Sys.onPll_part, hside.nat hk, hside.part]
  rfl

end

theorem Sys.lockLost_counted {y : Sys} {d p : Nat} (h : (y.pll d p).st = 0 ∨ (y.pll d p).st = 1 ∨ (y.pll d p).st = 5) :
    y.lockLost d p = y.pllLostNoted d p 2 (Ob.ClkLockLossCount p) 0x0301 := by
  unfold Sys.lockLost
  rcases h with h | h | h <;> rw [h] <;> rfl

/-- A PLL of a die without one of its references (R331). -/
def Sys.refGone (d p r : Nat) (y : Sys) : Sys := y.onPll d p fun x => { x with refs := x.refs.filter fun q => q != r }

theorem Sys.refLost_counted {y : Sys} {d p r : Nat} (href : (y.pll d p).ref = r)
    (h : (y.pll d p).st = 0 ∨ (y.pll d p).st = 1 ∨ (y.pll d p).st = 4 ∨ (y.pll d p).st = 5) :
    y.refLost d p r = (y.refGone d p r).pllLostNoted d p 3 (Ob.ClkRefLossCount p) 0x0302 := by
  unfold Sys.refLost
  dsimp only
  rw [Sys.onPll_self, if_pos href]
  dsimp only
  rcases h with h | h | h | h <;> rw [h] <;> rfl

/-! ### Attempts (R334, R336) -/

/-- An attempt begins on the selected reference when it is present (R334). -/
theorem Sys.pllAttempt_selected {y : Sys} {d p : Nat} (h : (y.pll d p).refs.contains (y.nat (Ob.ClkRefSel p)) = true) : y.pllAttempt d p =
    y.onPll d p fun x => { x with st := 4, attempt := some y.now, lockedAt := none, settleAt := none, ref := y.nat (Ob.ClkRefSel p),
                                  entry := y.nat (Ob.ClkBandSelect p), alt := false } := if_pos h

theorem Sys.pllAttempt_fails (y : Sys) (d p : Nat) : ((y.pllAttempt d p).pll d p).fails = (y.pll d p).fails := by
  unfold Sys.pllAttempt
  dsimp only
  split
  · rw [Sys.onPll_self]
  · split <;> rw [Sys.onPll_self]

/-- A record whose attempt failed (R334). -/
def Sys.attemptFailed (d p : Nat) (y : Sys) : Sys :=
  y.onPll d p fun x => { x with fails := (y.pll d p).fails + 1, attempt := none, lockedAt := none }

theorem Sys.attemptFails_eq (y : Sys) (d p : Nat) : y.attemptFails d p =
    if 8 ≤ (y.pll d p).fails + 1 then ((y.attemptFailed d p).onPll d p fun x => { x with st := 8 }).raise 0x0305 d p
    else (y.attemptFailed d p).pllAttempt d p := rfl

theorem Sys.attemptFailed_pll (y : Sys) (d p : Nat) : (y.attemptFailed d p).pll d p =
    { y.pll d p with fails := (y.pll d p).fails + 1, attempt := none, lockedAt := none } := by
  rw [Sys.attemptFailed, Sys.onPll_self]

/-- A failed attempt is counted, and changes no object (R334). -/
theorem Sys.attemptFails_fails (y : Sys) (d p : Nat) :
    (y.attemptFails d p).live = y.live ∧ ((y.attemptFails d p).pll d p).fails = (y.pll d p).fails + 1 := by
  rw [Sys.attemptFails_eq]
  split
  · exact ⟨rfl, by rw [Sys.raise_pll_read, Sys.onPll_self, Sys.attemptFailed_pll]⟩
  · obtain ⟨x, hx⟩ := (y.attemptFailed d p).pllAttempt_clk d p
    refine ⟨by rw [hx]; rfl, ?_⟩
    rw [Sys.pllAttempt_fails, Sys.attemptFailed_pll]

/-- Settling over, an attempt begins (R334). -/
theorem Sys.settleOver_attempt {y : Sys} {d p t : Nat} (ht : (y.pll d p).settleAt = some t) (hover : t ≤ y.now) :
    y.settleOver d p = y.pllAttempt d p := by
  unfold Sys.settleOver
  rw [ht]
  exact if_pos hover

theorem Sys.lockAchieved_due {y : Sys} {d p t : Nat} (hst : (y.pll d p).st = 4) (ht : (y.pll d p).attempt = some t)
    (hlock : (y.pll d p).lockedAt = none) (hin : y.now ≤ t + usU 150) :
    y.lockAchieved d p = y.onPll d p fun x => { x with lockedAt := some y.now } := by
  unfold Sys.lockAchieved
  dsimp only
  rw [ht]
  exact if_pos ⟨hst, by rw [hlock]; rfl, hin⟩

theorem Sys.lockTimeout_due {y : Sys} {d p t : Nat} (hst : (y.pll d p).st = 4) (ht : (y.pll d p).attempt = some t)
    (hlock : (y.pll d p).lockedAt = none) (hlate : t + usU 150 ≤ y.now) : y.lockTimeout d p = y.attemptFails d p := by
  unfold Sys.lockTimeout
  dsimp only
  rw [ht]
  exact if_pos ⟨hst, by rw [hlock]; rfl, hlate⟩

theorem Sys.lockConfirmed_due {y : Sys} {d p t : Nat} (hst : (y.pll d p).st = 4) (ht : (y.pll d p).lockedAt = some t)
    (hheld : t + usU 100 ≤ y.now) : y.lockConfirmed d p =
      ((y.onPll d p fun x => { x with st := 5, fails := 0, attempt := none, lockedAt := none }).bump (Ob.ClkRelockCount p) 1).raise 0x0303 d p := by
  unfold Sys.lockConfirmed
  dsimp only
  rw [ht]
  exact if_pos ⟨hst, hheld⟩

/-- A return starts the settle of a PLL that waits (R334). -/
theorem Sys.refReturn_settles {y : Sys} {d p r : Nat} (hgone : (y.pll d p).refs.contains r = false)
    (hst : (y.pll d p).st = 2 ∨ (y.pll d p).st = 3) (hnone : (y.pll d p).settleAt = none) :
    (y.refReturn d p r).pll d p = { y.pll d p with refs := (y.pll d p).refs ++ [r], settleAt := some (y.now + usU 200) } := by
  rw [Sys.refReturn, Sys.onPll_self, if_neg (ne_true_of_eq_false hgone), if_pos ⟨hst, by rw [hnone]; rfl⟩]

/-! ### Switch-back (R335, R341) -/

/-- The bypass of a PLL ends with its last island (R335, R341). -/
def Pll.switchedBack (now : Nat) (x : Pll) : Pll :=
  { x with islands := [], st := if x.alt then 1 else 0, bypassFrom := none
           bypassNs := x.bypassNs + match x.bypassFrom with
             | some t => nsOf (now - t)
             | none => 0 }

theorem Sys.islandBack_last {y : Sys} {d p i : Nat} (hp : p = 0 ∨ p = 3) (hst : (y.pll d p).st = 5) (hi : (y.pll d p).islands = [i]) :
    (y.islandBack d p i).live = y.live ∧ (y.islandBack d p i).pll d p = (y.pll d p).switchedBack y.now ∧
      (y.islandBack d p i).evs.raised = y.evs.raised ++ [{ code := 0x0304, die := d, arg := p, t := y.now }] := by
  have hdue : (y.pll d p).st = 5 ∧ (y.pll d p).islands.contains i = true ∧ ¬(p = 1 ∧ i < 5 ∧ y.pipeBusy d i = true) :=
    ⟨hst, by rw [hi]; simp, by omega⟩
  have hrest : ((y.pll d p).islands.filter fun k => k != i) = [] := by rw [hi]; simp
  unfold Sys.islandBack
  dsimp only
  rw [if_pos hdue, hrest, if_neg (show ¬p = 1 by omega), if_neg (show ¬4 ≤ p by omega), if_neg (show ¬p = 2 by omega), if_pos rfl]
  refine ⟨rfl, ?_, rfl⟩
  rw [Sys.raise_pll_read, Sys.onPll_self, Sys.onPll_self]
  rfl

theorem Sys.islandBack_pipe {y : Sys} {d i : Nat} (hst : (y.pll d 1).st = 5) (hi : (y.pll d 1).islands.contains i = true)
    (hfree : y.pipeBusy d i = false) :
    (y.islandBack d 1 i).live = y.live ∧ ((y.islandBack d 1 i).pll d 1).islands = (y.pll d 1).islands.filter fun k => k != i := by
  have hdue : (y.pll d 1).st = 5 ∧ (y.pll d 1).islands.contains i = true ∧ ¬(1 = 1 ∧ i < 5 ∧ y.pipeBusy d i = true) :=
    ⟨hst, hi, fun h => ne_true_of_eq_false hfree h.2.2⟩
  obtain ⟨c, hc⟩ := y.pipeTick_eq d
  unfold Sys.islandBack
  dsimp only
  rw [if_pos hdue, if_pos (show 1 = 1 from rfl), if_neg (show ¬4 ≤ 1 by decide), if_neg (show ¬1 = 2 by decide), hc]
  split
  · exact ⟨rfl, by rw [Sys.raise_pll_read, Sys.onPll_self, Sys.onPll_self]⟩
  · exact ⟨rfl, by rw [Sys.onPll_self]⟩


/-! ### Calibration runs (R329) -/

/-- The bypass of a PLL that is no lane's (R332). -/
theorem Sys.pllBypass_small {p : Nat} (hp : p < 4) (y : Sys) (d st : Nat) : ∃ cs ds, y.pllBypass d p st =
    { y.setPll d p ((y.pll d p).bypassed st y.now (y.islandsOf d p)) with chans := cs, dies := ds } := by
  rw [Sys.pllBypass_eq, if_neg (by omega)]
  exact y.bypassNoted_eq d p st

/-- The calibration run moves on (R329). -/
def Sys.calMoved (run : Option (Nat × Nat × Nat)) (y : Sys) : Sys := { y with clk := { y.clk with run := run } }

theorem Sys.calStart_idle {y : Sys} (hrun : y.clk.run = none) (hqueue : y.clk.queue = []) : y.calStart = y := by
  unfold Sys.calStart
  rw [hrun, hqueue]

section
variable {y : Sys} {p e d a b : Nat} (hrun : y.clk.run = some (p, e, d)) (hfails : (y.pll d p).fails < 8)
  (hhere : (y.pll d p).refs.contains (if (y.pll d p).alt then (y.pll d p).ref else y.nat (Ob.ClkRefSel p)) = true)
include hrun hfails hhere

/-- A die's run ends with a result: its PLL relocks, and its entry is calibrated (R329). -/
def Sys.calNoted (y : Sys) (p e d a b : Nat) : Sys := (y.calBack d p true).setCal d p e (some (a % 16, b % 256))

omit hrun hhere in
theorem Sys.calNoted_st : ((y.calNoted p e d a b).pll d p).st = 5 := by
  have hpll : (y.calNoted p e d a b).pll d p = (y.calBack d p true).pll d p := rfl
  rw [hpll, Sys.calBack, Sys.onPll_self, if_neg (by omega), if_pos rfl]

omit hrun hfails hhere in
/-- Notes of a run are kept with the clocks. -/
theorem Sys.calNoted_apart : (y.calNoted p e d a b).live = y.live ∧ (y.calNoted p e d a b).evs = y.evs ∧ (y.calNoted p e d a b).now = y.now := by
  have hback : (y.calBack d p true).live = y.live ∧ (y.calBack d p true).evs = y.evs ∧ (y.calBack d p true).now = y.now := ⟨rfl, rfl, rfl⟩
  unfold Sys.calNoted
  generalize y.calBack d p true = w at hback
  exact hback

omit hrun hfails hhere in
theorem Sys.calNoted_cal : (y.calNoted p e d a b).cal d p e = some (a % 16, b % 256) := by
  rw [Sys.calNoted, Sys.setCal, Sys.cal, Tab.find_put_self]

omit hfails in
/-- The next die calibrates the same entry. -/
theorem Sys.calDone_next (hnext : d + 1 < y.part.dies) : y.calDone (some (a, b)) =
    ((y.calNoted p e d a b).calMoved (some (p, e, d + 1))).pllBypass (d + 1) p 6 := by
  unfold Sys.calDone
  rw [hrun]
  dsimp only
  rw [hhere, if_pos rfl]
  exact if_pos hnext

omit hfails in
/-- With the last die the run is over. -/
theorem Sys.calDone_last (hlast : y.part.dies ≤ d + 1) (hqueue : y.clk.queue = []) : y.calDone (some (a, b)) =
    ((y.calNoted p e d a b).calMoved none).raise 0x0306 0 (p * 256 + e) := by
  have hno : ¬d + 1 < y.part.dies := by omega
  unfold Sys.calDone
  rw [hrun]
  dsimp only
  rw [hhere, if_pos rfl]
  refine (if_neg hno).trans ?_
  have hq : (((y.calNoted p e d a b).calMoved none).raise 0x0306 0 (p * 256 + e)).clk.queue = [] :=
    hqueue
  exact Sys.calStart_idle rfl hq

/-- The result stands, the PLL has relocked, and the end of the run is raised (R329). -/
theorem Sys.calDone_over (hlast : y.part.dies ≤ d + 1) (hqueue : y.clk.queue = []) :
    (y.calDone (some (a, b))).cal d p e = some (a % 16, b % 256) ∧ (y.calDone (some (a, b))).clk.run = none ∧
      ((y.calDone (some (a, b))).pll d p).st = 5 ∧ (y.calDone (some (a, b))).live = y.live ∧
      (y.calDone (some (a, b))).evs.raised = y.evs.raised ++ [{ code := 0x0306, die := 0, arg := p * 256 + e, t := y.now }] := by
  rw [Sys.calDone_last hrun hhere hlast hqueue, Sys.raise_clk, Sys.raise_live, Sys.raise_pll_read, Sys.raise_raised]
  have hst : ((y.calNoted p e d a b).calMoved none).pll d p = (y.calNoted p e d a b).pll d p := rfl
  obtain ⟨hlive, hevs, hnow⟩ : (y.calNoted p e d a b).live = y.live ∧ (y.calNoted p e d a b).evs = y.evs ∧
    (y.calNoted p e d a b).now = y.now := Sys.calNoted_apart
  have hcal : (y.calNoted p e d a b).cal d p e = _ := Sys.calNoted_cal
  have hfive := Sys.calNoted_st (y := y) (p := p) (d := d) (e := e) (a := a) (b := b) hfails
  rw [hst]
  generalize y.calNoted p e d a b = w at hlive hevs hnow hcal hfive
  rw [← hlive, ← hevs, ← hnow]
  exact ⟨hcal, rfl, hfive, rfl, rfl⟩

end

/-- The run moves to the next die, whose PLL goes to bypass; results and the PLL it left stand. -/
theorem Sys.calMoved_bypass {p : Nat} (hp : p < 4) (y : Sys) (d : Nat) (run : Option (Nat × Nat × Nat)) (e : Nat) :
    ((y.calMoved run).pllBypass (d + 1) p 6).cal d p e = y.cal d p e ∧ ((y.calMoved run).pllBypass (d + 1) p 6).clk.run = run ∧
      ((y.calMoved run).pllBypass (d + 1) p 6).pll d p = y.pll d p ∧ (((y.calMoved run).pllBypass (d + 1) p 6).pll (d + 1) p).st = 6 ∧
      ((y.calMoved run).pllBypass (d + 1) p 6).live = y.live ∧ ((y.calMoved run).pllBypass (d + 1) p 6).evs = y.evs := by
  have hst : (((y.calMoved run).pllBypass (d + 1) p 6).pll (d + 1) p).st = 6 := by rw [Sys.pllBypass_pll]; rfl
  obtain ⟨cs, ds, h⟩ := Sys.pllBypass_small hp (y.calMoved run) (d + 1) 6
  have hother : ((y.calMoved run).pllBypass (d + 1) p 6).pll d p = y.pll d p := by
    rw [h]
    exact Sys.setPll_other (y.calMoved run) (d + 1) p d p _ (by omega)
  refine ⟨?_, ?_, hother, hst, ?_, ?_⟩ <;> rw [h] <;> rfl

/-! ### A set becomes live (R213, R339, R385) -/

/-- A table read under two defaults that agree where it is read. -/
theorem Tab.find_default {α : Type} {c c' : Nat → α} {k : Nat} (h : c k = c' k) (t : Tab α) : Tab.find c t k = Tab.find c' t k := by
  induction t with
  | nil => exact h
  | cons e t ih =>
    obtain ⟨i, v⟩ := e
    simp only [Tab.find, ih]

/-- A shadow reads the same where its live value and its entry do. -/
theorem Sys.shadowVal_congr {y z : Sys} {k : Nat} (hval : y.val k = z.val k) (hshadow : y.shadow = z.shadow) : y.shadowVal k = z.shadowVal k := by
  rw [Sys.shadowVal, Sys.shadowVal, hshadow]
  exact Tab.find_default hval _

/-- One pending set of a context that is due becomes live (R213). -/
theorem Sys.applyDue_one {y : Sys} {ctx k : Nat} {v : Val} {q : Pend} {at_ : Int} (hdue : y.duePend ctx at_ = [q]) (hset : q.set = [(k, v)])
    (hone : (y.pend.filter fun (o : Pend) => o.key == ctx) = [q]) : (∀ o ∈ (y.applyDue ctx at_).pend, o.key ≠ ctx) ∧ y.applyDue ctx at_ =
      ((({ y with pend := (y.applyDue ctx at_).pend } : Sys).setVal k v).setShadow k (y.shadowVal k)).setInt (ctx + 1) 0 := by
  have hkept : ∀ o ∈ y.pend.filter (fun (p : Pend) => !(p.key == ctx && atOrAfter at_ p.at_)), o.key ≠ ctx := by
    intro o ho hkey
    obtain ⟨hmem, hnot⟩ := List.mem_filter.mp ho
    have hq : o ∈ y.pend.filter fun (o : Pend) => o.key == ctx := List.mem_filter.mpr ⟨hmem, beq_iff_eq.mpr hkey⟩
    rw [hone, List.mem_singleton] at hq
    have hqdue : q ∈ y.duePend ctx at_ := by rw [hdue]; exact List.mem_singleton_self q
    rw [← hq] at hqdue
    rw [(List.mem_filter.mp hqdue).2] at hnot
    cases hnot
  have heq : y.applyDue ctx at_ = ((({ y with pend := y.pend.filter fun (p : Pend) => !(p.key == ctx && atOrAfter at_ p.at_) } : Sys).setVal k
      v).setShadow k (y.shadowVal k)).setInt (ctx + 1) 0 := by
    have hnone : ¬((y.pend.filter fun (p : Pend) => !(p.key == ctx && atOrAfter at_ p.at_)).any fun (p : Pend) => p.key == ctx) = true := by
      intro h
      obtain ⟨o, ho, hkey⟩ := List.any_eq_true.mp h
      exact hkept o ho (beq_iff_eq.mp hkey)
    unfold Sys.applyDue
    dsimp only
    rw [hdue, if_neg (List.cons_ne_nil q []), Sys.each_cons, Sys.each_nil, Sys.applySet, hset, Sys.each_cons, Sys.each_nil]
    exact if_neg hnone
  have hpend : (y.applyDue ctx at_).pend = y.pend.filter fun (p : Pend) => !(p.key == ctx && atOrAfter at_ p.at_) := by rw [heq]; rfl
  rw [hpend]
  exact ⟨hkept, heq⟩

/-- What reads after one set became live (R213). -/
theorem Sys.applyDue_reads {y : Sys} {ctx k : Nat} {v : Val} {q : Pend} {at_ : Int} (hdue : y.duePend ctx at_ = [q]) (hset : q.set = [(k, v)])
    (hone : (y.pend.filter fun (o : Pend) => o.key == ctx) = [q]) (hk : k ≠ ctx + 1) :
    (y.applyDue ctx at_).val k = v ∧ (y.applyDue ctx at_).nat (ctx + 1) = 0 ∧ (y.applyDue ctx at_).shadowVal k = y.shadowVal k ∧
      (∀ o ∈ (y.applyDue ctx at_).pend, o.key ≠ ctx) ∧ ∀ j, j ≠ k → j ≠ ctx + 1 → (y.applyDue ctx at_).val j = y.val j := by
  obtain ⟨hpend, heq⟩ := Sys.applyDue_one hdue hset hone
  have hval : (y.applyDue ctx at_).val k = v := by rw [heq, Sys.setInt_other _ _ _ _ hk, Sys.setShadow_val_read, Sys.setVal_self]
  refine ⟨hval, ?_, ?_, hpend, fun j hj hjs => ?_⟩
  · rw [heq]
    exact Sys.setInt_nat _ _ 0
  · have hset' : (((({ y with pend := (y.applyDue ctx at_).pend } : Sys).setVal k v).setShadow k (y.shadowVal k)).setInt (ctx + 1) 0).shadowVal k =
        ((({ y with pend := (y.applyDue ctx at_).pend } : Sys).setVal k v).setShadow k (y.shadowVal k)).shadowVal k :=
      Sys.shadowVal_congr (Sys.setInt_other _ _ _ _ hk) rfl
    exact (congrArg (Sys.shadowVal · k) heq).trans (hset'.trans (Sys.setShadow_self _ _ _))
  · rw [heq, Sys.setInt_other _ _ _ _ hjs, Sys.setShadow_val_read, Sys.setVal_other _ _ _ _ hj]
    rfl

/-- The retuning of a PLL that is no lane's leaves the objects alone (R339). -/
theorem Sys.retune_small {p : Nat} (hp : p < 4) (y : Sys) (d : Nat) : ∃ c cs ds, y.retune d p = { y with clk := c, chans := cs, dies := ds } := by
  obtain ⟨c, hc⟩ := y.pipeTick_eq d
  obtain ⟨cs, ds, hb⟩ := y.pllBypass_small hp d 4
  unfold Sys.retune
  dsimp only
  split
  · split
    · split
      · rw [hc]
        exact ⟨_, _, _, rfl⟩
      · exact ⟨_, _, _, rfl⟩
    · obtain ⟨x, hx⟩ := (y.pllBypass d p 4).pllAttempt_clk d p
      rw [hx, hb]
      exact ⟨_, _, _, rfl⟩
  · split
    · exact ⟨_, _, _, rfl⟩
    · split
      · obtain ⟨x, hx⟩ := y.pllAttempt_clk d p
        rw [hx]
        exact ⟨_, _, _, rfl⟩
      · exact ⟨_, _, _, rfl⟩

/-- At its boundary a set of a PLL that is no lane's becomes live, and only clocks change beside (R339). -/
theorem Sys.clkBoundary_due {p : Nat} (hp : p < 4) {y : Sys} {q : Pend} (hdue : y.duePend (Ob.ClkCommit p) y.now = [q]) :
    ∃ c cs ds, y.clkBoundary p = { y.applyDue (Ob.ClkCommit p) y.now with clk := c, chans := cs, dies := ds } := by
  unfold Sys.clkBoundary
  dsimp only
  rw [hdue, if_neg (List.cons_ne_nil q [])]
  split
  · refine Sys.each_invariant (I := fun x => ∃ c cs ds, x = { y.applyDue (Ob.ClkCommit p) y.now with clk := c, chans := cs, dies := ds })
      (fun d x h => ?_) ⟨_, _, _, rfl⟩
    obtain ⟨c, cs, ds, rfl⟩ := h
    obtain ⟨c', cs', ds', h⟩ := Sys.retune_small hp { y.applyDue (Ob.ClkCommit p) y.now with clk := c, chans := cs, dies := ds } d
    exact ⟨c', cs', ds', h⟩
  · exact ⟨_, _, _, rfl⟩

/-- An object of a PLL is not the state of its commit (R339). -/
theorem clkOwns_ne {p k : Nat} (hp : p < 4) (h : clkOwns p k = true) : k ≠ Ob.ClkCommit p + 1 := by
  have hlane : decide (4 ≤ p) = false := decide_eq_false (by omega)
  rw [clkOwns, hlane, Bool.false_and, Bool.or_false, Bool.and_eq_true, decide_eq_true_eq] at h
  simp only [Ob.ClkCommit]
  omega


/-! ### A new rate of the memory (R385) -/

/-- The memory of a die takes a new rate to its PLL's next lock (R385). -/
def Sys.memTurned (d : Nat) (y : Sys) : Sys :=
  let y := y.onDie d fun x => { x with dram := { x.dram with next := some (y.nat Ob.MemRate) } }
  let st := (y.pll d 2).st
  if st ∈ [0, 1, 4, 5, 7] then (y.pllBypass d 2 4).pllAttempt d 2 else y

/-- The DRAM PLL's bypass takes the memory along (R332). -/
theorem Sys.pllBypass_dram (y : Sys) (d st : Nat) : y.pllBypass d 2 st =
    (y.setPll d 2 ((y.pll d 2).bypassed st y.now (y.islandsOf d 2))).onDie d fun x => { x with dram := { x.dram with bypass := true } } := by
  rw [Sys.pllBypass_eq, Pll.bypassed, ← bypassFrom_getD]
  rfl

theorem Sys.pllAttempt_st {y : Sys} {d p : Nat} (h : (y.pll d p).st = 4) :
    ((y.pllAttempt d p).pll d p).st = 3 ∨ ((y.pllAttempt d p).pll d p).st = 4 := by
  unfold Sys.pllAttempt
  dsimp only
  split
  · rw [Sys.onPll_self]
    exact .inr rfl
  · split
    · rw [Sys.onPll_self]
      exact .inr rfl
    · rw [Sys.onPll_self, h]
      exact .inl rfl

theorem Sys.memTurned_eq (y : Sys) (d : Nat) : ∃ c ds, y.memTurned d = { y with clk := c, dies := ds } := by
  unfold Sys.memTurned
  dsimp only
  split
  · rw [Sys.pllBypass_dram]
    exact ⟨_, _, (Sys.pllAttempt_clk _ d 2).choose_spec⟩
  · exact ⟨_, _, rfl⟩

theorem Sys.memTurned_nat (y : Sys) (d k : Nat) : (y.memTurned d).nat k = y.nat k := by
  obtain ⟨c, ds, h⟩ := y.memTurned_eq d
  rw [h]
  rfl

theorem Sys.memTurned_self (y : Sys) (d : Nat) : ((y.memTurned d).die d).dram.next = some (y.nat Ob.MemRate) ∧
    (y.pllGood d 2 = true → ((y.memTurned d).die d).dram.bypass = true ∧ (((y.memTurned d).pll d 2).st = 3 ∨ ((y.memTurned d).pll d 2).st = 4)) := by
  unfold Sys.memTurned
  dsimp only
  rw [Sys.pllBypass_dram]
  generalize hz : (y.onDie d fun x => { x with dram := { x.dram with next := some (y.nat Ob.MemRate) } }) = z
  have hnext : (z.die d).dram.next = some (y.nat Ob.MemRate) := by rw [← hz, Sys.onDie_self]
  have hgood : z.pllGood d 2 = y.pllGood d 2 := by rw [← hz]; rfl
  split
  case isTrue =>
    generalize hw : Sys.onDie d (fun x => { x with dram := { x.dram with bypass := true } })
      (z.setPll d 2 ((z.pll d 2).bypassed 4 z.now (z.islandsOf d 2))) = w
    have hdram : (w.die d).dram = { (z.die d).dram with bypass := true } := by rw [← hw, Sys.onDie_self]; rfl
    have hst : (w.pll d 2).st = 4 := by rw [← hw, Sys.onDie_pll_read, Sys.setPll_self]; rfl
    obtain ⟨x, hx⟩ := w.pllAttempt_clk d 2
    have hdie : (w.pllAttempt d 2).die d = w.die d := by rw [hx]; rfl
    rw [hdie, hdram]
    exact ⟨hnext, fun _ => ⟨rfl, Sys.pllAttempt_st hst⟩⟩
  case isFalse hno =>
    refine ⟨hnext, fun h => absurd ?_ hno⟩
    rw [← hgood, Sys.pllGood, Bool.or_eq_true, beq_iff_eq, beq_iff_eq] at h
    rcases h with h | h <;> rw [h] <;> decide

theorem Sys.memTurned_other (y : Sys) {d e : Nat} (h : e ≠ d) :
    ((y.memTurned e).die d).dram = (y.die d).dram ∧ (y.memTurned e).pll d 2 = y.pll d 2 := by
  have hidx : 8 * d + 2 ≠ 8 * e + 2 := by omega
  unfold Sys.memTurned
  dsimp only
  rw [Sys.pllBypass_dram]
  split
  · obtain ⟨x, hx⟩ := (Sys.onDie e (fun x => { x with dram := { x.dram with bypass := true } }) (Sys.setPll e 2 _
      (y.onDie e fun x => { x with dram := { x.dram with next := some (y.nat Ob.MemRate) } }))).pllAttempt_clk e 2
    rw [hx, Sys.setPll_die_read, Sys.onDie_other _ _ _ _ h.symm, Sys.setPll_die_read, Sys.onDie_other _ _ _ _ h.symm,
      Sys.setPll_other _ _ _ _ _ _ hidx, Sys.onDie_pll_read, Sys.setPll_other _ _ _ _ _ _ hidx, Sys.onDie_pll_read]
    exact ⟨rfl, rfl⟩
  · rw [Sys.onDie_other _ _ _ _ h.symm]
    exact ⟨rfl, rfl⟩

/-- The memory's set is live, and the DRAM PLL selects its entry. -/
def Sys.memRated (y : Sys) : Sys :=
  (y.applyDue Ob.MemCommit y.now).setInt (Ob.ClkBandSelect 2) ((y.applyDue Ob.MemCommit y.now).nat Ob.MemPllEntry)

/-- A new rate goes to every die in use (R385). -/
theorem Sys.memBoundary_changes {y : Sys} {q : Pend} {v : Val} (hdue : y.duePend Ob.MemCommit y.now = [q]) (hset : q.set = [(Ob.MemRate, v)])
    (hnew : y.val Ob.MemRate ≠ v) :
    y.memBoundary = y.memRated.each (y.memRated.dieList.filter fun d => !(y.memRated.die d).mappedOut) Sys.memTurned := by
  have hchanges : ([q].any fun q => q.set.any fun e => e.2 != y.val e.1) = true := by
    simp only [List.any_cons, List.any_nil, Bool.or_false, hset, bne_iff_ne]
    exact Ne.symm hnew
  unfold Sys.memBoundary
  dsimp only
  rw [hdue, if_neg (List.cons_ne_nil q []), if_pos hchanges]
  rfl

/-- A new rate stands, its commit reads 0, and every die in use goes to it (R385). -/
theorem Sys.memBoundary_spec {y : Sys} {q : Pend} {r : Nat} (hdue : y.duePend Ob.MemCommit y.now = [q]) (hset : q.set = [(Ob.MemRate, .int r)])
    (hone : (y.pend.filter fun (o : Pend) => o.key == Ob.MemCommit) = [q]) (hnew : y.val Ob.MemRate ≠ .int r) :
    y.memBoundary.nat Ob.MemRate = r ∧ y.memBoundary.nat (Ob.MemCommit + 1) = 0 ∧
      ∀ d < y.part.dies, (y.die d).mappedOut = false → (y.memBoundary.die d).dram.next = some r ∧
        (y.pllGood d 2 = true → (y.memBoundary.die d).dram.bypass = true ∧
          ((y.memBoundary.pll d 2).st = 3 ∨ (y.memBoundary.pll d 2).st = 4)) := by
  obtain ⟨hval, hstate, -, -, -⟩ := Sys.applyDue_reads hdue hset hone (show Ob.MemRate ≠ Ob.MemCommit + 1 by decide)
  have heq := (Sys.applyDue_one hdue hset hone).2
  have hrate : y.memRated.nat Ob.MemRate = r := by
    rw [Sys.memRated, Sys.nat, Sys.setInt_other _ _ _ _ (by decide), hval]
    rfl
  have hcommit : y.memRated.nat (Ob.MemCommit + 1) = 0 := by
    rw [Sys.memRated, Sys.nat, Sys.setInt_other _ _ _ _ (by decide), ← Sys.nat, hstate]
  have hdie (d : Nat) : y.memRated.die d = y.die d := by
    rw [Sys.memRated, Sys.setInt_die_read, heq, Sys.setInt_die_read, Sys.setShadow_die_read, Sys.setVal_die_read]
    rfl
  have hpll (d : Nat) : y.memRated.pll d 2 = y.pll d 2 := by
    rw [Sys.memRated, Sys.setInt_pll_read, heq, Sys.setInt_pll_read, Sys.setShadow_pll_read, Sys.setVal_pll_read]
    rfl
  have hpart : y.memRated.part = y.part := by
    rw [Sys.memRated, Sys.setInt_part, heq, Sys.setInt_part, Sys.setShadow_part, Sys.setVal_part]
  have hkept (k : Nat) : y.memBoundary.nat k = y.memRated.nat k := by
    rw [Sys.memBoundary_changes hdue hset hnew]
    exact Sys.each_apart (g := fun x => x.nat k) fun e _ x => x.memTurned_nat e k
  refine ⟨(hkept _).trans hrate, (hkept _).trans hcommit, fun d hd hin => ?_⟩
  have hmem : d ∈ y.memRated.dieList.filter fun d => !(y.memRated.die d).mappedOut :=
    List.mem_filter.mpr ⟨List.mem_range.mpr (by rw [hpart]; exact hd), by rw [hdie, hin]; rfl⟩
  obtain ⟨w, hw, hold, hend⟩ := Sys.each_once (l := y.memRated.dieList.filter fun d => !(y.memRated.die d).mappedOut) (f := Sys.memTurned) (g := fun x => ((x.die d).dram, x.pll d 2))
    (I := fun x => x.nat Ob.MemRate = r) (List.nodup_range.filter _) hmem
    (fun e x hx => (x.memTurned_nat e _).trans hx)
    (fun e he x => Prod.ext (x.memTurned_other he).1 (x.memTurned_other he).2) hrate
  rw [← Sys.memBoundary_changes hdue hset hnew] at hend
  obtain ⟨-, holdpll⟩ := Prod.mk.inj hold
  obtain ⟨hdram, hendpll⟩ := Prod.mk.inj hend
  obtain ⟨hnext, hgood⟩ := w.memTurned_self d
  rw [hdram, hendpll]
  refine ⟨by rw [hnext, hw], fun h => hgood ?_⟩
  rw [Sys.pllGood, holdpll, hpll]
  exact h

/-- Settles O35: losses, attempts and switch-backs by the record they leave, boundaries by the set they apply. -/
theorem pllsAndClocks : Obligations.PllsAndClocks := by
  unfold Obligations.PllsAndClocks
  refine ⟨⟨fun dt d p s hp _ hst => ?_, fun dt d p r s hp _ href hst => ?_, fun dt d p t s ht hover hhere => ?_,
    fun dt d p r s hgone hst hnone => ?_, fun dt d p t s hst ht hlock => ⟨fun hin => ?_, fun hlate => ?_⟩,
    fun dt d p t s hst ht hheld => ?_⟩, fun dt d p i s hp hst hi => ?_, fun dt d i s hst hi _ hfree => ?_,
    fun dt p e d a b s hp hrun hnext hfails hhere => ?_, fun dt p e d a b s hrun hlast hqueue hfails hhere => ?_,
    fun dt p k v q s hp hdue hset hown hone => ?_, fun dt r q s hdue hset hone hnew => ?_⟩
  · obtain ⟨l, hl⟩ := Sys.pllLostNoted_raised (y := s.sys.elapse dt) (d := d) (p := p) (k := Ob.ClkLockLossCount p) 2 0x0301
    refine ⟨_, l, act_done (Sys.lockLost_counted (y := s.sys.elapse dt) hst), Sys.pllLostNoted_pll 2 0x0301, ?_, hl⟩
    have hk : Ob.ClkLockLossCount p = 0x380000 + 0x100 * p + 0x0C := by simp only [Ob.ClkLockLossCount]; omega
    exact Sys.pllLostNoted_count 2 0x0301 fun q => by rw [hk]; exact clockObject_apart (.inl rfl) q
  · obtain ⟨l, hl⟩ := Sys.pllLostNoted_raised (y := (s.sys.elapse dt).refGone d p r) (d := d) (p := p) (k := Ob.ClkRefLossCount p) 3 0x0302
    have hk : Ob.ClkRefLossCount p = 0x380000 + 0x100 * p + 0x0D := by simp only [Ob.ClkRefLossCount]; omega
    refine ⟨_, l, act_done (Sys.refLost_counted (y := s.sys.elapse dt) href hst), ?_, ?_, ?_, ?_, ?_, hl⟩
    · rw [Sys.pllLostNoted_pll]
      rfl
    · rw [Sys.pllLostNoted_pll, Sys.refGone, Sys.onPll_self]
      refine Bool.eq_false_iff.mpr fun h => ?_
      rw [List.contains_iff_mem] at h
      exact bne_iff_ne.mp (List.mem_filter.mp h).2 rfl
    · rw [Sys.pllLostNoted_pll]
      rfl
    · rw [Sys.pllLostNoted_pll]
      rfl
    · exact Sys.pllLostNoted_count 3 0x0302 fun q => by rw [hk]; exact clockObject_apart (.inr rfl) q
  · refine ⟨_, act_done ((Sys.settleOver_attempt (y := s.sys.elapse dt) ht hover).trans (Sys.pllAttempt_selected hhere)), rfl, rfl, ?_⟩
    rw [Sys.onPll_self]
    rfl
  · exact ⟨_, act_done rfl, rfl, Sys.refReturn_settles (y := s.sys.elapse dt) hgone hst hnone⟩
  · refine ⟨_, act_done (Sys.lockAchieved_due (y := s.sys.elapse dt) hst ht hlock hin), rfl, ?_⟩
    rw [Sys.onPll_self]
    rfl
  · obtain ⟨hlive, hfails⟩ := (s.sys.elapse dt).attemptFails_fails d p
    refine ⟨_, act_done (Sys.lockTimeout_due (y := s.sys.elapse dt) hst ht hlock hlate), hlive, hfails, fun hmany => ?_, fun hfew hhere => ?_⟩
    · have height : 8 ≤ ((s.sys.elapse dt).pll d p).fails + 1 := Nat.succ_le_succ hmany
      rw [Sys.attemptFails_eq, if_pos height, Sys.raise_pll_read, Sys.onPll_self, Sys.attemptFailed_pll]
      exact ⟨rfl, rfl, rfl⟩
    · have hless : ¬8 ≤ ((s.sys.elapse dt).pll d p).fails + 1 := by
        have hfew' : ((s.sys.elapse dt).pll d p).fails < 7 := hfew
        omega
      have hsel : (((s.sys.elapse dt).attemptFailed d p).pll d p).refs.contains
          (((s.sys.elapse dt).attemptFailed d p).nat (Ob.ClkRefSel p)) = true := by
        rw [Sys.attemptFailed_pll]
        exact hhere
      rw [Sys.attemptFails_eq, if_neg hless, Sys.pllAttempt_selected hsel, Sys.onPll_self]
      exact ⟨rfl, rfl, rfl⟩
  · refine ⟨_, act_done (Sys.lockConfirmed_due (y := s.sys.elapse dt) hst ht hheld), ?_, ?_, rfl⟩
    · rw [Sys.raise_pll_read, Sys.bump_pll_read, Sys.onPll_self]
      rfl
    · rw [Sys.raise_nat_read, Sys.bump_nat]
      rfl
  · obtain ⟨hlive, hpll, hev⟩ := Sys.islandBack_last (y := s.sys.elapse dt) hp hst hi
    refine ⟨_, (exec_islandSwitchBack dt d p i s).trans (act_done (if_neg (show ¬p = 2 by omega))), hlive, ?_, hev⟩
    rw [hpll]
    rfl
  · obtain ⟨hlive, hpll⟩ := Sys.islandBack_pipe (y := s.sys.elapse dt) hst hi hfree
    exact ⟨_, (exec_islandSwitchBack dt d 1 i s).trans (act_done (if_neg (show ¬1 = 2 by decide))), hlive, hpll⟩
  · refine ⟨_, act_done (Sys.calDone_next (y := s.sys.elapse dt) (a := a) (b := b) hrun hhere hnext), ?_⟩
    obtain ⟨hcal, hkept, hst, hnextst, hlive, hevs⟩ := Sys.calMoved_bypass hp ((s.sys.elapse dt).calNoted p e d a b) d (some (p, e, d + 1)) e
    exact ⟨hcal.trans Sys.calNoted_cal, hkept, (congrArg Pll.st hst).trans (Sys.calNoted_st (y := s.sys.elapse dt) hfails), hnextst, hlive, hevs⟩
  · exact ⟨_, act_done rfl, Sys.calDone_over (y := s.sys.elapse dt) hrun hfails hhere hlast hqueue⟩
  · obtain ⟨c, cs, ds, h⟩ := Sys.clkBoundary_due hp (y := s.sys.elapse dt) hdue
    exact ⟨_, act_done h, Sys.applyDue_reads (y := s.sys.elapse dt) hdue hset hone (clkOwns_ne hp hown)⟩
  · exact ⟨_, act_done rfl, Sys.memBoundary_spec (y := s.sys.elapse dt) hdue hset hone hnew⟩


end Sys2Proof.Machine

/-! PROOFS. Time bases: servo samples, masters and holdover, maps and steps (11; R302, R307 to R316, R321, R322). -/

namespace Sys2Proof.Machine

/-! ### What work on a time base leaves alone -/

/-- `y` is `z` after work on time base `b`: other bases, the time, the Sync that waits and the objects but the count of refused jumps stand. -/
structure Sys.ServoWork (b : Nat) (z y : Sys) : Prop where
  other : ∀ c, c ≠ b → y.tb c = z.tb c
  now : y.now = z.now
  part : y.part = z.part
  lastSync : (y.tb b).lastSync = (z.tb b).lastSync
  syncWait : (y.tb b).syncWait = (z.tb b).syncWait
  val : ∀ k, k ≠ Ob.TbJumpsRefused b → y.val k = z.val k

namespace Sys.ServoWork
variable {b : Nat} {x y z : Sys}

theorem refl (z : Sys) : ServoWork b z z := ⟨fun _ _ => rfl, rfl, rfl, rfl, rfl, fun _ _ => rfl⟩

theorem trans (h : ServoWork b x y) (h' : ServoWork b y z) : ServoWork b x z :=
  ⟨fun c hc => (h'.other c hc).trans (h.other c hc), h'.now.trans h.now, h'.part.trans h.part, h'.lastSync.trans h.lastSync,
    h'.syncWait.trans h.syncWait, fun k hk => (h'.val k hk).trans (h.val k hk)⟩

theorem onTb (y : Sys) {f : Tb → Tb} (hlast : ∀ t, (f t).lastSync = t.lastSync) (hwait : ∀ t, (f t).syncWait = t.syncWait) :
    ServoWork b y (y.onTb b f) :=
  ⟨fun c hc => Sys.onTb_other _ _ _ _ hc, rfl, rfl, by rw [Sys.onTb_self, hlast], by rw [Sys.onTb_self, hwait], fun _ _ => rfl⟩

theorem raise (y : Sys) (c d a : Nat) : ServoWork b y (y.raise c d a) := ⟨fun _ _ => rfl, rfl, rfl, rfl, rfl, fun _ _ => rfl⟩

theorem fresh (y : Sys) : ServoWork b y y.fresh := ⟨fun _ _ => rfl, rfl, rfl, rfl, rfl, fun _ _ => rfl⟩

theorem refused (y : Sys) : ServoWork b y (y.bump (Ob.TbJumpsRefused b) 1) :=
  ⟨fun _ _ => rfl, rfl, rfl, rfl, rfl, fun _ hk => Sys.bump_other _ _ _ _ hk⟩

theorem hist (y : Sys) : ServoWork b y (y.tbHist b) := by
  refine onTb y ?_ ?_ <;> exact fun _ => rfl

theorem slew (y : Sys) (off : Int) : ServoWork b y (y.tbSlew b off) := by
  unfold Sys.tbSlew
  refine onTb y ?_ ?_ <;> exact fun _ => rfl

theorem carry (y : Sys) (delta : Int) : ServoWork b y (y.carryExchange b delta) := by
  have hmap : ServoWork b y (y.onTb b fun t => { t with sm := t.sm.map fun d => d - delta }) := by
    refine onTb y ?_ ?_ <;> exact fun _ => rfl
  exact hmap.trans ⟨fun _ _ => rfl, rfl, rfl, rfl, rfl, fun _ _ => rfl⟩

theorem lock (y : Sys) : ServoWork b y (y.tbLock b) := by
  have hset : ServoWork b y (y.onTb b fun t => { t with st := 1, everLocked := true, judging := false, window := [], histAt := y.now }) := by
    refine onTb y ?_ ?_ <;> exact fun _ => rfl
  unfold Sys.tbLock
  dsimp only
  split
  · exact hset
  · exact hset.trans (raise _ _ _ _)

theorem judge (y : Sys) (off : Int) : ServoWork b y (y.tbJudge b off) := by
  have hset : ServoWork b y (y.onTb b fun t => { t with judged := some off, judging := false, window := [] }) := by
    refine onTb y ?_ ?_ <;> exact fun _ => rfl
  unfold Sys.tbJudge
  dsimp only
  split
  · exact hset.trans (lock _)
  · split
    · refine ((hset.trans (onTb _ ?_ ?_)).trans (carry _ _)).trans (lock _) <;> exact fun _ => rfl
    · refine ((((hset.trans (hist _)).trans (onTb _ ?_ ?_)).trans (slew _ off)).trans (refused _)).trans (raise _ _ _ _) <;> exact fun _ => rfl

theorem servo (y : Sys) (off : Int) : ServoWork b y (y.tbServo b off) := by
  unfold Sys.tbServo
  refine ((hist y).trans (onTb _ ?_ ?_)).trans (fresh _) <;> exact fun _ => rfl

theorem accepted (y : Sys) (off : Int) : ServoWork b y (y.tbAccepted b off) := by
  have hwindow (w : List Int) : ServoWork b y (y.onTb b fun t => { t with window := w }) := by
    refine onTb y ?_ ?_ <;> exact fun _ => rfl
  have hlocked (w : List Int) : ServoWork b y (if 8 ≤ w.length then y.tbJudge b (median w) else (y.onTb b fun t => { t with window := w }).tbServo b off) := by
    split
    · exact judge y _
    · exact (hwindow w).trans (servo _ off)
  unfold Sys.tbAccepted
  dsimp only
  split
  · split
    · exact hwindow _
    · exact judge y _
  · split
    · exact hlocked _
    · split
      · split
        · exact lock y
        · exact slew y off
      · exact refl y

end Sys.ServoWork

/-! ### Samples (R307) -/

/-- A sample that the delay filter keeps is noted (R307). -/
def Sys.sampleNoted (b : Nat) (ms sm : Int) (y : Sys) : Sys :=
  let y := (y.onTb b fun t => { t with delays := ((ms + sm) / 2 :: t.delays).take 16 }).onTb b fun t => { t with lastSync := y.now }
  ((y.bump (Ob.TbSyncRx b) 1).setInt (Ob.TbOffset b) ((ms - sm) / 2)).setInt (Ob.TbMeanPathDelay b) (max ((ms + sm) / 2) 0)

theorem Sys.tbSample_kept {y : Sys} {b : Nat} {ms sm : Int} (hsm : (y.tb b).sm = some sm)
    (hkeep : (y.tb b).delays = [] ∨ (ms + sm) / 2 ≤ median (y.tb b).delays + usU 1) :
    y.tbSample b ms = (y.sampleNoted b ms sm).tbAccepted b ((ms - sm) / 2) := by
  have hno : ¬((y.tb b).delays ≠ [] ∧ median (y.tb b).delays + usU 1 < (ms + sm) / 2) := by
    rintro ⟨hne, hlt⟩
    exact hkeep.elim hne fun h => absurd hlt (not_lt.mpr h)
  unfold Sys.tbSample
  dsimp only
  rw [hsm]
  exact if_neg hno

/-- What a base's samples may change among the objects. -/
def sampleKey (b k : Nat) : Prop := k = Ob.TbJumpsRefused b ∨ k = Ob.TbSyncRx b ∨ k = Ob.TbOffset b ∨ k = Ob.TbMeanPathDelay b

/-- `y` is `z` but for base `b` and the objects its samples may change, as far as samples of other bases read. -/
def Sys.SampleOnly (b : Nat) (z y : Sys) : Prop :=
  (∀ c, c ≠ b → y.tb c = z.tb c) ∧ y.now = z.now ∧ y.part = z.part ∧ ∀ k, ¬sampleKey b k → y.val k = z.val k

theorem Sys.sampleNoted_other {y : Sys} {b : Nat} {ms sm : Int} : Sys.SampleOnly b y (y.sampleNoted b ms sm) := by
  refine ⟨fun c hc => ?_, ?_, ?_, fun k hk => ?_⟩
  · rw [Sys.sampleNoted, Sys.setInt_tb_read, Sys.setInt_tb_read, Sys.bump_tb_read, Sys.onTb_other _ _ _ _ hc, Sys.onTb_other _ _ _ _ hc]
  · rw [Sys.sampleNoted, Sys.setInt_now, Sys.setInt_now, Sys.bump_now]
    rfl
  · rw [Sys.sampleNoted, Sys.setInt_part, Sys.setInt_part, Sys.bump_part]
    rfl
  · simp only [sampleKey, not_or] at hk
    obtain ⟨-, hrx, hoff, hdelay⟩ := hk
    rw [Sys.sampleNoted, Sys.setInt_other _ _ _ _ hdelay, Sys.setInt_other _ _ _ _ hoff, Sys.bump_other _ _ _ _ hrx]
    rfl

/-- A sample of one base leaves other bases, the time, and the objects that are not its own (R307). -/
theorem Sys.tbSample_other (y : Sys) (b : Nat) (ms : Int) : Sys.SampleOnly b y (y.tbSample b ms) := by
  cases hsm : (y.tb b).sm with
  | none =>
    have h : y.tbSample b ms = y := by
      unfold Sys.tbSample
      dsimp only
      rw [hsm]
    rw [h]
    exact ⟨fun _ _ => rfl, rfl, rfl, fun _ _ => rfl⟩
  | some sm =>
    by_cases hkeep : (y.tb b).delays = [] ∨ (ms + sm) / 2 ≤ median (y.tb b).delays + usU 1
    · obtain ⟨htb, hnow, hpart, hval⟩ := Sys.sampleNoted_other (y := y) (b := b) (ms := ms) (sm := sm)
      have hw := Sys.ServoWork.accepted (b := b) (y.sampleNoted b ms sm) ((ms - sm) / 2)
      rw [Sys.tbSample_kept hsm hkeep]
      exact ⟨fun c hc => (hw.other c hc).trans (htb c hc), hw.now.trans hnow, hw.part.trans hpart, fun k hk =>
        (hw.val k fun h => hk (.inl h)).trans (hval k hk)⟩
    · have hfar : (y.tb b).delays ≠ [] ∧ median (y.tb b).delays + usU 1 < (ms + sm) / 2 :=
        ⟨fun h => hkeep (.inl h), not_le.mp fun h => hkeep (.inr h)⟩
      have h : y.tbSample b ms = y.onTb b fun t => { t with delays := ((ms + sm) / 2 :: t.delays).take 16 } := by
        unfold Sys.tbSample
        dsimp only
        rw [hsm]
        exact if_pos hfar
      rw [h]
      exact ⟨fun c hc => Sys.onTb_other _ _ _ _ hc, rfl, rfl, fun _ _ => rfl⟩

theorem tbKeys_ne (b : Nat) : Ob.TbOffset b ≠ Ob.TbMeanPathDelay b ∧ Ob.TbSyncRx b ≠ Ob.TbMeanPathDelay b ∧ Ob.TbSyncRx b ≠ Ob.TbOffset b ∧
    Ob.TbOffset b ≠ Ob.TbJumpsRefused b ∧ Ob.TbMeanPathDelay b ≠ Ob.TbJumpsRefused b ∧ Ob.TbSyncRx b ≠ Ob.TbJumpsRefused b := by
  simp only [Ob.TbOffset, Ob.TbMeanPathDelay, Ob.TbSyncRx, Ob.TbJumpsRefused]
  omega

/-- What a kept sample shows on its base (R307). -/
theorem Sys.tbSample_self {y : Sys} {b : Nat} {ms sm : Int} (hsm : (y.tb b).sm = some sm)
    (hkeep : (y.tb b).delays = [] ∨ (ms + sm) / 2 ≤ median (y.tb b).delays + usU 1) :
    (y.tbSample b ms).int (Ob.TbOffset b) = (ms - sm) / 2 ∧ (y.tbSample b ms).int (Ob.TbMeanPathDelay b) = max ((ms + sm) / 2) 0 ∧
      ((y.tbSample b ms).tb b).lastSync = y.now ∧ ((y.tbSample b ms).tb b).syncWait = (y.tb b).syncWait ∧
      (y.tbSample b ms).nat (Ob.TbSyncRx b) = (y.nat (Ob.TbSyncRx b) + 1) % wrapOf y.part.dies (Ob.TbSyncRx b) := by
  obtain ⟨hod, hsd, hso, hoj, hdj, hsj⟩ := tbKeys_ne b
  have hw := Sys.ServoWork.accepted (b := b) (y.sampleNoted b ms sm) ((ms - sm) / 2)
  rw [Sys.tbSample_kept hsm hkeep]
  refine ⟨?_, ?_, ?_, ?_, ?_⟩
  · rw [Sys.int, hw.val _ hoj, Sys.sampleNoted, Sys.setInt_other _ _ _ _ hod, ← Sys.int, Sys.setInt_self]
  · rw [Sys.int, hw.val _ hdj, Sys.sampleNoted, ← Sys.int, Sys.setInt_self]
  · rw [hw.lastSync, Sys.sampleNoted, Sys.setInt_tb_read, Sys.setInt_tb_read, Sys.bump_tb_read, Sys.onTb_self]
  · rw [hw.syncWait, Sys.sampleNoted, Sys.setInt_tb_read, Sys.setInt_tb_read, Sys.bump_tb_read, Sys.onTb_self, Sys.onTb_self]
  · rw [Sys.nat, hw.val _ hsj, Sys.sampleNoted, Sys.setInt_other _ _ _ _ hsd, Sys.setInt_other _ _ _ _ hso, ← Sys.nat, Sys.bump_nat]
    rfl

theorem Sys.sampleOnly_refl (b : Nat) (y : Sys) : Sys.SampleOnly b y y := ⟨fun _ _ => rfl, rfl, rfl, fun _ _ => rfl⟩

theorem Sys.sampleOnly_onTb (b : Nat) (f : Tb → Tb) (y : Sys) : Sys.SampleOnly b y (y.onTb b f) :=
  ⟨fun _ hc => Sys.onTb_other _ _ _ _ hc, rfl, rfl, fun _ _ => rfl⟩

theorem Sys.SampleOnly.trans {b : Nat} {x y z : Sys} (h : Sys.SampleOnly b x y) (h' : Sys.SampleOnly b y z) : Sys.SampleOnly b x z := by
  obtain ⟨htb, hnow, hpart, hval⟩ := h
  obtain ⟨htb', hnow', hpart', hval'⟩ := h'
  exact ⟨fun c hc => (htb' c hc).trans (htb c hc), hnow'.trans hnow, hpart'.trans hpart, fun k hk => (hval' k hk).trans (hval k hk)⟩

/-- The objects that samples of different bases may change differ. -/
theorem sampleKey_other {b c k : Nat} (h : c ≠ b) (hk : sampleKey b k) : ¬sampleKey c k := by
  simp only [sampleKey, Ob.TbOffset, Ob.TbMeanPathDelay, Ob.TbSyncRx, Ob.TbJumpsRefused] at hk ⊢
  omega

/-- Work on each base of a list of different bases: what one of them and its objects read is as its own work leaves it. -/
theorem Sys.each_sampled {f : Nat → Sys → Sys} {l : List Nat} {b : Nat} (hnd : l.Nodup) (hb : b ∈ l) (hf : ∀ c x, Sys.SampleOnly c x (f c x))
    (y : Sys) : ∃ w, w.now = y.now ∧ w.part = y.part ∧ w.tb b = y.tb b ∧ w.val (Ob.TbSyncRx b) = y.val (Ob.TbSyncRx b) ∧
      (y.each l f).tb b = (f b w).tb b ∧ ∀ k, sampleKey b k → (y.each l f).val k = (f b w).val k := by
  obtain ⟨w, ⟨hnow, hpart⟩, hold, hend⟩ := Sys.each_once (f := f) (I := fun x => x.now = y.now ∧ x.part = y.part)
    (g := fun x => (x.tb b, fun (k : { k // sampleKey b k }) => x.val k)) hnd hb
    (fun c x h => ⟨(hf c x).2.1.trans h.1, (hf c x).2.2.1.trans h.2⟩)
    (fun c hc x => Prod.ext ((hf c x).1 b (Ne.symm hc)) (funext fun k => (hf c x).2.2.2 k (sampleKey_other hc k.2))) ⟨rfl, rfl⟩
  obtain ⟨htb, hval⟩ := Prod.mk.inj hold
  obtain ⟨htb', hval'⟩ := Prod.mk.inj hend
  exact ⟨w, hnow, hpart, htb, congrFun hval ⟨Ob.TbSyncRx b, .inr (.inl rfl)⟩, htb', fun k hk => congrFun hval' ⟨k, hk⟩⟩

theorem Sys.tbFrom_nodup (y : Sys) (m : PtpMsg) : (y.tbFrom m).Nodup := List.nodup_range.filter _

/-- A Sync's sender is noted (R307). -/
def Sys.syncFrom (m : PtpMsg) (b : Nat) (y : Sys) : Sys := y.onTb b fun t => { t with masterMac := m.srcMac, masterIp := m.srcIp }

/-- A one-step Sync of one base (R307). -/
def Sys.syncOne (m : PtpMsg) (b : Nat) (y : Sys) : Sys :=
  (y.syncFrom m b).tbSample b (((y.syncFrom m b).tb b).map.read (y.syncFrom m b).now - m.time - m.corr)

/-- A two-step Sync of one base waits (R307). -/
def Sys.syncTwo (m : PtpMsg) (b : Nat) (y : Sys) : Sys := (y.syncFrom m b).onTb b fun t => { t with syncWait := some (m, (y.syncFrom m b).now) }

theorem Sys.sync_one (m : PtpMsg) (y : Sys) : y.sync m false = y.each (y.tbFrom m) (Sys.syncOne m) := rfl

theorem Sys.sync_two (m : PtpMsg) (y : Sys) : y.sync m true = y.each (y.tbFrom m) (Sys.syncTwo m) := rfl

theorem Sys.syncOne_only (m : PtpMsg) (b : Nat) (y : Sys) : Sys.SampleOnly b y (y.syncOne m b) :=
  (Sys.sampleOnly_onTb b _ y).trans (Sys.tbSample_other _ b _)

/-- The follow-up of one base's Sync (R307). -/
def Sys.followOne (m : PtpMsg) (b : Nat) (y : Sys) : Sys :=
  match (y.tb b).syncWait with
  | some (s, at_) =>
    if s.seq = m.seq ∧ s.port = m.port then
      let y := y.onTb b fun t => { t with syncWait := none }
      y.tbSample b ((y.tb b).map.read at_ - m.time - s.corr - m.corr)
    else y
  | none => y

theorem Sys.followUp_eq (m : PtpMsg) (y : Sys) : y.followUp m = y.each (y.tbFrom m) (Sys.followOne m) := rfl

theorem Sys.followOne_only (m : PtpMsg) (b : Nat) (y : Sys) : Sys.SampleOnly b y (y.followOne m b) := by
  unfold Sys.followOne
  split
  · split
    · exact (Sys.sampleOnly_onTb b _ y).trans (Sys.tbSample_other _ b _)
    · exact Sys.sampleOnly_refl b y
  · exact Sys.sampleOnly_refl b y

/-- A one-step Sync from a base's master gives it a sample (R307). -/
theorem Sys.sync_sampled {y : Sys} {m : PtpMsg} {b : Nat} {ms sm : Int} (hb : b ∈ y.tbFrom m) (hsm : (y.tb b).sm = some sm)
    (hms : ms = (y.tb b).map.read y.now - m.time - m.corr)
    (hkeep : (y.tb b).delays = [] ∨ (ms + sm) / 2 ≤ median (y.tb b).delays + usU 1) :
    (y.sync m false).int (Ob.TbOffset b) = (ms - sm) / 2 ∧ (y.sync m false).int (Ob.TbMeanPathDelay b) = max ((ms + sm) / 2) 0 ∧
      ((y.sync m false).tb b).lastSync = y.now ∧
      (y.sync m false).nat (Ob.TbSyncRx b) = (y.nat (Ob.TbSyncRx b) + 1) % wrapOf y.part.dies (Ob.TbSyncRx b) ∧
      ∀ c, c ∉ y.tbFrom m → (y.sync m false).tb c = y.tb c := by
  rw [Sys.sync_one]
  obtain ⟨w, hnow, hpart, htb, hrx, hend, hval⟩ := Sys.each_sampled (y.tbFrom_nodup m) hb (Sys.syncOne_only m) y
  have hself : (w.syncFrom m b).tb b = { y.tb b with masterMac := m.srcMac, masterIp := m.srcIp } := by
    rw [Sys.syncFrom, Sys.onTb_self, htb]
  have hone : w.syncOne m b = (w.syncFrom m b).tbSample b ms := by
    have hw : (w.syncFrom m b).now = y.now := hnow
    rw [Sys.syncOne, hself, hw, hms]
  obtain ⟨hoff, hdelay, hlast, -, hcount⟩ := Sys.tbSample_self (y := w.syncFrom m b) (b := b) (ms := ms) (sm := sm)
    (by rw [hself]; exact hsm) (by rw [hself]; exact hkeep)
  refine ⟨?_, ?_, ?_, ?_, fun c hc => ?_⟩
  · rw [Sys.int, hval _ (.inr (.inr (.inl rfl))), hone]
    exact hoff
  · rw [Sys.int, hval _ (.inr (.inr (.inr rfl))), hone]
    exact hdelay
  · rw [hend, hone, hlast]
    exact hnow
  · rw [Sys.nat, hval _ (.inr (.inl rfl)), hone]
    refine hcount.trans ?_
    rw [show (w.syncFrom m b).part = y.part from hpart, show (w.syncFrom m b).nat (Ob.TbSyncRx b) = y.nat (Ob.TbSyncRx b) from congrArg Val.nat hrx]
  · exact Sys.each_apart (g := fun x => x.tb c) fun d hd x => (Sys.syncOne_only m d x).1 c fun h => hc (h ▸ hd)

/-- A two-step Sync from a base's master waits for its follow-up (R307). -/
theorem Sys.sync_waits {y : Sys} {m : PtpMsg} {b : Nat} (hb : b ∈ y.tbFrom m) :
    (y.sync m true).tb b = { y.tb b with masterMac := m.srcMac, masterIp := m.srcIp, syncWait := some (m, y.now) } ∧
      (y.sync m true).live = y.live ∧ (y.sync m true).evs = y.evs := by
  rw [Sys.sync_two]
  have honly (c : Nat) (x : Sys) : Sys.SampleOnly c x (x.syncTwo m c) := (Sys.sampleOnly_onTb c _ x).trans (Sys.sampleOnly_onTb c _ _)
  obtain ⟨w, hnow, -, htb, -, hend, -⟩ := Sys.each_sampled (y.tbFrom_nodup m) hb honly y
  refine ⟨?_, Sys.each_apart (g := (·.live)) fun _ _ _ => rfl, Sys.each_apart (g := (·.evs)) fun _ _ _ => rfl⟩
  have hw : (w.syncFrom m b).now = y.now := hnow
  rw [hend, Sys.syncTwo, hw, Sys.onTb_self, Sys.syncFrom, Sys.onTb_self, htb]

/-- The follow-up of a two-step Sync gives its sample (R307). -/
theorem Sys.followUp_sampled {y : Sys} {m a : PtpMsg} {b at_ : Nat} {ms sm : Int} (hb : b ∈ y.tbFrom m) (hwait : (y.tb b).syncWait = some (a, at_))
    (hseq : a.seq = m.seq) (hport : a.port = m.port) (hsm : (y.tb b).sm = some sm) (hms : ms = (y.tb b).map.read at_ - m.time - a.corr - m.corr)
    (hkeep : (y.tb b).delays = [] ∨ (ms + sm) / 2 ≤ median (y.tb b).delays + usU 1) :
    (y.followUp m).int (Ob.TbOffset b) = (ms - sm) / 2 ∧ (y.followUp m).int (Ob.TbMeanPathDelay b) = max ((ms + sm) / 2) 0 ∧
      ((y.followUp m).tb b).syncWait = none ∧ ((y.followUp m).tb b).lastSync = y.now := by
  rw [Sys.followUp_eq]
  obtain ⟨w, hnow, -, htb, -, hend, hval⟩ := Sys.each_sampled (y.tbFrom_nodup m) hb (Sys.followOne_only m) y
  have hself : (w.onTb b fun t => { t with syncWait := none }).tb b = { y.tb b with syncWait := none } := by
    rw [Sys.onTb_self, htb]
  have hone : w.followOne m b = (w.onTb b fun t => { t with syncWait := none }).tbSample b ms := by
    unfold Sys.followOne
    rw [htb, hwait]
    dsimp only
    rw [if_pos ⟨hseq, hport⟩, hself, hms]
  obtain ⟨hoff, hdelay, hlast, hnone, -⟩ := Sys.tbSample_self (y := w.onTb b fun t => { t with syncWait := none }) (b := b) (ms := ms) (sm := sm)
    (by rw [hself]; exact hsm) (by rw [hself]; exact hkeep)
  refine ⟨?_, ?_, ?_, ?_⟩
  · rw [Sys.int, hval _ (.inr (.inr (.inl rfl))), hone]
    exact hoff
  · rw [Sys.int, hval _ (.inr (.inr (.inr rfl))), hone]
    exact hdelay
  · rw [hend, hone, hnone, hself]
  · rw [hend, hone, hlast]
    exact hnow

/-! ### Masters and holdover (R307, R311) -/

/-- A base that holds over (R311). -/
theorem Sys.tbHoldover_spec {y : Sys} {b : Nat} (hst : (y.tb b).st = 1 ∨ (y.tb b).st = 3) : ∃ f,
    ((y.tbHoldover b).tb b).master = (y.tb b).master ∧ ((y.tbHoldover b).tb b).st = 2 ∧ ((y.tbHoldover b).tb b).judging = true ∧
      ((y.tbHoldover b).tb b).nextPpb = some f ∧ (y.tbHoldover b).live = y.live ∧
      (y.tbHoldover b).evs.raised = y.evs.raised ++ [{ code := 0x0402, die := 0, arg := b, t := y.now }] := by
  unfold Sys.tbHoldover
  dsimp only
  rw [if_pos hst, Sys.raise_tb_read, Sys.onTb_self, Sys.raise_live, Sys.raise_raised, Sys.tbHist, Sys.onTb_self]
  exact ⟨_, rfl, rfl, rfl, rfl, rfl, rfl⟩

theorem Sys.tbHoldover_foreigns (y : Sys) (b : Nat) : ((y.tbHoldover b).tb b).foreigns = (y.tb b).foreigns := by
  unfold Sys.tbHoldover
  dsimp only
  split
  · rw [Sys.raise_tb_read, Sys.onTb_self, Sys.tbHist, Sys.onTb_self]
  · rfl

theorem Sys.tbHoldover_other (y : Sys) {b c : Nat} (h : c ≠ b) : (y.tbHoldover b).tb c = y.tb c := by
  unfold Sys.tbHoldover
  dsimp only
  split
  · rw [Sys.raise_tb_read, Sys.onTb_other _ _ _ _ h, Sys.tbHist, Sys.onTb_other _ _ _ _ h]
  · rfl


/-- `y` is `z` after base `b` chose among its masters: the masters it knows, other bases and the time stand. -/
structure Sys.MasterChosen (b : Nat) (z y : Sys) : Prop where
  foreigns : (y.tb b).foreigns = (z.tb b).foreigns
  other : ∀ c, c ≠ b → y.tb c = z.tb c
  now : y.now = z.now

namespace Sys.MasterChosen
variable {b : Nat} {x y z : Sys}

theorem refl (z : Sys) : MasterChosen b z z := ⟨rfl, fun _ _ => rfl, rfl⟩

theorem trans (h : MasterChosen b x y) (h' : MasterChosen b y z) : MasterChosen b x z :=
  ⟨h'.foreigns.trans h.foreigns, fun c hc => (h'.other c hc).trans (h.other c hc), h'.now.trans h.now⟩

theorem onTb (y : Sys) {f : Tb → Tb} (hf : ∀ t, (f t).foreigns = t.foreigns) : MasterChosen b y (y.onTb b f) :=
  ⟨by rw [Sys.onTb_self, hf], fun _ hc => Sys.onTb_other _ _ _ _ hc, rfl⟩

theorem setInt (y : Sys) (k : Nat) (i : Int) : MasterChosen b y (y.setInt k i) := ⟨rfl, fun _ _ => rfl, rfl⟩

theorem setBytes (y : Sys) (k : Nat) (v : List Byte) : MasterChosen b y (y.setBytes k v) := ⟨rfl, fun _ _ => rfl, rfl⟩

theorem raise (y : Sys) (c d a : Nat) : MasterChosen b y (y.raise c d a) := ⟨rfl, fun _ _ => rfl, rfl⟩

theorem holdover (y : Sys) : MasterChosen b y (y.tbHoldover b) := ⟨y.tbHoldover_foreigns b, fun _ hc => y.tbHoldover_other hc, by
  obtain ⟨j, r, h⟩ := y.tbHoldover_timeOnly b
  rw [h]⟩

theorem choose (y : Sys) : MasterChosen b y (y.chooseMaster b) := by
  unfold Sys.chooseMaster
  split
  · refine (onTb y ?_).trans (holdover _)
    exact fun _ => rfl
  · dsimp only
    split
    · exact setInt y _ _
    · have hid (u : Int) (f : Nat × Nat) : MasterChosen b y ((y.setInt (Ob.TbUtcOffset b) u).onTb b fun t => { t with master := some f }) := by
        refine (setInt y _ _).trans (onTb _ ?_)
        exact fun _ => rfl
      split
      · split
        · refine (((hid _ _).trans (onTb _ ?_)).trans (setBytes _ _ _)).trans (setInt _ _ _)
          exact fun _ => rfl
        · refine ((((hid _ _).trans (onTb _ ?_)).trans (setBytes _ _ _)).trans (setInt _ _ _)).trans (raise _ _ _ _)
          exact fun _ => rfl
      · exact hid _ _

end Sys.MasterChosen

/-- Whether a foreign master is the sender of an Announce (R307). -/
def announcedBy (m : AnnounceMsg) (f : Foreign) : Bool := f.ds.clock == m.clock && f.ds.portNum == m.portNum && f.ds.port == m.port

/-- When a base heard the sender of an Announce before. -/
def Sys.heardBefore (y : Sys) (m : AnnounceMsg) (b : Nat) : List Nat :=
  match (y.tb b).foreigns.find? (announcedBy m) with
  | some f => f.heard
  | none => []

/-- A base notes an Announce with the masters it knows (R307). -/
def Sys.announceNoted (m : AnnounceMsg) (b : Nat) (y : Sys) : Sys :=
  y.onTb b fun t => { t with foreigns := { ds := m, heard := (y.now :: y.heardBefore m b).take 16 } :: t.foreigns.filter fun f => !announcedBy m f }

/-- What an Announce of the site carries is kept (R307). -/
def Sys.tlvKept (m : AnnounceMsg) (b : Nat) (y : Sys) : Sys :=
  match m.smTlv with
  | some v => y.setBytes (Ob.TbSmTlv b) (v.take 64)
  | none => y

/-- An Announce on one base (R307, R312). -/
def Sys.announceOne (m : AnnounceMsg) (b : Nat) (y : Sys) : Sys := ((y.announceNoted m b).tlvKept m b).chooseMaster b

theorem Sys.announce_eq (m : AnnounceMsg) (y : Sys) : y.announce m =
    y.each ((List.range 8).filter fun b => y.portUp m.port && y.tbHears b m.port m.domain) (Sys.announceOne m) := rfl

theorem Sys.tlvKept_chosen (m : AnnounceMsg) (b : Nat) (y : Sys) : Sys.MasterChosen b y (y.tlvKept m b) := by
  unfold Sys.tlvKept
  split
  · exact .setBytes y _ _
  · exact .refl y

theorem Sys.announceOne_chosen (m : AnnounceMsg) (b : Nat) (y : Sys) : Sys.MasterChosen b (y.announceNoted m b) (y.announceOne m b) :=
  (Sys.tlvKept_chosen m b _).trans (.choose _)

/-- What a base knows of masters after an Announce it hears (R307). -/
theorem Sys.announce_foreigns {y : Sys} {m : AnnounceMsg} {b : Nat} (hb : b < 8) (hup : y.portUp m.port = true)
    (hhears : y.tbHears b m.port m.domain = true) : ∃ h, ((y.announce m).tb b).foreigns =
      { ds := m, heard := (y.now :: h).take 16 } :: (y.tb b).foreigns.filter fun f => !announcedBy m f := by
  have hmem : b ∈ (List.range 8).filter fun b => y.portUp m.port && y.tbHears b m.port m.domain :=
    List.mem_filter.mpr ⟨List.mem_range.mpr hb, by rw [hup, hhears, Bool.and_self]⟩
  obtain ⟨w, hw, hold, hend⟩ := Sys.each_once (f := Sys.announceOne m) (I := fun x => x.now = y.now) (g := fun x => (x.tb b).foreigns)
    (List.nodup_range.filter _) hmem (fun c x h => (Sys.announceOne_chosen m c x).now.trans h)
    (fun c hc x => congrArg Tb.foreigns (((Sys.announceOne_chosen m c x).other b hc.symm).trans (Sys.onTb_other _ _ _ _ hc.symm))) rfl
  refine ⟨w.heardBefore m b, ?_⟩
  rw [Sys.announce_eq, hend, (Sys.announceOne_chosen m b w).foreigns, Sys.announceNoted, Sys.onTb_self, hw, ← hold]

/-- Settles O37: an Announce by what its base knows then, the two timeouts by the holdover they begin. -/
theorem mastersAndHoldover : Obligations.MastersAndHoldover := by
  unfold Obligations.MastersAndHoldover
  refine ⟨fun dt b m s hb hup hhears => ?_, fun dt b s hmode hnone hst => ?_, fun dt b s hlate hst => ?_⟩
  · obtain ⟨h, hf⟩ := Sys.announce_foreigns (y := s.sys.elapse dt) hb hup hhears
    refine ⟨_, { ds := m, heard := ((s.sys.elapse dt).now :: h).take 16 }, act_done rfl, ?_, rfl, rfl, fun g hg hother => ?_⟩
    · rw [hf]
      exact List.mem_cons_self
    · have hnot : announcedBy m g = false :=
        Bool.eq_false_iff.mpr fun hsame => hother (by simpa only [announcedBy, Bool.and_eq_true, beq_iff_eq, and_assoc] using hsame)
      rw [hf]
      exact List.mem_cons_of_mem _ (List.mem_filter.mpr ⟨hg, by rw [hnot]; rfl⟩)
  · have hchoose : (s.sys.elapse dt).announceTimeout b = ((s.sys.elapse dt).onTb b fun t => { t with master := none }).tbHoldover b := by
      have hno : (s.sys.elapse dt).chooseMaster b = ((s.sys.elapse dt).onTb b fun t => { t with master := none }).tbHoldover b := by
        unfold Sys.chooseMaster
        rw [hnone]
      exact (if_pos hmode).trans hno
    have hst' : (((s.sys.elapse dt).onTb b fun t => { t with master := none }).tb b).st = 1 ∨
        (((s.sys.elapse dt).onTb b fun t => { t with master := none }).tb b).st = 3 := by
      rw [Sys.onTb_self]
      exact hst
    obtain ⟨f, hmaster, htwo, hjudging, hppb, hlive, hev⟩ := Sys.tbHoldover_spec hst'
    rw [Sys.onTb_self] at hmaster
    exact ⟨_, f, act_done hchoose, hmaster, htwo, hjudging, hppb, hlive, hev⟩
  · obtain ⟨f, hmaster, htwo, -, -, hlive, hev⟩ := Sys.tbHoldover_spec (y := s.sys.elapse dt) (b := b) hst
    exact ⟨_, act_done (if_pos hlate), htwo, hmaster, hlive, hev⟩

/-! ### Maps and steps (R302, R314 to R316) -/

/-- A map goes on from now without a jump (R302). -/
theorem TbMap.rebase_read (m : TbMap) (now ppb : Int) : (m.rebase now ppb).read now = m.read now := by
  simp [TbMap.rebase, TbMap.read]

theorem Sys.mapChange_due {y : Sys} {b : Nat} {f : Int} (h : (y.tb b).nextPpb = some f) : y.mapChange b = y.onTb b fun t =>
    { t with map := t.map.rebase y.now f, old := t.old.map fun m => m.rebase y.now f, nextPpb := none } := by
  unfold Sys.mapChange
  rw [h]

/-- Whether a consumer is a port. -/
def isPort : Consumer → Bool
  | .port _ => true
  | _ => false

/-- A base at a step (R314). -/
def Sys.stepped (b : Nat) (delta : Int) (y : Sys) : Sys :=
  y.onTb b fun t =>
    { t with old := some t.map, map := { t.map with value := t.map.value + delta }, step := none,
             waiting := (y.consumers b).filter fun w => !isPort w,
             st := if t.st = 3 then 2 else t.st, nextPpb := if t.st = 3 then some (y.holdFreq b) else t.nextPpb, judging := true, window := [] }

theorem Sys.stepInstant_due {y : Sys} {b : Nat} {x delta : Int} (hstep : (y.tb b).step = some (x, delta)) (hdue : atOrAfter (y.tbNow b) x = true) :
    y.stepInstant b = (((y.stepped b delta).carryExchange b delta).bump (Ob.TbStepsApplied b) 1).raise 0x0404 0 b := by
  have hport : (fun w => match w with
      | Consumer.port _ => false
      | _ => true) = fun (w : Consumer) => !isPort w := funext fun w => by cases w <;> rfl
  unfold Sys.stepInstant Sys.stepped
  rw [hstep, ← hport]
  exact if_pos hdue

/-- A base after a step: exchanges in hand move along (R314, R318). -/
theorem Sys.stepInstant_tb {y : Sys} {b : Nat} {x delta : Int} (hstep : (y.tb b).step = some (x, delta)) (hdue : atOrAfter (y.tbNow b) x = true) :
    (y.stepInstant b).tb b = { (y.stepped b delta).tb b with sm := ((y.stepped b delta).tb b).sm.map fun d => d - delta } := by
  rw [Sys.stepInstant_due hstep hdue, Sys.raise_tb_read, Sys.bump_tb_read]
  have hcarry : ((y.stepped b delta).carryExchange b delta).tb b =
      ((y.stepped b delta).onTb b fun t => { t with sm := t.sm.map fun d => d - delta }).tb b := rfl
  rw [hcarry, Sys.onTb_self]

theorem isPort_iff (c : Consumer) : isPort c = false ↔ ∀ p, c ≠ .port p := by
  cases c <;> simp [isPort]


/-- Packets held in the old view change ports alone (R318). -/
theorem Sys.holdPackets_apart (who : Consumer) (y : Sys) :
    (fun x : Sys => (x.chans, x.jas, x.live)) (y.holdPackets who) = (y.chans, y.jas, y.live) := by
  unfold Sys.holdPackets
  refine (Sys.each_apart (g := fun x : Sys => (x.chans, x.jas, x.live)) fun p _ x => ?_).trans rfl
  split <;> rfl

theorem Sys.holdPackets_chans (who : Consumer) (y : Sys) : (y.holdPackets who).chans = y.chans := congrArg Prod.fst (y.holdPackets_apart who)

theorem Sys.holdPackets_jas (who : Consumer) (y : Sys) : (y.holdPackets who).jas = y.jas :=
  congrArg (fun g => g.2.1) (y.holdPackets_apart who)

theorem Sys.holdPackets_live (who : Consumer) (y : Sys) : (y.holdPackets who).live = y.live :=
  congrArg (fun g => g.2.2) (y.holdPackets_apart who)

/-- The state of a channel on the stepped base (R316, R317). -/
structure Chan.Switched (c w : Chan) (k d : Int) : Prop where
  nextK : w.nextK = k
  refK : w.refK = k
  ageShift : w.ageShift = d
  frames : ∀ fr ∈ w.frames, fr.old = true

/-- A channel without a context moves onto the stepped base by itself. -/
theorem Sys.switchChan_switched (y : Sys) (n : Nat) (d : Int) :
    ∃ w, (y.chan n).Switched w (firstFrom (y.fig n).rn (y.fig n).rd ((y.fig n).boundary (y.chan n).nextK + d)) d ∧
      (y.switchChan n d).chans = (y.setChan n w).chans ∧ (y.switchChan n d).jas = y.jas ∧ (y.switchChan n d).live = y.live := by
  unfold Sys.switchChan
  refine ⟨_, ⟨?nextK, ?refK, ?ageShift, ?frames⟩, (Sys.holdPackets_chans ..).trans rfl, (Sys.holdPackets_jas ..).trans rfl,
    (Sys.holdPackets_live ..).trans rfl⟩
  case frames =>
    intro fr hfr
    obtain ⟨old, -, rfl⟩ := List.mem_map.mp hfr
    rfl
  all_goals rfl

theorem Sys.stepSwitch_chan {y : Sys} {n b : Nat} (hcons : (List.range 8).find? (fun b => (y.tb b).old.isSome && (y.tb b).waiting.contains (.ch n)) = some b)
    (hdue : atOrAfter (y.frameNow n false) ((y.fig n).boundary (y.chan n).nextK) = true) (hcx : (y.chan n).cx = none) :
    y.stepSwitch (.ch n) = (y.switchChan n (y.stepDelta b)).switchView b (.ch n) := by
  unfold Sys.stepSwitch
  rw [hcons]
  dsimp only
  rw [if_pos hdue, hcx]

theorem Sys.ppsOut_near {y : Sys} (hon : y.flag Ob.PpsOutEnable = true)
    (hnear : y.tbNow (y.nat Ob.PpsOutBase) % secU 1 ≤ nsU 10 ∨ (secU 1 : Int) - nsU 10 ≤ y.tbNow (y.nat Ob.PpsOutBase) % secU 1) :
    y.ppsOut = { y with jas := { y.jas with ppsFall := some (y.now + msU (y.nat Ob.PpsOutWidth)) } }.emit (.pps true) := if_pos ⟨hon, hnear⟩

/-- Settles O38: a map goes on from its reading, a step shifts it, a channel follows at its boundary. -/
theorem mapsAndSteps : Obligations.MapsAndSteps := by
  unfold Obligations.MapsAndSteps
  refine ⟨fun dt b f s hf => ?map, fun dt b x delta s hstep hdue => ?step, fun dt n b y s hy hcons hdue hcx => ?point,
    fun dt r s hr hon hnear => ?out, fun dt s => ?pin⟩
  case map =>
    refine ⟨_, act_done (Sys.mapChange_due (y := s.sys.elapse dt) hf), ?_⟩
    rw [Sys.onTb_self]
    exact ⟨TbMap.rebase_read .., rfl, rfl, rfl, rfl⟩
  case step =>
    have htb := Sys.stepInstant_tb (y := s.sys.elapse dt) hstep hdue
    have hself : ((s.sys.elapse dt).stepped b delta).tb b = _ := Sys.onTb_self ..
    refine ⟨_, act_done rfl, ?_⟩
    rw [htb, hself]
    refine ⟨fun u => ?_, rfl, rfl, fun c => ?_, rfl, fun hslew => if_pos hslew, ?_, ?_⟩
    · simp only [TbMap.read, Int.add_right_comm]
      rfl
    · dsimp only
      rw [List.mem_filter, Bool.not_eq_true', isPort_iff]
      rfl
    · rw [Sys.stepInstant_due (y := s.sys.elapse dt) hstep hdue, Sys.raise_nat_read, Sys.bump_nat]
      rfl
    · rw [Sys.stepInstant_due (y := s.sys.elapse dt) hstep hdue, Sys.raise_raised, Sys.bump_evs]
      rfl
  case point =>
    obtain ⟨w, hw, hchans, hjas, hlive⟩ := y.switchChan_switched n (y.stepDelta b)
    subst hy
    refine ⟨_, act_done (Sys.stepSwitch_chan hcons hdue hcx), ?_⟩
    have hchan : ∀ m, (((s.sys.elapse dt).switchChan n ((s.sys.elapse dt).stepDelta b)).switchView b (.ch n)).chan m =
        ((s.sys.elapse dt).setChan n w).chan m := fun m => congrArg (fun t => Tab.find _ t m) hchans
    have htb : ∀ c, ((s.sys.elapse dt).switchChan n ((s.sys.elapse dt).stepDelta b)).tb c = (s.sys.elapse dt).tb c :=
      fun c => congrArg (fun j : Jas => Tab.find _ j.tbs c) hjas
    refine ⟨?_, ?_, ?_, ?_, ?_, fun m hm => ?_, hlive⟩
    · rw [Sys.switchView, Sys.onTb_self, htb]
    · rw [hchan, Sys.setChan_self, hw.nextK]
    · rw [hchan, Sys.setChan_self, hw.nextK, hw.refK]
    · rw [hchan, Sys.setChan_self, hw.ageShift]
    · rw [hchan, Sys.setChan_self]
      exact hw.frames
    · rw [hchan, Sys.setChan_other _ _ _ _ hm]
  case out =>
    subst hr
    exact act_done (Sys.ppsOut_near (y := s.sys.elapse dt) hon hnear)
  case pin =>
    exact ⟨_, act_done rfl, rfl, Sys.bump_nat .., fun k hk => Sys.bump_other _ _ _ _ hk⟩

end Sys2Proof.Machine

/-! PROOFS. What a port sends next (10; R271 to R288, R303): what each part of a send leaves alone, and the packet that goes. -/

namespace Sys2Proof.Machine

/-! ### What the parts of a send leave alone -/

/-- From `y` to `z` nothing was sent, no port has changed, and of the live values at most objects whose number ends in a byte of `ls`. -/
structure Sys.OffWire (ls : List Nat) (y z : Sys) : Prop where
  part : z.part = y.part
  now : z.now = y.now
  out : z.out = y.out
  ports : z.net.ports = y.net.ports
  val : ∀ k, k % 256 ∉ ls → z.val k = y.val k

namespace Sys.OffWire

variable {ls : List Nat} {x y z : Sys}

theorem refl (y : Sys) : y.OffWire ls y := ⟨rfl, rfl, rfl, rfl, fun _ _ => rfl⟩

theorem trans (h : x.OffWire ls y) (k : y.OffWire ls z) : x.OffWire ls z :=
  ⟨k.part.trans h.part, k.now.trans h.now, k.out.trans h.out, k.ports.trans h.ports, fun j hj => (k.val j hj).trans (h.val j hj)⟩

theorem mono {ms : List Nat} (h : x.OffWire ls y) (hsub : ls ⊆ ms) : x.OffWire ms y :=
  ⟨h.part, h.now, h.out, h.ports, fun j hj => h.val j fun hin => hj (hsub hin)⟩

theorem nat (h : x.OffWire ls y) {k : Nat} (hk : k % 256 ∉ ls) : y.nat k = x.nat k := congrArg Val.nat (h.val k hk)

theorem port (h : x.OffWire ls y) (p : Nat) : y.port p = x.port p := congrArg (fun t => Tab.find _ t p) h.ports

/-- Parts of the state that no send reads may change. -/
theorem same (h : x.OffWire ls y) (hpart : z.part = y.part) (hnow : z.now = y.now) (hout : z.out = y.out) (hports : z.net.ports = y.net.ports)
    (hlive : z.live = y.live) : x.OffWire ls z :=
  h.trans ⟨hpart, hnow, hout, hports, fun k _ => by simp only [Sys.val, hpart, hlive]⟩

theorem bump {k n : Nat} (h : x.OffWire ls y) (hk : k % 256 ∈ ls) : x.OffWire ls (y.bump k n) :=
  h.trans ⟨rfl, rfl, rfl, rfl, fun _ hj => Sys.bump_other _ _ _ _ fun heq => hj (heq ▸ hk)⟩

theorem raise {c d a : Nat} (h : x.OffWire ls y) : x.OffWire ls (y.raise c d a) := h.same rfl rfl rfl rfl rfl

theorem raiseLimited {c k d a : Nat} (h : x.OffWire ls y) : x.OffWire ls (y.raiseLimited c k d a) :=
  h.same (Sys.raiseLimited_part ..) (Sys.raiseLimited_now ..) (Sys.raiseLimited_out ..) (by rw [Sys.raiseLimited_net]) (Sys.raiseLimited_live ..)

theorem mapQueues {f : Queue → Queue} (h : x.OffWire ls y) : x.OffWire ls (y.mapQueues f) := h.same rfl rfl rfl rfl rfl

theorem enterWheel {p : Nat} {c : Option Nat} {t : Int} (h : x.OffWire ls y) : x.OffWire ls (y.enterWheel p c t) := h.same rfl rfl rfl rfl rfl

theorem each {α : Type} {f : α → Sys → Sys} (hf : ∀ a y, x.OffWire ls y → x.OffWire ls (f a y)) (l : List α) (h : x.OffWire ls y) :
    x.OffWire ls (y.each l f) := Sys.each_invariant (I := fun w => x.OffWire ls w) hf h

/-- The comparison of a launch with its slot counts misses (R68). -/
theorem slotCheck {p : Nat} {k : Pkt} (h : x.OffWire [8] y) : x.OffWire [8] (y.slotCheck p k) := by
  unfold Sys.slotCheck
  split
  · split
    · exact h
    · exact (h.bump (by simp only [Ob.ChSlotMissCount, List.mem_singleton]; omega)).raise
  · exact h

/-- The retransmission store is the channel's (R261). -/
theorem storePkt {p : Nat} {k : Pkt} (h : x.OffWire ls y) : x.OffWire ls (y.storePkt p k) := by
  refine h.trans ?_
  unfold Sys.storePkt
  split
  · dsimp only
    split
    · exact refl y
    · cases (y.die (portDie p)).dram.bypass
      · exact (refl y).same rfl rfl rfl rfl rfl
      · split <;> exact (refl y).same rfl rfl rfl rfl rfl
  · exact refl y

/-- Frames that never fit are counted as they go (R288). -/
theorem headTests {p : Nat} (h : x.OffWire [4] y) : x.OffWire [4] (y.headTests p) := by
  unfold Sys.headTests
  dsimp only
  split
  · exact h
  · exact each (fun _ _ h => h.raiseLimited) _ (h.mapQueues.bump (by simp only [Ob.PortGateDiscard, List.mem_singleton]; omega))

/-- A stamp is kept with the clocks, and one that is lost is counted (R304, R306). -/
theorem stampPtp {p b seq : Nat} (h : x.OffWire [2, 3] y) : x.OffWire [2, 3] (y.stampPtp p b seq) := by
  have hexp : x.OffWire [2, 3] (y.tsqExpiry p) := by
    have hset : x.OffWire [2, 3] (y.setTsq p ((y.tsq p).filter fun e => decide (y.now < e.t + secU 1))) := h.same rfl rfl rfl rfl rfl
    exact hset.bump (by simp only [Ob.TsqExpired, List.mem_cons, List.not_mem_nil]; omega)
  unfold Sys.stampPtp
  dsimp only
  split
  · have hset : x.OffWire [2, 3] { y.tsqExpiry p with
        jas := { (y.tsqExpiry p).jas with ovf := Tab.put (fun _ => false) (y.tsqExpiry p).jas.ovf p true } } := hexp.same rfl rfl rfl rfl rfl
    exact (hset.bump (by simp only [Ob.TsqOverflow, List.mem_cons, List.not_mem_nil]; omega)).raiseLimited
  · exact hexp.same rfl rfl rfl rfl rfl

/-- The rate of a port is of its mode, so that a frame takes as long as before. -/
theorem wireTime (h : x.OffWire ls y) (hmode : 48 ∉ ls) (henable : 49 ∉ ls) (p bytes : Nat) : y.wireTime p bytes = x.wireTime p bytes := by
  have hm : y.nat (Ob.PortMode p) = x.nat (Ob.PortMode p) :=
    h.nat (by rwa [show Ob.PortMode p % 256 = 48 by simp only [Ob.PortMode]; omega])
  have he : y.portEnabled p = x.portEnabled p := by
    have hnat := h.nat (k := Ob.PortEnable p) (by rwa [show Ob.PortEnable p % 256 = 49 by simp only [Ob.PortEnable]; omega])
    unfold Sys.portEnabled Sys.flag
    rw [hnat]
  simp only [Sys.wireTime, Sys.byteTime, Sys.portRate, hm, he, h.port p]

end Sys.OffWire

theorem Sys.slotCheck_net (p : Nat) (k : Pkt) (y : Sys) : (y.slotCheck p k).net = y.net := by
  unfold Sys.slotCheck
  split
  · split <;> rfl
  · rfl

theorem Sys.storePkt_net (p : Nat) (k : Pkt) (y : Sys) : (y.storePkt p k).net = y.net := by
  unfold Sys.storePkt
  split
  · dsimp only
    split
    · rfl
    · cases (y.die (portDie p)).dram.bypass
      · rfl
      · split <;> rfl
  · rfl

theorem Sys.stampPtp_net (p b seq : Nat) (y : Sys) : (y.stampPtp p b seq).net = y.net := by
  unfold Sys.stampPtp
  dsimp only
  split
  · rw [Sys.raiseLimited_net]
    rfl
  · rfl

/-! ### A frame on the wire (R271, R275) -/

/-- A frame occupies the wire and is counted; what a Delay_Req adds is its stamp (R303). -/
def Sys.wired (p : Nat) (k : Pkt) (y : Sys) : Sys :=
  ((y.onPort p fun x => { x with wireFree := y.now + y.wireTime p k.bytes }).bump (Ob.PortTxFrames p) 1).emit (.packet p k)

theorem Sys.startFrame_offWire (p : Nat) (k : Pkt) (y : Sys) : (y.wired p k).OffWire [2, 3] (y.startFrame p k) := by
  unfold Sys.startFrame
  dsimp only
  split
  · exact (OffWire.refl (y.wired p k)).stampPtp
  · exact OffWire.refl _

theorem Sys.startFrame_net (p : Nat) (k : Pkt) (y : Sys) : (y.startFrame p k).net = (y.wired p k).net := by
  unfold Sys.startFrame
  dsimp only
  split
  · exact Sys.stampPtp_net ..
  · rfl

/-- What is on the wire after a frame has started, of the state it started in. -/
structure Sys.Started (p : Nat) (k : Pkt) (y z : Sys) : Prop where
  out : z.out = y.out ++ [.packet p k]
  port : z.port p = { y.port p with wireFree := y.now + y.wireTime p k.bytes }
  queues : z.net.queues = y.net.queues
  sent : z.nat (Ob.PortTxFrames p) = (y.nat (Ob.PortTxFrames p) + 1) % wrapOf y.part.dies (Ob.PortTxFrames p)
  val : ∀ j, j % 256 ∉ [1, 2, 3] → z.val j = y.val j

theorem Sys.startFrame_started (p : Nat) (k : Pkt) (y : Sys) : y.Started p k (y.startFrame p k) := by
  have hoff := y.startFrame_offWire p k
  have hport : (y.wired p k).port p = (y.onPort p fun x => { x with wireFree := y.now + y.wireTime p k.bytes }).port p := rfl
  have hsent : Ob.PortTxFrames p % 256 ∉ [2, 3] := by
    simp only [Ob.PortTxFrames, List.mem_cons, List.not_mem_nil, or_false, not_or]
    omega
  refine ⟨hoff.out, ?port, ?queues, ?sent, fun j hj => ?val⟩
  case port => rw [hoff.port, hport, Sys.onPort_self]
  case queues =>
    rw [Sys.startFrame_net]
    rfl
  case sent =>
    rw [hoff.nat hsent, Sys.wired, Sys.emit_nat_read, Sys.bump_nat]
    rfl
  case val =>
    simp only [List.mem_cons, List.not_mem_nil, or_false, not_or] at hj
    rw [hoff.val j (by simp only [List.mem_cons, List.not_mem_nil, or_false, not_or]; exact hj.2), Sys.wired, Sys.emit_val_read,
      Sys.bump_other _ _ _ _ fun heq => hj.1 (by rw [heq, Ob.PortTxFrames]; omega)]
    rfl

/-- A change of a port that leaves its mode alone leaves its rate alone. -/
theorem Sys.wireTime_onPort {f : Port → Port} (hmode : ∀ x, (f x).mode = x.mode) (y : Sys) (p bytes : Nat) :
    (y.onPort p f).wireTime p bytes = y.wireTime p bytes := by
  unfold Sys.wireTime Sys.byteTime Sys.portRate
  rw [Sys.onPort_self, hmode]
  rfl

/-! ### A timed packet goes (R275) -/

theorem Sys.unreserve_wireTime (p : Nat) (k : Pkt) (bytes : Nat) (y : Sys) : (y.unreserve p k).wireTime p bytes = y.wireTime p bytes :=
  Sys.wireTime_onPort (f := fun x => { x with timed := x.timed.erase k }) (fun _ => rfl) y p bytes

/-- A timed packet starts after its reservation went: what was counted on the way is no frame. -/
theorem Sys.startTimed_split (p : Nat) (k : Pkt) (y : Sys) :
    ∃ z, (y.unreserve p k).OffWire [2, 8] z ∧ z.net = (y.unreserve p k).net ∧ y.startTimed p k = z.startFrame p k := by
  have hslot : (y.unreserve p k).OffWire [2, 8] ((y.unreserve p k).slotCheck p k) :=
    (OffWire.slotCheck (OffWire.refl _)).mono (by decide)
  have hnet := (y.unreserve p k).slotCheck_net p k
  unfold Sys.startTimed
  dsimp only
  by_cases hlate : decide (y.launchWhen k + nsU 8 < y.now) = true
  · rw [if_pos hlate]
    refine ⟨_, (OffWire.raiseLimited (hslot.bump ?_)).storePkt, ?_, rfl⟩
    · simp only [Ob.PortTimedCollide, List.mem_cons, List.not_mem_nil]
      omega
    · rw [Sys.storePkt_net, Sys.raiseLimited_net, Sys.bump_net, hnet]
  · rw [if_neg hlate]
    exact ⟨_, hslot.storePkt, (Sys.storePkt_net ..).trans hnet, rfl⟩

/-- What a timed packet that starts leaves: its frame on the wire and its reservation gone. -/
theorem Sys.startTimed_sent (p : Nat) (k : Pkt) (y : Sys) :
    (y.startTimed p k).out = y.out ++ [.packet p k] ∧
      (y.startTimed p k).port p = { y.port p with wireFree := y.now + y.wireTime p k.bytes, timed := (y.port p).timed.erase k } ∧
      (y.startTimed p k).net.queues = y.net.queues ∧
      (y.startTimed p k).nat (Ob.PortTxFrames p) = (y.nat (Ob.PortTxFrames p) + 1) % wrapOf y.part.dies (Ob.PortTxFrames p) := by
  obtain ⟨z, hz, hnet, heq⟩ := y.startTimed_split p k
  have hstart := z.startFrame_started p k
  have hwire : z.wireTime p k.bytes = y.wireTime p k.bytes := (hz.wireTime (by decide) (by decide) p _).trans (y.unreserve_wireTime p k _)
  have hcount : z.nat (Ob.PortTxFrames p) = y.nat (Ob.PortTxFrames p) :=
    hz.nat (by simp only [Ob.PortTxFrames, List.mem_cons, List.not_mem_nil, or_false, not_or]; omega)
  rw [heq]
  refine ⟨?_, ?_, ?_, ?_⟩
  · rw [hstart.out, hz.out]
    rfl
  · rw [hstart.port, hz.port, Sys.unreserve, Sys.onPort_self, hz.now, hwire]
    rfl
  · rw [hstart.queues, hnet]
    rfl
  · rw [hstart.sent, hcount, hz.part]
    rfl

/-- A timed packet whose port is down goes from its reservation and is counted (R277). -/
theorem Sys.dropTimed_dropped (p : Nat) (k : Pkt) (y : Sys) :
    (y.dropTimed p k).out = y.out ∧ (y.dropTimed p k).port p = { y.port p with timed := (y.port p).timed.erase k } ∧
      (y.dropTimed p k).nat (Ob.PortDownDrop p) = (y.nat (Ob.PortDownDrop p) + 1) % wrapOf y.part.dies (Ob.PortDownDrop p) := by
  have hz : (y.unreserve p k).OffWire [8] (((y.unreserve p k).slotCheck p k).storePkt p k) := (OffWire.slotCheck (OffWire.refl _)).storePkt
  refine ⟨hz.out, ?_, ?_⟩
  · exact (hz.port p).trans (Sys.onPort_self ..)
  · unfold Sys.dropTimed
    rw [Sys.bump_nat, hz.part, hz.nat (by simp only [Ob.PortDownDrop, List.mem_singleton]; omega)]
    rfl

/-! ### The head of an untimed queue goes (R279, R281) -/

/-- A class after its head of so many counted bits has gone. -/
def Sys.headCharged (p c : Nat) (w : Waiting) (y : Sys) : Cls :=
  let x := { y.cls p c with v := max (y.cls p c).v w.f }
  if x.shaped y.now then { x with tokens := x.count y.now - ((y.counted p w.pkt.bytes * 65536 : Nat) : Int), at_ := y.now } else x

/-- The head taken off its queue, and charged to its class. -/
def Sys.headTaken (p c : Nat) (q : Queue) (w : Waiting) (y : Sys) : Sys :=
  (y.setCls p c (y.headCharged p c w)).onQueue q.die q.num fun q => { q with pkts := q.pkts.drop 1 }

theorem Sys.headCharged_v (p c : Nat) (w : Waiting) (y : Sys) : (y.headCharged p c w).v = max (y.cls p c).v w.f := by
  unfold Sys.headCharged
  dsimp only
  split <;> rfl

theorem Sys.headCharged_tokens {p c : Nat} {y : Sys} (h : (y.cls p c).shaped y.now = true) (w : Waiting) :
    (y.headCharged p c w).tokens = (y.cls p c).count y.now - (y.counted p w.pkt.bytes * 65536 : Nat) :=
  congrArg Cls.tokens (if_pos h)

theorem Sys.headTaken_port (p c : Nat) (q : Queue) (w : Waiting) (y : Sys) :
    (y.headTaken p c q w).port p = { y.port p with classes := Tab.put (fun _ => {}) (y.port p).classes c (y.headCharged p c w) } :=
  Sys.onPort_self y p fun o => { o with classes := Tab.put (fun _ => {}) o.classes c (y.headCharged p c w) }

theorem Sys.headTaken_wireTime (p c : Nat) (q : Queue) (w : Waiting) (bytes : Nat) (y : Sys) :
    (y.headTaken p c q w).wireTime p bytes = y.wireTime p bytes :=
  Sys.wireTime_onPort (f := fun o => { o with classes := Tab.put (fun _ => {}) o.classes c (y.headCharged p c w) }) (fun _ => rfl) y p bytes

theorem Sys.headTests_jas (p : Nat) (y : Sys) : (y.headTests p).jas = y.jas := by
  unfold Sys.headTests
  dsimp only
  split
  · rfl
  · exact (Sys.each_apart (g := Sys.jas) fun _ _ _ => Sys.raiseLimited_jas ..).trans rfl

/-- A resend is counted where its packet leaves (R264). -/
def Sys.resendCounted (q : Queue) (y : Sys) : Sys :=
  match q.owner with
  | .ch n => if q.kind = 2 then y.bump (Ob.RtxSent n) 1 else y
  | _ => y

theorem Sys.resendCounted_offWire (q : Queue) (y : Sys) : y.OffWire [9] (y.resendCounted q) := by
  unfold Sys.resendCounted
  split
  · split
    · exact (OffWire.refl y).bump (by simp only [Ob.RtxSent, List.mem_singleton]; omega)
    · exact OffWire.refl y
  · exact OffWire.refl y

theorem Sys.resendCounted_jas (q : Queue) (y : Sys) : (y.resendCounted q).jas = y.jas := by
  unfold Sys.resendCounted
  split
  · split <;> rfl
  · rfl

theorem Sys.resendCounted_ch {q : Queue} {m : Nat} (howner : q.owner = .ch m) (hkind : q.kind = 2) (y : Sys) :
    y.resendCounted q = y.bump (Ob.RtxSent m) 1 := by
  unfold Sys.resendCounted
  rw [howner]
  exact if_pos hkind

/-- A head that goes starts a frame on a state with the head taken, a class in debt on the wheel, and its resend counted. -/
theorem Sys.sendHead_split (p c : Nat) (q : Queue) (w : Waiting) (y : Sys) :
    ∃ u, (y.headTaken p c q w).OffWire [] u ∧ u.jas = y.jas ∧ u.chans = y.chans ∧ y.sendHead p c q w = ((u.resendCounted q).headTests p).startFrame p w.pkt := by
  by_cases hdebt : (y.headCharged p c w).shaped y.now = true ∧ (y.headCharged p c w).tokens < 0
  · refine ⟨(y.headTaken p c q w).enterWheel p (some c) (y.headCharged p c w).eligible, (OffWire.refl _).enterWheel, rfl, rfl, ?_⟩
    exact congrArg (fun u => ((Sys.resendCounted q u).headTests p).startFrame p w.pkt) (if_pos hdebt)
  · refine ⟨y.headTaken p c q w, OffWire.refl _, rfl, rfl, ?_⟩
    exact congrArg (fun u => ((Sys.resendCounted q u).headTests p).startFrame p w.pkt) (if_neg hdebt)

/-- What a head that goes leaves behind. -/
structure Sys.HeadSent (p c : Nat) (q : Queue) (w : Waiting) (y z : Sys) : Prop where
  out : z.out = y.out ++ [.packet p w.pkt]
  port : z.port p = { y.port p with wireFree := y.now + y.wireTime p w.pkt.bytes
                                    classes := Tab.put (fun _ => {}) (y.port p).classes c (y.headCharged p c w) }
  sent : z.nat (Ob.PortTxFrames p) = (y.nat (Ob.PortTxFrames p) + 1) % wrapOf y.part.dies (Ob.PortTxFrames p)
  resent : ∀ m, q.owner = .ch m → q.kind = 2 → z.nat (Ob.RtxSent m) = (y.nat (Ob.RtxSent m) + 1) % wrapOf y.part.dies (Ob.RtxSent m)

theorem Sys.sendHead_sent (p c : Nat) (q : Queue) (w : Waiting) (y : Sys) : y.HeadSent p c q w (y.sendHead p c q w) := by
  obtain ⟨u, hu, -, -, heq⟩ := y.sendHead_split p c q w
  have htests : (u.resendCounted q).OffWire [4] ((u.resendCounted q).headTests p) := (OffWire.refl _).headTests
  have hz : (y.headTaken p c q w).OffWire [4, 9] ((u.resendCounted q).headTests p) :=
    ((hu.mono (by decide)).trans ((u.resendCounted_offWire q).mono (by decide))).trans (htests.mono (by decide))
  have hstart := ((u.resendCounted q).headTests p).startFrame_started p w.pkt
  have hwire : ((u.resendCounted q).headTests p).wireTime p w.pkt.bytes = y.wireTime p w.pkt.bytes :=
    (hz.wireTime (by decide) (by decide) p _).trans (y.headTaken_wireTime p c q w _)
  rw [heq]
  refine ⟨?_, ?_, ?_, fun m howner hkind => ?_⟩
  · rw [hstart.out, hz.out]
    rfl
  · rw [hstart.port, hz.port, Sys.headTaken_port, hz.now, hwire]
    rfl
  · rw [hstart.sent, hz.part, hz.nat (by simp only [Ob.PortTxFrames, List.mem_cons, List.not_mem_nil, or_false, not_or]; omega)]
    rfl
  · have hval := hstart.val (Ob.RtxSent m) (by simp only [Ob.RtxSent, List.mem_cons, List.not_mem_nil, or_false, not_or]; omega)
    rw [show Sys.nat _ _ = _ from congrArg Val.nat hval]
    have hkeep := htests.nat (k := Ob.RtxSent m) (by simp only [Ob.RtxSent, List.mem_singleton]; omega)
    refine hkeep.trans ?_
    rw [Sys.resendCounted_ch howner hkind, Sys.bump_nat, hu.nat List.not_mem_nil, hu.part]
    rfl

/-! ### The choice (R272) -/

/-- Entries that have served are no class's debt, so that their going changes no choice. -/
theorem Sys.wheelServed_inDebt (p q c : Nat) (y : Sys) : (y.wheelServed p).inDebt q c = y.inDebt q c := by
  unfold Sys.inDebt
  rw [Bool.eq_iff_iff, List.any_eq_true, List.any_eq_true]
  constructor
  · rintro ⟨o, ho, hdebt⟩
    exact ⟨o, (List.mem_filter.mp ho).1, hdebt⟩
  · rintro ⟨o, ho, hdebt⟩
    refine ⟨o, List.mem_filter.mpr ⟨ho, ?_⟩, hdebt⟩
    have hwait : (y.now : Int) < y.slotFor o.die o.at_ := of_decide_eq_true (Bool.and_eq_true_iff.mp hdebt).2
    simp only [decide_eq_false (show ¬y.slotFor o.die o.at_ ≤ (y.now : Int) by omega), Bool.and_false, Bool.not_false]

/-- The end of a window is found with the states of the gates alone (R287). -/
theorem Sys.gateEnd_same {y z : Sys} (h : z.gateAt = y.gateAt) (c : Nat) (isOpen : Bool) (l : List Change) (g : Option Gate) (moved : Tab Int)
    (e : Option Int) : z.gateEnd c isOpen l g moved e = y.gateEnd c isOpen l g moved e := by
  induction l generalizing g moved e with
  | nil => rfl
  | cons ch rest ih =>
    unfold Sys.gateEnd
    dsimp only
    rw [h, ih, ih]

theorem Sys.wheelServed_gateNow (p q c : Nat) (y : Sys) : (y.wheelServed p).gateNow q c = y.gateNow q c :=
  Prod.ext rfl (Sys.gateEnd_same (y := y) (z := y.wheelServed p) rfl c _ (y.changes q) (y.gate q) [] _)

/-- Whether the head of class c goes now. -/
structure Sys.HeadReady (y : Sys) (p c : Nat) (q : Queue) (w : Waiting) : Prop where
  isOpen : (y.gateNow p c).1 = true
  noDebt : ¬((y.cls p c).shaped y.now = true ∧ ((y.cls p c).count y.now < 0 ∨ y.inDebt p c = true))
  head : y.headOf p c = some (q, w)
  window : y.fitsWindow p w.pkt.bytes (y.gateNow p c).2 = true
  clear : y.protects p w.pkt.bytes = true

/-- Of classes in falling order the first whose head goes sends it. -/
theorem Sys.chooseUntimed_highest {y : Sys} {p n : Nat} {q : Queue} {w : Waiting} (hready : y.HeadReady p n q w) {l : List Nat}
    (hl : l.Pairwise (· > ·)) (hn : n ∈ l) (hnone : ∀ m ∈ l, n < m → y.headOf p m = none) : y.chooseUntimed p l = y.sendHead p n q w := by
  obtain ⟨hopen, hdebt, hhead, hwindow, hclear⟩ := hready
  induction l with
  | nil => exact absurd hn List.not_mem_nil
  | cons c rest ih =>
    obtain ⟨hfalls, hrest⟩ := List.pairwise_cons.mp hl
    unfold Sys.chooseUntimed
    dsimp only
    rcases List.mem_cons.mp hn with rfl | hin
    · rw [if_neg (by rw [hopen]; simpa using hdebt), hhead]
      dsimp only
      rw [if_neg (by rw [hwindow]; decide), if_neg (by rw [hclear]; decide)]
    · have hskip : y.chooseUntimed p rest = y.sendHead p n q w := ih hrest hin fun m hm => hnone m (List.mem_cons_of_mem c hm)
      rw [hnone c List.mem_cons_self (hfalls n hin)]
      split <;> exact hskip

/-- A port that is up and idle sends the first timed packet that is due. -/
theorem Sys.choose_timed {y : Sys} {p : Nat} {k : Pkt} (hup : y.portUp p = true) (hidle : (y.port p).wireFree ≤ y.now)
    (hk : y.firstTimed p (y.dueTimed p) = some k) : y.choose p = (y.wheelServed p).startTimed p k := by
  have hup' : (y.wheelServed p).portUp p = true := hup
  have hidle' : ¬(y.wheelServed p).now < ((y.wheelServed p).port p).wireFree := Nat.not_lt.mpr hidle
  have hk' : (y.wheelServed p).firstTimed p ((y.wheelServed p).dueTimed p) = some k := hk
  unfold Sys.choose
  dsimp only
  rw [if_neg (by rw [hup']; decide), if_neg hidle', hk']

/-- With none due, the head of the highest class that may go is sent. -/
theorem Sys.choose_head {y : Sys} {p n : Nat} {q : Queue} {h : Waiting} (hgo : y.HeadGoes p n q h) :
    y.choose p = (y.wheelServed p).sendHead p n q h := by
  obtain ⟨hup, hidle, hdue, hclass, hhighest, hdebt, hhead, ⟨e, hgate, hfits⟩, hclear⟩ := hgo
  have hup' : (y.wheelServed p).portUp p = true := hup
  have hidle' : ¬(y.wheelServed p).now < ((y.wheelServed p).port p).wireFree := Nat.not_lt.mpr hidle
  have hdue' : (y.wheelServed p).dueTimed p = [] := hdue
  have hgate' : (y.wheelServed p).gateNow p n = (true, e) := (y.wheelServed_gateNow p p n).trans hgate
  unfold Sys.choose
  dsimp only
  rw [if_neg (by rw [hup']; decide), if_neg hidle', hdue']
  refine Sys.chooseUntimed_highest ⟨?_, ?_, hhead, ?_, hclear⟩ (y := y.wheelServed p) (l := [7, 6, 5, 4, 3, 2, 1, 0]) (by decide) ?_ fun m hm hlt => ?_
  · rw [hgate']
  · rw [Sys.wheelServed_inDebt]
    exact hdebt
  · rw [hgate']
    exact hfits
  · simp only [List.mem_cons, List.not_mem_nil, or_false]
    omega
  · refine hhighest m ?_ hlt
    simp only [List.mem_cons, List.not_mem_nil, or_false] at hm
    omega

/-- A port that is down discards what is due. -/
theorem Sys.choose_down {y : Sys} {p : Nat} (hdown : y.portUp p = false) : y.choose p = (y.wheelServed p).each (y.dueTimed p) (Sys.dropTimed p) := by
  have hdown' : (y.wheelServed p).portUp p = false := hdown
  unfold Sys.choose
  dsimp only
  rw [if_pos (by rw [hdown']; decide)]
  rfl

/-- The three commands that let a port choose. -/
theorem choosing_done {dt p : Nat} {c : Instr} {s : State} (hc : c = .packetLaunch dt p ∨ c = .txFrameComplete dt p ∨ c = .gateOpening dt p) :
    Does c s ((s.sys.elapse dt).choose p) := by
  rcases hc with rfl | rfl | rfl <;> exact act_done rfl

/-- Settles O41: the first timed packet due, the head of the highest class that may go, or what a port that is down discards. -/
theorem portsChoose : Obligations.PortsChoose := by
  unfold Obligations.PortsChoose
  intro dt p c y s hy hc
  have hdone := choosing_done (s := s) hc
  rw [← hy] at hdone
  have hout : y.out = [] := by rw [hy]; rfl
  refine ⟨fun k hup hidle hk => ?timed, fun n q h hgo => ?head, fun k hdown hk => ?down⟩
  case timed =>
    rw [Sys.choose_timed hup hidle hk] at hdone
    obtain ⟨hpkt, hport, hqueues, hsent⟩ := (y.wheelServed p).startTimed_sent p k
    refine ⟨_, hdone, ?_, ?_, ?_, hqueues, hsent⟩
    · exact hpkt.trans (congrArg (· ++ _) hout)
    · rw [hport]
      rfl
    · rw [hport]
      rfl
  case head =>
    rw [Sys.choose_head hgo] at hdone
    obtain ⟨hpkt, hport, hsent, hresent⟩ := (y.wheelServed p).sendHead_sent p n q h
    have hcls : ((y.wheelServed p).sendHead p n q h).cls p n = y.headCharged p n h := by
      unfold Sys.cls
      rw [hport]
      exact Tab.find_put_self ..
    refine ⟨_, hdone, ?_, ?_, ?_, ?_, fun hshaped => ?_, hresent, hsent⟩
    · exact hpkt.trans (congrArg (· ++ _) hout)
    · rw [hport]
      rfl
    · rw [hport]
      rfl
    · rw [hcls, Sys.headCharged_v]
    · rw [hcls, Sys.headCharged_tokens hshaped]
  case down =>
    rw [Sys.choose_down hdown, hk, Sys.each_cons, Sys.each_nil] at hdone
    obtain ⟨hnone, hport, hcount⟩ := (y.wheelServed p).dropTimed_dropped p k
    refine ⟨_, hdone, hnone.trans hout, ?_, hcount⟩
    rw [hport]
    rfl


end Sys2Proof.Machine

/-! PROOFS. Packets that arrive, the calendar wheel, resends and port boundaries (09, 10; R263 to R266, R270, R277 to R279, R288, R289). -/

namespace Sys2Proof.Machine

/-! ### A packet enters its queue (R270, R279) -/

/-- With no gate control list no frame is too long for its window (R288). -/
theorem Sys.headTests_ungated {y : Sys} {p : Nat} (h : y.gate p = none) : y.headTests p = y := by
  have hfits : ∀ c bytes, y.neverFits p c bytes = false := fun c bytes => by
    unfold Sys.neverFits
    rw [h]
    rfl
  have hnone : ∀ q : Queue, (q.pkts.takeWhile fun w => y.neverFits p q.cls w.pkt.bytes).length = 0 := fun q => by
    simp only [hfits]
    cases q.pkts <;> rfl
  have hsum : ∀ l : List Queue, (l.map fun q => (q.pkts.takeWhile fun w => y.neverFits p q.cls w.pkt.bytes).length).foldl (· + ·) 0 = 0 := by
    intro l
    rw [show (fun q : Queue => (q.pkts.takeWhile fun w => y.neverFits p q.cls w.pkt.bytes).length) = fun _ => 0 from funext hnone]
    induction l with
    | nil => rfl
    | cons q l ih => exact ih
  exact if_pos (hsum _)

/-- A packet with its start and finish tags (R279). -/
def Sys.tagged (q : Queue) (k : Pkt) (y : Sys) : Waiting :=
  { pkt := k, s := max (y.cls q.port q.cls).v q.lastF
    f := max (y.cls q.port q.cls).v q.lastF + y.counted q.port k.bytes * 65536 / max 1 q.weight }

/-- A packet put last into a queue. -/
def Sys.lastIn (q : Queue) (x : Waiting) (y : Sys) : Sys := y.onQueue q.die q.num fun o => { o with pkts := o.pkts ++ [x], lastF := x.f }

theorem Sys.enqueue_in {y : Sys} {q : Queue} (hup : y.portUp q.port = true) (hroom : q.pkts.length < 64) (hgate : y.gate q.port = none) (k : Pkt) :
    y.enqueue q k = (true, y.lastIn q (y.tagged q k)) := by
  have htests : (y.lastIn q (y.tagged q k)).headTests q.port = y.lastIn q (y.tagged q k) := Sys.headTests_ungated hgate
  unfold Sys.enqueue
  dsimp only
  rw [if_neg (by rw [hup]; decide), if_neg (Nat.not_le.mpr hroom)]
  exact congrArg (Prod.mk true) htests

theorem Sys.enqueue_full {y : Sys} {q : Queue} (hup : y.portUp q.port = true) (hfull : 64 ≤ q.pkts.length) (k : Pkt) :
    y.enqueue q k = (false, (y.bump (Ob.PortQueueDrop q.port) 1).raiseLimited 0x1006 q.port (portDie q.port) q.port) := by
  unfold Sys.enqueue
  dsimp only
  rw [if_neg (by rw [hup]; decide), if_pos hfull]

theorem Sys.enqueue_down {y : Sys} {q : Queue} (hdown : y.portUp q.port = false) (k : Pkt) :
    y.enqueue q k = (false, y.bump (Ob.PortDownDrop q.port) 1) := by
  unfold Sys.enqueue
  dsimp only
  rw [if_pos (by rw [hdown]; decide)]

/-- A packet put last into a queue is all that has changed. -/
theorem Sys.lastIn_queued (q : Queue) (x : Waiting) (y : Sys) : Queued y q x (y.lastIn q x) := ⟨rfl, rfl, rfl, rfl⟩

/-- The untimed packet of a PACKET_ENQUEUE. -/
def arriving (q : Queue) (bytes : Nat) : Pkt := { owner := q.owner, cls := q.cls, bytes := bytes, carry := .raw [], stored := false }

theorem Sys.packetIn_found {y : Sys} {p num bytes : Nat} {q : Queue}
    (hq : y.net.queues.find? (fun q => q.die == portDie p && q.num == num && q.port == p && !q.timed) = some q) :
    y.packetIn p num bytes = (y.enqueue q (arriving q bytes)).2.choose p := by
  unfold Sys.packetIn
  rw [hq]
  rfl

/-! ### The calendar wheel (R278) -/

/-- The entries of die d whose slot has started. -/
def Sys.dueEntries (d : Nat) (y : Sys) : List WheelEnt := y.net.wheel.filter fun e => e.die == d && decide (e.slot ≤ (y.now : Int))

/-- The wheel without them. -/
def Sys.slotTaken (d : Nat) (y : Sys) : Sys :=
  { y with net := { y.net with wheel := y.net.wheel.filter fun e => !(e.die == d && decide (e.slot ≤ (y.now : Int))) } }

theorem Sys.calendar_eq (d : Nat) (y : Sys) : y.calendar d =
    ((y.slotTaken d).each ((y.dueEntries d).filter fun e => decide ((y.now : Int) < y.slotFor d e.at_)) fun e y => y.enterWheel e.port e.cls e.at_).each
      (((y.dueEntries d).filter fun e => decide (y.slotFor d e.at_ ≤ (y.now : Int))).map WheelEnt.port).eraseDups Sys.choose := rfl

/-- A list of one value and no other has that value alone without its repeats. -/
theorem eraseDups_of_all_eq {l : List Nat} {p : Nat} (hmem : p ∈ l) (hall : ∀ x ∈ l, x = p) : l.eraseDups = [p] := by
  cases l with
  | nil => exact absurd hmem List.not_mem_nil
  | cons a l =>
    have ha : a = p := hall a List.mem_cons_self
    have hrest : (l.filter fun b => !b == a) = [] :=
      List.filter_eq_nil_iff.mpr fun b hb => by rw [hall b (List.mem_cons_of_mem a hb), ha]; simp
    rw [List.eraseDups_cons, hrest, ha]
    rfl

/-- Entries that are all of one port and all due let that port choose. -/
theorem Sys.calendar_ready {y : Sys} {d p : Nat} (hsome : ∃ e ∈ y.dueEntries d, e.port = p)
    (hall : ∀ e ∈ y.dueEntries d, e.port = p ∧ y.slotFor d e.at_ ≤ y.now) : y.calendar d = (y.slotTaken d).choose p := by
  have hparked : ((y.dueEntries d).filter fun e => decide ((y.now : Int) < y.slotFor d e.at_)) = [] :=
    List.filter_eq_nil_iff.mpr fun e he => by rw [decide_eq_true_iff]; exact Int.not_lt.mpr (hall e he).2
  have hready : ((y.dueEntries d).filter fun e => decide (y.slotFor d e.at_ ≤ (y.now : Int))) = y.dueEntries d :=
    List.filter_eq_self.mpr fun e he => decide_eq_true (hall e he).2
  have hports : ((y.dueEntries d).map WheelEnt.port).eraseDups = [p] := by
    obtain ⟨e, he, hp⟩ := hsome
    refine eraseDups_of_all_eq (List.mem_map.mpr ⟨e, he, hp⟩) fun x hx => ?_
    obtain ⟨o, ho, rfl⟩ := List.mem_map.mp hx
    exact (hall o ho).1
  rw [Sys.calendar_eq, hparked, hready, hports]
  rfl

/-- One that was parked is entered again. -/
theorem Sys.calendar_parked {y : Sys} {d : Nat} {e : WheelEnt} (hdue : y.dueEntries d = [e]) (hfar : (y.now : Int) < y.slotFor d e.at_) :
    y.calendar d = (y.slotTaken d).enterWheel e.port e.cls e.at_ := by
  have hparked : ([e].filter fun e => decide ((y.now : Int) < y.slotFor d e.at_)) = [e] :=
    List.filter_eq_self.mpr fun o ho => decide_eq_true (List.mem_singleton.mp ho ▸ hfar)
  have hready : ([e].filter fun e => decide (y.slotFor d e.at_ ≤ (y.now : Int))) = [] :=
    List.filter_eq_nil_iff.mpr fun o ho => by rw [List.mem_singleton.mp ho, decide_eq_true_iff]; exact Int.not_le.mpr hfar
  rw [Sys.calendar_eq, hdue, hparked, hready]
  rfl

/-- Settles O42: a packet enters its queue or is counted, and the entries of a started slot. -/
theorem packetsArrive : Obligations.PacketsArrive := by
  unfold Obligations.PacketsArrive
  refine ⟨fun dt p num bytes q y s hy hq => ?packet, fun dt d p y s hy hsome hall => ?slot, fun dt d e y s hy hdue hfar => ?park⟩
  case packet =>
    have hport : q.port = p := by
      have := List.find?_some hq
      simp only [Bool.and_eq_true, beq_iff_eq] at this
      exact this.1.2
    subst hport
    have hdone : ∀ {b z}, y.enqueue q (arriving q bytes) = (b, z) → Does (.packetEnqueue dt q.port num bytes) s (z.choose q.port) := fun henq =>
      act_done ((congrArg _ hy.symm).trans ((Sys.packetIn_found hq).trans (by rw [henq])))
    refine ⟨fun hup hroom hgate => ?_, fun hup hfull => ?_, fun hdown => ?_⟩
    · exact ⟨_, y.tagged q (arriving q bytes), hdone (Sys.enqueue_in hup hroom hgate _), rfl, rfl, rfl, rfl, by rw [hy]; rfl, rfl⟩
    · refine ⟨_, hdone (Sys.enqueue_full hup hfull _), ?_, ?_, fun k hk => ?_⟩
      · rw [Sys.raiseLimited_net]
        rfl
      · rw [Sys.raiseLimited_nat_read, Sys.bump_nat]
      · rw [Sys.raiseLimited_val_read, Sys.bump_other _ _ _ _ hk]
    · exact ⟨_, hdone (Sys.enqueue_down hdown _), rfl, Sys.bump_nat .., fun k hk => Sys.bump_other _ _ _ _ hk⟩
  case slot =>
    have hmem : ∀ e ∈ y.dueEntries d, e ∈ y.net.wheel ∧ e.die = d ∧ e.slot ≤ y.now := fun e he => by
      obtain ⟨hin, hdue⟩ := List.mem_filter.mp he
      rw [Bool.and_eq_true, beq_iff_eq, decide_eq_true_iff] at hdue
      exact ⟨hin, hdue⟩
    refine ⟨y.slotTaken d, act_done ((congrArg _ hy.symm).trans (Sys.calendar_ready ?_ fun e he => ?_)), rfl⟩
    · obtain ⟨e, hin, hdie, hslot, hp⟩ := hsome
      exact ⟨e, List.mem_filter.mpr ⟨hin, by rw [Bool.and_eq_true, beq_iff_eq, decide_eq_true_iff]; exact ⟨hdie, hslot⟩⟩, hp⟩
    · obtain ⟨hin, hdie, hslot⟩ := hmem e he
      exact hall e hin hdie hslot
  case park =>
    exact ⟨_, act_done ((congrArg _ hy.symm).trans (Sys.calendar_parked hdue hfar)), by rw [hy]; rfl, rfl, _,
      List.mem_append_right _ (List.mem_singleton_self _), rfl, rfl, rfl, rfl⟩

/-! ### What a choice leaves of the links -/

/-- Every port is in the link state it was in. -/
def Sys.LinksKept (y z : Sys) : Prop := ∀ q, (z.port q).st = (y.port q).st

namespace Sys.LinksKept

variable {x y z : Sys}

theorem refl (y : Sys) : y.LinksKept y := fun _ => rfl

theorem trans (h : x.LinksKept y) (k : y.LinksKept z) : x.LinksKept z := fun q => (k q).trans (h q)

theorem offWire {ls : List Nat} (h : x.LinksKept y) (k : y.OffWire ls z) : x.LinksKept z := h.trans fun q => congrArg Port.st (k.port q)

theorem onPort {p : Nat} {f : Port → Port} (h : x.LinksKept y) (hst : ∀ o, (f o).st = o.st) : x.LinksKept (y.onPort p f) := by
  refine h.trans fun q => ?_
  by_cases hq : q = p
  · subst hq
    rw [Sys.onPort_self, hst]
  · rw [Sys.onPort_other _ _ _ _ hq]

theorem startFrame {p : Nat} {k : Pkt} (h : x.LinksKept y) : x.LinksKept (y.startFrame p k) := by
  have hwired : x.LinksKept (y.wired p k) :=
    h.onPort (f := fun o => { o with wireFree := y.now + y.wireTime p k.bytes }) fun _ => rfl
  exact hwired.offWire (y.startFrame_offWire p k)

theorem unreserve {p : Nat} {k : Pkt} (h : x.LinksKept y) : x.LinksKept (y.unreserve p k) := h.onPort fun _ => rfl

theorem startTimed {p : Nat} {k : Pkt} (h : x.LinksKept y) : x.LinksKept (y.startTimed p k) := by
  obtain ⟨z, hz, -, heq⟩ := y.startTimed_split p k
  rw [heq]
  exact (h.unreserve.offWire hz).startFrame

theorem dropTimed {p : Nat} {k : Pkt} (h : x.LinksKept y) : x.LinksKept (y.dropTimed p k) := by
  have hz : (y.unreserve p k).OffWire [8] (((y.unreserve p k).slotCheck p k).storePkt p k) := (OffWire.slotCheck (OffWire.refl _)).storePkt
  have hlinks : x.LinksKept (((y.unreserve p k).slotCheck p k).storePkt p k) := h.unreserve.offWire hz
  exact hlinks

theorem holdHead {p : Nat} {q : Queue} {w : Waiting} (h : x.LinksKept y) : x.LinksKept (y.holdHead p q w) := by
  unfold Sys.holdHead
  split <;> exact h

theorem sendHead {p c : Nat} {q : Queue} {w : Waiting} (h : x.LinksKept y) : x.LinksKept (y.sendHead p c q w) := by
  obtain ⟨u, hu, -, -, heq⟩ := y.sendHead_split p c q w
  have htaken : x.LinksKept (y.headTaken p c q w) :=
    h.onPort (f := fun o => { o with classes := Tab.put (fun _ => {}) o.classes c (y.headCharged p c w) }) fun _ => rfl
  rw [heq]
  exact (((htaken.offWire hu).offWire (u.resendCounted_offWire q)).offWire (OffWire.refl _).headTests).startFrame

theorem chooseUntimed {p : Nat} (l : List Nat) (h : x.LinksKept y) : x.LinksKept (y.chooseUntimed p l) := by
  induction l generalizing y with
  | nil => exact h
  | cons c rest ih =>
    unfold Sys.chooseUntimed
    dsimp only
    split
    · exact ih h
    · split
      · exact ih h
      · split
        · exact ih h.holdHead
        · split
          · exact ih h
          · exact h.sendHead

/-- A choice sends or discards, and takes no link up or down. -/
theorem choose {p : Nat} (h : x.LinksKept y) : x.LinksKept (y.choose p) := by
  have hserved : x.LinksKept (y.wheelServed p) := h
  unfold Sys.choose
  dsimp only
  split
  · exact Sys.each_invariant (I := fun w => x.LinksKept w) (fun _ _ h => h.dropTimed) hserved
  · split
    · exact hserved
    · split
      · exact hserved.startTimed
      · exact hserved.chooseUntimed _

end Sys.LinksKept

theorem Sys.choose_portUp (p q : Nat) (y : Sys) : (y.choose p).portUp q = y.portUp q :=
  congrArg (· == 5) ((LinksKept.refl y).choose q)

/-! ### Resends (R263 to R266) -/

namespace Sys.OffWire

variable {ls : List Nat} {x y : Sys}

theorem counted (h : x.OffWire ls y) (hls : 1 ∉ ls) (p bytes : Nat) : y.counted p bytes = x.counted p bytes := by
  have hval := h.val (Ob.PortLenOverhead p) (by rwa [show Ob.PortLenOverhead p % 256 = 1 by simp only [Ob.PortLenOverhead]; omega])
  unfold Sys.counted Sys.int
  rw [hval]

theorem ownAddr (h : x.OffWire ls y) (hfour : 56 ∉ ls) (hsix : 58 ∉ ls) (p : Nat) (v6 : Bool) :
    y.ownAddr (some p) v6 = x.ownAddr (some p) v6 := by
  have hval : y.val (if v6 then Ob.PortIpv6 p else Ob.PortIpv4 p) = x.val (if v6 then Ob.PortIpv6 p else Ob.PortIpv4 p) := by
    cases v6
    · exact h.val (Ob.PortIpv4 p) (by rwa [show Ob.PortIpv4 p % 256 = 56 by simp only [Ob.PortIpv4]; omega])
    · exact h.val (Ob.PortIpv6 p) (by rwa [show Ob.PortIpv6 p % 256 = 58 by simp only [Ob.PortIpv6]; omega])
  exact congrArg (fun v : Val => beNat v.toBytes) hval

theorem legAddr (h : x.OffWire ls y) (hfour : 56 ∉ ls) (hsix : 58 ∉ ls) (l : OutLeg) : y.legAddr l = x.legAddr l := by
  unfold Sys.legAddr
  rw [h.ownAddr hfour hsix, h.ownAddr hfour hsix]

theorem gate_none (h : x.OffWire ls y) (hls : 6 ∉ ls) {p : Nat} (hgate : x.gate p = none) : y.gate p = none := by
  have hval := h.val (Ob.GclEnable p) (by rwa [show Ob.GclEnable p % 256 = 6 by simp only [Ob.GclEnable]; omega])
  have hoff : ¬(x.val (Ob.GclEnable p)).nat = 1 := fun hon => by
    unfold Sys.gate gateOf at hgate
    rw [if_pos hon] at hgate
    cases hgate
  exact if_neg (by rw [hval]; exact hoff)

end Sys.OffWire

/-- The packet a resend queues: from the leg's address to the sender of the NACK (R264). -/
def Sys.resentPkt (l : OutLeg) (h : PktHdr) (mac : Nat) (e : RtxSlot) (q : Queue) (y : Sys) : Pkt :=
  { y.onLeg { l with dst := h.src, udp := h.srcUdp } (rtpBytes e.pkt.carry) e.pkt with
    cls := q.cls, src := y.legAddr l, mac := mac, slot := none, stored := false }

theorem Sys.resend_missed {y : Sys} {n s : Nat} {l : OutLeg} (hfind : y.rtxFind n (portDie l.port) s = none) (h : PktHdr) (mac : Nat) :
    y.resend n l h mac s = y.bump (Ob.RtxMiss n) 1 := by
  unfold Sys.resend
  dsimp only
  rw [hfind]

/-- A channel's bucket after a resend. -/
def Sys.rtxCharged (n : Nat) (left : Int) (y : Sys) : Sys := y.onChan n fun c => { c with tokens := left, tokensAt := y.now }

theorem Sys.rtxCharged_tokens (n : Nat) (left : Int) (y : Sys) : ((y.rtxCharged n left).chan n).tokens = left :=
  congrArg Chan.tokens (Sys.onChan_self y n fun c => { c with tokens := left, tokensAt := y.now })

/-- A stored packet within its bucket takes its tokens and enters the leg's retransmission queue (R264, R265). -/
theorem Sys.resend_queued {y : Sys} {n s need : Nat} {l : OutLeg} {h : PktHdr} {mac : Nat} {e : RtxSlot} {q : Queue}
    (hfind : y.rtxFind n (portDie l.port) s = some e)
    (hneed : need = y.counted l.port (rtpBytes e.pkt.carry + { l with dst := h.src, udp := h.srcUdp }.around) * 65536)
    (htokens : (need : Int) ≤ y.rtxTokens n)
    (hq : y.net.queues.find? (fun q => q.port == l.port && q.owner == .ch n && q.kind == 2) = some q) (hport : q.port = l.port)
    (hup : y.portUp l.port = true) (hroom : q.pkts.length < 64) (hgate : y.gate l.port = none) :
    y.resend n l h mac s = (y.rtxCharged n (y.rtxTokens n - need)).lastIn q (y.tagged q (y.resentPkt l h mac e q)) := by
  have henq : ∀ left, ((y.rtxCharged n left).enqueue q (y.resentPkt l h mac e q)).2 =
      (y.rtxCharged n left).lastIn q (y.tagged q (y.resentPkt l h mac e q)) := fun left =>
    congrArg Prod.snd (Sys.enqueue_in (y := y.rtxCharged n left) (by rw [hport]; exact hup) hroom (by rw [hport]; exact hgate) _)
  subst hneed
  unfold Sys.resend
  dsimp only
  rw [hfind]
  refine (if_neg (Int.not_lt.mpr htokens)).trans ?_
  rw [Sys.onChan_net, hq]
  exact henq _

/-- A NACK with one number. -/
theorem named_one {a : Nat} (ha : a < 65536) : [(a, 0)].flatMap named = [a] := by
  have hbits : ((List.range 16).filter fun i => bit 0 i) = [] := by decide
  rw [List.flatMap_cons, List.flatMap_nil, List.append_nil, named, hbits, Nat.mod_eq_of_lt ha]
  rfl

/-- A NACK of one number to the leg of a running channel is counted and serves that number (R263). -/
theorem Sys.nackTo_one {y : Sys} {n a : Nat} {h : PktHdr} {ssrc mac : Nat} {l : OutLeg}
    (hleg : (chOutLegs (y.cfg n) n).find? (fun l => l.port == h.port && h.dst == y.legAddr l) = some l)
    (hudp : (y.cfg n (Ob.OutRtcpUdp n)).nat = h.udp) (hssrc : (y.cfg n (Ob.OutSsrc n)).nat = ssrc) (hstore : (y.chan n).rtxK ≠ 0)
    (ha : a < 65536) (hroom : y.requested (portDie h.port) + 1 ≤ 1024) :
    y.nackTo n h ssrc mac [(a, 0)] = ((y.bump (Ob.RtxNackRx n) 1).resend n l h mac a).bump (Ob.RtxMiss n) 0 := by
  have hreq : (y.bump (Ob.RtxNackRx n) 1).requested (portDie h.port) = y.requested (portDie h.port) := rfl
  obtain ⟨room, hr⟩ : ∃ room, 1024 - y.requested (portDie h.port) = room + 1 := ⟨1023 - y.requested (portDie h.port), by omega⟩
  unfold Sys.nackTo
  dsimp only
  rw [hleg]
  dsimp only
  rw [if_neg (by rw [hudp, hssrc]; simp), if_neg (by exact hstore), hreq, hr, if_neg (Nat.succ_ne_zero _), named_one ha,
    List.take_succ_cons, List.take_nil, Sys.each_cons, Sys.each_nil, List.length_singleton, Nat.sub_eq_zero_of_le (Nat.le_add_left 1 room)]

/-! ### What a choice leaves of the channels that run -/

theorem Sys.slotCheck_chans (p : Nat) (k : Pkt) (y : Sys) : (y.slotCheck p k).chans = y.chans := by
  unfold Sys.slotCheck
  split
  · split <;> rfl
  · rfl

theorem Sys.startFrame_chans (p : Nat) (k : Pkt) (y : Sys) : (y.startFrame p k).chans = y.chans := by
  unfold Sys.startFrame
  dsimp only
  split
  · unfold Sys.stampPtp
    dsimp only
    split
    · rw [Sys.raiseLimited_chans]
      rfl
    · rfl
  · rfl

theorem Sys.headTests_chans (p : Nat) (y : Sys) : (y.headTests p).chans = y.chans := by
  unfold Sys.headTests
  dsimp only
  split
  · rfl
  · exact (Sys.each_apart (g := Sys.chans) fun _ _ _ => Sys.raiseLimited_chans ..).trans rfl

theorem Sys.resendCounted_chans (q : Queue) (y : Sys) : (y.resendCounted q).chans = y.chans := by
  unfold Sys.resendCounted
  split
  · split <;> rfl
  · rfl

/-- The channels of a table that are not stopped. -/
def activeOf (t : Tab Chan) : List Nat := (t.filter fun e => e.2.run != 0).map Prod.fst

theorem activeOf_cons_active {n : Nat} {c : Chan} (hc : c.run ≠ 0) (t : Tab Chan) : activeOf ((n, c) :: t) = n :: activeOf t :=
  congrArg (List.map Prod.fst) (List.filter_cons_of_pos (p := fun e : Nat × Chan => e.2.run != 0) (bne_iff_ne.mpr hc))

theorem activeOf_pos {t : Tab Chan} {n : Nat} (h : (Tab.find (fun _ => {}) t n).run ≠ 0) : 0 < (activeOf t).length := by
  induction t with
  | nil => exact absurd rfl h
  | cons e t ih =>
    obtain ⟨i, w⟩ := e
    by_cases hw : w.run = 0
    · have hi : i ≠ n := fun heq => h (by rw [Tab.find, if_pos heq]; exact hw)
      rw [Tab.find, if_neg hi] at h
      unfold activeOf
      rw [List.filter_cons_of_neg (by simp [hw])]
      exact ih h
    · rw [activeOf_cons_active hw]
      exact Nat.succ_pos _

/-- A running channel stored again is in its place, or, in a table out of order, listed twice. -/
theorem activeOf_insert {t : Tab Chan} {n : Nat} {c : Chan} (h : (Tab.find (fun _ => {}) t n).run ≠ 0) (hc : c.run ≠ 0) :
    activeOf (Tab.insert n c t) = activeOf t ∨ 2 ≤ (activeOf (Tab.insert n c t)).length := by
  induction t with
  | nil => exact absurd rfl h
  | cons e t ih =>
    obtain ⟨i, w⟩ := e
    rw [Tab.find] at h
    unfold Tab.insert
    split
    · next hlt =>
      have hpos : 0 < (activeOf ((i, w) :: t)).length := activeOf_pos (n := n) (by rw [Tab.find]; exact h)
      exact Or.inr (by rw [activeOf_cons_active hc, List.length_cons]; omega)
    · split
      · next heq =>
        rw [if_pos heq.symm] at h
        exact Or.inl (by rw [activeOf_cons_active hc, activeOf_cons_active h, heq])
      · next hne =>
        rw [if_neg (Ne.symm hne)] at h
        have hcons : ∀ u : Tab Chan, activeOf ((i, w) :: u) = activeOf [(i, w)] ++ activeOf u := fun u => by
          unfold activeOf
          rw [← List.map_append, ← List.filter_append, List.singleton_append]
        rw [hcons, hcons t]
        exact (ih h).imp (fun hsame => by rw [hsame]) fun htwo => by rw [List.length_append]; omega

/-- The channels that run are those that ran, unless two or more are listed. -/
def Sys.ActiveKept (y z : Sys) : Prop := z.activeChans = y.activeChans ∨ 2 ≤ z.activeChans.length

namespace Sys.ActiveKept

variable {x y z : Sys}

theorem refl (y : Sys) : y.ActiveKept y := Or.inl rfl

theorem same (h : x.ActiveKept y) (hchans : z.chans = y.chans) : x.ActiveKept z := by
  unfold Sys.ActiveKept Sys.activeChans
  rw [hchans]
  exact h

/-- A packet that is stored puts its channel in its place again (R261). -/
theorem storePkt {p : Nat} {k : Pkt} (h : x.ActiveKept y) : x.ActiveKept (y.storePkt p k) := by
  have hput : ∀ (w : Sys) (n : Nat) (c : Chan), w.chans = y.chans → (y.chan n).run ≠ 0 → c.run ≠ 0 → x.ActiveKept (w.setChan n c) := by
    intro w n c hw hrun hc
    have hchans : (w.setChan n c).chans = Tab.insert n c y.chans :=
      (congrArg (fun t => Tab.put (fun _ => ({} : Chan)) t n c) hw).trans (if_neg fun heq => hc (by rw [heq]))
    have hins : (w.setChan n c).activeChans = activeOf (Tab.insert n c y.chans) := congrArg activeOf hchans
    rcases activeOf_insert hrun hc with hsame | htwo
    · unfold Sys.ActiveKept
      rw [hins, hsame]
      exact h
    · exact Or.inr (hins ▸ htwo)
  unfold Sys.storePkt
  split
  · next n _ =>
    dsimp only
    split
    · exact h
    · next hstored =>
      have hrun : (y.chan n).run ≠ 0 := fun h0 => hstored (Or.inl h0)
      cases (y.die (portDie p)).dram.bypass
      · exact hput _ _ _ rfl hrun hrun
      · split
        · exact h
        · exact hput _ _ _ rfl hrun hrun
  · exact h

theorem startTimed {p : Nat} {k : Pkt} (h : x.ActiveKept y) : x.ActiveKept (y.startTimed p k) := by
  have hslot : x.ActiveKept ((y.unreserve p k).slotCheck p k) := h.same (Sys.slotCheck_chans ..)
  have hend : ∀ w : Sys, x.ActiveKept w → x.ActiveKept ((w.storePkt p k).startFrame p k) := fun _ hw => hw.storePkt.same (Sys.startFrame_chans ..)
  unfold Sys.startTimed
  dsimp only
  split
  · exact hend _ (hslot.same (Sys.raiseLimited_chans ..))
  · exact hend _ hslot

theorem dropTimed {p : Nat} {k : Pkt} (h : x.ActiveKept y) : x.ActiveKept (y.dropTimed p k) := by
  have hslot : x.ActiveKept ((y.unreserve p k).slotCheck p k) := h.same (Sys.slotCheck_chans ..)
  have hstored : x.ActiveKept (((y.unreserve p k).slotCheck p k).storePkt p k) := hslot.storePkt
  exact hstored.same rfl

theorem sendHead {p c : Nat} {q : Queue} {w : Waiting} (h : x.ActiveKept y) : x.ActiveKept (y.sendHead p c q w) := by
  obtain ⟨u, -, -, hchans, heq⟩ := y.sendHead_split p c q w
  rw [heq]
  exact h.same (by rw [Sys.startFrame_chans, Sys.headTests_chans, Sys.resendCounted_chans, hchans])

theorem chooseUntimed {p : Nat} (l : List Nat) (h : x.ActiveKept y) : x.ActiveKept (y.chooseUntimed p l) := by
  induction l generalizing y with
  | nil => exact h
  | cons c rest ih =>
    unfold Sys.chooseUntimed
    dsimp only
    split
    · exact ih h
    · split
      · exact ih h
      · split
        · exact ih (h.same (by unfold Sys.holdHead; split <;> rfl))
        · split
          · exact ih h
          · exact h.sendHead

theorem choose {p : Nat} (h : x.ActiveKept y) : x.ActiveKept (y.choose p) := by
  have hserved : x.ActiveKept (y.wheelServed p) := h
  unfold Sys.choose
  dsimp only
  split
  · exact Sys.each_invariant (I := fun w => x.ActiveKept w) (fun _ _ h => h.dropTimed) hserved
  · split
    · exact hserved
    · split
      · exact hserved.startTimed
      · exact hserved.chooseUntimed _

end Sys.ActiveKept

/-- One channel that runs after a choice ran alone before it. -/
theorem Sys.activeChans_of_choose {y : Sys} {p n : Nat} (h : (y.choose p).activeChans = [n]) : y.activeChans = [n] := by
  rcases (ActiveKept.refl y).choose (p := p) with hsame | htwo
  · rw [← hsame, h]
  · rw [h, List.length_singleton] at htwo
    omega

/-- A NACK on a port that is up, when one channel runs. -/
theorem Sys.nack_one {y : Sys} {n : Nat} {h : PktHdr} (hup : y.portUp h.port = true) (hone : (y.choose h.port).activeChans = [n]) (ssrc mac : Nat)
    (fci : List (Nat × Nat)) : y.nack h ssrc mac fci = ((y.choose h.port).nackTo n h ssrc mac fci).choose h.port := by
  unfold Sys.nack
  rw [if_pos hup, Sys.activeChans_of_choose hone]
  rfl

/-! ### A port's boundary (R289) -/

theorem Sys.headTests_other {p j : Nat} (hj : j ≠ Ob.PortGateDiscard p) (y : Sys) : (y.headTests p).val j = y.val j := by
  unfold Sys.headTests
  dsimp only
  split
  · rfl
  · refine (Sys.each_apart (g := fun w : Sys => w.val j) fun _ _ _ => Sys.raiseLimited_val_read ..).trans ?_
    exact Sys.bump_other _ _ _ _ hj

/-- The shapers of a port take what its objects read (R282, R283). -/
def Sys.recommitAll (p : Nat) (y : Sys) : Sys := y.each (List.range 8) (Sys.recommit p)

/-- The queue of a port's own after a boundary (R276). -/
def Queue.retaken (p ptp ctl : Nat) (o : Queue) : Queue :=
  if o.port = p ∧ o.kind = 3 then { o with cls := ptp } else if o.port = p ∧ o.kind = 4 then { o with cls := ctl } else o

/-- The shapers and the port's own queues take what its objects read. -/
def Sys.portRetaken (p : Nat) (y : Sys) : Sys :=
  (y.recommitAll p).mapQueues (Queue.retaken p ((y.recommitAll p).nat (Ob.PortPtpClass p)) ((y.recommitAll p).nat (Ob.PortCtlClass p)))

/-- The count of applied sets, their instant and the event. -/
def Sys.portApplied (p : Nat) (q : Pend) (y : Sys) : Sys :=
  ((y.bump (Ob.PortCommitCount p) 1).setInt (Ob.GclApplied p) (time96 q.at_)).raise 0x1001 (portDie p) p

/-- No set waits any more. -/
def Sys.portIdle (p key : Nat) (y : Sys) : Sys := if y.pend.any fun o => o.key == key then y else y.setInt (Ob.PortCommitState p) 0

theorem Sys.portApply_eq (p : Nat) (q : Pend) (y : Sys) : y.portApply p q =
    (((((({ y with pend := y.pend.filter fun (o : Pend) => !(o.key == q.key && o.at_ == q.at_) } : Sys).applySet q.set).portRetaken p).portApplied p q).portIdle
      p q.key).headTests p) := rfl

theorem Sys.recommitAll_apart (p : Nat) (y : Sys) : (y.recommitAll p).live = y.live ∧ (y.recommitAll p).part = y.part ∧
    (y.recommitAll p).now = y.now ∧ (y.recommitAll p).pend = y.pend := by
  refine Sys.each_invariant (I := fun w : Sys => w.live = y.live ∧ w.part = y.part ∧ w.now = y.now ∧ w.pend = y.pend) (fun c w h => ?_)
    ⟨rfl, rfl, rfl, rfl⟩
  unfold Sys.recommit
  dsimp only
  split <;> exact h

theorem Sys.portRetaken_apart (p : Nat) (y : Sys) : (y.portRetaken p).live = y.live ∧ (y.portRetaken p).part = y.part ∧
    (y.portRetaken p).now = y.now ∧ (y.portRetaken p).pend = y.pend := by
  have h := y.recommitAll_apart p
  unfold Sys.portRetaken
  generalize y.recommitAll p = w at h
  exact h

/-- One set alone applies: its value is live, no set waits, and what follows are counters, instant and event. -/
theorem Sys.portApply_one {y : Sys} {p k : Nat} {v : Val} {q : Pend} (hpend : y.pend = [q]) (hset : q.set = [(k, v)]) :
    ∃ u : Sys, (∀ j, u.val j = (y.setVal k v).val j) ∧ u.part = y.part ∧ u.now = y.now ∧ u.pend = [] ∧
      y.portApply p q = ((u.portApplied p q).setInt (Ob.PortCommitState p) 0).headTests p := by
  have hrest : (y.pend.filter fun (o : Pend) => !(o.key == q.key && o.at_ == q.at_)) = [] := by
    rw [hpend]
    exact List.filter_eq_nil_iff.mpr fun o ho => by rw [List.mem_singleton.mp ho]; simp
  obtain ⟨u, hu⟩ : ∃ u, u = (({ y with pend := [] } : Sys).applySet [(k, v)]).portRetaken p := ⟨_, rfl⟩
  obtain ⟨hlive, hpart, hnow, hnone⟩ : u.live = (y.setVal k v).live ∧ u.part = y.part ∧ u.now = y.now ∧ u.pend = [] := by
    have happlied : (({ y with pend := [] } : Sys).applySet [(k, v)]).live = (y.setVal k v).live := rfl
    rw [hu, ← happlied]
    exact Sys.portRetaken_apart ..
  rw [Sys.portApply_eq, hset, hrest, ← hu]
  refine ⟨u, fun j => ?_, hpart, hnow, hnone, congrArg (Sys.headTests p) (if_neg ?_)⟩
  · unfold Sys.val
    rw [hlive, hpart]
    rfl
  · rw [show (u.portApplied p q).pend = [] from hnone]
    exact Bool.false_ne_true

/-- Of a port's objects none that a commit sets is one of those its boundary writes. -/
theorem portOwns_ne {p k : Nat} (h : portOwns p k = true) :
    k ≠ Ob.PortGateDiscard p ∧ k ≠ Ob.PortCommitState p ∧ k ≠ Ob.PortCommitCount p ∧ k ≠ Ob.GclApplied p := by
  simp only [portOwns, Bool.and_eq_true, Bool.or_eq_true, beq_iff_eq, decide_eq_true_iff, Ob.PortCommit] at h
  simp only [Ob.PortGateDiscard, Ob.PortCommitState, Ob.PortCommitCount, Ob.GclApplied]
  omega

/-- What a boundary leaves of the objects (R289). -/
structure Sys.BoundaryDone (p k : Nat) (v : Val) (at_ : Int) (y z : Sys) : Prop where
  val : z.val k = v
  pend : z.pend = []
  state : z.nat (Ob.PortCommitState p) = 0
  count : z.nat (Ob.PortCommitCount p) = (y.nat (Ob.PortCommitCount p) + 1) % wrapOf y.part.dies (Ob.PortCommitCount p)
  instant : z.nat (Ob.GclApplied p) = time96 at_
  event : { code := 0x1001, die := portDie p, arg := p, t := y.now } ∈ z.evs.raised

theorem Sys.headTests_pend (p : Nat) (y : Sys) : (y.headTests p).pend = y.pend := by
  unfold Sys.headTests
  dsimp only
  split
  · rfl
  · exact (Sys.each_apart (g := Sys.pend) fun _ _ _ => Sys.raiseLimited_pend ..).trans rfl

theorem Sys.portApply_done {y : Sys} {p k : Nat} {v : Val} {q : Pend} (hpend : y.pend = [q]) (hset : q.set = [(k, v)])
    (howns : portOwns p k = true) : y.BoundaryDone p k v q.at_ (y.portApply p q) := by
  obtain ⟨u, hval, hpart, hnow, hnone, heq⟩ := Sys.portApply_one (p := p) hpend hset
  obtain ⟨hdiscard, hstate, hcount, hinstant⟩ := portOwns_ne howns
  have hread : ∀ {j}, j ≠ Ob.PortGateDiscard p → j ≠ Ob.PortCommitState p → (y.portApply p q).val j = (u.portApplied p q).val j :=
    fun hj hs => by rw [heq, Sys.headTests_other hj, Sys.setInt_other _ _ _ _ hs]
  refine ⟨?val, ?pend, ?state, ?count, ?instant, ?event⟩
  case val =>
    rw [hread hdiscard hstate, Sys.portApplied, Sys.raise_val_read, Sys.setInt_other _ _ _ _ hinstant, Sys.bump_other _ _ _ _ hcount, hval,
      Sys.setVal_self]
  case pend =>
    rw [heq, Sys.headTests_pend]
    exact hnone
  case state =>
    have hne : Ob.PortCommitState p ≠ Ob.PortGateDiscard p := by simp only [Ob.PortCommitState, Ob.PortGateDiscard]; omega
    have hset : (y.portApply p q).val (Ob.PortCommitState p) = ((u.portApplied p q).setInt (Ob.PortCommitState p) 0).val (Ob.PortCommitState p) := by
      rw [heq, Sys.headTests_other hne]
    exact (congrArg Val.nat hset).trans (Sys.setInt_nat _ _ 0)
  case count =>
    have hne : Ob.PortCommitCount p ≠ Ob.PortGateDiscard p ∧ Ob.PortCommitCount p ≠ Ob.PortCommitState p ∧
        Ob.PortCommitCount p ≠ Ob.GclApplied p ∧ Ob.PortCommitCount p ≠ k := by
      refine ⟨?_, ?_, ?_, Ne.symm hcount⟩ <;>
        simp only [Ob.PortCommitCount, Ob.PortGateDiscard, Ob.PortCommitState, Ob.GclApplied] <;> omega
    obtain ⟨hne1, hne2, hne3, hne4⟩ := hne
    have hbump : (y.portApply p q).val (Ob.PortCommitCount p) = (u.bump (Ob.PortCommitCount p) 1).val (Ob.PortCommitCount p) := by
      rw [hread hne1 hne2, Sys.portApplied, Sys.raise_val_read, Sys.setInt_other _ _ _ _ hne3]
    have hsame : u.nat (Ob.PortCommitCount p) = y.nat (Ob.PortCommitCount p) :=
      congrArg Val.nat ((hval _).trans (Sys.setVal_other _ _ _ _ hne4))
    rw [show Sys.nat _ _ = _ from congrArg Val.nat hbump]
    exact (Sys.bump_nat ..).trans (by rw [hsame, hpart])
  case instant =>
    have hne : Ob.GclApplied p ≠ Ob.PortGateDiscard p ∧ Ob.GclApplied p ≠ Ob.PortCommitState p := by
      constructor <;> simp only [Ob.GclApplied, Ob.PortGateDiscard, Ob.PortCommitState] <;> omega
    have happlied : (u.portApplied p q).nat (Ob.GclApplied p) = time96 q.at_ := by rw [Sys.portApplied, Sys.raise_nat_read, Sys.setInt_nat]
    exact (congrArg Val.nat (hread hne.1 hne.2)).trans happlied
  case event =>
    rw [heq]
    refine ((Advances.refl ((u.portApplied p q).setInt (Ob.PortCommitState p) 0)).headTests (p := p)).raised.subset ?_
    refine List.mem_append_right _ ?_
    rw [List.mem_singleton, ← hnow]
    rfl

theorem Sys.portBoundary_one {y : Sys} {p : Nat} {q : Pend} (hpend : y.pend = [q]) (hkey : q.key = Ob.PortCommit p)
    (hdue : atOrAfter (y.tbNow (y.ofSet q.set (Ob.PortTimeBase p)).nat) q.at_ = true) : y.portBoundary p = (y.portApply p q).tbSettle.choose p := by
  have hone : (y.pend.filter fun (q : Pend) => q.key == Ob.PortCommit p && atOrAfter (y.tbNow (y.ofSet q.set (Ob.PortTimeBase p)).nat) q.at_) = [q] := by
    rw [hpend]
    exact List.filter_eq_self.mpr fun o ho => by rw [List.mem_singleton.mp ho, hkey, hdue, beq_self_eq_true]; rfl
  unfold Sys.portBoundary
  dsimp only
  rw [hone, if_neg (by simp), Sys.each_cons, Sys.each_nil]

/-- Settles O43: a NACK of one number is missed or resent; a port's set becomes live. -/
theorem resendsAndBoundaries : Obligations.ResendsAndBoundaries := by
  unfold Obligations.ResendsAndBoundaries
  refine ⟨fun dt n a ssrc mac h l y s hy hup hone hleg hudp hssrc hstore ha hroom => ?nack, fun dt p k v q y s _ hy hpend hkey hset howns hdue => ?boundary⟩
  case nack =>
    have hdone : ∀ {z}, y.nackTo n h ssrc mac [(a, 0)] = z → Does (.genericNack dt h ssrc mac [(a, 0)]) s (z.choose h.port) := fun hz =>
      act_done ((Sys.nack_one hup (hy ▸ hone) ssrc mac [(a, 0)]).trans (by rw [← hy, hz]))
    rw [Sys.nackTo_one hleg hudp hssrc hstore ha hroom] at hdone
    have hnack : Ob.RtxNackRx n ≠ Ob.RtxMiss n := by simp only [Ob.RtxNackRx, Ob.RtxMiss]; omega
    have hoff : y.OffWire [8] (y.bump (Ob.RtxNackRx n) 1) :=
      (Sys.OffWire.refl y).bump (by simp only [Ob.RtxNackRx, List.mem_singleton]; omega)
    refine ⟨fun hfind => ?_, fun e q need hfind hneed htokens hq hport hlen hgate => ?_⟩
    · have hmiss := Sys.resend_missed (y := y.bump (Ob.RtxNackRx n) 1) hfind h mac
      rw [hmiss] at hdone
      refine ⟨_, hdone rfl, ?_, ?_, rfl, rfl⟩
      · refine (congrArg Val.nat ((Sys.bump_other _ _ _ _ hnack).trans (Sys.bump_other _ _ _ _ hnack))).trans ?_
        exact Sys.bump_nat ..
      · rw [Sys.bump_nat, Sys.bump_nat, Nat.add_zero]
        refine (Nat.mod_mod ..).trans ?_
        rw [show Sys.nat (y.bump (Ob.RtxNackRx n) 1) (Ob.RtxMiss n) = y.nat (Ob.RtxMiss n) from congrArg Val.nat (Sys.bump_other _ _ _ _ hnack.symm)]
        rfl
    · have hl : l.port = h.port := by
        have := List.find?_some hleg
        rw [Bool.and_eq_true, beq_iff_eq] at this
        exact this.1
      have hup' : y.portUp l.port = true := by rw [hl, hy, Sys.choose_portUp]; exact hup
      subst hneed
      have hsent := Sys.resend_queued (y := y.bump (Ob.RtxNackRx n) 1) (h := h) (mac := mac) hfind rfl
        (by rw [hoff.counted (by decide)]; exact htokens) hq hport hup' hlen (hoff.gate_none (by decide) hgate)
      have hcount : (y.bump (Ob.RtxNackRx n) 1).nat (Ob.RtxNackRx n) = _ := Sys.bump_nat ..
      have hleft : (y.bump (Ob.RtxNackRx n) 1).rtxTokens n = y.rtxTokens n := rfl
      have hqueue : q ∈ (y.bump (Ob.RtxNackRx n) 1).net.queues := List.mem_of_find?_eq_some hq
      rw [hsent, hoff.counted (by decide), hleft] at hdone
      generalize y.bump (Ob.RtxNackRx n) 1 = y1 at hoff hcount hqueue hdone
      refine ⟨_, hdone rfl, ?_, ?_, ?_⟩
      · exact (congrArg Val.nat (Sys.bump_other _ _ _ _ hnack)).trans hcount
      · exact y1.rtxCharged_tokens n _
      · refine ⟨_, List.mem_map_of_mem hqueue, ?_⟩
        rw [if_pos ⟨rfl, rfl⟩]
        refine ⟨rfl, _, List.mem_append_right _ (List.mem_singleton_self _), rfl, rfl, rfl, rfl, rfl, ?_⟩
        exact hoff.legAddr (by decide) (by decide) l
  case boundary =>
    obtain ⟨hval, hnone, hstate, hcount, hinstant, hevent⟩ := Sys.portApply_done hpend hset howns
    exact ⟨_, act_done ((congrArg _ hy.symm).trans (Sys.portBoundary_one hpend hkey hdue)), hval, hnone, hstate, hcount, hinstant, hevent⟩


end Sys2Proof.Machine

/-! PROOFS. Delay requests and their stamps (11; R303 to R307), and what a port receives and answers (10, 13; R269, R351 to R354, R364). -/

namespace Sys2Proof.Machine

/-! ### A port's own frames (R269) -/

/-- A frame of a port's own as it enters a queue of the port. -/
def Sys.ownPkt (p : Nat) (q : Queue) (k : Pkt) (y : Sys) : Pkt :=
  { k with cls := q.cls, dscp := Config.controlDscp % 64, vlan := y.nat (Ob.PortVlan p), stored := false }

theorem Sys.sendOwn_in {y : Sys} {p kind : Nat} {q : Queue} (hq : y.net.queues.find? (fun q => q.port == p && q.kind == kind) = some q)
    (hup : y.portUp p = true) (hroom : q.pkts.length < 64) (hgate : y.gate p = none) (k : Pkt) :
    y.sendOwn p kind k = (y.lastIn q (y.tagged q (y.ownPkt p q k))).choose p := by
  have hport : q.port = p := by
    have := List.find?_some hq
    rw [Bool.and_eq_true, beq_iff_eq] at this
    exact this.1
  unfold Sys.sendOwn
  rw [hq]
  dsimp only
  rw [Sys.enqueue_in (by rw [hport]; exact hup) hroom (by rw [hport]; exact hgate)]
  rfl

/-! ### Delay requests (R307) -/

/-- Where a Delay_Req goes: to the selected master, or to the group of PTP. -/
def Sys.drDest (b : Nat) (uni v6 : Bool) (y : Sys) : Nat :=
  if uni then (y.tb b).masterIp else if v6 then 0xFF0E0000000000000000000000000181 else 0xFFFFE0000181

/-- A Delay_Req of a base on a port. -/
def Sys.drPkt (b p : Nat) (uni v6 : Bool) (y : Sys) : Pkt :=
  { owner := .port p, bytes := y.ctlBytes p (if v6 then 92 else 72), dest := y.drDest b uni v6, udp := 319, srcUdp := 319,
    carry := .ptp b ((y.tb b).drSeq % 65536) (if uni then some (y.tb b).masterMac else none),
    mac := if uni then (y.tb b).masterMac else groupMac (y.drDest b uni v6),
    src := if v6 then y.ownAddr (some p) true else 0xFFFF00000000 + y.ownAddr (some p) false }

/-- A base that has sent a Delay_Req. -/
def Sys.drSent (b : Nat) (y : Sys) : Sys := y.onTb b fun t => { t with drSeq := t.drSeq + 1, drAt := some y.now }

theorem Sys.drSent_tb (b : Nat) (y : Sys) : (y.drSent b).tb b = { y.tb b with drSeq := (y.tb b).drSeq + 1, drAt := some y.now } :=
  Sys.onTb_self y b fun t => { t with drSeq := t.drSeq + 1, drAt := some y.now }

theorem Sys.delayReq_due {y : Sys} {b p : Nat} {uni v6 : Bool} (hup : y.portUp p = true) (hmode : y.tbCfg b (Ob.TbRefMode b) = 1)
    (hport : (y.tbPorts b).contains p = true) (hmaster : (y.tb b).master.isSome = true)
    (hdue : ∀ a, (y.tb b).drAt = some a → a + pow2Sec (y.tbCfg b (Ob.TbLogDelayReq b)) ≤ y.now)
    (huni : uni = true ↔ y.tbCfg b (Ob.TbDelayUnicast b) = 1) (hv6 : v6 = (if uni then isV6 (y.tb b).masterIp else y.ownAddr (some p) false == 0))
    (haddr : y.ownAddr (some p) v6 ≠ 0) : y.delayReq b p = (y.drSent b).sendOwn p 3 (y.drPkt b p uni v6) := by
  have hwhen : (match (y.tb b).drAt with
      | some a => decide (a + pow2Sec (y.tbCfg b (Ob.TbLogDelayReq b)) ≤ y.now)
      | none => true) = true := by
    cases hat : (y.tb b).drAt with
    | none => rfl
    | some a => exact decide_eq_true (hdue a hat)
  cases uni with
  | true =>
    have hone : y.tbCfg b (Ob.TbDelayUnicast b) = 1 := huni.mp rfl
    subst hv6
    unfold Sys.delayReq
    simp only [if_pos hone]
    exact if_pos ⟨hup, hmode, hport, hmaster, hwhen, haddr⟩
  | false =>
    have hmulti : ¬y.tbCfg b (Ob.TbDelayUnicast b) = 1 := fun hone => Bool.false_ne_true (huni.mpr hone)
    subst hv6
    unfold Sys.delayReq
    simp only [if_neg hmulti]
    exact if_pos ⟨hup, hmode, hport, hmaster, hwhen, haddr⟩

/-! ### Stamps (R303 to R306) -/

/-- The stamps of a port that are less than a second old. -/
def Sys.freshStamps (p : Nat) (y : Sys) : List Tsq := (y.tsq p).filter fun e => decide (y.now < e.t + secU 1)

theorem Sys.setTsq_self (p : Nat) (l : List Tsq) (y : Sys) : (y.setTsq p l).tsq p = l := by
  unfold Sys.tsq Sys.setTsq
  exact Tab.find_put_self ..

theorem Sys.tsqExpiry_tsq (p : Nat) (y : Sys) : (y.tsqExpiry p).tsq p = y.freshStamps p := y.setTsq_self p _

/-- The stamp of a Delay_Req that starts now. -/
def Sys.stampNow (p b seq : Nat) (y : Sys) : Tsq :=
  { id := seq, tb := b, ovf := Tab.find (fun _ => false) y.jas.ovf p, t := y.now, stamp := y.tbNow b }

/-- With room the stamp is kept. -/
theorem Sys.stampPtp_kept {y : Sys} {p : Nat} (hroom : (y.freshStamps p).length < 32) (b seq : Nat) :
    (y.stampPtp p b seq).tsq p = y.freshStamps p ++ [y.stampNow p b seq] := by
  unfold Sys.stampPtp
  dsimp only
  rw [Sys.tsqExpiry_tsq, if_neg (Nat.not_le.mpr hroom), Sys.setTsq_self]
  exact congrArg (· ++ [y.stampNow p b seq]) (y.tsqExpiry_tsq p)

/-- Without it the stamp is lost and counted. -/
theorem Sys.stampPtp_lost {y : Sys} {p : Nat} (hfull : 32 ≤ (y.freshStamps p).length) (b seq : Nat) :
    (y.stampPtp p b seq).tsq p = y.freshStamps p ∧
      (y.stampPtp p b seq).nat (Ob.TsqOverflow p) = (y.nat (Ob.TsqOverflow p) + 1) % wrapOf y.part.dies (Ob.TsqOverflow p) := by
  have hne : Ob.TsqOverflow p ≠ Ob.TsqExpired p := by simp only [Ob.TsqOverflow, Ob.TsqExpired]; omega
  unfold Sys.stampPtp
  dsimp only
  rw [Sys.tsqExpiry_tsq, if_pos hfull]
  constructor
  · unfold Sys.tsq
    rw [Sys.raiseLimited_jas]
    exact y.tsqExpiry_tsq p
  · rw [Sys.raiseLimited_nat_read, Sys.bump_nat]
    have hkeep : (y.tsqExpiry p).nat (Ob.TsqOverflow p) = y.nat (Ob.TsqOverflow p) := congrArg Val.nat (Sys.bump_other _ _ _ _ hne)
    exact congrArg (fun n => (n + 1) % wrapOf y.part.dies (Ob.TsqOverflow p)) hkeep

/-- A frame on the wire leaves clocks and variant alone. -/
theorem Sys.wired_apart (p : Nat) (k : Pkt) (y : Sys) : (y.wired p k).jas = y.jas ∧ (y.wired p k).now = y.now ∧ (y.wired p k).part = y.part :=
  ⟨rfl, rfl, rfl⟩

/-- A Delay_Req at the head of its queue is stamped as it starts, on a state with the clocks as they were. -/
theorem Sys.sendHead_stamped {y : Sys} {p c b seq : Nat} {u : Option Nat} {q : Queue} {w : Waiting} (hptp : w.pkt.carry = .ptp b seq u) :
    ∃ v : Sys, v.jas = y.jas ∧ v.now = y.now ∧ v.part = y.part ∧ v.nat (Ob.TsqOverflow p) = y.nat (Ob.TsqOverflow p) ∧
      y.sendHead p c q w = v.stampPtp p b seq := by
  obtain ⟨x, hx, hjas, -, heq⟩ := y.sendHead_split p c q w
  have hz : (y.headTaken p c q w).OffWire [4, 9] ((x.resendCounted q).headTests p) :=
    ((hx.mono (by decide)).trans ((x.resendCounted_offWire q).mono (by decide))).trans ((OffWire.refl _).headTests.mono (by decide))
  have hstart : ((x.resendCounted q).headTests p).startFrame p w.pkt = (((x.resendCounted q).headTests p).wired p w.pkt).stampPtp p b seq := by
    unfold Sys.startFrame
    rw [hptp]
    rfl
  obtain ⟨hwired, hnow, hpart⟩ := ((x.resendCounted q).headTests p).wired_apart p w.pkt
  refine ⟨((x.resendCounted q).headTests p).wired p w.pkt, ?_, hnow.trans hz.now, hpart.trans hz.part, ?_, heq.trans hstart⟩
  · rw [hwired, Sys.headTests_jas, Sys.resendCounted_jas, hjas]
  · have hother : Ob.TsqOverflow p ≠ Ob.PortTxFrames p := by simp only [Ob.TsqOverflow, Ob.PortTxFrames]; omega
    have hkeep := hz.nat (k := Ob.TsqOverflow p)
      (by simp only [Ob.TsqOverflow, List.mem_cons, List.not_mem_nil, or_false, not_or]; omega)
    rw [Sys.wired, Sys.emit_nat_read, show Sys.nat (Sys.bump _ _ _) _ = _ from congrArg Val.nat (Sys.bump_other _ _ _ _ hother)]
    exact hkeep

/-- A Delay_Resp that finds its stamp takes it and gives the difference (R307). -/
theorem Sys.delayResp_found {y : Sys} {m : PtpMsg} {b : Nat} {e : Tsq} (hb : (y.tbFrom m).contains b = true)
    (he : (y.tsq m.port).find? (fun x => x.id == m.seq && x.tb == b) = some e) :
    y.delayResp m b = (y.setTsq m.port ((y.tsq m.port).filter fun x => !(x.id == m.seq && x.tb == b))).onTb b fun t =>
      { t with sm := some (m.time - e.stamp - m.corr) } := by
  unfold Sys.delayResp
  rw [if_pos hb, he]

/-- Settles O36: samples of Syncs and follow-ups, Delay_Reqs queued and stamped, and their responses. -/
theorem servoSamples : Obligations.ServoSamples := by
  unfold Obligations.ServoSamples
  refine ⟨⟨fun dt b m ms sm s hb hsm hms hkeep => ?sync, fun dt b m s hb => ?wait, fun dt b at_ m a ms sm s hb hwait hseq hport hsm hms hkeep => ?follow⟩,
    fun dt b p uni v6 q y s hy hup hmode hport hmaster hdue huni hv6 haddr hq hroom hgate => ?request,
    fun dt p n b seq u c q h keep y s hy hc hgo hptp hfresh => ?stamp, fun dt b m e s hb he => ?response, fun dt p n keep s hfresh hn => ?expiry⟩
  case sync =>
    exact ⟨_, act_done rfl, Sys.sync_sampled (y := s.sys.elapse dt) hb hsm hms hkeep⟩
  case wait =>
    exact ⟨_, act_done rfl, Sys.sync_waits (y := s.sys.elapse dt) hb⟩
  case follow =>
    exact ⟨_, act_done rfl, Sys.followUp_sampled (y := s.sys.elapse dt) hb hwait hseq hport hsm hms hkeep⟩
  case request =>
    have hreq := (Sys.delayReq_due hup hmode hport hmaster hdue huni hv6 haddr).trans
      (Sys.sendOwn_in (y := y.drSent b) hq hup hroom hgate (y.drPkt b p uni v6))
    refine ⟨_, (y.drSent b).tagged q ((y.drSent b).ownPkt p q (y.drPkt b p uni v6)), act_done ((congrArg _ hy.symm).trans hreq), ⟨rfl, rfl, rfl, rfl⟩,
      rfl, rfl, fun hu => ?_, y.drSent_tb b⟩
    subst hu
    rfl
  case stamp =>
    have hdone := choosing_done (s := s) hc
    rw [← hy, Sys.choose_head hgo] at hdone
    have hout : ((y.wheelServed p).sendHead p n q h).out = [.packet p h.pkt] :=
      ((y.wheelServed p).sendHead_sent p n q h).out.trans (by rw [show (y.wheelServed p).out = [] by rw [hy]; rfl]; rfl)
    obtain ⟨v, hjas, hnow, hpart, hlost, hsend⟩ := (y.wheelServed p).sendHead_stamped (p := p) (c := n) (q := q) hptp
    have hstamps : v.freshStamps p = keep := by
      rw [hfresh]
      unfold Sys.freshStamps Sys.tsq
      rw [hjas, hnow]
      rfl
    refine ⟨fun hroom => ?_, fun hfull => ?_⟩
    · refine ⟨_, v.stampNow p b seq, hdone, hout, ?_, rfl, rfl, hnow, ?_, ?_⟩
      · rw [hsend, Sys.stampPtp_kept (by rw [hstamps]; exact hroom), hstamps]
      · show Sys.tbNow v b = y.tbNow b
        unfold Sys.tbNow Sys.tb
        rw [hjas, hnow]
        rfl
      · show Tab.find _ v.jas.ovf p = _
        rw [hjas]
        rfl
    · obtain ⟨htsq, hcount⟩ := Sys.stampPtp_lost (y := v) (p := p) (by rw [hstamps]; exact hfull) b seq
      refine ⟨_, hdone, hout, ?_, ?_⟩
      · rw [hsend, htsq, hstamps]
      · rw [hsend, hcount, hlost, hpart]
        rfl
  case response =>
    refine ⟨_, act_done (Sys.delayResp_found (y := s.sys.elapse dt) hb he), Sys.onTb_self .., ?_, rfl, rfl⟩
    exact (s.sys.elapse dt).setTsq_self m.port _
  case expiry =>
    subst hfresh hn
    exact ⟨_, act_done rfl, (s.sys.elapse dt).tsqExpiry_tsq p, Sys.bump_nat .., fun k hk => Sys.bump_other _ _ _ _ hk⟩

/-! ### Frames and codewords received (R351 to R354, R364) -/

/-- The counter a received frame belongs to (R351, R353). -/
def Sys.rxCounter (p : Nat) (f : EthFrame) (y : Sys) : Nat :=
  if f.bytes < 64 ∨ (y.port p).maxFrame + (if f.tagged then 4 else 0) < f.bytes then Ob.PortRxLenErr p
  else if f.fecBad = true ∨ f.fcsOk = false then Ob.PortRxFcsErr p
  else if f.etherType = 0x8808 ∨ y.macTakes p f.dst = false then Ob.PortRxCtlDiscard p else Ob.PortRxFrames p

theorem Sys.frameRx_counts {y : Sys} {p : Nat} (hup : y.portUp p = true) (f : EthFrame) : y.frameRx p f = y.bump (y.rxCounter p f) 1 := by
  unfold Sys.frameRx Sys.rxCounter
  simp only [if_pos hup, Bool.not_eq_true, apply_ite fun k => y.bump k 1]

/-- A request for the management port's own address is answered at once (R448). -/
theorem Sys.answerControl_mgmt {y : Sys} {target : Nat} {v6 : Bool} (hcan : y.canAnswer none = true) (hsome : target ≠ 0)
    (hown : target = y.ownAddr none v6) (kind dest n : Nat) (data : List Byte) :
    y.answerControl none v6 kind target dest n data = y.emit (.control kind target dest data) := if_pos ⟨hcan, hsome, hown⟩

/-- The answer of a network port. -/
def Sys.answerPkt (p kind target dest n : Nat) (v6 : Bool) (data : List Byte) (y : Sys) : Pkt :=
  let dst := if v6 then dest else 0xFFFF00000000 + dest
  { owner := .port p, bytes := y.ctlBytes p n, carry := .control kind target data, dest := dst, mac := 0,
    src := if isV6 dst then y.ownAddr (some p) true else 0xFFFF00000000 + y.ownAddr (some p) false }

theorem Sys.answerControl_port {y : Sys} {p target : Nat} {v6 : Bool} (hup : y.portUp p = true) (hsome : target ≠ 0)
    (hown : target = y.ownAddr (some p) v6) (kind dest n : Nat) (data : List Byte) :
    y.answerControl (some p) v6 kind target dest n data = y.sendOwn p 4 (y.answerPkt p kind target dest n v6 data) := if_pos ⟨hup, hsome, hown⟩

/-- A lane after a point of its eye scan (R364). -/
def Lane.scanned (i n eligible mismatches : Nat) (x : Lane) : Lane :=
  { x with scan := if n ≤ i + 1 then none else some (i + 1, n)
           recs := x.recs ++ [eligible / 1024 % 2 ^ 26 * 2 ^ 38 + mismatches % 2 ^ 38] }

theorem Sys.scanPoint_last {y : Sys} {l i n : Nat} (hscan : (y.lane l).scan = some (i, n)) (hlast : n ≤ i + 1) (eligible mismatches : Nat) :
    y.scanPoint l eligible mismatches = (((y.onLane l (Lane.scanned i n eligible mismatches)).setInt (Ob.LnScanPoints l) (i + 1 : Nat)).setInt
      (Ob.LnScanState l) 2).raise 0x0507 (portDie l) l := by
  unfold Sys.scanPoint
  rw [hscan]
  exact if_pos hlast

theorem Sys.scanPoint_more {y : Sys} {l i n : Nat} (hscan : (y.lane l).scan = some (i, n)) (hmore : ¬n ≤ i + 1) (eligible mismatches : Nat) :
    y.scanPoint l eligible mismatches = (y.onLane l (Lane.scanned i n eligible mismatches)).setInt (Ob.LnScanPoints l) (i + 1 : Nat) := by
  unfold Sys.scanPoint
  rw [hscan]
  exact if_neg hmore

/-- The counters of a second of codewords, and the ratio over them (R353, R354). -/
def Sys.fecCounted (p received corrected bad n : Nat) (symbols : List Nat) (y : Sys) : Sys :=
  ((((y.bump (Ob.FecCorrectedCw p) corrected).bump (Ob.FecUncorrectedCw p) bad).bump (Ob.FecSymbolErrors p) n).each
    ((y.portLanes p).zip symbols) fun e y => y.bump (Ob.LnFecSymErr e.1) e.2).setInt (Ob.FecSer p)
      (if received = 0 then 0 else n * 10 ^ 12 / received : Nat)

/-- What follows a second's counting is the judgement of the ratio: a port's state and an event. -/
theorem Sys.fecSecond_live {y : Sys} {p : Nat} (hon : y.portEnabled p = true) (hfec : (y.port p).fec = true) (received corrected bad : Nat)
    (symbols : List Nat) :
    (y.fecSecond p received corrected bad symbols).live = (y.fecCounted p received corrected bad (symbols.foldl (· + ·) 0) symbols).live ∧
      (y.fecSecond p received corrected bad symbols).part = (y.fecCounted p received corrected bad (symbols.foldl (· + ·) 0) symbols).part := by
  have heq : y.fecSecond p received corrected bad symbols = _ := if_pos ⟨hon, hfec⟩
  rw [heq]
  generalize hz : y.fecCounted p received corrected bad (symbols.foldl (· + ·) 0) symbols = z
  have hz' : Sys.setInt (Ob.FecSer p) (if received = 0 then 0 else symbols.foldl (· + ·) 0 * 10 ^ 12 / received : Nat)
    ((((y.bump (Ob.FecCorrectedCw p) corrected).bump (Ob.FecUncorrectedCw p) bad).bump (Ob.FecSymbolErrors p) (symbols.foldl (· + ·) 0)).each
      ((y.portLanes p).zip symbols) fun e y => y.bump (Ob.LnFecSymErr e.1) e.2) = z := hz
  dsimp only
  have hlanes : ((((y.bump (Ob.FecCorrectedCw p) corrected).bump (Ob.FecUncorrectedCw p) bad).bump (Ob.FecSymbolErrors p)
    (symbols.foldl (· + ·) 0)).portLanes p) = y.portLanes p := rfl
  rw [hlanes, hz']
  split
  · split <;> exact ⟨rfl, rfl⟩
  · exact ⟨rfl, rfl⟩


/-- The counters of a port are not those of its lanes, nor the ratio. -/
theorem Sys.fecCounted_counter {p k : Nat} (hk : k % 256 ≠ 21 ∧ k ≠ Ob.FecSer p) (received corrected bad n : Nat) (symbols : List Nat) (y : Sys) :
    (y.fecCounted p received corrected bad n symbols).nat k =
      (((y.bump (Ob.FecCorrectedCw p) corrected).bump (Ob.FecUncorrectedCw p) bad).bump (Ob.FecSymbolErrors p) n).nat k := by
  refine (congrArg Val.nat (Sys.setInt_other _ _ _ _ hk.2)).trans (congrArg Val.nat ?_)
  refine Sys.each_apart (g := fun w : Sys => w.val k) fun e _ w => Sys.bump_other _ _ _ _ fun heq => hk.1 ?_
  rw [heq, Ob.LnFecSymErr]
  omega

/-- The figures of a second of codewords (R353, R354). -/
structure Sys.FecKnown (p received corrected bad n : Nat) (y z : Sys) : Prop where
  corrected : z.nat (Ob.FecCorrectedCw p) = (y.nat (Ob.FecCorrectedCw p) + corrected) % wrapOf y.part.dies (Ob.FecCorrectedCw p)
  bad : z.nat (Ob.FecUncorrectedCw p) = (y.nat (Ob.FecUncorrectedCw p) + bad) % wrapOf y.part.dies (Ob.FecUncorrectedCw p)
  symbols : z.nat (Ob.FecSymbolErrors p) = (y.nat (Ob.FecSymbolErrors p) + n) % wrapOf y.part.dies (Ob.FecSymbolErrors p)
  ratio : z.nat (Ob.FecSer p) = (if received = 0 then 0 else n * 10 ^ 12 / received)

theorem Sys.fecCounted_known (p received corrected bad n : Nat) (symbols : List Nat) (y : Sys) :
    y.FecKnown p received corrected bad n (y.fecCounted p received corrected bad n symbols) := by
  have hne : Ob.FecCorrectedCw p ≠ Ob.FecUncorrectedCw p ∧ Ob.FecCorrectedCw p ≠ Ob.FecSymbolErrors p ∧
      Ob.FecUncorrectedCw p ≠ Ob.FecSymbolErrors p := by
    simp only [Ob.FecCorrectedCw, Ob.FecUncorrectedCw, Ob.FecSymbolErrors]
    omega
  obtain ⟨hcb, hcs, hbs⟩ := hne
  refine ⟨?_, ?_, ?_, ?_⟩
  · rw [Sys.fecCounted_counter (by simp only [Ob.FecCorrectedCw, Ob.FecSer]; omega)]
    refine (congrArg Val.nat ((Sys.bump_other _ _ _ _ hcs).trans (Sys.bump_other _ _ _ _ hcb))).trans ?_
    exact Sys.bump_nat ..
  · rw [Sys.fecCounted_counter (by simp only [Ob.FecUncorrectedCw, Ob.FecSer]; omega)]
    refine (congrArg Val.nat (Sys.bump_other _ _ _ _ hbs)).trans ((Sys.bump_nat ..).trans ?_)
    rw [show Sys.nat (y.bump (Ob.FecCorrectedCw p) corrected) _ = _ from congrArg Val.nat (Sys.bump_other _ _ _ _ hcb.symm)]
    rfl
  · rw [Sys.fecCounted_counter (by simp only [Ob.FecSymbolErrors, Ob.FecSer]; omega), Sys.bump_nat,
      show Sys.nat (Sys.bump _ _ _) (Ob.FecSymbolErrors p) = _ from
        congrArg Val.nat ((Sys.bump_other _ _ _ _ hbs.symm).trans (Sys.bump_other _ _ _ _ hcs.symm))]
    rfl
  · exact Sys.setInt_nat ..

/-- Settles O40: a frame by its counter, requests by their answers, a scan point by its record, a second by its figures. -/
theorem portsReceive : Obligations.PortsReceive := by
  unfold Obligations.PortsReceive
  refine ⟨fun dt p k f s hup hk => ?frame, fun dt target sender data s hcan hsome => ?mgmt,
    fun dt p kind target sender v6 data c q y s hy hup hsome hown hc hq hroom hgate => ?answer, fun dt l i n eligible mismatches s hscan => ?point,
    fun dt p received corrected bad n symbols s hon hfec hn => ?second⟩
  case frame =>
    subst hk
    exact ⟨_, act_done (Sys.frameRx_counts (y := s.sys.elapse dt) hup f), Sys.bump_nat .., fun j hj => Sys.bump_other _ _ _ _ hj, rfl, rfl⟩
  case mgmt =>
    exact ⟨fun hown => act_done (Sys.answerControl_mgmt (y := s.sys.elapse dt) hcan hsome hown ..),
      fun hown => act_done (Sys.answerControl_mgmt (y := s.sys.elapse dt) hcan hsome hown ..),
      fun hown => act_done (Sys.answerControl_mgmt (y := s.sys.elapse dt) hcan hsome hown ..)⟩
  case answer =>
    have hend : ∀ n, y.answerControl (some p) v6 kind target sender n data = _ := fun n =>
      (Sys.answerControl_port hup hsome hown kind sender n data).trans (Sys.sendOwn_in hq hup hroom hgate _)
    obtain ⟨n, hdone⟩ : ∃ n, Does c s (y.answerControl (some p) v6 kind target sender n data) := by
      rcases hc with ⟨rfl, rfl, rfl, rfl⟩ | ⟨rfl, rfl, rfl, rfl⟩ | ⟨rfl, rfl, rfl⟩
      · exact ⟨28, act_done (by rw [hy])⟩
      · exact ⟨72, act_done (by rw [hy])⟩
      · exact ⟨_, act_done (by rw [hy])⟩
    rw [hend n] at hdone
    exact ⟨_, _, hdone, y.lastIn_queued q _, rfl, rfl, rfl⟩
  case point =>
    have hne : Ob.LnScanPoints l ≠ Ob.LnScanState l := by simp only [Ob.LnScanPoints, Ob.LnScanState]; omega
    by_cases hlast : n ≤ i + 1
    · refine ⟨_, act_done (Sys.scanPoint_last (y := s.sys.elapse dt) hscan hlast eligible mismatches), Sys.onLane_self .., ?_, fun _ => ⟨?_, rfl⟩⟩
      · rw [Sys.raise_nat_read, show Sys.nat (Sys.setInt _ _ _) _ = _ from congrArg Val.nat (Sys.setInt_other _ _ _ _ hne)]
        exact Sys.setInt_nat ..
      · exact (Sys.raise_nat_read ..).trans (Sys.setInt_nat _ _ 2)
    · refine ⟨_, act_done (Sys.scanPoint_more (y := s.sys.elapse dt) hscan hlast eligible mismatches), Sys.onLane_self .., Sys.setInt_nat ..,
        fun h => absurd h hlast⟩
  case second =>
    obtain ⟨hlive, hpart⟩ := Sys.fecSecond_live (y := s.sys.elapse dt) hon hfec received corrected bad symbols
    obtain ⟨hc, hb, hs, hr⟩ := (s.sys.elapse dt).fecCounted_known p received corrected bad n symbols
    rw [hn] at hc hb hs hr
    have hread : ∀ k, ((s.sys.elapse dt).fecSecond p received corrected bad symbols).nat k =
        ((s.sys.elapse dt).fecCounted p received corrected bad (symbols.foldl (· + ·) 0) symbols).nat k := fun k => by
      unfold Sys.nat Sys.val
      rw [hlive, hpart]
    refine ⟨_, act_done rfl, ?_, ?_, ?_, ?_⟩
    · rw [hread]
      exact hc
    · rw [hread]
      exact hb
    · rw [hread, hn]
      exact hs
    · rw [hread, hn]
      exact hr

end Sys2Proof.Machine

/-! PROOFS. Bring-up of a port and what takes it down (13; R355 to R360). -/

namespace Sys2Proof.Machine

/-! ### Bursts that end and pages that agree (R356, R357) -/

theorem Sys.burstEnd_due {y : Sys} {l p e : Nat} (hend : (y.lane l).burstEnd = some e) (hdue : e ≤ y.now) (hst : (y.lane l).st = 1)
    (hport : y.lanePort l = some p) : y.burstEnd l =
      if ((y.laneOn p l).portLanes p).all fun k => ((y.laneOn p l).lane k).st != 1 then
        (y.laneOn p l).afterBurst p ((y.laneOn p l).port p).retrain
      else y.laneOn p l := by
  unfold Sys.burstEnd
  rw [hend, hport]
  exact if_pos ⟨hdue, hst⟩

theorem Sys.laneOn_laneWork (p l : Nat) (y : Sys) : y.LaneWork (y.laneOn p l) := (LaneWork.refl y).laneTo _ l

/-- The end of a burst moves its lane on, and no other. -/
theorem Sys.burstEnd_lane {y : Sys} {l p e : Nat} (hend : (y.lane l).burstEnd = some e) (hdue : e ≤ y.now) (hst : (y.lane l).st = 1)
    (hport : y.lanePort l = some p) (k : Nat) : (y.burstEnd l).lane k = (y.laneOn p l).lane k := by
  rw [Sys.burstEnd_due hend hdue hst hport]
  split
  · rw [Sys.afterBurst, Sys.onPort_lane_read]
  · rfl

/-- A lane that has left its burst is in none. -/
theorem Sys.laneOn_left (p l : Nat) (y : Sys) : ((y.laneOn p l).lane l).st = if (y.port p).medium = 1 then 3 else 2 := (y.laneTo_self _ l).1

/-- With no other lane in its burst the port goes on. -/
theorem Sys.burstEnd_last {y : Sys} {l p e : Nat} (hend : (y.lane l).burstEnd = some e) (hdue : e ≤ y.now) (hst : (y.lane l).st = 1)
    (hport : y.lanePort l = some p) (hlast : ∀ k ∈ y.portLanes p, k ≠ l → (y.lane k).st ≠ 1) :
    (y.burstEnd l).port p =
      { y.port p with st := if (y.port p).aneg = 1 ∧ (y.port p).retrain = false then 2 else 3, retrain := false, wait100 := none } := by
  have hwork := y.laneOn_laneWork p l
  have hall : (((y.laneOn p l).portLanes p).all fun k => ((y.laneOn p l).lane k).st != 1) = true := by
    rw [List.all_eq_true, hwork.portLanes]
    intro k hk
    rw [bne_iff_ne]
    by_cases hkl : k = l
    · subst hkl
      rw [Sys.laneOn_left]
      split <;> decide
    · rw [show (y.laneOn p l).lane k = y.lane k from y.laneTo_other hkl]
      exact hlast k hk hkl
  rw [Sys.burstEnd_due hend hdue hst hport, if_pos hall, Sys.afterBurst, Sys.onPort_self, hwork.port]
  simp only [Bool.not_eq_true]

/-- While another lane is in its burst the port waits. -/
theorem Sys.burstEnd_waits {y : Sys} {l p e : Nat} (hend : (y.lane l).burstEnd = some e) (hdue : e ≤ y.now) (hst : (y.lane l).st = 1)
    (hport : y.lanePort l = some p) (hwait : ∃ k ∈ y.portLanes p, k ≠ l ∧ (y.lane k).st = 1) : (y.burstEnd l).port p = y.port p := by
  have hwork := y.laneOn_laneWork p l
  obtain ⟨k, hk, hkl, hone⟩ := hwait
  have hall : (((y.laneOn p l).portLanes p).all fun k => ((y.laneOn p l).lane k).st != 1) = false := by
    rw [List.all_eq_false, hwork.portLanes]
    exact ⟨k, hk, by rw [show (y.laneOn p l).lane k = y.lane k from y.laneTo_other hkl, hone]; decide⟩
  rw [Sys.burstEnd_due hend hdue hst hport, hall, if_neg Bool.false_ne_true, hwork.port]

/-- A page that agrees begins training (R357). -/
theorem Sys.anegPage_agrees {y : Sys} {p : Nat} (hst : (y.port p).st = 2) : y.anegPage p (y.port p).mode true =
    (y.onPort p fun x => { x with st := 3 }).each (y.portLanes p) fun l y => y.onLane l fun x => { x with since := y.now } :=
  have hagree : (y.port p).mode = (y.port p).mode ∧ true = true := ⟨rfl, rfl⟩
  (if_pos hst).trans (if_pos hagree)

theorem Sys.anegMismatch_port (p : Nat) (y : Sys) : (y.anegMismatch p).port p = { y.port p with anegRaised := true } := by
  unfold Sys.anegMismatch
  split
  · next h => rw [← h]
  · rw [Sys.raise_port_read, Sys.onPort_self]

theorem Sys.anegMismatch_raised (p : Nat) (y : Sys) : (y.anegMismatch p).evs.raised = y.evs.raised ++
    if (y.port p).anegRaised then [] else [{ code := 0x0504, die := portDie p, arg := p, t := y.now }] := by
  unfold Sys.anegMismatch
  split
  · rw [List.append_nil]
  · rfl

/-! ### Training (R358) -/

/-- Whether the transmitter of a lane precodes after training, and whether the partner's does. -/
def Sys.precodes (p l : Nat) (asks tap grants : Bool) (y : Sys) : Bool × Bool :=
  (modePam4 (y.port p).mode && asks,
    modePam4 (y.port p).mode && ((y.nat (Ob.LnPrecodeReq l) == 1 || (y.nat (Ob.LnPrecodeReq l) == 2 && tap)) && grants))

/-- The state of precoding as a number. -/
def precodeState (b : Bool × Bool) : Nat := (if b.1 then 2 else 0) + if b.2 then 1 else 0

/-- What the start-up protocol settled, and the count of trainings. -/
def Sys.trainSettled (p l fir snr : Nat) (asks tap grants : Bool) (y : Sys) : Sys :=
  (((y.setInt (Ob.LnPrecodeState l) (precodeState (y.precodes p l asks tap grants) : Nat)).setInt (Ob.LnTxFirLive l) fir).setInt
    (Ob.LnSnr l) snr).bump (Ob.LnTrainCount l) 1

/-- A lane that is trained. -/
def Sys.laneTrained (p l fir snr : Nat) (asks tap grants : Bool) (y : Sys) : Sys :=
  (y.trainSettled p l fir snr asks tap grants).onLane l fun x => { x with st := 4 }

theorem Sys.trainingDone_due {y : Sys} {l p : Nat} (hport : y.lanePort l = some p) (hst : (y.port p).st = 3) (hlane : (y.lane l).st = 2)
    (fir snr : Nat) (asks tap grants : Bool) : y.trainingDone l asks tap grants fir snr =
      if ((y.laneTrained p l fir snr asks tap grants).portLanes p).all fun k => ((y.laneTrained p l fir snr asks tap grants).lane k).st == 4 then
        (y.laneTrained p l fir snr asks tap grants).onPort p fun x => { x with st := 4, alignedAt := none }
      else y.laneTrained p l fir snr asks tap grants := by
  have hstate : ∀ b : Bool × Bool, ((if b.1 then 2 else 0) + (if b.2 then 1 else 0) : Int) = (precodeState b : Nat) := by decide
  unfold Sys.trainingDone
  rw [hport]
  dsimp only
  rw [if_pos (Or.inl ⟨hst, hlane⟩)]
  simp only [hlane, if_true]
  have hset := hstate (y.precodes p l asks tap grants)
  unfold Sys.laneTrained Sys.trainSettled
  rw [← hset]
  rfl

/-- The objects of a lane that is trained (R358). -/
structure Sys.LaneSettled (p l fir snr : Nat) (asks tap grants : Bool) (y z : Sys) : Prop where
  lane : (z.lane l).st = 4
  fir : z.nat (Ob.LnTxFirLive l) = fir
  snr : z.nat (Ob.LnSnr l) = snr
  count : z.nat (Ob.LnTrainCount l) = (y.nat (Ob.LnTrainCount l) + 1) % wrapOf y.part.dies (Ob.LnTrainCount l)
  precode : z.nat (Ob.LnPrecodeState l) = precodeState (y.precodes p l asks tap grants)

theorem Sys.laneTrained_settled (p l fir snr : Nat) (asks tap grants : Bool) (y : Sys) :
    y.LaneSettled p l fir snr asks tap grants (y.laneTrained p l fir snr asks tap grants) := by
  have hkeys : Ob.LnTxFirLive l ≠ Ob.LnSnr l ∧ Ob.LnTxFirLive l ≠ Ob.LnTrainCount l ∧ Ob.LnSnr l ≠ Ob.LnTrainCount l ∧
      Ob.LnPrecodeState l ≠ Ob.LnTxFirLive l ∧ Ob.LnPrecodeState l ≠ Ob.LnSnr l ∧ Ob.LnPrecodeState l ≠ Ob.LnTrainCount l := by
    simp only [Ob.LnTxFirLive, Ob.LnSnr, Ob.LnTrainCount, Ob.LnPrecodeState]
    omega
  obtain ⟨hfs, hfc, hsc, hpf, hps, hpc⟩ := hkeys
  have hread : ∀ {k}, k ≠ Ob.LnTrainCount l → (y.laneTrained p l fir snr asks tap grants).val k =
      (((y.setInt (Ob.LnPrecodeState l) (precodeState (y.precodes p l asks tap grants) : Nat)).setInt (Ob.LnTxFirLive l) fir).setInt
        (Ob.LnSnr l) snr).val k := fun hk => by
    rw [Sys.laneTrained, Sys.onLane_val_read, Sys.trainSettled, Sys.bump_other _ _ _ _ hk]
  refine ⟨?_, ?_, ?_, ?_, ?_⟩
  · rw [Sys.laneTrained, Sys.onLane_self]
  · exact (congrArg Val.nat ((hread hfc).trans (Sys.setInt_other _ _ _ _ hfs))).trans (Sys.setInt_nat ..)
  · exact (congrArg Val.nat (hread hsc)).trans (Sys.setInt_nat ..)
  · rw [Sys.laneTrained, Sys.onLane_nat_read, Sys.trainSettled, Sys.bump_nat]
    rw [show Sys.nat (Sys.setInt _ _ _) (Ob.LnTrainCount l) = _ from congrArg Val.nat ((Sys.setInt_other _ _ _ _ hsc.symm).trans
      ((Sys.setInt_other _ _ _ _ hfc.symm).trans (Sys.setInt_other _ _ _ _ hpc.symm)))]
    rfl
  · exact (congrArg Val.nat ((hread hpc).trans ((Sys.setInt_other _ _ _ _ hps).trans (Sys.setInt_other _ _ _ _ hpf)))).trans (Sys.setInt_nat ..)

theorem Sys.laneTrained_port (p l fir snr : Nat) (asks tap grants : Bool) (q : Nat) (y : Sys) :
    (y.laneTrained p l fir snr asks tap grants).port q = y.port q := by
  rw [Sys.laneTrained, Sys.onLane_port_read, Sys.trainSettled, Sys.bump_port_read]
  rfl

theorem Sys.laneTrained_other {l k : Nat} (h : k ≠ l) (p fir snr : Nat) (asks tap grants : Bool) (y : Sys) :
    (y.laneTrained p l fir snr asks tap grants).lane k = y.lane k := by
  rw [Sys.laneTrained, Sys.onLane_other _ _ _ _ h, Sys.trainSettled, Sys.bump_lane_read]
  rfl

/-- The end of training settles its lane. -/
theorem Sys.trainingDone_settled {y : Sys} {l p : Nat} (hport : y.lanePort l = some p) (hst : (y.port p).st = 3) (hlane : (y.lane l).st = 2)
    (fir snr : Nat) (asks tap grants : Bool) : y.LaneSettled p l fir snr asks tap grants (y.trainingDone l asks tap grants fir snr) := by
  have h := y.laneTrained_settled p l fir snr asks tap grants
  rw [Sys.trainingDone_due hport hst hlane]
  split
  · exact ⟨h.lane, h.fir, h.snr, h.count, h.precode⟩
  · exact h

/-- With the last lane trained the port aligns. -/
theorem Sys.trainingDone_last {y : Sys} {l p : Nat} (hport : y.lanePort l = some p) (hst : (y.port p).st = 3) (hlane : (y.lane l).st = 2)
    (hlast : ∀ k ∈ y.portLanes p, k ≠ l → (y.lane k).st = 4) (fir snr : Nat) (asks tap grants : Bool) :
    ((y.trainingDone l asks tap grants fir snr).port p).st = 4 := by
  have hlanes : (y.laneTrained p l fir snr asks tap grants).portLanes p = y.portLanes p := by
    rw [Sys.portLanes, Sys.laneTrained_port, Sys.portLanes]
  have hall : (((y.laneTrained p l fir snr asks tap grants).portLanes p).all fun k =>
      ((y.laneTrained p l fir snr asks tap grants).lane k).st == 4) = true := by
    rw [List.all_eq_true, hlanes]
    intro k hk
    rw [beq_iff_eq]
    by_cases hkl : k = l
    · rw [hkl]
      exact (y.laneTrained_settled p l fir snr asks tap grants).lane
    · rw [Sys.laneTrained_other hkl]
      exact hlast k hk hkl
  rw [Sys.trainingDone_due hport hst hlane, if_pos hall, Sys.onPort_self]

/-! ### Alignment (R355, R359, R360) -/

theorem Sys.alignmentHeld_done {y : Sys} {p t : Nat} (hst : (y.port p).st = 4) (hat : (y.port p).alignedAt = some t) (hdue : t + msU 1 ≤ y.now) :
    y.alignmentHeld p = (y.onPort p fun x => { x with st := 5, trainRaised := false }).raise 0x0501 (portDie p) p := by
  unfold Sys.alignmentHeld
  rw [hat]
  exact if_pos ⟨hst, hdue⟩

/-- The alignment losses of the last second, with the present one (R360). -/
def Sys.lossesNow (p : Nat) (y : Sys) : List Nat := y.now :: (y.port p).losses.filter fun t => decide (y.now < t + secU 1)

/-- A port that notes an alignment loss. -/
def Sys.lossNoted (p : Nat) (y : Sys) : Sys := y.onPort p fun x => { x with losses := y.lossesNow p }

theorem Sys.alignmentLoss_few {y : Sys} {p : Nat} (hst : (y.port p).st = 5) (hsd : ∀ l ∈ y.portLanes p, (y.lane l).sd = true)
    (hfew : ((y.port p).losses.filter fun t => decide (y.now < t + secU 1)).length < 2) : y.alignmentLoss p = (y.lossNoted p).leaveUp p 4 := by
  have hlanes : (y.lossNoted p).portLanes p = y.portLanes p := y.onPort_portLanes p _ rfl
  have hlen : ¬3 ≤ (y.lossesNow p).length := by
    rw [Sys.lossesNow, List.length_cons]
    omega
  refine (if_pos hst).trans ((if_neg hlen).trans (if_pos ?_))
  exact List.all_eq_true.mpr fun l hl => hsd l (by rwa [← hlanes])

theorem Sys.alignmentLoss_third {y : Sys} {p : Nat} (hst : (y.port p).st = 5)
    (htwo : 2 ≤ ((y.port p).losses.filter fun t => decide (y.now < t + secU 1)).length) :
    y.alignmentLoss p = ((y.lossNoted p).onPort p fun x => { x with losses := [] }).downRetrain p := by
  have hlen : 3 ≤ (y.lossesNow p).length := by
    rw [Sys.lossesNow, List.length_cons]
    omega
  exact (if_pos hst).trans (if_pos hlen)

/-! ### A port goes down (R355, R359) -/

/-- What a port that was up is after a down condition, of the objects and records before it. -/
structure Sys.Retrains (p : Nat) (y z : Sys) : Prop where
  st : (z.port p).st = 6
  retrain : (z.port p).retrain = true
  lanes : ∀ k ∈ y.portLanes p, y.nat (Ob.LnBurstLen k) ≠ 0 → (z.lane k).st = 1
  count : z.nat (Ob.PortLinkDowns p) = (y.nat (Ob.PortLinkDowns p) + 1) % wrapOf y.part.dies (Ob.PortLinkDowns p)
  event : ∃ b, z.evs.raised = y.evs.raised ++ [{ code := 0x0502, die := portDie p, arg := p, t := y.now }] ++ b

theorem Sys.leaveUp_burstLen (p st l : Nat) (y : Sys) : (y.leaveUp p st).nat (Ob.LnBurstLen l) = y.nat (Ob.LnBurstLen l) :=
  congrArg Val.nat (y.leaveUp_val p st (by simp only [Ob.LnBurstLen, Ob.PortDownDrop]; omega)
    (by simp only [Ob.LnBurstLen, Ob.PortLinkDowns]; omega))

theorem Sys.downRetrain_retrains {y : Sys} {p : Nat} (hst : (y.port p).st = 5) (hburst : ∃ q ∈ y.portLanes p, y.nat (Ob.LnBurstLen q) ≠ 0) :
    y.Retrains p (y.downRetrain p) := by
  have hdown : y.downRetrain p = (y.leaveUp p 6).startBurst p true := if_pos hst
  have hlanes : (y.leaveUp p 6).portLanes p = y.portLanes p := y.leaveUp_portLanes p 6
  have hlens : ∀ l, (y.leaveUp p 6).nat (Ob.LnBurstLen l) = y.nat (Ob.LnBurstLen l) := fun l => y.leaveUp_burstLen p 6 l
  have hleft : (y.leaveUp p 6).port p = _ := y.leaveUp_port p 6
  obtain ⟨hcount, b, hraised⟩ := Sys.leaveUp_up 6 hst
  obtain ⟨q, hq, hlen⟩ := hburst
  rw [hdown]
  generalize y.leaveUp p 6 = w at hlanes hlens hleft hcount hraised
  rw [← hlanes] at hq
  rw [← hlens] at hlen
  have hport := w.startBurst_waits true hq hlen
  have hwork := w.startBurst_portWork p true
  refine ⟨?_, ?_, fun k hk hlong => ?_, ?_, b, ?_⟩
  · rw [hport, hleft]
    rfl
  · rw [hport]
    rfl
  · rw [← hlanes] at hk
    rw [← hlens] at hlong
    rw [Sys.startBurst_lane]
    exact (Sys.bursts_long true hk hlong).1
  · rw [hwork.nat fun l => by simp only [Ob.PortLinkDowns, Ob.LnScanState]; omega, hcount]
  · rw [hwork.evs, hraised]

/-- A down condition noted elsewhere than in what a retraining reads retrains as before. -/
theorem Sys.Retrains.of_same {p : Nat} {x y z : Sys} (h : y.Retrains p z) (hmode : (y.port p).mode = (x.port p).mode) (hlive : y.live = x.live)
    (hpart : y.part = x.part) (hnow : y.now = x.now) (hevs : y.evs = x.evs) : x.Retrains p z := by
  have hnat : ∀ k, y.nat k = x.nat k := fun k => by simp only [Sys.nat, Sys.val, hlive, hpart]
  have hlanes : y.portLanes p = x.portLanes p := by simp only [Sys.portLanes, hmode]
  obtain ⟨hst, hretrain, hlane, hcount, hevent⟩ := h
  refine ⟨hst, hretrain, fun k hk hlong => hlane k (hlanes ▸ hk) (by rw [hnat]; exact hlong), by rw [hcount, hnat, hpart], ?_⟩
  rw [← hevs, ← hnow]
  exact hevent

theorem Sys.signalLoss_retrains {y : Sys} {l p : Nat} (hport : y.lanePort l = some p) (hst : (y.port p).st = 5)
    (hburst : ∃ q ∈ y.portLanes p, y.nat (Ob.LnBurstLen q) ≠ 0) : y.Retrains p (y.signalLoss l) := by
  have hport' : (y.onLane l fun x => { x with sd := false }).lanePort l = some p := hport
  have hst' : ((y.onLane l fun x => { x with sd := false }).port p).st = 5 := hst
  have heq : y.signalLoss l = (y.onLane l fun x => { x with sd := false }).downRetrain p := by
    unfold Sys.signalLoss
    dsimp only
    rw [hport']
    exact if_neg (by rw [hst']; decide)
  rw [heq]
  exact (Sys.downRetrain_retrains hst' hburst).of_same rfl rfl rfl rfl rfl

theorem Sys.badWindow_retrains {y : Sys} {p n bad : Nat} (hfec : (y.port p).fec = true) (hbad : n < 100 * bad) (hst : (y.port p).st = 5)
    (hburst : ∃ q ∈ y.portLanes p, y.nat (Ob.LnBurstLen q) ≠ 0) : y.Retrains p (y.badWindow p n bad) := by
  rw [show y.badWindow p n bad = y.downRetrain p from (if_pos hfec).trans (if_pos ⟨hst, hbad⟩)]
  exact Sys.downRetrain_retrains hst hburst

theorem Sys.alignmentLoss_retrains {y : Sys} {p : Nat} (htwo : 2 ≤ ((y.port p).losses.filter fun t => decide (y.now < t + secU 1)).length)
    (hst : (y.port p).st = 5) (hburst : ∃ q ∈ y.portLanes p, y.nat (Ob.LnBurstLen q) ≠ 0) : y.Retrains p (y.alignmentLoss p) := by
  have hport : ((y.lossNoted p).onPort p fun x => { x with losses := [] }).port p = { y.port p with losses := [] } := by
    rw [Sys.onPort_self, Sys.lossNoted, Sys.onPort_self]
  rw [Sys.alignmentLoss_third hst htwo]
  refine (Sys.downRetrain_retrains (by rw [hport]; exact hst) ?_).of_same (by rw [hport]) rfl rfl rfl rfl
  rw [Sys.portLanes, hport]
  exact hburst

/-! ### Training that takes too long (R358) -/

/-- The lanes of a port whose training takes 3 s. -/
def Sys.lateLanes (p : Nat) (y : Sys) : List Nat :=
  (y.portLanes p).filter fun k => decide ((y.lane k).st = 2 ∧ (y.lane k).since + secU 3 ≤ y.now)

/-- They are counted, and every lane waits idle. -/
def Sys.lanesIdle (p : Nat) (y : Sys) : Sys :=
  (y.each (y.lateLanes p) fun k y => y.bump (Ob.LnTrainFails k) 1).each (y.portLanes p) fun k y => y.laneTo 5 k

/-- The port notes the failed training, with its event once. -/
def Sys.failNoted (p l : Nat) (y : Sys) : Sys :=
  let first := !(y.port p).trainRaised
  let y := y.onPort p fun x => { x with trainRaised := true, wait100 := some (y.now + msU 100) }
  if first then y.raise 0x0503 (portDie p) l else y

theorem Sys.trainingTimeout_due {y : Sys} {l p : Nat} (hport : y.lanePort l = some p) (hst : (y.port p).st = 3) (hlane : (y.lane l).st = 2)
    (hlate : (y.lane l).since + secU 3 ≤ y.now) : y.trainingTimeout l = (y.lanesIdle p).failNoted p l := by
  have hdue : (y.port p).st = 3 ∧ (y.lane l).st = 2 ∧ (y.lane l).since + secU 3 ≤ y.now := ⟨hst, hlane, hlate⟩
  unfold Sys.trainingTimeout
  rw [hport]
  dsimp only
  rw [if_pos hdue]
  unfold Sys.failNoted Sys.lanesIdle Sys.lateLanes
  dsimp only

/-- Counted trainings leave the lanes, the ports and the events alone. -/
theorem Sys.failsCounted_apart (ls : List Nat) (y : Sys) :
    (y.each ls fun k y => y.bump (Ob.LnTrainFails k) 1).net = y.net ∧ (y.each ls fun k y => y.bump (Ob.LnTrainFails k) 1).evs = y.evs ∧
      (y.each ls fun k y => y.bump (Ob.LnTrainFails k) 1).now = y.now ∧ (y.each ls fun k y => y.bump (Ob.LnTrainFails k) 1).part = y.part :=
  Sys.each_invariant (I := fun w : Sys => w.net = y.net ∧ w.evs = y.evs ∧ w.now = y.now ∧ w.part = y.part) (fun _ _ h => h) ⟨rfl, rfl, rfl, rfl⟩

theorem Sys.failsCounted_count {ls : List Nat} (hnd : ls.Nodup) {l : Nat} (hl : l ∈ ls) (y : Sys) :
    (y.each ls fun k y => y.bump (Ob.LnTrainFails k) 1).nat (Ob.LnTrainFails l) =
      (y.nat (Ob.LnTrainFails l) + 1) % wrapOf y.part.dies (Ob.LnTrainFails l) := by
  obtain ⟨w, hpart, hold, hend⟩ := Sys.each_once (f := fun k y => Sys.bump (Ob.LnTrainFails k) 1 y) (g := fun x : Sys => x.nat (Ob.LnTrainFails l))
    (I := fun w : Sys => w.part = y.part) hnd hl (fun _ _ h => h)
    (fun k hk x => congrArg Val.nat (Sys.bump_other _ _ _ _ (by simp only [Ob.LnTrainFails]; omega))) rfl
  rw [hend, Sys.bump_nat, hold, hpart]

/-- What the wait of a port's lanes leaves. -/
structure Sys.IdleKept (p : Nat) (y z : Sys) : Prop where
  lanes : ∀ k ∈ y.portLanes p, (z.lane k).st = 5
  port : z.port p = y.port p
  now : z.now = y.now
  evs : z.evs = y.evs

theorem Sys.lanesIdle_kept (p : Nat) (y : Sys) : y.IdleKept p (y.lanesIdle p) := by
  obtain ⟨hnet, hevs, hnow, -⟩ := y.failsCounted_apart (y.lateLanes p)
  unfold Sys.lanesIdle
  generalize y.each (y.lateLanes p) (fun k y => y.bump (Ob.LnTrainFails k) 1) = w at hnet hevs hnow
  have hport : w.port p = y.port p := by rw [Sys.port, hnet, Sys.port]
  have hwork : w.LaneWork (w.each (y.portLanes p) (Sys.laneTo 5)) := .each (fun l _ h => h.laneTo 5 l) (.refl w) _
  exact ⟨fun k hk => Sys.each_laneTo hk, (hwork.port p).trans hport, hwork.now.trans hnow, hwork.evs.trans hevs⟩

theorem Sys.lanesIdle_count {y : Sys} {p l : Nat} (hl : l ∈ y.lateLanes p) :
    (y.lanesIdle p).nat (Ob.LnTrainFails l) = (y.nat (Ob.LnTrainFails l) + 1) % wrapOf y.part.dies (Ob.LnTrainFails l) := by
  have hcount := Sys.failsCounted_count ((y.portLanes_nodup p).filter _) hl y
  have hwork : (y.each (y.lateLanes p) fun k y => y.bump (Ob.LnTrainFails k) 1).LaneWork (y.lanesIdle p) :=
    .each (fun l _ h => h.laneTo 5 l) (.refl _) _
  rw [hwork.nat fun j => by simp only [Ob.LnTrainFails, Ob.LnScanState]; omega]
  exact hcount

/-- What a training that takes too long leaves (R358). -/
structure Sys.TrainFailed (p l : Nat) (y z : Sys) : Prop where
  lanes : ∀ k ∈ y.portLanes p, (z.lane k).st = 5
  port : z.port p = { y.port p with trainRaised := true, wait100 := some (y.now + msU 100) }
  event : z.evs.raised = y.evs.raised ++ (if (y.port p).trainRaised then [] else [{ code := 0x0503, die := portDie p, arg := l, t := y.now }])
  count : z.nat (Ob.LnTrainFails l) = (y.nat (Ob.LnTrainFails l) + 1) % wrapOf y.part.dies (Ob.LnTrainFails l)

theorem Sys.trainingTimeout_failed {y : Sys} {l p : Nat} (hport : y.lanePort l = some p) (hst : (y.port p).st = 3) (hlane : (y.lane l).st = 2)
    (hlate : (y.lane l).since + secU 3 ≤ y.now) : y.TrainFailed p l (y.trainingTimeout l) := by
  obtain ⟨hlanes, hsame, hnow, hevs⟩ := y.lanesIdle_kept p
  have hl : l ∈ y.lateLanes p := by
    have := List.find?_some hport
    exact List.mem_filter.mpr ⟨List.contains_iff_mem.mp this, decide_eq_true ⟨hlane, hlate⟩⟩
  have hcount := Sys.lanesIdle_count hl
  rw [Sys.trainingTimeout_due hport hst hlane hlate]
  generalize y.lanesIdle p = w at hlanes hsame hnow hevs hcount
  unfold Sys.failNoted
  dsimp only
  rw [hsame, hnow]
  split
  · next hfirst =>
    rw [Bool.not_eq_true'] at hfirst
    refine ⟨hlanes, ?_, ?_, hcount⟩
    · rw [Sys.raise_port_read, Sys.onPort_self, hsame]
    · rw [Sys.raise_raised, hfirst, Sys.onPort_evs, hevs, Sys.onPort_now, hnow]
      rfl
  · next hagain =>
    have hraised : (y.port p).trainRaised = true := by simpa using hagain
    refine ⟨hlanes, ?_, ?_, hcount⟩
    · rw [Sys.onPort_self, hsame]
    · rw [hraised, if_pos rfl, List.append_nil, Sys.onPort_evs, hevs]

theorem Sys.trainingRetry_due {y : Sys} {p t : Nat} (hwait : (y.port p).wait100 = some t) (hdue : t ≤ y.now) : y.trainingRetry p = y.startBurst p true := by
  unfold Sys.trainingRetry
  rw [hwait]
  exact if_pos hdue

/-- Settles O39: each command of the bring-up moves its lane and port on, and each down condition retrains. -/
theorem linksChange : Obligations.LinksChange := by
  unfold Obligations.LinksChange
  refine ⟨⟨fun dt l s => ?signal, fun dt l p e s hend hdue hst hport => ?burst, fun dt p s hst => ?page, fun dt p s hst hdue => ?aneg,
    fun dt l p fir snr asks tap grants s hport hst hlane => ?train, fun dt p s hst => ?lock, fun dt p t s hst hat hdue => ?held⟩,
    fun dt l p c s hport _ hst hburst hc => ?down, fun dt p s hst hsd hfew => ?few, fun dt l p s hport hst hlane hlate => ?late,
    fun dt p t s hwait hdue hburst => ?retry⟩
  case signal => exact ⟨_, act_done rfl, Sys.onLane_self .., fun k hk => Sys.onLane_other _ _ _ _ hk, rfl, rfl⟩
  case burst =>
    have hlane := Sys.burstEnd_lane (y := s.sys.elapse dt) hend hdue hst hport
    refine ⟨_, act_done rfl, ?_, ?_, fun k hk => ?_, fun hlast => ?_, Sys.burstEnd_waits (y := s.sys.elapse dt) hend hdue hst hport⟩
    · rw [hlane]
      exact (s.sys.elapse dt).laneOn_left p l
    · rw [hlane]
      exact ((s.sys.elapse dt).laneTo_self _ l).2
    · rw [hlane]
      exact (s.sys.elapse dt).laneTo_other hk
    · rw [Sys.burstEnd_last (y := s.sys.elapse dt) hend hdue hst hport hlast]
      exact ⟨rfl, rfl⟩
  case page =>
    have hlanes : ∀ (w : Sys) (ls : List Nat), w.LaneWork (w.each ls fun l y => y.onLane l fun x => { x with since := y.now }) :=
      fun w ls => .each (fun l _ h => h.onLane l _) (.refl w) ls
    refine ⟨_, act_done (Sys.anegPage_agrees (y := s.sys.elapse dt) hst), ?_, Sys.each_apart (g := Sys.live) fun _ _ _ => rfl, ?_⟩
    · rw [(hlanes _ _).port, Sys.onPort_self]
      rfl
    · exact (hlanes _ _).evs
  case aneg =>
    exact ⟨_, act_done (if_pos ⟨hst, hdue⟩), (s.sys.elapse dt).anegMismatch_port p, (s.sys.elapse dt).anegMismatch_raised p⟩
  case train =>
    obtain ⟨hfour, hfir, hsnr, hcount, hpre⟩ := Sys.trainingDone_settled (y := s.sys.elapse dt) hport hst hlane fir snr asks tap grants
    refine ⟨_, act_done rfl, hfour, hfir, hsnr, hcount, hpre.trans ?_, fun hlast => ?_⟩
    · unfold precodeState Sys.precodes
      rw [← Bool.and_assoc]
      rfl
    · exact Sys.trainingDone_last (y := s.sys.elapse dt) hport hst hlane hlast fir snr asks tap grants
  case lock => exact ⟨_, act_done (if_pos hst), Sys.onPort_self .., rfl⟩
  case held =>
    exact ⟨_, act_done (Sys.alignmentHeld_done (y := s.sys.elapse dt) hst hat hdue), (Sys.raise_port_read ..).trans (Sys.onPort_self ..), rfl, rfl⟩
  case down =>
    obtain ⟨z, hdone, hst', hretrain, hlanes, hcount, b, hevent⟩ : ∃ z, Does c s z ∧ (s.sys.elapse dt).Retrains p z := by
      rcases hc with rfl | ⟨n, bad, rfl, hfec, hbad⟩ | ⟨rfl, htwo⟩
      · exact ⟨_, act_done rfl, Sys.signalLoss_retrains (y := s.sys.elapse dt) hport hst hburst⟩
      · exact ⟨_, act_done rfl, Sys.badWindow_retrains (y := s.sys.elapse dt) hfec hbad hst hburst⟩
      · exact ⟨_, act_done rfl, Sys.alignmentLoss_retrains (y := s.sys.elapse dt) htwo hst hburst⟩
    refine ⟨z, [], b, hdone, hst', hretrain, hlanes, hcount, ?_⟩
    rw [List.append_nil]
    exact hevent
  case few =>
    refine ⟨_, act_done (Sys.alignmentLoss_few (y := s.sys.elapse dt) hst hsd hfew), ?_, fun l => ?_, ?_⟩
    · rw [Sys.leaveUp_port]
    · rw [Sys.leaveUp_lane]
      rfl
    · rw [Sys.leaveUp_port, Sys.lossNoted, Sys.onPort_self]
      rfl
  case late =>
    obtain ⟨hlanes, hsame, hevent, hcount⟩ := Sys.trainingTimeout_failed (y := s.sys.elapse dt) hport hst hlane hlate
    exact ⟨_, act_done rfl, hlanes, hsame, hevent, hcount⟩
  case retry =>
    obtain ⟨q, hq, hlen⟩ := hburst
    have hwaits := (s.sys.elapse dt).startBurst_waits (p := p) true hq hlen
    refine ⟨_, act_done (Sys.trainingRetry_due (y := s.sys.elapse dt) hwait hdue), ?_, ?_, fun k hk hlong => ?_⟩
    · rw [hwaits]
      rfl
    · rw [hwaits]
      rfl
    · rw [Sys.startBurst_lane]
      exact Sys.bursts_long (y := s.sys.elapse dt) true hk hlong


end Sys2Proof.Machine

/-! PROOFS. Onyx (15; R395 to R406): what the trace leaves alone, token queues, and the turns tasks take. -/

namespace Sys2Proof.Machine

/-! ### Onyx but for its trace (R408) -/

/-- Onyx without its trace. -/
def Onyx.untraced (o : Onyx) : Onyx := { o with trace := [], traceCount := 0, traceStopped := false }

/-- A trace with one record more. -/
def Onyx.recorded (w : Nat) (o : Onyx) : Onyx :=
  { o with trace := Tab.put (fun _ => 0) o.trace (o.traceCount % 8192) w, traceCount := o.traceCount + 1 }

theorem Onyx.recorded_untraced (w : Nat) (o : Onyx) : (o.recorded w).untraced = o.untraced := rfl

/-- Whatever holds with no record, with one, with one counted as lost and with the trace stopped holds after a record (R408, R409). -/
theorem Sys.trace_cases {P : Sys → Prop} {y : Sys} {d ty core slot aux : Nat} (hnone : P y) (hlost : P (y.bump (Ob.DieTraceLost d) 1))
    (hstop : P (((y.bump (Ob.DieTraceLost d) 1).onOnyx d fun o => { o with traceStopped := true }).raise 0x0804 d d))
    (hkept : ∀ w, P (y.onOnyx d (Onyx.recorded w))) : P (y.trace d ty core slot aux) := by
  unfold Sys.trace
  dsimp only
  split
  · split
    · split
      · exact hlost
      · exact hstop
    · exact hkept _
  · exact hnone

theorem Sys.onOnyx_self (d : Nat) (f : Onyx → Onyx) (y : Sys) : (y.onOnyx d f).onyx d = f (y.onyx d) := by
  unfold Sys.onyx Sys.onOnyx
  rw [Sys.onDie_self]

/-- `z` is `y` but for Onyx of die `d`, which reads as `o` but for its trace, the objects `ks`, the count of lost trace records, and events
raised. -/
structure Sys.Onyxed (d : Nat) (ks : List Nat) (y : Sys) (o : Onyx) (z : Sys) : Prop where
  onyx : (z.onyx d).untraced = o.untraced
  now : z.now = y.now
  part : z.part = y.part
  upd : z.upd = y.upd
  val : ∀ k, k ≠ Ob.DieTraceLost d → k ∉ ks → z.val k = y.val k
  raised : y.evs.raised <+: z.evs.raised

namespace Sys.Onyxed

variable {d : Nat} {ks : List Nat} {y z : Sys} {o : Onyx}

theorem refl (d : Nat) (ks : List Nat) (y : Sys) : y.Onyxed d ks (y.onyx d) y := ⟨rfl, rfl, rfl, rfl, fun _ _ _ => rfl, List.prefix_rfl⟩

/-- A change of Onyx that neither reads nor writes the trace. -/
theorem onOnyx (h : y.Onyxed d ks o z) {g : Onyx → Onyx} (hg : ∀ x, (g x).untraced = (g x.untraced).untraced) : y.Onyxed d ks (g o) (z.onOnyx d g) := by
  obtain ⟨honyx, hnow, hpart, hupd, hval, hraised⟩ := h
  refine ⟨?_, hnow, hpart, hupd, hval, hraised⟩
  rw [Sys.onOnyx_self, hg, honyx, ← hg]

theorem bump (h : y.Onyxed d ks o z) {k n : Nat} (hk : k ∈ ks ∨ k = Ob.DieTraceLost d) : y.Onyxed d ks o (z.bump k n) :=
  have hne : ∀ {j}, j ≠ Ob.DieTraceLost d → j ∉ ks → j ≠ k := fun hj hjs heq =>
    hk.elim (fun hin => hjs (by rw [heq]; exact hin)) fun hlost => hj (heq.trans hlost)
  ⟨h.onyx, h.now, h.part, h.upd, fun j hj hjs => (Sys.bump_other _ _ _ _ (hne hj hjs)).trans (h.val j hj hjs), h.raised⟩

theorem raise (h : y.Onyxed d ks o z) {c e a : Nat} : y.Onyxed d ks o (z.raise c e a) :=
  ⟨h.onyx, h.now, h.part, h.upd, h.val, h.raised.trans ⟨_, rfl⟩⟩

/-- A change of the trace alone. -/
theorem mark (h : y.Onyxed d ks o z) {g : Onyx → Onyx} (hg : ∀ x, (g x).untraced = x.untraced) : y.Onyxed d ks o (z.onOnyx d g) := by
  obtain ⟨honyx, hnow, hpart, hupd, hval, hraised⟩ := h
  refine ⟨?_, hnow, hpart, hupd, hval, hraised⟩
  rw [Sys.onOnyx_self, hg, honyx]

/-- A trace record is kept in the trace, or counted as lost (R408, R409). -/
theorem trace (h : y.Onyxed d ks o z) {ty core slot aux : Nat} : y.Onyxed d ks o (z.trace d ty core slot aux) := by
  have hlost : y.Onyxed d ks o (z.bump (Ob.DieTraceLost d) 1) := h.bump (Or.inr rfl)
  have hstop : y.Onyxed d ks o ((z.bump (Ob.DieTraceLost d) 1).onOnyx d fun o => { o with traceStopped := true }) :=
    hlost.mark (g := fun o => { o with traceStopped := true }) fun _ => rfl
  exact Sys.trace_cases h hlost hstop.raise fun w => h.mark (Onyx.recorded_untraced w)

theorem nat (h : y.Onyxed d ks o z) {k : Nat} (hk : k ≠ Ob.DieTraceLost d) (hks : k ∉ ks) : z.nat k = y.nat k := congrArg Val.nat (h.val k hk hks)

/-- What does not look at the trace reads as it would of `o`. -/
theorem read (h : y.Onyxed d ks o z) {β : Type} {g : Onyx → β} (hg : ∀ x, g x.untraced = g x) : g (z.onyx d) = g o := by
  rw [← hg, h.onyx, hg]

theorem task (h : y.Onyxed d ks o z) (k : Nat) : (z.onyx d).task k = o.task k := h.read (g := fun x => x.task k) fun _ => rfl

theorem core (h : y.Onyxed d ks o z) (i : Nat) : (z.onyx d).core i = o.core i := h.read (g := fun x => x.core i) fun _ => rfl

theorem queue (h : y.Onyxed d ks o z) (q : Nat) : (z.onyx d).queue q = o.queue q := h.read (g := fun x => x.queue q) fun _ => rfl

theorem queues (h : y.Onyxed d ks o z) : (z.onyx d).queues = o.queues := h.read (g := Onyx.queues) fun _ => rfl

theorem ready (h : y.Onyxed d ks o z) : (z.onyx d).ready = o.ready := h.read (g := Onyx.ready) fun _ => rfl

theorem flags (h : y.Onyxed d ks o z) : (z.onyx d).flags = o.flags := h.read (g := Onyx.flags) fun _ => rfl

theorem sets (h : y.Onyxed d ks o z) : (z.onyx d).sets = o.sets := h.read (g := Onyx.sets) fun _ => rfl

theorem clears (h : y.Onyxed d ks o z) : (z.onyx d).clears = o.clears := h.read (g := Onyx.clears) fun _ => rfl

theorem cancels (h : y.Onyxed d ks o z) : (z.onyx d).cancels = o.cancels := h.read (g := Onyx.cancels) fun _ => rfl

theorem deferred (h : y.Onyxed d ks o z) : (z.onyx d).deferred = o.deferred := h.read (g := Onyx.deferred) fun _ => rfl

theorem credit (h : y.Onyxed d ks o z) : (z.onyx d).credit = o.credit := h.read (g := Onyx.credit) fun _ => rfl

theorem spares (h : y.Onyxed d ks o z) : (z.onyx d).spares = o.spares := h.read (g := Onyx.spares) fun _ => rfl

theorem faults (h : y.Onyxed d ks o z) : (z.onyx d).faults = o.faults := h.read (g := Onyx.faults) fun _ => rfl

theorem testing (h : y.Onyxed d ks o z) : (z.onyx d).testing = o.testing := h.read (g := Onyx.testing) fun _ => rfl

end Sys.Onyxed

/-- Without the trace a record leaves no trace. -/
theorem Sys.trace_off {y : Sys} (hoff : y.flag Ob.OnyxTraceEnable = false) (d ty core slot aux : Nat) : y.trace d ty core slot aux = y :=
  if_neg fun h => by rw [hoff] at h; exact Bool.false_ne_true h.1

/-! ### The tables of Onyx -/

theorem Onyx.setTask_self (o : Onyx) (k : Nat) (t : Task) : (o.setTask k t).task k = t := Tab.find_put_self ..

theorem Onyx.setTask_other (o : Onyx) {k j : Nat} (t : Task) (h : j ≠ k) : (o.setTask k t).task j = o.task j := Tab.find_put_other _ _ _ h

theorem Onyx.setCore_self (o : Onyx) (i : Nat) (c : Core) : (o.setCore i c).core i = c := Tab.find_put_self ..

theorem Onyx.setCore_other (o : Onyx) {i j : Nat} (c : Core) (h : j ≠ i) : (o.setCore i c).core j = o.core j := Tab.find_put_other _ _ _ h

theorem Onyx.setQueue_self (o : Onyx) (q : Nat) (x : TokQ) : (o.setQueue q x).queue q = x := by
  unfold Onyx.queue Onyx.setQueue
  exact Tab.find_put_self ..

theorem Onyx.setQueue_other (o : Onyx) {q r : Nat} (x : TokQ) (h : r ≠ q) : (o.setQueue q x).queue r = o.queue r := Tab.find_put_other _ _ _ h

/-! ### Token queues (R405, R406) -/

/-- A producer that holds a push, with its core stalled. -/
def Onyx.holds (q who tok now : Nat) (o : Onyx) : Onyx :=
  let x := { o.queue q with held := some (who, tok, now, (o.core who).run) }
  if who < 30 then (o.setQueue q x).setCore who { o.core who with stalled := true } else o.setQueue q x

theorem Onyx.holds_queue (q who tok now : Nat) (o : Onyx) :
    (o.holds q who tok now).queue q = { o.queue q with held := some (who, tok, now, (o.core who).run) } := by
  unfold Onyx.holds
  dsimp only
  split <;> exact Onyx.setQueue_self ..

theorem Onyx.holds_core {who : Nat} (h : who < 30) (q tok now : Nat) (o : Onyx) : ((o.holds q who tok now).core who).stalled = true := by
  unfold Onyx.holds
  dsimp only
  rw [if_pos h, Onyx.setCore_self]

theorem Sys.tokenPush_room {y : Sys} {d q : Nat} (hfree : ((y.onyx d).queue q).held = none)
    (hroom : ((y.onyx d).queue q).tokens.length < queueDepth d q) (who tok : Nat) : y.tokenPush d q who tok =
      y.onOnyx d fun o => o.setQueue q { (y.onyx d).queue q with tokens := ((y.onyx d).queue q).tokens ++ [tok] } := by
  unfold Sys.tokenPush
  dsimp only
  rw [hfree, if_neg (by decide), if_pos hroom]

theorem Sys.tokenPush_full {y : Sys} {d q : Nat} (hfree : ((y.onyx d).queue q).held = none)
    (hfull : queueDepth d q ≤ ((y.onyx d).queue q).tokens.length) (who tok : Nat) : y.tokenPush d q who tok =
      ((y.onOnyx d fun o => if who < 30 then (o.setQueue q { (y.onyx d).queue q with held := some (who, tok, y.now, ((y.onyx d).core who).run) }).setCore who
          { o.core who with stalled := true }
        else o.setQueue q { (y.onyx d).queue q with held := some (who, tok, y.now, ((y.onyx d).core who).run) }).bump (Ob.DieQueueHolds d) 1).trace
          d 0x0A (producerCore who) q 0 := by
  unfold Sys.tokenPush
  dsimp only
  rw [hfree, if_neg (by decide), if_neg (Nat.not_lt.mpr hfull)]
  rfl

/-- A push held enters: the queue with its token, its producer's core on again. -/
def Onyx.released (q p : Nat) (x : TokQ) (o : Onyx) : Onyx :=
  if p < 30 then (o.setQueue q x).setCore p { o.core p with stalled := false } else o.setQueue q x

theorem Onyx.released_queue (q p : Nat) (x : TokQ) (o : Onyx) : (o.released q p x).queue q = x := by
  unfold Onyx.released
  split <;> exact Onyx.setQueue_self ..

theorem Onyx.released_core {p : Nat} (h : p < 30) (q : Nat) (x : TokQ) (o : Onyx) : ((o.released q p x).core p).stalled = false := by
  unfold Onyx.released
  rw [if_pos h, Onyx.setCore_self]

theorem Sys.retryPush_in {y : Sys} {d q p tok since bank : Nat} (hheld : ((y.onyx d).queue q).held = some (p, tok, since, bank))
    (hroom : ((y.onyx d).queue q).tokens.length < queueDepth d q) (hbank : 30 ≤ p ∨ ((y.onyx d).core p).run = bank) :
    y.retryPush d q =
      (y.onOnyx d (Onyx.released q p { (y.onyx d).queue q with held := none, tokens := ((y.onyx d).queue q).tokens ++ [tok] })).trace
        d 0x0B (producerCore p) q 0 := by
  unfold Sys.retryPush
  dsimp only
  rw [hheld]
  dsimp only
  rw [if_pos ⟨hroom, hbank⟩]
  rfl

theorem Sys.retryPush_none {y : Sys} {d q : Nat} (hfree : ((y.onyx d).queue q).held = none) : y.retryPush d q = y := by
  unfold Sys.retryPush
  dsimp only
  rw [hfree]

/-- A queue whose oldest token has been taken. -/
def Sys.popped (d q : Nat) (r : List Nat) (y : Sys) : Sys :=
  y.onOnyx d fun o => o.setQueue q { (y.onyx d).queue q with tokens := r, errBit := false }

theorem Sys.popped_onyx (d q : Nat) (r : List Nat) (y : Sys) :
    (y.popped d q r).onyx d = (y.onyx d).setQueue q { (y.onyx d).queue q with tokens := r, errBit := false } := Sys.onOnyx_self ..

theorem Sys.popped_queue (d q : Nat) (r : List Nat) (y : Sys) :
    ((y.popped d q r).onyx d).queue q = { (y.onyx d).queue q with tokens := r, errBit := false } := by
  rw [Sys.popped_onyx, Onyx.setQueue_self]

theorem Sys.tokenPop_empty {y : Sys} {d q : Nat} (h : ((y.onyx d).queue q).tokens = []) :
    y.tokenPop d q = y.onOnyx d fun o => o.setQueue q { (y.onyx d).queue q with errBit := true } := by
  unfold Sys.tokenPop
  dsimp only
  rw [h]

theorem Sys.tokenPop_some {y : Sys} {d q h : Nat} {r : List Nat} (hr : ((y.onyx d).queue q).tokens = h :: r) :
    y.tokenPop d q = (y.popped d q r).retryPush d q := by
  unfold Sys.tokenPop
  dsimp only
  rw [hr]
  rfl

theorem Sys.holdLimit_long {y : Sys} {d q p t since bank : Nat} (hheld : ((y.onyx d).queue q).held = some (p, t, since, bank))
    (hlong : since + usU 10 < y.now) : y.holdLimit d q = y.raiseLimited 0x0802 d d q := by
  unfold Sys.holdLimit
  rw [hheld]
  exact if_pos hlong

/-- Settles O46: a push that enters or is held, a pop with and without a held push, and a long hold. -/
theorem tokenQueues : Obligations.TokenQueues := by
  unfold Obligations.TokenQueues
  intro dt d q who tok x y s hy hx
  subst hx
  refine ⟨fun hfree hroom => ?room, fun hfree hfull => ?full, fun hempty => ?empty, fun h r hr hfree => ?pop,
    fun h p t since bank r hr hheld hroom hbank => ?popHeld, fun p t since bank hheld hlong hrecent => ?limit⟩
  case room =>
    refine ⟨_, act_done ((congrArg _ hy.symm).trans (Sys.tokenPush_room hfree hroom who tok)), ?_, rfl, rfl, fun r hr => ?_⟩
    · rw [Sys.onOnyx_self, Onyx.setQueue_self]
    · rw [Sys.onOnyx_self, Onyx.setQueue_other _ _ hr]
  case full =>
    have hne : Ob.DieQueueHolds d ≠ Ob.DieTraceLost d := by simp only [Ob.DieQueueHolds, Ob.DieTraceLost]; omega
    have hpush : y.tokenPush d q who tok =
        ((y.onOnyx d fun _ => (y.onyx d).holds q who tok y.now).bump (Ob.DieQueueHolds d) 1).trace d 0x0A (producerCore who) q 0 :=
      (Sys.tokenPush_full hfree hfull who tok).trans rfl
    have honyx : (((y.onOnyx d fun _ => (y.onyx d).holds q who tok y.now).bump (Ob.DieQueueHolds d) 1).onyx d) = (y.onyx d).holds q who tok y.now :=
      (congrArg Die.onyx (Sys.bump_die_read ..)).trans (Sys.onOnyx_self ..)
    have htrace := (Sys.Onyxed.refl d [] ((y.onOnyx d fun _ => (y.onyx d).holds q who tok y.now).bump (Ob.DieQueueHolds d) 1)).trace (ty := 0x0A)
      (core := producerCore who) (slot := q) (aux := 0)
    refine ⟨_, act_done ((congrArg _ hy.symm).trans hpush), ?_, fun hwho => ?_, ?_⟩
    · rw [htrace.queue, honyx, Onyx.holds_queue]
    · rw [htrace.core, honyx, Onyx.holds_core hwho]
    · rw [htrace.nat hne List.not_mem_nil, Sys.bump_nat]
      rfl
  case empty =>
    refine ⟨_, act_done ((congrArg _ hy.symm).trans (Sys.tokenPop_empty hempty)), ?_, rfl, rfl⟩
    rw [Sys.onOnyx_self, Onyx.setQueue_self]
  case pop =>
    have hfree' : (((y.popped d q r).onyx d).queue q).held = none := by
      rw [Sys.popped_queue]
      exact hfree
    refine ⟨_, act_done ((congrArg _ hy.symm).trans ((Sys.tokenPop_some hr).trans (Sys.retryPush_none hfree'))), y.popped_queue d q r, rfl, rfl⟩
  case popHeld =>
    have hqueue := y.popped_queue d q r
    have hcore : ((y.popped d q r).onyx d).core p = (y.onyx d).core p := by
      rw [Sys.popped_onyx]
      rfl
    have hin := Sys.retryPush_in (y := y.popped d q r) (d := d) (q := q) (p := p) (tok := t) (since := since) (bank := bank)
      (by rw [hqueue]; exact hheld) (by rw [hqueue]; exact hroom) (by rw [hcore]; exact hbank)
    rw [hqueue] at hin
    have htrace := ((Sys.Onyxed.refl d [] (y.popped d q r)).onOnyx
      (g := Onyx.released q p { (y.onyx d).queue q with tokens := r ++ [t], held := none, errBit := false })
      (fun o => by unfold Onyx.released; split <;> rfl)).trace (ty := 0x0B) (core := producerCore p) (slot := q) (aux := 0)
    refine ⟨_, act_done ((congrArg _ hy.symm).trans ((Sys.tokenPop_some hr).trans hin)), ?_, fun hp => ?_⟩
    · rw [htrace.queue, Onyx.released_queue]
    · rw [htrace.core, Onyx.released_core hp]
  case limit =>
    have hnow : y.now = s.sys.now + dt := by rw [hy]; rfl
    refine ⟨_, act_done ((congrArg _ hy.symm).trans (Sys.holdLimit_long hheld hlong)), Sys.raiseLimited_live .., ?_, ?_⟩
    · exact congrArg Die.onyx (Sys.raiseLimited_die_read ..)
    · rw [Sys.raiseLimited_fresh _ _ _ _ _ hrecent]

end Sys2Proof.Machine

/-! PROOFS. The turns tasks take (15; R395 to R403, R430): arming, one cycle's flags, slots and dispatch. -/

namespace Sys2Proof.Machine

/-! ### Arming (R398) -/

theorem Sys.armTask_idle {y : Sys} {d k : Nat} (h : ((y.onyx d).task k).st = 0) :
    y.armTask d k = (y.onOnyx d fun o => o.setTask k { (y.onyx d).task k with st := 1 }).trace d 0x0D 31 k ((y.onyx d).task k).prio := if_pos h

theorem Sys.armTask_ignored {y : Sys} {d k : Nat} (h : ((y.onyx d).task k).st ≠ 0) : y.armTask d k = y.bump (Ob.DieCmdIgnored d) 1 := if_neg h

/-! ### The flags of a cycle (R395, R397) -/

/-- Clears leave the flags that mirror token queues alone. -/
def clearFlag (l : List Nat) (e : Nat × Nat) : List Nat := if e.1 < 0x300 then l.filter fun f => f != e.1 else l

/-- So do sets. -/
def setFlag (l : List Nat) (e : Nat × Nat) : List Nat := if e.1 < 0x300 then if l.contains e.1 then l else e.1 :: l else l

theorem mem_clearFlag {f : Nat} (hf : f < 0x300) (l : List Nat) (e : Nat × Nat) : f ∈ clearFlag l e ↔ f ∈ l ∧ f ≠ e.1 := by
  unfold clearFlag
  split
  · rw [List.mem_filter, bne_iff_ne]
  · next hlarge => exact ⟨fun h => ⟨h, fun heq => hlarge (heq ▸ hf)⟩, And.left⟩

theorem mem_setFlag {f : Nat} (hf : f < 0x300) (l : List Nat) (e : Nat × Nat) : f ∈ setFlag l e ↔ f ∈ l ∨ f = e.1 := by
  unfold setFlag
  split
  · split
    · next hin => exact ⟨Or.inl, fun h => h.elim id fun heq => heq ▸ List.contains_iff_mem.mp hin⟩
    · rw [List.mem_cons, or_comm]
  · next hlarge => exact ⟨Or.inl, fun h => h.elim id fun heq => absurd (heq ▸ hf) hlarge⟩

theorem mem_clearFlags {f : Nat} (hf : f < 0x300) (es : List (Nat × Nat)) (l : List Nat) :
    f ∈ es.foldl clearFlag l ↔ f ∈ l ∧ ∀ who, (f, who) ∉ es := by
  induction es generalizing l with
  | nil => simp
  | cons e es ih =>
    rw [List.foldl_cons, ih, mem_clearFlag hf, and_assoc]
    refine and_congr_right fun _ => ⟨fun ⟨hne, hes⟩ who hin => ?_, fun h => ⟨fun heq => ?_, fun who hin => h who (List.mem_cons_of_mem e hin)⟩⟩
    · rcases List.mem_cons.mp hin with heq | hin
      · exact hne (by rw [← heq])
      · exact hes who hin
    · exact h e.2 (by rw [heq]; exact List.mem_cons_self)

theorem mem_setFlags {f : Nat} (hf : f < 0x300) (es : List (Nat × Nat)) (l : List Nat) :
    f ∈ es.foldl setFlag l ↔ f ∈ l ∨ ∃ who, (f, who) ∈ es := by
  induction es generalizing l with
  | nil => simp
  | cons e es ih =>
    rw [List.foldl_cons, ih, mem_setFlag hf, or_assoc]
    refine or_congr_right ⟨fun h => ?_, fun ⟨who, hin⟩ => ?_⟩
    · rcases h with heq | ⟨who, hin⟩
      · exact ⟨e.2, by rw [heq]; exact List.mem_cons_self⟩
      · exact ⟨who, List.mem_cons_of_mem e hin⟩
    · rcases List.mem_cons.mp hin with heq | hin
      · exact Or.inl (by rw [← heq])
      · exact Or.inr ⟨who, hin⟩

/-- One clear, with its record. -/
def Sys.clearOne (d : Nat) (e : Nat × Nat) (y : Sys) : Sys :=
  if e.1 < 0x300 then (y.onOnyx d fun o => { o with flags := o.flags.filter fun f => f != e.1 }).trace d 0x09 31 e.2 e.1 else y

/-- One set, with its record. -/
def Sys.setOne (d : Nat) (e : Nat × Nat) (y : Sys) : Sys :=
  if e.1 < 0x300 then
    (y.onOnyx d fun o => { o with flags := if o.flags.contains e.1 then o.flags else e.1 :: o.flags }).trace d 0x08 31 e.2 e.1
  else y

/-- The updates of the flags are taken. -/
def Sys.updatesTaken (d : Nat) (y : Sys) : Sys := y.onOnyx d fun o => { o with sets := [], clears := [] }

theorem Sys.cycleFlags_eq (d : Nat) (y : Sys) :
    y.cycleFlags d = ((y.updatesTaken d).each (y.onyx d).clears (Sys.clearOne d)).each (y.onyx d).sets (Sys.setOne d) := rfl

namespace Sys.Onyxed

variable {d : Nat} {ks : List Nat} {y z : Sys} {o : Onyx}

theorem clearOne (h : y.Onyxed d ks o z) (e : Nat × Nat) : y.Onyxed d ks { o with flags := clearFlag o.flags e } (z.clearOne d e) := by
  unfold Sys.clearOne clearFlag
  split
  · exact (h.onOnyx (g := fun x => { x with flags := x.flags.filter fun f => f != e.1 }) fun _ => rfl).trace
  · exact h

theorem setOne (h : y.Onyxed d ks o z) (e : Nat × Nat) : y.Onyxed d ks { o with flags := setFlag o.flags e } (z.setOne d e) := by
  unfold Sys.setOne setFlag
  split
  · exact (h.onOnyx (g := fun x => { x with flags := if x.flags.contains e.1 then x.flags else e.1 :: x.flags }) fun _ => rfl).trace
  · exact h

theorem clearAll (h : y.Onyxed d ks o z) (es : List (Nat × Nat)) :
    y.Onyxed d ks { o with flags := es.foldl clearFlag o.flags } (z.each es (Sys.clearOne d)) := by
  induction es generalizing o z with
  | nil => exact h
  | cons e es ih => exact ih (h.clearOne e)

theorem setAll (h : y.Onyxed d ks o z) (es : List (Nat × Nat)) :
    y.Onyxed d ks { o with flags := es.foldl setFlag o.flags } (z.each es (Sys.setOne d)) := by
  induction es generalizing o z with
  | nil => exact h
  | cons e es ih => exact ih (h.setOne e)

end Sys.Onyxed

/-- Step 1 of a cycle: clears before sets (R397). -/
def Onyx.updated (o : Onyx) : Onyx := { o with sets := [], clears := [], flags := o.sets.foldl setFlag (o.clears.foldl clearFlag o.flags) }

theorem Sys.cycleFlags_onyxed (d : Nat) (y : Sys) : y.Onyxed d [] (y.onyx d).updated (y.cycleFlags d) := by
  rw [Sys.cycleFlags_eq]
  have htaken : y.Onyxed d [] { y.onyx d with sets := [], clears := [] } (y.updatesTaken d) :=
    (Onyxed.refl d [] y).onOnyx (g := fun o => { o with sets := [], clears := [] }) fun _ => rfl
  exact (htaken.clearAll _).setAll _

/-- With no update nothing of Onyx but the trace's place in the state changes. -/
theorem Onyx.updated_none {o : Onyx} (hsets : o.sets = []) (hclears : o.clears = []) : o.updated = o := by
  cases o
  subst hsets hclears
  rfl

theorem Onyx.updated_flagSet {f : Nat} (hf : f < 0x300) (o : Onyx) : o.updated.flagSet f = true ↔
    (∃ who, (f, who) ∈ o.sets) ∨ (o.flagSet f = true ∧ ∀ who, (f, who) ∉ o.clears) := by
  unfold Onyx.flagSet
  rw [if_pos hf, if_pos hf, List.contains_iff_mem, List.contains_iff_mem, or_comm]
  exact (mem_setFlags hf _ _).trans (or_congr_left (mem_clearFlags hf _ _))

/-! ### The slots of a cycle (R397, R399) -/

/-- Cancels are taken. -/
def Sys.cancelsTaken (d : Nat) (y : Sys) : Sys := y.onOnyx d fun o => { o with cancels := [] }

/-- The slots considered, and the state after each. -/
def Sys.slotsRun (d : Nat) (y : Sys) : List Nat × Sys :=
  (slotsOf (Tab.keys (y.onyx d).tasks ++ (y.onyx d).cancels)).foldl (Sys.cycleSlot d (y.onyx d).cancels) ([], y.cancelsTaken d)

/-- Those that became ready are queued. -/
def Onyx.queuedReady (l : List Nat) (o : Onyx) : Onyx := { o with ready := o.ready ++ l.map fun s => ((o.task s).prio, s) }

theorem Sys.cycleTasks_eq (d : Nat) (y : Sys) : y.cycleTasks d = (y.slotsRun d).2.onOnyx d (Onyx.queuedReady (y.slotsRun d).1) := rfl

theorem Sys.Onyxed.cancelsTaken {d : Nat} {ks : List Nat} {y z : Sys} {o : Onyx} (h : y.Onyxed d ks o z) :
    y.Onyxed d ks { o with cancels := [] } (z.cancelsTaken d) := h.onOnyx (g := fun o => { o with cancels := [] }) fun _ => rfl

theorem Sys.Onyxed.queuedReady {d : Nat} {ks : List Nat} {y z : Sys} {o : Onyx} (h : y.Onyxed d ks o z) (l : List Nat) :
    y.Onyxed d ks (o.queuedReady l) (z.onOnyx d (Onyx.queuedReady l)) := h.onOnyx fun _ => rfl

theorem slotsOf_one (k : Nat) : slotsOf [k] = [k] := rfl

theorem slotsOf_twice (k : Nat) : slotsOf [k, k] = [k] := by
  simp [slotsOf, Tab.insert, Tab.keys]

/-- A slot that neither waits nor is cancelled stays as it is. -/
theorem Sys.cycleSlot_other {y : Sys} {d s : Nat} (hst : ((y.onyx d).task s).st ≠ 1) (l : List Nat) : Sys.cycleSlot d [] (l, y) s = (l, y) := by
  unfold Sys.cycleSlot
  dsimp only
  rw [if_neg hst]
  rfl

theorem Sys.cycleSlots_other {y : Sys} {d : Nat} (hst : ∀ s, ((y.onyx d).task s).st ≠ 1) (l slots : List Nat) :
    slots.foldl (Sys.cycleSlot d []) (l, y) = (l, y) := by
  induction slots with
  | nil => rfl
  | cons s slots ih => rw [List.foldl_cons, Sys.cycleSlot_other (hst s), ih]

/-- A waiting slot whose condition does not hold stays as it is. -/
theorem Sys.cycleSlot_waits {y : Sys} {d s : Nat} (hcond : (y.onyx d).cond ((y.onyx d).task s) = false) (l : List Nat) :
    Sys.cycleSlot d [] (l, y) s = (l, y) := by
  unfold Sys.cycleSlot
  dsimp only
  rw [hcond]
  split <;> rfl

/-- A task that becomes ready, its flags consumed (R397). -/
def Onyx.readied (s : Nat) (t : Task) (o : Onyx) : Onyx :=
  { o.setTask s { t with st := 2 } with flags := if t.consume then o.flags.filter fun f => !t.waits.contains f else o.flags }

theorem Sys.cycleSlot_ready {y : Sys} {d s : Nat} {t : Task} (ht : (y.onyx d).task s = t) (hst : t.st = 1) (hcond : (y.onyx d).cond t = true)
    (l : List Nat) : Sys.cycleSlot d [] (l, y) s = (l ++ [s], (y.onOnyx d (Onyx.readied s t)).trace d 0x01 31 s t.prio) := by
  unfold Sys.cycleSlot
  dsimp only
  rw [ht, if_pos hst, hcond]
  rfl

/-- A waiting task that is cancelled is idle. -/
theorem Sys.cycleSlot_cancelled {y : Sys} {d s : Nat} {t : Task} (ht : (y.onyx d).task s = t) (hst : t.st = 1) (l : List Nat) :
    ∃ ty aux, Sys.cycleSlot d [s] (l, y) s = (l, (y.onOnyx d fun o => o.setTask s { t with st := 0 }).trace d ty 31 s aux) := by
  unfold Sys.cycleSlot
  dsimp only
  rw [ht, if_pos hst, if_pos (by simp)]
  exact ⟨_, _, rfl⟩

/-! ### Dispatch (R400 to R403) -/

theorem Task.prio_lt (t : Task) : t.prio < 8 := Nat.mod_lt _ (by decide)

theorem Task.cls_lt (t : Task) : t.cls < 8 := Nat.mod_lt _ (by decide)

theorem Onyx.readyOrder_none {o : Onyx} (h : o.ready = []) : o.readyOrder = [] := by
  unfold Onyx.readyOrder
  rw [h]
  rfl

theorem Onyx.readyOrder_one {o : Onyx} {p k : Nat} (hp : p < 8) (h : o.ready = [(p, k)]) : o.readyOrder = [k] := by
  unfold Onyx.readyOrder
  rw [h]
  interval_cases p <;> rfl

/-- The turns of a cycle: flags, slots, then the ready tasks in order. -/
theorem Sys.onyxCycle_eq (d : Nat) (y : Sys) :
    y.onyxCycle d = ((((y.cycleFlags d).cycleTasks d).onyx d).readyOrder).foldl (Sys.tryDispatch d) ((y.cycleFlags d).cycleTasks d) := rfl

/-- A core with a task started in one of its banks. -/
def Core.started (bank s desc : Nat) (c : Core) : Core :=
  { c with banks := c.banks.set bank (some s), run := bank, args := c.args.set bank (bits desc 31 0) }

/-- Onyx with a task started on a core. -/
def Onyx.started (core bank s : Nat) (t : Task) (o : Onyx) : Onyx :=
  { (o.setTask s { t with st := 3 }).setCore core ((o.core core).started bank s t.desc) with ready := o.ready.filter fun r => r.2 != s }

theorem Sys.startOn_eq (d core bank s : Nat) (y : Sys) : y.startOn d core bank s =
    (y.onOnyx d (Onyx.started core bank s ((y.onyx d).task s))).trace d 0x02 core s (8 * bank + ((y.onyx d).task s).prio) := rfl

theorem Sys.Onyxed.startOn {d : Nat} {ks : List Nat} {y z : Sys} {o : Onyx} (h : y.Onyxed d ks o z) (core bank s : Nat) :
    y.Onyxed d ks (o.started core bank s (o.task s)) (z.startOn d core bank s) := by
  rw [Sys.startOn_eq, h.task]
  exact (h.onOnyx (g := Onyx.started core bank s (o.task s)) fun _ => rfl).trace

theorem Onyx.started_task (o : Onyx) (core bank s : Nat) (t : Task) : (o.started core bank s t).task s = { t with st := 3 } :=
  Onyx.setTask_self ..

theorem Onyx.started_other (o : Onyx) {s j : Nat} (core bank : Nat) (t : Task) (h : j ≠ s) : (o.started core bank s t).task j = o.task j :=
  Onyx.setTask_other _ _ h

theorem Onyx.started_core (o : Onyx) (core bank s : Nat) (t : Task) :
    (o.started core bank s t).core core = (o.core core).started bank s t.desc := Onyx.setCore_self ..

theorem Onyx.started_core_other (o : Onyx) {core j : Nat} (bank s : Nat) (t : Task) (h : j ≠ core) :
    (o.started core bank s t).core j = o.core j := Onyx.setCore_other _ _ h

/-- What dispatch reads of a class is not what a cycle's records change. -/
theorem Sys.Onyxed.classOk {d : Nat} {y z : Sys} {o : Onyx} (h : y.Onyxed d [] o z) (hcredit : o.credit = (y.onyx d).credit) {c : Nat}
    (hc : c < 8) : z.classOk d c = y.classOk d c := by
  have hnat : z.nat (Ob.OnyxCycleShare c) = y.nat (Ob.OnyxCycleShare c) :=
    h.nat (by simp only [Ob.OnyxCycleShare, Ob.DieTraceLost]; omega) List.not_mem_nil
  unfold Sys.classOk
  rw [hnat, h.credit, hcredit]

theorem Sys.tryDispatch_idle {y : Sys} {d s i : Nat} (hok : y.classOk d ((y.onyx d).task s).cls = true)
    (hi : (y.onyx d).idleCore ((y.onyx d).task s) = some i) : y.tryDispatch d s = y.startOn d i 0 s := by
  unfold Sys.tryDispatch
  dsimp only
  rw [if_pos hok, hi]

theorem Sys.tryDispatch_preempts {y : Sys} {d s i : Nat} (hok : y.classOk d ((y.onyx d).task s).cls = true)
    (hnone : (y.onyx d).idleCore ((y.onyx d).task s) = none) (hlevel : y.nat Ob.OnyxPreemptLevel ≤ ((y.onyx d).task s).prio)
    (hi : (y.onyx d).victim ((y.onyx d).task s) = some i) : y.tryDispatch d s = y.preemptOn d i s := by
  unfold Sys.tryDispatch
  dsimp only
  rw [if_pos hok, hnone]
  dsimp only
  rw [if_pos hlevel, hi]

theorem Sys.tryDispatch_passes {y : Sys} {d s : Nat} (hno : y.classOk d ((y.onyx d).task s).cls = false) :
    y.tryDispatch d s = y.passOver d ((y.onyx d).task s).cls := by
  unfold Sys.tryDispatch
  dsimp only
  rw [if_neg (by rw [hno]; decide)]

theorem Sys.preemptOn_running {y : Sys} {d i s v : Nat} (hv : ((y.onyx d).core i).running = some v) : y.preemptOn d i s =
    (((y.onOnyx d fun o => o.setTask v { (y.onyx d).task v with st := 4 }).trace d 0x03 i v ((y.onyx d).task v).prio).bump (Ob.DiePreempts d) 1).startOn
      d i (1 - ((y.onyx d).core i).run) s := by
  unfold Sys.preemptOn
  dsimp only
  rw [hv]

/-- The victim of a task runs one of a lower priority. -/
theorem Onyx.victim_canPreempt {o : Onyx} {t : Task} {i : Nat} (h : o.victim t = some i) : o.canPreempt t i = true := by
  have hfold : ∀ (l : List Nat) (b : Option Nat), (∀ j, b = some j → o.canPreempt t j = true) → (∀ j ∈ l, o.canPreempt t j = true) →
      l.foldl (fun best i => match best with
        | none => some i
        | some j => if o.runPrio i < o.runPrio j then some i else best) b = some i → o.canPreempt t i = true := by
    intro l
    induction l with
    | nil => exact fun b hb _ hi => hb i hi
    | cons a l ih =>
      intro b hb hl hi
      refine ih _ (fun j hj => ?_) (fun j hj => hl j (List.mem_cons_of_mem a hj)) hi
      have ha := hl a List.mem_cons_self
      cases b with
      | none =>
        injection hj with hj
        exact hj ▸ ha
      | some c =>
        dsimp only at hj
        split at hj
        · injection hj with hj
          exact hj ▸ ha
        · exact hb j hj
  exact hfold _ none (fun _ hj => by cases hj) (fun j hj => (List.mem_filter.mp hj).2) h

theorem Onyx.canPreempt_lower {o : Onyx} {t : Task} {i v : Nat} (h : o.canPreempt t i = true) (hv : (o.core i).running = some v) :
    (o.task v).prio < t.prio := by
  unfold Onyx.canPreempt at h
  dsimp only at h
  rw [hv, Bool.and_eq_true] at h
  exact of_decide_eq_true (Bool.and_eq_true_iff.mp h.2).2

theorem Sys.passOver_deferred {y : Sys} {d c : Nat} {o : Onyx} {z : Sys} (h : y.Onyxed d [] o z) :
    ∃ l, y.Onyxed d [] { o with deferred := l } (z.passOver d c) ∧ l.contains c = true := by
  unfold Sys.passOver
  split
  · next hin =>
    exact ⟨o.deferred, h, h.deferred ▸ hin⟩
  · exact ⟨c :: o.deferred, (h.onOnyx (g := fun o => { o with deferred := c :: o.deferred }) fun _ => rfl).trace, by simp⟩

/-! ### Cycles (R397) -/

theorem Sys.Onyxed.tasks {d : Nat} {ks : List Nat} {y z : Sys} {o : Onyx} (h : y.Onyxed d ks o z) : (z.onyx d).tasks = o.tasks :=
  h.read (g := Onyx.tasks) fun _ => rfl

theorem Sys.Onyxed.readyOrder {d : Nat} {ks : List Nat} {y z : Sys} {o : Onyx} (h : y.Onyxed d ks o z) : (z.onyx d).readyOrder = o.readyOrder :=
  h.read (g := Onyx.readyOrder) fun _ => rfl

/-- The slots of a cycle on a state whose Onyx reads as `o`. -/
theorem Sys.Onyxed.slotsRun {d : Nat} {ks : List Nat} {y z : Sys} {o : Onyx} (h : y.Onyxed d ks o z) : z.slotsRun d =
    (slotsOf (Tab.keys o.tasks ++ o.cancels)).foldl (Sys.cycleSlot d o.cancels) ([], z.cancelsTaken d) := by
  rw [← h.tasks, ← h.cancels]
  rfl

/-- A cycle whose slots leave Onyx as `o`, with those of `l` ready. -/
theorem Sys.Onyxed.cycle {d : Nat} {y z : Sys} {o : Onyx} {l : List Nat} (hrun : (y.cycleFlags d).slotsRun d = (l, z)) (h : y.Onyxed d [] o z) :
    ∃ w, y.Onyxed d [] (o.queuedReady l) w ∧ y.onyxCycle d = (o.queuedReady l).readyOrder.foldl (Sys.tryDispatch d) w := by
  refine ⟨z.onOnyx d (Onyx.queuedReady l), h.queuedReady l, ?_⟩
  rw [Sys.onyxCycle_eq, Sys.cycleTasks_eq, hrun, (h.queuedReady l).readyOrder]

theorem Onyx.queuedReady_none (o : Onyx) : o.queuedReady [] = o := by
  unfold Onyx.queuedReady
  rw [List.map_nil, List.append_nil]

/-- A cycle that makes no task ready, and finds none, ends with its slots. -/
theorem Sys.Onyxed.cycle_none {d : Nat} {y z : Sys} {o : Onyx} (hrun : (y.cycleFlags d).slotsRun d = ([], z)) (h : y.Onyxed d [] o z)
    (hready : o.ready = []) : y.Onyxed d [] o (y.onyxCycle d) := by
  obtain ⟨w, hw, hcycle⟩ := h.cycle hrun
  rw [Onyx.queuedReady_none] at hw hcycle
  rw [hcycle, Onyx.readyOrder_none hready]
  exact hw

theorem Onyx.taken_none {o : Onyx} (hsets : o.sets = []) (hclears : o.clears = []) (hcancels : o.cancels = []) :
    { o with sets := [], clears := [], cancels := [] } = o := by
  cases o
  subst hsets hclears hcancels
  rfl

/-- With no tasks, cancels and ready tasks a cycle takes the updates of the flags. -/
theorem Sys.onyxCycle_flags {y : Sys} {d : Nat} (htasks : (y.onyx d).tasks = []) (hcancels : (y.onyx d).cancels = [])
    (hready : (y.onyx d).ready = []) : y.Onyxed d [] { (y.onyx d).updated with cancels := [] } (y.onyxCycle d) := by
  have hflags := y.cycleFlags_onyxed d
  have hrun : (y.cycleFlags d).slotsRun d = ([], (y.cycleFlags d).cancelsTaken d) := by
    rw [hflags.slotsRun, show (y.onyx d).updated.tasks = [] from htasks, show (y.onyx d).updated.cancels = [] from hcancels]
    rfl
  exact hflags.cancelsTaken.cycle_none hrun hready

section
variable {y : Sys} {d k : Nat} {t : Task} (hsets : (y.onyx d).sets = []) (hclears : (y.onyx d).clears = [])

include hsets hclears

/-- With no updates a cycle's slots begin with Onyx as it is. -/
theorem Sys.cycleFlags_none : y.Onyxed d [] (y.onyx d) (y.cycleFlags d) := by
  have h := y.cycleFlags_onyxed d
  rwa [Onyx.updated_none hsets hclears] at h

variable (htasks : (y.onyx d).tasks = [(k, t)]) (hready : (y.onyx d).ready = [])

include htasks

omit hsets hclears in
theorem Onyx.task_one : (y.onyx d).task k = t := by
  unfold Onyx.task
  rw [htasks]
  exact if_pos rfl

/-- The slots of a cycle with one task and no cancel. -/
theorem Sys.slotsRun_one (hcancels : (y.onyx d).cancels = []) :
    (y.cycleFlags d).slotsRun d = Sys.cycleSlot d [] ([], (y.cycleFlags d).cancelsTaken d) k := by
  rw [(Sys.cycleFlags_none hsets hclears).slotsRun, htasks, hcancels]
  rfl

/-- Onyx after a task became ready and was queued. -/
def Onyx.turned (k : Nat) (t : Task) (o : Onyx) : Onyx := (({ o with cancels := [] } : Onyx).readied k t).queuedReady [k]

include hready

/-- A waiting task whose condition holds starts at once on the lowest idle core its class and its pin allow (R397, R401). -/
theorem Sys.onyxCycle_starts (hst : t.st = 1) (hcancels : (y.onyx d).cancels = []) (hcond : (y.onyx d).cond t = true)
    (hclass : y.classOk d t.cls = true) {i : Nat} (hi : (y.onyx d).idleCore t = some i) :
    y.Onyxed d [] (((y.onyx d).turned k t).started i 0 k { t with st := 2 }) (y.onyxCycle d) := by
  have htaken := (Sys.cycleFlags_none hsets hclears).cancelsTaken
  have htask : (((y.cycleFlags d).cancelsTaken d).onyx d).task k = t := (htaken.task k).trans (Onyx.task_one htasks)
  have hcond' : (((y.cycleFlags d).cancelsTaken d).onyx d).cond t = true := (htaken.read (g := fun o => o.cond t) fun _ => rfl).trans hcond
  have hrun := (Sys.slotsRun_one hsets hclears htasks hcancels).trans (Sys.cycleSlot_ready htask hst hcond' [])
  have hslot := (htaken.onOnyx (g := Onyx.readied k t) fun _ => rfl).trace (ty := 0x01) (core := 31) (slot := k) (aux := t.prio)
  obtain ⟨w, hw, hcycle⟩ : ∃ w, y.Onyxed d [] ((y.onyx d).turned k t) w ∧
    y.onyxCycle d = ((y.onyx d).turned k t).readyOrder.foldl (Sys.tryDispatch d) w := hslot.cycle hrun
  have hturned : ((y.onyx d).turned k t).task k = { t with st := 2 } := Onyx.setTask_self ..
  have hone : ((y.onyx d).turned k t).readyOrder = [k] := by
    refine Onyx.readyOrder_one t.prio_lt ?_
    have hqueued : ((y.onyx d).turned k t).ready = (y.onyx d).ready ++ [((((y.onyx d).turned k t).task k).prio, k)] := rfl
    rw [hqueued, hturned, hready]
    rfl
  have hthere : (w.onyx d).task k = { t with st := 2 } := (hw.task k).trans hturned
  have hstart : w.tryDispatch d k = w.startOn d i 0 k := by
    refine Sys.tryDispatch_idle ?_ ?_
    · rw [hthere, hw.classOk rfl (Task.cls_lt _)]
      exact hclass
    · rw [hthere]
      exact (hw.read (g := fun o => o.idleCore { t with st := 2 }) fun _ => rfl).trans hi
  rw [hcycle, hone, List.foldl_cons, hstart, ← hturned]
  exact hw.startOn i 0 k

/-- One whose condition does not hold waits. -/
theorem Sys.onyxCycle_waits (hcancels : (y.onyx d).cancels = []) (hcond : (y.onyx d).cond t = false) :
    y.onyxCycle d = (((y.updatesTaken d).cancelsTaken d).onOnyx d (Onyx.queuedReady [])) := by
  have hflags : y.cycleFlags d = y.updatesTaken d := by
    rw [Sys.cycleFlags_eq, hsets, hclears]
    rfl
  have htaken := (Sys.cycleFlags_none hsets hclears).cancelsTaken
  have htask : (((y.cycleFlags d).cancelsTaken d).onyx d).task k = t := (htaken.task k).trans (Onyx.task_one htasks)
  have hcond' : (((y.cycleFlags d).cancelsTaken d).onyx d).cond ((((y.cycleFlags d).cancelsTaken d).onyx d).task k) = false := by
    rw [htask]
    exact (htaken.read (g := fun o => o.cond t) fun _ => rfl).trans hcond
  have hrun := (Sys.slotsRun_one hsets hclears htasks hcancels).trans (Sys.cycleSlot_waits hcond' [])
  rw [Sys.onyxCycle_eq, Sys.cycleTasks_eq, hrun, (htaken.queuedReady []).readyOrder,
    Onyx.readyOrder_none (by rw [Onyx.queuedReady_none]; exact hready), hflags]
  rfl

/-- A cancelled one is idle (R399). -/
theorem Sys.onyxCycle_cancels (hst : t.st = 1) (hcancels : (y.onyx d).cancels = [k]) :
    y.Onyxed d [] (({ y.onyx d with cancels := [] } : Onyx).setTask k { t with st := 0 }) (y.onyxCycle d) := by
  have hflags := Sys.cycleFlags_none hsets hclears
  have htask : (((y.cycleFlags d).cancelsTaken d).onyx d).task k = t := (hflags.cancelsTaken.task k).trans (Onyx.task_one htasks)
  obtain ⟨ty, aux, hslot⟩ := Sys.cycleSlot_cancelled htask hst []
  have hkeys : slotsOf (Tab.keys [(k, t)] ++ [k]) = [k] := slotsOf_twice k
  have hone : (y.cycleFlags d).slotsRun d = Sys.cycleSlot d [k] ([], (y.cycleFlags d).cancelsTaken d) k := by
    rw [hflags.slotsRun, htasks, hcancels, hkeys]
    rfl
  have hrun := hone.trans hslot
  exact ((hflags.cancelsTaken.onOnyx (g := fun o => o.setTask k { t with st := 0 }) fun _ => rfl).trace).cycle_none hrun hready

end

section
variable {y : Sys} {d k : Nat} {t : Task} (htask : (y.onyx d).task k = t) (hnone : ∀ j, ((y.onyx d).task j).st ≠ 1)
  (hsets : (y.onyx d).sets = []) (hclears : (y.onyx d).clears = []) (hcancels : (y.onyx d).cancels = []) (hready : (y.onyx d).ready = [(t.prio, k)])

include htask hnone hsets hclears hcancels hready

omit htask in
/-- With no task waiting and one ready a cycle dispatches that one. -/
theorem Sys.onyxCycle_ready : ∃ w, y.Onyxed d [] (y.onyx d) w ∧ y.onyxCycle d = w.tryDispatch d k := by
  have htaken := (Sys.cycleFlags_none hsets hclears).cancelsTaken
  have hrun : (y.cycleFlags d).slotsRun d = ([], (y.cycleFlags d).cancelsTaken d) := by
    rw [(Sys.cycleFlags_none hsets hclears).slotsRun, hcancels]
    exact Sys.cycleSlots_other (fun j => by rw [htaken.task]; exact hnone j) [] _
  obtain ⟨w, hw, hcycle⟩ := htaken.cycle hrun
  have hsame : ({ y.onyx d with cancels := [] } : Onyx) = y.onyx d := by rw [← hcancels]
  rw [Onyx.queuedReady_none, hsame] at hw hcycle
  refine ⟨w, hw, hcycle.trans ?_⟩
  rw [Onyx.readyOrder_one t.prio_lt hready]
  rfl

/-- Onyx after a task has pre-empted the one a core runs. -/
def Onyx.preempted (i v k : Nat) (t : Task) (o : Onyx) : Onyx :=
  (o.setTask v { o.task v with st := 4 }).started i (1 - (o.core i).run) k t

/-- A ready task of a level that may pre-empts its victim (R402). -/
theorem Sys.onyxCycle_preempts (hclass : y.classOk d t.cls = true) (hidle : (y.onyx d).idleCore t = none)
    (hlevel : y.nat Ob.OnyxPreemptLevel ≤ t.prio) {i v : Nat} (hi : (y.onyx d).victim t = some i) (hv : ((y.onyx d).core i).running = some v) :
    v ≠ k ∧ y.Onyxed d [Ob.DiePreempts d] ((y.onyx d).preempted i v k t) (y.onyxCycle d) ∧
      (y.onyxCycle d).nat (Ob.DiePreempts d) = (y.nat (Ob.DiePreempts d) + 1) % wrapOf y.part.dies (Ob.DiePreempts d) := by
  obtain ⟨w, hw, hcycle⟩ := Sys.onyxCycle_ready hnone hsets hclears hcancels hready
  have hvk : v ≠ k := fun heq => by
    have hlower := Onyx.canPreempt_lower (Onyx.victim_canPreempt hi) hv
    rw [heq, htask] at hlower
    exact Nat.lt_irrefl _ hlower
  have hthere : (w.onyx d).task k = t := (hw.task k).trans htask
  have hcore : (w.onyx d).core i = (y.onyx d).core i := hw.core i
  have hlevel' : w.nat Ob.OnyxPreemptLevel = y.nat Ob.OnyxPreemptLevel :=
    hw.nat (by simp only [Ob.OnyxPreemptLevel, Ob.DieTraceLost]; omega) List.not_mem_nil
  have hpre : w.tryDispatch d k = w.preemptOn d i k := by
    refine Sys.tryDispatch_preempts (by rw [hthere, hw.classOk rfl t.cls_lt]; exact hclass) ?_ (by rw [hthere, hlevel']; exact hlevel) ?_
    · rw [hthere]
      exact (hw.read (g := fun o => o.idleCore t) fun _ => rfl).trans hidle
    · rw [hthere]
      exact (hw.read (g := fun o => o.victim t) fun _ => rfl).trans hi
  have hmark := (hw.onOnyx (g := fun o => o.setTask v { (y.onyx d).task v with st := 4 }) fun _ => rfl).trace (ty := 0x03) (core := i) (slot := v)
    (aux := ((y.onyx d).task v).prio)
  have hk : ((y.onyx d).setTask v { (y.onyx d).task v with st := 4 }).task k = t := (Onyx.setTask_other _ _ hvk.symm).trans htask
  have hend : y.onyxCycle d = (((w.onOnyx d fun o => o.setTask v { (y.onyx d).task v with st := 4 }).trace d 0x03 i v
      ((y.onyx d).task v).prio).bump (Ob.DiePreempts d) 1).startOn d i (1 - ((y.onyx d).core i).run) k := by
    rw [hcycle, hpre, Sys.preemptOn_running (v := v) (by rw [hcore]; exact hv), hw.task, hcore]
  rw [hend]
  refine ⟨hvk, ?_, ?_⟩
  · have hmark' : y.Onyxed d [Ob.DiePreempts d] _ _ := ⟨hmark.onyx, hmark.now, hmark.part, hmark.upd, fun j hj _ => hmark.val j hj List.not_mem_nil,
      hmark.raised⟩
    have hstart := (hmark'.bump (n := 1) (Or.inl (List.mem_singleton_self _))).startOn i (1 - ((y.onyx d).core i).run) k
    rw [hk] at hstart
    exact hstart
  · have hne : Ob.DiePreempts d ≠ Ob.DieTraceLost d := by simp only [Ob.DiePreempts, Ob.DieTraceLost]; omega
    generalize (w.onOnyx d fun o => o.setTask v { (y.onyx d).task v with st := 4 }).trace d 0x03 i v ((y.onyx d).task v).prio = x at hmark
    have hstart := (Sys.Onyxed.refl d [] (x.bump (Ob.DiePreempts d) 1)).startOn i (1 - ((y.onyx d).core i).run) k
    rw [hstart.nat hne List.not_mem_nil, Sys.bump_nat, hmark.nat hne List.not_mem_nil, hmark.part]

/-- One whose class has no credit waits, its class noted (R400, R430). -/
theorem Sys.onyxCycle_passes (hclass : y.classOk d t.cls = false) :
    ∃ l, y.Onyxed d [] { y.onyx d with deferred := l } (y.onyxCycle d) ∧ l.contains t.cls = true := by
  obtain ⟨w, hw, hcycle⟩ := Sys.onyxCycle_ready hnone hsets hclears hcancels hready
  have hthere : (w.onyx d).task k = t := (hw.task k).trans htask
  rw [hcycle, Sys.tryDispatch_passes (by rw [hthere, hw.classOk rfl t.cls_lt]; exact hclass), hthere]
  exact Sys.passOver_deferred hw

end

/-- Settles O44: arming and the updates that wait, one cycle's flags, and the slot that starts, waits, ends, pre-empts or is passed over. -/
theorem tasksTakeTurns : Obligations.TasksTakeTurns := by
  unfold Obligations.TasksTakeTurns
  refine ⟨fun dt d k f who o y s hy ho => ?now, fun dt d o y s hy ho => ⟨fun htasks hcancels hready => ?flags,
    fun k t htasks hst hsets hclears hready => ?slot, fun k t ht _ hnone hsets hclears hcancels hready => ?dispatch⟩⟩
  case now =>
    subst ho hy
    refine ⟨fun hst => ?_, fun hst => ?_, ⟨_, act_done rfl, Sys.onOnyx_self .., rfl, rfl⟩, ⟨_, act_done rfl, Sys.onOnyx_self .., rfl, rfl⟩,
      ⟨_, act_done rfl, Sys.onOnyx_self .., rfl, rfl⟩⟩
    · generalize hy : s.sys.elapse dt = y at hst
      have h := ((Sys.Onyxed.refl d [] y).onOnyx (g := fun o => o.setTask k { (y.onyx d).task k with st := 1 }) fun _ => rfl).trace
        (ty := 0x0D) (core := 31) (slot := k) (aux := ((y.onyx d).task k).prio)
      refine ⟨_, act_done ((congrArg _ hy).trans (Sys.armTask_idle hst)), ?_, fun j hj => ?_, h.flags, h.ready, fun hoff => ?_⟩
      · rw [h.task, Onyx.setTask_self]
      · rw [h.task, Onyx.setTask_other _ _ hj]
      · rw [Sys.trace_off (y := y.onOnyx d fun o => o.setTask k { (y.onyx d).task k with st := 1 }) hoff]
        exact ⟨rfl, rfl⟩
    · exact ⟨_, act_done (Sys.armTask_ignored hst), rfl, Sys.bump_nat .., fun j hj => Sys.bump_other _ _ _ _ hj⟩
  case flags =>
    subst ho
    have h := Sys.onyxCycle_flags htasks hcancels hready
    refine ⟨_, act_done (congrArg _ hy.symm), h.sets, h.clears, fun f hf => ?_⟩
    rw [h.read (g := fun o => o.flagSet f) fun _ => rfl]
    exact Onyx.updated_flagSet hf _
  case slot =>
    subst ho
    refine ⟨fun i hcancels hcond hclass hi => ?_, fun hcancels hcond => ?_, fun hcancels => ?_⟩
    · have h := Sys.onyxCycle_starts hsets hclears htasks hready hst hcancels hcond hclass hi
      refine ⟨_, act_done (congrArg _ hy.symm), ?_, ?_, ?_, fun j hj => ?_, h.flags⟩
      · rw [h.task, Onyx.started_task]
      · rw [h.ready]
        have hqueued : ((y.onyx d).turned k t).ready = (y.onyx d).ready ++ [((((y.onyx d).turned k t).task k).prio, k)] := rfl
        show (((y.onyx d).turned k t).ready.filter fun r => r.2 != k) = []
        rw [hqueued, hready]
        simp
      · rw [h.core, Onyx.started_core]
        rfl
      · rw [h.core, Onyx.started_core_other _ _ _ _ hj]
        rfl
    · have hwait := Sys.onyxCycle_waits hsets hclears htasks hready hcancels hcond
      refine ⟨_, act_done ((congrArg _ hy.symm).trans hwait), ?_, rfl, rfl⟩
      rw [Sys.onOnyx_self, Onyx.queuedReady_none, Sys.cancelsTaken, Sys.onOnyx_self, Sys.updatesTaken, Sys.onOnyx_self]
      exact Onyx.taken_none hsets hclears hcancels
    · have h := Sys.onyxCycle_cancels hsets hclears htasks hready hst hcancels
      refine ⟨_, act_done (congrArg _ hy.symm), ?_, h.ready.trans hready, h.cancels, h.flags, h.core⟩
      rw [h.task, Onyx.setTask_self]
  case dispatch =>
    subst ho
    refine ⟨fun i v hclass hidle hlevel hi hv => ?_, fun hclass => ?_⟩
    · obtain ⟨hvk, h, hcount⟩ := Sys.onyxCycle_preempts ht.symm hnone hsets hclears hcancels hready hclass hidle hlevel hi hv
      refine ⟨_, act_done (congrArg _ hy.symm), ?_, ?_, ?_, ?_, hcount⟩
      · rw [h.task, Onyx.preempted, Onyx.started_other _ _ _ _ hvk, Onyx.setTask_self]
      · rw [h.task, Onyx.preempted, Onyx.started_task]
      · rw [h.core, Onyx.preempted, Onyx.started_core]
        rfl
      · rw [h.ready]
        show ((y.onyx d).ready.filter fun r => r.2 != k) = []
        rw [hready]
        simp
    · obtain ⟨l, h, hl⟩ := Sys.onyxCycle_passes ht.symm hnone hsets hclears hcancels hready hclass
      refine ⟨_, act_done (congrArg _ hy.symm), (h.task k).trans ht.symm, h.ready, ?_, h.core⟩
      rw [h.deferred]
      exact hl


end Sys2Proof.Machine

/-! PROOFS. The end of a run, a core's fault and its test (15, 19; R397, R403, R407, R430, R505). -/

namespace Sys2Proof.Machine

/-! ### A run ends (R397, R403, R430) -/

/-- The cycles a run is charged with: those of a firmware task are at most its longest run (R392). -/
def Task.charged (t : Task) (n : Nat) : Nat :=
  match t.role with
  | some r => min n r.1.longest
  | none => n

theorem Sys.runEnds_idle {y : Sys} {d i : Nat} (h : ((y.onyx d).core i).running = none) (n : Nat) (job : Job) : y.runEnds d i n job = y := by
  unfold Sys.runEnds
  rw [h]

theorem Sys.runEnds_plain {y : Sys} {d i k : Nat} (h : ((y.onyx d).core i).running = some k) (n : Nat) :
    y.runEnds d i n .plain = y.runComplete d i (((y.onyx d).task k).charged n) := by
  unfold Sys.runEnds
  rw [h]
  dsimp only
  rw [if_neg fun hjob => ?_]
  · rfl
  · rw [hjob.2] at hjob
    exact Bool.false_ne_true hjob.1

/-- Onyx after a run: the task ends, its bank is free, its done flag is set and its class charged. -/
def Onyx.ended (i k m now : Nat) (t : Task) (c : Core) (o : Onyx) : Onyx :=
  { (o.setTask k { t with st := if t.rearm then 1 else 0, faulted := false }).setCore i { c with banks := c.banks.set c.run none } with
    sets := if t.doneEn then o.sets ++ [(t.doneFlag, k)] else o.sets
    credit := Tab.modify (fun _ => 0) o.credit t.cls fun n => n - m
    runs := (now, m) :: o.runs.filter fun r => decide (now < r.1 + secU 1) }

theorem Sys.runComplete_running {y : Sys} {d i k : Nat} (h : ((y.onyx d).core i).running = some k) (m : Nat) : y.runComplete d i m =
    ((y.onOnyx d (Onyx.ended i k m y.now ((y.onyx d).task k) ((y.onyx d).core i))).trace d 0x05 i k ((y.onyx d).task k).prio).afterRun d i := by
  unfold Sys.runComplete
  dsimp only
  rw [h]
  rfl

theorem Onyx.ended_core (i k m now : Nat) (t : Task) (c : Core) (o : Onyx) :
    (o.ended i k m now t c).core i = { c with banks := c.banks.set c.run none } := Onyx.setCore_self ..

theorem Onyx.ended_task (i k m now : Nat) (t : Task) (c : Core) (o : Onyx) :
    (o.ended i k m now t c).task k = { t with st := if t.rearm then 1 else 0, faulted := false } := Onyx.setTask_self ..

theorem Onyx.ended_other {k j : Nat} (h : j ≠ k) (i m now : Nat) (t : Task) (c : Core) (o : Onyx) :
    (o.ended i k m now t c).task j = o.task j := Onyx.setTask_other _ _ h

/-- The other of two banks is not the one that ran. -/
theorem Core.other_bank {c : Core} (hrun : c.run < 2) : (c.banks.set c.run none).getD (1 - c.run) none = c.banks.getD (1 - c.run) none := by
  rw [List.getD_eq_getElem?_getD, List.getD_eq_getElem?_getD, List.getElem?_set_ne (by omega)]

/-- With nothing in its other bank the core is idle. -/
theorem Sys.afterRun_idle {y : Sys} {d i : Nat} (h : ((y.onyx d).core i).banks.getD (1 - ((y.onyx d).core i).run) none = none) :
    y.afterRun d i = y := by
  unfold Sys.afterRun
  dsimp only
  rw [h]

/-- A core that resumes the task of its other bank (R403). -/
def Onyx.resumed (i v : Nat) (c : Core) (o : Onyx) : Onyx := (o.setTask v { o.task v with st := 3 }).setCore i { c with run := 1 - c.run }

theorem Sys.afterRun_resumes {y : Sys} {d i v : Nat} (h : ((y.onyx d).core i).banks.getD (1 - ((y.onyx d).core i).run) none = some v)
    (hready : (y.onyx d).ready = []) : y.afterRun d i =
      ((y.onOnyx d (Onyx.resumed i v ((y.onyx d).core i))).trace d 0x04 i v ((y.onyx d).task v).prio).retryAll d i := by
  unfold Sys.afterRun
  dsimp only
  rw [h, Onyx.readyOrder_none hready]
  rfl

/-- Pushes that are tried again leave the tasks, and what each core runs, alone. -/
def Onyx.SameRuns (o p : Onyx) : Prop := (∀ k, p.task k = o.task k) ∧ ∀ i, (p.core i).running = (o.core i).running

theorem Onyx.released_sameRuns (q p : Nat) (x : TokQ) (o : Onyx) : o.SameRuns (o.released q p x) := by
  unfold Onyx.released
  split
  · refine ⟨fun _ => rfl, fun i => ?_⟩
    by_cases hi : i = p
    · subst hi
      rw [Onyx.setCore_self]
      rfl
    · rw [Onyx.setCore_other _ _ hi]
      rfl
  · exact ⟨fun _ => rfl, fun _ => rfl⟩

theorem Sys.retryPush_sameRuns (d q : Nat) (y : Sys) : (y.onyx d).SameRuns ((y.retryPush d q).onyx d) := by
  have hrefl : (y.onyx d).SameRuns (y.onyx d) := ⟨fun _ => rfl, fun _ => rfl⟩
  unfold Sys.retryPush
  dsimp only
  split
  · next p tok _ _ _ =>
    split
    · have h := ((Onyxed.refl d [] y).onOnyx
        (g := Onyx.released q p { (y.onyx d).queue q with held := none, tokens := ((y.onyx d).queue q).tokens ++ [tok] })
        (fun o => by unfold Onyx.released; split <;> rfl)).trace (ty := 0x0B) (core := producerCore p) (slot := q) (aux := 0)
      obtain ⟨htasks, hruns⟩ := (y.onyx d).released_sameRuns q p
        { (y.onyx d).queue q with held := none, tokens := ((y.onyx d).queue q).tokens ++ [tok] }
      exact ⟨fun k => (h.task k).trans (htasks k), fun i => (congrArg Core.running (h.core i)).trans (hruns i)⟩
    · exact hrefl
  · exact hrefl

theorem Sys.retryAll_sameRuns (d i : Nat) (y : Sys) : (y.onyx d).SameRuns ((y.retryAll d i).onyx d) := by
  refine Sys.each_invariant (I := fun w : Sys => (y.onyx d).SameRuns (w.onyx d)) (fun q w h => ?_) ⟨fun _ => rfl, fun _ => rfl⟩
  split
  · split
    · obtain ⟨htasks, hruns⟩ := w.retryPush_sameRuns d q
      exact ⟨fun k => (htasks k).trans (h.1 k), fun j => (hruns j).trans (h.2 j)⟩
    · exact h
  · exact h

section
variable {y : Sys} {d i k : Nat} (hk : ((y.onyx d).core i).running = some k)

include hk

/-- A run whose core has no other task: what is left of Onyx. -/
theorem Sys.runEnds_alone (hrun : ((y.onyx d).core i).run < 2)
    (hother : ((y.onyx d).core i).banks.getD (1 - ((y.onyx d).core i).run) none = none) (n : Nat) :
    y.Onyxed d [] ((y.onyx d).ended i k (((y.onyx d).task k).charged n) y.now ((y.onyx d).task k) ((y.onyx d).core i)) (y.runEnds d i n .plain) := by
  have h := ((Onyxed.refl d [] y).onOnyx
    (g := Onyx.ended i k (((y.onyx d).task k).charged n) y.now ((y.onyx d).task k) ((y.onyx d).core i)) fun _ => rfl).trace
    (ty := 0x05) (core := i) (slot := k) (aux := ((y.onyx d).task k).prio)
  rw [Sys.runEnds_plain hk, Sys.runComplete_running hk, Sys.afterRun_idle]
  · exact h
  · rw [h.core, Onyx.ended_core]
    exact (Core.other_bank hrun).trans hother

/-- One whose core has another, with none ready, resumes it (R403). -/
theorem Sys.runEnds_resumes (hrun : ((y.onyx d).core i).run < 2) {v : Nat} (hvk : v ≠ k)
    (hother : ((y.onyx d).core i).banks.getD (1 - ((y.onyx d).core i).run) none = some v) (hready : (y.onyx d).ready = []) (n : Nat) :
    ((y.runEnds d i n .plain).onyx d).task v = { (y.onyx d).task v with st := 3 } ∧
      (((y.runEnds d i n .plain).onyx d).core i).running = some v := by
  have h := ((Onyxed.refl d [] y).onOnyx
    (g := Onyx.ended i k (((y.onyx d).task k).charged n) y.now ((y.onyx d).task k) ((y.onyx d).core i)) fun _ => rfl).trace
    (ty := 0x05) (core := i) (slot := k) (aux := ((y.onyx d).task k).prio)
  rw [Sys.runEnds_plain hk, Sys.runComplete_running hk]
  generalize (y.onOnyx d (Onyx.ended i k (((y.onyx d).task k).charged n) y.now ((y.onyx d).task k) ((y.onyx d).core i))).trace d 0x05 i k
    ((y.onyx d).task k).prio = w at h
  have hcore : (w.onyx d).core i = _ := (h.core i).trans (Onyx.ended_core ..)
  have hbank : ((w.onyx d).core i).banks.getD (1 - ((w.onyx d).core i).run) none = some v := by
    rw [hcore]
    exact (Core.other_bank hrun).trans hother
  have htask : (w.onyx d).task v = (y.onyx d).task v := (h.task v).trans (Onyx.ended_other hvk ..)
  have hres := ((Onyxed.refl d [] w).onOnyx (g := Onyx.resumed i v ((w.onyx d).core i)) fun _ => rfl).trace (ty := 0x04) (core := i) (slot := v)
    (aux := ((w.onyx d).task v).prio)
  rw [Sys.afterRun_resumes hbank (h.ready.trans hready)]
  obtain ⟨htasks, hruns⟩ := ((w.onOnyx d (Onyx.resumed i v ((w.onyx d).core i))).trace d 0x04 i v ((w.onyx d).task v).prio).retryAll_sameRuns d i
  refine ⟨?_, ?_⟩
  · rw [htasks, hres.task, ← htask]
    exact Onyx.setTask_self ..
  · rw [hruns, hres.core, Onyx.resumed, Onyx.setCore_self]
    exact hbank

end

/-! ### A core fails (R407, R505) -/

/-- A core that failed leaves service: a spare takes its number, and it is tested. -/
def Onyx.coreLost (i p : Nat) (spare : Option Nat) (o : Onyx) : Onyx :=
  { o.setCore i { phys := spare } with
    spares := match spare with
      | some s => o.spares.filter fun x => x != s
      | none => o.spares
    faults := Tab.modify (fun _ => 0) o.faults p fun n => n + 1
    testing := o.testing ++ [p]
    queues := o.queues.map fun q => (q.1, { q.2 with held := match q.2.held with
      | some h => if h.1 = i then none else some h
      | none => none }) }

/-- The tasks of a core that failed are dispatched again, and the fault is noted. -/
def Sys.coreFaulted (d i cause : Nat) (c : Core) (y : Sys) : Sys :=
  ((((y.trace d 0x0E i 0 cause).each (c.banks.reverse.filterMap id) fun s y => y.redispatch d i s).bump (Ob.DieCoreFaults d) 1).raise 0x0801 d i)

/-- The lowest spare of Onyx. -/
def Onyx.lowestSpare (o : Onyx) : Option Nat := (slotsOf o.spares).head?

/-- A core out of service, with the event of its spare. -/
def Sys.coreOut (d i p : Nat) (spare : Option Nat) (y : Sys) : Sys :=
  if spare.isSome then (y.onOnyx d (Onyx.coreLost i p spare)).raise 0x1108 d i else y.onOnyx d (Onyx.coreLost i p spare)

theorem Sys.coreFault_out {y : Sys} {d i : Nat} (h : ((y.onyx d).core i).phys = none) (cause : Nat) : y.coreFault d i cause = y := by
  unfold Sys.coreFault
  dsimp only
  rw [h]

theorem Sys.coreFault_in {y : Sys} {d i p : Nat} (h : ((y.onyx d).core i).phys = some p) (cause : Nat) : y.coreFault d i cause =
    (y.coreFaulted d i cause ((y.onyx d).core i)).coreOut d i p ((y.coreFaulted d i cause ((y.onyx d).core i)).onyx d).lowestSpare := by
  unfold Sys.coreFault
  dsimp only
  rw [h]
  rfl

theorem Sys.Onyxed.coreOut {d : Nat} {ks : List Nat} {y z : Sys} {o : Onyx} (h : y.Onyxed d ks o z) (i p : Nat) (spare : Option Nat) :
    y.Onyxed d ks (o.coreLost i p spare) (z.coreOut d i p spare) := by
  have hlost := h.onOnyx (g := Onyx.coreLost i p spare) fun _ => rfl
  unfold Sys.coreOut
  split
  · exact hlost.raise
  · exact hlost

theorem Onyx.coreLost_core (i p : Nat) (spare : Option Nat) (o : Onyx) : (o.coreLost i p spare).core i = { phys := spare } :=
  Onyx.setCore_self ..

theorem Onyx.coreLost_faults (i p : Nat) (spare : Option Nat) (o : Onyx) :
    (o.coreLost i p spare).faults = Tab.put (fun _ => 0) o.faults p (Tab.find (fun _ => 0) o.faults p + 1) := rfl

/-- What a core's fault leaves, of the state with its tasks dispatched again. -/
structure Sys.CoreFailed (d i p : Nat) (o : Onyx) (y z : Sys) : Prop where
  onyx : y.Onyxed d [Ob.DieCoreFaults d] (o.coreLost i p o.lowestSpare) z
  count : z.nat (Ob.DieCoreFaults d) = (y.nat (Ob.DieCoreFaults d) + 1) % wrapOf y.part.dies (Ob.DieCoreFaults d)
  event : { code := 0x0801, die := d, arg := i, t := y.now } ∈ z.evs.raised
  spared : o.lowestSpare.isSome = true → { code := 0x1108, die := d, arg := i, t := y.now } ∈ z.evs.raised

/-- A fault, once it is known what dispatching its tasks again leaves. -/
theorem Sys.coreFault_failed {y : Sys} {d i p cause : Nat} {o : Onyx} (hphys : ((y.onyx d).core i).phys = some p)
    (h : y.Onyxed d [] o ((y.trace d 0x0E i 0 cause).each (((y.onyx d).core i).banks.reverse.filterMap id) fun s y => y.redispatch d i s)) :
    y.CoreFailed d i p o (y.coreFault d i cause) := by
  have hne : Ob.DieCoreFaults d ≠ Ob.DieTraceLost d := by simp only [Ob.DieCoreFaults, Ob.DieTraceLost]; omega
  rw [Sys.coreFault_in hphys]
  unfold Sys.coreFaulted
  generalize (y.trace d 0x0E i 0 cause).each (((y.onyx d).core i).banks.reverse.filterMap id) (fun s y => y.redispatch d i s) = w at h
  have hw : y.Onyxed d [Ob.DieCoreFaults d] o w := ⟨h.onyx, h.now, h.part, h.upd, fun j hj _ => h.val j hj List.not_mem_nil, h.raised⟩
  have hnoted : y.Onyxed d [Ob.DieCoreFaults d] o ((w.bump (Ob.DieCoreFaults d) 1).raise 0x0801 d i) :=
    (hw.bump (Or.inl (List.mem_singleton_self _))).raise
  have hspare : (((w.bump (Ob.DieCoreFaults d) 1).raise 0x0801 d i).onyx d).lowestSpare = o.lowestSpare :=
    hnoted.read (g := Onyx.lowestSpare) fun _ => rfl
  have hcount : ((w.bump (Ob.DieCoreFaults d) 1).raise 0x0801 d i).nat (Ob.DieCoreFaults d) =
      (y.nat (Ob.DieCoreFaults d) + 1) % wrapOf y.part.dies (Ob.DieCoreFaults d) := by
    rw [Sys.raise_nat_read, Sys.bump_nat, h.nat hne List.not_mem_nil, h.part]
  have hevent : { code := 0x0801, die := d, arg := i, t := y.now } ∈ ((w.bump (Ob.DieCoreFaults d) 1).raise 0x0801 d i).evs.raised := by
    rw [Sys.raise_raised, Sys.bump_now, h.now]
    exact List.mem_append_right _ (List.mem_singleton_self _)
  have hnow : ((w.bump (Ob.DieCoreFaults d) 1).raise 0x0801 d i).now = y.now := hnoted.now
  rw [hspare]
  generalize (w.bump (Ob.DieCoreFaults d) 1).raise 0x0801 d i = x at hnoted hcount hevent hnow
  refine ⟨hnoted.coreOut i p _, ?_, ?_, fun hsome => ?_⟩
  · unfold Sys.coreOut
    split <;> exact hcount
  · unfold Sys.coreOut
    split
    · exact List.mem_append_left _ hevent
    · exact hevent
  · unfold Sys.coreOut
    rw [if_pos hsome, Sys.raise_raised]
    refine List.mem_append_right _ ?_
    rw [List.mem_singleton, ← hnow]
    rfl

/-- A core with nothing in its banks has nothing to dispatch again. -/
theorem Sys.redispatch_none {y : Sys} {d i : Nat} (hbanks : ∀ b ∈ ((y.onyx d).core i).banks, b = none) (cause : Nat) :
    y.Onyxed d [] (y.onyx d) ((y.trace d 0x0E i 0 cause).each (((y.onyx d).core i).banks.reverse.filterMap id) fun s y => y.redispatch d i s) := by
  have hnone : ((y.onyx d).core i).banks.reverse.filterMap id = [] :=
    List.filterMap_eq_nil_iff.mpr fun b hb => hbanks b (List.mem_reverse.mp hb)
  rw [hnone]
  exact (Onyxed.refl d [] y).trace

/-- A task dispatched again is at the head of its level (R407). -/
def Onyx.again (s : Nat) (t : Task) (o : Onyx) : Onyx := { o.setTask s { t with st := 2, faulted := true } with ready := (t.prio, s) :: o.ready }

theorem Sys.redispatch_one {y : Sys} {d i k : Nat} (hbanks : ((y.onyx d).core i).banks = [some k, none])
    (hfirst : ((y.onyx d).task k).faulted = false) (cause : Nat) : y.Onyxed d [] ((y.onyx d).again k ((y.onyx d).task k))
      ((y.trace d 0x0E i 0 cause).each (((y.onyx d).core i).banks.reverse.filterMap id) fun s y => y.redispatch d i s) := by
  have htrace : y.Onyxed d [] (y.onyx d) (y.trace d 0x0E i 0 cause) := (Onyxed.refl d [] y).trace
  have hred : (y.trace d 0x0E i 0 cause).redispatch d i k =
      ((y.trace d 0x0E i 0 cause).onOnyx d (Onyx.again k ((y.onyx d).task k))).trace d 0x0F i k ((y.onyx d).task k).prio := by
    unfold Sys.redispatch
    dsimp only
    rw [htrace.task, hfirst]
    rfl
  rw [hbanks]
  show y.Onyxed d [] _ ((y.trace d 0x0E i 0 cause).redispatch d i k)
  rw [hred]
  exact (htrace.onOnyx fun _ => rfl).trace

/-! ### A core's test (R505) -/

theorem Sys.coreTested_not {y : Sys} {d p : Nat} (h : (y.onyx d).testing.contains p = false) (pass : Bool) : y.coreTested d p pass = y :=
  if_neg (by rw [h]; decide)

theorem Sys.coreTested_passes {y : Sys} {d p : Nat} (h : (y.onyx d).testing.contains p = true)
    (hfew : Tab.find (fun _ => 0) (y.onyx d).faults p < 3) : y.coreTested d p true =
      (y.onOnyx d fun o => { o with testing := o.testing.filter fun q => q != p }).onOnyx d fun o => { o with spares := o.spares ++ [p] } :=
  (if_pos h).trans (if_pos ⟨rfl, hfew⟩)

theorem Sys.coreTested_fails {y : Sys} {d p : Nat} (h : (y.onyx d).testing.contains p = true) : y.coreTested d p false =
    ((((y.onOnyx d fun o => { o with testing := o.testing.filter fun q => q != p }).bump (Ob.DieSelfTestFails d) 1).onRep fun r =>
      { r with cores := r.cores ++ [(d, p)] }).raise 0x1109 d p) :=
  (if_pos h).trans (if_neg fun hpass => Bool.false_ne_true hpass.1)

/-- A core that fails its test is mapped out, counted, and its event raised (R505). -/
theorem Sys.coreTested_failed {y : Sys} {d p : Nat} (h : (y.onyx d).testing.contains p = true) :
    (y.coreTested d p false).upd.rep.cores = y.upd.rep.cores ++ [(d, p)] ∧ ((y.coreTested d p false).onyx d).spares = (y.onyx d).spares ∧
      (y.coreTested d p false).nat (Ob.DieSelfTestFails d) = (y.nat (Ob.DieSelfTestFails d) + 1) % wrapOf y.part.dies (Ob.DieSelfTestFails d) ∧
      (y.coreTested d p false).evs.raised = y.evs.raised ++ [{ code := 0x1109, die := d, arg := p, t := y.now }] := by
  have honyx := (Onyxed.refl d [Ob.DieSelfTestFails d] y).onOnyx (g := fun o => { o with testing := o.testing.filter fun q => q != p }) fun _ => rfl
  have hevs : (y.onOnyx d fun o => { o with testing := o.testing.filter fun q => q != p }).evs = y.evs := rfl
  have hnat : (y.onOnyx d fun o => { o with testing := o.testing.filter fun q => q != p }).nat (Ob.DieSelfTestFails d) =
    y.nat (Ob.DieSelfTestFails d) := rfl
  rw [Sys.coreTested_fails h]
  generalize (y.onOnyx d fun o => { o with testing := o.testing.filter fun q => q != p }) = w at honyx hevs hnat
  have hcount := Sys.bump_nat w (Ob.DieSelfTestFails d) 1
  have hmarked := honyx.bump (n := 1) (Or.inl (List.mem_singleton_self _))
  rw [hnat, honyx.part] at hcount
  have hevs' : (w.bump (Ob.DieSelfTestFails d) 1).evs = y.evs := hevs
  generalize w.bump (Ob.DieSelfTestFails d) 1 = x at hcount hmarked hevs'
  refine ⟨?_, hmarked.spares, hcount, ?_⟩
  · rw [← hmarked.upd]
    rfl
  · rw [← hevs', ← hmarked.now]
    rfl

/-- Settles O45: the end of a plain run, a core's fault with its spare, and the test of a core. -/
theorem runsEnd : Obligations.RunsEnd := by
  unfold Obligations.RunsEnd
  refine ⟨fun dt d i n o y s hy ho => ⟨fun hidle => ?idle, fun k m t hk ht hlen hrun hm => ⟨fun hother => ?alone, fun v hvk hother hready => ?resumes⟩⟩,
    fun dt d i cause p o y s hy ho => ⟨fun hout => ?out, fun hphys hbanks => ?empty, fun k hphys hbanks hfirst => ?again⟩,
    fun dt d p pass o y s hy ho => ⟨fun hnot => ?untested, fun htest hpass hfew => ?passes, fun htest hfail => ?fails⟩⟩
  case idle =>
    subst ho
    exact act_done ((congrArg _ hy.symm).trans (Sys.runEnds_idle hidle n .plain))
  case alone =>
    subst ho ht
    have hm' : m = ((y.onyx d).task k).charged n := hm
    have h := Sys.runEnds_alone hk hrun hother n
    rw [← hm'] at h
    refine ⟨_, act_done (congrArg _ hy.symm), ?_, ?_, h.sets, ?_⟩
    · rw [h.task, Onyx.ended_task]
    · rw [h.core, Onyx.ended_core, List.all_eq_true]
      intro b hb
      obtain ⟨j, hj, rfl⟩ := List.mem_iff_getElem.mp hb
      have hj2 : j < 2 := by rwa [List.length_set, hlen] at hj
      by_cases hjr : ((y.onyx d).core i).run = j
      · simp [hjr]
      · have hsame : j = 1 - ((y.onyx d).core i).run := by omega
        subst hsame
        rw [List.getElem_set_ne hjr]
        rw [List.getD_eq_getElem _ _ (by omega)] at hother
        rw [hother]
        rfl
    · rw [h.credit]
      exact Tab.find_put_self ..
  case resumes =>
    subst ho
    exact ⟨_, act_done (congrArg _ hy.symm), Sys.runEnds_resumes hk hrun hvk hother hready n⟩
  case out =>
    subst ho
    exact act_done ((congrArg _ hy.symm).trans (Sys.coreFault_out hout cause))
  case empty =>
    subst ho
    obtain ⟨h, hcount, hevent, hspared⟩ := Sys.coreFault_failed hphys (Sys.redispatch_none hbanks cause)
    refine ⟨_, act_done (congrArg _ hy.symm), fun hnone => ?_, fun q hone => ?_, h.testing, ?_, hcount, hevent, h.task⟩
    · rw [h.core, Onyx.coreLost_core, Onyx.lowestSpare, hnone]
      rfl
    · have hspare : (y.onyx d).lowestSpare = some q := by
        rw [Onyx.lowestSpare, hone]
        rfl
      rw [hspare] at h hspared
      refine ⟨?_, ?_, hspared rfl⟩
      · rw [h.core, Onyx.coreLost_core]
      · rw [h.spares]
        show ((y.onyx d).spares.filter fun x => x != q) = []
        rw [hone]
        simp
    · rw [h.faults, Onyx.coreLost_faults]
      exact Tab.find_put_self ..
  case again =>
    subst ho
    obtain ⟨h, -⟩ := Sys.coreFault_failed hphys (Sys.redispatch_one hbanks hfirst cause)
    refine ⟨_, act_done (congrArg _ hy.symm), ?_, h.ready⟩
    rw [h.task]
    exact Onyx.setTask_self ..
  case untested =>
    subst ho
    exact act_done ((congrArg _ hy.symm).trans (Sys.coreTested_not hnot pass))
  case passes =>
    subst ho hpass
    refine ⟨_, act_done ((congrArg _ hy.symm).trans (Sys.coreTested_passes htest hfew)), rfl, rfl, rfl, ?_⟩
    rw [Sys.onOnyx_self, Sys.onOnyx_self]
  case fails =>
    subst ho hfail
    obtain ⟨hrep, hspares, hcount, hevent⟩ := Sys.coreTested_failed htest
    exact ⟨_, act_done (congrArg _ hy.symm), hrep, hspares, hcount, hevent⟩

end Sys2Proof.Machine

/-! PROOFS. The audio ports (08; R222 to R238): what a frame-clock edge ends and begins, and the fetch of a block. -/

namespace Sys2Proof.Machine

/-! ### The edge of a port that runs (R224) -/

/-- What the edge of frame `f` begins on a port that is on. -/
def Sys.auBegin (p : Nat) (f : Int) (y : Sys) : Sys :=
  if y.nat (Ob.AuDirection p) = 0 then (y.auOpen p f).auPins p else (if (y.au p).curEnd ≤ f then y.auTake p f else y).auPlay p

/-- What an edge ends: the frame before it. -/
def Sys.auEnd (p : Nat) (slots : List Int) (y : Sys) : Sys :=
  (if y.nat (Ob.AuDirection p) = 0 then y.auSampled p slots else y).bump (Ob.AuFramesDone p) 1

/-- A port moves on to the frame behind `f`. -/
def Sys.auMove (p : Nat) (f : Int) (y : Sys) : Sys := y.onAu p fun a => { a with nextF := f + 1, lastEdge := y.now }

theorem Sys.auEdge_running {y : Sys} {p : Nat} {slots : List Int} (hon : (y.au p).on = true) (hgap : (y.au p).gap = false) (hpend : y.pend = [])
    (hdue : atOrAfter (y.auNow p) (tickTime y.auHz (y.au p).nextF) = true) (hwait : y.stepWaits (.audio p) = false)
    (hstay : ((y.auEnd p slots).au p).on = true) :
    y.auEdge p slots = ((y.auEnd p slots).auMove p (y.au p).nextF).auBegin p (y.au p).nextF := by
  have hnone : y.duePend (Ob.AuCommit p) (tickTime y.auHz (y.au p).nextF) = [] := by rw [Sys.duePend, hpend]; rfl
  unfold Sys.auEdge
  simp only [hon, hgap, if_true, hnone, hdue, hwait, List.isEmpty_nil, not_true_eq_false, false_and, Bool.false_eq_true, or_self, if_false,
    and_false, Sys.each_nil]
  exact if_neg fun h => h hstay

theorem Sys.auMove_self (p : Nat) (f : Int) (y : Sys) : (y.auMove p f).au p = { y.au p with nextF := f + 1, lastEdge := y.now } := Sys.onAu_self ..

theorem Sys.auBegin_input {y : Sys} {p : Nat} (h : y.nat (Ob.AuDirection p) = 0) (f : Int) : y.auBegin p f = (y.auOpen p f).auPins p := if_pos h

theorem Sys.auBegin_output {y : Sys} {p : Nat} {f : Int} (h : y.nat (Ob.AuDirection p) = 1) (hblock : f < (y.au p).curEnd) :
    y.auBegin p f = y.auPlay p := by
  unfold Sys.auBegin
  rw [if_neg (by rw [h]; decide), if_neg (not_le.mpr hblock)]

theorem Sys.auEnd_output {y : Sys} {p : Nat} (h : y.nat (Ob.AuDirection p) = 1) (slots : List Int) :
    y.auEnd p slots = y.bump (Ob.AuFramesDone p) 1 := by
  unfold Sys.auEnd
  rw [if_neg (by rw [h]; decide)]

theorem Sys.auEnd_input {y : Sys} {p : Nat} (h : y.nat (Ob.AuDirection p) = 0) (slots : List Int) :
    y.auEnd p slots = (y.auSampled p slots).bump (Ob.AuFramesDone p) 1 := by
  unfold Sys.auEnd
  rw [if_pos h]

/-! ### Input (R228, R229, R235) -/

/-- The words an input frame gives. -/
def Sys.sampledRow (y : Sys) (p : Nat) (slots : List Int) : List Nat :=
  (auSlots y.val p).map fun j => cutWord (y.nat (Ob.AuSampleBits p))
    (leftWord (y.nat (Ob.AuSlotWidth p)) (slots.getD j 0 % 2 ^ y.nat (Ob.AuSlotWidth p)).toNat)

/-- A buffer with one frame more. -/
def AuBuf.grown (b : AuBuf) (row : List Nat) : AuBuf := { b with words := b.words ++ row, count := b.count + 1 }

/-- A port has appended a frame to its buffer, and has no flow of its own. -/
def Sys.auAppend (p : Nat) (b : AuBuf) (y : Sys) : Sys :=
  (y.setAu p { y.au p with cur := some b }).onAu p fun a => { a with toSend := [] }

theorem Sys.auAppend_self (p : Nat) (b : AuBuf) (y : Sys) : (y.auAppend p b).au p = { y.au p with cur := some b, toSend := [] } := by
  rw [Sys.auAppend, Sys.onAu_self, Sys.setAu_self]

theorem Sys.auSampled_appends {y : Sys} {p : Nat} {b : AuBuf} {slots : List Int} (hmode : y.nat (Ob.AuOutMode p) = 0)
    (hcur : (y.au p).cur = some b) : y.auSampled p slots =
      if b.frame + b.count + 1 = (y.au p).curEnd then (y.auAppend p (b.grown (y.sampledRow p slots))).auClose p
      else y.auAppend p (b.grown (y.sampledRow p slots)) := by
  have hstream : ∀ (x : Au) (last : Int) (row : List Nat),
      (y.setAu p x).auStream p last row = (y.setAu p x).onAu p fun a => { a with toSend := [] } := fun _ _ _ => if_pos hmode
  unfold Sys.auSampled
  dsimp only
  rw [hcur]
  dsimp only
  rw [hstream]
  rfl

theorem Sys.auSampled_discards {y : Sys} {p : Nat} {slots : List Int} (hcur : (y.au p).cur = none) :
    y.auSampled p slots = y.setAu p { y.au p with toSend := [] } := by
  unfold Sys.auSampled
  dsimp only
  rw [hcur]

theorem Sys.auAppend_readers (p : Nat) (b : AuBuf) (y : Sys) : (y.auAppend p b).auReaders p = y.auReaders p := rfl

/-- A port whose buffer went free at once (R239, R240). -/
theorem Sys.auClose_unread {y : Sys} {p : Nat} (h : y.auReaders p = []) : ((y.auClose p).au p) = { y.au p with cur := none } := by
  unfold Sys.auClose
  rw [Sys.onAu_self, h]
  cases (y.au p).cur with
  | none => rfl
  | some b => simp only [List.isEmpty_nil, true_or, if_true]

theorem Sys.auOpen_goesOn {y : Sys} {p : Nat} (h : (y.au p).cur.isSome = true) (f : Int) :
    y.auOpen p f = y.setAu p { y.au p with affected := false } := if_pos h

/-- The buffer a port opens (R228, R230). -/
def Sys.openedBuf (p : Nat) (f : Int) (y : Sys) : AuBuf :=
  { frame := f, mask := y.nat (Ob.AuSlotMask p), layoutChg := (y.au p).lastMask != some (y.nat (Ob.AuSlotMask p)), xrun := (y.au p).overrun,
    discont := (y.au p).discont, idx := (y.au p).bufIdx }

/-- A port behind opening a buffer. -/
def Sys.openedAu (p : Nat) (f : Int) (y : Sys) : Au :=
  { y.au p with bufIdx := ((y.au p).bufIdx + 1) % max 1 (y.nat (Ob.AuRingBuffers p)), lastMask := some (y.nat (Ob.AuSlotMask p)), discont := false
                cur := some (y.openedBuf p f), curEnd := blockEnd (blockFrames y.val y.auHz p) f, overrun := false, affected := false }

theorem Sys.auOpen_opens {y : Sys} {p : Nat} (hcur : (y.au p).cur = none) (hroom : (y.au p).ring.length < y.nat (Ob.AuRingBuffers p)) (f : Int) :
    (y.auOpen p f).au p = y.openedAu p f := by
  unfold Sys.auOpen
  dsimp only
  rw [if_neg (by rw [hcur]; exact Bool.false_ne_true), if_pos hroom, Sys.onAu_self]
  unfold Sys.auPlace
  dsimp only
  rw [Sys.setAu_self]
  rfl

/-- A frame with no buffer for it is discarded and counted (R235, R238). -/
def Sys.overran (p : Nat) (y : Sys) : Sys :=
  (y.setAu p { y.au p with overrun := true, affected := true }).bump (Ob.AuOverrunFrames p) 1

theorem Sys.auOpen_overruns {y : Sys} {p : Nat} (hcur : (y.au p).cur = none) (hfull : y.nat (Ob.AuRingBuffers p) ≤ (y.au p).ring.length) (f : Int) :
    y.auOpen p f = if (y.au p).affected then y.overran p else (y.overran p).raise 0x0E02 (p / 4) p := by
  unfold Sys.auOpen
  dsimp only
  rw [if_neg (by rw [hcur]; exact Bool.false_ne_true), if_neg (not_lt.mpr hfull)]
  rfl

theorem Sys.overran_self (p : Nat) (y : Sys) : (y.overran p).au p = { y.au p with overrun := true, affected := true } := Sys.setAu_self ..

theorem Sys.overran_nat (p : Nat) (y : Sys) :
    (y.overran p).nat (Ob.AuOverrunFrames p) = (y.nat (Ob.AuOverrunFrames p) + 1) % wrapOf y.part.dies (Ob.AuOverrunFrames p) := Sys.bump_nat ..

/-! ### Output (R222, R236, R237) -/

theorem auSlotBits_length (width : Nat) (idle : Option Bool) (w : Option Nat) : (auSlotBits width idle w).length = width := by
  cases w with
  | none => exact List.length_replicate
  | some w => exact List.length_map _ |>.trans List.length_range

theorem auSlotBits_some {width m : Nat} (h : m < width) (idle : Option Bool) (v : Nat) :
    (auSlotBits width idle (some v))[m]? = some (some (bit v (31 - m))) := by
  unfold auSlotBits
  simp [h]

/-- The parts of a list of parts of one length. -/
theorem getElem?_flatMap_of_length {α β : Type} {f : α → List β} {n : Nat} (hf : ∀ a, (f a).length = n) {l : List α} {j m : Nat} {a : α}
    (hj : l[j]? = some a) (hm : m < n) : (l.flatMap f)[j * n + m]? = (f a)[m]? := by
  induction l generalizing j with
  | nil => cases hj
  | cons b l ih =>
    rw [List.flatMap_cons]
    cases j with
    | zero =>
      rw [List.getElem?_cons_zero, Option.some.injEq] at hj
      subst hj
      rw [Nat.zero_mul, Nat.zero_add, List.getElem?_append_left (by rw [hf]; exact hm)]
    | succ j =>
      have hsucc : (j + 1) * n + m = n + (j * n + m) := by rw [Nat.succ_mul]; omega
      rw [List.getElem?_append_right (by rw [hf, hsucc]; omega), hf, hsucc, Nat.add_sub_cancel_left]
      exact ih hj

/-- A slot's word stands behind the data offset, from the top (R222). -/
theorem auData_bit {g : Nat → Val} {p j m v wd o slots : Nat} {spill : List (Option Bool)} {row : List (Nat × Nat)}
    (hwd : wd = (g (Ob.AuSlotWidth p)).nat) (ho : o = (g (Ob.AuDataOffset p)).nat) (hslots : slots = (g (Ob.AuSlots p)).nat) (hj : j < slots)
    (hrow : (row.find? fun e => e.1 == j).map Prod.snd = some v) (hm : m < wd) (hin : o + j * wd + m < slots * wd) :
    (auData g p spill row).1[o + j * wd + m]? = some (some (bit v (31 - m))) := by
  subst hwd ho hslots
  unfold auData
  dsimp only
  have hlen : ∀ w, ((List.range (g (Ob.AuSlots p)).nat).flatMap fun j =>
      auSlotBits (g (Ob.AuSlotWidth p)).nat w ((row.find? fun e => e.1 == j).map Prod.snd)).length =
      (g (Ob.AuSlots p)).nat * (g (Ob.AuSlotWidth p)).nat := by
    intro w
    rw [List.length_flatMap]
    simp only [auSlotBits_length, List.map_const', List.length_range, List.sum_replicate, smul_eq_mul]
  have hhead : (if spill.length = (g (Ob.AuDataOffset p)).nat then spill
      else List.replicate (g (Ob.AuDataOffset p)).nat (some false)).length = (g (Ob.AuDataOffset p)).nat := by
    split
    · assumption
    · exact List.length_replicate
  rw [List.getElem?_append_right (by rw [hhead]; omega), hhead, Nat.add_assoc, Nat.add_sub_cancel_left, hlen,
    List.getElem?_take_of_lt (by omega), getElem?_flatMap_of_length (fun _ => auSlotBits_length ..) (List.getElem?_range hj) hm,
    hrow, auSlotBits_some hm]

theorem auSlots_nodup (g : Nat → Val) (p : Nat) : (auSlots g p).Nodup := List.nodup_range.filter _

/-- A pair of a list of pairs whose first parts differ is found by its first part. -/
theorem find?_zip_of_nodup {l : List Nat} {ws : List Nat} (hnd : l.Nodup) {i j v : Nat} (hj : l[i]? = some j) (hv : ws[i]? = some v) :
    ((l.zip ws).find? fun e => e.1 == j).map Prod.snd = some v := by
  induction l generalizing ws i with
  | nil => cases hj
  | cons b l ih =>
    obtain ⟨hb, hnd⟩ := List.nodup_cons.mp hnd
    cases ws with
    | nil => cases hv
    | cons w ws =>
      rw [List.zip_cons_cons, List.find?_cons]
      cases i with
      | zero =>
        rw [List.getElem?_cons_zero, Option.some.injEq] at hj hv
        subst hj hv
        simp
      | succ i =>
        rw [List.getElem?_cons_succ] at hj hv
        have hne : (b == j) = false := beq_false_of_ne fun h => hb (h ▸ List.mem_of_getElem? hj)
        rw [hne]
        exact ih hnd hj hv

/-- What a list of slots gives each of them is found by the slot. -/
theorem find?_map_pair {l : List Nat} {f : Nat → Nat} {j : Nat} (h : j ∈ l) : ((l.map fun i => (i, f i)).find? fun e => e.1 == j).map Prod.snd = some (f j) := by
  induction l with
  | nil => cases h
  | cons b l ih =>
    rw [List.map_cons, List.find?_cons]
    by_cases hb : b = j
    · rw [hb, beq_self_eq_true]
      rfl
    · rw [beq_false_of_ne hb]
      exact ih ((List.mem_cons.mp h).resolve_left (Ne.symm hb))

/-- The data pin of an output port in the frame it plays. -/
def Sys.playData (p : Nat) (y : Sys) : List (Option Bool) × List (Option Bool) := auData y.val p (y.au p).spill (y.auRow p).1

/-- An output port has played a frame. -/
def Sys.played (p : Nat) (y : Sys) : Sys :=
  (y.setAu p { y.au p with pos := (y.au p).pos + 1, last := (y.auRow p).1.foldl (fun t e => Tab.put (fun _ => 0) t e.1 e.2) (y.au p).last
                           spill := (y.playData p).2, affected := !(y.auRow p).2 }).emit
    (.tdm p (y.flag (Ob.AuBclkInvert p)) (auSync y.val p) (some (y.playData p).1))

theorem Sys.played_out (p : Nat) (y : Sys) :
    (y.played p).out = y.out ++ [.tdm p (y.flag (Ob.AuBclkInvert p)) (auSync y.val p) (some (y.playData p).1)] := rfl

theorem Sys.auPlay_own {y : Sys} {p : Nat} (h : (y.auRow p).2 = true) : y.auPlay p = y.played p := if_pos h

theorem Sys.auPlay_substitute {y : Sys} {p : Nat} (h : (y.auRow p).2 = false) :
    y.auPlay p = if (y.au p).affected then (y.played p).bump (Ob.AuUnderrunFrames p) 1
      else ((y.played p).bump (Ob.AuUnderrunFrames p) 1).raise 0x0E01 (p / 4) p := if_neg (by rw [h]; decide)

theorem Sys.auRow_own {y : Sys} {p : Nat} {b : AuBuf} (hplay : (y.au p).play = some b) (hown : b.xrun = false) :
    y.auRow p = ((auSlots y.val p).zip (b.frameWords (y.au p).pos), true) := by
  unfold Sys.auRow
  dsimp only
  rw [hplay]
  exact if_neg (by rw [hown]; decide)

theorem Sys.auRow_substitute {y : Sys} {p : Nat} {b : AuBuf} (hplay : (y.au p).play = some b) (hsub : b.xrun = true) :
    y.auRow p = ((auSlots y.val p).map fun j => (j, if y.nat (Ob.AuSubst p) = 0 then 0 else Tab.find (fun _ => 0) (y.au p).last j), false) := by
  unfold Sys.auRow
  dsimp only
  rw [hplay]
  exact if_pos hsub

/-! ### The fetch (R237) -/

theorem Sys.onRx_setChan (n : Nat) (k : Int) (g : Frame → Frame) (y : Sys) : ∃ c, y.onRx n k g = y.setChan n c := by
  unfold Sys.onRx
  dsimp only
  split
  · exact ⟨_, rfl⟩
  · split
    · exact ⟨_, rfl⟩
    · exact ⟨_, rfl⟩

theorem Sys.rxOnce_au (n : Nat) (k : Int) (code p : Nat) (y : Sys) : (y.rxOnce n k code).au p = y.au p := by
  unfold Sys.rxOnce
  split
  · split
    · rfl
    · obtain ⟨c, hc⟩ := Sys.onRx_setChan n k (fun fr => { fr with raised := code :: fr.raised }) y
      rw [hc, Sys.raise_au_read, Sys.setChan_au_read]
  · rfl

theorem Sys.audSettle_au (n f p : Nat) (y : Sys) : (y.audSettle n f).au p = y.au p := by
  unfold Sys.audSettle
  dsimp only
  split
  · rfl
  · rfl
  · split
    · rfl
    · split
      · rfl
      · exact Sys.rxOnce_au ..
      · rfl

/-- One block is fetched. -/
def Sys.fetchBlock (p : Nat) (b : Int × Int × (Nat → Val)) (y : Sys) : Sys :=
  (y.audSettle (b.2.2 (Ob.AuChannel p)).nat (b.2.2 (Ob.AuSourceFlow p)).nat).onAu p fun a =>
    { a with next := a.next ++ [(y.audSettle (b.2.2 (Ob.AuChannel p)).nat (b.2.2 (Ob.AuSourceFlow p)).nat).auBlock b.2.2 p b.1 b.2.1] }

theorem Sys.fetchBlock_next (p : Nat) (b : Int × Int × (Nat → Val)) (y : Sys) : ((y.fetchBlock p b).au p).next = (y.au p).next ++
    [(y.audSettle (b.2.2 (Ob.AuChannel p)).nat (b.2.2 (Ob.AuSourceFlow p)).nat).auBlock b.2.2 p b.1 b.2.1] := by
  unfold Sys.fetchBlock
  rw [Sys.onAu_self, Sys.audSettle_au]

theorem Sys.fetchBlock_keeps {p : Nat} {x : AuBuf} (b : Int × Int × (Nat → Val)) (y : Sys) (h : x ∈ (y.au p).next) :
    x ∈ ((y.fetchBlock p b).au p).next := by
  rw [Sys.fetchBlock_next]
  exact List.mem_append_left _ h

/-- The blocks of a port that runs with no set pending begin with the one its present block ends at. -/
theorem Sys.nextBlocks_head {y : Sys} {p : Nat} (hon : (y.au p).on = true) (hgap : (y.au p).gap = false) (hpend : y.pend = []) :
    ∃ rest, y.nextBlocks p = ((y.au p).curEnd, blockEnd (blockFrames y.val y.auHz p) (y.au p).curEnd, y.val) :: rest := by
  have hnone : y.auPending p = none := by
    unfold Sys.auPending
    rw [hpend]
    rfl
  refine ⟨y.blocksFrom p 3 (blockEnd (blockFrames y.val y.auHz p) (y.au p).curEnd), ?_⟩
  unfold Sys.nextBlocks
  dsimp only
  rw [hnone]
  dsimp only
  rw [if_pos hon, hgap]
  conv_lhs => unfold Sys.blocksFrom
  rw [hnone]
  rfl

theorem Sys.auFetch_head {y : Sys} {p : Nat} (hon : (y.au p).on = true) (hgap : (y.au p).gap = false) (hpend : y.pend = [])
    (hout : y.nat (Ob.AuDirection p) = 1) (hen : y.nat (Ob.AuEnable p) = 1)
    (htime : atOrAfter (y.auNow p) (tickTime y.auHz (y.au p).curEnd - usU 20) = true) (hnew : ∀ b ∈ (y.au p).next, b.frame ≠ (y.au p).curEnd) :
    ∃ rest, y.auFetch p =
      (y.fetchBlock p ((y.au p).curEnd, blockEnd (blockFrames y.val y.auHz p) (y.au p).curEnd, y.val)).each rest (Sys.fetchBlock p) := by
  obtain ⟨rest, hrest⟩ := Sys.nextBlocks_head hon hgap hpend
  have hfresh : ((y.au p).next.any fun n => n.frame == (y.au p).curEnd) = false :=
    List.any_eq_false.mpr fun b hb => by rw [beq_false_of_ne (hnew b hb)]; decide
  unfold Sys.auFetch
  rw [hrest, List.filter_cons_of_pos]
  · exact ⟨_, Sys.each_cons ..⟩
  · have hout' : (y.val (Ob.AuDirection p)).nat = 1 := hout
    have hen' : (y.val (Ob.AuEnable p)).nat = 1 := hen
    simp only [hout', hen', htime, hfresh, beq_self_eq_true, Bool.and_self, Bool.not_false]


/-! ### The frame-clock edge as a whole -/

/-- The state at which the next frame begins, seen from the port. -/
structure Sys.AuEdge (p : Nat) (y : Sys) (a : Au) (z : Sys) : Prop where
  au : z.au p = a
  now : z.now = y.now
  part : z.part = y.part
  evs : z.evs = y.evs
  out : z.out = y.out
  val : ∀ k, k ≠ Ob.AuFramesDone p → z.val k = y.val k
  done : z.nat (Ob.AuFramesDone p) = (y.nat (Ob.AuFramesDone p) + 1) % wrapOf y.part.dies (Ob.AuFramesDone p)

namespace Sys.AuEdge

variable {p : Nat} {y z : Sys} {a : Au}

theorem nat (h : y.AuEdge p a z) {k : Nat} (hk : k ≠ Ob.AuFramesDone p) : z.nat k = y.nat k := congrArg Val.nat (h.val k hk)

theorem auHz (h : y.AuEdge p a z) : z.auHz = y.auHz :=
  congrArg (· * 1000) (h.nat (by simp only [Ob.AuFrameRate, Ob.AuFramesDone]; omega))

theorem blockFrames (h : y.AuEdge p a z) : blockFrames z.val z.auHz p = Machine.blockFrames y.val y.auHz p := by
  unfold Machine.blockFrames
  rw [h.auHz, h.val _ (by simp only [Ob.AuBlock, Ob.AuFramesDone]; omega)]

theorem auSlots (h : y.AuEdge p a z) : auSlots z.val p = Machine.auSlots y.val p := by
  unfold Machine.auSlots
  rw [h.val _ (by simp only [Ob.AuSlotMask, Ob.AuFramesDone]; omega)]

theorem auSync (h : y.AuEdge p a z) : auSync z.val p = Machine.auSync y.val p := by
  unfold Machine.auSync
  simp only [h.val (Ob.AuSlots p) (by simp only [Ob.AuSlots, Ob.AuFramesDone]; omega),
    h.val (Ob.AuSlotWidth p) (by simp only [Ob.AuSlotWidth, Ob.AuFramesDone]; omega),
    h.val (Ob.AuFsWidth p) (by simp only [Ob.AuFsWidth, Ob.AuFramesDone]; omega),
    h.val (Ob.AuFsPolarity p) (by simp only [Ob.AuFsPolarity, Ob.AuFramesDone]; omega)]

theorem inverted (h : y.AuEdge p a z) : z.flag (Ob.AuBclkInvert p) = y.flag (Ob.AuBclkInvert p) :=
  congrArg (fun v : Val => v.nat == 1) (h.val (Ob.AuBclkInvert p) (by simp only [Ob.AuBclkInvert, Ob.AuFramesDone]; omega))

theorem direction (h : y.AuEdge p a z) : z.nat (Ob.AuDirection p) = y.nat (Ob.AuDirection p) :=
  h.nat (by simp only [Ob.AuDirection, Ob.AuFramesDone]; omega)

/-- The frame before has ended, and the port has moved on. -/
theorem move {v : Sys} (f : Int) (hnow : v.now = y.now) (hpart : v.part = y.part) (hevs : v.evs = y.evs) (hout : v.out = y.out)
    (hval : ∀ k, v.val k = y.val k) :
    y.AuEdge p { v.au p with nextF := f + 1, lastEdge := y.now } ((v.bump (Ob.AuFramesDone p) 1).auMove p f) where
  au := by rw [Sys.auMove_self, Sys.bump_au_read, Sys.bump_now, hnow]
  now := hnow
  part := hpart
  evs := hevs
  out := hout
  val k hk := (Sys.bump_other _ _ _ _ hk).trans (hval k)
  done := by
    have hnat : v.nat (Ob.AuFramesDone p) = y.nat (Ob.AuFramesDone p) := congrArg Val.nat (hval _)
    have hset : ((v.bump (Ob.AuFramesDone p) 1).auMove p f).nat (Ob.AuFramesDone p) = _ := v.bump_nat (Ob.AuFramesDone p) 1
    rw [hset, hnat, hpart]

end Sys.AuEdge

section

variable {y : Sys} {p : Nat} {slots : List Int} (hon : (y.au p).on = true) (hgap : (y.au p).gap = false) (hpend : y.pend = [])
  (hdue : atOrAfter (y.auNow p) (tickTime y.auHz (y.au p).nextF) = true) (hwait : y.stepWaits (.audio p) = false)
include hon hgap hpend hdue hwait

/-- The edge of a port that runs, from the state its frame has ended at. -/
theorem Sys.auEdge_from {v : Sys} (hend : y.auEnd p slots = v.bump (Ob.AuFramesDone p) 1) (hstay : (v.au p).on = true) :
    y.auEdge p slots = ((v.bump (Ob.AuFramesDone p) 1).auMove p (y.au p).nextF).auBegin p (y.au p).nextF := by
  rw [Sys.auEdge_running hon hgap hpend hdue hwait (by rw [hend]; exact hstay), hend]

theorem Sys.auEdge_input {v : Sys} (hin : y.nat (Ob.AuDirection p) = 0) (hsampled : y.auSampled p slots = v) (hstay : (v.au p).on = true)
    (hnow : v.now = y.now) (hpart : v.part = y.part) (hevs : v.evs = y.evs) (hout : v.out = y.out) (hval : ∀ k, v.val k = y.val k) :
    ∃ z, y.auEdge p slots = (z.auOpen p (y.au p).nextF).auPins p ∧
      y.AuEdge p { v.au p with nextF := (y.au p).nextF + 1, lastEdge := y.now } z := by
  have hedge := Sys.AuEdge.move (p := p) (y.au p).nextF hnow hpart hevs hout hval
  refine ⟨_, ?_, hedge⟩
  rw [Sys.auEdge_from hon hgap hpend hdue hwait ((Sys.auEnd_input hin slots).trans (by rw [hsampled])) hstay,
    Sys.auBegin_input (hedge.direction.trans hin)]

theorem Sys.auEdge_output (hdir : y.nat (Ob.AuDirection p) = 1) (hblock : (y.au p).nextF < (y.au p).curEnd) :
    ∃ z, y.auEdge p slots = z.auPlay p ∧ y.AuEdge p { y.au p with nextF := (y.au p).nextF + 1, lastEdge := y.now } z := by
  have hedge := Sys.AuEdge.move (v := y) (p := p) (y.au p).nextF rfl rfl rfl rfl fun _ => rfl
  refine ⟨_, ?_, hedge⟩
  rw [Sys.auEdge_from hon hgap hpend hdue hwait (Sys.auEnd_output hdir slots) hon,
    Sys.auBegin_output (hedge.direction.trans hdir) (by rw [hedge.au]; exact hblock)]

end

/-- Settles O47: an input frame within and at the end of its block and with no buffer, an output frame of its own and of a substitute, and a
fetch. -/
theorem frameClockRuns : Obligations.FrameClockRuns := by
  unfold Obligations.FrameClockRuns
  intro dt p slots a y s hy ha hon hgap hpend
  subst ha
  have hout0 : y.out = [] := by rw [hy]; rfl
  refine ⟨fun hdue hwait => ⟨fun b row hin hmode hcur hrow => ?_, fun hin hcur hfull => ?overrun, fun b wd o hdir hblock hplay hwd ho => ?_⟩,
    fun hdir hen htime hnew => ?fetch⟩
  · have hsampled := Sys.auSampled_appends (slots := slots) hmode hcur
    have hrow' : y.sampledRow p slots = row := hrow.symm
    rw [hrow'] at hsampled
    refine ⟨fun hmid => ?within, fun hlast hread hroom => ?closes⟩
    case within =>
      rw [if_neg hmid] at hsampled
      have hself := Sys.auAppend_self p (b.grown row) y
      obtain ⟨z, hz, hedge⟩ := Sys.auEdge_input hon hgap hpend hdue hwait hin hsampled (by rw [hself]; exact hon) rfl rfl rfl rfl fun _ => rfl
      rw [Sys.auOpen_goesOn (by rw [hedge.au, hself]; rfl)] at hz
      refine ⟨_, act_done ((congrArg _ hy.symm).trans hz), ?_, ?_, hedge.evs, hedge.done, hedge.val⟩
      · refine (Sys.setAu_self ..).trans ?_
        rw [hedge.au, hself]
        rfl
      · refine (congrArg₂ (· ++ ·) (hedge.out.trans hout0) rfl).trans ?_
        refine (List.nil_append _).trans ?_
        rw [Sys.setAu_flag_read, hedge.inverted]
        exact congrArg (fun l => [Out.tdm p _ l none]) hedge.auSync
    case closes =>
      rw [if_pos hlast] at hsampled
      have hself : ((y.auAppend p (b.grown row)).auClose p).au p = { y.au p with cur := none, toSend := [] } := by
        rw [Sys.auClose_unread ((Sys.auAppend_readers ..).trans hread), Sys.auAppend_self]
      obtain ⟨z, hz, hedge⟩ := Sys.auEdge_input hon hgap hpend hdue hwait hin hsampled (by rw [hself]; exact hon) rfl rfl rfl rfl fun _ => rfl
      rw [hself] at hedge
      have hring : z.nat (Ob.AuRingBuffers p) = y.nat (Ob.AuRingBuffers p) :=
        hedge.nat (by simp only [Ob.AuRingBuffers, Ob.AuFramesDone]; omega)
      have hmask : z.nat (Ob.AuSlotMask p) = y.nat (Ob.AuSlotMask p) := hedge.nat (by simp only [Ob.AuSlotMask, Ob.AuFramesDone]; omega)
      have hopen : ((z.auOpen p (y.au p).nextF).auPins p).au p = z.openedAu p (y.au p).nextF :=
        Sys.auOpen_opens (by rw [hedge.au]) (by rw [hedge.au, hring]; exact hroom) _
      refine ⟨_, _, act_done ((congrArg _ hy.symm).trans hz), congrArg Au.cur hopen, ?_, ?_, ?_, ?_, ?_⟩
      · unfold Sys.openedBuf
        rw [hedge.au, hmask]
      · rw [hopen, Sys.openedAu, hedge.au]
      · rw [hopen, Sys.openedAu, hedge.au]
      · rw [hopen, Sys.openedAu, hedge.au, hring]
      · rw [hopen]
        exact congrArg (blockEnd · _) hedge.blockFrames
  case overrun =>
    obtain ⟨z, hz, hedge⟩ := Sys.auEdge_input hon hgap hpend hdue hwait hin (Sys.auSampled_discards hcur) (by rw [Sys.setAu_self]; exact hon)
      rfl rfl rfl rfl fun _ => rfl
    rw [Sys.setAu_self] at hedge
    have hring : z.nat (Ob.AuRingBuffers p) = y.nat (Ob.AuRingBuffers p) :=
      hedge.nat (by simp only [Ob.AuRingBuffers, Ob.AuFramesDone]; omega)
    have hcount : z.nat (Ob.AuOverrunFrames p) = y.nat (Ob.AuOverrunFrames p) :=
      hedge.nat (by simp only [Ob.AuOverrunFrames, Ob.AuFramesDone]; omega)
    have hopen := Sys.auOpen_overruns (y := z) (p := p) (by rw [hedge.au]; exact hcur) (by rw [hedge.au, hring]; exact hfull) (y.au p).nextF
    have hself : ((z.auOpen p (y.au p).nextF).auPins p).au p = (z.overran p).au p := by
      rw [hopen]
      split <;> rfl
    have hnat : ((z.auOpen p (y.au p).nextF).auPins p).nat (Ob.AuOverrunFrames p) = (z.overran p).nat (Ob.AuOverrunFrames p) := by
      rw [hopen]
      split <;> rfl
    refine ⟨_, act_done ((congrArg _ hy.symm).trans hz), ?_, ?_, ?_, fun hfirst => ?_⟩
    · rw [hself, Sys.overran_self, hedge.au]
    · rw [hself, Sys.overran_self]
    · rw [hnat, Sys.overran_nat, hcount, hedge.part]
    · have haff : (z.au p).affected = false := by rw [hedge.au]; exact hfirst
      rw [hopen, haff]
      refine (Sys.raise_raised ..).trans ?_
      exact congrArg₂ (fun e t => e.raised ++ [{ code := 0x0E02, die := p / 4, arg := p, t := t }]) hedge.evs hedge.now
  · obtain ⟨z, hz, hedge⟩ := Sys.auEdge_output (slots := slots) hon hgap hpend hdue hwait hdir hblock
    have hplay' : (z.au p).play = some b := by rw [hedge.au]; exact hplay
    have hwd' : wd = (z.val (Ob.AuSlotWidth p)).nat := hwd.trans (hedge.nat (by simp only [Ob.AuSlotWidth, Ob.AuFramesDone]; omega)).symm
    have ho' : o = (z.val (Ob.AuDataOffset p)).nat := ho.trans (hedge.nat (by simp only [Ob.AuDataOffset, Ob.AuFramesDone]; omega)).symm
    have hslots' : y.nat (Ob.AuSlots p) = (z.val (Ob.AuSlots p)).nat := (hedge.nat (by simp only [Ob.AuSlots, Ob.AuFramesDone]; omega)).symm
    have hpin : (z.played p).out = [.tdm p (y.flag (Ob.AuBclkInvert p)) (auSync y.val p) (some (z.playData p).1)] := by
      rw [Sys.played_out, hedge.out, hout0, hedge.inverted, hedge.auSync, List.nil_append]
    refine ⟨fun hown => ?own, fun hsub => ?substitute⟩
    case own =>
      have hrow := Sys.auRow_own hplay' hown
      rw [Sys.auPlay_own (by rw [hrow])] at hz
      refine ⟨_, _, act_done ((congrArg _ hy.symm).trans hz), hpin, fun i j v m hj hjs hv hm hin => ?_, ?_, ?_, ?_, hedge.evs, hedge.val⟩
      · refine auData_bit hwd' ho' hslots' hjs ?_ hm hin
        rw [hrow, hedge.auSlots]
        exact find?_zip_of_nodup (auSlots_nodup _ _) hj (by rw [hedge.au]; exact hv)
      · refine (congrArg Au.play (Sys.setAu_self ..)).trans hplay'
      · exact (congrArg Au.pos (Sys.setAu_self ..)).trans (by rw [hedge.au])
      · exact (congrArg Au.nextF (Sys.setAu_self ..)).trans (by rw [hedge.au])
    case substitute =>
      have hrow := Sys.auRow_substitute hplay' hsub
      rw [Sys.auPlay_substitute (by rw [hrow])] at hz
      have hsubst : z.nat (Ob.AuSubst p) = y.nat (Ob.AuSubst p) := hedge.nat (by simp only [Ob.AuSubst, Ob.AuFramesDone]; omega)
      have hcount : z.nat (Ob.AuUnderrunFrames p) = y.nat (Ob.AuUnderrunFrames p) :=
        hedge.nat (by simp only [Ob.AuUnderrunFrames, Ob.AuFramesDone]; omega)
      refine ⟨_, (z.playData p).1, act_done ((congrArg _ hy.symm).trans hz), ?_, fun j m hj hjs hm hin => ?_, ?_, fun hfirst => ?_⟩
      · refine Eq.trans ?_ hpin
        split <;> rfl
      · refine auData_bit hwd' ho' hslots' hjs ?_ hm hin
        rw [hrow, hedge.auSlots, hedge.au, hsubst]
        exact find?_map_pair (f := fun j => if y.nat (Ob.AuSubst p) = 0 then 0 else Tab.find (fun _ => 0) (y.au p).last j)
          (List.contains_iff_mem.mp hj)
      · have hbump : ((z.played p).bump (Ob.AuUnderrunFrames p) 1).nat (Ob.AuUnderrunFrames p) =
            (y.nat (Ob.AuUnderrunFrames p) + 1) % wrapOf y.part.dies (Ob.AuUnderrunFrames p) := by
          rw [Sys.bump_nat, ← hcount, ← hedge.part]
          rfl
        split
        · exact hbump
        · rw [Sys.raise_nat_read]
          exact hbump
      · have haff : ¬((z.au p).affected = true) := by rw [hedge.au, hfirst]; exact Bool.false_ne_true
        rw [if_neg haff]
        refine (Sys.raise_raised ..).trans ?_
        exact congrArg₂ (fun e t => e.raised ++ [{ code := 0x0E01, die := p / 4, arg := p, t := t }]) hedge.evs hedge.now
  case fetch =>
    obtain ⟨rest, hfetch⟩ := Sys.auFetch_head hon hgap hpend hdir hen htime hnew
    have hkeep : ∀ {x : AuBuf} {v : Sys}, x ∈ (v.au p).next → x ∈ ((v.each rest (Sys.fetchBlock p)).au p).next := fun h =>
      Sys.each_invariant (I := fun v => _ ∈ (v.au p).next) (fun b v h => Sys.fetchBlock_keeps b v h) h
    refine ⟨_, act_done ((congrArg _ hy.symm).trans hfetch), fun b hb => hkeep (Sys.fetchBlock_keeps _ _ hb), hkeep ?_⟩
    rw [Sys.fetchBlock_next]
    exact List.mem_append_right _ (List.mem_singleton.mpr rfl)


end Sys2Proof.Machine

/-! PROOFS. Ingest (03; R78 to R91): what merging and settling leave alone, and the rows that settle. -/

namespace Sys2Proof.Machine

/-! ### Frames but for the events they raised -/

/-- A frame without the events it has raised. -/
def Frame.unraised (fr : Frame) : Frame := { fr with raised := [] }

theorem Frame.k_of_unraised {a b : Frame} (h : a.unraised = b.unraised) : a.k = b.k := congrArg (·.k) h
theorem Frame.row_of_unraised {a b : Frame} (h : a.unraised = b.unraised) (r : Nat) : a.row r = b.row r := congrArg (·.row r) h
theorem Frame.settledRows_of_unraised {a b : Frame} (h : a.unraised = b.unraised) : a.settledRows = b.settledRows := congrArg (·.settledRows) h
theorem Frame.anc_of_unraised {a b : Frame} (h : a.unraised = b.unraised) : a.anc = b.anc := congrArg (·.anc) h

theorem Frame.onRow_row (fr : Frame) (r : Nat) (f : Row → Row) : (fr.onRow r f).row r = f (fr.row r) := Tab.find_put_self ..

theorem Frame.onRow_other (fr : Frame) {r q : Nat} (h : q ≠ r) (f : Row → Row) : (fr.onRow r f).row q = fr.row q := Tab.find_put_other _ _ _ h

theorem List.mem_of_map_eq {α β : Type} {f : α → β} {l m : List α} (h : l.map f = m.map f) {a : α} (ha : a ∈ m) : ∃ b ∈ l, f b = f a :=
  List.mem_map.mp (h ▸ List.mem_map_of_mem (f := f) ha)

/-- A channel but for its frames, gaps, and what of sound and ancillary data it has received. -/
def Chan.unframed (c : Chan) : Chan :=
  { c with frames := [], early := [], gaps := [], ancLate := 0, ancWait := [], ancUsed := [], audioNext := [], audSubst := 0, audioGot := [] }

/-- `z` is `y` but for what channel `n` has received, the objects `ks`, and events raised. -/
structure Sys.RxKept (n : Nat) (ks : List Nat) (y z : Sys) : Prop where
  now : z.now = y.now
  part : z.part = y.part
  jas : z.jas = y.jas
  net : z.net = y.net
  opal : z.opal = y.opal
  val : ∀ k, k ∉ ks → z.val k = y.val k
  chan : (z.chan n).unframed = (y.chan n).unframed
  raised : y.evs.raised <+: z.evs.raised

namespace Sys.RxKept

variable {n : Nat} {ks : List Nat} {y z v : Sys}

theorem refl (n : Nat) (ks : List Nat) (y : Sys) : y.RxKept n ks y := ⟨rfl, rfl, rfl, rfl, rfl, fun _ _ => rfl, rfl, List.prefix_rfl⟩

theorem trans (h : y.RxKept n ks z) (h' : z.RxKept n ks v) : y.RxKept n ks v :=
  ⟨h'.now.trans h.now, h'.part.trans h.part, h'.jas.trans h.jas, h'.net.trans h.net, h'.opal.trans h.opal,
    fun k hk => (h'.val k hk).trans (h.val k hk), h'.chan.trans h.chan, h.raised.trans h'.raised⟩

theorem mono {ks' : List Nat} (h : y.RxKept n ks z) (hks : ∀ k ∈ ks, k ∈ ks') : y.RxKept n ks' z :=
  ⟨h.now, h.part, h.jas, h.net, h.opal, fun k hk => h.val k fun hin => hk (hks k hin), h.chan, h.raised⟩

theorem setChan (h : y.RxKept n ks z) {c : Chan} (hc : c.unframed = (z.chan n).unframed) : y.RxKept n ks (z.setChan n c) :=
  ⟨h.now, h.part, h.jas, h.net, h.opal, h.val, by rw [Sys.setChan_self]; exact hc.trans h.chan, h.raised⟩

theorem onFrame (h : y.RxKept n ks z) (k : Int) (f : Frame → Frame) : y.RxKept n ks (z.onFrame n k f) := h.setChan rfl

theorem bump (h : y.RxKept n ks z) {k m : Nat} (hk : k ∈ ks) : y.RxKept n ks (z.bump k m) :=
  ⟨h.now, h.part, h.jas, h.net, h.opal,
    fun j hj => (Sys.bump_other _ _ _ _ fun heq => hj (by rw [heq]; exact hk)).trans (h.val j hj), h.chan, h.raised⟩

theorem raise (h : y.RxKept n ks z) (code die arg : Nat) : y.RxKept n ks (z.raise code die arg) :=
  ⟨h.now, h.part, h.jas, h.net, h.opal, h.val, h.chan, h.raised.trans (List.prefix_append ..)⟩

theorem onRx (h : y.RxKept n ks z) (k : Int) (g : Frame → Frame) : y.RxKept n ks (z.onRx n k g) := by
  unfold Sys.onRx
  dsimp only
  split
  · exact h.onFrame k g
  · split
    · exact h.setChan rfl
    · exact h.setChan rfl

theorem rxOnce (h : y.RxKept n ks z) (k : Int) (code : Nat) : y.RxKept n ks (z.rxOnce n k code) := by
  unfold Sys.rxOnce
  split
  · split
    · exact h
    · exact (h.onRx _ _).raise _ _ _
  · exact h

theorem nat (h : y.RxKept n ks z) {k : Nat} (hk : k ∉ ks) : z.nat k = y.nat k := congrArg Val.nat (h.val k hk)

theorem cfg (h : y.RxKept n ks z) : z.cfg n = y.cfg n := by
  funext k
  unfold Sys.cfg
  rw [h.part]
  exact congrArg (Tab.find (dfltVal y.part) · k) (congrArg (·.cfg) h.chan)

theorem cfgN (h : y.RxKept n ks z) (k : Nat) : z.cfgN n k = y.cfgN n k := congrArg (fun g : Nat → Val => (g k).nat) h.cfg

theorem fig (h : y.RxKept n ks z) : z.fig n = y.fig n := congrArg (figOf · n) h.cfg

theorem cx_chan (h : y.RxKept n ks z) : (z.chan n).cx = (y.chan n).cx := congrArg (·.cx) h.chan

theorem die (h : y.RxKept n ks z) : (z.chan n).die = (y.chan n).die := congrArg (·.die) h.chan

theorem noSource (h : y.RxKept n ks z) : (z.chan n).noSource = (y.chan n).noSource := congrArg (·.noSource) h.chan

theorem ingDie (h : y.RxKept n ks z) : z.ingDie n = y.ingDie n := by
  unfold Sys.ingDie
  rw [h.cfgN, h.die]

end Sys.RxKept

theorem Sys.onFrame_frames (n : Nat) (k : Int) (f : Frame → Frame) (y : Sys) :
    ((y.onFrame n k f).chan n).frames = (y.chan n).frames.map fun fr => if fr.k = k then f fr else fr := congrArg Chan.frames (Sys.onChan_self ..)

/-- A change that keeps what a projection reads keeps it of all frames begun. -/
theorem Sys.onRx_frames {β : Type} {P : Frame → β} (n : Nat) (k : Int) {g : Frame → Frame} (hg : ∀ fr, P (g fr) = P fr) (y : Sys) :
    ((y.onRx n k g).chan n).frames.map P = (y.chan n).frames.map P := by
  unfold Sys.onRx
  dsimp only
  split
  · rw [Sys.onFrame_frames, List.map_map]
    refine List.map_congr_left fun fr _ => ?_
    rw [Function.comp_apply]
    split
    · exact hg fr
    · rfl
  · split
    · rw [Sys.setChan_self]
    · rw [Sys.setChan_self]

theorem Sys.rxOnce_frames (n : Nat) (k : Int) (code : Nat) (y : Sys) :
    ((y.rxOnce n k code).chan n).frames.map Frame.unraised = (y.chan n).frames.map Frame.unraised := by
  unfold Sys.rxOnce
  split
  · split
    · rfl
    · rw [Sys.raise_chan_read]
      exact Sys.onRx_frames (P := Frame.unraised) (g := fun fr => { fr with raised := code :: fr.raised }) n k (fun _ => rfl) y
  · rfl

theorem Sys.rxOnce_live (n : Nat) (k : Int) (code : Nat) (y : Sys) : (y.rxOnce n k code).live = y.live := by
  unfold Sys.rxOnce
  split
  · split
    · rfl
    · obtain ⟨c, hc⟩ := Sys.onRx_setChan n k (fun fr => { fr with raised := code :: fr.raised }) y
      rw [hc]
      rfl
  · rfl

/-! ### A row settles (R86) -/

/-- A frame of which a row has settled. -/
def Frame.settle (r : Nat) (miss skip : List Nat) (fr : Frame) : Frame :=
  { fr.onRow r (fun w => { w with settled := true, conceal := miss, skip := skip }) with settledRows := r + 1 }

theorem Frame.settle_row (r : Nat) (miss skip : List Nat) (fr : Frame) :
    (fr.settle r miss skip).row r = { fr.row r with settled := true, conceal := miss, skip := skip } :=
  fr.onRow_row r fun w => { w with settled := true, conceal := miss, skip := skip }

/-- The CTUs of a row that miss a pixel are counted and reported once in a frame. -/
def Sys.concealed (n : Nat) (k : Int) (miss : List Nat) (y : Sys) : Sys :=
  if miss = [] then y else (y.bump (Ob.IngSubstCtuCount n) miss.length).rxOnce n k 0x0901

theorem Sys.settleRow_stages (n : Nat) (fr : Frame) (y : Sys) : ∃ skip, y.settleRow n fr =
    if fr.settledRows + 1 = (y.fig n).rows then
      (((y.judgeGaps n fr fr.settledRows).onFrame n fr.k (Frame.settle fr.settledRows (fr.missing (y.fig n) fr.settledRows) skip)).concealed n fr.k
        (fr.missing (y.fig n) fr.settledRows)).judgeFrame n fr
    else ((y.judgeGaps n fr fr.settledRows).onFrame n fr.k (Frame.settle fr.settledRows (fr.missing (y.fig n) fr.settledRows) skip)).concealed n fr.k
        (fr.missing (y.fig n) fr.settledRows) := ⟨_, rfl⟩

theorem Sys.judgeGaps_none {n r : Nat} {fr : Frame} (h : (fr.used.filter fun u => u.2 == r) = []) (y : Sys) : y.judgeGaps n fr r = y := by
  unfold Sys.judgeGaps
  rw [h]
  rfl

/-- A gap before the one packet of a row is counted (R91). -/
theorem Sys.judgeGaps_one {y : Sys} {n r q d : Nat} {fr : Frame} (h : (fr.used.filter fun u => u.2 == r) = [(q, r)])
    (hd : d = backTo ((y.chan n).usedLast.toList ++ (y.chan n).usedNear fr.k) q) (hlo : 1 < d) (hhi : d < 2 ^ 31)
    (hnew : gapCounted (y.chan n).gaps ((q + 2 ^ 32 - d) % 2 ^ 32) q = false) :
    y.judgeGaps n fr r = (y.setChan n { y.chan n with gaps := (y.chan n).gaps ++ [((q + 2 ^ 32 - d) % 2 ^ 32, q)] }).bump (Ob.IngSeqGapCount n) (d - 1) := by
  subst hd
  unfold Sys.judgeGaps
  rw [h, List.map_cons, List.map_nil, Sys.each_cons, Sys.each_nil]
  exact if_pos ⟨hlo, hhi, by rw [hnew]; exact Bool.false_ne_true⟩

section

variable {n : Nat} {k : Int} {miss : List Nat} {y : Sys}

theorem Sys.RxKept.concealed {ks : List Nat} {z : Sys} (h : y.RxKept n ks z) (hk : Ob.IngSubstCtuCount n ∈ ks) (k : Int) (miss : List Nat) :
    y.RxKept n ks (z.concealed n k miss) := by
  unfold Sys.concealed
  split
  · exact h
  · exact (h.bump hk).rxOnce _ _

theorem Sys.concealed_frames : ((y.concealed n k miss).chan n).frames.map Frame.unraised = (y.chan n).frames.map Frame.unraised := by
  unfold Sys.concealed
  split
  · rfl
  · exact Sys.rxOnce_frames ..

theorem Sys.concealed_none (h : miss = []) : y.concealed n k miss = y := if_pos h

theorem Sys.concealed_count (h : miss ≠ []) : (y.concealed n k miss).nat (Ob.IngSubstCtuCount n) =
    (y.nat (Ob.IngSubstCtuCount n) + miss.length) % wrapOf y.part.dies (Ob.IngSubstCtuCount n) := by
  unfold Sys.concealed
  rw [if_neg h, ((Sys.RxKept.refl n [] _).rxOnce _ _).nat List.not_mem_nil, Sys.bump_nat]

end

/-- The frame of a settled row, among the frames. -/
theorem Sys.settled_mem {y : Sys} {n r : Nat} {fr : Frame} {miss skip : List Nat} (hmem : fr ∈ (y.chan n).frames) :
    ∃ gr ∈ (((y.onFrame n fr.k (Frame.settle r miss skip)).concealed n fr.k miss).chan n).frames,
      gr.unraised = (fr.settle r miss skip).unraised := by
  refine List.mem_of_map_eq Sys.concealed_frames (a := fr.settle r miss skip) ?_
  rw [Sys.onFrame_frames]
  exact List.mem_map.mpr ⟨fr, hmem, if_pos rfl⟩

/-- The last row of a frame without a packet, with one leg (R90). -/
theorem Sys.judgeFrame_lost {y : Sys} {n : Nat} {fr : Frame} (hA : fr.legA = 0) (hB : fr.legB = 0) (hleg : y.cfgN n (Ob.IngLegMode n) = 0)
    (hsrc : (y.chan n).noSource = false) :
    ∃ f : Chan → Chan, (∀ c, (f c).noSource = true) ∧
      y.judgeFrame n fr = ((y.bump (Ob.IngSourceLostFrames n) 1).raise 0x0902 (y.ingDie n) n).onChan n f := by
  have hnone : fr.legA = 0 ∧ fr.legB = 0 := ⟨hA, hB⟩
  refine ⟨fun c => { c with noSource := decide (fr.legA = 0 ∧ fr.legB = 0), gaps := c.gaps.filter fun g => (c.usedNear fr.k).contains g.2
                            usedLast := newest32 (c.usedLast.toList ++ fr.used.map Prod.fst) }, fun c => decide_eq_true hnone, ?_⟩
  unfold Sys.judgeFrame
  dsimp only
  rw [if_neg (c := y.cfgN n (Ob.IngLegMode n) = 1) (by rw [hleg]; decide), if_pos hnone, if_pos ⟨hnone, by rw [hsrc]; exact Bool.false_ne_true⟩]

/-! ### The settle end (R86, R96) -/

theorem Sys.audSettle_off {y : Sys} {n f : Nat} (h : y.cfgN n (Ob.IngAudMode n f) = 0) : y.audSettle n f = y := by
  unfold Sys.audSettle
  rw [h]
  rfl

theorem Sys.each_audSettle_off {y : Sys} {n : Nat} {l : List Nat} (h : ∀ j ∈ l, y.cfgN n (Ob.IngAudMode n j) = 0) :
    y.each l (Sys.audSettle n) = y := by
  induction l with
  | nil => rfl
  | cons j l ih => rw [Sys.each_cons, Sys.audSettle_off (h j List.mem_cons_self), ih fun i hi => h i (List.mem_cons_of_mem j hi)]

theorem Sys.settleCh_row {y : Sys} {n : Nat} {fr : Frame} (haud : ∀ j < 4, y.cfgN n (Ob.IngAudMode n j) = 0) (hcx : (y.chan n).cx = none)
    (hfind : (y.chan n).frames.find? (fun fr => decide (fr.settledRows < (y.fig n).rows)) = some fr) :
    y.settleCh n = if atOrAfter (y.frameNow n fr.old) (fr.origin + (y.fig n).slotEnd fr.settledRows + nsU 9500) then y.settleRow n fr else y := by
  unfold Sys.settleCh
  dsimp only
  rw [Sys.each_audSettle_off fun j hj => haud j (List.mem_range.mp hj), hcx, hfind]
  rfl

/-- A layer's flow moves on by a row. -/
theorem Sys.settleLy_row {y : Sys} {l c : Nat} {fr : LyFrame} (hflow : y.lyFlow l = some c)
    (hfind : (y.ly l).frames.find? (fun fr => decide (fr.settledRows < (lyFig y.val l c).rows)) = some fr)
    (hdue : atOrAfter (y.cxNow c) ((lyFig y.val l c).boundary fr.k + (lyFig y.val l c).off + (lyFig y.val l c).slotEnd fr.settledRows + nsU 9500) = true)
    (hleg : y.nat (Ob.LyIngLegMode l) = 0) :
    y.settleLy l = y.onLyFrame l fr.k fun fr => { fr with settledRows := fr.settledRows + 1 } := by
  unfold Sys.settleLy
  rw [hflow]
  dsimp only
  rw [hfind]
  dsimp only
  rw [if_pos hdue]
  refine if_neg fun h => ?_
  have hmode : y.nat (Ob.LyIngLegMode l) = 1 := h.2
  rw [hleg] at hmode
  exact absurd hmode (by decide)

/-- Settles O49: a row with and without missing CTUs, a gap, a frame without a source, and a row of a layer's flow. -/
theorem rowsSettle : Obligations.RowsSettle := by
  unfold Obligations.RowsSettle
  refine ⟨fun dt n r fr f y s hy hf haud hcx hfind hr honly => ?channel, fun dt l c fr f y s hy hflow hf hfind hdue hleg => ?layer⟩
  case channel =>
    subst hf hr
    have hsettle := Sys.settleCh_row haud hcx hfind
    have hmem : fr ∈ (y.chan n).frames := List.mem_of_find?_eq_some hfind
    refine ⟨fun hearly => act_done ?_, fun hdue => ?_⟩
    · rw [← hy]
      exact hsettle.trans (if_neg (by rw [hearly]; exact Bool.false_ne_true))
    obtain ⟨skip, hstages⟩ := Sys.settleRow_stages n fr y
    rw [if_pos hdue, hstages] at hsettle
    refine ⟨fun hused hmore => ?row, fun q d hused hd hmore hlo hhi hnew => ?gap, fun hused hlast hA hB hleg hsrc => ?lost⟩
    case row =>
      rw [if_neg hmore, Sys.judgeGaps_none hused] at hsettle
      obtain ⟨gr, hgr, heq⟩ := Sys.settled_mem (r := fr.settledRows) (miss := fr.missing (y.fig n) fr.settledRows) (skip := skip) hmem
      have hrow := (Frame.row_of_unraised heq fr.settledRows).trans (fr.settle_row _ _ _)
      refine ⟨_, gr, act_done ((congrArg _ hy.symm).trans hsettle), hgr, (Frame.k_of_unraised heq).trans rfl, Frame.settledRows_of_unraised heq,
        congrArg Row.settled hrow, congrArg Row.conceal hrow, fun hnone => ?_, fun hsome => Sys.concealed_count hsome⟩
      rw [Sys.concealed_none hnone]
      exact ⟨rfl, rfl⟩
    case gap =>
      rw [if_neg hmore, Sys.judgeGaps_one hused hd hlo hhi hnew] at hsettle
      refine ⟨_, act_done ((congrArg _ hy.symm).trans hsettle), ?_⟩
      have hne : Ob.IngSeqGapCount n ∉ [Ob.IngSubstCtuCount n] := by simp only [Ob.IngSeqGapCount, Ob.IngSubstCtuCount, List.mem_singleton]; omega
      rw [(((Sys.RxKept.refl n [Ob.IngSubstCtuCount n] _).onFrame _ _).concealed (List.mem_singleton.mpr rfl) _ _).nat hne, Sys.bump_nat]
      rfl
    case lost =>
      have hnone : (fr.used.filter fun u => u.2 == fr.settledRows) = [] := by rw [hused]; rfl
      rw [if_pos hlast, Sys.judgeGaps_none hnone] at hsettle
      have hkept := ((Sys.RxKept.refl n [Ob.IngSubstCtuCount n] y).onFrame fr.k
        (Frame.settle fr.settledRows (fr.missing (y.fig n) fr.settledRows) skip)).concealed (List.mem_singleton.mpr rfl) fr.k
        (fr.missing (y.fig n) fr.settledRows)
      generalize hz : (y.onFrame n fr.k (Frame.settle fr.settledRows (fr.missing (y.fig n) fr.settledRows) skip)).concealed n fr.k
        (fr.missing (y.fig n) fr.settledRows) = z at hsettle hkept
      have hne : Ob.IngSourceLostFrames n ∉ [Ob.IngSubstCtuCount n] := by
        simp only [Ob.IngSourceLostFrames, Ob.IngSubstCtuCount, List.mem_singleton]; omega
      obtain ⟨g, hg, hjudge⟩ := Sys.judgeFrame_lost (y := z) hA hB ((hkept.cfgN _).trans hleg) (hkept.noSource.trans hsrc)
      rw [hjudge] at hsettle
      refine ⟨_, act_done ((congrArg _ hy.symm).trans hsettle), ?_, ?_, ?_⟩
      · rw [Sys.onChan_self]
        exact hg _
      · rw [Sys.onChan_nat_read, Sys.raise_nat_read, Sys.bump_nat, hkept.nat hne, hkept.part]
      · rw [Sys.onChan_evs, Sys.raise_raised, hkept.ingDie, Sys.bump_now, hkept.now]
        exact List.mem_append_right _ (List.mem_singleton.mpr rfl)
  case layer =>
    subst hf
    refine ⟨_, act_done ((congrArg _ hy.symm).trans (Sys.settleLy_row hflow hfind hdue hleg)), rfl, rfl, ?_⟩
    exact congrArg Ly.frames (Sys.onLy_self ..)

end Sys2Proof.Machine

/-! PROOFS. Received packets (03; R78 to R95, R292 to R295): video, audio and ancillary packets of one leg of one channel. -/

namespace Sys2Proof.Machine

/-! ### Legs and policers (R73, R92, R293) -/

/-- A packet one leg takes without a policer. -/
theorem Sys.eachLeg_one {y : Sys} {h : PktHdr} {g : Nat} {leg : Leg} (hup : y.portUp h.port = true) (hpol : leg.pol = 0xFFFF)
    (f : Nat → Sys → Sys) : y.eachLeg [(g, leg)] h f = f g y := by
  have hpass : y.police leg h = (true, y) := if_pos hpol
  unfold Sys.eachLeg
  rw [if_pos hup, Sys.each_cons, Sys.each_nil]
  dsimp only
  rw [hpass]
  rfl

/-- The counts of a policer's red packet (R294). -/
def Sys.redCounted (y : Sys) (leg : Leg) (h : PktHdr) (p : Pol) : Sys :=
  ((y.setPol leg.pol p).bump (Ob.PolGreenPkts leg.pol + 2) 1).bump (Ob.PolGreenBytes leg.pol + 2) h.bytes

/-- A packet for which the peak bucket of a policer of mode 1 is too low is red (R293, R295). -/
theorem Sys.police_red {y : Sys} {leg : Leg} {h : PktHdr} (hpol : leg.pol ≠ 0xFFFF) (hmode : y.nat (Ob.PolMode leg.pol) = 1)
    (hlow : (y.polNow leg.pol).tp < (h.bytes * 65536 : Nat)) :
    (y.police leg h).1 = false ∧ ∃ p, (y.police leg h).2 = y.redCounted leg h p ∨
      (y.police leg h).2 = (y.redCounted leg h p).raise 0x1005 (leg.pol / 256) leg.pol := by
  have hred : ∀ pre, polColour (y.nat (Ob.PolMode leg.pol)) (y.flag (Ob.PolColorAware leg.pol)) pre ((h.bytes * 65536 : Nat) : Int)
      (y.polNow leg.pol) = (2, y.polNow leg.pol) := fun pre => by
    have hany : ((y.flag (Ob.PolColorAware leg.pol) && pre == 2) ||
        decide ((y.polNow leg.pol).tp < ((h.bytes * 65536 : Nat) : Int))) = true := by rw [decide_eq_true hlow, Bool.or_true]
    exact (if_pos hmode).trans (if_pos hany)
  unfold Sys.police
  dsimp only
  rw [if_neg hpol, hred]
  refine ⟨rfl, { y.polNow leg.pol with lastRed := some y.now }, ?_⟩
  dsimp only
  split
  · exact Or.inr rfl
  · exact Or.inl rfl

theorem Sys.eachLeg_dropped {y : Sys} {h : PktHdr} {g : Nat} {leg : Leg} (hup : y.portUp h.port = true) (hdrop : (y.police leg h).1 = false)
    (f : Nat → Sys → Sys) : y.eachLeg [(g, leg)] h f = (y.police leg h).2 := by
  unfold Sys.eachLeg
  rw [if_pos hup, Sys.each_cons, Sys.each_nil]
  exact if_neg (by rw [hdrop]; exact Bool.false_ne_true)

theorem Sys.redCounted_pkts (y : Sys) (leg : Leg) (h : PktHdr) (p : Pol) : (y.redCounted leg h p).nat (Ob.PolGreenPkts leg.pol + 2) =
    (y.nat (Ob.PolGreenPkts leg.pol + 2) + 1) % wrapOf y.part.dies (Ob.PolGreenPkts leg.pol + 2) := by
  unfold Sys.redCounted
  refine (congrArg Val.nat (Sys.bump_other _ _ _ _ (by simp only [Ob.PolGreenBytes, Ob.PolGreenPkts]; omega))).trans ?_
  exact Sys.bump_nat (y.setPol leg.pol p) _ _

theorem Sys.redCounted_bytes (y : Sys) (leg : Leg) (h : PktHdr) (p : Pol) : (y.redCounted leg h p).nat (Ob.PolGreenBytes leg.pol + 2) =
    (y.nat (Ob.PolGreenBytes leg.pol + 2) + h.bytes) % wrapOf y.part.dies (Ob.PolGreenBytes leg.pol + 2) := by
  unfold Sys.redCounted
  refine (Sys.bump_nat ..).trans ?_
  have hbefore : ((y.setPol leg.pol p).bump (Ob.PolGreenPkts leg.pol + 2) 1).nat (Ob.PolGreenBytes leg.pol + 2) =
      y.nat (Ob.PolGreenBytes leg.pol + 2) :=
    congrArg Val.nat (Sys.bump_other _ _ _ _ (by simp only [Ob.PolGreenBytes, Ob.PolGreenPkts]; omega))
  rw [hbefore]
  rfl

/-! ### Whom a video packet reaches (R530) -/

/-- A flow layer's context is read from the objects of layers and contexts. -/
theorem Sys.lyFlow_congr {y z : Sys} (hval : ∀ k, 0x300000 < k → k % 32 < 3 → z.val k = y.val k) (l : Nat) : z.lyFlow l = y.lyFlow l := by
  have hnat : ∀ k, 0x300000 < k → k % 32 < 3 → z.nat k = y.nat k := fun k hk hm => congrArg Val.nat (hval k hk hm)
  unfold Sys.lyFlow Sys.flag
  rw [hnat (Ob.LyContext l) (by simp only [Ob.LyContext]; omega) (by simp only [Ob.LyContext]; omega),
    hnat (Ob.LySource l) (by simp only [Ob.LySource]; omega) (by simp only [Ob.LySource]; omega)]
  dsimp only
  rw [hnat (Ob.CxEnable (y.nat (Ob.LyContext l))) (by simp only [Ob.CxEnable]; omega) (by simp only [Ob.CxEnable]; omega)]

/-- No layer and no row-locked frame receives. -/
def Sys.onlyChannels (y : Sys) : Prop :=
  (∀ l < 16 * y.part.dies, y.lyFlow l = none) ∧ ∀ c < 4 * y.part.dies, ∀ g ∈ (y.cx c).frames, ∀ x ∈ g.shown, x.locked ≠ 4

theorem Sys.onlyChannels_congr {y z : Sys} (h : y.onlyChannels) (hpart : z.part = y.part) (hopal : z.opal = y.opal)
    (hval : ∀ k, 0x300000 < k → k % 32 < 3 → z.val k = y.val k) : z.onlyChannels := by
  have hcx : ∀ c, z.cx c = y.cx c := fun c => congrArg (fun o : Opal => Tab.find (fun _ => ({} : Cx)) o.cxs c) hopal
  refine ⟨fun l hl => ?_, fun c hc => ?_⟩
  · rw [Sys.lyFlow_congr hval]
    exact h.1 l (by rw [← hpart]; exact hl)
  · rw [hcx]
    exact h.2 c (by rw [← hpart]; exact hc)

/-- What changes nothing on a state changes nothing over a list. -/
theorem Sys.each_still {α : Type} {l : List α} {f : α → Sys → Sys} {y : Sys} (h : ∀ a ∈ l, f a y = y) : y.each l f = y := by
  induction l with
  | nil => rfl
  | cons a l ih => rw [Sys.each_cons, h a List.mem_cons_self, ih fun b hb => h b (List.mem_cons_of_mem a hb)]

/-- A packet for one channel, behind its leg. -/
theorem Sys.videoRx_one {y z : Sys} {n g : Nat} {leg : Leg} {p : VideoPkt} (hone : y.activeChans = [n]) (hcx : (y.chan n).cx = none)
    (hhit : legsHit (y.cfg n) (Ob.IngPortA n) (y.cfgN n (Ob.IngLegMode n) = 1) p.hdr = [(g, leg)])
    (hleg : y.eachLeg [(g, leg)] p.hdr (Sys.videoTo n p) = z) (honly : z.onlyChannels) : y.videoRx p = z := by
  unfold Sys.videoRx
  dsimp only
  have hfirst : (y.each y.activeChans fun n y => if (y.chan n).cx.isSome then y else
      y.eachLeg (legsHit (y.cfg n) (Ob.IngPortA n) (y.cfgN n (Ob.IngLegMode n) = 1) p.hdr) p.hdr (Sys.videoTo n p)) = z := by
    rw [hone, Sys.each_cons, Sys.each_nil, hcx, hhit, hleg]
    exact if_neg Bool.false_ne_true
  rw [hfirst, Sys.each_still (y := z) fun l hl => by rw [honly.1 l (List.mem_range.mp hl)]]
  refine Sys.each_still fun c hc => Sys.each_still fun fr hfr => ?_
  have hnone : (fr.shown.filter fun s => s.locked == 4) = [] := List.filter_eq_nil_iff.mpr fun x hx hlock =>
    honly.2 c (List.mem_range.mp hc) fr (List.mem_of_mem_filter hfr) x hx (eq_of_beq hlock)
  rw [hnone]
  rfl

theorem Sys.RxKept.onlyChannels {n : Nat} {ks : List Nat} {y z : Sys} (h : y.RxKept n ks z) (hks : ∀ k ∈ ks, k < 0x300000) (honly : y.onlyChannels) :
    z.onlyChannels :=
  Sys.onlyChannels_congr honly h.part h.opal fun _ hk _ => h.val _ fun hin => absurd (hks _ hin) (by omega)

/-! ### Frames that receive (R79, R81) -/

/-- A frame counts a packet of a leg. -/
def Frame.legCounted (leg : Nat) (fr : Frame) : Frame := if leg = 0 then { fr with legA := fr.legA + 1 } else { fr with legB := fr.legB + 1 }

theorem Frame.legCounted_k (leg : Nat) (fr : Frame) : (fr.legCounted leg).k = fr.k := by
  unfold Frame.legCounted
  split <;> rfl

theorem Frame.legCounted_used (leg : Nat) (fr : Frame) : (fr.legCounted leg).used = fr.used := by
  unfold Frame.legCounted
  split <;> rfl

/-- Putting segments into rows changes rows alone. -/
theorem Frame.place_rows (l : List Seg) (fr : Frame) : fr.place l = { fr with rows := (fr.place l).rows } := by
  unfold Frame.place
  induction l generalizing fr with
  | nil => rfl
  | cons x l ih => exact ih _

theorem Frame.place_cons (x : Seg) (l : List Seg) (fr : Frame) :
    fr.place (x :: l) = (fr.onRow (x.line / 64) fun w => { w with segs := x :: w.segs }).place l := rfl

theorem Frame.onRow_segs {x s : Seg} {r q : Nat} {fr : Frame} (h : s ∈ (fr.row q).segs) :
    s ∈ ((fr.onRow r fun w => { w with segs := x :: w.segs }).row q).segs := by
  by_cases hq : q = r
  · subst hq
    rw [Frame.onRow_row]
    exact List.mem_cons_of_mem x h
  · rw [Frame.onRow_other _ hq]
    exact h

theorem Frame.place_keeps {l : List Seg} {fr : Frame} {s : Seg} {q : Nat} (h : s ∈ (fr.row q).segs) : s ∈ ((fr.place l).row q).segs := by
  induction l generalizing fr with
  | nil => exact h
  | cons x l ih =>
    rw [Frame.place_cons]
    exact ih (Frame.onRow_segs h)

theorem Frame.place_mem {l : List Seg} {fr : Frame} {x : Seg} (h : x ∈ l) : x ∈ ((fr.place l).row (x.line / 64)).segs := by
  induction l generalizing fr with
  | nil => cases h
  | cons b l ih =>
    rw [Frame.place_cons]
    rcases List.mem_cons.mp h with rfl | h
    · refine Frame.place_keeps ?_
      rw [Frame.onRow_row]
      exact List.mem_cons_self
    · exact ih h

/-- A frame takes a packet it did not have. -/
def Frame.took (p : VideoPkt) (fr : Frame) : Frame := { fr.place p.segs with used := (seq32 p, firstRow p.segs) :: fr.used }

theorem Frame.took_k (p : VideoPkt) (fr : Frame) : (fr.took p).k = fr.k := (congrArg Frame.k (fr.place_rows p.segs)).trans rfl

theorem Frame.took_legA (p : VideoPkt) (fr : Frame) : (fr.took p).legA = fr.legA := (congrArg Frame.legA (fr.place_rows p.segs)).trans rfl

theorem Chan.received_find {c : Chan} {P : Frame → Bool} {fr : Frame} (h : c.frames.find? P = some fr) : c.received.find? P = some fr := by
  unfold Chan.received
  rw [List.find?_append, h]
  rfl

theorem Sys.onRx_of_mem {y : Sys} {n : Nat} {k : Int} {fr : Frame} (h : fr ∈ (y.chan n).frames) (hk : fr.k = k) (g : Frame → Frame) :
    y.onRx n k g = y.onFrame n k g :=
  if_pos (List.any_eq_true.mpr ⟨fr, h, (congrArg (· == k) hk).trans (beq_self_eq_true k)⟩)

theorem Sys.onRx_begun {y : Sys} {n : Nat} {k : Int} {fr : Frame} (h : (y.chan n).frames.find? (fun fr => fr.k == k) = some fr)
    (g : Frame → Frame) : y.onRx n k g = y.onFrame n k g :=
  Sys.onRx_of_mem (List.mem_of_find?_eq_some h) (eq_of_beq (List.find?_some (p := fun fr : Frame => fr.k == k) h)) g

theorem Sys.onFrame_find {y : Sys} {n : Nat} {k : Int} {fr : Frame} {g : Frame → Frame} (hg : ∀ fr, (g fr).k = fr.k)
    (h : (y.chan n).frames.find? (fun fr => fr.k == k) = some fr) :
    ((y.onFrame n k g).chan n).frames.find? (fun fr => fr.k == k) = some (g fr) := by
  have hk : fr.k = k := eq_of_beq (List.find?_some (p := fun fr : Frame => fr.k == k) h)
  have hsame : ((fun fr : Frame => fr.k == k) ∘ fun fr => if fr.k = k then g fr else fr) = fun fr => fr.k == k := by
    funext f
    rw [Function.comp_apply]
    split
    · rw [hg]
    · rfl
  rw [Sys.onFrame_frames, List.find?_map, hsame, h, Option.map_some, if_pos hk]

theorem Chan.usedNear_map (c : Chan) (k : Int) {g : Frame → Frame} (hk : ∀ fr, (g fr).k = fr.k) (hused : ∀ fr, (g fr).used = fr.used) :
    ({ c with frames := c.frames.map g } : Chan).usedNear k = c.usedNear k := by
  have hpart : ∀ l : List Frame, (((l.map g).filter fun fr => decide (k - 1 ≤ fr.k) && decide (fr.k ≤ k + 1)).flatMap fun fr => fr.used.map Prod.fst) =
      (l.filter fun fr => decide (k - 1 ≤ fr.k) && decide (fr.k ≤ k + 1)).flatMap fun fr => fr.used.map Prod.fst := by
    intro l
    rw [List.filter_map, List.flatMap_map]
    simp only [Function.comp_def, hk, hused]
  unfold Chan.usedNear Chan.received
  rw [List.filter_append, List.filter_append, List.flatMap_append, List.flatMap_append, hpart]

theorem Sys.onFrame_usedNear (y : Sys) (n : Nat) (j k : Int) {g : Frame → Frame} (hk : ∀ fr, (g fr).k = fr.k) (hused : ∀ fr, (g fr).used = fr.used) :
    ((y.onFrame n j g).chan n).usedNear k = (y.chan n).usedNear k := by
  have hchan : (y.onFrame n j g).chan n = { y.chan n with frames := (y.chan n).frames.map fun fr => if fr.k = j then g fr else fr } := Sys.onChan_self ..
  rw [hchan]
  refine Chan.usedNear_map (y.chan n) k (fun fr => ?_) fun fr => ?_
  · split
    · exact hk fr
    · rfl
  · split
    · exact hused fr
    · rfl

/-! ### The judgement and the merge (R78 to R82, R88) -/

/-- A video packet on time goes into the frame of a candidate. -/
def Sys.videoOnTime (n : Nat) (p : VideoPkt) (leg : Nat) (c : Cand) (y : Sys) : Sys :=
  let ts := p.rtpTs % 2 ^ 32
  let bound := ((y.chan n).received.find? fun fr => fr.k == c.k).bind fun fr => fr.ts
  let y := if bound.isNone then y.bindTs n c.k c.stamp ts else y
  if bound.getD ts ≠ ts then (y.bump (Ob.IngTsMismatchCount n) 1).rxOnce n c.k 0x0906
  else
    let y := (y.bump (if leg = 0 then Ob.IngPktA n else Ob.IngPktB n) 1).onRx n c.k (Frame.legCounted leg)
    if ((y.chan n).usedNear c.k).contains (seq32 p) then y.bump (Ob.IngDupCount n) 1 else y.onRx n c.k (Frame.took p)

section

variable {y : Sys} {n leg : Nat} {p : VideoPkt}

theorem Sys.videoTo_malformed (h : (p.segs.isEmpty || !(p.segs.all fun x => segOk (y.fig n) 0 (y.cfgN n (Ob.IngDepth n)) x)) = true) :
    y.videoTo n p leg = y.bump (Ob.IngMalformedCount n) 1 := if_pos h

variable (hsome : p.segs ≠ []) (hform : (p.segs.all fun x => segOk (y.fig n) 0 (y.cfgN n (Ob.IngDepth n)) x) = true)
include hsome hform

theorem Sys.videoForm : ¬(p.segs.isEmpty || !(p.segs.all fun x => segOk (y.fig n) 0 (y.cfgN n (Ob.IngDepth n)) x)) = true := by
  rw [hform, List.isEmpty_eq_false_iff.mpr hsome]
  decide

theorem Sys.videoTo_early {cd : Cand} (h : judge (y.chCands n p) = some (cd, 1)) : y.videoTo n p leg = y.bump (Ob.IngEarlyCount n) 1 := by
  unfold Sys.videoTo
  dsimp only
  rw [if_neg (Sys.videoForm hsome hform), h]
  rfl

theorem Sys.videoTo_late {cd : Cand} (h : judge (y.chCands n p) = some (cd, 2)) : y.videoTo n p leg = y.bump (Ob.IngLateCount n) 1 := by
  unfold Sys.videoTo
  dsimp only
  rw [if_neg (Sys.videoForm hsome hform), h]
  rfl

variable {cd : Cand} {fr : Frame} (hjudge : judge (y.chCands n p) = some (cd, 0))
include hjudge

theorem Sys.videoTo_judged : y.videoTo n p leg = y.videoOnTime n p leg cd := by
  unfold Sys.videoTo
  dsimp only
  rw [if_neg (Sys.videoForm hsome hform), hjudge]
  rfl

variable (hfind : (y.chan n).frames.find? (fun fr => fr.k == cd.k) = some fr)
include hfind

theorem Sys.videoTo_mismatch {ts : Nat} (hts : fr.ts = some ts) (hne : ts ≠ p.rtpTs % 2 ^ 32) :
    y.videoTo n p leg = (y.bump (Ob.IngTsMismatchCount n) 1).rxOnce n cd.k 0x0906 := by
  rw [Sys.videoTo_judged hsome hform hjudge]
  unfold Sys.videoOnTime
  dsimp only
  rw [Chan.received_find hfind, Option.bind_some, hts]
  exact if_pos hne

/-- A packet on time is counted for its leg and, unless it is a repeat, taken. -/
theorem Sys.videoTo_onTime (hts : fr.ts = some (p.rtpTs % 2 ^ 32)) {z : Sys}
    (hz : z = (y.bump (if leg = 0 then Ob.IngPktA n else Ob.IngPktB n) 1).onFrame n cd.k (Frame.legCounted leg)) :
    y.videoTo n p leg = if ((y.chan n).usedNear cd.k).contains (seq32 p) then z.bump (Ob.IngDupCount n) 1 else z.onFrame n cd.k (Frame.took p) := by
  have hcount : (y.bump (if leg = 0 then Ob.IngPktA n else Ob.IngPktB n) 1).onRx n cd.k (Frame.legCounted leg) = z := by
    rw [hz]
    exact Sys.onRx_begun (y := y.bump (if leg = 0 then Ob.IngPktA n else Ob.IngPktB n) 1) hfind _
  have hnear : (z.chan n).usedNear cd.k = (y.chan n).usedNear cd.k := by
    rw [hz, Sys.onFrame_usedNear _ _ _ _ (Frame.legCounted_k leg) (Frame.legCounted_used leg), Sys.bump_chan_read]
  have htake : z.onRx n cd.k (Frame.took p) = z.onFrame n cd.k (Frame.took p) := by
    refine Sys.onRx_begun (fr := fr.legCounted leg) ?_ _
    rw [hz]
    exact Sys.onFrame_find (Frame.legCounted_k leg) hfind
  rw [← hnear, ← htake, Sys.videoTo_judged hsome hform hjudge]
  unfold Sys.videoOnTime
  dsimp only
  rw [Chan.received_find hfind, Option.bind_some, hts]
  rw [if_neg (c := (some (p.rtpTs % 2 ^ 32)).isNone = true) Bool.false_ne_true, hcount]
  exact if_neg fun h => h rfl

end

theorem Sys.rxOnce_raises {y : Sys} {n code : Nat} {k : Int} {fr : Frame} (hfind : (y.chan n).received.find? (fun fr => fr.k == k) = some fr)
    (hnew : fr.raised.contains code = false) :
    (y.rxOnce n k code).evs.raised = y.evs.raised ++ [{ code := code, die := y.ingDie n, arg := n, t := y.now }] := by
  have hkept := (Sys.RxKept.refl n [] y).onRx k fun fr => { fr with raised := code :: fr.raised }
  obtain ⟨c, hc⟩ := Sys.onRx_setChan n k (fun fr => { fr with raised := code :: fr.raised }) y
  unfold Sys.rxOnce
  rw [hfind]
  dsimp only
  rw [if_neg (by rw [hnew]; exact Bool.false_ne_true), Sys.raise_raised, hkept.now, hc]
  rfl

section

variable {n g : Nat} {leg : Leg} {p : VideoPkt} {y : Sys} (hup : y.portUp p.hdr.port = true) (hn : n < 64) (hone : y.activeChans = [n])
  (hcx : (y.chan n).cx = none) (honly : y.onlyChannels)
  (hhit : legsHit (y.cfg n) (Ob.IngPortA n) (y.cfgN n (Ob.IngLegMode n) = 1) p.hdr = [(g, leg)])

include hup hone hcx honly hhit

/-- A packet the channel merges in a way that leaves what it keeps alone. -/
theorem Sys.videoRx_merged {ks : List Nat} {z : Sys} (hpol : leg.pol = 0xFFFF) (hto : y.videoTo n p g = z) (hkept : y.RxKept n ks z)
    (hks : ∀ k ∈ ks, k < 0x300000) : y.videoRx p = z :=
  Sys.videoRx_one hone hcx hhit ((Sys.eachLeg_one hup hpol _).trans hto) (hkept.onlyChannels hks honly)

theorem Sys.videoRx_counted {k : Nat} (hpol : leg.pol = 0xFFFF) (hto : y.videoTo n p g = y.bump k 1) (hk : k < 0x300000) :
    y.videoRx p = y.bump k 1 :=
  Sys.videoRx_merged hup hone hcx honly hhit (ks := [k]) hpol hto ((Sys.RxKept.refl ..).bump (List.mem_singleton.mpr rfl))
    fun j hj => by rw [List.mem_singleton.mp hj]; exact hk

omit honly in
theorem Sys.videoRx_red (hpol : leg.pol ≠ 0xFFFF) (hmode : y.nat (Ob.PolMode leg.pol) = 1)
    (hlow : (y.polNow leg.pol).tp < (p.hdr.bytes * 65536 : Nat)) (honly : y.onlyChannels) :
    ∃ w, y.videoRx p = w ∧ w.chans = y.chans ∧
      w.nat (Ob.PolGreenPkts leg.pol + 2) = (y.nat (Ob.PolGreenPkts leg.pol + 2) + 1) % wrapOf y.part.dies (Ob.PolGreenPkts leg.pol + 2) ∧
      w.nat (Ob.PolGreenBytes leg.pol + 2) =
        (y.nat (Ob.PolGreenBytes leg.pol + 2) + p.hdr.bytes) % wrapOf y.part.dies (Ob.PolGreenBytes leg.pol + 2) := by
  obtain ⟨hdrop, q, hq⟩ := Sys.police_red hpol hmode hlow
  have hval : ∀ k, k % 32 < 3 → (y.redCounted leg p.hdr q).val k = y.val k := fun k hk => by
    unfold Sys.redCounted
    rw [Sys.bump_other _ _ _ _ (by simp only [Ob.PolGreenBytes]; omega), Sys.bump_other _ _ _ _ (by simp only [Ob.PolGreenPkts]; omega)]
    rfl
  have hkeep : (y.redCounted leg p.hdr q).onlyChannels := Sys.onlyChannels_congr honly rfl rfl fun k _ hk => hval k hk
  have hkeep' : ((y.redCounted leg p.hdr q).raise 0x1005 (leg.pol / 256) leg.pol).onlyChannels := Sys.onlyChannels_congr hkeep rfl rfl fun _ _ _ => rfl
  have hleg := Sys.eachLeg_dropped (g := g) hup hdrop (Sys.videoTo n p)
  rcases hq with h | h
  · exact ⟨_, Sys.videoRx_one hone hcx hhit (hleg.trans h) hkeep, rfl, y.redCounted_pkts .., y.redCounted_bytes ..⟩
  · exact ⟨_, Sys.videoRx_one hone hcx hhit (hleg.trans h) hkeep', rfl, (Sys.raise_nat_read ..).trans (y.redCounted_pkts ..),
      (Sys.raise_nat_read ..).trans (y.redCounted_bytes ..)⟩

end

/-! ### Sound (R94) -/

theorem Sys.RxKept.audSettle {n : Nat} {ks : List Nat} {y z : Sys} (h : y.RxKept n ks z) (f : Nat) : y.RxKept n ks (z.audSettle n f) := by
  unfold Sys.audSettle
  dsimp only
  split
  · exact h
  · exact h
  · split
    · exact h
    · split
      · exact h.setChan rfl
      · refine Sys.RxKept.rxOnce (Sys.RxKept.setChan h ?_) _ _
        rfl
      · exact h.setChan rfl

theorem Sys.RxKept.frameNow {n : Nat} {ks : List Nat} {y z : Sys} (h : y.RxKept n ks z) (old : Bool) : z.frameNow n old = y.frameNow n old := by
  have htb : ∀ b, z.tb b = y.tb b := fun b => congrArg (fun j : Jas => Tab.find (fun _ => ({} : Tb)) j.tbs b) h.jas
  unfold Sys.frameNow Sys.frameMap Sys.view
  rw [h.fig, h.now, htb]

theorem Sys.RxKept.portUp {n : Nat} {ks : List Nat} {y z : Sys} (h : y.RxKept n ks z) (p : Nat) : z.portUp p = y.portUp p :=
  congrArg (fun w : Net => (Tab.find (fun _ => ({} : Port)) w.ports p).st == 5) h.net

/-- Where one element of a list alone does something, that is all the list does. -/
theorem Sys.each_only {α : Type} {l : List α} {a : α} {f : α → Sys → Sys} {I : Sys → Prop} {y : Sys} (hnd : l.Nodup) (ha : a ∈ l)
    (hother : ∀ b ∈ l, b ≠ a → ∀ z, I z → f b z = z) (hy : I y) (hdone : I (f a y)) : y.each l f = f a y := by
  induction l with
  | nil => cases ha
  | cons b l ih =>
    obtain ⟨hb, hnd⟩ := List.nodup_cons.mp hnd
    rw [Sys.each_cons]
    by_cases hba : b = a
    · subst hba
      exact Sys.each_still fun c hc => hother c (List.mem_cons_of_mem b hc) (fun hcb => hb (hcb ▸ hc)) _ hdone
    · rw [hother b List.mem_cons_self hba y hy]
      exact ih hnd ((List.mem_cons.mp ha).resolve_left (Ne.symm hba)) fun c hc => hother c (List.mem_cons_of_mem b hc)

/-- The samples a flow has of a packet, by tick. -/
def audioNew (m : Int) (samples : List (List Int)) : List (Int × List Int) := samples.zipIdx.map fun s => (m + s.2, s.1)

theorem audioNew_find {m : Int} {samples : List (List Int)} {i : Nat} {x : List Int} (h : samples[i]? = some x) (old : List (Int × List Int)) :
    ((audioNew m samples).reverse ++ old).find? (fun e => e.1 == m + i) = some (m + i, x) := by
  have hmem : (m + (i : Int), x) ∈ (audioNew m samples).reverse :=
    List.mem_reverse.mpr (List.mem_map.mpr ⟨(x, i), List.mem_zipIdx_iff_getElem?.mpr h, rfl⟩)
  have hfound : ((audioNew m samples).reverse.find? fun e => e.1 == m + i).isSome = true :=
    List.find?_isSome.mpr ⟨_, hmem, beq_self_eq_true _⟩
  obtain ⟨e, he⟩ := Option.isSome_iff_exists.mp hfound
  obtain ⟨⟨v, j⟩, hv, hve⟩ := List.mem_map.mp (List.mem_reverse.mp (List.mem_of_find?_eq_some he))
  have hj : m + (j : Int) = m + i := (congrArg Prod.fst hve).trans (eq_of_beq (List.find?_some (p := fun e : Int × List Int => e.1 == m + i) he))
  have hji : j = i := by omega
  have hx : v = x := Option.some.inj ((List.mem_zipIdx_iff_getElem?.mp hv).symm.trans (by rw [hji]; exact h))
  rw [List.find?_append, he, ← hve, hji, hx]
  rfl

section

variable {n f : Nat} {p : AudioPkt} {hz : Nat} {m due : Int} {y z : Sys}

/-- A flow is due no packet beyond what its settings leave. -/
theorem Sys.audioTo_off (hhz : hz = z.audHz n f) (hm : m = mediaTick hz (z.frameNow n false) (p.rtpTs % 2 ^ 32))
    (hdue : due = tickTime hz (m + p.samples.length - 1) + nsU (z.cfgN n (Ob.IngAudOffset n f)))
    (hoff : z.frameNow n false < due - (z.fig n).skew ∨ due + usU 8 < z.frameNow n false) : z.audioTo n f p = z := by
  subst hhz hm hdue
  refine if_pos ?_
  rcases hoff with h | h
  · rw [decide_eq_true h, Bool.or_true, Bool.true_or]
  · rw [decide_eq_true h, Bool.or_true]

/-- The samples of a packet on time stand at their ticks. -/
theorem Sys.audioTo_stores (hhz : hz = z.audHz n f) (hm : m = mediaTick hz (z.frameNow n false) (p.rtpTs % 2 ^ 32))
    (hdue : due = tickTime hz (m + p.samples.length - 1) + nsU (z.cfgN n (Ob.IngAudOffset n f))) (hsome : p.samples ≠ [])
    (hlo : due - (z.fig n).skew ≤ z.frameNow n false) (hhi : z.frameNow n false ≤ due + usU 8) :
    ∃ old, z.audioTo n f p =
      z.onChan n fun c => { c with audioGot := Tab.put (fun _ => []) c.audioGot f ((audioNew m p.samples).reverse ++ old) } := by
  subst hhz hm hdue
  refine ⟨_, if_neg ?_⟩
  rw [List.isEmpty_eq_false_iff.mpr hsome, decide_eq_false (not_lt.mpr hlo), decide_eq_false (not_lt.mpr hhi)]
  decide

/-- A packet of a leg of the one flow of the one channel. -/
theorem Sys.audioRx_one {g : Nat} {leg : Leg} (hup : y.portUp p.hdr.port = true) (hone : y.activeChans = [n]) (hf : f < 4)
    (hmode : y.cfgN n (Ob.IngAudMode n f) ≠ 0) (hothers : ∀ j < 4, j ≠ f → y.cfgN n (Ob.IngAudMode n j) = 0)
    (hhit : legsHit (y.cfg n) (Ob.IngAudPortA n f) (y.cfgN n (Ob.IngAudMode n f) = 2) p.hdr = [(g, leg)]) (hpol : leg.pol = 0xFFFF)
    {w : Sys} (hto : (y.audSettle n f).audioTo n f p = w) (hkept : y.RxKept n [] w) : y.audioRx p = w := by
  have hsettled := (Sys.RxKept.refl n [] y).audSettle f
  have hstep : (fun f (y : Sys) => if y.cfgN n (Ob.IngAudMode n f) = 0 then y
      else (y.audSettle n f).eachLeg (legsHit (y.cfg n) (Ob.IngAudPortA n f) (y.cfgN n (Ob.IngAudMode n f) = 2) p.hdr) p.hdr
        fun _ y => y.audioTo n f p) f y = w := by
    refine (if_neg hmode).trans ?_
    rw [hhit]
    exact (Sys.eachLeg_one ((hsettled.portUp _).trans hup) hpol _).trans hto
  unfold Sys.audioRx
  rw [hone, Sys.each_cons, Sys.each_nil]
  refine (Sys.each_only (I := fun v => v.cfg n = y.cfg n) List.nodup_range (List.mem_range.mpr hf) (fun j hj hjf v hv => if_pos ?_) rfl ?_).trans hstep
  · exact (congrArg (fun g : Nat → Val => (g (Ob.IngAudMode n j)).nat) hv).trans (hothers j (List.mem_range.mp hj) hjf)
  · exact (congrArg (·.cfg n) hstep).trans hkept.cfg

end


section

variable {n g : Nat} {leg : Leg} {p : VideoPkt} {y : Sys} {cd : Cand} {fr : Frame} (hup : y.portUp p.hdr.port = true)
  (hone : y.activeChans = [n]) (hcx : (y.chan n).cx = none) (honly : y.onlyChannels)
  (hhit : legsHit (y.cfg n) (Ob.IngPortA n) (y.cfgN n (Ob.IngLegMode n) = 1) p.hdr = [(g, leg)]) (hn : n < 64) (hpol : leg.pol = 0xFFFF)
  (hsome : p.segs ≠ []) (hform : (p.segs.all fun x => segOk (y.fig n) 0 (y.cfgN n (Ob.IngDepth n)) x) = true)
  (hjudge : judge (y.chCands n p) = some (cd, 0)) (hfind : (y.chan n).frames.find? (fun fr => fr.k == cd.k) = some fr)

include hup hone hcx honly hn hpol hsome hform hjudge hfind

/-- A new packet of leg A goes into its frame. -/
theorem Sys.videoRx_taken (hhit : legsHit (y.cfg n) (Ob.IngPortA n) (y.cfgN n (Ob.IngLegMode n) = 1) p.hdr = [(0, leg)])
    (hts : fr.ts = some (p.rtpTs % 2 ^ 32)) (hnew : ((y.chan n).usedNear cd.k).contains (seq32 p) = false) :
    ∃ w gr, y.videoRx p = w ∧ (w.chan n).frames.find? (fun fr => fr.k == cd.k) = some gr ∧
      gr.used = (seq32 p, firstRow p.segs) :: fr.used ∧ gr.legA = fr.legA + 1 ∧
      (∀ x ∈ p.segs, x ∈ (gr.row (x.line / 64)).segs) ∧ (∀ r, ∀ x ∈ (fr.row r).segs, x ∈ (gr.row r).segs) ∧
      w.nat (Ob.IngPktA n) = (y.nat (Ob.IngPktA n) + 1) % wrapOf y.part.dies (Ob.IngPktA n) ∧
      ∀ k, k ≠ Ob.IngPktA n → w.val k = y.val k := by
  have hto := Sys.videoTo_onTime (leg := 0) hsome hform hjudge hfind hts rfl
  rw [if_neg (by rw [hnew]; exact Bool.false_ne_true), if_pos rfl] at hto
  have hcount : y.RxKept n [Ob.IngPktA n] ((y.bump (Ob.IngPktA n) 1).onFrame n cd.k (Frame.legCounted 0)) :=
    ((Sys.RxKept.refl ..).bump (List.mem_singleton.mpr rfl)).onFrame ..
  have hkept := hcount.onFrame cd.k (Frame.took p)
  have hgr := Sys.onFrame_find (Frame.took_k p) (Sys.onFrame_find (y := y.bump (Ob.IngPktA n) 1) (Frame.legCounted_k 0) hfind)
  refine ⟨_, _, Sys.videoRx_merged hup hone hcx honly hhit hpol hto hkept fun k hk => ?_, hgr, rfl, Frame.took_legA .., fun x hx =>
    Frame.place_mem hx, fun r x hx => Frame.place_keeps hx, y.bump_nat (Ob.IngPktA n) 1, fun k hk => hkept.val k ?_⟩
  · rw [List.mem_singleton.mp hk, Ob.IngPktA]
    omega
  · rw [List.mem_singleton]
    exact hk

/-- A repeat on leg B is counted. -/
theorem Sys.videoRx_again (hhit : legsHit (y.cfg n) (Ob.IngPortA n) (y.cfgN n (Ob.IngLegMode n) = 1) p.hdr = [(1, leg)])
    (hts : fr.ts = some (p.rtpTs % 2 ^ 32)) (hused : ((y.chan n).usedNear cd.k).contains (seq32 p) = true) :
    ∃ w gr, y.videoRx p = w ∧ (w.chan n).frames.find? (fun fr => fr.k == cd.k) = some gr ∧ gr = { fr with legB := fr.legB + 1 } ∧
      w.nat (Ob.IngPktB n) = (y.nat (Ob.IngPktB n) + 1) % wrapOf y.part.dies (Ob.IngPktB n) ∧
      w.nat (Ob.IngDupCount n) = (y.nat (Ob.IngDupCount n) + 1) % wrapOf y.part.dies (Ob.IngDupCount n) := by
  have hto := Sys.videoTo_onTime (leg := 1) hsome hform hjudge hfind hts rfl
  rw [if_pos hused, if_neg Nat.one_ne_zero] at hto
  have hcount : y.RxKept n [Ob.IngPktB n, Ob.IngDupCount n] ((y.bump (Ob.IngPktB n) 1).onFrame n cd.k (Frame.legCounted 1)) :=
    ((Sys.RxKept.refl ..).bump List.mem_cons_self).onFrame ..
  have hkept := hcount.bump (k := Ob.IngDupCount n) (m := 1) (List.mem_cons_of_mem _ (List.mem_singleton.mpr rfl))
  have hgr := Sys.onFrame_find (y := y.bump (Ob.IngPktB n) 1) (Frame.legCounted_k 1) hfind
  have hB : Ob.IngPktB n ≠ Ob.IngDupCount n := by simp only [Ob.IngPktB, Ob.IngDupCount]; omega
  have hbump : (y.bump (Ob.IngPktB n) 1).nat (Ob.IngDupCount n) = y.nat (Ob.IngDupCount n) := congrArg Val.nat (Sys.bump_other _ _ _ _ hB.symm)
  refine ⟨_, _, Sys.videoRx_merged hup hone hcx honly hhit hpol hto hkept fun k hk => ?_, hgr, rfl, ?_, ?_⟩
  · rcases List.mem_cons.mp hk with rfl | hk
    · rw [Ob.IngPktB]; omega
    · rw [List.mem_singleton.mp hk, Ob.IngDupCount]; omega
  · exact (congrArg Val.nat (Sys.bump_other _ _ _ _ hB)).trans (y.bump_nat (Ob.IngPktB n) 1)
  · refine (Sys.bump_nat ..).trans ?_
    rw [← hbump]
    rfl

include hhit

/-- A packet of another time stamp than its frame's is counted and reported. -/
theorem Sys.videoRx_mismatch {ts : Nat} (hts : fr.ts = some ts) (hne : ts ≠ p.rtpTs % 2 ^ 32)
    (hrec : (y.chan n).received.find? (fun fr => fr.k == cd.k) = some fr) (hquiet : fr.raised.contains 0x0906 = false) :
    ∃ w, y.videoRx p = w ∧
      w.nat (Ob.IngTsMismatchCount n) = (y.nat (Ob.IngTsMismatchCount n) + 1) % wrapOf y.part.dies (Ob.IngTsMismatchCount n) ∧
      (∀ k, k ≠ Ob.IngTsMismatchCount n → w.val k = y.val k) ∧
      w.evs.raised = y.evs.raised ++ [{ code := 0x0906, die := y.ingDie n, arg := n, t := y.now }] := by
  have hto := Sys.videoTo_mismatch (leg := g) hsome hform hjudge hfind hts hne
  have hkept := ((Sys.RxKept.refl n [Ob.IngTsMismatchCount n] y).bump (m := 1) (List.mem_singleton.mpr rfl)).rxOnce cd.k 0x0906
  refine ⟨_, Sys.videoRx_merged hup hone hcx honly hhit hpol hto hkept fun k hk => ?_, ?_, fun k hk => hkept.val k ?_, ?_⟩
  · rw [List.mem_singleton.mp hk, Ob.IngTsMismatchCount]
    omega
  · rw [((Sys.RxKept.refl n [] _).rxOnce _ _).nat List.not_mem_nil, Sys.bump_nat]
  · rw [List.mem_singleton]
    exact hk
  · exact Sys.rxOnce_raises (y := y.bump (Ob.IngTsMismatchCount n) 1) hrec hquiet

end

/-! ### Ancillary data (R95) -/

section

variable {n : Nat} {p : AncPkt} {y : Sys}

theorem Sys.ancRx_one {g : Nat} {leg : Leg} (hup : y.portUp p.hdr.port = true) (hone : y.activeChans = [n]) (hmode : y.cfgN n (Ob.IngAncMode n) ≠ 0)
    (hhit : legsHit (y.cfg n) (Ob.IngAncPortA n) (y.cfgN n (Ob.IngAncMode n) = 2) p.hdr = [(g, leg)]) (hpol : leg.pol = 0xFFFF) :
    y.ancRx p = y.ancTo n p := by
  unfold Sys.ancRx
  rw [hone, Sys.each_cons, Sys.each_nil]
  refine (if_neg hmode).trans ?_
  rw [hhit]
  exact Sys.eachLeg_one hup hpol _

theorem Sys.ancTo_repeat {t : Nat} (hused : (t, p.seq) ∈ (y.chan n).ancUsed) (hkeep : y.now < t + 2 * (y.fig n).period_) : y.ancTo n p = y := by
  refine if_pos (List.any_eq_true.mpr ⟨(t, p.seq), hused, ?_⟩)
  rw [beq_self_eq_true, Bool.true_and]
  exact decide_eq_true hkeep

/-- The state behind noting a packet's sequence number. -/
def Sys.ancNoted (n : Nat) (p : AncPkt) (y : Sys) : Sys :=
  y.setChan n { y.chan n with ancUsed := [(y.now, p.seq)]
                              ancWait := (y.chan n).ancWait.filter fun w => decide (y.now < w.1 + 2 * (y.fig n).period_) }

theorem Sys.ancNoted_kept (n : Nat) (p : AncPkt) (y : Sys) : y.RxKept n [] (y.ancNoted n p) := (Sys.RxKept.refl n [] y).setChan rfl

theorem Sys.ancNoted_frames (n : Nat) (p : AncPkt) (y : Sys) : ((y.ancNoted n p).chan n).frames = (y.chan n).frames := by
  rw [Sys.ancNoted, Sys.setChan_self]

theorem Sys.ancNoted_received (n : Nat) (p : AncPkt) (y : Sys) : ((y.ancNoted n p).chan n).received = (y.chan n).received := by
  rw [Sys.ancNoted, Sys.setChan_self]
  rfl

theorem Sys.ancNoted_late (n : Nat) (p : AncPkt) (y : Sys) : ((y.ancNoted n p).chan n).ancLate = (y.chan n).ancLate := by
  rw [Sys.ancNoted, Sys.setChan_self]

theorem Sys.ancNoted_over (n : Nat) (p : AncPkt) (y : Sys) (ts : Nat) : ((y.ancNoted n p).chan n).tsOver ts = (y.chan n).tsOver ts := by
  rw [Sys.ancNoted, Sys.setChan_self]
  rfl

/-- An item of a packet of a time stamp that a channel keeps. -/
def Sys.ancItem (n ts : Nat) (a : AncData) (y : Sys) : Sys :=
  match (y.chan n).received.find? fun fr => fr.ts == some ts with
  | some fr => y.ancJoin n fr a
  | none => if (y.chan n).tsOver ts then y.ancGone n else y.onChan n fun c => { c with ancWait := c.ancWait ++ [(y.now, ts, a)] }

/-- A first packet with one item. -/
theorem Sys.ancTo_first {a : AncData} (hfirst : (y.chan n).ancUsed = []) (hanc : p.anc = [a]) (hkeep : y.ancKept n a = true) :
    y.ancTo n p = (y.ancNoted n p).ancItem n (p.rtpTs % 2 ^ 32) a := by
  have hkept : (y.ancNoted n p).ancKept n a = true := by
    unfold Sys.ancKept
    simp only [(y.ancNoted_kept n p).cfgN]
    exact hkeep
  have hlist : p.anc.filter ((y.ancNoted n p).ancKept n) = [a] := by rw [hanc, List.filter_cons_of_pos hkept]; rfl
  have hnoted : y.setChan n { y.chan n with
      ancUsed := (y.now, p.seq) :: (y.chan n).ancUsed.filter (fun u => decide (y.now < u.1 + 2 * (y.fig n).period_))
      ancWait := (y.chan n).ancWait.filter fun w => decide (y.now < w.1 + 2 * (y.fig n).period_) } = y.ancNoted n p := by
    rw [hfirst]
    rfl
  have hnew : ¬((y.chan n).ancUsed.any fun u => u.2 == p.seq && decide (y.now < u.1 + 2 * (y.fig n).period_)) = true := by
    rw [hfirst]
    exact Bool.false_ne_true
  unfold Sys.ancTo
  dsimp only
  rw [if_neg hnew, hnoted, hlist, Sys.each_cons, Sys.each_nil]
  rfl

end

section

variable {n ts : Nat} {a : AncData} {y : Sys}

theorem Sys.ancItem_waits (hnone : ∀ fr ∈ (y.chan n).received, fr.ts ≠ some ts) (hopen : (y.chan n).tsOver ts = false) :
    y.ancItem n ts a = y.onChan n fun c => { c with ancWait := c.ancWait ++ [(y.now, ts, a)] } := by
  have hfind : ((y.chan n).received.find? fun fr => fr.ts == some ts) = none :=
    List.find?_eq_none.mpr fun fr hfr heq => hnone fr hfr (eq_of_beq heq)
  unfold Sys.ancItem
  rw [hfind]
  exact if_neg (by rw [hopen]; exact Bool.false_ne_true)

theorem Sys.ancItem_gone (hnone : ∀ fr ∈ (y.chan n).received, fr.ts ≠ some ts) (hover : (y.chan n).tsOver ts = true) :
    y.ancItem n ts a = y.ancGone n := by
  have hfind : ((y.chan n).received.find? fun fr => fr.ts == some ts) = none :=
    List.find?_eq_none.mpr fun fr hfr heq => hnone fr hfr (eq_of_beq heq)
  unfold Sys.ancItem
  rw [hfind]
  exact if_pos hover

theorem Sys.ancItem_joins {fr : Frame} (hfind : (y.chan n).frames.find? (fun fr => fr.ts == some ts) = some fr) :
    y.ancItem n ts a = y.ancJoin n fr a := by
  unfold Sys.ancItem
  rw [Chan.received_find hfind]

theorem Sys.rxOnce_ancLate (m : Nat) (k : Int) (code : Nat) : ((y.rxOnce m k code).chan m).ancLate = (y.chan m).ancLate := by
  unfold Sys.rxOnce Sys.onRx
  dsimp only
  split
  · split
    · rfl
    · rw [Sys.raise_chan_read]
      split
      · exact (congrArg Chan.ancLate (Sys.onChan_self ..)).trans rfl
      · split
        · rw [Sys.setChan_self]
        · rw [Sys.setChan_self]
  · rfl

/-- One item more is late (R95). -/
def Sys.ancTooLate (n : Nat) (y : Sys) : Sys := y.onChan n fun c => { c with ancLate := c.ancLate + 1 }

theorem Sys.ancTooLate_late : ((y.ancTooLate n).chan n).ancLate = (y.chan n).ancLate + 1 := congrArg Chan.ancLate (Sys.onChan_self ..)

theorem Sys.ancTooLate_frames : ((y.ancTooLate n).chan n).frames = (y.chan n).frames :=
  (congrArg Chan.frames (Sys.onChan_self ..)).trans rfl

theorem Sys.ancGone_late : ((y.ancGone n).chan n).ancLate = (y.chan n).ancLate + 1 := by
  have hlate := Sys.ancTooLate_late (n := n) (y := y)
  unfold Sys.ancGone
  rw [show (y.onChan n fun c => { c with ancLate := c.ancLate + 1 }) = y.ancTooLate n from rfl]
  dsimp only
  split
  · rw [Sys.rxOnce_ancLate, hlate]
  · exact hlate

theorem Sys.ancGone_live : (y.ancGone n).live = y.live := by
  unfold Sys.ancGone
  dsimp only
  split
  · rw [Sys.rxOnce_live]
    rfl
  · rfl

theorem Sys.ancJoin_open {fr : Frame} (h : fr.settledRows = 0) : y.ancJoin n fr a = y.onRx n fr.k fun fr => { fr with anc := fr.anc ++ [a] } :=
  if_neg (by rw [h]; decide)

theorem Sys.ancJoin_settled {fr : Frame} (h : 0 < fr.settledRows) : y.ancJoin n fr a = (y.ancTooLate n).rxOnce n fr.k 0x0908 := if_pos h

end

/-- Settles O48: a video packet of each judgement, an audio packet on time and out of time, and an ancillary packet. -/
theorem packetsMerge : Obligations.PacketsMerge := by
  unfold Obligations.PacketsMerge
  refine ⟨fun dt n g leg p y s hy hup hn hone hcx hlayers hlocked hhit => ?video,
    fun dt n f g leg p hz m due y z s hy hup hone hf hmode hothers hset hhit hpol hhz hm hdue => ?audio,
    fun dt n g leg p a y s hy hup hone hmode hhit hpol => ?anc⟩
  case video =>
    have honly : y.onlyChannels := ⟨hlayers, hlocked⟩
    refine ⟨fun hpol hbad => ?malformed, fun cd hpol hsome hform => ⟨fun hj => ?early, fun hj => ?late, fun fr hj hfind =>
      ⟨fun hts hnew hg => ?taken, fun hts hused hg => ?again, fun ts hts hne hrec hquiet => ?mismatch⟩⟩, fun hpol hmode haware hlow => ?red⟩
    case malformed =>
      exact act_done ((congrArg _ hy.symm).trans (Sys.videoRx_counted hup hone hcx honly hhit hpol (Sys.videoTo_malformed hbad)
        (by simp only [Ob.IngMalformedCount]; omega)))
    case early =>
      exact act_done ((congrArg _ hy.symm).trans (Sys.videoRx_counted hup hone hcx honly hhit hpol (Sys.videoTo_early hsome hform hj)
        (by simp only [Ob.IngEarlyCount]; omega)))
    case late =>
      exact act_done ((congrArg _ hy.symm).trans (Sys.videoRx_counted hup hone hcx honly hhit hpol (Sys.videoTo_late hsome hform hj)
        (by simp only [Ob.IngLateCount]; omega)))
    case taken =>
      subst hg
      obtain ⟨w, gr, hw, hrest⟩ := Sys.videoRx_taken hup hone hcx honly hn hpol hsome hform hj hfind hhit hts hnew
      exact ⟨w, gr, act_done ((congrArg _ hy.symm).trans hw), hrest⟩
    case again =>
      subst hg
      obtain ⟨w, gr, hw, hrest⟩ := Sys.videoRx_again hup hone hcx honly hn hpol hsome hform hj hfind hhit hts hused
      exact ⟨w, gr, act_done ((congrArg _ hy.symm).trans hw), hrest⟩
    case mismatch =>
      obtain ⟨w, hw, hrest⟩ := Sys.videoRx_mismatch hup hone hcx honly hhit hn hpol hsome hform hj hfind hts hne hrec hquiet
      exact ⟨w, act_done ((congrArg _ hy.symm).trans hw), hrest⟩
    case red =>
      obtain ⟨w, hw, hrest⟩ := Sys.videoRx_red hup hone hcx hhit hpol hmode hlow honly
      exact ⟨w, act_done ((congrArg _ hy.symm).trans hw), hrest⟩
  case audio =>
    have hkept : y.RxKept n [] z := by
      rw [hset]
      exact (Sys.RxKept.refl n [] y).audSettle f
    have hnow := hkept.frameNow false
    have hhz' : hz = z.audHz n f := hhz.trans (congrArg (· * 1000) (hkept.cfgN _)).symm
    have hm' : m = mediaTick hz (z.frameNow n false) (p.rtpTs % 2 ^ 32) := by rw [hnow]; exact hm
    have hdue' : due = tickTime hz (m + p.samples.length - 1) + nsU (z.cfgN n (Ob.IngAudOffset n f)) := by rw [hkept.cfgN]; exact hdue
    have hrx : ∀ {w : Sys}, z.audioTo n f p = w → y.RxKept n [] w → y.audioRx p = w := fun hto hw =>
      Sys.audioRx_one hup hone hf hmode hothers hhit hpol (by rw [← hset]; exact hto) hw
    refine ⟨fun hsome hlo hhi => ?stored, fun hoff => ?off⟩
    case stored =>
      obtain ⟨old, hold⟩ := Sys.audioTo_stores hhz' hm' hdue' hsome (by rw [hnow, hkept.fig]; exact hlo) (by rw [hnow]; exact hhi)
      refine ⟨_, act_done ((congrArg _ hy.symm).trans (hrx hold (hkept.setChan rfl))), rfl, rfl, fun i x hi => ?_⟩
      rw [Sys.onChan_self, Tab.find_put_self]
      exact audioNew_find hi old
    case off =>
      exact act_done ((congrArg _ hy.symm).trans (hrx (Sys.audioTo_off hhz' hm' hdue' (by rw [hnow, hkept.fig]; exact hoff)) hkept))
  case anc =>
    have hrx := Sys.ancRx_one hup hone hmode hhit hpol
    refine ⟨fun ⟨t, hused, hkeep⟩ => act_done ((congrArg _ hy.symm).trans (hrx.trans (Sys.ancTo_repeat hused hkeep))), fun hfirst hanc hkeep => ?_⟩
    have hitem := hrx.trans (Sys.ancTo_first hfirst hanc hkeep)
    refine ⟨fun hnone => ⟨fun hopen => ?waits, fun hgone => ?gone⟩, fun fr hfind => ⟨fun hopen => ?joins, fun hsettled => ?settled⟩⟩
    case waits =>
      rw [Sys.ancItem_waits (by rw [Sys.ancNoted_received]; exact hnone) (by rw [Sys.ancNoted_over]; exact hopen)] at hitem
      refine ⟨_, act_done ((congrArg _ hy.symm).trans hitem), ?_, rfl, rfl⟩
      rw [Sys.onChan_self]
      exact List.mem_append_right _ (List.mem_singleton.mpr rfl)
    case gone =>
      rw [Sys.ancItem_gone (by rw [Sys.ancNoted_received]; exact hnone) (by rw [Sys.ancNoted_over]; exact hgone)] at hitem
      refine ⟨_, act_done ((congrArg _ hy.symm).trans hitem), ?_, ?_⟩
      · rw [Sys.ancGone_late, Sys.ancNoted_late]
      · rw [Sys.ancGone_live]
        rfl
    case joins =>
      rw [Sys.ancItem_joins (by rw [Sys.ancNoted_frames]; exact hfind), Sys.ancJoin_open hopen] at hitem
      have hmem : fr ∈ ((y.ancNoted n p).chan n).frames := by
        rw [Sys.ancNoted_frames]
        exact List.mem_of_find?_eq_some hfind
      rw [Sys.onRx_of_mem hmem rfl] at hitem
      refine ⟨_, act_done ((congrArg _ hy.symm).trans hitem), rfl, rfl, { fr with anc := fr.anc ++ [a] }, ?_, rfl, rfl⟩
      rw [Sys.onFrame_frames]
      exact List.mem_map.mpr ⟨fr, hmem, if_pos rfl⟩
    case settled =>
      rw [Sys.ancItem_joins (by rw [Sys.ancNoted_frames]; exact hfind), Sys.ancJoin_settled hsettled] at hitem
      refine ⟨_, act_done ((congrArg _ hy.symm).trans hitem), ?_, fun gr hgr _ => ?_⟩
      · rw [Sys.rxOnce_ancLate, Sys.ancTooLate_late, Sys.ancNoted_late]
      · obtain ⟨h, hh, heq⟩ := List.mem_of_map_eq (Sys.rxOnce_frames ..).symm hgr
        rw [Sys.ancTooLate_frames, Sys.ancNoted_frames] at hh
        exact ⟨h, hh, (Frame.anc_of_unraised heq).symm⟩


end Sys2Proof.Machine

/-! PROOFS. Frame boundaries of channels (02, 04, 05; R46, R117 to R121, R136, R163): the frame that begins. -/

namespace Sys2Proof.Machine

/-! ### What a boundary reads of a channel -/

/-- A channel but for its frames, its state and its first boundary. -/
def Chan.atBoundary (c : Chan) : Chan := { c with frames := [], tsGone := none, run := 0, firstBoundary := none }

/-- `v` is `y` but for the frames, the state and the first boundary of channel `n`. -/
def Sys.FramesOf (n : Nat) (y v : Sys) : Prop := ∃ cs, v = { y with chans := cs } ∧ (v.chan n).atBoundary = (y.chan n).atBoundary

namespace Sys.FramesOf

variable {n : Nat} {y v : Sys}

theorem chan (h : y.FramesOf n v) : (v.chan n).atBoundary = (y.chan n).atBoundary := by
  obtain ⟨_, _, hc⟩ := h
  exact hc

theorem trans {w : Sys} (h : y.FramesOf n v) (h' : v.FramesOf n w) : y.FramesOf n w := by
  obtain ⟨c, rfl, hc⟩ := h
  obtain ⟨c', rfl, hc'⟩ := h'
  exact ⟨c', rfl, hc'.trans hc⟩

theorem live (h : y.FramesOf n v) : v.live = y.live := by
  obtain ⟨c, rfl, _⟩ := h
  rfl

theorem evs (h : y.FramesOf n v) : v.evs = y.evs := by
  obtain ⟨c, rfl, _⟩ := h
  rfl

theorem now (h : y.FramesOf n v) : v.now = y.now := by
  obtain ⟨c, rfl, _⟩ := h
  rfl

theorem part (h : y.FramesOf n v) : v.part = y.part := by
  obtain ⟨c, rfl, _⟩ := h
  rfl

theorem pend (h : y.FramesOf n v) : v.pend = y.pend := by
  obtain ⟨c, rfl, _⟩ := h
  rfl

theorem nat (h : y.FramesOf n v) (k : Nat) : v.nat k = y.nat k := by
  obtain ⟨c, rfl, _⟩ := h
  rfl

theorem fig (h : y.FramesOf n v) : v.fig n = y.fig n := by
  have hcfg : (v.chan n).cfg = (y.chan n).cfg := congrArg (·.cfg) h.chan
  unfold Sys.fig
  refine congrArg (figOf · n) (funext fun k => ?_)
  unfold Sys.cfg
  rw [hcfg, h.part]

theorem unserved (h : y.FramesOf n v) : v.unserved n = y.unserved n := by
  have hpipes : (v.chan n).pipes = (y.chan n).pipes := congrArg (·.pipes) h.chan
  obtain ⟨c, rfl, _⟩ := h
  unfold Sys.unserved
  rw [hpipes]
  rfl

theorem needsRepair (h : y.FramesOf n v) : v.needsRepair n = y.needsRepair n := by
  have hpipes : (v.chan n).pipes = (y.chan n).pipes := congrArg (·.pipes) h.chan
  have hdie : (v.chan n).die = (y.chan n).die := congrArg (·.die) h.chan
  unfold Sys.needsRepair
  dsimp only
  rw [h.unserved, h.fig, hpipes, hdie]
  obtain ⟨c, rfl, _⟩ := h
  rfl

end Sys.FramesOf

theorem Sys.pruneFrames_framesOf (n : Nat) (y : Sys) : y.FramesOf n (y.pruneFrames n) :=
  ⟨_, rfl, (congrArg Chan.atBoundary (Sys.onChan_self ..)).trans rfl⟩

theorem Sys.endSequence_framesOf (n : Nat) (y : Sys) : y.FramesOf n (y.endSequence n) :=
  ⟨_, rfl, (congrArg Chan.atBoundary (Sys.onChan_self ..)).trans rfl⟩

/-! ### Boundaries that begin no frame (R46) -/

theorem Sys.frameBoundary_idle {x y : Sys} {n : Nat} (hy : y = x.finishStops)
    (hidle : atOrAfter (y.frameNow n false) ((y.fig n).boundary (y.chan n).nextK) = false ∨ (y.chan n).run = 0 ∨
      ∃ e, (y.chan n).stopK = some e ∧ e ≤ (y.chan n).nextK) : x.frameBoundary n = y := by
  subst hy
  refine if_pos ?_
  rcases hidle with h | h | ⟨e, he, hle⟩
  · rw [h, Bool.not_false, Bool.or_true, Bool.true_or]
  · rw [h, beq_self_eq_true, Bool.true_or, Bool.true_or, Bool.true_or]
  · rw [he]
    dsimp only
    rw [decide_eq_true hle, Bool.or_true, Bool.true_or, Bool.true_or]

section

variable {y : Sys} {n : Nat} {k : Int} (hmove : (y.chan n).move = none) (hold : (y.chan n).oldDies = [])

theorem Sys.handoversAt_none (h : (y.chan n).handover = []) : y.handoversAt n k = y := by
  refine if_pos ?_
  rw [h]
  rfl

include hmove in
theorem Sys.makeMove_none : y.makeMove n k = y := by
  unfold Sys.makeMove
  dsimp only
  rw [hmove]

include hmove in
theorem Sys.holdForMove_none : y.holdForMove n = y := by
  unfold Sys.holdForMove
  dsimp only
  rw [hmove]

include hold in
theorem Sys.freeOld_none : y.freeOld n = y := if_neg fun h => h.1 hold

theorem Sys.resumeAt_served (h : y.unserved n = false) : y.resumeAt n k = y :=
  if_neg fun hc => absurd hc.1 (by rw [h]; exact Bool.false_ne_true)

include hmove hold in
/-- A channel in service is left as it is. -/
theorem Sys.repairAt_none (hserved : y.unserved n = false) (hfit : y.needsRepair n = false) (hthaw : (y.chan n).frozen = false) :
    y.repairAt n k = y := by
  unfold Sys.repairAt
  rw [Sys.makeMove_none hmove, Sys.freeOld_none hold, Sys.resumeAt_served hserved]
  dsimp only
  rw [if_neg (fun h : y.unserved n = true ∧ ¬(y.chan n).frozen = true => absurd h.1 (by rw [hserved]; exact Bool.false_ne_true)),
    if_neg (fun h : (y.chan n).frozen = true ∧ ¬y.unserved n = true => absurd h.1 (by rw [hthaw]; exact Bool.false_ne_true))]
  exact if_neg fun h => absurd h.1 (by rw [hfit]; exact Bool.false_ne_true)

end

/-! ### The frame that begins (R117 to R121, R136) -/

/-- The picture of a refresh cycle behind the first frame (R117, R118). -/
theorem picPlan_cycle {f : Fig} {c : Chan} (restart : Bool) (hthaw : c.frozen = false) (hmode : f.mode = 1) (hlater : c.frameNo ≠ 0)
    (hpoc : c.poc + 1 < 2 ^ 30) : (picPlan f c restart).band = f.bandAt (if restart then 0 else c.cyclePos) ∧
      (picPlan f c restart).poc = c.poc + 1 ∧ (picPlan f c restart).restart = restart ∧
      (picPlan f c restart).cyclePos = ((if restart then 0 else c.cyclePos) + 1) % max 1 f.cycle := by
  have hfirst : (c.frameNo == 0) = false := beq_false_of_ne hlater
  have hwrap : decide (2 ^ 30 ≤ c.poc + 1) = false := decide_eq_false (not_le.mpr hpoc)
  unfold picPlan
  simp only [hfirst, hthaw, hmode, hwrap, Bool.false_eq_true, if_false, false_and, Bool.and_false, Bool.not_false, Bool.or_false, Bool.and_true,
    if_neg (show ¬(1 : Nat) = 3 by decide), and_self]

theorem newFrame_k (f : Fig) (c : Chan) (k : Int) (p : PicPlan) : (newFrame f c k p).k = k := by
  show ((c.early.find? fun fr => fr.k == k).getD { k := k, boundary := 0, origin := 0 }).k = k
  cases h : c.early.find? fun fr => fr.k == k with
  | none => rfl
  | some fr => exact eq_of_beq (List.find?_some (p := fun fr : Frame => fr.k == k) h)

/-- A refresh restart is counted and raised (R121). -/
def Sys.cycleRestarted (n die : Nat) (y : Sys) : Sys := (y.bump (Ob.EncRefreshRestarts n) 1).raise 0x0A04 die n

/-- A channel that started is running (R471). -/
def Sys.runs (n : Nat) (b : Int) (die : Nat) (y : Sys) : Sys :=
  (y.onChan n fun c => { c with run := 2, firstBoundary := some b }).raise 0x1105 die n

/-- A channel behind the frame that begins. -/
def Chan.framed (f : Fig) (k : Int) (p : PicPlan) (c : Chan) : Chan :=
  { c with frames := c.frames ++ [newFrame f c k p], early := c.early.filter (fun (fr : Frame) => fr.k != k), frameNo := c.frameNo + 1, nextK := k + 1,
           poc := p.poc, cyclePos := p.cyclePos, intraPos := p.intraPos, restarts := c.restarts.filter fun t => !atOrAfter (f.boundary k) t,
           discontNext := false }

theorem Sys.beginFrame_stages {y v v' v'' : Sys} {n : Nat} {k : Int} {f : Fig} {c : Chan} {p : PicPlan} (hf : f = y.fig n) (hc : c = y.chan n)
    (hp : p = picPlan f c (c.restartDue (f.boundary k))) (hv : v = (y.endSequence n).rateAt n k p)
    (hv' : v' = if p.restart then v.cycleRestarted n c.die else v)
    (hv'' : v'' = if c.run = 1 then v'.runs n (f.boundary k) c.die else v') (hmove : (v''.chan n).move = none) :
    y.beginFrame n k = v''.onChan n (Chan.framed f k p) := by
  have hdone : y.beginFrame n k = (v''.onChan n (Chan.framed f k p)).holdForMove n := by
    subst hv'' hv' hv hp hc hf
    rfl
  rw [hdone]
  exact Sys.holdForMove_none (by rw [Sys.onChan_self]; exact hmove)

/-- The state of a channel behind its boundary, which is begun at `v`. -/
theorem Sys.framed_chan (v : Sys) (n : Nat) (f : Fig) (k : Int) (p : PicPlan) :
    (v.onChan n (Chan.framed f k p)).chan n = (v.chan n).framed f k p := Sys.onChan_self ..

theorem Chan.framed_last (f : Fig) (k : Int) (p : PicPlan) (c : Chan) : (c.framed f k p).frames.getLast? = some (newFrame f c k p) :=
  List.getLast?_concat ..

/-! ### Starting and restarting -/

section

variable {v : Sys} {n die : Nat} {b : Int} {c : Chan}

/-- A channel that starts runs, any other goes on. -/
theorem Sys.started_chan (hrun : c.run = 1 ∨ c.run = 2) (hv : (v.chan n).run = c.run) :
    ((if c.run = 1 then v.runs n b die else v).chan n).run = 2 ∧
      ((if c.run = 1 then v.runs n b die else v).chan n).atBoundary = (v.chan n).atBoundary := by
  rcases hrun with h | h
  · rw [if_pos h]
    have hchan : (v.runs n b die).chan n = { v.chan n with run := 2, firstBoundary := some b } := by
      rw [Sys.runs, Sys.raise_chan_read, Sys.onChan_self]
    rw [hchan]
    exact ⟨rfl, rfl⟩
  · rw [if_neg (by rw [h]; decide)]
    exact ⟨hv.trans h, rfl⟩

theorem Sys.started_live : (if c.run = 1 then v.runs n b die else v).live = v.live := by
  split <;> rfl

theorem Sys.started_nat (k : Nat) : (if c.run = 1 then v.runs n b die else v).nat k = v.nat k := by
  split <;> rfl

theorem Sys.started_pend : (if c.run = 1 then v.runs n b die else v).pend = v.pend := by
  split <;> rfl

theorem Sys.started_raised : (if c.run = 1 then v.runs n b die else v).evs.raised =
    if c.run = 1 then v.evs.raised ++ [{ code := 0x1105, die := die, arg := n, t := v.now }] else v.evs.raised := by
  split <;> rfl

theorem Sys.started_mem {e : Ev} (h : e ∈ v.evs.raised) : e ∈ (if c.run = 1 then v.runs n b die else v).evs.raised := by
  rw [Sys.started_raised]
  split
  · exact List.mem_append_left _ h
  · exact h

end

theorem Sys.rateAt_none {y : Sys} {n : Nat} {k : Int} {p : PicPlan} (h : y.pend = []) : y.rateAt n k p = y := by
  refine if_pos ?_
  unfold Sys.duePend
  rw [h]
  rfl

/-! ### A bitrate that waits (R163) -/

/-- The one set that waits is gone when it applies. -/
theorem Sys.applyDue_last {y : Sys} {q : Pend} {ctx : Nat} {b : Int} (hpend : y.pend = [q]) (hdue : y.duePend ctx b = [q]) : (y.applyDue ctx b).pend = [] := by
  have hgone : y.pend.filter (fun (p : Pend) => !(p.key == ctx && atOrAfter b p.at_)) = [] := by
    have hq : (q.key == ctx && atOrAfter b q.at_) = true := by
      have hmem : q ∈ y.duePend ctx b := by rw [hdue]; exact List.mem_singleton_self q
      exact (List.mem_filter.mp hmem).2
    rw [hpend, List.filter_cons_of_neg (by rw [hq]; decide)]
    rfl
  have hset : ∀ z : Sys, (z.applySet q.set).pend = z.pend := fun z => Sys.each_apart (g := (·.pend)) fun _ _ _ => rfl
  unfold Sys.applyDue
  dsimp only
  rw [hdue, if_neg (List.cons_ne_nil q []), Sys.each_cons, Sys.each_nil, hgone]
  split
  · rw [hset]
  · exact hset _

/-- A channel that takes a bitrate at boundary `k`. -/
def Chan.rated (b : Nat) (k : Int) (c : Chan) : Chan := { c with bitrate := b, nextBitrate := none, refK := k }

/-- The bitrate that waits applies where HRD parameters are not signalled. -/
theorem Sys.rateAt_applies {y : Sys} {n b : Nat} {k x : Int} {p : PicPlan} {q : Pend} (hpend : y.pend = [q]) (hkey : q.key = Ob.ChCommit n)
    (hset : q.set = [(Ob.RcBitrate n, .int b)]) (hdue : atOrAfter ((y.fig n).boundary k) q.at_ = true)
    (hnext : (y.chan n).nextBitrate = some (b, x)) (hhrd : (y.fig n).hrd = 0) :
    ((y.rateAt n k p).chan n) = (y.chan n).rated b k ∧ (y.rateAt n k p).pend = [] ∧ (y.rateAt n k p).nat (Ob.RcBitrate n) = b ∧
      (y.rateAt n k p).nat (Ob.ChCommitState n) = 0 ∧
      (y.rateAt n k p).nat (Ob.RcBitrateChanges n) = (y.nat (Ob.RcBitrateChanges n) + 1) % wrapOf y.part.dies (Ob.RcBitrateChanges n) ∧
      { code := 0x0B03, die := (y.chan n).die, arg := n, t := y.now } ∈ (y.rateAt n k p).evs.raised := by
  have hduePend : y.duePend (Ob.ChCommit n) ((y.fig n).boundary k) = [q] := by
    unfold Sys.duePend
    rw [hpend, List.filter_cons_of_pos (by rw [hkey, hdue, beq_self_eq_true]; rfl)]
    rfl
  have hmine : (y.pend.filter fun (o : Pend) => o.key == Ob.ChCommit n) = [q] := by
    rw [hpend, List.filter_cons_of_pos (by rw [hkey, beq_self_eq_true])]
    rfl
  have hstate : Ob.RcBitrate n ≠ Ob.ChCommit n + 1 := by simp only [Ob.RcBitrate, Ob.ChCommit]; omega
  obtain ⟨hval, hidle, -, -, hothers⟩ := Sys.applyDue_reads hduePend hset hmine hstate
  obtain ⟨-, heq⟩ := Sys.applyDue_one hduePend hset hmine
  have hlast := Sys.applyDue_last hpend hduePend
  have hcount : (y.applyDue (Ob.ChCommit n) ((y.fig n).boundary k)).nat (Ob.RcBitrateChanges n) = y.nat (Ob.RcBitrateChanges n) :=
    congrArg Val.nat (hothers _ (by simp only [Ob.RcBitrateChanges, Ob.RcBitrate]; omega) (by simp only [Ob.RcBitrateChanges, Ob.ChCommit]; omega))
  have hchan : (y.applyDue (Ob.ChCommit n) ((y.fig n).boundary k)).chan n = y.chan n := by rw [heq]; rfl
  have hnow : (y.applyDue (Ob.ChCommit n) ((y.fig n).boundary k)).now = y.now := by rw [heq]; rfl
  have hpart : (y.applyDue (Ob.ChCommit n) ((y.fig n).boundary k)).part = y.part := by rw [heq]; rfl
  generalize hz : y.applyDue (Ob.ChCommit n) ((y.fig n).boundary k) = z at *
  have hrate : y.rateAt n k p = ((z.onChan n (Chan.rated b k)).bump (Ob.RcBitrateChanges n) 1).raise 0x0B03 ((z.onChan n (Chan.rated b k)).chan n).die n := by
    have hmay : rateMayApply (y.fig n) p = true := by
      unfold rateMayApply
      rw [hhrd]
      rfl
    unfold Sys.rateAt
    dsimp only
    rw [hduePend, if_neg (List.cons_ne_nil q []), hnext]
    dsimp only
    rw [if_pos hmay, hz]
    rfl
  have hne : ∀ {j}, j ≠ Ob.RcBitrateChanges n → (y.rateAt n k p).nat j = z.nat j := fun hj => by
    rw [hrate, Sys.raise_nat_read]
    exact congrArg Val.nat (Sys.bump_other _ _ _ _ hj)
  have hself : (y.rateAt n k p).chan n = (y.chan n).rated b k := by
    rw [hrate, Sys.raise_chan_read, Sys.bump_chan_read, Sys.onChan_self, hchan]
  refine ⟨hself, ?_, ?_, ?_, ?_, ?_⟩
  · rw [hrate]
    exact hlast
  · rw [hne (by simp only [Ob.RcBitrate, Ob.RcBitrateChanges]; omega)]
    exact (congrArg Val.nat hval).trans (Int.toNat_natCast b)
  · rw [hne (by simp only [Ob.ChCommitState, Ob.RcBitrateChanges]; omega), show Ob.ChCommitState n = Ob.ChCommit n + 1 by
      simp only [Ob.ChCommitState, Ob.ChCommit]; omega]
    exact hidle
  · rw [hrate, Sys.raise_nat_read, Sys.bump_nat, Sys.onChan_nat_read, hcount, Sys.onChan_part, hpart]
  · rw [hrate, Sys.raise_raised, Sys.onChan_self, hchan, Sys.bump_now, Sys.onChan_now, hnow]
    exact List.mem_append_right _ (List.mem_singleton.mpr rfl)

/-! ### The boundary as a whole -/

section

variable {x y : Sys} {n : Nat} {k : Int} (hy : y = x.finishStops) (hk : k = (y.chan n).nextK)
  (hcome : atOrAfter (y.frameNow n false) ((y.fig n).boundary k) = true) (hrun : (y.chan n).run = 1 ∨ (y.chan n).run = 2)
  (hgoes : (y.chan n).stopK = none) (hwait : y.stepWaits (.ch n) = false) (hhand : (y.chan n).handover = []) (hmove : (y.chan n).move = none)
  (hold : (y.chan n).oldDies = []) (hthaw : (y.chan n).frozen = false) (hserved : y.unserved n = false) (hfit : y.needsRepair n = false)

include hy hk hcome hrun hgoes hwait hhand hmove hold hthaw hserved hfit in
/-- A boundary that comes to a channel in service, which needs no repair. -/
theorem Sys.frameBoundary_begins : x.frameBoundary n = (y.pruneFrames n).beginFrame n k := by
  have hpruned := y.pruneFrames_framesOf n
  have hrun' : ((y.chan n).run == 0) = false := beq_false_of_ne (by rcases hrun with h | h <;> (rw [h]; decide))
  have hbegins : x.frameBoundary n = (((y.pruneFrames n).handoversAt n k).repairAt n k).beginFrame n k := by
    subst hy hk
    refine if_neg ?_
    rw [hrun', hgoes, hcome, hwait]
    exact Bool.false_ne_true
  rw [hbegins, Sys.handoversAt_none ((congrArg (·.handover) hpruned.chan).trans hhand),
    Sys.repairAt_none ((congrArg (·.move) hpruned.chan).trans hmove) ((congrArg (·.oldDies) hpruned.chan).trans hold)
      (hpruned.unserved.trans hserved) (hpruned.needsRepair.trans hfit) ((congrArg (·.frozen) hpruned.chan).trans hthaw)]

end


/-- What a frame that begins is, and what its channel is then. -/
theorem Sys.begun_frame {v w : Sys} {n die : Nat} {c : Chan} {f : Fig} {k : Int} {p : PicPlan} (hrun : c.run = 1 ∨ c.run = 2)
    (hv : (v.chan n).run = c.run) (hw : w = (if c.run = 1 then v.runs n (f.boundary k) die else v).onChan n (Chan.framed f k p)) :
    ∃ fr, (w.chan n).frames.getLast? = some fr ∧ fr.k = k ∧ fr.boundary = f.boundary k ∧ fr.origin = f.boundary k + f.off ∧
      fr.n = (v.chan n).frameNo ∧ fr.poc = p.poc ∧ fr.band = p.band ∧
      fr.budget = budgetOf (v.chan n).bitrate f.rn f.rd (k - (v.chan n).refK).toNat ∧ (w.chan n).nextK = k + 1 ∧
      (w.chan n).frameNo = (v.chan n).frameNo + 1 ∧ (w.chan n).cyclePos = p.cyclePos ∧ (w.chan n).run = 2 ∧
      (w.chan n).restarts = ((v.chan n).restarts.filter fun t => !atOrAfter (f.boundary k) t) ∧ (w.chan n).bitrate = (v.chan n).bitrate := by
  subst hw
  obtain ⟨hruns, hkept⟩ := Sys.started_chan (b := f.boundary k) (die := die) hrun hv
  generalize (if c.run = 1 then v.runs n (f.boundary k) die else v) = u at hruns hkept ⊢
  have hno : (u.chan n).frameNo = (v.chan n).frameNo := congrArg (·.frameNo) hkept
  have hrate : (u.chan n).bitrate = (v.chan n).bitrate := congrArg (·.bitrate) hkept
  have href : (u.chan n).refK = (v.chan n).refK := congrArg (·.refK) hkept
  have hrestarts : (u.chan n).restarts = (v.chan n).restarts := congrArg (·.restarts) hkept
  rw [Sys.framed_chan, ← hno, ← hrate, ← href, ← hrestarts]
  exact ⟨_, Chan.framed_last .., newFrame_k .., rfl, rfl, rfl, rfl, rfl, rfl, rfl, rfl, rfl, hruns, rfl, rfl⟩

theorem Sys.pruneFrames_run (n : Nat) (y : Sys) : ((y.pruneFrames n).chan n).run = (y.chan n).run :=
  (congrArg Chan.run (Sys.onChan_self ..)).trans rfl

theorem Sys.endSequence_run (n : Nat) (y : Sys) : ((y.endSequence n).chan n).run = (y.chan n).run :=
  (congrArg Chan.run (Sys.onChan_self ..)).trans rfl

theorem Chan.restartDue_nil {c : Chan} (h : c.restarts = []) (b : Int) : c.restartDue b = false := by
  unfold Chan.restartDue
  rw [h]
  rfl

/-- Settles O50: boundaries that begin no frame, and the frame that begins without a restart, with one, and with a bitrate that waits. -/
theorem framesBegin : Obligations.FramesBegin := by
  unfold Obligations.FramesBegin
  intro dt n k c f y s hy hc hf hk
  subst hc hf
  refine ⟨fun hidle => act_done (Sys.frameBoundary_idle hy (by rw [← hk]; exact hidle)),
    fun hcome hrun hgoes hwait hhand hmove hold hthaw hserved hfit hmode hlater hpoc => ?_⟩
  have hbegins := Sys.frameBoundary_begins hy hk hcome hrun hgoes hwait hhand hmove hold hthaw hserved hfit
  have hpruned := y.pruneFrames_framesOf n
  have he := hpruned.trans ((y.pruneFrames n).endSequence_framesOf n)
  have herun := (y.pruneFrames n).endSequence_run n
  have hzrun := y.pruneFrames_run n
  have hemove : (((y.pruneFrames n).endSequence n).chan n).move = none := (congrArg (·.move) he.chan).trans hmove
  have hplan := fun restart => picPlan_cycle (f := y.fig n) (c := (y.pruneFrames n).chan n) restart ((congrArg (·.frozen) hpruned.chan).trans hthaw) hmode
    (fun h => hlater ((congrArg (·.frameNo) hpruned.chan).symm.trans h))
    (lt_of_eq_of_lt (congrArg (·.poc + 1) hpruned.chan) hpoc)
  generalize y.pruneFrames n = z at *
  generalize hE : z.endSequence n = e at *
  have hzrestarts : (z.chan n).restarts = (y.chan n).restarts := congrArg (·.restarts) hpruned.chan
  have hzdie : (z.chan n).die = (y.chan n).die := congrArg (·.die) hpruned.chan
  have hzcycle : (z.chan n).cyclePos = (y.chan n).cyclePos := congrArg (·.cyclePos) hpruned.chan
  have hzpoc : (z.chan n).poc = (y.chan n).poc := congrArg (·.poc) hpruned.chan
  have heno : (e.chan n).frameNo = (y.chan n).frameNo := congrArg (·.frameNo) he.chan
  have herate : (e.chan n).bitrate = (y.chan n).bitrate := congrArg (·.bitrate) he.chan
  have heref : (e.chan n).refK = (y.chan n).refK := congrArg (·.refK) he.chan
  have herestarts : (e.chan n).restarts = (y.chan n).restarts := congrArg (·.restarts) he.chan
  have hrunz : (z.chan n).run = 1 ∨ (z.chan n).run = 2 := by rw [hzrun]; exact hrun
  refine ⟨fun hpend hrestarts => ?plain, fun t hpend ht htime => ?restart, fun q b x hpend hkey hset hdue hnext hhrd hrestarts => ?rate⟩
  case plain =>
    have hdue : (z.chan n).restartDue ((y.fig n).boundary k) = false := Chan.restartDue_nil (hzrestarts.trans hrestarts) _
    obtain ⟨hband, hplanPoc, hagain, hcycle⟩ := hplan false
    have hstages := Sys.beginFrame_stages (v := e) (v' := e) (p := picPlan (y.fig n) (z.chan n) false) hpruned.fig.symm rfl (by rw [hdue])
      (by rw [hE]; exact (Sys.rateAt_none (he.pend.trans hpend)).symm) (by rw [hagain]; rfl) rfl
      ((congrArg (·.move) (Sys.started_chan hrunz herun).2).trans hemove)
    obtain ⟨fr, hlast, hfk, hfb, hfo, hfn, hfp, hfband, hbudget, hnextK, hno, hcyc, hruns, -, -⟩ := Sys.begun_frame hrunz herun hstages
    refine ⟨_, fr, act_done hbegins, hlast, hfk, hfb, hfo, hfn.trans heno, hfp.trans (hplanPoc.trans (congrArg (· + 1) hzpoc)),
      hfband.trans (hband.trans (congrArg _ hzcycle)), ?_, hnextK, hno.trans (congrArg (· + 1) heno), ?_, hruns, ?_, ?_⟩
    · rw [hbudget, herate, heref]
    · rw [hcyc, hcycle, hzcycle]
      rfl
    · rw [hstages, Sys.onChan_live, Sys.started_live, he.live]
    · rw [hstages, Sys.onChan_evs, Sys.started_raised, he.evs, he.now, hzrun, hzdie]
  case restart =>
    have hdue : (z.chan n).restartDue ((y.fig n).boundary k) = true := by
      unfold Chan.restartDue
      rw [hzrestarts]
      exact List.any_eq_true.mpr ⟨t, ht, htime⟩
    obtain ⟨hband, -, hagain, -⟩ := hplan true
    have hchan : (e.cycleRestarted n (z.chan n).die).chan n = e.chan n := by rw [Sys.cycleRestarted, Sys.raise_chan_read, Sys.bump_chan_read]
    have hrunv : ((e.cycleRestarted n (z.chan n).die).chan n).run = (z.chan n).run := by rw [hchan, herun]
    have hstages := Sys.beginFrame_stages (v := e) (v' := e.cycleRestarted n (z.chan n).die) (p := picPlan (y.fig n) (z.chan n) true)
      hpruned.fig.symm rfl (by rw [hdue]) (by rw [hE]; exact (Sys.rateAt_none (he.pend.trans hpend)).symm) (by rw [hagain]; rfl) rfl
      ((congrArg (·.move) (Sys.started_chan hrunz hrunv).2).trans (by rw [hchan]; exact hemove))
    obtain ⟨fr, hlast, -, -, -, -, -, hfband, -, -, -, -, -, hkeep, -⟩ := Sys.begun_frame hrunz hrunv hstages
    refine ⟨_, fr, act_done hbegins, hlast, hfband.trans hband, ?_, ?_, ?_⟩
    · rw [hkeep, hchan, herestarts]
    · rw [hstages, Sys.onChan_evs]
      refine Sys.started_mem ?_
      rw [Sys.cycleRestarted, Sys.raise_raised, Sys.bump_now, he.now, hzdie]
      exact List.mem_append_right _ (List.mem_singleton.mpr rfl)
    · rw [hstages, Sys.onChan_nat_read, Sys.started_nat, Sys.cycleRestarted, Sys.raise_nat_read, Sys.bump_nat, he.nat, he.part]
  case rate =>
    have hrestartless : (z.chan n).restartDue ((y.fig n).boundary k) = false := Chan.restartDue_nil (hzrestarts.trans hrestarts) _
    obtain ⟨-, -, hagain, -⟩ := hplan false
    obtain ⟨hchan, hpendv, hratev, hstatev, hcountv, hraisedv⟩ := Sys.rateAt_applies (k := k) (p := picPlan (y.fig n) (z.chan n) false)
      (he.pend.trans hpend) hkey hset (by rw [he.fig]; exact hdue) ((congrArg (·.nextBitrate) he.chan).trans hnext) (by rw [he.fig]; exact hhrd)
    have hedie : (e.chan n).die = (y.chan n).die := congrArg (·.die) he.chan
    have hvE : e.rateAt n k (picPlan (y.fig n) (z.chan n) false) = (z.endSequence n).rateAt n k (picPlan (y.fig n) (z.chan n) false) := by rw [hE]
    generalize e.rateAt n k (picPlan (y.fig n) (z.chan n) false) = v at *
    have hrunv : (v.chan n).run = (z.chan n).run := by rw [hchan]; exact herun
    have hstages := Sys.beginFrame_stages (v' := v) hpruned.fig.symm rfl (by rw [hrestartless]) hvE (by rw [hagain]; rfl) rfl
      ((congrArg (·.move) (Sys.started_chan hrunz hrunv).2).trans (by rw [hchan]; exact hemove))
    obtain ⟨fr, hlast, -, -, -, -, -, -, hbudget, -, -, -, -, -, hrate⟩ := Sys.begun_frame hrunz hrunv hstages
    refine ⟨_, fr, act_done hbegins, hlast, ?_, ?_, ?_, ?_, ?_, ?_, ?_⟩
    · rw [hrate, hchan]
      rfl
    · rw [hbudget, hchan]
      exact congrArg (fun i : Int => budgetOf b _ _ i.toNat) (sub_self k)
    · rw [hstages, Sys.onChan_pend, Sys.started_pend, hpendv]
    · rw [hstages, Sys.onChan_nat_read, Sys.started_nat, hratev]
    · rw [hstages, Sys.onChan_nat_read, Sys.started_nat, hstatev]
    · rw [hstages, Sys.onChan_evs]
      refine Sys.started_mem ?_
      rw [← hedie, ← he.now]
      exact hraisedv
    · rw [hstages, Sys.onChan_nat_read, Sys.started_nat, hcountv, he.nat, he.part]


end Sys2Proof.Machine

/-! PROOFS. Checks of coded slices, mirrored strips and repair copies (R59, R108, R127 to R132, R174, R175). -/

namespace Sys2Proof.Machine

/-! ### The pool a move left (R127) -/

/-- A channel but for the pool a repair move left. -/
def Chan.unpooled (c : Chan) : Chan := { c with oldDies := [], oldBufs := [] }

/-- `z` is `y` but for the dies and the pool channel `n` left. -/
def Sys.Freed (n : Nat) (y z : Sys) : Prop := ∃ ds cs, z = { y with dies := ds, chans := cs } ∧ (z.chan n).unpooled = (y.chan n).unpooled

namespace Sys.Freed

variable {n : Nat} {y z : Sys}

theorem refl (n : Nat) (y : Sys) : y.Freed n y := ⟨y.dies, y.chans, rfl, rfl⟩

theorem live (h : y.Freed n z) : z.live = y.live := by
  obtain ⟨_, _, rfl, _⟩ := h
  rfl

theorem evs (h : y.Freed n z) : z.evs = y.evs := by
  obtain ⟨_, _, rfl, _⟩ := h
  rfl

theorem nat (h : y.Freed n z) (k : Nat) : z.nat k = y.nat k := by
  obtain ⟨_, _, rfl, _⟩ := h
  rfl

theorem checks (h : y.Freed n z) : (z.chan n).checks = (y.chan n).checks := by
  obtain ⟨_, _, _, hc⟩ := h
  exact congrArg (·.checks) hc

theorem restarts (h : y.Freed n z) : (z.chan n).restarts = (y.chan n).restarts := by
  obtain ⟨_, _, _, hc⟩ := h
  exact congrArg (·.restarts) hc

theorem bufs (h : y.Freed n z) : (z.chan n).bufs = (y.chan n).bufs := by
  obtain ⟨_, _, _, hc⟩ := h
  exact congrArg (·.bufs) hc

theorem frames (h : y.Freed n z) : (z.chan n).frames = (y.chan n).frames := by
  obtain ⟨_, _, _, hc⟩ := h
  exact congrArg (·.frames) hc

end Sys.Freed

theorem Sys.freeOld_freed (n : Nat) (y : Sys) : y.Freed n (y.freeOld n) := by
  have htear : ∀ z : Sys, ∃ ds, z.each (y.chan n).oldDies (fun d z => (((z.cancelGraph n d).heapFree d (owner 0 n)).heapFree d (owner 6 n)).onDie d
      fun x => { x with sramUsed := x.sramUsed.filter fun e => e.1 != owner 6 n }) = { z with dies := ds } := by
    intro z
    refine Sys.each_invariant (I := fun w => ∃ ds, w = { z with dies := ds }) (fun d w h => ?_) ⟨z.dies, rfl⟩
    have hcancel : ∃ ds, w.cancelGraph n d = { z with dies := ds } :=
      Sys.each_invariant (I := fun w => ∃ ds, w = { z with dies := ds }) (fun t w h => by
        obtain ⟨ds, rfl⟩ := h
        exact ⟨_, rfl⟩) h
    obtain ⟨ds, hds⟩ := hcancel
    rw [hds]
    exact ⟨_, rfl⟩
  unfold Sys.freeOld
  dsimp only
  obtain ⟨ds, hds⟩ := htear y
  rw [hds]
  have hdone : ∀ (p : Prop) [Decidable p], y.Freed n (if p then
      ({ y with dies := ds } : Sys).onChan n (fun c => { c with oldDies := [], oldBufs := [] }) else y) := by
    intro p _
    split
    · exact ⟨ds, _, rfl, by rw [Sys.onChan_self]; rfl⟩
    · exact Sys.Freed.refl n y
  exact hdone _

/-- A hold is on no buffer any more (R174). -/
def Sys.unheld (n h : Nat) (y : Sys) : Sys :=
  y.onChan n fun c => { c with bufs := c.bufs.map (fun b => { b with holds := b.holds.filter fun x => x != h })
                               oldBufs := c.oldBufs.map fun b => { b with holds := b.holds.filter fun x => x != h } }

theorem Sys.dropHold_freed (n h : Nat) (y : Sys) : (y.unheld n h).Freed n (y.dropHold n h) := Sys.freeOld_freed n (y.unheld n h)

theorem Sys.unheld_chan (n h : Nat) (y : Sys) : (y.unheld n h).chan n = { y.chan n with
    bufs := (y.chan n).bufs.map (fun b => { b with holds := b.holds.filter fun x => x != h })
    oldBufs := (y.chan n).oldBufs.map fun b => { b with holds := b.holds.filter fun x => x != h } } := by
  rw [Sys.unheld, Sys.onChan_self]

theorem Sys.dropHold_checks (n h : Nat) (y : Sys) : ((y.dropHold n h).chan n).checks = (y.chan n).checks := by
  rw [(y.dropHold_freed n h).checks, Sys.unheld_chan]

theorem Sys.dropHold_restarts (n h : Nat) (y : Sys) : ((y.dropHold n h).chan n).restarts = (y.chan n).restarts := by
  rw [(y.dropHold_freed n h).restarts, Sys.unheld_chan]

theorem Sys.dropHold_frames (n h : Nat) (y : Sys) : ((y.dropHold n h).chan n).frames = (y.chan n).frames := by
  rw [(y.dropHold_freed n h).frames, Sys.unheld_chan]

theorem Sys.dropHold_evs (n h : Nat) (y : Sys) : (y.dropHold n h).evs = y.evs := (y.dropHold_freed n h).evs

theorem Sys.dropHold_live (n h : Nat) (y : Sys) : (y.dropHold n h).live = y.live := (y.dropHold_freed n h).live

theorem Sys.dropHold_nat (n h k : Nat) (y : Sys) : (y.dropHold n h).nat k = y.nat k := (y.dropHold_freed n h).nat k

theorem Sys.dropHold_bufs {n h : Nat} {y : Sys} {b : Buf} (hb : b ∈ ((y.dropHold n h).chan n).bufs) : h ∉ b.holds := by
  rw [(y.dropHold_freed n h).bufs, Sys.unheld_chan] at hb
  obtain ⟨a, -, rfl⟩ := List.mem_map.mp hb
  exact fun hin => absurd (List.mem_filter.mp hin).2 (by rw [bne_self_eq_false]; exact Bool.false_ne_true)

/-! ### A handover, seen from a channel (R502) -/

theorem Sys.fig_congr {y z : Sys} {n : Nat} (hpart : z.part = y.part) (hcfg : (z.chan n).cfg = (y.chan n).cfg) : z.fig n = y.fig n := by
  refine congrArg (figOf · n) (funext fun k => ?_)
  unfold Sys.cfg
  rw [hpart, hcfg]

theorem Sys.frameNow_congr {y z : Sys} {n : Nat} (hjas : z.jas = y.jas) (hnow : z.now = y.now) (hpart : z.part = y.part)
    (hcfg : (z.chan n).cfg = (y.chan n).cfg) (old : Bool) : z.frameNow n old = y.frameNow n old := by
  have htb : ∀ b, z.tb b = y.tb b := fun b => congrArg (fun j : Jas => Tab.find (fun _ => ({} : Tb)) j.tbs b) hjas
  unfold Sys.frameNow Sys.frameMap Sys.view
  rw [Sys.fig_congr hpart hcfg, hnow, htb]

/-- A channel but for its handovers. -/
def Chan.unhanded (c : Chan) : Chan := { c with handover := [] }

/-- `z` is `y` but for what a handover changes: dies, handovers, the repair map, and events raised. -/
structure Sys.Handed (n : Nat) (y z : Sys) : Prop where
  live : z.live = y.live
  now : z.now = y.now
  part : z.part = y.part
  jas : z.jas = y.jas
  chan : (z.chan n).unhanded = (y.chan n).unhanded
  raised : y.evs.raised <+: z.evs.raised

namespace Sys.Handed

variable {n : Nat} {y z : Sys}

theorem refl (n : Nat) (y : Sys) : y.Handed n y := ⟨rfl, rfl, rfl, rfl, rfl, List.prefix_rfl⟩

theorem dies (h : y.Handed n z) (ds : Tab Die) : y.Handed n { z with dies := ds } := ⟨h.live, h.now, h.part, h.jas, h.chan, h.raised⟩

theorem onDie (h : y.Handed n z) (d : Nat) (f : Die → Die) : y.Handed n (z.onDie d f) := h.dies _

theorem setDie (h : y.Handed n z) (d : Nat) (x : Die) : y.Handed n (z.setDie d x) := h.dies _

theorem raise (h : y.Handed n z) (code die arg : Nat) : y.Handed n (z.raise code die arg) :=
  ⟨h.live, h.now, h.part, h.jas, h.chan, h.raised.trans (List.prefix_append ..)⟩

theorem onRep (h : y.Handed n z) (f : RepMap → RepMap) : y.Handed n (z.onRep f) := ⟨h.live, h.now, h.part, h.jas, h.chan, h.raised⟩

theorem setChan (h : y.Handed n z) {m : Nat} {c : Chan} (hc : c.unhanded = (z.chan m).unhanded) : y.Handed n (z.setChan m c) := by
  refine ⟨h.live, h.now, h.part, h.jas, ?_, h.raised⟩
  by_cases hm : n = m
  · subst hm
    rw [Sys.setChan_self]
    exact hc.trans h.chan
  · rw [Sys.setChan_other _ _ _ _ hm]
    exact h.chan

theorem finishHandover (h : y.Handed n z) (d : Nat) : y.Handed n (z.finishHandover d) := by
  unfold Sys.finishHandover
  dsimp only
  split
  · exact h
  · split
    · exact h
    · split
      · exact (h.raise _ _ _).setDie _ _
      · split
        · obtain ⟨ds, hds⟩ := onlyDies_powerDie d _
          rw [hds]
          exact ((((h.raise _ _ _).setDie _ _).onRep _).raise _ _ _).dies ds
        · exact (h.raise _ _ _).setDie _ _

theorem scheduleHandover (h : y.Handed n z) (d pos inc lead : Nat) : y.Handed n (z.scheduleHandover d pos inc lead) := by
  refine Sys.Handed.finishHandover ?_ d
  exact Sys.each_invariant (I := fun z => y.Handed n z) (fun m z h => h.setChan rfl) (h.onDie d _)

theorem run (h : y.Handed n z) : (z.chan n).run = (y.chan n).run := congrArg (·.run) h.chan

theorem checks (h : y.Handed n z) : (z.chan n).checks = (y.chan n).checks := congrArg (·.checks) h.chan

theorem restarts (h : y.Handed n z) : (z.chan n).restarts = (y.chan n).restarts := congrArg (·.restarts) h.chan

theorem nat (h : y.Handed n z) (k : Nat) : z.nat k = y.nat k := Sys.nat_of_live h.part h.live k

theorem frameNow (h : y.Handed n z) (old : Bool) : z.frameNow n old = y.frameNow n old :=
  Sys.frameNow_congr h.jas h.now h.part (congrArg (·.cfg) h.chan) old

end Sys.Handed

/-! ### A sampled slice (R129 to R132) -/

theorem Sys.mismatch_handed (n : Nat) (k : Check) (y : Sys) : ∃ v, y.Handed n v ∧ y.mismatch n k = v.wantRefresh n := by
  have hnoted := (Sys.Handed.refl n y).onDie k.die fun x => { x with mism := x.mism ++ [k.pipe] }
  unfold Sys.mismatch
  dsimp only
  split
  · exact ⟨_, hnoted, rfl⟩
  · split
    · exact ⟨_, (hnoted.onDie _ _).scheduleHandover _ _ _ _, rfl⟩
    · exact ⟨_, hnoted, rfl⟩

theorem Sys.wantRefresh_live (n : Nat) (y : Sys) : (y.wantRefresh n).live = y.live := by
  unfold Sys.wantRefresh
  dsimp only
  split <;> rfl

theorem Sys.wantRefresh_evs (n : Nat) (y : Sys) : (y.wantRefresh n).evs = y.evs := by
  unfold Sys.wantRefresh
  dsimp only
  split <;> rfl

theorem Sys.wantRefresh_part (n : Nat) (y : Sys) : (y.wantRefresh n).part = y.part := by
  unfold Sys.wantRefresh
  dsimp only
  split <;> rfl

theorem Sys.wantRefresh_checks (n : Nat) (y : Sys) : ((y.wantRefresh n).chan n).checks = (y.chan n).checks := by
  unfold Sys.wantRefresh
  dsimp only
  split
  · rfl
  · rw [Sys.setChan_self]

theorem Sys.wantRefresh_restarts {n : Nat} {y : Sys} (h : (y.chan n).run ≠ 0) :
    ((y.wantRefresh n).chan n).restarts = (y.chan n).restarts ++ [y.frameNow n false + usU 250] := by
  unfold Sys.wantRefresh
  dsimp only
  rw [if_neg h, Sys.setChan_self]

theorem Sys.holdIfDone_cases {P : Sys → Prop} {n k : Nat} {y : Sys} (hstay : P y) (hdrop : P (y.dropHold n (confHold k))) : P (y.holdIfDone n k) := by
  unfold Sys.holdIfDone
  split
  · exact hdrop
  · exact hstay

theorem Sys.holdIfDone_checks (n k : Nat) (y : Sys) : ((y.holdIfDone n k).chan n).checks = (y.chan n).checks :=
  Sys.holdIfDone_cases (P := fun z => (z.chan n).checks = (y.chan n).checks) rfl (Sys.dropHold_checks ..)

theorem Sys.holdIfDone_restarts (n k : Nat) (y : Sys) : ((y.holdIfDone n k).chan n).restarts = (y.chan n).restarts :=
  Sys.holdIfDone_cases (P := fun z => (z.chan n).restarts = (y.chan n).restarts) rfl (Sys.dropHold_restarts ..)

theorem Sys.holdIfDone_evs (n k : Nat) (y : Sys) : (y.holdIfDone n k).evs = y.evs :=
  Sys.holdIfDone_cases (P := fun z => z.evs = y.evs) rfl (Sys.dropHold_evs ..)

theorem Sys.holdIfDone_nat (n k j : Nat) (y : Sys) : (y.holdIfDone n k).nat j = y.nat j :=
  Sys.holdIfDone_cases (P := fun z => z.nat j = y.nat j) rfl (Sys.dropHold_nat ..)

/-- The checks of one slice. -/
def Check.isOf (k row col : Nat) (g : Check) : Bool := g.frame == k && g.row == row && g.col == col

/-- A check is taken from a channel and counted. -/
def Sys.checkTaken (n k row col : Nat) (y : Sys) : Sys :=
  (y.setChan n { y.chan n with checks := (y.chan n).checks.filter fun g => !g.isOf k row col }).bump (Ob.EncConfRowsChecked n) 1

/-- What the two checksums of DP0 say of a slice. -/
def Sys.checkJudged (n : Nat) (g : Check) (a b : Nat) (y : Sys) : Sys :=
  if a = g.sum ∨ b = g.sum then y
  else if b = a then ((y.bump (Ob.EncConfMismatch n) 1).raise 0x0A05 g.die n).mismatch n g
  else y.raise 0x0A06 g.die n

section

variable {y : Sys} {n k row col : Nat} {decodes : Decodes} {g : Check}

theorem Sys.confChecked_unknown (h : (y.chan n).checks.find? (Check.isOf k row col) = none) : y.confChecked n k row col decodes = y := by
  have hfind : ((y.chan n).checks.find? fun g => g.frame == k && g.row == row && g.col == col) = none := h
  unfold Sys.confChecked
  dsimp only
  rw [hfind]

theorem Sys.confChecked_known (h : (y.chan n).checks.find? (Check.isOf k row col) = some g) : y.confChecked n k row col decodes =
    ((y.checkTaken n k row col).checkJudged n g (sliceChecksum decodes.first) (sliceChecksum decodes.second)).holdIfDone n k := by
  have hfind : ((y.chan n).checks.find? fun g => g.frame == k && g.row == row && g.col == col) = some g := h
  unfold Sys.confChecked
  dsimp only
  rw [hfind]
  rfl

theorem Sys.checkTaken_checks : ((y.checkTaken n k row col).chan n).checks = (y.chan n).checks.filter fun g => !g.isOf k row col := by
  rw [Sys.checkTaken, Sys.bump_chan_read, Sys.setChan_self]

theorem Sys.checkTaken_chan : (y.checkTaken n k row col).chan n =
    { y.chan n with checks := (y.chan n).checks.filter fun g => !g.isOf k row col } := by
  rw [Sys.checkTaken, Sys.bump_chan_read, Sys.setChan_self]

theorem Sys.checkTaken_count :
    (y.checkTaken n k row col).nat (Ob.EncConfRowsChecked n) = (y.nat (Ob.EncConfRowsChecked n) + 1) % wrapOf y.part.dies (Ob.EncConfRowsChecked n) :=
  Sys.bump_nat ..

theorem Sys.checkTaken_other {j : Nat} (h : j ≠ Ob.EncConfRowsChecked n) : (y.checkTaken n k row col).nat j = y.nat j :=
  congrArg Val.nat (Sys.bump_other _ _ _ _ h)

theorem Sys.checkTaken_frameNow (old : Bool) : (y.checkTaken n k row col).frameNow n old = y.frameNow n old := by
  refine Sys.frameNow_congr (y := y) (z := y.checkTaken n k row col) rfl rfl rfl ?_ old
  rw [Sys.checkTaken_chan]

end

section

variable {y : Sys} {n a b : Nat} {g : Check}

theorem Sys.checkJudged_sound (h : a = g.sum ∨ b = g.sum) : y.checkJudged n g a b = y := if_pos h

theorem Sys.checkJudged_unsure (ha : a ≠ g.sum) (hb : b ≠ g.sum) (hab : b ≠ a) : y.checkJudged n g a b = y.raise 0x0A06 g.die n :=
  (if_neg fun h => h.elim ha hb).trans (if_neg hab)

/-- An encoder fault is counted, raised, and asks for a refresh. -/
theorem Sys.checkJudged_fault (ha : a ≠ g.sum) (hab : b = a) :
    ∃ v, ((y.bump (Ob.EncConfMismatch n) 1).raise 0x0A05 g.die n).Handed n v ∧ y.checkJudged n g a b = v.wantRefresh n := by
  obtain ⟨v, hv, heq⟩ := Sys.mismatch_handed n g ((y.bump (Ob.EncConfMismatch n) 1).raise 0x0A05 g.die n)
  exact ⟨v, hv, (if_neg fun h => h.elim ha (hab ▸ ha)).trans ((if_pos hab).trans heq)⟩

theorem Sys.checkJudged_faulty (ha : a ≠ g.sum) (hab : b = a) :
    { code := 0x0A05, die := g.die, arg := n, t := y.now } ∈ (y.checkJudged n g a b).evs.raised ∧
      (y.checkJudged n g a b).nat (Ob.EncConfMismatch n) = (y.nat (Ob.EncConfMismatch n) + 1) % wrapOf y.part.dies (Ob.EncConfMismatch n) ∧
      ((y.chan n).run ≠ 0 → ((y.checkJudged n g a b).chan n).restarts = (y.chan n).restarts ++ [y.frameNow n false + usU 250]) := by
  obtain ⟨v, hv, heq⟩ := Sys.checkJudged_fault (y := y) (n := n) ha hab
  have hchan : ((y.bump (Ob.EncConfMismatch n) 1).raise 0x0A05 g.die n).chan n = y.chan n := by rw [Sys.raise_chan_read, Sys.bump_chan_read]
  rw [heq]
  refine ⟨?_, ?_, fun hrun => ?_⟩
  · rw [Sys.wantRefresh_evs]
    refine hv.raised.subset ?_
    rw [Sys.raise_raised]
    exact List.mem_append_right _ (List.mem_singleton.mpr rfl)
  · rw [Sys.nat_of_live (Sys.wantRefresh_part ..) (Sys.wantRefresh_live ..), hv.nat, Sys.raise_nat_read, Sys.bump_nat]
  · rw [Sys.wantRefresh_restarts (by rw [hv.run, hchan]; exact hrun), hv.restarts, hv.frameNow, hchan,
      Sys.frameNow_congr (y := y) (z := (y.bump (Ob.EncConfMismatch n) 1).raise 0x0A05 g.die n) rfl rfl rfl (congrArg Chan.cfg hchan)]

theorem Sys.checkJudged_kept : ((y.checkJudged n g a b).chan n).checks = (y.chan n).checks ∧
    ∀ j, j ≠ Ob.EncConfMismatch n → (y.checkJudged n g a b).nat j = y.nat j := by
  by_cases hsound : a = g.sum ∨ b = g.sum
  · rw [Sys.checkJudged_sound hsound]
    exact ⟨rfl, fun _ _ => rfl⟩
  · obtain ⟨ha, hb⟩ := not_or.mp hsound
    by_cases hab : b = a
    · obtain ⟨v, hv, heq⟩ := Sys.checkJudged_fault (y := y) (n := n) ha hab
      rw [heq]
      refine ⟨?_, fun j hj => ?_⟩
      · rw [Sys.wantRefresh_checks, hv.checks, Sys.raise_chan_read, Sys.bump_chan_read]
      · rw [Sys.nat_of_live (Sys.wantRefresh_part ..) (Sys.wantRefresh_live ..), hv.nat, Sys.raise_nat_read]
        exact congrArg Val.nat (Sys.bump_other _ _ _ _ hj)
    · rw [Sys.checkJudged_unsure ha hb hab]
      exact ⟨rfl, fun _ _ => rfl⟩

end

/-! ### The release of a hold (R174, R175) -/

/-- The checks of a picture are abandoned. -/
def Sys.checksLeft (n k : Nat) (y : Sys) : Sys :=
  let v := y.setChan n { y.chan n with checks := (y.chan n).checks.filter fun g => g.frame != k }
  if ((y.chan n).checks.filter fun g => g.frame == k).isEmpty then v
  else (v.bump (Ob.RefConfAbandoned n) ((y.chan n).checks.filter fun g => g.frame == k).length).raise 0x0C06 (y.chan n).die n

section

variable {y : Sys} {n k : Nat} {fr : Frame}

theorem Sys.confRelease_found (h : (y.chan n).frames.find? (fun fr => fr.n == k) = some fr) : y.confRelease n k =
    if atOrAfter (y.frameNow n fr.old) (fr.origin + (y.fig n).deadline ((y.fig n).rows - 1) + (y.fig n).period_) then
      (y.checksLeft n k).dropHold n (confHold k) else y := by
  unfold Sys.confRelease
  dsimp only
  rw [h]
  rfl

theorem Sys.checksLeft_checks : ((y.checksLeft n k).chan n).checks = (y.chan n).checks.filter fun g => g.frame != k := by
  unfold Sys.checksLeft
  dsimp only
  split
  · rw [Sys.setChan_self]
  · rw [Sys.raise_chan_read, Sys.bump_chan_read, Sys.setChan_self]

theorem Sys.checksLeft_some (h : ((y.chan n).checks.filter fun g => g.frame == k).length ≠ 0) : y.checksLeft n k =
    ((y.setChan n { y.chan n with checks := (y.chan n).checks.filter fun g => g.frame != k }).bump (Ob.RefConfAbandoned n)
      ((y.chan n).checks.filter fun g => g.frame == k).length).raise 0x0C06 (y.chan n).die n :=
  if_neg fun he => h (List.length_eq_zero_iff.mpr (List.isEmpty_iff.mp he))

end

/-! ### Strips and copies (R59, R108, R127, R174) -/

section

variable {y : Sys} {n half row : Nat} {fr : Frame}

theorem Sys.stripArrives_single (h : (y.fig n).pair = false) : y.stripArrives n half row = y := by
  unfold Sys.stripArrives
  dsimp only
  rw [if_neg (by rw [h]; exact Bool.false_ne_true)]

theorem Sys.stripArrives_none (h : (y.chan n).frames.find? (fun fr => !(fr.row row).stripOk.contains half && fr.rowFinal (y.fig n) half row) = none) :
    y.stripArrives n half row = y := by
  unfold Sys.stripArrives
  dsimp only
  rw [h]
  split <;> rfl

/-- A row of which a strip has arrived. -/
def Row.mirrored (half : Nat) (mv : List (Nat × List Motion)) (w : Row) : Row := { w with stripOk := w.stripOk ++ [half], stripMv := w.stripMv ++ mv }

theorem Sys.stripArrives_some (hpair : (y.fig n).pair = true)
    (h : (y.chan n).frames.find? (fun fr => !(fr.row row).stripOk.contains half && fr.rowFinal (y.fig n) half row) = some fr) :
    y.stripArrives n half row = (y.onFrame n fr.k fun g => g.onRow row (Row.mirrored half
      (if (y.fig n).tool 1 then [(half, y.stripMotion n fr half row)] else []))).dropHold n (stripHold half row) := by
  unfold Sys.stripArrives
  dsimp only
  rw [if_pos hpair, h]
  rfl

variable {i : Nat} {b : Buf}

/-- Whether a row of a buffer may be copied. -/
def Sys.mayCopy (n row : Nat) (b : Buf) (y : Sys) : Bool :=
  b.holds.contains 1 && decide (row < (y.fig n).rows) && !b.copied.contains row &&
    match (y.chan n).frames.find? fun fr => fr.n == b.frame with
    | some fr => fr.rowFinal (y.fig n) 0 row && fr.rowFinal (y.fig n) 1 row
    | none => true

/-- The buffers of the copy. -/
def Chan.copyFrom (c : Chan) : List Buf := if c.oldBufs.isEmpty then c.bufs else c.oldBufs

/-- A channel with a row of a buffer copied. -/
def Chan.copied (i : Nat) (b : Buf) (c : Chan) : Chan :=
  if c.oldBufs.isEmpty then { c with bufs := c.copyFrom.set i b } else { c with oldBufs := c.copyFrom.set i b }

theorem Sys.copyRow_some (h : (y.chan n).copyFrom[i]? = some b) : y.copyRow n i row =
    if y.mayCopy n row b then (y.setChan n ((y.chan n).copied i (b.copyRow (y.fig n).rows row))).freeOld n else y := by
  have hfind : (if (y.chan n).oldBufs.isEmpty then (y.chan n).bufs else (y.chan n).oldBufs)[i]? = some b := h
  unfold Sys.copyRow
  dsimp only
  rw [hfind]
  rfl

theorem Sys.mayCopy_not (h : b.holds.contains 1 = false ∨ (y.fig n).rows ≤ row ∨ b.copied.contains row = true) : y.mayCopy n row b = false := by
  unfold Sys.mayCopy
  rcases h with h | h | h
  · rw [h, Bool.false_and, Bool.false_and, Bool.false_and]
  · rw [decide_eq_false (not_lt.mpr h), Bool.and_false, Bool.false_and, Bool.false_and]
  · rw [h, Bool.not_true, Bool.and_false, Bool.false_and]

theorem Sys.mayCopy_due (hheld : b.holds.contains 1 = true) (hrow : row < (y.fig n).rows) (hnew : b.copied.contains row = false)
    (hfinal : ∀ fr ∈ (y.chan n).frames, fr.n = b.frame → fr.rowFinal (y.fig n) 0 row = true ∧ fr.rowFinal (y.fig n) 1 row = true) :
    y.mayCopy n row b = true := by
  unfold Sys.mayCopy
  rw [hheld, decide_eq_true hrow, hnew, Bool.not_false, Bool.true_and, Bool.true_and, Bool.true_and]
  cases hfind : (y.chan n).frames.find? fun fr => fr.n == b.frame with
  | none => rfl
  | some fr =>
    obtain ⟨h0, h1⟩ := hfinal fr (List.mem_of_find?_eq_some hfind) (eq_of_beq (List.find?_some (p := fun fr : Frame => fr.n == b.frame) hfind))
    dsimp only
    rw [h0, h1]
    rfl

/-- A row that is not the last leaves the hold. -/
theorem Buf.copyRow_more {rows : Nat} (h : b.copied.length + 1 < rows) : b.copyRow rows row = { b with copied := b.copied ++ [row] } := by
  have hshort : ¬rows ≤ (b.copied ++ [row]).length := by
    rw [List.length_append, List.length_singleton]
    omega
  unfold Buf.copyRow
  dsimp only
  rw [if_neg hshort]

end


/-- A copied row keeps the pool while its buffer is held. -/
theorem Sys.freeOld_held {y : Sys} {n : Nat} {b : Buf} (hb : b ∈ (y.chan n).oldBufs) (hheld : b.holds.contains 1 = true) : y.freeOld n = y := by
  have hopen : ¬((y.chan n).oldBufs.all fun b => b.holds.isEmpty) = true := fun hall => by
    have hempty := List.isEmpty_iff.mp (List.all_eq_true.mp hall b hb)
    rw [hempty] at hheld
    exact absurd hheld Bool.false_ne_true
  exact if_neg fun h => hopen h.2.2

/-- Settles O53: the checks of a slice, the release of a picture's hold, a strip that arrives, and a row of a copy. -/
theorem checksAndCopies : Obligations.ChecksAndCopies := by
  unfold Obligations.ChecksAndCopies
  refine ⟨fun dt n k row col decodes c y s mine hy hc hmine => ?check, fun dt n k fr c f y s hy hc hf hfind => ?release,
    fun dt n half row fr y s hy => ?strip, fun dt n i row b y s hy hb => ?copy⟩
  case check =>
    subst hc
    have hmine' : mine = Check.isOf k row col := hmine
    subst hmine'
    refine ⟨fun hnone => act_done ((congrArg _ hy.symm).trans (Sys.confChecked_unknown hnone)), fun g hg => ?_⟩
    obtain ⟨hchecks, hkept⟩ := Sys.checkJudged_kept (y := y.checkTaken n k row col) (n := n) (g := g) (a := sliceChecksum decodes.first)
      (b := sliceChecksum decodes.second)
    refine ⟨_, act_done ((congrArg _ hy.symm).trans (Sys.confChecked_known hg)), ?_, ?_, fun hsound => ?_, fun ha hb hab => ?_, fun ha hab => ⟨?_, ?_, ?_⟩⟩
    · rw [Sys.holdIfDone_checks, hchecks, Sys.checkTaken_checks]
    · rw [Sys.holdIfDone_nat, hkept _ (by simp only [Ob.EncConfRowsChecked, Ob.EncConfMismatch]; omega), Sys.checkTaken_count]
    · rw [Sys.holdIfDone_evs, Sys.checkJudged_sound hsound]
      rfl
    · rw [Sys.holdIfDone_evs, Sys.checkJudged_unsure ha hb hab, Sys.raise_raised]
      rfl
    all_goals obtain ⟨hraised, hcount, hrestarts⟩ := Sys.checkJudged_faulty (y := y.checkTaken n k row col) (n := n) ha hab
    · rw [Sys.holdIfDone_evs]
      exact hraised
    · rw [Sys.holdIfDone_nat, hcount, Sys.checkTaken_other (by simp only [Ob.EncConfRowsChecked, Ob.EncConfMismatch]; omega)]
      rfl
    · intro hrun
      rw [Sys.holdIfDone_restarts, hrestarts (by rw [Sys.checkTaken_chan]; exact hrun), Sys.checkTaken_frameNow, Sys.checkTaken_chan]
  case release =>
    subst hc hf
    have hrelease := Sys.confRelease_found hfind
    refine ⟨fun hearly => act_done ((congrArg _ hy.symm).trans (hrelease.trans (if_neg (by rw [hearly]; exact Bool.false_ne_true)))), fun hdue => ?_⟩
    rw [if_pos hdue] at hrelease
    refine ⟨_, act_done ((congrArg _ hy.symm).trans hrelease), ?_, fun b hb => Sys.dropHold_bufs hb, fun o ho hsome => ?_⟩
    · rw [Sys.dropHold_checks, Sys.checksLeft_checks]
    · subst ho
      rw [Sys.dropHold_nat, Sys.dropHold_evs, Sys.checksLeft_some hsome]
      exact ⟨(Sys.raise_nat_read ..).trans (Sys.bump_nat ..), Sys.raise_raised ..⟩
  case strip =>
    refine ⟨fun hsingle => act_done ((congrArg _ hy.symm).trans (Sys.stripArrives_single hsingle)), fun _ hdone => ?_, fun hpair hfind => ?_⟩
    · refine act_done ((congrArg _ hy.symm).trans (Sys.stripArrives_none (List.find?_eq_none.mpr fun g hg hdue => ?_)))
      rw [Bool.and_eq_true] at hdue
      rcases hdone g hg with h | h
      · rw [h] at hdue
        exact absurd hdue.1 Bool.false_ne_true
      · rw [h] at hdue
        exact absurd hdue.2 Bool.false_ne_true
    · refine ⟨_, act_done ((congrArg _ hy.symm).trans (Sys.stripArrives_some hpair hfind)), Sys.dropHold_live .., Sys.dropHold_evs ..,
        fun b hb => Sys.dropHold_bufs hb, fr.onRow row (Row.mirrored half (if (y.fig n).tool 1 then [(half, y.stripMotion n fr half row)] else [])),
        ?_, rfl, ?_, ?_⟩
      · rw [Sys.dropHold_frames, Sys.onFrame_frames]
        exact List.mem_map.mpr ⟨fr, List.mem_of_find?_eq_some hfind, if_pos rfl⟩
      · rw [Frame.onRow_row]
        rfl
      · rw [Frame.onRow_row]
        rfl
  case copy =>
    have hfrom : (y.chan n).copyFrom[i]? = some b := by
      unfold Chan.copyFrom
      simp only [List.isEmpty_iff]
      exact hb
    have hcopy := Sys.copyRow_some (row := row) hfrom
    refine ⟨fun hnot => act_done ((congrArg _ hy.symm).trans (hcopy.trans (if_neg (by rw [Sys.mayCopy_not hnot]; exact Bool.false_ne_true)))),
      fun hheld hrow hnew hmore hfinal => ?_⟩
    rw [if_pos (Sys.mayCopy_due hheld hrow hnew hfinal), Buf.copyRow_more hmore] at hcopy
    have hfreed := Sys.freeOld_freed n (y.setChan n ((y.chan n).copied i { b with copied := b.copied ++ [row] }))
    have hlen : i < (y.chan n).copyFrom.length := (List.getElem?_eq_some_iff.mp hfrom).1
    refine ⟨_, act_done ((congrArg _ hy.symm).trans hcopy), hfreed.live, hfreed.evs, fun hsome => ?_, fun hnone hdies => ?_⟩
    · have hempty : (y.chan n).oldBufs.isEmpty = false := List.isEmpty_eq_false_iff.mpr hsome
      have hfromOld : (y.chan n).copyFrom = (y.chan n).oldBufs := by rw [Chan.copyFrom, hempty]; rfl
      have hold : ((y.setChan n ((y.chan n).copied i { b with copied := b.copied ++ [row] })).chan n).oldBufs[i]? =
          some { b with copied := b.copied ++ [row] } := by
        rw [Sys.setChan_self, Chan.copied, hempty, hfromOld]
        exact List.getElem?_set_self (by rw [← hfromOld]; exact hlen)
      rw [Sys.freeOld_held (List.mem_of_getElem? hold) hheld]
      exact hold
    · have hempty : (y.chan n).oldBufs.isEmpty = true := List.isEmpty_iff.mpr hnone
      have hfromNew : (y.chan n).copyFrom = (y.chan n).bufs := by rw [Chan.copyFrom, hempty]; rfl
      rw [hfreed.bufs, Sys.setChan_self, Chan.copied, hempty, hfromNew]
      exact List.getElem?_set_self (by rw [← hfromNew]; exact hlen)


end Sys2Proof.Machine

/-! PROOFS. Pipelines that fail (R62): a handover noted twice where the table of channels is out of order. -/

namespace Sys2Proof.Machine

/-- A table of channels out of order: channel 5, which runs on position 0 of die 0, is listed behind channel 7, which is stopped. -/
def Sys.outOfOrder : Sys := { chans := [(7, { frameNo := 1 }), (5, { run := 1, pipes := [(0, 0)] })] }

theorem Sys.outOfOrder_chansAt : Sys.outOfOrder.chansAt 0 0 = [5] := by decide

theorem Sys.outOfOrder_freePipe : (Sys.outOfOrder.die 0).freePipe = some 4 := by decide

/-- A write of channel 5 lists it a second time, so its handover is noted twice. -/
theorem Sys.outOfOrder_handed : ((Sys.outOfOrder.pipeFailed 0 0).chan 5).handover.length = 2 := by decide

/-- Refutes O52: the statement asks for one handover of the one channel at a position also of a table of channels whose numbers do not rise;
there the frames that `failColumns` writes list the channel again, and the handover is scheduled for each place it has. -/
theorem not_pipelinesServe : ¬ Obligations.PipelinesServe := by
  unfold Obligations.PipelinesServe
  intro h
  obtain ⟨hfail, -, -⟩ := h
  obtain ⟨-, hserved⟩ := hfail 0 0 0 0 4 (Sys.outOfOrder.die 0) Sys.outOfOrder { sys := Sys.outOfOrder } rfl rfl
  obtain ⟨w, hdone, -, -, -, hone, -⟩ := hserved (by decide) rfl (by decide) Sys.outOfOrder_freePipe
  obtain ⟨-, hhand⟩ := hone 5 Sys.outOfOrder_chansAt
  have hw : w = Sys.outOfOrder.pipeFailed 0 0 := by
    have hact : Does (.pipelineFailure 0 0 0) { sys := Sys.outOfOrder } (Sys.outOfOrder.pipeFailed 0 0) := act_done rfl
    have heq := hdone.symm.trans hact
    injection heq with hstate
    exact congrArg State.sys hstate
  have htwo := Sys.outOfOrder_handed
  rw [← hw, hhand, List.length_append, List.length_singleton] at htwo
  have hbefore : (Sys.outOfOrder.chan 5).handover.length = 0 := by decide
  omega

end Sys2Proof.Machine

/-! PROOFS. Compressed layer sources (06; R172 to R185): packets, the pool, and the pictures DP0 decodes. -/

namespace Sys2Proof.Machine

/-! ### What decoding leaves alone -/

/-- `z` is `y` but for layers, the status of decoders, and events raised. -/
structure Sys.DecKept (y z : Sys) : Prop where
  now : z.now = y.now
  part : z.part = y.part
  jas : z.jas = y.jas
  chans : z.chans = y.chans
  val : ∀ k, k % 512 ≤ 0x140 → z.val k = y.val k

namespace Sys.DecKept

variable {y z : Sys} {l : Nat}

theorem refl (y : Sys) : y.DecKept y := ⟨rfl, rfl, rfl, rfl, fun _ _ => rfl⟩

theorem setLy (h : y.DecKept z) (x : Ly) : y.DecKept (z.setLy l x) := ⟨h.now, h.part, h.jas, h.chans, h.val⟩

theorem onLy (h : y.DecKept z) (f : Ly → Ly) : y.DecKept (z.onLy l f) := h.setLy _

theorem raise (h : y.DecKept z) (code die arg : Nat) : y.DecKept (z.raise code die arg) := ⟨h.now, h.part, h.jas, h.chans, h.val⟩

theorem setInt (h : y.DecKept z) {k : Nat} (hk : 0x140 < k % 512) (i : Int) : y.DecKept (z.setInt k i) :=
  ⟨h.now, h.part, h.jas, h.chans, fun j hj => (Sys.setInt_other _ _ _ _ fun heq => by rw [heq] at hj; omega).trans (h.val j hj)⟩

theorem bump (h : y.DecKept z) {k m : Nat} (hk : 0x140 < k % 512) : y.DecKept (z.bump k m) := by
  unfold Sys.bump
  exact h.setInt hk _

theorem decDamaged (h : y.DecKept z) : y.DecKept (z.decDamaged l) :=
  (h.bump (k := Ob.DecPicsDamaged l) (by simp only [Ob.DecPicsDamaged]; omega)).raise _ _ _

theorem decStop (h : y.DecKept z) (cause : Nat) (poc : Option Int) : y.DecKept (z.decStop l cause poc) := by
  have hset : ∀ w : Sys, y.DecKept w → y.DecKept (((((w.setInt (Ob.DecStopCause l) cause).bump (Ob.DecStops l) 1).setInt (Ob.DecState l) 1).onLy l
      fun x => { x with pool := clearPool x.pool, missing := [], recovery := none, resync := true, cra := false }).raise
      (if cause = 1 then 0x0C02 else 0x0C05) (l / 16) l) := fun w hw =>
    ((((hw.setInt (by simp only [Ob.DecStopCause]; omega) _).bump (by simp only [Ob.DecStops]; omega)).setInt
      (by simp only [Ob.DecState]; omega) _).onLy _).raise _ _ _
  unfold Sys.decStop
  cases poc with
  | none => exact hset _ h
  | some p => exact hset _ (h.setInt (by simp only [Ob.DecMissingPoc]; omega) p)

theorem decBump (h : y.DecKept z) (c : Nat) : y.DecKept (z.decBump l c) := by
  unfold Sys.decBump
  dsimp only
  split
  · exact h
  · have hstate : ∀ w : Sys, y.DecKept w → y.DecKept (if w.nat (Ob.DecState l) = 3 then w.setInt (Ob.DecState l) 2 else w) := fun w hw => by
      split
      · exact hw.setInt (by simp only [Ob.DecState]; omega) _
      · exact hw
    split
    · exact ((hstate _ (h.setLy _)).onLy _).raise _ _ _
    · exact hstate _ (h.setLy _)

theorem decBumps (h : y.DecKept z) (c : Nat) (p : CodedPic) (full : Bool) (n : Nat) : y.DecKept (z.decBumps l c p full n) := by
  induction n generalizing z with
  | zero => exact h
  | succ n ih =>
    unfold Sys.decBumps
    dsimp only
    split
    · exact h
    · split
      · exact ih (h.decBump c)
      · exact h

theorem decFlush (h : y.DecKept z) (c : Nat) : y.DecKept (z.decFlush l c) :=
  Sys.each_invariant (I := fun w => y.DecKept w) (fun _ _ h => h.decBump c) h

theorem decTake (h : y.DecKept z) (c : Nat) (p : CodedPic) (first : Bool) : y.DecKept (z.decTake l c p first) := by
  have hend : ∀ (w : Sys) (o : Option Nat), y.DecKept w → y.DecKept (match o with
      | some i => w.setLy l { w.ly l with pool := (w.ly l).pool.set i { poc := p.poc, recon := true } }
      | none => w) := fun w o hw => by
    cases o with
    | none => exact hw
    | some i => exact hw.setLy _
  unfold Sys.decTake
  dsimp only
  refine hend _ _ ?_
  split
  · split
    · exact (h.onLy _).onLy _
    · exact (h.decFlush c).onLy _
  · exact (h.onLy _).decBumps c p true 18

theorem decNext (h : y.DecKept z) (c n : Nat) : y.DecKept (z.decNext l c n) := by
  induction n generalizing z with
  | zero => exact h
  | succ n ih =>
    unfold Sys.decNext
    dsimp only
    split
    · exact h
    · split
      · split
        · split
          · exact ((h.setLy _).setInt (by simp only [Ob.DecState]; omega) _).decTake c _ true
          · exact ih ((h.setLy _).decStop _ _)
        · exact ih (h.setLy _)
      · split
        · exact ih ((h.setLy _).decStop _ _)
        · split
          · exact h.decTake c _ false
          · split
            · exact ih ((h.setLy _).decStop _ _)
            · exact h.decTake c _ false

theorem layerLegs (h : y.DecKept z) : y.DecKept (z.layerLegs l) := by
  have hopt : ∀ (w : Sys) (o : Option Nat), y.DecKept w → y.DecKept (w.raiseOpt o (l / 16) l) := fun w o hw => by
    cases o with
    | none => exact hw
    | some e => exact hw.raise _ _ _
  unfold Sys.layerLegs
  dsimp only
  split
  · exact hopt _ _ (hopt _ _ ((h.onLy _).onLy _))
  · exact h.onLy _

theorem nat (h : y.DecKept z) {k : Nat} (hk : k % 512 ≤ 0x140) : z.nat k = y.nat k := congrArg Val.nat (h.val k hk)

theorem lyDec (h : y.DecKept z) (l : Nat) : z.lyDec l = y.lyDec l := by
  unfold Sys.lyDec
  rw [h.nat (k := Ob.LyContext l) (by simp only [Ob.LyContext]; omega), h.nat (k := Ob.LySource l) (by simp only [Ob.LySource]; omega),
    h.nat (k := Ob.DecSource l) (by simp only [Ob.DecSource]; omega)]

theorem cxNow (h : y.DecKept z) (c : Nat) : z.cxNow c = y.cxNow c := by
  have hchan : ∀ n, z.chan n = y.chan n := fun n => congrArg (fun t => Tab.find (fun _ => ({} : Chan)) t n) h.chans
  have hactive : z.activeChans = y.activeChans := by
    unfold Sys.activeChans
    rw [h.chans]
  have hconsumer : z.cxConsumer c = y.cxConsumer c := by
    unfold Sys.cxConsumer
    simp only [hactive, hchan]
  have htb : ∀ b, z.tb b = y.tb b := fun b => congrArg (fun j : Jas => Tab.find (fun _ => ({} : Tb)) j.tbs b) h.jas
  unfold Sys.cxNow Sys.nowFor Sys.view
  rw [h.nat (k := Ob.CxTimeBase c) (by simp only [Ob.CxTimeBase]; omega), hconsumer, htb, h.now]

end Sys.DecKept

/-! ### A packet of a source (R178, R183) -/

/-- A packet of a leg is counted in the access unit being received. -/
def Sys.auCounted (l leg : Nat) (y : Sys) : Sys := y.onLy l fun x => if leg = 0 then { x with auA := x.auA + 1 } else { x with auB := x.auB + 1 }

theorem Sys.auCounted_ly (l leg : Nat) (y : Sys) :
    ∃ a b, (y.auCounted l leg).ly l = { y.ly l with auA := a, auB := b } := by
  rw [Sys.auCounted, Sys.onLy_self]
  split
  · exact ⟨_, _, rfl⟩
  · exact ⟨_, _, rfl⟩

/-- An access unit that the next one cuts short is damaged (R183). -/
def Sys.auCut (l : Nat) (p : LayerPkt) (y : Sys) : Sys := if p.begins && (y.ly l).open_ then y.decDamaged l else y

theorem Sys.auCut_whole {l : Nat} {p : LayerPkt} {y : Sys} (h : (p.begins && (y.ly l).open_) = false) : y.auCut l p = y :=
  if_neg (by rw [h]; exact Bool.false_ne_true)

/-- A layer that has a packet more, of which it had no copy. -/
def Ly.taking (x : Ly) (p : LayerPkt) (stamp : Int) : Ly :=
  let e := extendSeq x.ext p.seq
  let ahead := match x.ext with
    | some v => decide ((e + 2 ^ 32 - v) % 2 ^ 32 < 2 ^ 31)
    | none => true
  let fresh := p.begins || !x.open_
  { x with ext := if ahead then some e else x.ext, seen := (e :: x.seen).take 4096, open_ := p.complete.isNone,
           ccGap := (if fresh then false else x.ccGap) || p.ccGap, auStart := if fresh then stamp else x.auStart }

/-- The access unit a packet completes. -/
def Ly.unit (x : Ly) (pic : CodedPic) (now : Nat) : DecUnit :=
  { pic := pic, age := pic.tag.getD x.auStart, at_ := now, damaged := pic.damaged || x.ccGap }

/-- A layer behind a packet of a leg. -/
def Sys.taken (l c leg : Nat) (p : LayerPkt) (y : Sys) : Ly := ((y.auCounted l leg).ly l).taking p ((y.auCounted l leg).cxNow c)

theorem Sys.taken_seen (l c leg : Nat) (p : LayerPkt) (y : Sys) :
    (y.taken l c leg p).seen = (extendSeq (y.ly l).ext p.seq :: (y.ly l).seen).take 4096 := by
  obtain ⟨a, b, hab⟩ := y.auCounted_ly l leg
  rw [Sys.taken, hab]
  rfl

theorem Sys.taken_queue (l c leg : Nat) (p : LayerPkt) (y : Sys) : (y.taken l c leg p).queue = (y.ly l).queue := by
  obtain ⟨a, b, hab⟩ := y.auCounted_ly l leg
  rw [Sys.taken, hab]
  rfl

theorem Sys.taken_pool (l c leg : Nat) (p : LayerPkt) (y : Sys) : (y.taken l c leg p).pool = (y.ly l).pool := by
  obtain ⟨a, b, hab⟩ := y.auCounted_ly l leg
  rw [Sys.taken, hab]
  rfl

/-- An access unit that is complete waits for DP0. -/
def Sys.auQueued (l c leg : Nat) (p : LayerPkt) (pic : CodedPic) (y : Sys) : Sys :=
  (((y.auCounted l leg).auCut l p).setLy l { y.taken l c leg p with
    queue := (y.taken l c leg p).queue ++ [(y.taken l c leg p).unit pic ((y.auCounted l leg).auCut l p).now] }).layerLegs l

section

variable {l c leg : Nat} {p : LayerPkt} {y : Sys}

theorem Sys.layerTo_repeat (h : (y.ly l).seen.contains (extendSeq (y.ly l).ext p.seq) = true) : y.layerTo l c p leg = y.auCounted l leg := by
  obtain ⟨a, b, hab⟩ := y.auCounted_ly l leg
  have hcond : ((y.auCounted l leg).ly l).seen.contains (extendSeq ((y.auCounted l leg).ly l).ext p.seq) = true := by
    rw [hab]
    exact h
  exact if_pos hcond

variable (hnew : (y.ly l).seen.contains (extendSeq (y.ly l).ext p.seq) = false)
include hnew

theorem Sys.auCounted_unseen : ¬((y.auCounted l leg).ly l).seen.contains (extendSeq ((y.auCounted l leg).ly l).ext p.seq) = true := by
  obtain ⟨a, b, hab⟩ := y.auCounted_ly l leg
  rw [hab]
  exact fun hc => Bool.noConfusion (hc.symm.trans hnew)

/-- A packet that does not end its access unit. -/
theorem Sys.layerTo_more (hmore : p.complete = none) :
    y.layerTo l c p leg = ((y.auCounted l leg).auCut l p).setLy l (y.taken l c leg p) := by
  have hto : y.layerTo l c p leg = match p.complete with
      | none => ((y.auCounted l leg).auCut l p).setLy l (y.taken l c leg p)
      | some pic => if (y.taken l c leg p).queue.isEmpty then (y.auQueued l c leg p pic).decNext l c 1 else y.auQueued l c leg p pic :=
    (if_neg (Sys.auCounted_unseen hnew)).trans rfl
  rw [hto, hmore]

/-- The last packet of an access unit. -/
theorem Sys.layerTo_last {pic : CodedPic} (hlast : p.complete = some pic) : y.layerTo l c p leg =
    if (y.ly l).queue.isEmpty then (y.auQueued l c leg p pic).decNext l c 1 else y.auQueued l c leg p pic := by
  have hto : y.layerTo l c p leg = match p.complete with
      | none => ((y.auCounted l leg).auCut l p).setLy l (y.taken l c leg p)
      | some pic => if (y.taken l c leg p).queue.isEmpty then (y.auQueued l c leg p pic).decNext l c 1 else y.auQueued l c leg p pic :=
    (if_neg (Sys.auCounted_unseen hnew)).trans rfl
  rw [hto, hlast, Sys.taken_queue]

end

theorem Sys.DecKept.auCut {y z : Sys} {l : Nat} (h : y.DecKept z) (p : LayerPkt) : y.DecKept (z.auCut l p) := by
  unfold Sys.auCut
  split
  · exact h.decDamaged
  · exact h

theorem Sys.DecKept.layerTo (y : Sys) (l c : Nat) (p : LayerPkt) (leg : Nat) : y.DecKept (y.layerTo l c p leg) := by
  have hcounted : y.DecKept (y.auCounted l leg) := (Sys.DecKept.refl y).onLy _
  cases hseen : (y.ly l).seen.contains (extendSeq (y.ly l).ext p.seq) with
  | true =>
    rw [Sys.layerTo_repeat hseen]
    exact hcounted
  | false =>
    cases hlast : p.complete with
    | none =>
      rw [Sys.layerTo_more hseen hlast]
      exact (hcounted.auCut p).setLy _
    | some pic =>
      have hqueued : y.DecKept (y.auQueued l c leg p pic) := ((hcounted.auCut p).setLy _).layerLegs
      rw [Sys.layerTo_last hseen hlast]
      split
      · exact hqueued.decNext c 1
      · exact hqueued

/-- A packet at one layer (R178). -/
def Sys.layerRxAt (p : LayerPkt) (l : Nat) (y : Sys) : Sys :=
  match y.lyDec l with
  | some c => y.eachLeg (legsHit y.val (Ob.DecPortA l) (y.nat (Ob.DecLegMode l) = 1) p.hdr) p.hdr fun leg y =>
      if y.layerTakes l p then y.layerTo l c p leg else y
  | none => y

theorem Sys.layerRxAt_none {y : Sys} {l : Nat} (h : y.lyDec l = none) (p : LayerPkt) : y.layerRxAt p l = y := by
  unfold Sys.layerRxAt
  rw [h]

/-- A packet of a leg of the one layer that decodes. -/
theorem Sys.layerRx_one {y : Sys} {l c g : Nat} {leg : Leg} {p : LayerPkt} (hl : l < 16 * y.part.dies) (hdec : y.lyDec l = some c)
    (honly : ∀ j, j ≠ l → y.lyDec j = none) (hup : y.portUp p.hdr.port = true)
    (hhit : legsHit y.val (Ob.DecPortA l) (y.nat (Ob.DecLegMode l) = 1) p.hdr = [(g, leg)]) (hpol : leg.pol = 0xFFFF) :
    y.layerRx p = if y.layerTakes l p then y.layerTo l c p g else y := by
  have hstep : y.layerRxAt p l = if y.layerTakes l p then y.layerTo l c p g else y := by
    unfold Sys.layerRxAt
    rw [hdec]
    dsimp only
    rw [hhit]
    exact Sys.eachLeg_one hup hpol _
  have hkept : y.DecKept (if y.layerTakes l p then y.layerTo l c p g else y) := by
    split
    · exact Sys.DecKept.layerTo ..
    · exact Sys.DecKept.refl y
  have hlist : y.layerRx p = y.each y.lyList (Sys.layerRxAt p) := rfl
  rw [hlist, ← hstep]
  refine Sys.each_only (I := fun z => ∀ j, j ≠ l → z.lyDec j = none) List.nodup_range (List.mem_range.mpr hl)
    (fun j _ hj z hz => Sys.layerRxAt_none (hz j hj) p) honly fun j hj => ?_
  rw [hstep, hkept.lyDec]
  exact honly j hj

/-! ### What DP0 takes up (R172, R179, R184, R185) -/

theorem Sys.decBump_none {y : Sys} {l c : Nat} (h : ∀ b ∈ (y.ly l).pool, b.out = false) : y.decBump l c = y := by
  have hnone : (y.ly l).pool.filter (fun b => b.out) = [] :=
    List.filter_eq_nil_iff.mpr fun b hb => by rw [h b hb]; exact Bool.false_ne_true
  unfold Sys.decBump
  dsimp only
  rw [hnone]
  rfl

theorem Sys.decFlush_none {y : Sys} {l c : Nat} (h : ∀ b ∈ (y.ly l).pool, b.out = false) : y.decFlush l c = y :=
  Sys.each_still fun _ _ => Sys.decBump_none h

theorem Sys.decBumps_none {y : Sys} {l c n : Nat} {p : CodedPic} {full : Bool} (h : ∀ b ∈ (y.ly l).pool, b.out = false) :
    y.decBumps l c p full n = y := by
  cases n with
  | zero => rfl
  | succ n =>
    have hnone : (y.ly l).pool.filter (fun b => b.out) = [] :=
      List.filter_eq_nil_iff.mpr fun b hb => by rw [h b hb]; exact Bool.false_ne_true
    exact if_pos hnone

/-- A picture that decoding starts at gets a buffer of a pool that has a free one. -/
theorem Sys.decTake_first {y : Sys} {l c : Nat} {p : CodedPic} (hout : ∀ b ∈ (y.ly l).pool, b.out = false) (hfree : ∃ b ∈ (y.ly l).pool, b.free = true) :
    ∃ pool, (∃ b ∈ pool, b.recon = true ∧ b.poc = p.poc) ∧ ((y.decTake l c p true).ly l) = { y.ly l with pool := pool, missing := [] } ∧
      (y.decTake l c p true).live = y.live := by
  obtain ⟨b, hb, hbfree⟩ := hfree
  obtain ⟨j, hj⟩ := List.mem_iff_getElem?.mp hb
  have hlt : j < (y.ly l).pool.length := (List.getElem?_eq_some_iff.mp hj).1
  have hfind : ((List.range (y.ly l).pool.length).find? fun i => ((y.ly l).pool.getD i {}).free).isSome = true :=
    List.find?_isSome.mpr ⟨j, List.mem_range.mpr hlt, by rw [List.getD_eq_getElem?_getD, hj]; exact hbfree⟩
  obtain ⟨i, hi⟩ := Option.isSome_iff_exists.mp hfind
  have hilt : i < (y.ly l).pool.length := List.mem_range.mp (List.mem_of_find?_eq_some hi)
  have hmarks : ∃ v : Sys, (v.ly l).pool.length = (y.ly l).pool.length ∧ v.live = y.live ∧
      (∃ pool, v.ly l = { y.ly l with pool := pool, missing := [] }) ∧
      y.decTake l c p true = v.setLy l { v.ly l with pool := (v.ly l).pool.set i { poc := p.poc, recon := true } } := by
    unfold Sys.decTake
    dsimp only
    rw [if_pos (Or.inr rfl), hi, Sys.decFlush_none hout]
    dsimp only [Option.or]
    refine ⟨_, ?_, ?_, ?_, rfl⟩
    · rw [Sys.onLy_self]
      split
      · rw [Sys.onLy_self, List.length_map, List.length_map]
      · rw [List.length_map]
    · split <;> rfl
    · rw [Sys.onLy_self]
      split
      · rw [Sys.onLy_self]
        exact ⟨_, rfl⟩
      · exact ⟨_, rfl⟩
  obtain ⟨v, hlen, hlive, ⟨pool, hv⟩, htake⟩ := hmarks
  refine ⟨(v.ly l).pool.set i { poc := p.poc, recon := true }, ⟨_, List.mem_set (by rw [hlen]; exact hilt) _, rfl, rfl⟩, ?_, ?_⟩
  · rw [htake, Sys.setLy_self, hv]
  · rw [htake]
    exact hlive

section

variable {v : Sys} {l c : Nat} {u : DecUnit} (hqueue : (v.ly l).queue = [u]) (hwait : v.nat (Ob.DecState l) = 1)
include hqueue hwait

/-- An entry point that DP0 supports starts the decoding. -/
theorem Sys.decNext_starts (hentry : isEntry u.pic = true) (hsup : v.decSupported l u.pic = true) :
    ∃ at_, v.decNext l c 1 =
      ((v.setLy l { v.ly l with recovery := some at_, missing := [], cra := u.pic.kind == .cra }).setInt (Ob.DecState l) 3).decTake l c u.pic true := by
  unfold Sys.decNext
  dsimp only
  rw [hqueue]
  dsimp only
  rw [if_pos hwait, if_pos hentry, if_pos hsup]
  exact ⟨_, rfl⟩

/-- An entry point of a stream that DP0 does not support stops the source. -/
theorem Sys.decNext_stops (hentry : isEntry u.pic = true) (hsup : v.decSupported l u.pic = false) :
    v.decNext l c 1 = (v.setLy l { v.ly l with queue := [] }).decStop l 2 none := by
  unfold Sys.decNext
  dsimp only
  rw [hqueue]
  dsimp only
  rw [if_pos hwait, if_pos hentry, if_neg (by rw [hsup]; exact Bool.false_ne_true)]
  rfl

/-- A source that waits for an entry point passes over other pictures. -/
theorem Sys.decNext_skips (hentry : isEntry u.pic = false) : v.decNext l c 1 = v.setLy l { v.ly l with queue := [] } := by
  unfold Sys.decNext
  dsimp only
  rw [hqueue]
  dsimp only
  rw [if_pos hwait, if_neg (by rw [hentry]; exact Bool.false_ne_true)]
  rfl

end

theorem clearPool_clear {l : List DecBuf} {b : DecBuf} (h : b ∈ clearPool l) : b.mark = 0 ∧ b.avail = false := by
  obtain ⟨a, -, rfl⟩ := List.mem_map.mp h
  split
  · exact ⟨rfl, rfl⟩
  · exact ⟨rfl, rfl⟩

/-- A source of an unsupported stream is stopped (R179, R184). -/
theorem Sys.decStop_unsupported (l : Nat) (y : Sys) : (∀ b ∈ ((y.decStop l 2 none).ly l).pool, b.mark = 0 ∧ b.avail = false) ∧
    ((y.decStop l 2 none).ly l).queue = (y.ly l).queue ∧ (y.decStop l 2 none).nat (Ob.DecState l) = 1 ∧
    (y.decStop l 2 none).nat (Ob.DecStopCause l) = 2 ∧
    (y.decStop l 2 none).nat (Ob.DecStops l) = (y.nat (Ob.DecStops l) + 1) % wrapOf y.part.dies (Ob.DecStops l) ∧
    (y.decStop l 2 none).evs.raised = y.evs.raised ++ [{ code := 0x0C05, die := l / 16, arg := l, t := y.now }] := by
  have heq : y.decStop l 2 none = (((((y.setInt (Ob.DecStopCause l) 2).bump (Ob.DecStops l) 1).setInt (Ob.DecState l) 1).onLy l
      fun x => { x with pool := clearPool x.pool, missing := [], recovery := none, resync := true, cra := false }).raise 0x0C05 (l / 16) l) := rfl
  have hcause : Ob.DecStopCause l ≠ Ob.DecState l := by simp only [Ob.DecStopCause, Ob.DecState]; omega
  have hcauses : Ob.DecStopCause l ≠ Ob.DecStops l := by simp only [Ob.DecStopCause, Ob.DecStops]; omega
  have hstops : Ob.DecStops l ≠ Ob.DecState l := by simp only [Ob.DecStops, Ob.DecState]; omega
  have hbefore : (y.setInt (Ob.DecStopCause l) 2).nat (Ob.DecStops l) = y.nat (Ob.DecStops l) :=
    congrArg Val.nat (Sys.setInt_other _ _ _ _ hcauses.symm)
  rw [heq]
  refine ⟨fun b hb => ?_, ?_, ?_, ?_, ?_, ?_⟩
  · rw [Sys.raise_ly_read, Sys.onLy_self] at hb
    exact clearPool_clear hb
  · rw [Sys.raise_ly_read, Sys.onLy_self]
    rfl
  · rw [Sys.raise_nat_read, Sys.onLy_nat_read]
    exact Sys.setInt_nat _ _ 1
  · rw [Sys.raise_nat_read, Sys.onLy_nat_read]
    refine (congrArg Val.nat (Sys.setInt_other _ _ _ _ hcause)).trans ((congrArg Val.nat (Sys.bump_other _ _ _ _ hcauses)).trans ?_)
    exact Sys.setInt_nat _ _ 2
  · rw [Sys.raise_nat_read, Sys.onLy_nat_read]
    refine (congrArg Val.nat (Sys.setInt_other _ _ _ _ hstops)).trans ((Sys.bump_nat ..).trans ?_)
    rw [hbefore]
    rfl
  · rw [Sys.raise_raised]
    rfl

/-! ### An access unit that waits (R177, R178) -/

section

variable {l c leg : Nat} {p : LayerPkt} {pic : CodedPic} {y : Sys} (hwhole : (p.begins && (y.ly l).open_) = false) (hleg : y.nat (Ob.DecLegMode l) = 0)

theorem Sys.auCounted_open (l leg : Nat) (y : Sys) : ((y.auCounted l leg).ly l).open_ = (y.ly l).open_ := by
  obtain ⟨a, b, hab⟩ := y.auCounted_ly l leg
  rw [hab]

include hwhole in
theorem Sys.auCut_counted : (y.auCounted l leg).auCut l p = y.auCounted l leg :=
  Sys.auCut_whole (by rw [Sys.auCounted_open]; exact hwhole)

include hwhole hleg in
/-- A completed access unit of a source with one leg stands behind those that wait. -/
theorem Sys.auQueued_ly : ∃ u : DecUnit, u.pic = pic ∧ u.at_ = y.now ∧ (pic.damaged = true → u.damaged = true) ∧
    ((y.auQueued l c leg p pic).ly l).queue = (y.ly l).queue ++ [u] ∧ ((y.auQueued l c leg p pic).ly l).pool = (y.ly l).pool ∧
    (y.auQueued l c leg p pic).live = y.live ∧ (y.auQueued l c leg p pic).evs = y.evs ∧ (y.auQueued l c leg p pic).part = y.part ∧
    (y.auQueued l c leg p pic).now = y.now := by
  have hqueued : y.auQueued l c leg p pic = ((y.auCounted l leg).setLy l { y.taken l c leg p with
      queue := (y.taken l c leg p).queue ++ [(y.taken l c leg p).unit pic y.now] }).onLy l fun x => { x with auA := 0, auB := 0 } := by
    unfold Sys.auQueued
    rw [Sys.auCut_counted hwhole]
    exact if_neg fun h : y.nat (Ob.DecLegMode l) = 1 => by rw [hleg] at h; exact absurd h (by decide)
  rw [hqueued]
  refine ⟨(y.taken l c leg p).unit pic y.now, rfl, rfl, fun h => ?_, ?_, ?_, rfl, rfl, rfl, rfl⟩
  · show (pic.damaged || _) = true
    rw [h, Bool.true_or]
  · rw [Sys.onLy_self, Sys.setLy_self, Sys.taken_queue]
  · rw [Sys.onLy_self, Sys.setLy_self]
    exact Sys.taken_pool l c leg p y

end


end Sys2Proof.Machine

/-! PROOFS. Pictures that are decoded (06; R172, R181 to R185, R195), and the sources of layers as a whole. -/

namespace Sys2Proof.Machine

/-! ### Pictures that go (R183) -/

/-- The last picture that waits goes. -/
theorem Sys.decPop_last {y : Sys} {l c : Nat} {u : DecUnit} (h : (y.ly l).queue = [u]) :
    y.decPop l c = y.onLy l fun x => { x with queue := x.queue.drop 1 } := by
  have hempty : ((y.onLy l fun x => { x with queue := x.queue.drop 1 }).ly l).queue = [] := by
    rw [Sys.onLy_self]
    show (y.ly l).queue.drop 1 = []
    rw [h]
    rfl
  unfold Sys.decPop
  dsimp only
  rw [hempty]
  rfl

/-- A buffer that is given up when it was being written. -/
def DecBuf.given (b : DecBuf) : DecBuf := if b.recon then { b with recon := false, fr := none } else b

theorem DecBuf.given_recon (b : DecBuf) : b.given.recon = false := by
  unfold DecBuf.given
  cases h : b.recon with
  | true => rfl
  | false => rw [if_neg Bool.false_ne_true, h]

/-- A layer that has discarded a picture. -/
def Ly.without (p : CodedPic) (x : Ly) : Ly := { x with pool := x.pool.map DecBuf.given, missing := p.poc :: x.missing }

theorem Sys.decDiscard_eq (l : Nat) (p : CodedPic) (y : Sys) :
    y.decDiscard l p = ((y.onLy l (Ly.without p)).bump (Ob.DecPicsDamaged l) 1).raise 0x0C03 (l / 16) l := rfl

theorem Sys.decDiscard_ly (l : Nat) (p : CodedPic) (y : Sys) : (y.decDiscard l p).ly l = (y.ly l).without p := by
  rw [Sys.decDiscard_eq, Sys.raise_ly_read, Sys.bump_ly_read, Sys.onLy_self]

theorem Sys.decDiscard_count (l : Nat) (p : CodedPic) (y : Sys) :
    (y.decDiscard l p).nat (Ob.DecPicsDamaged l) = (y.nat (Ob.DecPicsDamaged l) + 1) % wrapOf y.part.dies (Ob.DecPicsDamaged l) := by
  rw [Sys.decDiscard_eq, Sys.raise_nat_read, Sys.bump_nat]
  rfl

theorem Sys.decDiscard_raised (l : Nat) (p : CodedPic) (y : Sys) :
    (y.decDiscard l p).evs.raised = y.evs.raised ++ [{ code := 0x0C03, die := l / 16, arg := l, t := y.now }] := by
  rw [Sys.decDiscard_eq, Sys.raise_raised]
  rfl

/-- A layer whose one picture went. -/
def Ly.popped (x : Ly) : Ly := { x with queue := x.queue.drop 1 }

section

variable {y : Sys} {l c : Nat} {u : DecUnit} (hdec : y.lyDec l = some c) (hqueue : (y.ly l).queue = [u])
include hdec hqueue

theorem Sys.decComplete_waits (hturn : y.decTurn l u = false) (ok : Bool) : y.decComplete l ok = y := by
  unfold Sys.decComplete
  rw [hdec, hqueue]
  dsimp only
  exact if_pos (by rw [hturn]; exact Bool.false_ne_true)

/-- A picture that is damaged, or of which nothing was written, is discarded. -/
theorem Sys.decComplete_discards {ok : Bool} (hturn : y.decTurn l u = true)
    (hbad : ok = false ∨ u.damaged = true ∨ ∀ b ∈ (y.ly l).pool, b.recon = false) :
    y.decComplete l ok = (y.decDiscard l u.pic).onLy l Ly.popped := by
  have hcond : (!ok || u.damaged || !(y.ly l).pool.any fun b => b.recon) = true := by
    rcases hbad with h | h | h
    · rw [h]
      rfl
    · rw [h, Bool.or_true, Bool.true_or]
    · have hnone : ((y.ly l).pool.any fun b => b.recon) = false :=
        List.any_eq_false.mpr fun b hb => by rw [h b hb]; exact Bool.false_ne_true
      rw [hnone, Bool.not_false, Bool.or_true]
  unfold Sys.decComplete
  rw [hdec, hqueue]
  dsimp only
  rw [if_neg (not_not.mpr hturn), if_pos hcond]
  exact Sys.decPop_last (u := u) (by rw [Sys.decDiscard_ly]; exact hqueue)

theorem Sys.decOverrun_early (hearly : y.now < u.at_ + 2 * lyPeriod y.val l) : y.decOverrun l = y := by
  unfold Sys.decOverrun
  rw [hdec, hqueue]
  exact if_neg (not_le.mpr hearly)

theorem Sys.decOverrun_late (hlate : u.at_ + 2 * lyPeriod y.val l ≤ y.now) :
    y.decOverrun l = ((y.decDiscard l u.pic).raise 0x0C07 (l / 16) l).onLy l Ly.popped := by
  unfold Sys.decOverrun
  rw [hdec, hqueue]
  refine (if_pos hlate).trans ?_
  exact Sys.decPop_last (u := u) (by rw [Sys.raise_ly_read, Sys.decDiscard_ly]; exact hqueue)

end

/-! ### Pictures that are shown (R181, R182) -/

/-- A buffer whose picture is shown at an instant when it is the next. -/
def DecBuf.show (p now : Int) (b : DecBuf) : DecBuf :=
  if b.out ∧ b.poc = p then { b with out := false, avail := true, fr := b.fr.map fun f => { f with done := some now } } else b

/-- `z` is `y` behind the output of the picture `p` of layer `l`. -/
structure Sys.Shows (l : Nat) (p now : Int) (y z : Sys) : Prop where
  ly : ∃ r, z.ly l = { y.ly l with pool := (y.ly l).pool.map (DecBuf.show p now), resync := r }
  val : ∀ k, k ≠ Ob.DecState l → z.val k = y.val k
  state : y.nat (Ob.DecState l) = 3 → z.nat (Ob.DecState l) = 2
  resynced : (y.ly l).resync = true → { code := 0x0C04, die := l / 16, arg := l, t := y.now } ∈ z.evs.raised

theorem Sys.decBump_one {y : Sys} {l c : Nat} {b : DecBuf} (hout : (y.ly l).pool.filter (fun b => b.out) = [b]) :
    y.Shows l b.poc (y.cxNow c) (y.decBump l c) := by
  have hpool : ((y.setLy l { y.ly l with pool := (y.ly l).pool.map (DecBuf.show b.poc (y.cxNow c)) }).ly l) =
      { y.ly l with pool := (y.ly l).pool.map (DecBuf.show b.poc (y.cxNow c)) } := Sys.setLy_self ..
  have hbump : ∃ v : Sys, v = (if y.nat (Ob.DecState l) = 3 then
        (y.setLy l { y.ly l with pool := (y.ly l).pool.map (DecBuf.show b.poc (y.cxNow c)) }).setInt (Ob.DecState l) 2
      else y.setLy l { y.ly l with pool := (y.ly l).pool.map (DecBuf.show b.poc (y.cxNow c)) }) ∧
      y.decBump l c = if (y.ly l).resync then (v.onLy l fun x => { x with resync := false }).raise 0x0C04 (l / 16) l else v := by
    unfold Sys.decBump
    dsimp only
    rw [hout]
    exact ⟨_, rfl, rfl⟩
  obtain ⟨v, hv, hbump⟩ := hbump
  have hvly : v.ly l = { y.ly l with pool := (y.ly l).pool.map (DecBuf.show b.poc (y.cxNow c)) } := by
    rw [hv]
    split
    · rw [Sys.setInt_ly_read, hpool]
    · exact hpool
  have hvval : ∀ k, k ≠ Ob.DecState l → v.val k = y.val k := fun k hk => by
    rw [hv]
    split
    · rw [Sys.setInt_other _ _ _ _ hk]
      rfl
    · rfl
  have hvstate : y.nat (Ob.DecState l) = 3 → v.nat (Ob.DecState l) = 2 := fun h => by
    rw [hv, if_pos h]
    exact Sys.setInt_nat _ _ 2
  have hvnow : v.now = y.now := by
    rw [hv]
    split <;> rfl
  rw [hbump]
  split
  · refine ⟨⟨false, ?_⟩, hvval, hvstate, fun _ => ?_⟩
    · rw [Sys.raise_ly_read, Sys.onLy_self, hvly]
    · rw [Sys.raise_raised, Sys.onLy_now, hvnow]
      exact List.mem_append_right _ (List.mem_singleton.mpr rfl)
  · next hno =>
    exact ⟨⟨(y.ly l).resync, hvly⟩, hvval, hvstate, fun h => absurd h hno⟩

theorem DecBuf.show_self {b : DecBuf} {now : Int} (h : b.out = true) :
    b.show b.poc now = { b with out := false, avail := true, fr := b.fr.map fun f => { f with done := some now } } := if_pos ⟨h, rfl⟩

/-- Of a pool of which one picture waits for output, none waits behind its output. -/
theorem DecBuf.show_none {pool : List DecBuf} {b : DecBuf} {now : Int} (hout : pool.filter (fun b => b.out) = [b]) :
    ∀ a ∈ pool.map (DecBuf.show b.poc now), a.out = false := by
  intro a ha
  obtain ⟨e, he, rfl⟩ := List.mem_map.mp ha
  unfold DecBuf.show
  split
  · rfl
  · next hno =>
    cases hwait : e.out with
    | false => rfl
    | true =>
      have hmem : e ∈ pool.filter fun b => b.out := List.mem_filter.mpr ⟨he, hwait⟩
      rw [hout, List.mem_singleton] at hmem
      exact absurd ⟨hwait, congrArg DecBuf.poc hmem⟩ hno

/-- Where one picture waits for output, either it is shown or all stays; it is shown when no reordering is allowed. -/
theorem Sys.decBumps_one {y : Sys} {l c n : Nat} {p : CodedPic} {b : DecBuf} (hout : (y.ly l).pool.filter (fun b => b.out) = [b]) :
    (y.decBumps l c p false (n + 1) = y ∧ p.reorder ≠ 0) ∨ y.decBumps l c p false (n + 1) = y.decBump l c := by
  have hshown := Sys.decBump_one (c := c) hout
  obtain ⟨r, hly⟩ := hshown.ly
  have hdone : (y.decBump l c).decBumps l c p false n = y.decBump l c := Sys.decBumps_none (by
    rw [hly]
    exact DecBuf.show_none hout)
  unfold Sys.decBumps
  dsimp only
  rw [hout, if_neg (List.cons_ne_nil b [])]
  split
  · exact Or.inr hdone
  · next hno =>
    refine Or.inl ⟨rfl, fun h => hno (Or.inl ?_)⟩
    rw [h]
    exact Nat.one_pos

/-! ### A picture that is decoded (R172, R181, R185) -/

/-- Whether decoding has reached the recovery point of a layer with a picture. -/
def Ly.reached (x : Ly) (p : CodedPic) : Bool :=
  match x.recovery with
  | some r => decide (r ≤ p.poc)
  | none => true

/-- Whether a picture is shown. -/
def Ly.shows (x : Ly) (p : CodedPic) : Bool := x.reached p && p.output && !(p.kind == .rasl && x.cra)

/-- A layer behind a picture that was decoded, its buffer apart. -/
def Ly.past (x : Ly) (p : CodedPic) : Ly :=
  { x with cra := if (p.kind = .idr ∨ p.kind = .cra) ∧ ¬(x.recovery == some p.poc && decide (p.kind = .idr ∨ p.kind = .cra)) = true then false else x.cra,
           recovery := if x.reached p then none else x.recovery }

/-- The frame of a picture that was decoded. -/
def Ly.frameOf (x : Ly) (u : DecUnit) : LyFrame :=
  { id := x.nextId, decoded := true, wd := u.pic.width, ht := u.pic.height, age := some u.age, chroma := u.pic.chroma, depth := u.pic.depth,
    vui := u.pic.vui, settledRows := ceilDiv u.pic.height 64 }

/-- A buffer of a pool whose picture is complete. -/
def DecBuf.stored (p : CodedPic) (shown : Bool) (fr : LyFrame) (b : DecBuf) : DecBuf :=
  if b.recon then { b with recon := false, mark := 1, out := shown, fr := some fr }
  else if shown && b.out && decide (p.poc < b.poc) then { b with waits := b.waits + 1 } else b

/-- A layer that has stored a picture. -/
def Ly.storing (x : Ly) (u : DecUnit) (shown : Bool) : Ly :=
  { x with nextId := x.nextId + 1, missing := x.missing.filter (fun m => m != u.pic.poc), pool := x.pool.map (DecBuf.stored u.pic shown (x.frameOf u)) }

/-- A picture that was decoded is counted and stored. -/
def Sys.decKeeps (l : Nat) (u : DecUnit) (y : Sys) : Sys :=
  ((y.setLy l ((y.ly l).past u.pic)).bump (Ob.DecPicsDecoded l) 1).setLy l (((y.ly l).past u.pic).storing u ((y.ly l).shows u.pic))

theorem Sys.decKeeps_ly (l : Nat) (u : DecUnit) (y : Sys) :
    (y.decKeeps l u).ly l = ((y.ly l).past u.pic).storing u ((y.ly l).shows u.pic) := Sys.setLy_self ..

theorem Sys.decKeeps_kept (l : Nat) (u : DecUnit) (y : Sys) : y.DecKept (y.decKeeps l u) :=
  (((Sys.DecKept.refl y).setLy _).bump (by simp only [Ob.DecPicsDecoded]; omega)).setLy _

theorem Sys.decKeeps_other {l k : Nat} (hk : k ≠ Ob.DecPicsDecoded l) (u : DecUnit) (y : Sys) : (y.decKeeps l u).val k = y.val k := by
  rw [Sys.decKeeps, Sys.setLy_val_read, Sys.bump_other _ _ _ _ hk, Sys.setLy_val_read]

theorem Sys.decKeeps_count (l : Nat) (u : DecUnit) (y : Sys) :
    (y.decKeeps l u).nat (Ob.DecPicsDecoded l) = (y.nat (Ob.DecPicsDecoded l) + 1) % wrapOf y.part.dies (Ob.DecPicsDecoded l) := by
  rw [Sys.decKeeps, Sys.setLy_nat_read, Sys.bump_nat, Sys.setLy_nat_read, Sys.setLy_part]

theorem Sys.decKeeps_evs (l : Nat) (u : DecUnit) (y : Sys) : (y.decKeeps l u).evs = y.evs := rfl

section

variable {y : Sys} {l c : Nat} {u : DecUnit} {b : DecBuf}

/-- A sound picture of which DP0 wrote a buffer is stored, and pictures are shown. -/
theorem Sys.decComplete_keeps (hdec : y.lyDec l = some c) (hqueue : (y.ly l).queue = [u]) (hturn : y.decTurn l u = true)
    (hsound : u.damaged = false) (hrecon : (y.ly l).pool.filter (fun b => b.recon) = [b]) :
    y.decComplete l true = ((y.decKeeps l u).decBumps l c u.pic false 18).decPop l c := by
  have hany : ((y.ly l).pool.any fun b => b.recon) = true := by
    have hmem : b ∈ (y.ly l).pool.filter fun b => b.recon := by
      rw [hrecon]
      exact List.mem_singleton.mpr rfl
    exact List.any_eq_true.mpr ⟨b, List.mem_filter.mp hmem⟩
  have hstore : (((y.setLy l ((y.ly l).past u.pic)).bump (Ob.DecPicsDecoded l) 1).decStore l c u ((y.ly l).shows u.pic)) =
      (y.decKeeps l u).decBumps l c u.pic false 18 := by
    have hly : ((y.setLy l ((y.ly l).past u.pic)).bump (Ob.DecPicsDecoded l) 1).ly l = (y.ly l).past u.pic :=
      (Sys.bump_ly_read ..).trans (Sys.setLy_self ..)
    unfold Sys.decStore
    rw [hly]
    rfl
  rw [← hstore]
  unfold Sys.decComplete
  rw [hdec, hqueue]
  dsimp only
  rw [if_neg (not_not.mpr hturn), if_neg (by rw [hany, hsound]; exact Bool.false_ne_true)]
  unfold Ly.past Ly.shows Ly.reached
  rfl

variable (hrecon : (y.ly l).pool.filter (fun b => b.recon) = [b])
include hrecon

/-- The buffer of the picture holds it, marked. -/
theorem Sys.decKeeps_stored (hpoc : b.poc = u.pic.poc) : ∃ e ∈ ((y.decKeeps l u).ly l).pool, e.poc = u.pic.poc ∧ e.mark = 1 ∧ e.recon = false ∧
    e.fr = some (((y.ly l).past u.pic).frameOf u) := by
  have hmem : b ∈ (y.ly l).pool.filter fun b => b.recon := by
    rw [hrecon]
    exact List.mem_singleton.mpr rfl
  obtain ⟨hb, hbrecon⟩ := List.mem_filter.mp hmem
  refine ⟨b.stored u.pic ((y.ly l).shows u.pic) (((y.ly l).past u.pic).frameOf u), ?_, ?_⟩
  · rw [Sys.decKeeps_ly]
    exact List.mem_map_of_mem hb
  · have heq : b.stored u.pic ((y.ly l).shows u.pic) (((y.ly l).past u.pic).frameOf u) =
        { b with recon := false, mark := 1, out := (y.ly l).shows u.pic, fr := some (((y.ly l).past u.pic).frameOf u) } := if_pos hbrecon
    rw [heq]
    exact ⟨hpoc, rfl, rfl, rfl⟩

/-- With no other picture waiting for output, the one decoded is the only one that may. -/
theorem Sys.decKeeps_out (hout : ∀ b ∈ (y.ly l).pool, b.out = false) : ((y.decKeeps l u).ly l).pool.filter (fun b => b.out) =
    if (y.ly l).shows u.pic then [b.stored u.pic ((y.ly l).shows u.pic) (((y.ly l).past u.pic).frameOf u)] else [] := by
  have hstored : ∀ e ∈ (y.ly l).pool,
      (e.stored u.pic ((y.ly l).shows u.pic) (((y.ly l).past u.pic).frameOf u)).out = (e.recon && (y.ly l).shows u.pic) := by
    intro e he
    unfold DecBuf.stored
    cases hr : e.recon with
    | true => rfl
    | false =>
      rw [if_neg Bool.false_ne_true, hout e he, Bool.and_false, Bool.false_and, if_neg Bool.false_ne_true]
      exact hout e he
  have hfilter : (y.ly l).pool.filter ((fun b => b.out) ∘ DecBuf.stored u.pic ((y.ly l).shows u.pic) (((y.ly l).past u.pic).frameOf u)) =
      if (y.ly l).shows u.pic then [b] else [] := by
    refine (List.filter_congr hstored).trans ?_
    cases (y.ly l).shows u.pic with
    | true =>
      rw [if_pos rfl, ← hrecon]
      exact List.filter_congr fun e _ => Bool.and_true _
    | false =>
      rw [if_neg Bool.false_ne_true]
      exact List.filter_eq_nil_iff.mpr fun e _ => by rw [Bool.and_false]; exact Bool.false_ne_true
  rw [Sys.decKeeps_ly]
  refine (List.filter_map).trans ?_
  refine (congrArg _ hfilter).trans ?_
  split <;> rfl

end

/-- What showing a buffer leaves. -/
theorem DecBuf.show_keeps (p now : Int) (b : DecBuf) :
    (b.show p now).poc = b.poc ∧ (b.show p now).mark = b.mark ∧ (b.show p now).recon = b.recon := by
  unfold DecBuf.show
  split <;> exact ⟨rfl, rfl, rfl⟩

/-- A picture that is stored can be referred to, shown or not. -/
theorem Sys.decKeeps_hasRef {y : Sys} {l c n : Nat} {u : DecUnit} {b : DecBuf} (hrecon : (y.ly l).pool.filter (fun b => b.recon) = [b])
    (hpoc : b.poc = u.pic.poc) (hout : ∀ b ∈ (y.ly l).pool, b.out = false) :
    (((y.decKeeps l u).decBumps l c u.pic false (n + 1)).ly l).hasRef u.pic.poc = true ∧
      (((y.decKeeps l u).decBumps l c u.pic false (n + 1)).ly l).queue = (y.ly l).queue := by
  obtain ⟨e, he, hepoc, hemark, herecon, -⟩ := Sys.decKeeps_stored hrecon hpoc
  have hmissing : (!((y.decKeeps l u).ly l).missing.contains u.pic.poc) = true := by
    rw [Sys.decKeeps_ly, Bool.not_eq_true', List.contains_eq_mem]
    refine decide_eq_false fun hmem => ?_
    exact absurd rfl (bne_iff_ne.mp (List.mem_filter.mp hmem).2)
  have href : ((y.decKeeps l u).ly l).hasRef u.pic.poc = true := by
    refine Bool.and_eq_true_iff.mpr ⟨hmissing, List.any_eq_true.mpr ⟨e, he, ?_⟩⟩
    rw [hepoc, hemark, herecon, beq_self_eq_true]
    rfl
  have hqueue : ((y.decKeeps l u).ly l).queue = (y.ly l).queue := by
    rw [Sys.decKeeps_ly]
    rfl
  have hone := Sys.decKeeps_out (u := u) hrecon hout
  cases hs : (y.ly l).shows u.pic with
  | false =>
    rw [hs, if_neg Bool.false_ne_true] at hone
    rw [Sys.decBumps_none fun a ha => Bool.eq_false_iff.mpr fun h => List.filter_eq_nil_iff.mp hone a ha h]
    exact ⟨href, hqueue⟩
  | true =>
    rw [hs, if_pos rfl] at hone
    rcases Sys.decBumps_one (c := c) (n := n) (p := u.pic) hone with ⟨heq, -⟩ | heq
    · rw [heq]
      exact ⟨href, hqueue⟩
    · obtain ⟨r, hly⟩ := (Sys.decBump_one (c := c) hone).ly
      rw [heq, hly]
      refine ⟨Bool.and_eq_true_iff.mpr ⟨hmissing, List.any_eq_true.mpr ⟨_, List.mem_map_of_mem he, ?_⟩⟩, hqueue⟩
      obtain ⟨h1, h2, h3⟩ := e.show_keeps ((b.stored u.pic true (((y.ly l).past u.pic).frameOf u)).poc) ((y.decKeeps l u).cxNow c)
      rw [h1, h2, h3, hepoc, hemark, herecon, beq_self_eq_true]
      rfl


section

variable {y : Sys} {l c n : Nat} {u : DecUnit} {b : DecBuf} (hrecon : (y.ly l).pool.filter (fun b => b.recon) = [b])
  (hout : ∀ b ∈ (y.ly l).pool, b.out = false)
include hrecon hout

/-- A picture that is not shown leaves what Opal may draw, the decoder's state and the events. -/
theorem Sys.decKeeps_hidden (hs : (y.ly l).shows u.pic = false) :
    (((y.decKeeps l u).decBumps l c u.pic false n).ly l).frames = (y.ly l).frames ∧
    ((y.decKeeps l u).decBumps l c u.pic false n).nat (Ob.DecState l) = y.nat (Ob.DecState l) ∧
    ((y.decKeeps l u).decBumps l c u.pic false n).evs = y.evs ∧
    ∀ b ∈ (((y.decKeeps l u).decBumps l c u.pic false n).ly l).pool, b.out = false := by
  have hone := Sys.decKeeps_out (u := u) hrecon hout
  rw [hs, if_neg Bool.false_ne_true] at hone
  have hnone : ∀ a ∈ ((y.decKeeps l u).ly l).pool, a.out = false :=
    fun a ha => Bool.eq_false_iff.mpr fun h => List.filter_eq_nil_iff.mp hone a ha h
  rw [Sys.decBumps_none hnone]
  refine ⟨?_, congrArg Val.nat (Sys.decKeeps_other (by simp only [Ob.DecPicsDecoded, Ob.DecState]; omega) u y), Sys.decKeeps_evs l u y, hnone⟩
  rw [Sys.decKeeps_ly]
  rfl

/-- A picture that is shown, with no reordering, is shown at once. -/
theorem Sys.decKeeps_shown (hs : (y.ly l).shows u.pic = true) (hreorder : u.pic.reorder = 0) :
    (∃ fr ∈ (((y.decKeeps l u).decBumps l c u.pic false (n + 1)).ly l).complete, fr.decoded = true ∧ fr.age = some u.age ∧
      fr.wd = u.pic.width ∧ fr.ht = u.pic.height ∧ fr.done = some (y.cxNow c)) ∧
    (y.nat (Ob.DecState l) = 3 → ((y.decKeeps l u).decBumps l c u.pic false (n + 1)).nat (Ob.DecState l) = 2) ∧
    ((y.ly l).resync = true →
      { code := 0x0C04, die := l / 16, arg := l, t := y.now } ∈ ((y.decKeeps l u).decBumps l c u.pic false (n + 1)).evs.raised) := by
  have hone := Sys.decKeeps_out (u := u) hrecon hout
  rw [hs, if_pos rfl] at hone
  have hkept := Sys.decKeeps_kept l u y
  rcases Sys.decBumps_one (c := c) (n := n) (p := u.pic) hone with ⟨-, hne⟩ | heq
  · exact absurd hreorder hne
  · have hshows := Sys.decBump_one (c := c) hone
    obtain ⟨r, hly⟩ := hshows.ly
    rw [heq]
    refine ⟨?_, fun h => hshows.state ?_, fun h => ?_⟩
    · have hmem : b.stored u.pic true (((y.ly l).past u.pic).frameOf u) ∈ ((y.decKeeps l u).ly l).pool := by
        have hin : b.stored u.pic true (((y.ly l).past u.pic).frameOf u) ∈ ((y.decKeeps l u).ly l).pool.filter fun b => b.out := by
          rw [hone]
          exact List.mem_singleton.mpr rfl
        exact (List.mem_filter.mp hin).1
      have hbrecon : b.recon = true := by
        have hin : b ∈ (y.ly l).pool.filter fun b => b.recon := by
          rw [hrecon]
          exact List.mem_singleton.mpr rfl
        exact (List.mem_filter.mp hin).2
      refine ⟨{ ((y.ly l).past u.pic).frameOf u with done := some (y.cxNow c) }, ?_, rfl, rfl, rfl, rfl, rfl⟩
      rw [hly, hkept.cxNow]
      refine List.mem_append_right _ (List.mem_filterMap.mpr ⟨_, List.mem_map_of_mem hmem, ?_⟩)
      have hstored : b.stored u.pic true (((y.ly l).past u.pic).frameOf u) =
          { b with recon := false, mark := 1, out := true, fr := some (((y.ly l).past u.pic).frameOf u) } := if_pos hbrecon
      rw [DecBuf.show_self (congrArg DecBuf.out hstored)]
      exact congrArg (fun e : DecBuf => e.fr.map fun f => { f with done := some (y.cxNow c) }) hstored
    · rw [← h]
      exact congrArg Val.nat (Sys.decKeeps_other (by simp only [Ob.DecPicsDecoded, Ob.DecState]; omega) u y)
    · rw [← hkept.now]
      exact hshows.resynced (by rw [Sys.decKeeps_ly]; exact h)

/-- The count of pictures is of the picture alone. -/
theorem Sys.decKeeps_counted : ((y.decKeeps l u).decBumps l c u.pic false (n + 1)).nat (Ob.DecPicsDecoded l) =
    (y.nat (Ob.DecPicsDecoded l) + 1) % wrapOf y.part.dies (Ob.DecPicsDecoded l) := by
  have hone := Sys.decKeeps_out (u := u) hrecon hout
  rw [← Sys.decKeeps_count l u y]
  cases hs : (y.ly l).shows u.pic with
  | false =>
    rw [hs, if_neg Bool.false_ne_true] at hone
    rw [Sys.decBumps_none fun a ha => Bool.eq_false_iff.mpr fun h => List.filter_eq_nil_iff.mp hone a ha h]
  | true =>
    rw [hs, if_pos rfl] at hone
    rcases Sys.decBumps_one (c := c) (n := n) (p := u.pic) hone with ⟨heq, -⟩ | heq
    · rw [heq]
    · rw [heq]
      exact congrArg Val.nat ((Sys.decBump_one (c := c) hone).val _ (by simp only [Ob.DecPicsDecoded, Ob.DecState]; omega))

end

theorem Ly.shows_reached {x : Ly} {p : CodedPic} (hreached : ∀ r, x.recovery = some r → r ≤ p.poc) (hout : p.output = true) (hkind : p.kind ≠ .rasl) :
    x.shows p = true := by
  have h : x.reached p = true := by
    unfold Ly.reached
    cases hr : x.recovery with
    | none => rfl
    | some r => exact decide_eq_true (hreached r hr)
  have hk : (p.kind == .rasl) = false := by
    cases hkk : p.kind with
    | rasl => exact absurd hkk hkind
    | _ => rfl
  rw [Ly.shows, h, hout, hk]
  rfl

theorem Ly.shows_not {x : Ly} {p : CodedPic} (h : (∃ r, x.recovery = some r ∧ p.poc < r) ∨ p.output = false) : x.shows p = false := by
  unfold Ly.shows
  rcases h with ⟨r, hr, hlt⟩ | h
  · have hn : x.reached p = false := by
      unfold Ly.reached
      rw [hr]
      exact decide_eq_false (not_le.mpr hlt)
    rw [hn]
    rfl
  · rw [h, Bool.and_false, Bool.false_and]

/-- A layer that discarded its picture writes no buffer. -/
theorem Ly.without_recon {x : Ly} {p : CodedPic} : ∀ b ∈ (x.without p).pool, b.recon = false := fun b hb => by
  obtain ⟨a, -, rfl⟩ := List.mem_map.mp hb
  exact a.given_recon

/-! ### What a packet makes of its source (R178, R179, R183) -/

theorem Sys.decSupported_of_live {y z : Sys} (hlive : z.live = y.live) (hpart : z.part = y.part) (l : Nat) (p : CodedPic) :
    z.decSupported l p = y.decSupported l p := by
  unfold Sys.decSupported
  simp only [Sys.nat_of_live hpart.symm hlive.symm]

section

variable {l c leg : Nat} {p : LayerPkt} {pic : CodedPic} {y : Sys}
  (hnew : (y.ly l).seen.contains (extendSeq (y.ly l).ext p.seq) = false)
include hnew

/-- A packet that the next access unit begins with damages the one it cuts short. -/
theorem Sys.layerTo_cut (hbegins : p.begins = true) (hopen : (y.ly l).open_ = true) (hmore : p.complete = none) :
    (y.layerTo l c p leg).nat (Ob.DecPicsDamaged l) = (y.nat (Ob.DecPicsDamaged l) + 1) % wrapOf y.part.dies (Ob.DecPicsDamaged l) ∧
    (y.layerTo l c p leg).evs.raised = y.evs.raised ++ [{ code := 0x0C03, die := l / 16, arg := l, t := y.now }] := by
  have hcut : (y.auCounted l leg).auCut l p = (y.auCounted l leg).decDamaged l :=
    if_pos (by rw [Sys.auCounted_open, hbegins, hopen]; rfl)
  rw [Sys.layerTo_more hnew hmore, hcut]
  unfold Sys.decDamaged
  refine ⟨?_, ?_⟩
  · rw [Sys.setLy_nat_read, Sys.raise_nat_read, Sys.bump_nat]
    rfl
  · rw [Sys.setLy_evs, Sys.raise_raised]
    rfl

variable (hwhole : (p.begins && (y.ly l).open_) = false)
include hwhole

/-- A packet that does not end its access unit is noted. -/
theorem Sys.layerTo_noted (hmore : p.complete = none) :
    ((y.layerTo l c p leg).ly l).open_ = true ∧ ((y.layerTo l c p leg).ly l).seen.contains (extendSeq (y.ly l).ext p.seq) = true ∧
    ((y.layerTo l c p leg).ly l).queue = (y.ly l).queue ∧ ((y.layerTo l c p leg).ly l).pool = (y.ly l).pool ∧
    (y.layerTo l c p leg).live = y.live ∧ (y.layerTo l c p leg).evs = y.evs := by
  rw [Sys.layerTo_more hnew hmore, Sys.auCut_counted hwhole, Sys.setLy_self]
  refine ⟨?_, ?_, Sys.taken_queue .., Sys.taken_pool .., rfl, rfl⟩
  · show p.complete.isNone = true
    rw [hmore]
    rfl
  · rw [Sys.taken_seen, List.contains_eq_mem]
    exact decide_eq_true (List.mem_cons_self ..)

variable (hleg : y.nat (Ob.DecLegMode l) = 0) (hlast : p.complete = some pic)
include hleg hlast

/-- An access unit behind others waits. -/
theorem Sys.layerTo_waits (hbusy : (y.ly l).queue ≠ []) : ∃ u : DecUnit, ((y.layerTo l c p leg).ly l).queue = (y.ly l).queue ++ [u] ∧
    u.pic = pic ∧ u.at_ = y.now ∧ (pic.damaged = true → u.damaged = true) ∧ (y.layerTo l c p leg).live = y.live ∧ (y.layerTo l c p leg).evs = y.evs := by
  obtain ⟨u, hpic, hat, hdam, hqueue, -, hlive, hevs, -, -⟩ := Sys.auQueued_ly (c := c) (leg := leg) (pic := pic) hwhole hleg
  rw [Sys.layerTo_last hnew hlast, if_neg (by rw [List.isEmpty_iff]; exact hbusy)]
  exact ⟨u, hqueue, hpic, hat, hdam, hlive, hevs⟩

variable (hidle : (y.ly l).queue = []) (hwait : y.nat (Ob.DecState l) = 1)
include hidle hwait

/-- What DP0 is asked when an access unit completes that is the only one. -/
theorem Sys.layerTo_next : ∃ (v : Sys) (u : DecUnit), y.layerTo l c p leg = v.decNext l c 1 ∧ u.pic = pic ∧ (v.ly l).queue = [u] ∧
    (v.ly l).pool = (y.ly l).pool ∧ v.live = y.live ∧ v.evs = y.evs ∧ v.part = y.part ∧ v.now = y.now ∧ v.nat (Ob.DecState l) = 1 := by
  obtain ⟨u, hpic, -, -, hqueue, hpool, hlive, hevs, hpart, hnow⟩ := Sys.auQueued_ly (c := c) (leg := leg) (pic := pic) hwhole hleg
  refine ⟨y.auQueued l c leg p pic, u, ?_, hpic, ?_, hpool, hlive, hevs, hpart, hnow, ?_⟩
  · rw [Sys.layerTo_last hnew hlast, hidle]
    rfl
  · rw [hqueue, hidle]
    rfl
  · rw [Sys.nat_of_live hpart hlive]
    exact hwait

theorem Sys.layerTo_starts (hentry : isEntry pic = true) (hsup : y.decSupported l pic = true) (hout : ∀ b ∈ (y.ly l).pool, b.out = false)
    (hfree : ∃ b ∈ (y.ly l).pool, b.free = true) : ∃ u : DecUnit, ((y.layerTo l c p leg).ly l).queue = [u] ∧ u.pic = pic ∧
    (y.layerTo l c p leg).nat (Ob.DecState l) = 3 ∧ ((y.layerTo l c p leg).ly l).recovery.isSome = true ∧
    ∃ b ∈ ((y.layerTo l c p leg).ly l).pool, b.recon = true ∧ b.poc = pic.poc := by
  obtain ⟨v, u, heq, hpic, hqueue, hpool, hlive, -, hpart, -, hstate⟩ := Sys.layerTo_next (c := c) (leg := leg) hnew hwhole hleg hlast hidle hwait
  subst hpic
  obtain ⟨r, hnext⟩ := Sys.decNext_starts (c := c) hqueue hstate hentry ((Sys.decSupported_of_live hlive hpart l u.pic).trans hsup)
  rw [heq, hnext]
  have hly : (((v.setLy l { v.ly l with recovery := some r, missing := [], cra := u.pic.kind == .cra }).setInt (Ob.DecState l) 3).ly l) =
      { v.ly l with recovery := some r, missing := [], cra := u.pic.kind == .cra } := (Sys.setInt_ly_read ..).trans (Sys.setLy_self ..)
  have hthree : ((v.setLy l { v.ly l with recovery := some r, missing := [], cra := u.pic.kind == .cra }).setInt (Ob.DecState l) 3).nat
      (Ob.DecState l) = 3 := Sys.setInt_nat _ _ 3
  generalize ((v.setLy l { v.ly l with recovery := some r, missing := [], cra := u.pic.kind == .cra }).setInt (Ob.DecState l) 3) = w at hly hthree ⊢
  obtain ⟨pool, hbuf, htaken, htlive⟩ := Sys.decTake_first (y := w) (l := l) (c := c) (p := u.pic) (by rw [hly]; exact hpool ▸ hout)
    (by rw [hly]; exact hpool ▸ hfree)
  refine ⟨u, ?_, rfl, ?_, ?_, ?_⟩
  · rw [htaken, hly]
    exact hqueue
  · rw [Sys.nat_of_live ((Sys.DecKept.refl w).decTake c u.pic true).part htlive]
    exact hthree
  · rw [htaken, hly]
    rfl
  · rw [htaken]
    exact hbuf

theorem Sys.layerTo_stops (hentry : isEntry pic = true) (hsup : y.decSupported l pic = false) :
    ((y.layerTo l c p leg).ly l).queue = [] ∧ (y.layerTo l c p leg).nat (Ob.DecState l) = 1 ∧ (y.layerTo l c p leg).nat (Ob.DecStopCause l) = 2 ∧
    (∀ b ∈ ((y.layerTo l c p leg).ly l).pool, b.mark = 0 ∧ b.avail = false) ∧
    (y.layerTo l c p leg).nat (Ob.DecStops l) = (y.nat (Ob.DecStops l) + 1) % wrapOf y.part.dies (Ob.DecStops l) ∧
    (y.layerTo l c p leg).evs.raised = y.evs.raised ++ [{ code := 0x0C05, die := l / 16, arg := l, t := y.now }] := by
  obtain ⟨v, u, heq, hpic, hqueue, -, hlive, hevs, hpart, hnow, hstate⟩ :=
    Sys.layerTo_next (c := c) (leg := leg) hnew hwhole hleg hlast hidle hwait
  subst hpic
  obtain ⟨hclear, hempty, hst, hcause, hstops, hraised⟩ := Sys.decStop_unsupported l (v.setLy l { v.ly l with queue := [] })
  rw [heq, Sys.decNext_stops hqueue hstate hentry ((Sys.decSupported_of_live hlive hpart l u.pic).trans hsup)]
  refine ⟨hempty.trans ?_, hst, hcause, hclear, hstops.trans ?_, hraised.trans ?_⟩
  · rw [Sys.setLy_self]
  · rw [Sys.setLy_nat_read, Sys.setLy_part, Sys.nat_of_live hpart hlive, hpart]
  · rw [Sys.setLy_evs, Sys.setLy_now, hevs, hnow]

theorem Sys.layerTo_passes (hentry : isEntry pic = false) :
    ((y.layerTo l c p leg).ly l).queue = [] ∧ (y.layerTo l c p leg).live = y.live ∧ (y.layerTo l c p leg).evs = y.evs := by
  obtain ⟨v, u, heq, hpic, hqueue, -, hlive, hevs, -, -, hstate⟩ := Sys.layerTo_next (c := c) (leg := leg) hnew hwhole hleg hlast hidle hwait
  subst hpic
  rw [heq, Sys.decNext_skips hqueue hstate hentry, Sys.setLy_self]
  exact ⟨rfl, hlive, hevs⟩

end

/-! ### The settled statement -/

section

variable {y : Sys} {l c : Nat} {u : DecUnit}

/-- What a discarded picture leaves behind. -/
theorem Sys.decDiscard_left (hqueue : (y.ly l).queue = [u]) (p : CodedPic) {w : Sys} (hw : w.ly l = ((y.decDiscard l p).ly l).popped) :
    (w.ly l).queue = [] ∧ (w.ly l).frames = (y.ly l).frames ∧ (∀ b ∈ (w.ly l).pool, b.recon = false) ∧ p.poc ∈ (w.ly l).missing := by
  rw [hw, Sys.decDiscard_ly]
  refine ⟨?_, rfl, Ly.without_recon (x := y.ly l) (p := p), List.mem_cons_self ..⟩
  show (y.ly l).queue.drop 1 = []
  rw [hqueue]
  rfl

section

variable (hdec : y.lyDec l = some c) (hqueue : (y.ly l).queue = [u])
include hdec hqueue

/-- A picture that is discarded at its end is counted and reported. -/
theorem Sys.decComplete_discarded {ok : Bool} (hturn : y.decTurn l u = true)
    (hbad : ok = false ∨ u.damaged = true ∨ ∀ b ∈ (y.ly l).pool, b.recon = false) : ∃ w, y.decComplete l ok = w ∧
      (w.ly l).queue = [] ∧ (w.ly l).frames = (y.ly l).frames ∧ (∀ b ∈ (w.ly l).pool, b.recon = false) ∧ u.pic.poc ∈ (w.ly l).missing ∧
      w.nat (Ob.DecPicsDamaged l) = (y.nat (Ob.DecPicsDamaged l) + 1) % wrapOf y.part.dies (Ob.DecPicsDamaged l) ∧
      w.evs.raised = y.evs.raised ++ [{ code := 0x0C03, die := l / 16, arg := l, t := y.now }] := by
  obtain ⟨hq, hf, hr, hm⟩ := Sys.decDiscard_left hqueue u.pic (w := (y.decDiscard l u.pic).onLy l Ly.popped) (Sys.onLy_self ..)
  refine ⟨_, Sys.decComplete_discards hdec hqueue hturn hbad, hq, hf, hr, hm, ?_, ?_⟩
  · rw [Sys.onLy_nat_read]
    exact Sys.decDiscard_count ..
  · rw [Sys.onLy_evs]
    exact Sys.decDiscard_raised ..

/-- A picture that takes too long is discarded, counted and reported. -/
theorem Sys.decOverrun_discarded (hlate : u.at_ + 2 * lyPeriod y.val l ≤ y.now) : ∃ w, y.decOverrun l = w ∧
      (w.ly l).queue = [] ∧ (∀ b ∈ (w.ly l).pool, b.recon = false) ∧ u.pic.poc ∈ (w.ly l).missing ∧
      w.nat (Ob.DecPicsDamaged l) = (y.nat (Ob.DecPicsDamaged l) + 1) % wrapOf y.part.dies (Ob.DecPicsDamaged l) ∧
      w.evs.raised = y.evs.raised ++ [{ code := 0x0C03, die := l / 16, arg := l, t := y.now }, { code := 0x0C07, die := l / 16, arg := l, t := y.now }] := by
  obtain ⟨hq, -, hr, hm⟩ := Sys.decDiscard_left hqueue u.pic (w := ((y.decDiscard l u.pic).raise 0x0C07 (l / 16) l).onLy l Ly.popped)
    (by rw [Sys.onLy_self, Sys.raise_ly_read])
  refine ⟨_, Sys.decOverrun_late hdec hqueue hlate, hq, hr, hm, ?_, ?_⟩
  · rw [Sys.onLy_nat_read, Sys.raise_nat_read]
    exact Sys.decDiscard_count ..
  · rw [Sys.onLy_evs, Sys.raise_raised, Sys.decDiscard_raised, List.append_assoc]
    rfl

variable {b : DecBuf} (hrecon : (y.ly l).pool.filter (fun b => b.recon) = [b])
  (hout : ∀ b ∈ (y.ly l).pool, b.out = false)
include hrecon hout

/-- A sound picture is decoded: it can be referred to, is counted, and is shown when it may be. -/
theorem Sys.decComplete_sound (hturn : y.decTurn l u = true) (hsound : u.damaged = false) (hpoc : b.poc = u.pic.poc) :
    ∃ w, y.decComplete l true = w ∧ (w.ly l).queue = [] ∧ (w.ly l).hasRef u.pic.poc = true ∧
      w = ((y.decKeeps l u).decBumps l c u.pic false 18).onLy l Ly.popped := by
  obtain ⟨href, hq⟩ := Sys.decKeeps_hasRef (c := c) (n := 17) hrecon hpoc hout
  refine ⟨_, (Sys.decComplete_keeps hdec hqueue hturn hsound hrecon).trans (Sys.decPop_last (u := u) (hq.trans hqueue)), ?_, ?_, rfl⟩
  · rw [Sys.onLy_self]
    show (((y.decKeeps l u).decBumps l c u.pic false 18).ly l).queue.drop 1 = []
    rw [hq, hqueue]
    rfl
  · rw [Sys.onLy_self]
    exact href

omit hdec hqueue

/-- Behind a picture that is decoded and shown. -/
theorem Sys.decKeeps_popped_shown {w : Sys} (heq : w = ((y.decKeeps l u).decBumps l c u.pic false 18).onLy l Ly.popped)
    (hs : (y.ly l).shows u.pic = true) (hreorder : u.pic.reorder = 0) :
    (∃ fr ∈ (w.ly l).complete, fr.decoded = true ∧ fr.age = some u.age ∧ fr.wd = u.pic.width ∧ fr.ht = u.pic.height ∧ fr.done = some (y.cxNow c)) ∧
    (y.nat (Ob.DecState l) = 3 → w.nat (Ob.DecState l) = 2) ∧
    ((y.ly l).resync = true → { code := 0x0C04, die := l / 16, arg := l, t := y.now } ∈ w.evs.raised) := by
  obtain ⟨⟨fr, hfr, hdone⟩, hstate, hraised⟩ := Sys.decKeeps_shown (c := c) (n := 17) hrecon hout hs hreorder
  subst heq
  refine ⟨⟨fr, ?_, hdone⟩, fun h => (Sys.onLy_nat_read ..).trans (hstate h), hraised⟩
  rw [Sys.onLy_self]
  exact hfr

/-- Behind a picture that is decoded and not shown. -/
theorem Sys.decKeeps_popped_hidden {w : Sys} (heq : w = ((y.decKeeps l u).decBumps l c u.pic false 18).onLy l Ly.popped)
    (hs : (y.ly l).shows u.pic = false) : (w.ly l).frames = (y.ly l).frames ∧ w.nat (Ob.DecState l) = y.nat (Ob.DecState l) ∧ w.evs = y.evs ∧
      ∀ b ∈ (w.ly l).pool, b.out = false := by
  obtain ⟨hf, hstate, hevs, ho⟩ := Sys.decKeeps_hidden (c := c) (n := 18) hrecon hout hs
  subst heq
  rw [Sys.onLy_self]
  exact ⟨hf, (Sys.onLy_nat_read ..).trans hstate, hevs, ho⟩

end

/-- The last line of a flow's frame, once all its rows have settled. -/
theorem Sys.lyComplete_found {fr : LyFrame} (hflow : y.lyFlow l = some c) (hfind : (y.ly l).frames.find? (fun fr => fr.done.isNone) = some fr) :
    y.lyComplete l = if fr.settledRows = (lyFig y.val l c).rows then
      y.onLyFrame l fr.k fun fr => { fr with done := some (y.cxNow c) } else y := by
  unfold Sys.lyComplete
  rw [hflow]
  dsimp only
  rw [hfind]

theorem Sys.onLyFrame_frames (k : Int) (g : LyFrame → LyFrame) :
    ((y.onLyFrame l k g).ly l).frames = (y.ly l).frames.map fun fr => if fr.k = k then g fr else fr := by
  unfold Sys.onLyFrame
  rw [Sys.onLy_self]

end

/-- Settles O54: packets of a source, pictures that end or overrun, and frames of a flow, each by its own case. -/
theorem layersFeed : Obligations.LayersFeed := by
  unfold Obligations.LayersFeed
  refine ⟨fun dt l c g e leg p x y s hy hx hl hdec honly hup hhit hpol he => ?packet, fun dt l c u x y s hy hx hdec hqueue => ?picture,
    fun dt l c fr y s hy hflow hfind => ?flow⟩
  case packet =>
    subst hx he
    have hrx := Sys.layerRx_one hl hdec honly hup hhit hpol
    refine ⟨fun hno => act_done ((congrArg _ hy.symm).trans (hrx.trans (if_neg (by rw [hno]; exact Bool.false_ne_true)))), fun htakes hleg => ?_⟩
    rw [if_pos htakes] at hrx
    have hdoes : Does (.layerPacketRx dt p) s (y.layerTo l c p g) := act_done ((congrArg _ hy.symm).trans hrx)
    refine ⟨fun hseen => ?_, fun hnew hwhole => ⟨fun hmore => ?_, fun pic hlast hbusy => ?_, fun pic hlast hidle hwait hentry hsup hout hfree => ?_,
      fun pic hlast hidle hwait hentry hsup => ?_, fun pic hlast hidle hwait hentry => ?_⟩, fun hnew hbegins hopen hmore => ?_⟩
    · obtain ⟨a, b, hab⟩ := y.auCounted_ly l g
      rw [Sys.layerTo_repeat hseen] at hdoes
      exact ⟨_, hdoes, by rw [hab], by rw [hab], rfl, rfl⟩
    · exact ⟨_, hdoes, Sys.layerTo_noted hnew hwhole hmore⟩
    · obtain ⟨u, hu⟩ := Sys.layerTo_waits (c := c) (leg := g) hnew hwhole hleg hlast hbusy
      exact ⟨_, u, hdoes, hu⟩
    · obtain ⟨u, hu⟩ := Sys.layerTo_starts (c := c) (leg := g) hnew hwhole hleg hlast hidle hwait hentry hsup hout hfree
      exact ⟨_, u, hdoes, hu⟩
    · exact ⟨_, hdoes, Sys.layerTo_stops hnew hwhole hleg hlast hidle hwait hentry hsup⟩
    · exact ⟨_, hdoes, Sys.layerTo_passes hnew hwhole hleg hlast hidle hwait hentry⟩
    · exact ⟨_, hdoes, Sys.layerTo_cut hnew hbegins hopen hmore⟩
  case picture =>
    subst hx
    refine ⟨fun hturn ok => act_done ((congrArg _ hy.symm).trans (Sys.decComplete_waits hdec hqueue hturn ok)), fun ok hturn hbad => ?_,
      fun b hturn hsound hrecon hpoc hout => ?_, fun hearly => act_done ((congrArg _ hy.symm).trans (Sys.decOverrun_early hdec hqueue hearly)),
      fun hlate => ?_⟩
    · obtain ⟨w, hw, hrest⟩ := Sys.decComplete_discarded hdec hqueue hturn hbad
      exact ⟨w, act_done ((congrArg _ hy.symm).trans hw), hrest⟩
    · obtain ⟨w, hw, hq, href, heq⟩ := Sys.decComplete_sound hdec hqueue hrecon hout hturn hsound hpoc
      refine ⟨w, act_done ((congrArg _ hy.symm).trans hw), hq, href, ?_, fun hreached hshow hkind hreorder =>
        Sys.decKeeps_popped_shown hrecon hout heq (Ly.shows_reached hreached hshow hkind) hreorder,
        fun hhidden => Sys.decKeeps_popped_hidden hrecon hout heq (Ly.shows_not hhidden)⟩
      rw [heq, Sys.onLy_nat_read]
      exact Sys.decKeeps_counted hrecon hout
    · obtain ⟨w, hw, hrest⟩ := Sys.decOverrun_discarded hdec hqueue hlate
      exact ⟨w, act_done ((congrArg _ hy.symm).trans hw), hrest⟩
  case flow =>
    have hstep := Sys.lyComplete_found hflow hfind
    refine ⟨fun hmore => act_done ((congrArg _ hy.symm).trans (hstep.trans (if_neg hmore))), fun hall => ?_⟩
    exact ⟨_, act_done ((congrArg _ hy.symm).trans (hstep.trans (if_pos hall))), rfl, rfl, Sys.onLyFrame_frames ..⟩

end Sys2Proof.Machine

/-! PROOFS. Rows that end (R131): a channel's load counted twice where the table of channels is out of order. -/

namespace Sys2Proof.Machine

/-- A raster of 10,000 pixels by 1,080 lines at 120 frames per second: one channel of it leaves DP0 all its coverage, two do not. -/
def wideCfg : Tab Val := [(Ob.IngVidWidth 5, .int 10000)]

/-- The figures of that raster. -/
def wideFig : Fig := figOf (Tab.find (dfltVal ({} : Sys).part) wideCfg) 5

/-- Row 0 of frame 1, of whose left column every CTU is coded. -/
def codedFrame : Frame :=
  { k := 0, boundary := 0, origin := 0, n := 1, rows := [(0, { cols := [(0, { started := true, ctu := 100, used := wideFig.sliceHdr })] })] }

/-- A table of channels out of order: channel 5, which codes that row, is listed behind channel 7, which is stopped. -/
def Sys.wideUnordered : Sys :=
  { chans := [(7, { frameNo := 1 }), (5, { run := 1, pipes := [(0, 0)], cfg := wideCfg, frames := [codedFrame] })] }

/-- The column that pipeline 0 of die 0 codes there. -/
def codedAt : At := { ch := 5, k := 0, row := 0, col := 0 }

theorem Sys.wideUnordered_current : Sys.wideUnordered.current 0 0 = some codedAt := by decide

theorem Sys.wideUnordered_fig : Sys.wideUnordered.fig 5 = wideFig := rfl

theorem wideFig_demand : wideFig.pair = false ∧ wideFig.tiles = 2 ∧ wideFig.ctus ≤ 100 := by decide

theorem wideFig_size : wideFig.wd = 10000 ∧ wideFig.ht = 1080 ∧ wideFig.rn = 120 ∧ wideFig.rd = 1 := by decide

/-- The pixels per second of the raster. -/
def wideLoad : Rat := 1296000000

theorem Sys.encodeLoad_twice {y : Sys} (hactive : y.activeChans = [5, 5]) (hpipes : (y.chan 5).pipes = [(0, 0)]) (hfig : y.fig 5 = wideFig) :
    y.encodeLoad 0 = 2 * wideLoad := by
  obtain ⟨hwd, hht, hrn, hrd⟩ := wideFig_size
  unfold Sys.encodeLoad wideLoad
  rw [hactive]
  simp [hpipes, hfig, wideFig_demand.1, hwd, hht, hrn, hrd]
  norm_num

theorem Sys.encodeLoad_once {y : Sys} (hactive : y.activeChans = [5]) (hpipes : (y.chan 5).pipes = [(0, 0)]) (hfig : y.fig 5 = wideFig) :
    y.encodeLoad 0 = wideLoad := by
  obtain ⟨hwd, hht, hrn, hrd⟩ := wideFig_size
  unfold Sys.encodeLoad wideLoad
  rw [hactive]
  simp [hpipes, hfig, wideFig_demand.1, hwd, hht, hrn, hrd]
  norm_num

/-- No layer of die 0 is decoded. -/
theorem Sys.layerLoad_none {y : Sys} (hpart : y.part = ({} : Sys).part) (hlive : y.live = []) (use : Nat → Bool) : y.layerLoad use 0 = 0 := by
  have hsource : ∀ l ∈ (List.range 16).map fun i => 16 * 0 + i, (({} : Sys).nat (Ob.LySource l) == 2) = false := by decide
  have hnone : (((List.range 16).map fun i => 16 * 0 + i).filter fun l =>
      y.nat (Ob.LySource l) == 2 && y.nat (Ob.DecSource l) != 0 && y.nat (Ob.LyContext l) != 0xFF && use l) = [] := by
    refine List.filter_eq_nil_iff.mpr fun l hl => ?_
    rw [Sys.nat_of_live (z := {}) hpart hlive, hsource l hl]
    exact Bool.false_ne_true
  unfold Sys.layerLoad
  dsimp only
  rw [hnone]
  rfl

theorem Sys.coverage_of_load {y : Sys} (hpart : y.part = ({} : Sys).part) (hlive : y.live = []) :
    y.coverage 0 = if y.encodeLoad 0 ≤ 2100000000 then 1 else 2100000000 / y.encodeLoad 0 := by
  unfold Sys.coverage
  dsimp only
  rw [Sys.layerLoad_none hpart hlive]
  norm_num

/-- The slice is sampled where the channel is listed once. -/
theorem Sys.wideUnordered_sampled : Sys.wideUnordered.sampled 0 1 0 0 2 = true := by
  have hload := Sys.encodeLoad_once (y := Sys.wideUnordered) (by decide) rfl Sys.wideUnordered_fig
  have hone : Sys.wideUnordered.coverage 0 = 1 := by
    rw [Sys.coverage_of_load (y := Sys.wideUnordered) rfl rfl, hload]
    exact if_pos (by norm_num [wideLoad])
  unfold Sys.sampled
  dsimp only
  rw [hone]
  norm_num [ratCeil]

/-- It is not where the channel is listed twice. -/
theorem Sys.unsampled_twice {y : Sys} (hpart : y.part = ({} : Sys).part) (hlive : y.live = []) (hactive : y.activeChans = [5, 5])
    (hpipes : (y.chan 5).pipes = [(0, 0)]) (hfig : y.fig 5 = wideFig) : y.sampled 0 1 0 0 2 = false := by
  have hload := Sys.encodeLoad_twice hactive hpipes hfig
  have hcover : y.coverage 0 = 2100000000 / (2 * wideLoad) := by
    rw [Sys.coverage_of_load hpart hlive, hload]
    exact if_neg (by norm_num [wideLoad])
  have hceil : ratCeil (1 / (2100000000 / (2 * wideLoad))) = 2 := by
    norm_num [ratCeil, wideLoad]
  unfold Sys.sampled
  dsimp only
  rw [hcover, hceil, decide_eq_true (by norm_num [wideLoad])]
  rfl

/-! ### The checks behind a row that is not whole -/

/-- Strips change buffers alone. -/
theorem Sys.holdStrips_checks (n : Nat) (k : Int) (y : Sys) : ((y.holdStrips n k).chan n).checks = (y.chan n).checks := by
  unfold Sys.holdStrips
  dsimp only
  split
  · split
    · rw [Sys.onChan_self]
    · rfl
  · rfl

/-- A column that ends no row and is not of the last row leaves the checks. -/
theorem Sys.finishRow_checks {n r : Nat} {k : Int} {fr : Frame} {y : Sys} (hframe : (y.chan n).frame k = some fr)
    (hmore : (fr.row r).whole (y.fig n).tiles = false) (hlast : r + 1 ≠ (y.fig n).rows) :
    ((y.finishRow n k r).chan n).checks = (y.chan n).checks := by
  unfold Sys.finishRow
  dsimp only
  rw [hframe]
  dsimp only
  rw [if_neg hlast, if_neg (by rw [hmore]; exact Bool.false_ne_true), Sys.holdStrips_checks]

/-- The column with its slice. -/
def Sys.wideEnded (head : List Byte) (report : Report) : Sys :=
  Sys.wideUnordered.onColumn codedAt fun x => { x with done := true, slice := head, report := some report }

theorem Sys.wideEnded_active (head : List Byte) (report : Report) : (Sys.wideEnded head report).activeChans = [5, 5] := rfl

theorem Sys.wideEnded_checks (head : List Byte) (report : Report) : ((Sys.wideEnded head report).chan 5).checks = [] := rfl

theorem Row.setCol_other (w : Row) {c d : Nat} (h : d ≠ c) (x : Col) : (w.setCol c x).col d = w.col d := Tab.find_put_other _ _ _ h

/-- The row that is not whole ends without a check of its slice. -/
theorem Sys.wideUnordered_coded (recon : Planes) : ((Sys.wideUnordered.rowCoded 0 0 [] recon).chan 5).checks = [] := by
  have hended : ∃ head report, Sys.wideUnordered.rowCoded 0 0 [] recon = (Sys.wideEnded head report).finishRow 5 0 0 := by
    have hstep : ¬(((codedFrame.row 0).col 0).ctu < wideFig.ctus ∨ ((codedFrame.row 0).col 0).used ≠ wideFig.sliceHdr + ([] : List Byte).length) := by
      rintro (h | h)
      · have hcount : ((codedFrame.row 0).col 0).ctu = 100 := rfl
        have hctus := wideFig_demand.2.2
        omega
      · exact h rfl
    refine ⟨codedFrame.sliceHead (Sys.wideUnordered.fig 5) 0 0 ((codedFrame.row 0).col 0).rowQp ++ [],
      { len := 0, qp := ((codedFrame.row 0).col 0).rowQp, floors := ((codedFrame.row 0).col 0).floors, checksum := sliceChecksum recon,
        oldest := Sys.wideUnordered.columnAge codedAt }, ?_⟩
    unfold Sys.rowCoded
    rw [Sys.wideUnordered_current]
    have hframe : Sys.wideUnordered.frameOf codedAt = some codedFrame := rfl
    dsimp only
    rw [hframe]
    dsimp only
    refine (if_neg hstep).trans ?_
    have hunsampled := fun head report => Sys.unsampled_twice (y := Sys.wideEnded head report) rfl rfl rfl rfl rfl
    exact congrArg (Sys.finishRow 5 0 0) (if_neg (by rw [Bool.not_eq_true]; exact hunsampled _ _))
  obtain ⟨head, report, hended⟩ := hended
  have hframe : ((Sys.wideEnded head report).chan 5).frame 0 =
      some (codedFrame.onCol 0 0 fun x => { x with done := true, slice := head, report := some report }) := rfl
  have hfig : (Sys.wideEnded head report).fig 5 = wideFig := rfl
  have hmore : ((codedFrame.onCol 0 0 fun x => { x with done := true, slice := head, report := some report }).row 0).whole wideFig.tiles = false := by
    rw [wideFig_demand.2.1]
    refine Bool.eq_false_iff.mpr fun h => ?_
    have hright := List.all_eq_true.mp h 1 (List.mem_range.mpr (by omega))
    rw [Frame.onCol, Frame.onRow_row, Row.setCol_other _ (by omega)] at hright
    exact absurd hright (by decide)
  rw [hended, Sys.finishRow_checks hframe (by rw [hfig]; exact hmore) (by rw [hfig]; decide), Sys.wideEnded_checks]

/-- Refutes O51: the statement asks for the check of a slice that is sampled also of a table of channels whose numbers do not rise; there
the slice that ROW_CODED writes lists its channel again, whose pixels then count twice in the load of R131, and the slice is not sampled. -/
theorem not_rowsAreCoded : ¬ Obligations.RowsAreCoded := by
  unfold Obligations.RowsAreCoded
  rintro ⟨hcoding, -⟩
  obtain ⟨-, -, -, hcurrent⟩ := hcoding 0 0 0 Sys.wideUnordered { sys := Sys.wideUnordered } rfl
  obtain ⟨-, -, -, -, hends⟩ := hcurrent codedAt codedFrame _ _ Sys.wideUnordered_current rfl rfl rfl
  obtain ⟨-, hdone⟩ := hends [] _ { luma := [], cb := [], cr := [] } rfl
  obtain ⟨w, gr, hact, -, -, hcheck, -⟩ := hdone wideFig_demand.2.2 rfl
  obtain ⟨k, hk, -⟩ := hcheck Sys.wideUnordered_sampled
  have hw : w = Sys.wideUnordered.rowCoded 0 0 [] { luma := [], cb := [], cr := [] } := by
    have hstep : Does (.rowCoded 0 0 0 [] { luma := [], cb := [], cr := [] }) { sys := Sys.wideUnordered }
        (Sys.wideUnordered.rowCoded 0 0 [] { luma := [], cb := [], cr := [] }) := act_done rfl
    have heq := hact.symm.trans hstep
    injection heq with hstate
    exact congrArg State.sys hstate
  have hnone := Sys.wideUnordered_coded { luma := [], cb := [], cr := [] }
  rw [← hw] at hnone
  have hmem : k ∈ (w.chan 5).checks := hk
  rw [hnone] at hmem
  exact List.not_mem_nil hmem

end Sys2Proof.Machine

/-! PROOFS. Contexts (07; R189 to R192, R196, R197, R208, R211, R216): what composing leaves alone, and the layers a context judges. -/

namespace Sys2Proof.Machine

/-! ### What composing leaves alone -/

/-- `z` is `y` but for the memory of layers, what waits to leave, rows of channels, and the numbers of packets. -/
structure Sys.Composed (y z : Sys) : Prop where
  live : z.live = y.live
  evs : z.evs = y.evs
  part : z.part = y.part
  out : z.out = y.out
  frames : ∀ c, (z.cx c).frames = (y.cx c).frames
  nextK : ∀ c, (z.cx c).nextK = (y.cx c).nextK
  on : ∀ c, (z.cx c).on = (y.cx c).on
  m : ∀ l, (z.ly l).m = (y.ly l).m

namespace Sys.Composed

variable {y z : Sys}

theorem refl (y : Sys) : y.Composed y := ⟨rfl, rfl, rfl, rfl, fun _ => rfl, fun _ => rfl, fun _ => rfl, fun _ => rfl⟩

theorem onLy (h : y.Composed z) (l : Nat) {f : Ly → Ly} (hf : (f (z.ly l)).m = (z.ly l).m) : y.Composed (z.onLy l f) := by
  refine ⟨h.live, h.evs, h.part, h.out, h.frames, h.nextK, h.on, fun j => ?_⟩
  rw [← h.m j]
  by_cases hj : j = l
  · subst hj
    rw [Sys.onLy_self, hf]
  · rw [Sys.onLy_other _ _ _ _ hj]

theorem setDie (h : y.Composed z) (d : Nat) (x : Die) : y.Composed (z.setDie d x) :=
  ⟨h.live, h.evs, h.part, h.out, h.frames, h.nextK, h.on, h.m⟩

theorem setChan (h : y.Composed z) (n : Nat) (c : Chan) : y.Composed (z.setChan n c) :=
  ⟨h.live, h.evs, h.part, h.out, h.frames, h.nextK, h.on, h.m⟩

theorem reserve (h : y.Composed z) (p : Nat) (k : Pkt) : y.Composed (z.reserve p k) :=
  ⟨h.live, h.evs, h.part, h.out, h.frames, h.nextK, h.on, h.m⟩

theorem dropRuns (h : y.Composed z) (d own : Nat) : y.Composed (z.dropRuns d own) :=
  ⟨h.live, h.evs, h.part, h.out, h.frames, h.nextK, h.on, h.m⟩

theorem each {α : Type} {l : List α} {f : α → Sys → Sys} (h : y.Composed z) (hf : ∀ a w, y.Composed w → y.Composed (f a w)) :
    y.Composed (z.each l f) := Sys.each_invariant (I := fun w => y.Composed w) hf h

theorem lyRelease (h : y.Composed z) (d : Nat) (gone : Nat → Bool) : y.Composed (z.lyRelease d gone) := by
  refine h.each fun i w hw => ?_
  dsimp only
  split
  · exact hw
  · have hruns : w.Composed (w.each ((w.ly i).heaps.filter fun e => gone e.2.2) fun e y => y.dropRuns d e.1) :=
      (refl w).each fun e v hv => hv.dropRuns d e.1
    have hy : y.Composed (w.each ((w.ly i).heaps.filter fun e => gone e.2.2) fun e y => y.dropRuns d e.1) :=
      hw.each fun e v hv => hv.dropRuns d e.1
    exact hy.onLy i (f := fun _ => { w.ly i with heaps := (w.ly i).heaps.filter fun e => !gone e.2.2 }) (hruns.m i).symm

theorem cxRelease (h : y.Composed z) (c : Nat) : y.Composed (z.cxRelease c) := by
  have hrelease := h.lyRelease (c / 4) fun h => h == 1
  unfold Sys.cxRelease
  generalize (z.lyRelease (c / 4) fun h => h == 1) = v at hrelease ⊢
  dsimp only
  split <;> split
  · exact hrelease
  · exact h
  · exact hrelease
  · exact h

theorem holdPics (h : y.Composed z) (k : Int) (l : List Shown) : y.Composed (z.holdPics k l) := by
  refine h.each fun s w hw => ?_
  cases s.frame with
  | none => exact hw
  | some f =>
    dsimp only
    split
    · refine hw.onLy s.ly ?_
      rfl
    · exact hw

theorem dropPics (h : y.Composed z) (c : Nat) (k : Int) : y.Composed (z.dropPics c k) := h.each fun l _ hw => hw.onLy l (by rfl)

theorem onFrame (h : y.Composed z) (n : Nat) (k : Int) (g : Frame → Frame) : y.Composed (z.onFrame n k g) := by
  unfold Sys.onFrame Sys.onChan
  exact h.setChan n _

end Sys.Composed

/-! ### A layer that is judged (R196, R197, R208, R211) -/

/-- The age of a layer's frame is noted in one object. -/
theorem Sys.lyAged_kept (s : Shown) (y : Sys) : (∀ l, (y.lyAged s).ly l = y.ly l) ∧ (∀ c, (y.lyAged s).cx c = y.cx c) ∧ (y.lyAged s).evs = y.evs ∧
    (y.lyAged s).part = y.part ∧ ∀ k, k ≠ Ob.LyLastAge s.ly → (y.lyAged s).val k = y.val k := by
  unfold Sys.lyAged
  split
  · exact ⟨fun _ => rfl, fun _ => rfl, rfl, rfl, fun k hk => Sys.setInt_other _ _ _ _ hk⟩
  · exact ⟨fun _ => rfl, fun _ => rfl, rfl, rfl, fun _ _ => rfl⟩

/-- A layer that is ready is in state 1, with its count ended; when it was not before, that is reported. -/
theorem Sys.lyReady_kept (l d : Nat) (s : Shown) (y : Sys) : (∀ c, (y.lyReady l d s).2.cx c = y.cx c) ∧ (y.lyReady l d s).2.part = y.part ∧
    ((y.lyReady l d s).2.ly l).m = 0 ∧ (y.lyReady l d s).2.nat (Ob.LyState l) = 1 ∧
    (0 < (y.ly l).m → (y.lyReady l d s).2.evs.raised = y.evs.raised ++ [{ code := 0x0D02, die := d, arg := l, t := y.now }]) := by
  have hready : (y.lyReady l d s).2 = if 0 < (y.ly l).m then
        ((y.onLy l fun x => { x with m := 0, content := true, shown := s.frame }).setInt (Ob.LyState l) 1).raise 0x0D02 d l
      else (y.onLy l fun x => { x with m := 0, content := true, shown := s.frame }).setInt (Ob.LyState l) 1 := rfl
  have hly : (((y.onLy l fun x => { x with m := 0, content := true, shown := s.frame }).setInt (Ob.LyState l) 1).ly l).m = 0 := by
    rw [Sys.setInt_ly_read, Sys.onLy_self]
  have hstate : ((y.onLy l fun x => { x with m := 0, content := true, shown := s.frame }).setInt (Ob.LyState l) 1).nat (Ob.LyState l) = 1 :=
    Sys.setInt_nat _ _ 1
  rw [hready]
  split
  · next hpos =>
    refine ⟨fun _ => rfl, rfl, ?_, ?_, fun _ => ?_⟩
    · rw [Sys.raise_ly_read, hly]
    · rw [Sys.raise_nat_read, hstate]
    · rw [Sys.raise_raised]
      rfl
  · next hzero => exact ⟨fun _ => rfl, rfl, hly, hstate, fun hpos => absurd hpos hzero⟩

/-- A layer that was not ready at a boundary more. -/
def Sys.lyMissed (l : Nat) (y : Sys) : Sys := (y.setLy l { y.ly l with m := (y.ly l).m + 1 }).bump (Ob.LyNotReadyFrames l) 1

theorem Sys.lyMissed_m (l : Nat) (y : Sys) : ((y.lyMissed l).ly l).m = (y.ly l).m + 1 := by
  rw [Sys.lyMissed, Sys.bump_ly_read, Sys.setLy_self]

theorem Sys.lyMissed_count (l : Nat) (y : Sys) :
    (y.lyMissed l).nat (Ob.LyNotReadyFrames l) = (y.nat (Ob.LyNotReadyFrames l) + 1) % wrapOf y.part.dies (Ob.LyNotReadyFrames l) := by
  rw [Sys.lyMissed, Sys.bump_nat, Sys.setLy_nat_read, Sys.setLy_part]

/-- What a layer draws that is not ready: its last content. -/
def Shown.kept (s : Shown) (x : Ly) (last : Option LyFrame) : Shown := { s with frame := if x.content then last else none }

section

variable {l d : Nat} {s : Shown} {last : Option LyFrame} {y : Sys}

theorem Sys.lyNotReady_within (h : (y.ly l).m < y.nat (Ob.LyGrace l)) : y.lyNotReady l d s last =
    (if (y.ly l).content then some (s.kept (y.ly l) last) else none,
      if (y.ly l).m + 1 = 1 then ((y.lyMissed l).setInt (Ob.LyState l) 2).raise 0x0D05 d l else (y.lyMissed l).setInt (Ob.LyState l) 2) :=
  if_pos h

theorem Sys.lyNotReady_beyond (h : y.nat (Ob.LyGrace l) ≤ (y.ly l).m) : y.lyNotReady l d s last =
    (some { s.kept (y.ly l) last with hatched := true },
      if (y.ly l).m + 1 = y.nat (Ob.LyGrace l) + 1 then (((y.lyMissed l).setInt (Ob.LyState l) 3).bump (Ob.LyStaleFrames l) 1).raise 0x0D01 d l
      else ((y.lyMissed l).setInt (Ob.LyState l) 3).bump (Ob.LyStaleFrames l) 1) :=
  if_neg (by omega)

/-- A layer within its grace is in state 2. -/
theorem Sys.lyNotReady_grace (h : (y.ly l).m < y.nat (Ob.LyGrace l)) :
    (y.lyNotReady l d s last).1 = (if (y.ly l).content then some (s.kept (y.ly l) last) else none) ∧
    (y.lyNotReady l d s last).2.nat (Ob.LyState l) = 2 := by
  rw [Sys.lyNotReady_within h]
  refine ⟨rfl, ?_⟩
  dsimp only
  split
  · rw [Sys.raise_nat_read]
    exact Sys.setInt_nat _ _ 2
  · exact Sys.setInt_nat _ _ 2

/-- A layer beyond its grace is in state 3 and hatched; the first time that is reported. -/
theorem Sys.lyNotReady_stale (h : y.nat (Ob.LyGrace l) ≤ (y.ly l).m) :
    (y.lyNotReady l d s last).1 = some { s.kept (y.ly l) last with hatched := true } ∧ (y.lyNotReady l d s last).2.nat (Ob.LyState l) = 3 ∧
    ((y.ly l).m = y.nat (Ob.LyGrace l) → { code := 0x0D01, die := d, arg := l, t := y.now } ∈ (y.lyNotReady l d s last).2.evs.raised) := by
  have hstate : (((y.lyMissed l).setInt (Ob.LyState l) 3).bump (Ob.LyStaleFrames l) 1).nat (Ob.LyState l) = 3 := by
    refine (congrArg Val.nat (Sys.bump_other _ _ _ _ ?_)).trans (Sys.setInt_nat _ _ 3)
    simp only [Ob.LyState, Ob.LyStaleFrames]
    omega
  rw [Sys.lyNotReady_beyond h]
  dsimp only
  refine ⟨rfl, ?_, fun heq => ?_⟩
  · split
    · rw [Sys.raise_nat_read]
      exact hstate
    · exact hstate
  · rw [if_pos (by omega), Sys.raise_raised]
    exact List.mem_append_right _ (List.mem_singleton.mpr rfl)

/-- What a layer draws that is not ready is of that layer. -/
theorem Sys.lyNotReady_ly : ∀ t ∈ (y.lyNotReady l d s last).1, t.ly = s.ly := by
  intro t ht
  rcases Nat.lt_or_ge (y.ly l).m (y.nat (Ob.LyGrace l)) with hlt | hge
  · rw [(Sys.lyNotReady_grace hlt).1] at ht
    split at ht
    · cases ht
      rfl
    · cases ht
  · rw [(Sys.lyNotReady_stale hge).1] at ht
    cases ht
    rfl

/-- Ready or not, the count of boundaries missed goes on, and no context changes. -/
theorem Sys.lyNotReady_kept : (∀ c, (y.lyNotReady l d s last).2.cx c = y.cx c) ∧ (y.lyNotReady l d s last).2.part = y.part ∧
    ((y.lyNotReady l d s last).2.ly l).m = (y.ly l).m + 1 ∧ (y.lyNotReady l d s last).2.nat (Ob.LyNotReadyFrames l) =
      (y.nat (Ob.LyNotReadyFrames l) + 1) % wrapOf y.part.dies (Ob.LyNotReadyFrames l) := by
  have hset : ∀ i : Int, ((y.lyMissed l).setInt (Ob.LyState l) i).nat (Ob.LyNotReadyFrames l) =
      (y.nat (Ob.LyNotReadyFrames l) + 1) % wrapOf y.part.dies (Ob.LyNotReadyFrames l) := fun i => by
    rw [← Sys.lyMissed_count]
    refine congrArg Val.nat (Sys.setInt_other _ _ _ _ ?_)
    simp only [Ob.LyState, Ob.LyNotReadyFrames]
    omega
  have hcx : ∀ c, (y.lyMissed l).cx c = y.cx c := fun _ => rfl
  have hpart : (y.lyMissed l).part = y.part := rfl
  have hm := Sys.lyMissed_m l y
  rcases Nat.lt_or_ge (y.ly l).m (y.nat (Ob.LyGrace l)) with h | h
  · rw [Sys.lyNotReady_within h]
    have hcount := hset 2
    generalize y.lyMissed l = v at hcx hpart hm hcount ⊢
    dsimp only
    split
    · exact ⟨hcx, hpart, hm, hcount⟩
    · exact ⟨hcx, hpart, hm, hcount⟩
  · have hcount : (((y.lyMissed l).setInt (Ob.LyState l) 3).bump (Ob.LyStaleFrames l) 1).nat (Ob.LyNotReadyFrames l) =
        (y.nat (Ob.LyNotReadyFrames l) + 1) % wrapOf y.part.dies (Ob.LyNotReadyFrames l) := by
      rw [← hset 3]
      refine congrArg Val.nat (Sys.bump_other _ _ _ _ ?_)
      simp only [Ob.LyStaleFrames, Ob.LyNotReadyFrames]
      omega
    rw [Sys.lyNotReady_beyond h]
    generalize y.lyMissed l = v at hcx hpart hm hcount ⊢
    dsimp only
    split
    · exact ⟨hcx, hpart, hm, hcount⟩
    · exact ⟨hcx, hpart, hm, hcount⟩

end

/-! ### The judgement at a boundary -/

/-- The age a layer's drawn frame leaves, when it draws one. -/
def Sys.lyAgedOf (o : Option Shown) (y : Sys) : Sys :=
  match o with
  | some s => y.lyAged s
  | none => y

/-- Noting an age leaves all but one object of the layer. -/
theorem Sys.lyAgedOf_kept {o : Option Shown} {l : Nat} (ho : ∀ s ∈ o, s.ly = l) (y : Sys) : (∀ j, (y.lyAgedOf o).ly j = y.ly j) ∧
    (∀ c, (y.lyAgedOf o).cx c = y.cx c) ∧ (y.lyAgedOf o).evs = y.evs ∧ (y.lyAgedOf o).part = y.part ∧
    ∀ k, k ≠ Ob.LyLastAge l → (y.lyAgedOf o).val k = y.val k := by
  cases o with
  | none => exact ⟨fun _ => rfl, fun _ => rfl, rfl, rfl, fun _ _ => rfl⟩
  | some s =>
    obtain rfl := ho s rfl
    exact Sys.lyAged_kept s y

theorem Sys.isLocked_not {l : Nat} {y : Sys} (htiming : y.nat (Ob.LyTiming l) = 0) : isLocked y.val l = false := by
  have h : ((y.val (Ob.LyTiming l)).nat == 1) = false := by
    rw [show (y.val (Ob.LyTiming l)).nat = 0 from htiming]
    rfl
  unfold isLocked
  rw [h, Bool.and_false]

section

variable {l d : Nat} {b : Int} {y : Sys} (hsource : y.nat (Ob.LySource l) = 1) (htiming : y.nat (Ob.LyTiming l) = 0)
include hsource htiming

/-- A flow layer whose newest complete frame is recent enough is ready with it. -/
theorem Sys.judgeLayer_ready {h : LyFrame} (hbest : newestDone (y.ly l).complete (some b) = some h)
    (hrecent : 0 ≤ tdiff (h.done.getD 0) (b - lyPeriod y.val l - usU (y.nat (Ob.LyLateTol l)))) :
    y.judgeLayer l d b = (some { ly := l, frame := some h }, (y.lyReady l d { ly := l, frame := some h }).2.lyAgedOf (some { ly := l, frame := some h })) := by
  unfold Sys.judgeLayer
  dsimp only
  rw [if_neg (by rw [hsource]; decide), Sys.isLocked_not htiming, if_neg Bool.false_ne_true, hbest]
  dsimp only
  rw [if_pos (decide_eq_true hrecent)]
  rfl

/-- A flow layer with no complete frame is not ready. -/
theorem Sys.judgeLayer_missing (hbest : newestDone (y.ly l).complete (some b) = none) : y.judgeLayer l d b =
    ((y.lyNotReady l d { ly := l } (y.ly l).shown).1,
      (y.lyNotReady l d { ly := l } (y.ly l).shown).2.lyAgedOf (y.lyNotReady l d { ly := l } (y.ly l).shown).1) := by
  unfold Sys.judgeLayer
  dsimp only
  rw [if_neg (by rw [hsource]; decide), Sys.isLocked_not htiming, if_neg Bool.false_ne_true, hbest]
  dsimp only
  rw [if_neg Bool.false_ne_true]
  rfl

end

end Sys2Proof.Machine

/-! PROOFS. Frames of contexts (07; R189, R190, R196, R197): a frame that begins, and a row-locked layer that is judged. -/

namespace Sys2Proof.Machine

/-! ### A frame that begins -/

/-- The layers of a context judged one after the other. -/
def Sys.judgeAll (c : Nat) (b : Int) (ls : List Nat) (y : Sys) : List Shown × Sys :=
  ls.foldl (fun (r : List Shown × Sys) l =>
    let j := r.2.judgeLayer l (c / 4) b
    (r.1 ++ j.1.toList, j.2)) ([], y)

theorem Sys.judgeAll_one (c l : Nat) (b : Int) (y : Sys) :
    y.judgeAll c b [l] = ((y.judgeLayer l (c / 4) b).1.toList, (y.judgeLayer l (c / 4) b).2) := rfl

/-- The frame that begins in a context, its number of frames counted. -/
def Sys.cxNew (c : Nat) (k : Int) (shown : List Shown) (f : Fig) (y : Sys) : CxFrame :=
  { k := k, boundary := f.boundary k, origin := f.boundary k + f.off, count := y.nat (Ob.CxFrameCount c), shown := shown, stale := staleBits shown }

/-- A context that has begun a frame. -/
def Cx.begun (k : Int) (fr : CxFrame) (x : Cx) : Cx :=
  { x with on := true, nextK := k + 1, frames := (x.frames ++ [fr]).drop (x.frames.length - 5) }

theorem Sys.cxBegin_eq (c : Nat) (k : Int) (y : Sys) : ∃ r v, r = y.judgeAll c ((cxFig y.val c).boundary k) (y.drawnOf y.val c) ∧
    v = r.2.bump (Ob.CxFrameCount c) 1 ∧
    y.cxBegin c k = ((v.onCx c (Cx.begun k (v.cxNew c k r.1 (cxFig y.val c)))).holdPics k r.1).cxRelease c :=
  ⟨_, _, rfl, rfl, rfl⟩

theorem List.getLast?_drop_append {α : Type} (l : List α) (a : α) (n : Nat) : ((l ++ [a]).drop (l.length - n)).getLast? = some a := by
  rw [List.drop_append_of_le_length (Nat.sub_le ..), List.getLast?_append]
  rfl

/-- What a context holds behind the boundary of a frame. -/
theorem Sys.cxBegin_frame {c : Nat} {k : Int} {l : List Shown} {y v : Sys}
    (hjudged : y.judgeAll c ((cxFig y.val c).boundary k) (y.drawnOf y.val c) = (l, v)) :
    ∃ fr, ((y.cxBegin c k).cx c).frames.getLast? = some fr ∧ fr.k = k ∧ fr.boundary = (cxFig y.val c).boundary k ∧
      fr.origin = (cxFig y.val c).boundary k + (cxFig y.val c).off ∧ fr.shown = l ∧ fr.count = (y.cxBegin c k).nat (Ob.CxFrameCount c) ∧
      ((y.cxBegin c k).cx c).nextK = k + 1 ∧ ((y.cxBegin c k).cx c).on = true ∧
      (y.cxBegin c k).nat (Ob.CxFrameCount c) = (v.nat (Ob.CxFrameCount c) + 1) % wrapOf v.part.dies (Ob.CxFrameCount c) ∧
      (∀ j, j ≠ Ob.CxFrameCount c → (y.cxBegin c k).val j = v.val j) ∧ (y.cxBegin c k).evs = v.evs ∧
      ∀ j, ((y.cxBegin c k).ly j).m = (v.ly j).m := by
  obtain ⟨r, u, hr, hu, heq⟩ := y.cxBegin_eq c k
  rw [hjudged] at hr
  subst hr
  dsimp only at hu heq
  have hcount : u.nat (Ob.CxFrameCount c) = (v.nat (Ob.CxFrameCount c) + 1) % wrapOf v.part.dies (Ob.CxFrameCount c) := by
    rw [hu]
    exact Sys.bump_nat ..
  have hother : ∀ j, j ≠ Ob.CxFrameCount c → u.val j = v.val j := fun j hj => by
    rw [hu]
    exact Sys.bump_other _ _ _ _ hj
  have hevs : u.evs = v.evs := by
    rw [hu]
    rfl
  have hm : ∀ j, (u.ly j).m = (v.ly j).m := fun j => by
    rw [hu]
    rfl
  clear hu
  have hkept := (((Sys.Composed.refl (u.onCx c (Cx.begun k (u.cxNew c k l (cxFig y.val c))))).holdPics k l).cxRelease c)
  rw [heq]
  generalize (((u.onCx c (Cx.begun k (u.cxNew c k l (cxFig y.val c)))).holdPics k l).cxRelease c) = w at hkept ⊢
  have hval : ∀ j, w.val j = u.val j := fun j => by
    have hlive : w.live = u.live := hkept.live
    have hpart : w.part = u.part := hkept.part
    simp only [Sys.val, hlive, hpart]
  have hnat : w.nat (Ob.CxFrameCount c) = u.nat (Ob.CxFrameCount c) := congrArg Val.nat (hval _)
  refine ⟨u.cxNew c k l (cxFig y.val c), ?_, rfl, rfl, rfl, rfl, hnat.symm, ?_, ?_, hnat.trans hcount, fun j hj => (hval j).trans (hother j hj),
    hkept.evs.trans hevs, fun j => (hkept.m j).trans (hm j)⟩
  · rw [hkept.frames, Sys.onCx_self]
    exact List.getLast?_drop_append _ _ 5
  · rw [hkept.nextK, Sys.onCx_self]
    rfl
  · rw [hkept.on, Sys.onCx_self]
    rfl

/-! ### The boundary of a context with no set that waits -/

section

variable {c : Nat} {y : Sys} (hpend : y.pend = [])
include hpend

theorem Sys.cxDue_none : y.cxDue c = [] := by
  unfold Sys.cxDue
  rw [hpend]
  rfl

theorem Sys.cxBoundary_off (hoff : (y.cx c).on = false) : y.cxBoundary c = y := by
  unfold Sys.cxBoundary
  dsimp only
  rw [if_neg fun h => absurd (hoff.symm.trans h.1) Bool.false_ne_true, if_pos ⟨by rw [hoff]; exact Bool.false_ne_true, Sys.cxDue_none hpend⟩]

omit hpend in
theorem Sys.cxBoundary_waits (hon : (y.cx c).on = true)
    (h : atOrAfter (y.cxNow c) ((cxFig y.val c).boundary (y.cx c).nextK) = false ∨ y.stepWaits (y.cxConsumer c) = true) : y.cxBoundary c = y :=
  if_pos ⟨hon, h.imp (fun hearly => by rw [hearly]; exact Bool.false_ne_true) id⟩

theorem Sys.cxBoundary_begins (hon : (y.cx c).on = true) (hdue : atOrAfter (y.cxNow c) ((cxFig y.val c).boundary (y.cx c).nextK) = true)
    (hfree : y.stepWaits (y.cxConsumer c) = false) (henabled : y.flag (Ob.CxEnable c) = true) :
    y.cxBoundary c = y.cxBegin c (y.cx c).nextK := by
  have hopen : ¬((y.cx c).on = true ∧ (¬atOrAfter (y.cxNow c) ((cxFig y.val c).boundary (y.cx c).nextK) = true ∨
      y.stepWaits (y.cxConsumer c) = true)) := by
    rintro ⟨-, h | h⟩
    · exact h hdue
    · exact absurd (hfree.symm.trans h) Bool.false_ne_true
  unfold Sys.cxBoundary
  dsimp only
  rw [if_neg hopen, Sys.cxDue_none hpend, if_neg fun h => h.1 hon]
  exact (if_neg (not_not.mpr henabled)).trans ((if_pos hon).trans (if_pos rfl))

end

/-! ### The layers of a frame that begins -/

section

variable {c l : Nat} {k b : Int} {y : Sys} (hdrawn : y.drawnOf y.val c = [l]) (hb : b = (cxFig y.val c).boundary k)
  (hsource : y.nat (Ob.LySource l) = 1) (htiming : y.nat (Ob.LyTiming l) = 0)
include hdrawn hb hsource htiming

/-- A ready layer is drawn with its newest frame. -/
theorem Sys.cxBegin_ready {h : LyFrame} (hbest : newestDone (y.ly l).complete (some b) = some h)
    (hrecent : 0 ≤ tdiff (h.done.getD 0) (b - lyPeriod y.val l - usU (y.nat (Ob.LyLateTol l)))) :
    ∃ fr, ((y.cxBegin c k).cx c).frames.getLast? = some fr ∧ fr.shown = [{ ly := l, frame := some h }] ∧
      (y.cxBegin c k).nat (Ob.LyState l) = 1 ∧ ((y.cxBegin c k).ly l).m = 0 ∧
      (0 < (y.ly l).m → (y.cxBegin c k).evs.raised = y.evs.raised ++ [{ code := 0x0D02, die := c / 4, arg := l, t := y.now }]) := by
  subst hb
  obtain ⟨-, -, hm, hstate, hraised⟩ := y.lyReady_kept l (c / 4) { ly := l, frame := some h }
  have hjudge := Sys.judgeLayer_ready (d := c / 4) hsource htiming hbest hrecent
  generalize (y.lyReady l (c / 4) { ly := l, frame := some h }).2 = v at hm hstate hraised hjudge
  obtain ⟨hly, -, hevs, -, hval⟩ := Sys.lyAgedOf_kept (o := some { ly := l, frame := some h }) (l := l) (fun s hs => by cases hs; rfl) v
  obtain ⟨fr, hlast, -, -, -, hshown, -, -, -, -, hother, hevs', hms⟩ := Sys.cxBegin_frame (c := c) (k := k) (y := y)
    ((congrArg _ hdrawn).trans ((Sys.judgeAll_one ..).trans (by rw [hjudge])))
  refine ⟨fr, hlast, hshown, ?_, ?_, fun hpos => ?_⟩
  · refine (congrArg Val.nat ((hother _ ?_).trans (hval _ ?_))).trans hstate
    · simp only [Ob.LyState, Ob.CxFrameCount]
      omega
    · simp only [Ob.LyState, Ob.LyLastAge]
      omega
  · rw [hms, hly, hm]
  · rw [hevs', hevs, hraised hpos]

/-- A layer with nothing to draw anew keeps its content, or is hatched. -/
theorem Sys.cxBegin_missing (hbest : newestDone (y.ly l).complete (some b) = none) :
    ∃ fr, ((y.cxBegin c k).cx c).frames.getLast? = some fr ∧ ((y.cxBegin c k).ly l).m = (y.ly l).m + 1 ∧
      (y.cxBegin c k).nat (Ob.LyNotReadyFrames l) = (y.nat (Ob.LyNotReadyFrames l) + 1) % wrapOf y.part.dies (Ob.LyNotReadyFrames l) ∧
      ((y.ly l).m < y.nat (Ob.LyGrace l) → (y.cxBegin c k).nat (Ob.LyState l) = 2 ∧
        fr.shown = if (y.ly l).content then [{ ly := l, frame := (y.ly l).shown }] else []) ∧
      (y.nat (Ob.LyGrace l) ≤ (y.ly l).m → (y.cxBegin c k).nat (Ob.LyState l) = 3 ∧
        fr.shown = [{ ly := l, frame := if (y.ly l).content then (y.ly l).shown else none, hatched := true }]) ∧
      ((y.ly l).m = y.nat (Ob.LyGrace l) → { code := 0x0D01, die := c / 4, arg := l, t := y.now } ∈ (y.cxBegin c k).evs.raised) := by
  subst hb
  obtain ⟨-, -, hm, hcount⟩ := Sys.lyNotReady_kept (l := l) (d := c / 4) (s := { ly := l }) (last := (y.ly l).shown) (y := y)
  have hgrace := Sys.lyNotReady_grace (l := l) (d := c / 4) (s := { ly := l }) (last := (y.ly l).shown) (y := y)
  have hstale := Sys.lyNotReady_stale (l := l) (d := c / 4) (s := { ly := l }) (last := (y.ly l).shown) (y := y)
  have hjudge := Sys.judgeLayer_missing (d := c / 4) hsource htiming hbest
  have hmine : ∀ s ∈ (y.lyNotReady l (c / 4) { ly := l } (y.ly l).shown).1, s.ly = l := Sys.lyNotReady_ly
  generalize y.lyNotReady l (c / 4) { ly := l } (y.ly l).shown = r at hm hcount hgrace hstale hjudge hmine
  obtain ⟨o, v⟩ := r
  dsimp only at hm hcount hgrace hstale hjudge hmine
  obtain ⟨hly, -, hevs, -, hval⟩ := Sys.lyAgedOf_kept hmine v
  obtain ⟨fr, hlast, -, -, -, hshown, -, -, -, -, hother, hevs', hms⟩ := Sys.cxBegin_frame (c := c) (k := k) (y := y)
    ((congrArg _ hdrawn).trans ((Sys.judgeAll_one ..).trans (by rw [hjudge])))
  have hstate : (y.cxBegin c k).nat (Ob.LyState l) = v.nat (Ob.LyState l) := by
    refine congrArg Val.nat ((hother _ ?_).trans (hval _ ?_))
    · simp only [Ob.LyState, Ob.CxFrameCount]
      omega
    · simp only [Ob.LyState, Ob.LyLastAge]
      omega
  refine ⟨fr, hlast, ?_, ?_, fun hlt => ⟨hstate.trans (hgrace hlt).2, ?_⟩, fun hge => ⟨hstate.trans (hstale hge).2.1, ?_⟩, fun heq => ?_⟩
  · rw [hms, hly, hm]
  · refine (congrArg Val.nat ((hother _ ?_).trans (hval _ ?_))).trans hcount
    · simp only [Ob.LyNotReadyFrames, Ob.CxFrameCount]
      omega
    · simp only [Ob.LyNotReadyFrames, Ob.LyLastAge]
      omega
  · rw [hshown, (hgrace hlt).1, Shown.kept]
    cases (y.ly l).content <;> rfl
  · rw [hshown, (hstale hge).1]
    rfl
  · rw [hevs', hevs]
    exact (hstale (by omega)).2.2 heq

end

/-! ### A row-locked layer (R197) -/

/-- What is drawn of a row-locked layer in the place it had. -/
def CxFrame.judged (l : Nat) (o : Option Shown) (fr : CxFrame) : CxFrame :=
  { fr with shown := fr.shown.flatMap fun s => if s.ly = l then o.toList else [s], stale := fr.stale + staleBits o.toList }

theorem CxFrame.judged_shown {l : Nat} {s t : Shown} {fr : CxFrame} (hs : s ∈ fr.shown) (hl : s.ly = l) : t ∈ (fr.judged l (some t)).shown :=
  List.mem_flatMap.mpr ⟨s, hs, by rw [if_pos hl]; exact List.mem_singleton.mpr rfl⟩

/-- A frame changed where its number stands. -/
theorem Sys.onCxFrame_mem {c : Nat} {fr : CxFrame} {g : CxFrame → CxFrame} {y : Sys} (h : fr ∈ (y.cx c).frames) :
    g fr ∈ ((y.onCxFrame c fr.k g).cx c).frames := by
  unfold Sys.onCxFrame
  rw [Sys.onCx_self]
  exact List.mem_map.mpr ⟨fr, h, if_pos rfl⟩

section

variable {l c : Nat} {fr : CxFrame} {y : Sys} (hc : c = y.nat (Ob.LyContext l))
  (hfind : (y.cx c).frames.find? (fun fr => fr.shown.any fun x => x.ly == l && x.locked == 1) = some fr)
include hc hfind

theorem Sys.rowLocked_early (h : atOrAfter (y.cxFrameNow c fr) (fr.origin + (cxFig (y.cxSet fr) c).slotEnd 0 + usU 8) = false) :
    y.rowLocked l = y := by
  subst hc
  unfold Sys.rowLocked
  dsimp only
  rw [hfind]
  exact if_neg (by rw [h]; exact Bool.false_ne_true)

variable (hdue : atOrAfter (y.cxFrameNow c fr) (fr.origin + (cxFig (y.cxSet fr) c).slotEnd 0 + usU 8) = true)
include hdue

theorem Sys.rowLocked_ready {h : LyFrame} (hrow : (y.ly l).frames.find? (fun g => g.k == fr.k && g.row0) = some h) : y.rowLocked l =
    ((y.lyReady l (c / 4) { ly := l, frame := some h, locked := 2 }).2.lyAgedOf (some { ly := l, frame := some h, locked := 2 })).onCxFrame c fr.k
      (CxFrame.judged l (some { ly := l, frame := some h, locked := 2 })) := by
  subst hc
  unfold Sys.rowLocked
  dsimp only
  rw [hfind]
  refine (if_pos hdue).trans ?_
  rw [hrow]
  rfl

theorem Sys.rowLocked_missing (hrow : (y.ly l).frames.find? (fun g => g.k == fr.k && g.row0) = none) : ∃ last o v,
    y.lyNotReady l (c / 4) { ly := l, locked := 3 } last = (o, v) ∧ y.rowLocked l = (v.lyAgedOf o).onCxFrame c fr.k (CxFrame.judged l o) := by
  subst hc
  refine ⟨newestDone (y.ly l).frames none, _, _, rfl, ?_⟩
  unfold Sys.rowLocked
  dsimp only
  rw [hfind]
  refine (if_pos hdue).trans ?_
  rw [hrow]
  rfl

/-- With row 0 of the frame received the layer is ready. -/
theorem Sys.rowLocked_drawn {h : LyFrame} (hrow : (y.ly l).frames.find? (fun g => g.k == fr.k && g.row0) = some h) :
    ∃ gr, gr ∈ ((y.rowLocked l).cx c).frames ∧ gr.k = fr.k ∧ { ly := l, frame := some h, locked := 2 } ∈ gr.shown ∧
      (y.rowLocked l).nat (Ob.LyState l) = 1 ∧ ((y.rowLocked l).ly l).m = 0 := by
  obtain ⟨hcx, -, hm, hstate, -⟩ := y.lyReady_kept l (c / 4) { ly := l, frame := some h, locked := 2 }
  rw [Sys.rowLocked_ready hc hfind hdue hrow]
  generalize (y.lyReady l (c / 4) { ly := l, frame := some h, locked := 2 }).2 = v at hcx hm hstate ⊢
  obtain ⟨hly, hcx', -, -, hval⟩ := Sys.lyAgedOf_kept (o := some { ly := l, frame := some h, locked := 2 }) (l := l) (fun s hs => by cases hs; rfl) v
  generalize v.lyAgedOf (some { ly := l, frame := some h, locked := 2 }) = u at hly hcx' hval ⊢
  obtain ⟨s, hs, hsl⟩ := List.any_eq_true.mp (List.find?_some (p := fun fr : CxFrame => fr.shown.any fun x => x.ly == l && x.locked == 1) hfind)
  rw [Bool.and_eq_true] at hsl
  refine ⟨fr.judged l (some { ly := l, frame := some h, locked := 2 }), Sys.onCxFrame_mem ?_, rfl, CxFrame.judged_shown hs (eq_of_beq hsl.1), ?_, ?_⟩
  · rw [hcx', hcx]
    exact List.mem_of_find?_eq_some hfind
  · rw [← hstate]
    refine congrArg Val.nat (hval (Ob.LyState l) ?_)
    simp only [Ob.LyState, Ob.LyLastAge]
    omega
  · rw [← hm, ← hly]
    rfl

/-- Without it the layer is not ready. -/
theorem Sys.rowLocked_undrawn (hrow : (y.ly l).frames.find? (fun g => g.k == fr.k && g.row0) = none) :
    ((y.rowLocked l).ly l).m = (y.ly l).m + 1 ∧
    (y.rowLocked l).nat (Ob.LyNotReadyFrames l) = (y.nat (Ob.LyNotReadyFrames l) + 1) % wrapOf y.part.dies (Ob.LyNotReadyFrames l) := by
  obtain ⟨last, o, v, hmiss, heq⟩ := Sys.rowLocked_missing hc hfind hdue hrow
  obtain ⟨-, -, hm, hcount⟩ := Sys.lyNotReady_kept (l := l) (d := c / 4) (s := { ly := l, locked := 3 }) (last := last) (y := y)
  have hmine := Sys.lyNotReady_ly (l := l) (d := c / 4) (s := { ly := l, locked := 3 }) (last := last) (y := y)
  rw [hmiss] at hm hcount hmine
  dsimp only at hm hcount
  obtain ⟨hly, -, -, -, hval⟩ := Sys.lyAgedOf_kept hmine v
  rw [heq]
  generalize v.lyAgedOf o = u at hly hval ⊢
  refine ⟨?_, ?_⟩
  · rw [← hm, ← hly]
    rfl
  · rw [← hcount]
    refine congrArg Val.nat (hval (Ob.LyNotReadyFrames l) ?_)
    simp only [Ob.LyNotReadyFrames, Ob.LyLastAge]
    omega

end

end Sys2Proof.Machine

/-! PROOFS. Lines of contexts (07; R191, R192): what a line deadline sends, counts and marks. -/

namespace Sys2Proof.Machine

/-! ### Stale bits (R192, R210) -/

/-- A bit that is set is set, and the others stay. -/
theorem bit_setBits (v i j : Nat) : bit (setBits v i i 1) j = (decide (j = i) || bit v j) := by
  have hv : v = 2 ^ i * (v / 2 ^ i) + v % 2 ^ i := (Nat.div_add_mod v (2 ^ i)).symm
  have hset : setBits v i i 1 = 2 ^ i * (2 * (v / 2 ^ i / 2) + 1) + v % 2 ^ i := by
    have hone : i + 1 - i = 1 := by omega
    have hparts : v = 2 ^ i * (2 * (v / 2 ^ i / 2)) + 2 ^ i * (v / 2 ^ i % 2) + v % 2 ^ i := by
      rw [← Nat.mul_add, Nat.div_add_mod, Nat.div_add_mod]
    unfold setBits bits
    rw [hone, pow_one, Nat.mul_comm (v / 2 ^ i % 2), Nat.mul_add]
    omega
  have hlow : v % 2 ^ i < 2 ^ i := Nat.mod_lt _ (Nat.two_pow_pos i)
  show decide _ = (decide (j = i) || decide _)
  rw [← Nat.testBit_eq_decide_div_mod_eq, ← Nat.testBit_eq_decide_div_mod_eq, hset, Nat.testBit_two_pow_mul_add _ hlow]
  conv_rhs => rw [hv, Nat.testBit_two_pow_mul_add _ hlow]
  rcases Nat.lt_trichotomy j i with h | rfl | h
  · rw [if_pos h, if_pos h, decide_eq_false (Nat.ne_of_lt h), Bool.false_or]
  · rw [if_neg (Nat.lt_irrefl j), Nat.sub_self, decide_eq_true rfl, Bool.true_or, Nat.testBit_zero]
    exact decide_eq_true (by omega)
  · obtain ⟨k, hk⟩ : ∃ k, j - i = k + 1 := ⟨j - i - 1, by omega⟩
    have hhalf : (2 * (v / 2 ^ i / 2) + 1) / 2 = v / 2 ^ i / 2 := by omega
    rw [if_neg (by omega), if_neg (by omega), hk, Nat.testBit_succ, Nat.testBit_succ, hhalf, decide_eq_false (Nat.ne_of_gt h), Bool.false_or]

theorem bit_foldl_setBits (l : List Nat) (v j : Nat) :
    bit (l.foldl (fun v i => setBits v (i % 16) (i % 16) 1) v) j = (bit v j || l.any fun i => decide (j = i % 16)) := by
  induction l generalizing v with
  | nil => rw [List.foldl_nil, List.any_nil, Bool.or_false]
  | cons i l ih => rw [List.foldl_cons, ih, bit_setBits, List.any_cons, Bool.or_comm (decide _), Bool.or_assoc]

/-! ### A line that is due -/

/-- The pixels of a line that were not composed. -/
def lostPixels (f : Fig) (lost : List (Nat × Nat)) : List Nat := (List.range f.wd).filter (lostAt lost)

/-- The stale bits of a frame behind a line: a layer that is drawn over a pixel lost has lost it. -/
def CxFrame.staleBehind (g : Nat → Val) (f : Fig) (line : Nat) (lost : List (Nat × Nat)) (fr : CxFrame) : Nat :=
  ((fr.shown.map fun s => s.ly).filter fun l => (lostPixels f lost).any fun x => insideDst g l x line).foldl
    (fun v l => setBits v (l % 16) (l % 16) 1) fr.stale

/-- A frame that has sent a line. -/
def CxFrame.lined (line : Nat) (late : Bool) (stale : Nat) (fr : CxFrame) : CxFrame :=
  { fr with next := line + 1, late := fr.late || late, stale := stale }

/-- A line that lost pixels is counted, and reported once in a frame. -/
def Sys.lineCounted (c : Nat) (late was : Bool) (y : Sys) : Sys :=
  if late ∧ ¬was then (if late then y.bump (Ob.CxLateLines c) 1 else y).raise 0x0D06 (c / 4) c
  else if late then y.bump (Ob.CxLateLines c) 1 else y

theorem Sys.lineCounted_kept (c : Nat) (late was : Bool) (y : Sys) :
    (y.lineCounted c late was).out = y.out ∧ (∀ n, (y.lineCounted c late was).cx n = y.cx n) ∧ ∀ l, (y.lineCounted c late was).ly l = y.ly l := by
  unfold Sys.lineCounted
  cases late with
  | false => exact ⟨rfl, fun _ => rfl, fun _ => rfl⟩
  | true =>
    cases was with
    | false => exact ⟨rfl, fun _ => rfl, fun _ => rfl⟩
    | true => exact ⟨rfl, fun _ => rfl, fun _ => rfl⟩

theorem Sys.lineCounted_whole (c : Nat) (was : Bool) (y : Sys) : y.lineCounted c false was = y := rfl

theorem Sys.lineCounted_late (c : Nat) (was : Bool) (y : Sys) : (y.lineCounted c true was).part = y.part ∧
    (y.lineCounted c true was).nat (Ob.CxLateLines c) = (y.nat (Ob.CxLateLines c) + 1) % wrapOf y.part.dies (Ob.CxLateLines c) ∧
    (was = false → (y.lineCounted c true was).evs.raised = y.evs.raised ++ [{ code := 0x0D06, die := c / 4, arg := c, t := y.now }]) := by
  have hbump := Sys.bump_nat y (Ob.CxLateLines c) 1
  cases was with
  | false =>
    have hcounted : y.lineCounted c true false = (y.bump (Ob.CxLateLines c) 1).raise 0x0D06 (c / 4) c := rfl
    rw [hcounted]
    refine ⟨rfl, (Sys.raise_nat_read ..).trans hbump, fun _ => ?_⟩
    rw [Sys.raise_raised]
    rfl
  | true =>
    have hcounted : y.lineCounted c true true = y.bump (Ob.CxLateLines c) 1 := rfl
    rw [hcounted]
    exact ⟨rfl, hbump, fun h => absurd h (by decide)⟩

/-- A line leaves with its samples, and its context counts packets. -/
theorem Sys.deliverLine_kept (c : Nat) (fr : CxFrame) (line : Nat) (px : List (Nat × Nat × Nat)) (y : Sys) :
    (y.deliverLine c fr line px).live = y.live ∧ (y.deliverLine c fr line px).evs = y.evs ∧ (y.deliverLine c fr line px).part = y.part ∧
    (y.deliverLine c fr line px).out = y.out ++ [.line c line px] ∧ ((y.deliverLine c fr line px).cx c).frames = (y.cx c).frames := by
  have hdelivered : ∃ (u : Sys) (n : Nat), y.Composed u ∧ y.deliverLine c fr line px = (u.onCx c fun x => { x with seq := (x.seq + n) % 2 ^ 32 }).emit (.line c line px) := by
    refine ⟨_, _, ?_, rfl⟩
    refine Sys.Composed.each (Sys.Composed.each (Sys.Composed.refl y) fun n w hw => ?_) fun l w hw => ?_
    · exact hw.onFrame n fr.k _
    · exact hw.each fun k v hv => hv.reserve l.port k
  obtain ⟨u, n, hu, heq⟩ := hdelivered
  rw [heq]
  refine ⟨hu.live, hu.evs, hu.part, ?_, ?_⟩
  · show u.out ++ _ = _
    rw [hu.out]
  · rw [Sys.emit_cx_read, Sys.onCx_self]
    exact hu.frames c

/-! ### The line deadline -/

section

variable {c : Nat} {lost : List (Nat × Nat)} {fr : CxFrame} {y : Sys} (hfind : (y.cx c).frames.find? (y.cxOpen c) = some fr)
include hfind

theorem Sys.lineDeadline_early (h : atOrAfter (y.cxFrameNow c fr) (fr.origin + dueAt (cxFig (y.cxSet fr) c).wd (cxFig (y.cxSet fr) c).ht
      (cxFig (y.cxSet fr) c).rn (cxFig (y.cxSet fr) c).rd fr.next ((cxFig (y.cxSet fr) c).wd - 1) + usU 14) = false) :
    y.lineDeadline c fr.next lost = y := by
  unfold Sys.lineDeadline
  rw [hfind, Option.filter_some, if_pos (beq_self_eq_true _)]
  exact if_pos (by rw [h]; exact Bool.false_ne_true)

variable (hdue : atOrAfter (y.cxFrameNow c fr) (fr.origin + dueAt (cxFig (y.cxSet fr) c).wd (cxFig (y.cxSet fr) c).ht
  (cxFig (y.cxSet fr) c).rn (cxFig (y.cxSet fr) c).rd fr.next ((cxFig (y.cxSet fr) c).wd - 1) + usU 14) = true)
include hdue

/-- The line that is due, in its stages. -/
theorem Sys.lineDeadline_due : ∃ (late : Bool) (stale : Nat) (z : Sys), late = !(lostPixels (cxFig (y.cxSet fr) c) lost).isEmpty ∧
    stale = fr.staleBehind (y.cxSet fr) (cxFig (y.cxSet fr) c) fr.next lost ∧
    z = (y.lineCounted c late fr.late).onCxFrame c fr.k (CxFrame.lined fr.next late stale) ∧
    ∃ w, w = z.deliverLine c fr fr.next (composeLine (y.cxSet fr) c (z.cxPick fr) fr lost fr.next) ∧
      y.lineDeadline c fr.next lost = (if fr.next + 1 = (cxFig (y.cxSet fr) c).ht then w.dropPics c fr.k else w).cxRelease c := by
  refine ⟨_, _, _, rfl, rfl, rfl, _, rfl, ?_⟩
  unfold Sys.lineDeadline
  rw [hfind, Option.filter_some, if_pos (beq_self_eq_true _)]
  exact if_neg (not_not.mpr hdue)

end

/-- What the pixels drawn of a layer depend on. -/
theorem Sys.cxPick_congr {y z : Sys} (h : ∀ l, z.ly l = y.ly l) (fr : CxFrame) : z.cxPick fr = y.cxPick fr := by
  funext s
  unfold Sys.cxPick
  rw [h]

theorem CxFrame.staleBehind_bit {g : Nat → Val} {f : Fig} {line x : Nat} {lost : List (Nat × Nat)} {fr : CxFrame} {sh : Shown} (hsh : sh ∈ fr.shown)
    (hx : x < f.wd) (hlost : lostAt lost x = true) (hin : insideDst g sh.ly x line = true) :
    bit (fr.staleBehind g f line lost) (sh.ly % 16) = true := by
  have hhit : sh.ly ∈ (fr.shown.map fun s => s.ly).filter fun l => (lostPixels f lost).any fun x => insideDst g l x line :=
    List.mem_filter.mpr ⟨List.mem_map.mpr ⟨sh, hsh, rfl⟩,
      List.any_eq_true.mpr ⟨x, List.mem_filter.mpr ⟨List.mem_range.mpr hx, hlost⟩, hin⟩⟩
  unfold CxFrame.staleBehind
  rw [bit_foldl_setBits, Bool.or_eq_true]
  exact Or.inr (List.any_eq_true.mpr ⟨sh.ly, hhit, decide_eq_true rfl⟩)

theorem lostPixels_none {f : Fig} {lost : List (Nat × Nat)} (h : ∀ x < f.wd, lostAt lost x = false) : lostPixels f lost = [] :=
  List.filter_eq_nil_iff.mpr fun x hx => by rw [h x (List.mem_range.mp hx)]; exact Bool.false_ne_true

theorem lostPixels_some {f : Fig} {lost : List (Nat × Nat)} (h : ∃ x < f.wd, lostAt lost x = true) : (!(lostPixels f lost).isEmpty) = true := by
  obtain ⟨x, hx, hlost⟩ := h
  have hmem : x ∈ lostPixels f lost := List.mem_filter.mpr ⟨List.mem_range.mpr hx, hlost⟩
  rw [Bool.not_eq_true', List.isEmpty_eq_false_iff]
  exact List.ne_nil_of_mem hmem

/-- What sending a line does to a context whose frame, counters and layers are those of `v`. -/
theorem Sys.lineSent_kept {v : Sys} {c line : Nat} {fr : CxFrame} {late : Bool} {stale : Nat} {px : List (Nat × Nat × Nat)} {p : Prop} [Decidable p]
    {z u w : Sys} (hz : z = v.onCxFrame c fr.k (CxFrame.lined line late stale)) (hu : u = z.deliverLine c fr line px)
    (hw : w = (if p then u.dropPics c fr.k else u).cxRelease c) (hmem : fr ∈ (v.cx c).frames) :
    w.out = v.out ++ [.line c line px] ∧ fr.lined line late stale ∈ (w.cx c).frames ∧ w.live = v.live ∧ w.evs = v.evs ∧ w.part = v.part := by
  obtain ⟨hlive, hevs, hpart, hout, hframes⟩ := Sys.deliverLine_kept c fr line px z
  have hkept : u.Composed w := by
    rw [hw]
    refine Sys.Composed.cxRelease ?_ c
    split
    · exact (Sys.Composed.refl u).dropPics c fr.k
    · exact Sys.Composed.refl u
  have hlined : fr.lined line late stale ∈ (z.cx c).frames := by
    rw [hz]
    exact Sys.onCxFrame_mem hmem
  have hzv : z.out = v.out ∧ z.live = v.live ∧ z.evs = v.evs ∧ z.part = v.part := by
    rw [hz]
    exact ⟨rfl, rfl, rfl, rfl⟩
  obtain ⟨h1, h2, h3, h4⟩ := hzv
  rw [← hu] at hlive hevs hpart hout hframes
  refine ⟨?_, ?_, hkept.live.trans (hlive.trans h2), hkept.evs.trans (hevs.trans h3), hkept.part.trans (hpart.trans h4)⟩
  · rw [hkept.out, hout, h1]
  · rw [hkept.frames, hframes]
    exact hlined

section

variable {c : Nat} {lost : List (Nat × Nat)} {fr : CxFrame} {y : Sys} (hfind : (y.cx c).frames.find? (y.cxOpen c) = some fr)
  (hdue : atOrAfter (y.cxFrameNow c fr) (fr.origin + dueAt (cxFig (y.cxSet fr) c).wd (cxFig (y.cxSet fr) c).ht
    (cxFig (y.cxSet fr) c).rn (cxFig (y.cxSet fr) c).rd fr.next ((cxFig (y.cxSet fr) c).wd - 1) + usU 14) = true)
include hfind hdue

/-- The line leaves as composed, its frame goes on by a line, and pixels lost are counted, reported and marked. -/
theorem Sys.lineDeadline_sent : ∃ w gr, y.lineDeadline c fr.next lost = w ∧
    w.out = y.out ++ [.line c fr.next (composeLine (y.cxSet fr) c (y.cxPick fr) fr lost fr.next)] ∧
    gr ∈ (w.cx c).frames ∧ gr.k = fr.k ∧ gr.next = fr.next + 1 ∧
    (∀ sh ∈ fr.shown, ∀ x < (cxFig (y.cxSet fr) c).wd, lostAt lost x = true → insideDst (y.cxSet fr) sh.ly x fr.next = true →
      bit gr.stale (sh.ly % 16) = true) ∧
    ((∀ x < (cxFig (y.cxSet fr) c).wd, lostAt lost x = false) → w.live = y.live ∧ w.evs = y.evs) ∧
    ((∃ x < (cxFig (y.cxSet fr) c).wd, lostAt lost x = true) →
      w.nat (Ob.CxLateLines c) = (y.nat (Ob.CxLateLines c) + 1) % wrapOf y.part.dies (Ob.CxLateLines c) ∧
      (fr.late = false → w.evs.raised = y.evs.raised ++ [{ code := 0x0D06, die := c / 4, arg := c, t := y.now }])) := by
  obtain ⟨late, stale, z, hlate, hstale, hz, u, hu, heq⟩ := Sys.lineDeadline_due (lost := lost) hfind hdue
  obtain ⟨hvout, hvcx, hvly⟩ := y.lineCounted_kept c late fr.late
  have hwhole := y.lineCounted_whole c fr.late
  obtain ⟨hlpart, hlcount, hlraised⟩ := y.lineCounted_late c fr.late
  have hpick : z.cxPick fr = y.cxPick fr := Sys.cxPick_congr (fun l => by rw [hz]; exact hvly l) fr
  have hmem : fr ∈ ((y.lineCounted c late fr.late).cx c).frames := by
    rw [hvcx]
    exact List.mem_of_find?_eq_some hfind
  obtain ⟨hout, hgr, hlive, hevs, hpart⟩ := Sys.lineSent_kept hz hu heq hmem
  rw [hpick, hvout] at hout
  refine ⟨_, _, rfl, hout, hgr, rfl, rfl, fun sh hsh x hx hl hin => ?_, fun hnone => ?_, fun hsome => ?_⟩
  · show bit stale _ = true
    rw [hstale]
    exact CxFrame.staleBehind_bit hsh hx hl hin
  · have hfalse : late = false := by
      rw [hlate, lostPixels_none hnone]
      rfl
    subst hfalse
    rw [hlive, hevs, hwhole]
    exact ⟨rfl, rfl⟩
  · have htrue : late = true := hlate.trans (lostPixels_some hsome)
    subst htrue
    rw [Sys.nat_of_live hpart hlive, hevs]
    exact ⟨hlcount, hlraised⟩

end

end Sys2Proof.Machine

/-! PROOFS. A context that a commit enables (07; R211, R216), and the contexts as a whole. -/

namespace Sys2Proof.Machine

/-! ### What layers and frames leave to their context -/

/-- `z` is `y` to a context `c`: the same sets wait, the same values below the layers' objects but for its count of frames, and no event is
gone. -/
structure Sys.CxKept (c : Nat) (y z : Sys) : Prop where
  pend : z.pend = y.pend
  part : z.part = y.part
  now : z.now = y.now
  val : ∀ k, k < 0x310000 → k ≠ Ob.CxFrameCount c → z.val k = y.val k
  evs : ∀ e ∈ y.evs.raised, e ∈ z.evs.raised

namespace Sys.CxKept

variable {c : Nat} {y z : Sys}

theorem refl (y : Sys) : y.CxKept c y := ⟨rfl, rfl, rfl, fun _ _ _ => rfl, fun _ h => h⟩

theorem setInt (h : y.CxKept c z) {k : Nat} (hk : 0x310000 ≤ k ∨ k = Ob.CxFrameCount c) (i : Int) : y.CxKept c (z.setInt k i) :=
  ⟨h.pend, h.part, h.now, fun j hj hne => (Sys.setInt_other _ _ _ _ (by rintro rfl; rcases hk with hk | hk <;> omega)).trans (h.val j hj hne), h.evs⟩

theorem bump (h : y.CxKept c z) {k : Nat} (hk : 0x310000 ≤ k ∨ k = Ob.CxFrameCount c) (m : Nat) : y.CxKept c (z.bump k m) := by
  unfold Sys.bump
  exact h.setInt hk _

theorem setLy (h : y.CxKept c z) (l : Nat) (x : Ly) : y.CxKept c (z.setLy l x) := ⟨h.pend, h.part, h.now, h.val, h.evs⟩

theorem onLy (h : y.CxKept c z) (l : Nat) (f : Ly → Ly) : y.CxKept c (z.onLy l f) := h.setLy l _

theorem setCx (h : y.CxKept c z) (n : Nat) (x : Cx) : y.CxKept c (z.setCx n x) := ⟨h.pend, h.part, h.now, h.val, h.evs⟩

theorem onCx (h : y.CxKept c z) (n : Nat) (f : Cx → Cx) : y.CxKept c (z.onCx n f) := h.setCx n _

theorem raise (h : y.CxKept c z) (code die arg : Nat) : y.CxKept c (z.raise code die arg) :=
  ⟨h.pend, h.part, h.now, h.val, fun e he => List.mem_append_left _ (h.evs e he)⟩

theorem dropRuns (h : y.CxKept c z) (d own : Nat) : y.CxKept c (z.dropRuns d own) := ⟨h.pend, h.part, h.now, h.val, h.evs⟩

theorem switchView (h : y.CxKept c z) (b : Nat) (w : Consumer) : y.CxKept c (z.switchView b w) := ⟨h.pend, h.part, h.now, h.val, h.evs⟩

theorem addQueue (h : y.CxKept c z) (p : Nat) (o : Consumer) (k cls : Nat) (timed : Bool) (w : Nat) :
    y.CxKept c (z.addQueue p o k cls timed w) := ⟨h.pend, h.part, h.now, h.val, h.evs⟩

theorem dropQueues (h : y.CxKept c z) (keep : Queue → Bool) : y.CxKept c (z.dropQueues keep) := ⟨h.pend, h.part, h.now, h.val, h.evs⟩

theorem each {α : Type} {l : List α} {f : α → Sys → Sys} (h : y.CxKept c z) (hf : ∀ a w, y.CxKept c w → y.CxKept c (f a w)) :
    y.CxKept c (z.each l f) := Sys.each_invariant (I := fun w => y.CxKept c w) hf h

theorem lyRelease (h : y.CxKept c z) (d : Nat) (gone : Nat → Bool) : y.CxKept c (z.lyRelease d gone) := by
  refine h.each fun i w hw => ?_
  dsimp only
  split
  · exact hw
  · exact (hw.each fun e v hv => hv.dropRuns d e.1).setLy i _

theorem cxRelease (h : y.CxKept c z) (n : Nat) : y.CxKept c (z.cxRelease n) := by
  have hrelease := h.lyRelease (n / 4) fun h => h == 1
  unfold Sys.cxRelease
  generalize (z.lyRelease (n / 4) fun h => h == 1) = v at hrelease ⊢
  dsimp only
  split <;> split
  · exact hrelease
  · exact h
  · exact hrelease
  · exact h

theorem holdPics (h : y.CxKept c z) (k : Int) (l : List Shown) : y.CxKept c (z.holdPics k l) := by
  refine h.each fun s w hw => ?_
  cases s.frame with
  | none => exact hw
  | some f =>
    dsimp only
    split
    · exact hw.onLy _ _
    · exact hw

theorem lyAged (h : y.CxKept c z) (s : Shown) : y.CxKept c (z.lyAged s) := by
  unfold Sys.lyAged
  split
  · exact h.setInt (Or.inl (by simp only [Ob.LyLastAge]; omega)) _
  · exact h

theorem lyReady (h : y.CxKept c z) (l d : Nat) (s : Shown) : y.CxKept c (z.lyReady l d s).2 := by
  have hstate := (h.onLy l fun x => { x with m := 0, content := true, shown := s.frame }).setInt (k := Ob.LyState l)
    (Or.inl (by simp only [Ob.LyState]; omega)) 1
  unfold Sys.lyReady
  dsimp only
  split
  · exact hstate.raise _ _ _
  · exact hstate

theorem lyNotReady (h : y.CxKept c z) (l d : Nat) (s : Shown) (last : Option LyFrame) : y.CxKept c (z.lyNotReady l d s last).2 := by
  have hmissed : y.CxKept c (z.lyMissed l) := (h.setLy l _).bump (Or.inl (by simp only [Ob.LyNotReadyFrames]; omega)) 1
  have hstate : ∀ i, y.CxKept c ((z.lyMissed l).setInt (Ob.LyState l) i) := fun i => hmissed.setInt (Or.inl (by simp only [Ob.LyState]; omega)) i
  have hstale := (hstate 3).bump (k := Ob.LyStaleFrames l) (Or.inl (by simp only [Ob.LyStaleFrames]; omega)) 1
  rcases Nat.lt_or_ge (z.ly l).m (z.nat (Ob.LyGrace l)) with hlt | hge
  · rw [Sys.lyNotReady_within hlt]
    dsimp only
    split
    · exact (hstate 2).raise _ _ _
    · exact hstate 2
  · rw [Sys.lyNotReady_beyond hge]
    dsimp only
    split
    · exact hstale.raise _ _ _
    · exact hstale

theorem lyAgedOf (h : y.CxKept c z) (o : Option Shown) : y.CxKept c (z.lyAgedOf o) := by
  cases o with
  | none => exact h
  | some s => exact h.lyAged s

end Sys.CxKept

/-- The three ways to judge a layer. -/
theorem Sys.judgeLayer_cases (l d : Nat) (b : Int) (y : Sys) : (∃ s, (y.judgeLayer l d b).2 = (y.lyReady l d s).2) ∨ (y.judgeLayer l d b).2 = y ∨
    (∃ s o, (y.judgeLayer l d b).2 = (y.lyReady l d s).2.lyAgedOf o) ∨
    ∃ last o, (y.judgeLayer l d b).2 = (y.lyNotReady l d { ly := l } last).2.lyAgedOf o := by
  unfold Sys.judgeLayer
  dsimp only
  split
  · exact Or.inl ⟨_, rfl⟩
  · split
    · exact Or.inr (Or.inl rfl)
    · have hmiss : ∃ last o, ((y.lyNotReady l d { ly := l } (y.ly l).shown).2.lyAgedOf (y.lyNotReady l d { ly := l } (y.ly l).shown).1) =
          (y.lyNotReady l d { ly := l } last).2.lyAgedOf o := ⟨_, _, rfl⟩
      split
      · split
        · exact Or.inr (Or.inr (Or.inl ⟨_, some _, rfl⟩))
        · exact Or.inr (Or.inr (Or.inr hmiss))
      · exact Or.inr (Or.inr (Or.inr hmiss))

namespace Sys.CxKept

variable {c : Nat} {y z : Sys}

theorem judgeLayer (h : y.CxKept c z) (l d : Nat) (b : Int) : y.CxKept c (z.judgeLayer l d b).2 := by
  rcases z.judgeLayer_cases l d b with ⟨s, heq⟩ | heq | ⟨s, o, heq⟩ | ⟨last, o, heq⟩
  · rw [heq]
    exact h.lyReady l d s
  · rw [heq]
    exact h
  · rw [heq]
    exact (h.lyReady l d s).lyAgedOf o
  · rw [heq]
    exact (h.lyNotReady l d _ last).lyAgedOf o

theorem judgeAll (h : y.CxKept c z) (n : Nat) (b : Int) (ls : List Nat) : y.CxKept c (z.judgeAll n b ls).2 := by
  suffices hfold : ∀ r : List Shown × Sys, y.CxKept c r.2 → y.CxKept c (ls.foldl (fun (r : List Shown × Sys) l =>
      let j := r.2.judgeLayer l (n / 4) b
      (r.1 ++ j.1.toList, j.2)) r).2 from hfold ([], z) h
  induction ls with
  | nil => exact fun _ hr => hr
  | cons l ls ih => exact fun r hr => ih _ (hr.judgeLayer l _ b)

theorem cxBegin (h : y.CxKept c z) (k : Int) : y.CxKept c (z.cxBegin c k) := by
  obtain ⟨r, v, hr, hv, heq⟩ := z.cxBegin_eq c k
  have hjudged : y.CxKept c r.2 := by
    rw [hr]
    exact h.judgeAll c _ _
  have hcounted : y.CxKept c v := by
    rw [hv]
    exact hjudged.bump (Or.inr rfl) 1
  rw [heq]
  exact ((hcounted.onCx c _).holdPics k r.1).cxRelease c

end Sys.CxKept

/-! ### A set that enables a context (R216) -/

namespace Sys.CxKept

variable {c : Nat} {y z : Sys}

theorem lyTakeOver (h : y.CxKept c z) (l n no : Nat) : y.CxKept c (z.lyTakeOver l n no) := h.onLy l _

theorem keepLocked (h : y.CxKept c z) (n : Nat) (mine : Nat → Bool) : y.CxKept c (z.keepLocked n mine) := by
  unfold Sys.keepLocked
  dsimp only
  exact h.onCx n _

theorem lyAnew (h : y.CxKept c z) (n l : Nat) : y.CxKept c (z.lyAnew n l) := by
  have hset : ∀ (w : Sys) (x : Ly) (i : Int), y.CxKept c w → y.CxKept c (((w.setLy l x).setInt (Ob.DecState l) i).setInt (Ob.DecStopCause l) 0) :=
    fun w x i hw => ((hw.setLy l x).setInt (Or.inl (by simp only [Ob.DecState]; omega)) i).setInt (Or.inl (by simp only [Ob.DecStopCause]; omega)) 0
  have hlocked := h.keepLocked n fun k => k == l
  unfold Sys.lyAnew
  generalize (z.keepLocked n fun k => k == l) = v at hlocked ⊢
  dsimp only
  split
  · exact (hset _ _ _ hlocked).setInt (Or.inl (by simp only [Ob.DecPicsDecoded]; omega)) _
  · exact hset _ _ _ hlocked

theorem lyStatus (h : y.CxKept c z) (l n : Nat) (drawn : Bool) : y.CxKept c (z.lyStatus l n drawn) := by
  have hset : ∀ (w : Sys) (i j k : Int), y.CxKept c w →
      y.CxKept c (((w.setInt (Ob.LyScalersUsed l) i).setInt (Ob.LyLineBufNeed l) j).setInt (Ob.LyStoreBytes l) k) :=
    fun w i j k hw => ((hw.setInt (Or.inl (by simp only [Ob.LyScalersUsed]; omega)) i).setInt
      (Or.inl (by simp only [Ob.LyLineBufNeed]; omega)) j).setInt (Or.inl (by simp only [Ob.LyStoreBytes]; omega)) k
  unfold Sys.lyStatus
  dsimp only
  split
  · exact hset _ _ _ _ h
  · exact (hset _ _ _ _ h).setInt (Or.inl (by simp only [Ob.LyState]; omega)) 0

theorem cxQueues (h : y.CxKept c z) (n : Nat) : y.CxKept c (z.cxQueues n) := by
  unfold Sys.cxQueues
  dsimp only
  split
  · exact h
  · exact (h.dropQueues _).each fun l w hw => hw.addQueue _ _ _ _ _ _

theorem cxRestart (h : y.CxKept c z) (late : Int) : y.CxKept c (z.cxRestart c late) := by
  have hviews : y.CxKept c (z.each (List.range 8) fun b y => y.switchView b (.cx c)) := h.each fun b w hw => hw.switchView b _
  unfold Sys.cxRestart
  generalize (z.each (List.range 8) fun b y => y.switchView b (.cx c)) = v at hviews ⊢
  dsimp only
  split
  · exact hviews.cxBegin _
  · exact hviews.onCx c _

end Sys.CxKept

/-- A context that restarts is on. -/
theorem Sys.cxRestart_on (c : Nat) (late : Int) (y : Sys) : ((y.cxRestart c late).cx c).on = true := by
  unfold Sys.cxRestart
  generalize (y.each (List.range 8) fun b y => y.switchView b (.cx c)) = v
  dsimp only
  split
  · obtain ⟨-, -, -, -, -, -, -, -, hon, -⟩ := Sys.cxBegin_frame (y := v) (c := c) (l := (v.judgeAll c _ _).1) (v := (v.judgeAll c _ _).2) rfl
    exact hon
  · rw [Sys.onCx_self]

/-- A context whose set of one object stands. -/
def Sys.cxEnabled (c : Nat) (f : Cx → Cx) (y : Sys) : Sys :=
  ((({ y with pend := [] } : Sys).onCx c f).setVal (Ob.CxEnable c) (.int 1)).setShadow (Ob.CxEnable c)
    ((({ y with pend := [] } : Sys).onCx c f).shadowVal (Ob.CxEnable c))

theorem Sys.cxEnabled_pend (c : Nat) (f : Cx → Cx) (y : Sys) : (y.cxEnabled c f).pend = [] := rfl

theorem Sys.cxEnabled_flag (c : Nat) (f : Cx → Cx) (y : Sys) : (y.cxEnabled c f).nat (Ob.CxEnable c) = 1 := by
  rw [Sys.cxEnabled, Sys.setShadow_nat_read]
  exact congrArg Val.nat (Sys.setVal_self ..)

theorem Sys.cxEnabled_other {c k : Nat} (h : k ≠ Ob.CxEnable c) (f : Cx → Cx) (y : Sys) : (y.cxEnabled c f).nat k = y.nat k := by
  rw [Sys.cxEnabled, Sys.setShadow_nat_read]
  exact congrArg Val.nat (Sys.setVal_other _ _ _ _ h)

theorem Sys.cxEnabled_part (c : Nat) (f : Cx → Cx) (y : Sys) : (y.cxEnabled c f).part = y.part := rfl

theorem Sys.cxEnabled_now (c : Nat) (f : Cx → Cx) (y : Sys) : (y.cxEnabled c f).now = y.now := rfl

/-- A layer of a context whose set applies. -/
def Sys.cxLayer (c no : Nat) (changed : Tab Val) (drawn : List Nat) (l : Nat) (y : Sys) : Sys :=
  (if changed.any fun e => namesSource l e.1 then (y.lyTakeOver l c no).lyAnew c l else y.lyTakeOver l c no).lyStatus l c (drawn.contains l)

theorem Sys.CxKept.cxLayer {c : Nat} {y z : Sys} (h : y.CxKept c z) (no : Nat) (changed : Tab Val) (drawn : List Nat) (l : Nat) :
    y.CxKept c (z.cxLayer c no changed drawn l) := by
  refine Sys.CxKept.lyStatus ?_ _ _ _
  split
  · exact (h.lyTakeOver _ _ _).lyAnew _ _
  · exact h.lyTakeOver _ _ _

/-- A set that has applied is counted and reported, and with no other the commit is over. -/
def Sys.cxApplied (c : Nat) (q : Pend) (y : Sys) : Sys :=
  (if y.pend.any fun p => p.key == q.key then (y.bump (Ob.CxCommitCount c) 1).raise 0x0D03 (c / 4) c
    else ((y.bump (Ob.CxCommitCount c) 1).raise 0x0D03 (c / 4) c).setInt (Ob.CxCommitState c) 0).cxQueues c

theorem Sys.cxApply_eq (c : Nat) (q : Pend) (y : Sys) : ∃ pend f all no changed drawn,
    pend = y.pend.filter (fun p => !(p.key == q.key && p.at_ == q.at_ && p.seq == q.seq)) ∧
    y.cxApply c q = ((((({ y with pend := pend } : Sys).onCx c f).applySet q.set).each all (Sys.cxLayer c no changed drawn)).cxApplied c q) :=
  ⟨_, _, _, _, _, _, rfl, rfl⟩

section

variable {c : Nat} {q : Pend} {y : Sys} (hpend : y.pend = [q]) (hset : q.set = [(Ob.CxEnable c, .int 1)])
include hpend hset

/-- A set that enables a context applies: behind the layers' work it is counted and reported. -/
theorem Sys.cxApply_enables : ∃ f v, (y.cxEnabled c f).CxKept c v ∧ y.cxApply c q = v.cxApplied c q := by
  obtain ⟨pend, f, all, no, changed, drawn, hrest, heq⟩ := y.cxApply_eq c q
  have hnone : pend = [] := by
    rw [hrest, hpend]
    refine List.filter_eq_nil_iff.mpr fun p hp => ?_
    rw [List.mem_singleton.mp hp, beq_self_eq_true, beq_self_eq_true, beq_self_eq_true]
    exact Bool.false_ne_true
  rw [hset, hnone] at heq
  exact ⟨f, _, Sys.CxKept.each (Sys.CxKept.refl (y.cxEnabled c f)) fun l w hw => hw.cxLayer no changed drawn l, heq⟩

end

/-- A commit that is over is counted and reported. -/
def Sys.cxCommitted (c : Nat) (y : Sys) : Sys := ((y.bump (Ob.CxCommitCount c) 1).raise 0x0D03 (c / 4) c).setInt (Ob.CxCommitState c) 0

theorem Sys.cxCommitted_pend (c : Nat) (y : Sys) : (y.cxCommitted c).pend = y.pend := rfl

theorem Sys.cxCommitted_other {c k : Nat} (hcount : k ≠ Ob.CxCommitCount c) (hstate : k ≠ Ob.CxCommitState c) (y : Sys) :
    (y.cxCommitted c).nat k = y.nat k := by
  unfold Sys.cxCommitted
  refine (congrArg Val.nat (Sys.setInt_other _ _ _ _ hstate)).trans ?_
  exact congrArg Val.nat (Sys.bump_other y _ 1 _ hcount)

theorem Sys.cxCommitted_state (c : Nat) (y : Sys) : (y.cxCommitted c).nat (Ob.CxCommitState c) = 0 := Sys.setInt_nat _ _ 0

theorem Sys.cxCommitted_count (c : Nat) (y : Sys) :
    (y.cxCommitted c).nat (Ob.CxCommitCount c) = (y.nat (Ob.CxCommitCount c) + 1) % wrapOf y.part.dies (Ob.CxCommitCount c) := by
  have hne : Ob.CxCommitCount c ≠ Ob.CxCommitState c := by
    simp only [Ob.CxCommitCount, Ob.CxCommitState]
    omega
  unfold Sys.cxCommitted
  refine (congrArg Val.nat (Sys.setInt_other _ _ _ _ hne)).trans ?_
  exact Sys.bump_nat y _ 1

theorem Sys.cxCommitted_raised (c : Nat) (y : Sys) :
    { code := 0x0D03, die := c / 4, arg := c, t := y.now } ∈ (y.cxCommitted c).evs.raised := by
  unfold Sys.cxCommitted
  rw [Sys.setInt_evs, Sys.raise_raised]
  exact List.mem_append_right _ (List.mem_singleton.mpr rfl)

/-- With no other set of the context the commit is over. -/
theorem Sys.cxApplied_none {c : Nat} {q : Pend} {v : Sys} (hpend : v.pend = []) : v.cxApplied c q = (v.cxCommitted c).cxQueues c := by
  unfold Sys.cxApplied
  rw [hpend]
  rfl

/-- What a commit that enables its context leaves, behind work that keeps it. -/
theorem Sys.cxCommitted_enabled {c : Nat} {f : Cx → Cx} {y v w : Sys} (hc : c < 32) (hkept : (y.cxEnabled c f).CxKept c v)
    (hthen : (v.cxCommitted c).CxKept c w) :
    w.pend = [] ∧ w.nat (Ob.CxEnable c) = 1 ∧ w.nat (Ob.CxCommitState c) = 0 ∧
    w.nat (Ob.CxCommitCount c) = (y.nat (Ob.CxCommitCount c) + 1) % wrapOf y.part.dies (Ob.CxCommitCount c) ∧
    { code := 0x0D03, die := c / 4, arg := c, t := y.now } ∈ w.evs.raised := by
  have hlow : ∀ k, k < 0x310000 → k ≠ Ob.CxFrameCount c → v.nat k = (y.cxEnabled c f).nat k := fun k h h' => congrArg Val.nat (hkept.val k h h')
  have hread : ∀ k, k < 0x310000 → k ≠ Ob.CxFrameCount c → w.nat k = (v.cxCommitted c).nat k := fun k h h' => congrArg Val.nat (hthen.val k h h')
  refine ⟨hthen.pend.trans hkept.pend, ?_, ?_, ?_, ?_⟩
  · rw [hread _ (by simp only [Ob.CxEnable]; omega) (by simp only [Ob.CxEnable, Ob.CxFrameCount]; omega),
      Sys.cxCommitted_other (by simp only [Ob.CxEnable, Ob.CxCommitCount]; omega) (by simp only [Ob.CxEnable, Ob.CxCommitState]; omega),
      hlow _ (by simp only [Ob.CxEnable]; omega) (by simp only [Ob.CxEnable, Ob.CxFrameCount]; omega), Sys.cxEnabled_flag]
  · rw [hread _ (by simp only [Ob.CxCommitState]; omega) (by simp only [Ob.CxCommitState, Ob.CxFrameCount]; omega), Sys.cxCommitted_state]
  · rw [hread _ (by simp only [Ob.CxCommitCount]; omega) (by simp only [Ob.CxCommitCount, Ob.CxFrameCount]; omega), Sys.cxCommitted_count,
      hlow _ (by simp only [Ob.CxCommitCount]; omega) (by simp only [Ob.CxCommitCount, Ob.CxFrameCount]; omega),
      Sys.cxEnabled_other (by simp only [Ob.CxCommitCount, Ob.CxEnable]; omega), hkept.part, Sys.cxEnabled_part]
  · refine hthen.evs _ ?_
    have hnow : v.now = y.now := hkept.now
    rw [← hnow]
    exact Sys.cxCommitted_raised c v

section

variable {c : Nat} {q : Pend} {y : Sys} (hc : c < 32) (hoff : (y.cx c).on = false) (hpend : y.pend = [q]) (hkey : q.key = Ob.CxCommit c)
  (hset : q.set = [(Ob.CxEnable c, .int 1)]) (hdue : atOrAfter (y.cxNow c) q.at_ = true)
include hc hoff hpend hkey hset hdue

omit hc hset in
theorem Sys.cxDue_one : y.cxDue c = [q] := by
  unfold Sys.cxDue
  dsimp only
  rw [hpend, hoff]
  refine List.filter_eq_self.mpr fun p hp => ?_
  rw [List.mem_singleton.mp hp, hkey, beq_self_eq_true, Bool.true_and]
  exact hdue

/-- The boundary of a context whose set enables it. -/
theorem Sys.cxBoundary_enables : ∃ f v late, (y.cxEnabled c f).CxKept c v ∧
    y.cxBoundary c = ((((((v.cxCommitted c).cxQueues c).onCx c fun x => { x with seq := ((v.cxCommitted c).cxQueues c).freeNow % 2 ^ 32 }).fresh.setInt
      (Ob.CxFrameCount c) 0).cxRestart c late).powerAll) := by
  obtain ⟨f, v, hkept, heq⟩ := Sys.cxApply_enables hpend hset
  rw [Sys.cxApplied_none hkept.pend] at heq
  have henabled := (Sys.cxCommitted_enabled hc hkept ((Sys.CxKept.refl (v.cxCommitted c)).cxQueues c)).2.1
  have hnotoff : ¬¬((v.cxCommitted c).cxQueues c).flag (Ob.CxEnable c) = true := not_not.mpr (decide_eq_true henabled)
  refine ⟨f, v, y.cxNow c - q.at_, hkept, ?_⟩
  unfold Sys.cxBoundary
  dsimp only
  rw [if_neg fun h => absurd (hoff.symm.trans h.1) Bool.false_ne_true, Sys.cxDue_one hoff hpend hkey hdue,
    if_neg fun h => List.cons_ne_nil q [] h.2, Sys.each_cons, Sys.each_nil, heq, if_neg hnotoff, if_neg (by rw [hoff]; exact Bool.false_ne_true)]
  rfl

/-- A context whose set enables it is on, and its commit is over. -/
theorem Sys.cxBoundary_enabled : ((y.cxBoundary c).cx c).on = true ∧ (y.cxBoundary c).flag (Ob.CxEnable c) = true ∧ (y.cxBoundary c).pend = [] ∧
    (y.cxBoundary c).nat (Ob.CxCommitState c) = 0 ∧
    { code := 0x0D03, die := c / 4, arg := c, t := y.now } ∈ (y.cxBoundary c).evs.raised ∧
    (y.cxBoundary c).nat (Ob.CxCommitCount c) = (y.nat (Ob.CxCommitCount c) + 1) % wrapOf y.part.dies (Ob.CxCommitCount c) := by
  obtain ⟨f, v, late, hkept, heq⟩ := Sys.cxBoundary_enables hc hoff hpend hkey hset hdue
  have hqueues := (Sys.CxKept.refl (c := c) (v.cxCommitted c)).cxQueues c
  rw [heq]
  generalize (v.cxCommitted c).cxQueues c = u at hqueues ⊢
  have hfresh : (v.cxCommitted c).CxKept c ((u.onCx c fun x => { x with seq := u.freeNow % 2 ^ 32 }).fresh) :=
    ⟨hqueues.pend, hqueues.part, hqueues.now, hqueues.val, hqueues.evs⟩
  generalize (u.onCx c fun x => { x with seq := u.freeNow % 2 ^ 32 }).fresh = t at hfresh ⊢
  have hrestart := (hfresh.setInt (Or.inr rfl) 0).cxRestart late
  have hon := Sys.cxRestart_on c late (t.setInt (Ob.CxFrameCount c) 0)
  generalize (t.setInt (Ob.CxFrameCount c) 0).cxRestart c late = r at hrestart hon ⊢
  obtain ⟨ds, hds⟩ := r.powerAll_eq
  have hpower : (v.cxCommitted c).CxKept c r.powerAll := by
    rw [hds]
    exact ⟨hrestart.pend, hrestart.part, hrestart.now, hrestart.val, hrestart.evs⟩
  obtain ⟨h1, h2, h3, h4, h5⟩ := Sys.cxCommitted_enabled hc hkept hpower
  refine ⟨?_, decide_eq_true h2, h1, h3, h5, h4⟩
  rw [hds]
  exact hon

end

/-! ### The settled statement -/

/-- The frame that begins in a context that draws nothing. -/
theorem Sys.cxBegin_empty {c : Nat} {y : Sys} (k : Int) (hdrawn : y.drawnOf y.val c = []) :
    ∃ fr, ((y.cxBegin c k).cx c).frames.getLast? = some fr ∧ fr.k = k ∧ fr.boundary = (cxFig y.val c).boundary k ∧
      fr.origin = (cxFig y.val c).boundary k + (cxFig y.val c).off ∧ fr.shown = [] ∧ ((y.cxBegin c k).cx c).nextK = k + 1 ∧
      fr.count = (y.cxBegin c k).nat (Ob.CxFrameCount c) ∧
      (y.cxBegin c k).nat (Ob.CxFrameCount c) = (y.nat (Ob.CxFrameCount c) + 1) % wrapOf y.part.dies (Ob.CxFrameCount c) ∧
      (∀ j, j ≠ Ob.CxFrameCount c → (y.cxBegin c k).val j = y.val j) ∧ (y.cxBegin c k).evs = y.evs := by
  obtain ⟨fr, hlast, hk, hb, ho, hshown, hcount, hnext, -, hnat, hother, hevs, -⟩ :=
    Sys.cxBegin_frame (c := c) (k := k) (y := y) (l := []) (v := y) (congrArg _ hdrawn)
  exact ⟨fr, hlast, hk, hb, ho, hshown, hnext, hcount, hnat, hother, hevs⟩

/-- Settles O55: the boundary of a context that is on, off, or enabled, a row-locked judgement, and a line, each by its own case. -/
theorem contextsCompose : Obligations.ContextsCompose := by
  unfold Obligations.ContextsCompose
  refine ⟨fun dt c x f b y s _ hy hx hf hb hpend => ?boundary, fun dt c q y s hc hy hoff hpend hkey hset hdue _ => ?enable,
    fun dt l c fr f y s hy hc hfind hf => ?locked, fun dt c lost fr f y s hy hfind hf => ?line⟩
  case boundary =>
    subst hx hf hb
    refine ⟨fun hoff => act_done ((congrArg _ hy.symm).trans (Sys.cxBoundary_off hpend hoff)),
      fun hon hwait => act_done ((congrArg _ hy.symm).trans (Sys.cxBoundary_waits hon hwait)), fun hon hdue hfree henabled => ?_⟩
    have hdoes : Does (.contextFrameBoundary dt c) s (y.cxBegin c (y.cx c).nextK) :=
      act_done ((congrArg _ hy.symm).trans (Sys.cxBoundary_begins hpend hon hdue hfree henabled))
    refine ⟨fun hdrawn => ?_, fun l hdrawn hsource htiming => ⟨fun h hbest hrecent => ?_, fun hbest => ?_⟩⟩
    · obtain ⟨fr, hfr⟩ := Sys.cxBegin_empty (y.cx c).nextK hdrawn
      exact ⟨_, fr, hdoes, hfr⟩
    · obtain ⟨fr, hfr⟩ := Sys.cxBegin_ready hdrawn rfl hsource htiming hbest hrecent
      exact ⟨_, fr, hdoes, hfr⟩
    · obtain ⟨fr, hfr⟩ := Sys.cxBegin_missing hdrawn rfl hsource htiming hbest
      exact ⟨_, fr, hdoes, hfr⟩
  case enable =>
    exact ⟨_, act_done (congrArg _ hy.symm), Sys.cxBoundary_enabled hc hoff hpend hkey hset hdue⟩
  case locked =>
    subst hf
    refine ⟨fun hearly => act_done ((congrArg _ hy.symm).trans (Sys.rowLocked_early hc hfind hearly)), fun hdue => ⟨fun h hrow => ?_, fun hrow => ?_⟩⟩
    · obtain ⟨gr, hgr⟩ := Sys.rowLocked_drawn hc hfind hdue hrow
      exact ⟨_, gr, act_done (congrArg _ hy.symm), hgr⟩
    · exact ⟨_, act_done (congrArg _ hy.symm), Sys.rowLocked_undrawn hc hfind hdue hrow⟩
  case line =>
    subst hf
    refine ⟨fun hearly => act_done ((congrArg _ hy.symm).trans (Sys.lineDeadline_early hfind hearly)), fun hdue => ?_⟩
    obtain ⟨w, gr, hw, hrest⟩ := Sys.lineDeadline_sent (lost := lost) hfind hdue
    exact ⟨w, gr, act_done ((congrArg _ hy.symm).trans hw), hrest⟩

end Sys2Proof.Machine
